-- ==== Sys2Proof/Word.lean ====
section
/-!
DEFINITION. Sys2Proof/Word.lean: the plain word types of the Quabry module model, and the one shape in
which the model holds sparse data: a list of key and value pairs.
-/
namespace Sys2Proof

/-- A byte of any memory of the module (00 R12). -/
abbrev Byte := BitVec 8

/-- A 32-bit lane value of the kettle and a wort entry. -/
abbrev Word32 := BitVec 32

/-- A 64-bit scalar of the kettle. -/
abbrev Word64 := BitVec 64

/-- A 128-bit instruction word (03 R111). -/
abbrev InstrWord := BitVec 128

/-- The value of a control register: the widest register of the map is 256 bits (19 R757). -/
abbrev RegWord := BitVec 256

/-- Sparse data: keys strictly rising, no entry equal to what an unlisted key reads as. -/
abbrev SMap (α : Type) := List (Nat × α)

end Sys2Proof
end

