-- ==== Sys2Proof/Syntax.lean ====
section
/-!
DEFINITION. Sys2Proof/Syntax.lean: the commands the module takes, one constructor per row of the command table, and who may
access a control register.
-/
namespace Sys2Proof

/-- A requester of control-register accesses (19 R758): firmware on a Maltster core, the bond monitor, a kettle core, the
physical function, or the virtual function of a partition. -/
inductive Requester where
  | firmware (core : Nat)
  | bond
  | kettle (d k : Nat)
  | pf
  | vf (p : Nat)
  deriving DecidableEq, Repr

/-- What the slot that ends carried on its link: payload bytes sent, and whether it was cut short by a retry, a retrain or maintenance
(10 R430). -/
structure SlotUse where
  sent : Nat
  cut : Bool
  deriving DecidableEq, Repr

/-- A control flit as the decoder gives it, with the symbol errors among the 514 data symbols and the 30 parity symbols of the codeword
that starts in it (13 R544). -/
structure LineFlit where
  bytes : List Byte
  dataErrs : Nat
  parErrs : Nat
  deriving DecidableEq, Repr

/-- The symbol errors of the codeword. -/
def LineFlit.errs (fl : LineFlit) : Nat := fl.dataErrs + fl.parErrs

/-- Where a register read goes: its offset in the die's register space, and its width in bytes (19 R757). -/
structure RegRead where
  off : Nat
  width : Nat
  deriving DecidableEq, Repr

/-- What a lane did (13 R551): it lost lock, or had n symbols corrected in 1 ms. -/
inductive LaneFault where
  | lostLock
  | corrected (n : Nat)
  deriving DecidableEq, Repr

/-- The fault takes the lane's direction into RETRAIN. -/
def LaneFault.retrains : LaneFault → Bool
  | .lostLock => true
  | .corrected n => decide (800 < n)

/-- The commands: one constructor per row of spec/opcode_table.json. Operand names: d die, v vat, c die context number
(10 R401), k kettle core, qu rack queue, p partition, f host function (0 the PF, k + 1 the VF of partition k), i a port, ledger or
island of the die, t slot table, tag job tag, q requester. -/
inductive Instr where
  -- vat and ring
  /-- STEEP, R116. -/
  | steep (d : Nat) (c : Nat)
  /-- MASH, R124. -/
  | mash (d : Nat) (c : Nat)
  /-- DRAW, R130. -/
  | draw (d : Nat) (c : Nat)
  /-- SKIP, R131. -/
  | skip (d : Nat) (c : Nat)
  /-- TALLY_REPORT, R134. -/
  | tallyReport (d : Nat) (c : Nat)
  /-- TALLY_RESCAN, R136. -/
  | tallyRescan (d : Nat) (c : Nat)
  /-- STEEP_ROW_COMMIT, R71. -/
  | steepRowCommit (d : Nat) (v : Nat)
  /-- TALLY_ENTRY_COMMIT, R72. -/
  | tallyEntryCommit (d : Nat) (v : Nat)
  /-- GRIST_ROW_RELEASE, R71. -/
  | gristRowRelease (d : Nat) (v : Nat) (r : Nat)
  /-- TALLY_ENTRY_RELEASE, R71. -/
  | tallyEntryRelease (d : Nat) (v : Nat)
  /-- PASS_BIND, R67. -/
  | passBind (d : Nat) (v : Nat)
  /-- INJECT_BEAT, R79. -/
  | injectBeat (d : Nat)
  /-- BEAT_ENTER_VAT, R87. -/
  | beatEnterVat (d : Nat) (v : Nat)
  /-- BEAT_SEND, R78. -/
  | beatSend (d : Nat) (v : Nat)
  /-- CREDIT_RETURN_ARRIVE, R89. -/
  | creditReturnArrive (d : Nat) (l : Nat)
  /-- BRIDGE_BEAT_SEND, R83. -/
  | bridgeBeatSend (d : Nat)
  /-- BRIDGE_BEAT_LAND, R644. -/
  | bridgeBeatLand (d : Nat)
  /-- WORT_WRITE, R92. -/
  | wortWrite (d : Nat) (v : Nat) (r : Nat)
  /-- TALLY_CHECK, R98. -/
  | tallyCheck (d : Nat) (v : Nat)
  /-- DRAW_ROW_READ, R93. -/
  | drawRowRead (d : Nat) (v : Nat)
  /-- VAT_INSTRUCTION_COMPLETE, R109. -/
  | vatInstructionComplete (d : Nat) (v : Nat)
  /-- VAT_ABORT_NOTICE, R100. -/
  | vatAbortNotice (d : Nat) (v : Nat) (tag : Nat)
  /-- VAT_ABORT_DRAIN_END, R100. -/
  | vatAbortDrainEnd (d : Nat) (v : Nat)
  /-- LONG_MODE_SWITCH, R86. -/
  | longModeSwitch
  -- hydrometer and scale control
  /-- HYD_SNAP, R188. -/
  | hydSnap (q : Requester) (d : Nat) (p : Nat) (set : Nat)
  /-- KSC_APPLIED, R205. -/
  | kscApplied (q : Requester) (d : Nat) (p : Nat)
  /-- KSC_SKIPPED, R205. -/
  | kscSkipped (q : Requester) (d : Nat) (p : Nat)
  -- kettle
  /-- FADD, R519. -/
  | fadd (d : Nat) (c : Nat)
  /-- FMUL, R519. -/
  | fmul (d : Nat) (c : Nat)
  /-- FFMA, R523. -/
  | ffma (d : Nat) (c : Nat)
  /-- FMAX, R523. -/
  | fmax (d : Nat) (c : Nat)
  /-- FMIN, R523. -/
  | fmin (d : Nat) (c : Nat)
  /-- FSEL, R519. -/
  | fsel (d : Nat) (c : Nat)
  /-- FCMP, R520. -/
  | fcmp (d : Nat) (c : Nat)
  /-- FSPEC, R523. -/
  | fspec (d : Nat) (c : Nat)
  /-- FRED, R523. -/
  | fred (d : Nat) (c : Nat)
  /-- IADD, R519. -/
  | iadd (d : Nat) (c : Nat)
  /-- ISUB, R519. -/
  | isub (d : Nat) (c : Nat)
  /-- IMUL, R519. -/
  | imul (d : Nat) (c : Nat)
  /-- ILOG, R520. -/
  | ilog (d : Nat) (c : Nat)
  /-- MOV, R520. -/
  | mov (d : Nat) (c : Nat)
  /-- CVT, R524. -/
  | cvt (d : Nat) (c : Nat)
  /-- DROP, R527. -/
  | drop (d : Nat) (c : Nat)
  /-- RAND, R527. -/
  | rand (d : Nat) (c : Nat)
  /-- MUPD, R526. -/
  | mupd (d : Nat) (c : Nat)
  /-- LD, R521. -/
  | ld (d : Nat) (c : Nat)
  /-- ST, R521. -/
  | st (d : Nat) (c : Nat)
  /-- LDC, R514. -/
  | ldc (d : Nat) (c : Nat)
  /-- STC, R514. -/
  | stc (d : Nat) (c : Nat)
  /-- KPUSH, R530. -/
  | kpush (d : Nat) (c : Nat)
  /-- PACK24, R528. -/
  | pack24 (d : Nat) (c : Nat)
  /-- TOPK, R529. -/
  | topk (d : Nat) (c : Nat)
  /-- SCUPD, R525. -/
  | scupd (d : Nat) (c : Nat)
  /-- SALU, R520. -/
  | salu (d : Nat) (c : Nat)
  /-- SLI, R520. -/
  | sli (d : Nat) (c : Nat)
  /-- BR, R520. -/
  | br (d : Nat) (c : Nat)
  /-- LOOP, R520. -/
  | loop (d : Nat) (c : Nat)
  /-- KETTLE_GROUP_COMPLETE, R514. -/
  | kettleGroupComplete (d : Nat) (k : Nat)
  /-- ACCUMULATE_UNIT, R517. -/
  | accumulateUnit (d : Nat) (k : Nat)
  -- threads
  /-- POST, R418. -/
  | post (d : Nat) (c : Nat)
  /-- WAIT, R419. -/
  | wait (d : Nat) (c : Nat)
  /-- WAIT_RELEASE, R414. -/
  | waitRelease (d : Nat) (c : Nat)
  /-- FENCE, R420. -/
  | fence (d : Nat) (c : Nat)
  /-- FENCE_SATISFIED, R420. -/
  | fenceSatisfied (d : Nat) (c : Nat)
  /-- SPAWN, R421. -/
  | spawn (d : Nat) (c : Nat)
  /-- YIELD, R411. -/
  | yield (d : Nat) (c : Nat)
  /-- END, R422. -/
  | end_ (d : Nat) (c : Nat)
  /-- INSTRUCTION_FETCH, R407. -/
  | instructionFetch (d : Nat) (c : Nat)
  /-- CONTEXT_IMAGE_UPDATE, R405. -/
  | contextImageUpdate (d : Nat) (c : Nat) (us : Nat)
  /-- WATCHDOG_FIRE, R435. -/
  | watchdogFire (d : Nat) (kind : Nat) (x : Nat) (ms : Nat)
  -- racking engine
  /-- RACK, R362. -/
  | rack (d : Nat) (c : Nat)
  /-- TURN, R362. -/
  | turn (d : Nat) (c : Nat)
  /-- GATHER, R298. -/
  | gather (d : Nat) (c : Nat)
  /-- SCATTER, R299. -/
  | scatter (d : Nat) (c : Nat)
  /-- SCATTER_ADD, R300. -/
  | scatterAdd (d : Nat) (c : Nat)
  /-- SCATTER_DISPATCH, R383. -/
  | scatterDispatch (d : Nat) (c : Nat)
  /-- SCATTER_SLOT_MAP, R384. -/
  | scatterSlotMap (d : Nat) (c : Nat)
  /-- STASH, R375. -/
  | stash (d : Nat) (c : Nat)
  /-- UNSTASH, R377. -/
  | unstash (d : Nat) (c : Nat)
  /-- RACK_REQUEST_ISSUE, R353. -/
  | rackRequestIssue (d : Nat) (qu : Nat)
  /-- RACK_REQUEST_COMPLETE, R354. -/
  | rackRequestComplete (d : Nat) (qu : Nat) (n : Nat)
  /-- RACK_INSTRUCTION_COMPLETE, R354. -/
  | rackInstructionComplete (d : Nat) (qu : Nat) (n : Nat)
  /-- STREAM_TILE_READY, R361. -/
  | streamTileReady (d : Nat) (qu : Nat)
  /-- STREAM_GATE_OPEN, R364. -/
  | streamGateOpen (d : Nat) (qu : Nat)
  /-- REGULATOR_REFILL, R366. -/
  | regulatorRefill (d : Nat)
  /-- TRACKER_ENTRY_WAIT_END, R368. -/
  | trackerEntryWaitEnd (d : Nat) (qu : Nat)
  /-- RACKING_ABORT_NOTICE, R390. -/
  | rackingAbortNotice (d : Nat) (tag : Nat)
  /-- RACKING_DRAIN_REPORT, R390. -/
  | rackingDrainReport (d : Nat) (tag : Nat)
  /-- HOST_COMPLETION, R387. -/
  | hostCompletion (d : Nat) (qu : Nat) (ok : Bool)
  /-- HOST_COMPLETION_TIMEOUT, R587. -/
  | hostCompletionTimeout (d : Nat) (qu : Nat) (us : Nat)
  /-- LEDGER_ARM, R283. -/
  | ledgerArm (d : Nat) (i : Nat)
  /-- LEDGER_COMMITTING, R287. -/
  | ledgerCommitting (d : Nat) (i : Nat)
  /-- LEDGER_CLOSE, R288. -/
  | ledgerClose (d : Nat) (i : Nat)
  -- tun
  /-- POUR, R466. -/
  | pour (d : Nat) (c : Nat)
  /-- POUR_REGISTER, R463. -/
  | pourRegister (d : Nat) (src : Nat)
  /-- POUR_COMPLETE, R465. -/
  | pourComplete (d : Nat) (p : Nat) (sl : Nat) (n : Nat)
  /-- COLLECT, R471. -/
  | collect (d : Nat) (c : Nat)
  /-- CHUNK_SEND, R472. -/
  | chunkSend (d : Nat) (p : Nat) (sl : Nat)
  /-- CHUNK_RELEASE, R481. -/
  | chunkRelease (d : Nat) (p : Nat) (sl : Nat)
  /-- COLLECT_COMPLETE, R470. -/
  | collectComplete (d : Nat) (p : Nat) (sl : Nat)
  /-- TUN_ABORT_NOTICE, R495. -/
  | tunAbortNotice (d : Nat) (tag : Nat)
  /-- TUN_DRAIN_REPORT, R495. -/
  | tunDrainReport (d : Nat) (tag : Nat)
  -- slots, jobs, reliability
  /-- SLOT_START, R430. -/
  | slotStart (d : Nat) (t : Nat) (use : SlotUse)
  /-- EPOCH_BOUNDARY, R431. -/
  | epochBoundary (d : Nat)
  /-- SLOT_SWAP, R448. -/
  | slotSwap (d : Nat) (t : Nat)
  /-- JOB_FAULT, R436. -/
  | jobFault
  /-- JOB_DRAIN_COMPLETE, R436. -/
  | jobDrainComplete (tag : Nat)
  /-- JOB_NORMAL_END, R612. -/
  | jobNormalEnd (tag : Nat)
  /-- POISON_CONSUMED, R640. -/
  | poisonConsumed
  /-- PATROL_SCRUB, R636. -/
  | patrolScrub (d : Nat) (cw : Nat)
  /-- INOC_ARM, R659. -/
  | inocArm (q : Requester) (d : Nat)
  /-- INOC_DISARM, R661. -/
  | inocDisarm (q : Requester) (d : Nat)
  /-- INOC_FIRE, R661. -/
  | inocFire (d : Nat)
  -- QLink
  /-- FLIT_SEND, R565. -/
  | flitSend (d : Nat) (i : Nat)
  /-- FLIT_RECEIVE, R555. -/
  | flitReceive (d : Nat) (i : Nat) (fl : List Byte) (dataErrs : Nat) (parErrs : Nat)
  /-- IDLE, R548. -/
  | idle (d : Nat) (i : Nat) (fl : LineFlit)
  /-- NAK, R556. -/
  | nak (d : Nat) (i : Nat) (fl : LineFlit)
  /-- NAK_RESEND, R556. -/
  | nakResend (d : Nat) (i : Nat) (us : Nat)
  /-- RETRY_LIMIT, R556. -/
  | retryLimit (d : Nat) (i : Nat) (us : Nat)
  /-- IDENT, R550. -/
  | ident (d : Nat) (i : Nat) (fl : LineFlit)
  /-- LANESTAT, R548. -/
  | lanestat (d : Nat) (i : Nat) (fl : LineFlit)
  /-- TRAIN_COMPLETE, R550. -/
  | trainComplete (d : Nat) (i : Nat) (gt : Nat) (gr : Nat)
  /-- TRAIN_TIMEOUT, R549. -/
  | trainTimeout (d : Nat) (i : Nat) (us : Nat)
  /-- DOWN_RETRAIN_TIMER, R549. -/
  | downRetrainTimer (d : Nat) (i : Nat) (us : Nat)
  /-- LANE_ERROR_RETRAIN, R551. -/
  | laneErrorRetrain (d : Nat) (i : Nat) (tx : Bool) (lane : Nat) (fault : LaneFault)
  /-- RETRAIN_RESULT, R551. -/
  | retrainResult (d : Nat) (i : Nat) (tx : Bool) (ok : Bool) (good : Nat) (us : Nat)
  /-- PORT_DOWN, R554. -/
  | portDown (d : Nat) (i : Nat)
  /-- QLINK_CABLE_MATE, R549. -/
  | qlinkCableMate (d : Nat) (i : Nat)
  /-- QLINK_CABLE_UNMATE, R752. -/
  | qlinkCableUnmate (d : Nat) (i : Nat)
  /-- QL_TRAIN_WRITE, R578. -/
  | qlTrainWrite (d : Nat) (i : Nat) (v : Bool)
  /-- QL_RETRAIN_WRITE, R578. -/
  | qlRetrainWrite (d : Nat) (i : Nat)
  /-- MESSAGE_RECEIVE, R563. -/
  | messageReceive (d : Nat) (i : Nat) (ch : Nat)
  /-- WREQ, R388. -/
  | wreq (d : Nat) (i : Nat) (ch : Nat)
  /-- RREQ, R388. -/
  | rreq (d : Nat) (i : Nat) (ch : Nat)
  /-- RDATA, R389. -/
  | rdata (d : Nat) (i : Nat) (ch : Nat)
  /-- WACK, R388. -/
  | wack (d : Nat) (i : Nat) (ch : Nat)
  /-- POST_MESSAGE, R418. -/
  | postMessage (d : Nat) (i : Nat) (ch : Nat)
  /-- DISP, R284. -/
  | disp (d : Nat) (i : Nat) (ch : Nat)
  /-- NOTICE, R286. -/
  | notice (d : Nat) (i : Nat) (ch : Nat)
  /-- CHUNK, R475. -/
  | chunk (d : Nat) (i : Nat) (ch : Nat)
  /-- ABORT, R575. -/
  | abort (d : Nat) (i : Nat) (ch : Nat)
  /-- HB, R665. -/
  | hb (d : Nat) (i : Nat) (ch : Nat)
  /-- HBR, R665. -/
  | hbr (d : Nat) (i : Nat) (ch : Nat)
  /-- PNOT, R642. -/
  | pnot (d : Nat) (i : Nat) (ch : Nat)
  /-- MGMT, R628. -/
  | mgmt (d : Nat) (i : Nat) (ch : Nat)
  /-- HB_SEND, R665. -/
  | hbSend (d : Nat)
  /-- HB_LOSS, R665. -/
  | hbLoss (d : Nat) (i : Nat) (us : Nat)
  /-- DIE_HEARTBEAT_TIMEOUT, R665. -/
  | dieHeartbeatTimeout (d : Nat)
  -- host rings and command packets
  /-- CMDTAIL, R590. -/
  | cmdtail (f : Nat) (v : Nat) (rd : Nat)
  /-- CPLHEAD, R591. -/
  | cplhead (f : Nat) (v : Nat)
  /-- RING_ENABLE, R588. -/
  | ringEnable (f : Nat) (v : Bool)
  /-- RING_RESTART, R592. -/
  | ringRestart (f : Nat)
  /-- STATUS_WORD_UPDATE, R618. -/
  | statusWordUpdate (f : Nat)
  /-- LONG_COMMAND_END, R618. -/
  | longCommandEnd (f : Nat)
  /-- NOP, R602. -/
  | nop (f : Nat)
  /-- IDENTIFY, R605. -/
  | identify (f : Nat)
  /-- STATUS, R605. -/
  | status (f : Nat)
  /-- SET_MODNUM, R604. -/
  | setModnum (f : Nat)
  /-- RESET, R604. -/
  | reset (f : Nat)
  /-- LOG_READ, R654. -/
  | logRead (f : Nat)
  /-- WIN_SET, R606. -/
  | winSet (f : Nat)
  /-- WIN_CLEAR, R606. -/
  | winClear (f : Nat)
  /-- COPY, R608. -/
  | copy (f : Nat)
  /-- CANCEL, R620. -/
  | cancel (f : Nat)
  /-- JOB_START, R611. -/
  | jobStart (f : Nat)
  /-- JOB_ABORT, R614. -/
  | jobAbort (f : Nat)
  /-- STATE_SAVE, R616. -/
  | stateSave (f : Nat)
  /-- STATE_LOAD, R616. -/
  | stateLoad (f : Nat)
  /-- CTR_POST, R615. -/
  | ctrPost (f : Nat)
  /-- CTR_READ, R615. -/
  | ctrRead (f : Nat)
  /-- RECIPE_LOAD, R624. -/
  | recipeLoad (f : Nat)
  /-- OVERLAY, R625. -/
  | overlay (f : Nat)
  /-- PART_CREATE, R683. -/
  | partCreate (f : Nat)
  /-- PART_ASSIGN, R687. -/
  | partAssign (f : Nat)
  /-- PART_REVOKE, R687. -/
  | partRevoke (f : Nat)
  /-- PART_DESTROY, R697. -/
  | partDestroy (f : Nat)
  /-- KEY_GROUP, R694. -/
  | keyGroup (f : Nat)
  /-- INOC_GRANT, R701. -/
  | inocGrant (f : Nat)
  /-- PROT_READ, R701. -/
  | protRead (f : Nat)
  -- protection
  /-- GET_MEASUREMENTS, R681. -/
  | getMeasurements (f : Nat)
  /-- KEY_EXCHANGE, R683. -/
  | keyExchange (f : Nat) (auth : Bool) (key : Nat)
  /-- SPDM_REQUEST, R680. -/
  | spdmRequest (f : Nat) (sess : Nat) (code : Nat) (msg : List Byte)
  /-- LOCK_INTERFACE, R686. -/
  | lockInterface (f : Nat) (sess : Nat)
  /-- START_INTERFACE, R686. -/
  | startInterface (f : Nat) (sess : Nat)
  /-- STOP_INTERFACE, R686. -/
  | stopInterface (f : Nat) (sess : Nat)
  /-- KEY_PROG, R693. -/
  | keyProg (f : Nat) (sess : Nat) (slot : Nat) (key : Nat)
  /-- IDE_KM, R692. -/
  | ideKm (f : Nat) (sess : Nat) (key : Nat)
  /-- PROTECTION_FENCE, R689. -/
  | protectionFence
  /-- DIE_TABLE_SWITCH, R689. -/
  | dieTableSwitch (d : Nat)
  /-- FENCE_COMPLETE, R689. -/
  | fenceComplete
  /-- FENCE_ACCESS_TIMEOUT, R691. -/
  | fenceAccessTimeout (ms : Nat)
  /-- COMMIT_START, R699. -/
  | commitStart
  /-- COMMIT_RETRY, R700. -/
  | commitRetry
  -- resets and power
  /-- POWER_ON_RESET, R721. -/
  | powerOnReset
  /-- MODULE_RESET, R722. -/
  | moduleReset (held : Bool)
  /-- SELF_TEST_DEADLINE, R46. -/
  | selfTestDeadline
  /-- WARM_RESET, R723. -/
  | warmReset
  /-- PARTITION_RESET, R696. -/
  | partitionReset (p : Nat)
  /-- ISLAND_RESET, R725. -/
  | islandReset (d : Nat) (i : Nat)
  /-- PCIE_HOT_RESET, R585. -/
  | pcieHotReset
  /-- FLR_PF, R585. -/
  | flrPf
  /-- FLR_VF, R585. -/
  | flrVf (p : Nat)
  /-- THROTTLE_EVALUATION, R714. -/
  | throttleEvaluation
  /-- INPUT_CURRENT_THROTTLE, R714. -/
  | inputCurrentThrottle (ma : Nat) (us : Nat)
  /-- THROTTLE_APPLY, R713. -/
  | throttleApply (d : Nat)
  /-- TRIP, R715. -/
  | trip (tj : Nat) (tst : Nat) (ma : Nat) (us : Nat)
  /-- TELEMETRY_SAMPLE, R728. -/
  | telemetrySample (vin : Nat) (iin : Nat) (pin : Nat) (energy : Nat) (tel : List Nat)
  /-- PGOOD_FALL, R720. -/
  | pgoodFall
  /-- ISLAND_REST_ENTER, R717. -/
  | islandRestEnter (d : Nat) (i : Nat)
  /-- ISLAND_WAKE, R717. -/
  | islandWake (d : Nat) (i : Nat)
  /-- DIE_DORMANT_ENTER, R718. -/
  | dieDormantEnter (d : Nat)
  /-- DIE_WAKE, R718. -/
  | dieWake (d : Nat)
  /-- MODULE_SLEEP, R719. -/
  | moduleSleep
  /-- MODULE_WAKE, R719. -/
  | moduleWake
  /-- PCIE_ATOMIC_REQUEST, R583. -/
  | pcieAtomicRequest (f : Nat)
  -- registers
  /-- REGISTER_WRITE, R760. -/
  | registerWrite (q : Requester) (d : Nat) (off : Nat) (width : Nat) (v : Nat)
  /-- REGISTER_CLEARING_READ, R758. -/
  | registerClearingRead (q : Requester) (d : Nat) (off : RegRead)
  -- management
  /-- SMBUS_IDENTITY_READ, R743. -/
  | smbusIdentityRead
  /-- SMBUS_STATE_READ, R744. -/
  | smbusStateRead
  /-- SMBUS_POWER_READ, R743. -/
  | smbusPowerRead
  /-- SMBUS_TELEMETRY_READ, R743. -/
  | smbusTelemetryRead
  /-- SMBUS_HOLDUP_READ, R743. -/
  | smbusHoldupRead
  /-- FLASH_EXT, R745. -/
  | flashExt (low : Bool)
  /-- EXTEST, R746. -/
  | extest (d : Nat)
  /-- SAMPLE_PRELOAD, R746. -/
  | samplePreload (d : Nat) (v : Nat)
  /-- IDCODE, R746. -/
  | idcode (d : Nat)
  /-- CLAMP, R746. -/
  | clamp (d : Nat)
  /-- HIGHZ, R746. -/
  | highz (d : Nat)
  /-- EXTEST_PULSE, R746. -/
  | extestPulse (d : Nat)
  /-- EXTEST_TRAIN, R746. -/
  | extestTrain (d : Nat)
  /-- BYPASS, R746. -/
  | bypass (d : Nat)
  /-- PGOOD_RISE, R739. -/
  | pgoodRise
  /-- CONVERTER_CUT_OFF, R740. -/
  | converterCutOff
  /-- COMMIT_END, R699. -/
  | commitEnd
  /-- DIE_HEARTBEAT_EXCHANGE, R665. -/
  | dieHeartbeatExchange (silent : Nat)
  deriving DecidableEq, Repr

end Sys2Proof
end

