-- ==== Sys2Proof/Decode.lean ====
section
/-!
DEFINITION. Sys2Proof/Decode.lean: the command a word spells by the bits of spec/opcode_table.json. No row of that table gives
bits: a command of this block is no word, so every word spells none. The instruction words of the module's own engines
(10 R408) are data in the granary and are read by the meanings that present them.
-/
namespace Sys2Proof

/-- The command a word of the table spells: none, since no row has bits. -/
def decodeTableWord (_nbits _w : Nat) : Option Instr := none

end Sys2Proof
end

