-- ==== Sys2Proof/Config.lean ====
section
/-!
DEFINITION. Sys2Proof/Config.lean: what an implementation fixes and the spec does not, and the free values.
Every constant here is opaque: no proof can see a value of it, so a claim holds for every value.
-/
namespace Sys2Proof

/-- FREE VALUE: the n-th value the spec leaves open (DESIGN CHOICE, log entry 2). State.freeCtr is the n a step reads and advances. -/
opaque Config.freeValue : Nat → Nat

/-- FREE VALUE: microseconds that pass between two stamps of the module's clock (15 R655; DESIGN CHOICE, log entry 21). -/
opaque Config.elapsed : Nat → Nat

/-- Firmware version (14 R605): no value in the spec (DESIGN CHOICE, log entry 4). -/
opaque Config.fwVersion : BitVec 32

/-- Revision of a die, from its fuses (19 R766, 18 R746; DESIGN CHOICE, log entry 4). -/
opaque Config.dieRev : Nat → BitVec 4

/-- Serial number of the module (18 R743; DESIGN CHOICE, log entry 4): its i-th ASCII byte. -/
opaque Config.serial : Nat → BitVec 8

/-- Levels of the SMADDR pins (18 R743; DESIGN CHOICE, log entry 4). -/
opaque Config.smAddr : BitVec 3

/-- Device serial of the identity certificate (13 R550, 16 R679; DESIGN CHOICE, log entry 4). -/
opaque Config.deviceSerial : BitVec 64

/-- Digest of the boot ROM, and the root key digest in the fuses (16 R675, R676; DESIGN CHOICE, log entry 5). -/
opaque Config.romDigest : BitVec 384
opaque Config.rootKey : BitVec 384

/-- Digest of the unlock token applied at a stamp (16 R678; DESIGN CHOICE, log entry 5). -/
opaque Config.tokenDigest : Nat → BitVec 384

/-- The flash (16 R675, 18 R745; DESIGN CHOICE, log entry 58): copy c of image k, and the stored recipe, after the n-th access from outside;
0 is the flash as shipped, whose recipe is Bytes.lean's. -/
opaque Config.flashImage : Nat → Nat → Nat → List (BitVec 8)
opaque Config.flashRecipe : Nat → List (BitVec 8)

/-- Whether the ECDSA P-384 signature of an image verifies under the key it names, the SHA-384 digest of that key, the image's security version, and
whether its header asks that the fuses be raised to it (16 R675, R700; DESIGN CHOICE, log entry 58). -/
opaque Config.imageSig : List (BitVec 8) → Bool
opaque Config.imageKey : List (BitVec 8) → BitVec 384
opaque Config.imageSvn : List (BitVec 8) → Nat
opaque Config.asksSvn : List (BitVec 8) → Bool

/-- AES-256-GCM: ciphertext and 16-byte tag from key, 96-bit nonce, additional data and plaintext (13 R568, R570; DESIGN CHOICE, log entry 5). -/
opaque Config.gcmSeal : BitVec 256 → Nat → List (BitVec 8) → List (BitVec 8) → List (BitVec 8)

/-- AES-256-GCM opening: the plaintext when the tag is right (13 R571; DESIGN CHOICE, log entry 5). -/
opaque Config.gcmOpen : BitVec 256 → Nat → List (BitVec 8) → List (BitVec 8) → Option (List (BitVec 8))

/-- The 256-bit secret in the fuses (16 R679; DESIGN CHOICE, log entry 5). -/
opaque Config.fusedSecret : BitVec 256

/-- The ECDSA P-384 key that the ROM derives from a secret and what it is bound to (16 R679; DESIGN CHOICE, log entry 5). -/
opaque Config.deriveKey : Nat → List (BitVec 384) → BitVec 384

/-- Public half of an ECDSA P-384 key (16 R679; DESIGN CHOICE, log entry 5). -/
opaque Config.publicKey : BitVec 384 → List (BitVec 8)

/-- ECDSA P-384 signature of a byte string under a key (16 R679, R680; DESIGN CHOICE, log entry 5). -/
opaque Config.ecdsa : BitVec 384 → List (BitVec 8) → List (BitVec 8)

/-- The Rhaone root certificate, and the identity certificate written at manufacture (16 R679; DESIGN CHOICE, log entry 5). -/
opaque Config.rootCert : List (BitVec 8)
opaque Config.identityCert : List (BitVec 8)

/-- The alias certificate for a public key, but for its signature (16 R679; DESIGN CHOICE, log entry 5). -/
opaque Config.aliasCert : List (BitVec 8) → List (BitVec 8)

/-- What an error of three symbols in a codeword decodes as (15 R776): 0 uncorrectable, 1 clean wrong data,
2 corrected wrong data, 3 poison; from a stamp of the event (DESIGN CHOICE, log entry 7). -/
opaque Config.aliasCase : Nat → Nat

/-- The flip a miscorrected codeword carries (15 R776; DESIGN CHOICE, log entry 7): byte i of the codeword is exclusive-ored with it. -/
opaque Config.aliasFlip : Nat → Nat → BitVec 8

/-- The counters a job's image declares (10 R439, R440): the JOB_START block does not carry the list (DESIGN CHOICE, log entry 49). -/
opaque Config.declaredCounter : List (BitVec 8) → Nat → Bool

/-- Whether die d's self-test of its memories, vats and bridges passes, at the boot of a stamp (01 R45; DESIGN CHOICE, log entry 58). -/
opaque Config.selfTest : Nat → Nat → Bool

/-- Whether an unlock token is applied before the release of a POR (16 R678; DESIGN CHOICE, log entry 58). -/
opaque Config.debugToken : Nat → Bool

/-- The n-th 512-bit key pair that the bond island's CTR_DRBG gives (16 R695; DESIGN CHOICE, log entry 5). -/
opaque Config.drbg : Nat → BitVec 512

/-- AES-256-XTS encryption of a data unit under a key pair and a 128-bit tweak (16 R695; DESIGN CHOICE, log entry 5). -/
opaque Config.xts : BitVec 512 → BitVec 128 → List (BitVec 8) → List (BitVec 8)

/-- Session key of an SPDM session: its number, direction (false from the requester) and generation (16 R680; DESIGN CHOICE, log entry 5). -/
opaque Config.sessionKey : Nat → Bool → Nat → BitVec 256

/-- Whether a message of an SPDM session is authentic under the session's key and message number (16 R680; DESIGN CHOICE, log entry 5). -/
opaque Config.spdmOk : BitVec 256 × Nat → List (BitVec 8) → Bool

/-- The answer of the root of trust to an SPDM request it serves (16 R680; DESIGN CHOICE, log entry 5). -/
opaque Config.spdmReply : Nat → List (BitVec 8) → List (BitVec 8)

/-- How PROT_READ lays out state, GEN, PMR and grant entries (16 R701; DESIGN CHOICE, log entry 62). -/
opaque Config.protRecord : List (BitVec 8) → List (BitVec 8)

/-- The two conversions of piece k of output row r of a DRAW, given the stamp and the order of its acceptance, differ (15 R645). The fault is
the silicon's, and stays opaque (DESIGN CHOICE, log entry 104). -/
opaque Config.drawUpset : Nat → Nat → Nat → Nat → Bool

/-- The parity of an element in the turning tile has failed, given a stamp, the order of its instruction's acceptance and the place of the
element in the instruction's walk (15 R637). The fault is the silicon's, and stays opaque (DESIGN CHOICE, log entry 109). -/
opaque Config.tileUpset : Nat → Nat → Nat → Bool

/-- Level of a general-purpose pin driven from outside (18 R747; DESIGN CHOICE, log entry 21): pin, stamp. -/
opaque Config.pinLevel : Nat → Nat → Bool

end Sys2Proof
end

