-- ==== Sys2Proof/Machine/Bytes.lean ====
section
/-!
DEFINITION. Sys2Proof/Machine/Bytes.lean: bits and bytes of numbers, and the recipe that Rhaone ships (14_host_and_commands.md R621, R627).
-/
namespace Sys2Proof.Machine

/-! ## Bits -/

/-- Bits lo .. lo + w − 1 of n. -/
def bits (n lo w : Nat) : Nat := n / 2 ^ lo % 2 ^ w

/-- One bit of n. -/
def bit (n i : Nat) : Bool := n.testBit i

/-- Little-endian number of a byte list (00 R12). -/
def ofBytes : List Byte → Nat
  | [] => 0
  | b :: bs => b.toNat + 256 * ofBytes bs

/-- The k low bytes of n, little-endian. -/
def toBytes : Nat → Nat → List Byte
  | 0, _ => []
  | k + 1, n => BitVec.ofNat 8 n :: toBytes k (n / 256)

/-! ## Measured boot (16 R675, R676, R679) -/

/-- Bytes of a digest. -/
def digBytes (v : BitVec 384) : List Byte := (toBytes 48 v.toNat).reverse

/-- A measurement register extended with a digest: SHA-384(register || digest). -/
def measured (v : BitVec 384) (dg : List Byte) : BitVec 384 := sha384 (digBytes v ++ dg)

/-- A copy of an image is valid: its signature, the signing key's digest, and its security version. -/
def imageOk (fsvn : Nat) (img : List Byte) : Bool :=
  Config.imageSig img && decide (Config.imageKey img = Config.rootKey) && decide (fsvn ≤ Config.imageSvn img % 256)

/-- The copy of image k (1 bond monitor, 2 Maltster, 3 link) that a die boots: A (0), then B (1). -/
def bootCopy (flash fsvn k : Nat) : Option Nat := [0, 1].find? (fun c => imageOk fsvn (Config.flashImage flash k c))

/-- That image, when a copy is valid. -/
def bootImage (flash fsvn k : Nat) : Option (List Byte) := (bootCopy flash fsvn k).map (Config.flashImage flash k)

/-- What BMR0 measures: the ROM, then the fuse configuration. -/
def romMeasure (fsvn life : Nat) : List Byte :=
  digBytes (sha384 (digBytes Config.romDigest ++ digBytes Config.rootKey ++ toBytes 1 fsvn ++ toBytes 1 life))

/-- What is measured of an image, of which n dies run a copy. -/
def imageMeasures (n : Nat) (img : Option (List Byte)) : List (List Byte) :=
  img.elim [] (fun b => List.replicate n (digBytes (sha384 b)))

/-- BMR0 to BMR3, from 48 zero bytes, after a boot of n dies: the bond-monitor image is measured once for each die. -/
def bootBmrs (n fsvn life : Nat) (img : Nat → Option (List Byte)) : List (BitVec 384) :=
  [[romMeasure fsvn life], imageMeasures n (img 1), imageMeasures 1 (img 2), imageMeasures 1 (img 3)].map (fun l => l.foldl measured 0)

/-- The alias key: derived from the identity key, which the fused secret gives, and BMR0 to BMR3 (16 R679). -/
def aliasOf (bmrs : List (BitVec 384)) : BitVec 384 := Config.deriveKey (Config.deriveKey Config.fusedSecret.toNat []).toNat bmrs

/-- The chain of certificate slot 0: root, identity, and the alias certificate that the identity key signs (16 R679). -/
def certsOf (key : BitVec 384) : List (List Byte) :=
  let c := Config.aliasCert (Config.publicKey key)
  [Config.rootCert, Config.identityCert, c ++ Config.ecdsa (Config.deriveKey Config.fusedSecret.toNat []) c]

/-! ## The recipe that Rhaone ships -/

/-- A recipe entry for every die (14 R621). -/
def shippedEntry (off : Nat) (perPart wide : Bool) (mask value : Nat) : List Byte :=
  toBytes 32 (off + (if perPart then 2 ^ 23 else 0) + (if wide then 2 ^ 24 else 0) + 0xFF * 2 ^ 32 + mask * 2 ^ 64 + value * 2 ^ 128)

/-- Its base list: the reset values of KSC_CTRL, THR_WDOG, ERR_CECFG, HB_CTL, ISL_REST, PWR_CTL and GPIO_CTL (14 R627, 19 R775). The
integrator's entries for QL_PCTL are left out (DESIGN CHOICE, log entry 4). -/
def shippedBase : List (List Byte) :=
  [
    shippedEntry 0x40300 true false 0xff01 0x1000,
    shippedEntry 0x33000 true true 0xffff 0x2710,
    shippedEntry 0x150010 false false 0xffff 0x400,
    shippedEntry 0x150030 false false 0xfffff 0x303e8,
    shippedEntry 0x170000 false true 0x47fffff 0x47fffff,
    shippedEntry 0x170100 false false 0x7fff00 0xc8000,
    shippedEntry 0x170118 false false 0xf0 0x0
  ]

/-- Its lists of modes 0 to 3 (14 R627). The diagnostic list takes every corrected error into the error log and arms the point that
INOC_CTL names: the spec gives its entries no values (DESIGN CHOICE, log entry 4). -/
def shippedModes : List (List Byte) :=
  [
    shippedEntry 0x40300 true false 0x1 0x0,
    shippedEntry 0x40300 true false 0x1 0x0,
    shippedEntry 0x33000 true true 0xffff 0x64,
    shippedEntry 0x40300 true false 0x1 0x1,
    shippedEntry 0x150010 false false 0xffff 0x1,
    shippedEntry 0x150020 false true 0x40000000000000 0x40000000000000
  ]

/-- The recipe: its header, with recipe id 1 (DESIGN CHOICE, log entry 4), 7 base entries, 1, 2, 1 and 2 of the modes and the CRC, and its
entries. -/
def shippedRecipe : List Byte :=
  toBytes 64 (0x0051B1E0 + 1 * 2 ^ 32 + 7 * 2 ^ 64 + 1 * 2 ^ 80 + 2 * 2 ^ 96 + 1 * 2 ^ 112 + 2 * 2 ^ 128 + 0x265A1E27 * 2 ^ 144) ++ (shippedBase ++ shippedModes).flatten

/-- BMR0 to BMR3 in the state after reset: the A copies of the shipped flash were booted, with fuse version 0, in production (16 R676; DESIGN
CHOICE, log entry 58). -/
def resetBmrs : List (BitVec 384) := bootBmrs 8 0 0 (fun k => some (Config.flashImage 0 k 0))

end Sys2Proof.Machine
end

