-- ==== Sys2Proof/Machine/State.lean ====
section
/-!
DEFINITION. Sys2Proof/Machine/State.lean: every piece of state the spec gives the Quabry module, as plain data; the
reasons a step can stop; and the state right after reset. INVENTORY.md lists each field with its rule.
-/
namespace Sys2Proof.Machine

/-- Why a command stops the model. -/
inductive Fault where
  /-- Raised by every command that names a die, vat, core, port, queue, function or other unit the module's variant
  does not have (00 R3, R5, R17). No hardware agent can send it. Safe: the hardware has no such step. -/
  | absentUnit
  deriving DecidableEq, Repr

/-- Why a command is refused. -/
inductive Refusal where
  /-- Raised by Machine/Dispatch.lean for a row of the table that has no meaning yet. Safe: the model stops. -/
  | notModelled (mnemonic : String)
  deriving DecidableEq, Repr

/-- The members of the family (00 R3, R5). -/
inductive Variant where
  | qbm2
  | qbm4
  | qbm8
  deriving DecidableEq, Repr

/-- What the check symbols of a 32-byte codeword decode as (15 R634, R635, R776): clean data, an error in one
symbol, an uncorrectable error, the poison encoding, or an error in three symbols. -/
inductive Mark where
  | clean
  | one
  | bad
  | poison
  | three
  deriving DecidableEq, Repr

/-- A thread context as its engine holds it (10 R403, R404), with the words fetched for it (10 R407), its earlier
instructions that have not completed (10 R420) and its YIELD (10 R411). -/
structure Ctx where
  state : Nat := 0
  tag : Nat := 0
  part : Nat := 0
  pc : Nat := 0
  wctr : Nat := 0
  wthr : Nat := 0
  heldus : Nat := 0
  fcode : Nat := 0
  fopc : Nat := 0
  /-- words fetched and not presented, the first at `pc` -/
  ibuf : List InstrWord := []
  /-- instructions presented that have not completed -/
  outst : Nat := 0
  /-- cycles a YIELD still holds the context, and whether it loses contentions -/
  yieldCyc : Nat := 0
  yielded : Bool := false
  /-- the context holds an END (and not a FENCE) while in FENCE -/
  ending : Bool := false
  deriving DecidableEq, Repr

/-- A record of the error log (15 R655). -/
structure ErrRec where
  index : Nat := 0
  time : Nat := 0
  cls : Nat := 0
  sev : Nat := 0
  sec : Bool := false
  tagv : Bool := false
  part : Nat := 0
  inoc : Bool := false
  tag : Nat := 0
  die : Nat := 0
  island : Nat := 0
  sub : Nat := 0
  step : Nat := 0
  pjid : Nat := 0
  named : Nat := 0xFFFF
  count : Nat := 1
  addr : Nat := 0
  synd : Nat := 0
  detail : Nat := 0
  deriving DecidableEq, Repr

/-- What a unit reports to firmware: a fault of a job tag (10 R436), or consumed poison (15 R640). -/
structure Report where
  poison : Bool := false
  die : Nat := 0
  tag : Nat := 0
  /-- the tag is valid: the structure belongs to a job -/
  tagv : Bool := true
  part : Nat := 0
  /-- class of R656 -/
  cls : Nat := 0
  /-- fault code of the unit, engine code of JOB_END and register contents -/
  detail : Nat := 0
  island : Nat := 0
  sub : Nat := 0
  addr : Nat := 0
  named : Nat := 0xFFFF
  synd : Nat := 0
  /-- cause of the job's end (14 R613), and whether `detail` is the code of a unit's fault register (14 R612) -/
  cause : Nat := 3
  unit : Bool := false
  /-- the error-log record firmware has already made for the event (15 R658) -/
  idx : Option Nat := none
  /-- an inoculation produced the error (15 R655) -/
  inoc : Bool := false
  deriving DecidableEq, Repr

/-- An inoculation point (15 R660): the fields of INOC_CTL that say what it strikes; point 0 is none. -/
structure Inoc where
  point : Nat := 0
  inst : Nat := 0
  pos : Nat := 0
  sub : Nat := 0
  bit : Nat := 0
  nsym : Nat := 0
  deriving DecidableEq, Repr

/-- A reply or an event record waiting to be written into a completion ring (14 R591, R593, R597). -/
structure Out where
  event : Bool := false
  seq : Nat := 0
  opc : Nat := 0
  part : Nat := 0xFF
  status : Nat := 0
  detail : Nat := 0
  result : Nat := 0
  irq : Bool := false
  deriving DecidableEq, Repr

/-- An instruction a vat unit has accepted (03 R105, R108): its word, die context, tag, partition, the order of
acceptance in the vat, and the BARM_STEP latched at binding (05 R218). -/
structure VInstr where
  word : InstrWord := 0
  ctx : Nat := 0
  tag : Nat := 0
  part : Nat := 0
  seq : Nat := 0
  step : Nat := 0
  /-- an injecting MASH whose injection has started -/
  injd : Bool := false
  deriving DecidableEq, Repr

/-- The record of a STEEP a vat keeps for a bank (03 R115). -/
structure BankRec where
  shape : Nat := 0
  sp : Nat := 0
  lvl : Nat := 0
  ent : Nat := 0
  tq : Nat := 0
  mb : Nat := 0
  kblk : Nat := 0
  deriving DecidableEq, Repr

/-- A beat of a ring-spine link (02 R56): 128 lane elements and the header. `parBad` lists lanes whose parity bit is
wrong (15 R644), `crcBad` is a bridge CRC that fails, `src` is the address of the sack that gave its elements their PSN, 0 for none (15
R640). `stages` is how many beats its column has (02 R59); how a vat that forms no
products tells them apart is the implementation's (DESIGN CHOICE, log entry 82). -/
structure Beat where
  lanes : List (BitVec 16) := []
  tag : Nat := 0
  hops : Nat := 0
  stages : Nat := 1
  parBad : List Nat := []
  crcBad : Bool := false
  src : Nat := 0
  deriving DecidableEq, Repr

/-- A row in the steep unit's staging buffer (02 R69): its source bytes, its row flags and, with PSN, the address of the poisoned sack. -/
structure Staged where
  bytes : List Byte := []
  mask : Bool := false
  psn : Bool := false
  src : Nat := 0
  deriving DecidableEq, Repr

/-- An exact block sum or the reason it has none (04 R172, 02 R99): integer, NaN, poison. In INT4 a pass column has two. -/
inductive BSum where
  | sum (v : Int)
  | nan
  | poisoned
  deriving DecidableEq, Repr

/-- A liquor column in the array (02 R51, R58): its pass column, its lane elements (one list of 128 per stage that has entered; in a
draught pass one per quadrant) with the lanes of each whose parity fails, the stages still to enter, the rows whose sums are written,
sums held at the resolvers, the residue and flags the tally row compares, whether it is checked, and how many of its stages (or
quadrants) have left the array; the elements an inoculation has changed (stage or quadrant, lane, the row from which on, bits flipped),
whether one has struck the column, the sack its PSN came from, and whether its poison has been reported as consumed. -/
structure Col where
  n : Nat := 0
  lanes : List (List (BitVec 16)) := []
  bads : List (List Nat) := []
  more : Nat := 0
  hops : Nat := 0
  last : Bool := false
  wr : BitVec 128 := 0
  held : SMap (List BSum) := []
  /-- residues mod 8191 of the block sums of the (one or two) columns, over the rows written or held -/
  res0 : Nat := 0
  res1 : Nat := 0
  nan : Bool := false
  psn : Bool := false
  /-- the tally products captured when the tally entries were released -/
  tally : Option (List Nat) := none
  checked : Bool := false
  sent : Nat := 0
  flips : List (Nat × Nat × Nat × Nat) := []
  ino : Bool := false
  src : Nat := 0
  told : Bool := false
  deriving DecidableEq, Repr

/-- What a pass in the array is bound to (02 R66–R68, R80): a MASH that forms products, a SKIP, or a failed pass. -/
inductive PassKind where
  | mash
  | skip
  | failed
  deriving DecidableEq, Repr

/-- A pass in the array: its binding, the record of its grist, the first K-block of its wort half (05 R213), the columns in it, how many
have entered, whether its END has entered, and whether its instruction's completion event has happened. -/
structure Pass where
  kind : PassKind := .mash
  instr : VInstr := {}
  par : Nat := 0
  keep : Bool := false
  tag : Nat := 0
  brec : BankRec := {}
  kb0 : Nat := 0
  cols : List Col := []
  entered : Nat := 0
  ended : Bool := false
  lenBad : Bool := false
  /-- generation of grist the pass uses (Vat.gens0, gens1) -/
  gen : Nat := 0
  fin : Bool := false
  deriving DecidableEq, Repr

/-- A generation of grist in a bank: the acceptance count at its first pass's binding, the rows and the tally entries its
releasing END has released (02 R71). -/
structure Gen where
  seq : Nat := 0
  rel : BitVec 128 := 0
  trel : Bool := false
  deriving DecidableEq, Repr

/-- A vat (02 R48). Banks are indexed by parity; wort, grist and floor bytes lie in the module's byte store. -/
structure Vat where
  steepQ : List VInstr := []
  staging : List Staged := []
  steepRead : Nat := 0
  steepRow : Nat := 0
  mashQ : List VInstr := []
  skipLeft : Nat := 0
  drawQ : List VInstr := []
  drawPtr : Nat := 0
  drawExp : Option Int := none
  fold : SMap Word32 := []
  foldPsn : List Nat := []
  seq : Nat := 0
  bank0 : Nat := 0
  bank1 : Nat := 0
  gens0 : List Gen := []
  gens1 : List Gen := []
  live0 : Option BankRec := none
  live1 : Option BankRec := none
  mask0 : BitVec 128 := 0
  mask1 : BitVec 128 := 0
  psn0 : BitVec 128 := 0
  psn1 : BitVec 128 := 0
  /-- address of the poisoned sack of a row with PSN, by bank · 128 + row (15 R640) -/
  psnSrc : SMap Nat := []
  /-- an inoculation has struck the grist or the tally entries of the bank -/
  struck0 : Bool := false
  struck1 : Bool := false
  tallyEnt : SMap (BitVec 13) := []
  /-- residues of the rows the STEEP at the head has committed (02 R72) -/
  tallyNew : SMap (BitVec 13) := []
  inq : List Beat := []
  passes : List Pass := []
  outCred : Nat := 32
  credTransit : Nat := 0
  hasPrev : Bool := false
  lastPar : Nat := 0
  lastKeep : Bool := false
  abortDrn : Bool := false
  abortTags : List Nat := []
  accum0 : BitVec 128 := 0
  accum1 : BitVec 128 := 0
  /-- the stamp of the free contents an abort drain left in a wort half (02 R100), and the entries written since -/
  undef0 : Option Nat := none
  undef1 : Option Nat := none
  wrote0 : SMap Bool := []
  wrote1 : SMap Bool := []
  /-- order numbers of the DRAWs that waited on a MASH the abort drain discarded: their output is undefined (02 R100) -/
  lostDraws : List Nat := []
  initKb0 : Nat := 0
  initKb1 : Nat := 0
  /-- instructions whose completion event has happened (03 R109), oldest first -/
  done : List VInstr := []
  checked : Nat := 0
  psnskip : Nat := 0
  mismatch : Nat := 0
  npasses : Nat := 0
  nanskip : Nat := 0
  ttag : Option Nat := none
  deriving DecidableEq, Repr

/-- A die's ring spine: the injection point (02 R79), the send and landing buffers (02 R83), their credits (02 R89), the mode
in force (02 R86) and the job that holds the ring (02 R81). -/
structure Ring where
  inj : Option VInstr := none
  injNext : Nat := 0
  injCred : Nat := 32
  injTransit : Nat := 0
  send : List Beat := []
  sendCred : Nat := 512
  sendTransit : Nat := 0
  wire : List Beat := []
  landing : List Beat := []
  landCred : Nat := 256
  landTransit : Nat := 0
  long : Bool := false
  ringTag : Option Nat := none
  deriving DecidableEq, Repr

/-- A live hydrometer set (04 R185). `max` is the signed reading of the encoding of R186. -/
structure HydSet where
  zero : Nat := 0
  sat : Nat := 0
  nonf : Nat := 0
  max : Int := -2147483648
  deriving DecidableEq, Repr

/-- A command packet as firmware read it (14 R594, R596): header fields, and the parameter bytes, inline or extended. -/
structure Pkt where
  opc : Nat := 0
  barrier : Bool := false
  irq : Bool := false
  ext : Bool := false
  part : Nat := 0xFF
  seq : Nat := 0
  len : Nat := 0
  params : List Byte := []
  /-- the ring went out of service while the command ran: its reply is discarded (R589) -/
  mute : Bool := false
  deriving DecidableEq, Repr

/-- A long command that has been accepted (14 R599, R617–R620): its packet, status-word address, state and progress. -/
structure Long where
  pkt : Pkt := {}
  swaddr : Nat := 0
  state : Nat := 0
  done : Nat := 0
  total : Nat := 0
  /-- units of R619 that are valid -/
  valid : Nat := 0
  /-- bytes of the result gathered or still to be written -/
  buf : List Byte := []
  /-- the final status word is written -/
  swDone : Bool := false
  /-- end status and detail the command will reply -/
  status : Nat := 0
  detail : Nat := 0
  result : Nat := 0
  deriving DecidableEq, Repr

/-- A host function (14 R588–R593): the expected SEQ (none: that of the next packet), replies written, doorbells, what waits
to be written, the event serial and lost events, the packet read and not ended, and the long commands running. -/
structure Fn where
  expSeq : Option Nat := none
  replies : Nat := 0
  cmdtail : Nat := 0
  cplhead : Nat := 0
  outq : List Out := []
  evSerial : Nat := 0
  evLost : Nat := 0
  cur : Option Pkt := none
  /-- how far the packet taken has come: 0 not begun, 1 begun and not ended -/
  stage : Nat := 0
  longs : List Long := []
  /-- MSI-X vector 0 messages signalled (14 R591) -/
  msix : Nat := 0
  /-- a Rhaone vendor-defined request that waits in the DOE mailbox, its session, and the last response (16 R680, R686) -/
  doe : Option Pkt := none
  doeSess : Nat := 0
  resp : List Byte := []
  deriving DecidableEq, Repr

/-- A flash or fuse commit that waits or runs (16 R698–R700): 0 an error-log record, 1 a recipe, 2 an SVN advance. -/
structure Commit where
  kind : Nat := 0
  erec : ErrRec := {}
  data : List Byte := []
  fn : Nat := 0
  /-- SEQ of the RECIPE_LOAD, or the SVN asked for -/
  seq : Nat := 0
  /-- retries so far -/
  tries : Nat := 0
  deriving DecidableEq, Repr

/-- A grant of a protection table (16 R684): partition, kind of R685, die, first unit and units. -/
structure Grant where
  part : Nat := 0
  kind : Nat := 0
  die : Nat := 0
  first : Nat := 0
  count : Nat := 0
  deriving DecidableEq, Repr

/-- A message of QLink (13 R559): header fields, body, data and the poison of each 64 B of data. -/
structure Msg where
  typ : Nat := 0
  dmod : Nat := 0
  smod : Nat := 0
  ddie : Nat := 0
  sdie : Nat := 0
  tag : Nat := 0
  stat : Nat := 0
  rid : Nat := 0
  body : List Byte := []
  data : List Byte := []
  pmap : List Bool := []
  deriving DecidableEq, Repr

/-- Receive side of a channel of a port (13 R558, R565): the byte stream not yet parsed, the flits it came in (whether each used a
shared credit, and its payload bytes not yet delivered or discarded), and the message delivered to its die and not consumed. -/
structure RxCh where
  bytes : List Byte := []
  /-- bytes of the delivered message still held in the buffer -/
  held : Nat := 0
  flits : List (Bool × Nat) := []
  msg : Option Msg := none
  deriving DecidableEq, Repr

/-- An answer that waits to cross the die bridges (01 R24): port and channel its request came on, the die that answers, the partition, and the
message. -/
structure Back where
  d : Nat := 0
  i : Nat := 0
  ch : Nat := 0
  die : Nat := 0
  part : Nat := 0
  msg : Msg := {}
  deriving DecidableEq, Repr

/-- A QLink port (13): streams to send, next SEQ, replay buffer and the first SEQ to resend, control flits to send, expected SEQ,
NAKs of the episode sent and received, receive channels, cumulative credits returned by and seen from the far end, GCM counters, far
serial number, heartbeats, failed retrains of each direction, the last flit put on the line, whether the port is in service, whether
IDENT has been seen in this training, and the first replayed SEQ. States, widths, credits and counts are in the port's registers. -/
structure Port where
  tx : SMap (List Byte) := []
  seq : Nat := 0
  /-- flits held: SEQ, channel + 16 · pool, message bytes carried, and the payload -/
  replay : List (Nat × Nat × Nat × List Byte) := []
  resend : Option Nat := none
  ctl : List (List Byte) := []
  sent : Nat := 0
  rxSeq : Nat := 0
  naks : Nat := 0
  rx : SMap RxCh := []
  dFreed : SMap Nat := []
  sFreed : Nat := 0
  dSeen : SMap Nat := []
  sSeen : Nat := 0
  gcmTx : SMap Nat := []
  gcmRx : SMap (Option Nat) := []
  farSerial : Nat := 0
  hbSerial : Nat := 0
  hbWait : List Nat := []
  hbMiss : Nat := 0
  failsTx : Nat := 0
  failsRx : Nat := 0
  line : List Byte := []
  svc : Bool := false
  ident : Bool := false
  retryAt : Option Nat := none
  naksTx : Nat := 0
  cable : Bool := false
  /-- C14 messages not acknowledged, with the count of C14 bytes that ends each; C14 bytes queued and acknowledged (13 R573) -/
  c14 : List (Nat × Msg) := []
  put14 : Nat := 0
  ack14 : Nat := 0
  /-- message bytes queued on a channel, with the tag and the module each message is for, oldest first (10 R429, 13 R553) -/
  txTags : SMap (List (Nat × Nat × Nat)) := []
  /-- messages of a channel whose counter is spent, waiting for a new key (13 R570) -/
  stopped : SMap (List Msg) := []
  /-- lanes of the two directions that training found good and no retrain has dropped, by bit (13 R542, R551) -/
  goodTx : Nat := 0
  goodRx : Nat := 0
  /-- flit bytes not yet in a codeword, the next codeword index, and the symbols of the last codeword by lane (13 R544, R545) -/
  cwBytes : List Byte := []
  cwi : Nat := 0
  laneOut : SMap (List Nat) := []
  /-- place of the next received flit in its pair of codewords, 0 to 4, and whether the current codeword is past correction -/
  rxPos : Nat := 0
  rxBad : Bool := false
  /-- TRAIN has detected and aligned the lanes, chosen the widths and reset the books; IDENT flits are exchanged (13 R550) -/
  aligned : Bool := false
  /-- module number, firmware version and recipe id of the neighbour's last identity report (14 R628) -/
  farId : Option (Nat × Nat × Nat) := none
  deriving DecidableEq, Repr

/-- A dimension record of a tensor descriptor (08 R334). -/
structure Dim where
  ext : Nat := 0
  blk : Nat := 0
  stride : Nat := 0
  shard : Nat := 0
  axis : Nat := 0
  pad : Nat := 0
  deriving DecidableEq, Repr

/-- A tensor descriptor as an engine latched it (08 R331, R332); `resv` says that a reserved bit was set. -/
structure Desc where
  idx : Nat := 0
  base : Nat := 0
  fmt : Nat := 0
  ndim : Nat := 0
  chk : Bool := false
  hset : Nat := 0
  hen : Bool := false
  tid : Nat := 0
  fill : Nat := 0
  dims : List Dim := []
  resv : Bool := false
  deriving DecidableEq, Repr

/-- Source bytes of a request: a global address, or the data once read or received, with the poison of each byte. `wait` is 0 for
bytes a unit of the module can read, 1 for a host read, 2 for a remote read under `rid` through port `port`, 3 for data in hand.
`ns` is the no-snoop attribute of a host read (08 R321, 09 R386). -/
structure Piece where
  addr : Nat := 0
  n : Nat := 0
  wait : Nat := 0
  rid : Nat := 0
  port : Nat := 0
  data : List Byte := []
  pz : List Bool := []
  ns : Bool := false
  deriving DecidableEq, Repr

/-- A destination of a request: its global address (a bus address of the host for `kind` 1), the bytes of the data that go there, its
kind (0 of this module, 1 host, 2 remote), and for a remote one the id and port of its message (`sent`: 0 no, 1 yes, 2 acknowledged).
Its place in the order of 08 R343: descriptor `j` of the list, linear index `ord` of its first atom, of which `skip` bytes precede it
(atoms are `alen` bytes and `els` elements), and position `sub` among writes of the same element. `nib` is the nibble it writes (0 the
whole byte, 1 low, 2 high), and `old`, when not 0, one more than where the data holds its byte as it was. `ns` is the no-snoop
attribute of a host write. -/
structure Dst where
  addr : Nat := 0
  off : Nat := 0
  n : Nat := 0
  j : Nat := 0
  ord : Nat := 0
  skip : Nat := 0
  alen : Nat := 0
  els : Nat := 0
  sub : Nat := 0
  nib : Nat := 0
  old : Nat := 0
  kind : Nat := 0
  sent : Nat := 0
  rid : Nat := 0
  port : Nat := 0
  ns : Bool := false
  deriving DecidableEq, Repr

/-- A request the racking engine has issued (09 R347, R353). `what`: 0 copy, 1 index elements for the instruction, 2 an accumulate
unit, 3 a DISP row, 4 a count notice, 5 a POST, 6 a cask mark read, 7 a read for a POUR, 8 a write for a COLLECT. `nib` is the source
nibble (0 whole bytes, 1 low, 2 high). -/
structure Req where
  id : Nat := 0
  seq : Nat := 0
  what : Nat := 0
  tag : Nat := 0
  part : Nat := 0
  tile : Nat := 0
  trk : Bool := false
  n : Nat := 0
  src : List Piece := []
  dst : List Dst := []
  nib : Nat := 0
  ord : Nat := 0
  aux : Nat := 0
  /-- host windows (64 · partition + window + 1) the request was translated through (14 R606) -/
  wins : List Nat := []
  /-- one more than the place of a turning request's first element in its instruction's walk (0 for others), and whether its elements have
  passed through the turning tile (09 R371) -/
  pos : Nat := 0
  turned : Bool := false
  /-- number of the accumulate unit it belongs to (0 none), and whether it is the unit's last request; the unit has been summed -/
  unit : Nat := 0
  ulast : Bool := false
  summed : Bool := false
  /-- elements of a collective that a tun read brings (11 R464) -/
  lanes : List Nat := []
  deriving DecidableEq, Repr

/-- An instruction in a rack queue (09 R350–R354): its word, issuer, job, latched descriptors, the consumer's count at acceptance,
stream gates open and tiles posted, the cursor of its next request, the window of index elements in work, counts of a dispatch, cask
places, and the bytes written so far where its writes overlap (08 R343). -/
structure RInstr where
  word : InstrWord := 0
  opc : Nat := 0
  c : Nat := 0
  ket : Bool := false
  tag : Nat := 0
  part : Nat := 0
  seq : Nat := 0
  descs : List Desc := []
  c0 : Nat := 0
  gates : Nat := 0
  posted : Nat := 0
  ph : Nat := 0
  cur : Nat := 0
  w : Nat := 0
  k : Nat := 0
  win : SMap Nat := []
  cnt : SMap Nat := []
  full : Bool := false
  started : Bool := false
  stopped : Bool := false
  ov : Bool := false
  /-- writes made, newest first: location of the first byte, and the bytes as they then stood (08 R343) -/
  wlog : List (Nat × Dst × List Byte) := []
  /-- bytes, with their poison, of the 136-byte rows its requests have read in part: they read the rest as it stood (05 R196) -/
  rows : List (Nat × Byte × Bool) := []
  caskC : Nat := 0
  caskN : Nat := 0
  caskH : Nat := 0
  caskM : Nat := 0
  len : Nat := 0
  /-- source, destination, function and SEQ of a host COPY -/
  src : Nat := 0
  dst : Nat := 0
  fn : Nat := 0
  hseq : Nat := 0
  psn : Bool := false
  /-- dropped and out-of-bounds choices to count at the next issue -/
  sat : Nat := 0
  deriving DecidableEq, Repr

/-- A rack queue, or a die's command queue (number 256): instructions, requests outstanding, regulator budget, and the head request's
wait for a tracker entry (0 none, 1 waiting) with its partition and tag. `tins` are the tun's transfers through the
queue and `twr` its writes that wait to be issued (11 R464, R469). -/
structure RackQ where
  ins : List RInstr := []
  outs : List Req := []
  budget : Int := 0
  trkWait : Nat := 0
  trkPart : Nat := 0
  trkTag : Nat := 0
  tins : List RInstr := []
  twr : List Req := []
  deriving DecidableEq, Repr
/-- A POUR that a tun has accepted and not completed (11 R462–R465): its request number, issuing die and context, job, word, latched
descriptor, the schedule position of the next chunk to read, the requests of that chunk already issued, and the chunks whose reads are
outstanding. -/
structure Pour where
  id : Nat := 0
  d : Nat := 0
  c : Nat := 0
  tag : Nat := 0
  part : Nat := 0
  word : InstrWord := 0
  desc : Desc := {}
  next : Nat := 0
  sub : Nat := 0
  reads : List Nat := []
  fin : Bool := false
  deriving DecidableEq, Repr

/-- A chunk of a collective on a member (11 R453, R464, R472, R480): its local sum and the partial that has arrived, as exact values with
their special states (0 finite, 1 +infinity, 2 −infinity, 3 NaN); the gauges and the finite terms they were formed over; POURs read,
partials arrived and their NCON; poison; whether it has left the reduce phase, and whether it holds its buffer. -/
structure Chunk where
  loc : List (Int × Nat) := []
  lg : Nat := 0
  fx : List Int := []
  nread : Nat := 0
  arr : List (Int × Nat) := []
  narr : Nat := 0
  ag : Nat := 0
  ncon : Nat := 0
  psn : Bool := false
  gone : Bool := false
  held : Bool := false
  /-- the sum has changed since its buffer was written, and the buffer holds the chunk (11 R451) -/
  dirty : Bool := false
  stored : Bool := false
  deriving DecidableEq, Repr

/-- A chunk message the tun has yet to send (11 R474): member coordinate, the 32-byte header without SMOD, and the payload. -/
structure TOut where
  dest : Nat := 0
  head : Nat := 0
  data : List Byte := []
  deriving DecidableEq, Repr

/-- A collective slot (11 R460, R468): state (0 IDLE, 1 ARMED, 2 RETAINED), the record latched, its COLLECT, job and context, the gauge
step, the destination descriptor, the POURs registered and those that wait for the next arming, schedule positions entered in the
read-ahead window and left behind, chunks, messages to send, messages not acknowledged (id and port), result writes outstanding by
chunk, results delivered, the values retained, the registrations counted, and whether a chunk message has failed (11 R779). -/
structure TSlot where
  state : Nat := 0
  rec_ : Nat := 0
  word : InstrWord := 0
  tag : Nat := 0
  part : Nat := 0
  c : Nat := 0
  id : Nat := 0
  step : Nat := 0
  desc : Desc := {}
  pours : List Pour := []
  waiting : List Pour := []
  cur : Nat := 0
  low : Nat := 0
  chunks : SMap Chunk := []
  outs : List TOut := []
  acks : List (Nat × Nat) := []
  writes : SMap Nat := []
  nfin : Nat := 0
  ret : SMap (List (Int × Nat) × Bool) := []
  nreg : Nat := 0
  failed : Bool := false
  deriving DecidableEq, Repr


/-- A job on the module (14 R609–R613): phase (0 none, 1 started, 2 ending), partition, pod job id, footprint, its end cause, and of its
first fault the die, bit [19] and bits [31:24] of JOB_END, the record's index and the origin module. -/
structure JobRec where
  phase : Nat := 0
  part : Nat := 0
  pjid : Nat := 0
  mask : Nat := 0
  cause : Nat := 0
  fdie : Nat := 0
  fbit : Nat := 0
  fcode : Nat := 0
  idx : Option Nat := none
  org : Nat := 0
  deriving DecidableEq, Repr
/-- What a requester holds of a wide register of a die (19 R758, R759): the words it captured, or those it has staged (bit j of mask:
word j). -/
structure RegHold where
  q : Requester := .bond
  d : Nat := 0
  off : Nat := 0
  v : RegWord := 0
  mask : Nat := 0
  deriving DecidableEq, Repr

/-- An SPDM session of a function, with the requester's key digest when it was authenticated (16 R680, R683): established once FINISH has
come; the generation of the key of each direction, and the messages that each direction has carried under it. -/
structure Session where
  id : Nat := 0
  fn : Nat := 0
  auth : Option (BitVec 384) := none
  up : Bool := false
  genReq : Nat := 0
  genRsp : Nat := 0
  seqReq : Nat := 0
  seqRsp : Nat := 0
  deriving DecidableEq, Repr

/-- What the bond island holds of a partition (16 R677, R683, R692, R695, 14 R625): owner's key digest, PMR, number of its cellar key
(0 none), its IDE stream key, current overlay mode. State, TDI and flags are in PART_STAT. -/
structure PartRec where
  owner : Option (BitVec 384) := none
  pmr : BitVec 384 := 0
  cellar : Nat := 0
  ide : Option (BitVec 256) := none
  mode : Nat := 0
  deriving DecidableEq, Repr

/-- A change of protection (16 R687–R691, R694): kind 0 grants, 1 revocation, 2 end of a partition, 3 a channel group, 4 the loss of a
kettle core; the function whose command waits for it (9: none) and whether it came through its mailbox, and what changes. -/
structure Change where
  kind : Nat := 0
  fn : Nat := 9
  doe : Bool := false
  part : Nat := 0
  list : List Grant := []
  port : Nat := 0
  grp : Nat := 0
  slot : Nat := 0
  en : Bool := false
  /-- what the partition's measurement register is extended with -/
  data : List Byte := []
  deriving DecidableEq, Repr

/-- A kettle group accepted and not completed (12 R512–R514): its context, job, word, class, the values it will write (key lane
register · 64 + lane, or scalar register; value; poison), and for a transfer its address and operand values. -/
structure KPend where
  c : Nat := 0
  tag : Nat := 0
  part : Nat := 0
  word : InstrWord := 0
  xfer : Bool := false
  zw : List (Nat × Word32 × Bool) := []
  jw : List (Nat × Word64 × Bool) := []
  addr : Nat := 0
  args : List Nat := []
  /-- its number, taken from the module's instruction count, and the core's cycle in which its result is written (12 R513) -/
  id : Nat := 0
  due : Nat := 0
  deriving DecidableEq, Repr

/-- A kettle core (12 R504, R507, 15 R648): lane registers by register · 64 + lane, scalar registers, their poison bits, the compute
groups executed, the groups not completed, the time of the last check mismatch of each lane plus 1, and whether it is withdrawn. -/
structure KCore where
  z : SMap Word32 := []
  zp : SMap Bool := []
  j : SMap Word64 := []
  jp : SMap Bool := []
  groups : Nat := 0
  pend : List KPend := []
  /-- cycle of the latest acceptance or completion; only differences count (12 R513; DEDUCED, log entry 43) -/
  cycle : Nat := 0
  chk : SMap Nat := []
  out : Bool := false
  /-- 1 + the context accepted last; 0 none (12 R510) -/
  last : Nat := 0
  deriving DecidableEq, Repr


/-- A buffer of the turning tile (09 R371, 15 R637): byte b of the element of row r and column c at 8 (32 r + c) + b, with its poison, and
the element's parity bit at 32 r + c. -/
structure TurnBuf where
  cells : SMap (Byte × Bool) := []
  par : SMap Bool := []
  deriving DecidableEq, Repr

/-- The turning tile of a die (09 R371): two buffers, and the one that the next block fills. -/
structure TurnTile where
  buf0 : TurnBuf := {}
  buf1 : TurnBuf := {}
  next : Nat := 0
  deriving DecidableEq, Repr

/-- The module. -/
structure State where
  /-- MODEL's own: the commands that wait, first in, first out (DESIGN CHOICE, log entry 1) -/
  pending : List Instr
  /-- MODEL's own: how many free values have been taken (DESIGN CHOICE, log entry 2) -/
  freeCtr : Nat
  variant : Variant
  /-- control registers by (die, offset); an unlisted one reads as its reset value (19 R768) -/
  regs : SMap RegWord
  /-- bytes of every on-module memory and of the host's memory, by location; an unlisted one reads 0 -/
  mem : List Host.Cell
  /-- what the codewords of the memories decode as, by location / 32; an unlisted one is clean -/
  marks : SMap Mark
  /-- thread contexts by die * 25600 + die context number (10 R401) -/
  ctxs : SMap Ctx
  vats : SMap Vat
  rings : SMap Ring
  /-- live hydrometer sets by (die * 8 + partition) * 64 + set (04 R184) -/
  hyd : SMap HydSet
  /-- host functions 0 to 8 -/
  fns : SMap Fn
  /-- reports of units that firmware has not handled, oldest first -/
  reports : List Report
  errLog : List ErrRec
  errIndex : Nat
  flashLog : List ErrRec
  /-- corrected errors by die * 4 + kind: first recorded, and the count since the last record (15 R657) -/
  ceSeen : SMap Nat
  time : Nat
  /-- commits asked for and not started; the one running; those deferred (16 R699, R700) -/
  commitWait : List Commit
  commitRun : Option Commit
  deferred : List Commit
  /-- PCIe link of the endpoint is up (14 R585) -/
  pcieUp : Bool
  /-- what units reported to the bond island (08 R305, 03 R116) -/
  bondReports : List Report
  /-- module number; 0xFFFF while unassigned (01 R42) -/
  modNum : Nat
  /-- protection tables in force, and the inactive copy a fence installs (16 R684, R689) -/
  grants : List Grant
  grantsNew : List Grant
  /-- who the current slot of each table was given to, by die * 5 + table: 0 none, v + 1 channel Cv, 17 ring liquor, and 32 · (tag + 1)
  more when the slot is reserved for a tag (10 R429, R430) -/
  slotOwn : SMap Nat
  /-- QLink ports by die * 3 + port of the die (13 R542) -/
  ports : SMap Port
  /-- pairs (origin, serial, time) of the ABORTs a die's link complex has seen (13 R575) -/
  seen : SMap (List (Nat × Nat × Nat))
  /-- key slots of the bond island: a key when programmed (16 R693) -/
  keys : SMap (Option (BitVec 256))
  /-- the die that injects next in long sparge, chosen when an injection places its last beat (03 R121) -/
  nextInjDie : Option Nat
  /-- the job for which LONG is set (01 R35) -/
  longTag : Option Nat
  /-- next request id of a message of the module (13 R559; DESIGN CHOICE, log entry 10) -/
  nextRid : Nat
  /-- rack queues by die * 257 + queue; queue 256 is the die's command queue (14 R607) -/
  rackqs : SMap RackQ
  rackSeq : Nat
  /-- one more than the queue each die's racking engine served last (09 R353), and the dies' turning tiles -/
  rkLast : SMap Nat
  turnTile : SMap TurnTile
  /-- owner of each tun chunk buffer by die * 1024 + buffer: 0 none, else 1 + 64 · partition + slot (11 R468) -/
  tunOwn : SMap Nat
  /-- ledgers (die * 256 + ledger) a racking write has left with STATE 1 and that are not armed yet (07 R283) -/
  ledNew : SMap Bool
  /-- speculative rows (sender, j) landed and not undone of each ledger (07 R284, R286) -/
  specRows : SMap (List (Nat × Nat))
  /-- tags in abort at a die's racking engine and tun, and those that have reported their drain, by die * 256 + tag (09 R390, 11 R495) -/
  abortRk : SMap Bool
  abortTun : SMap Bool
  drainRk : SMap Bool
  drainTun : SMap Bool
  /-- accumulate units waiting at a kettle core, by die * 4 + core: queue, request number (12 R517) -/
  accq : SMap (List (Nat × Nat))
  /-- Completion Timeout Value field of the PF's Device Control 2 register (14 R583, R587) -/
  cplValue : Nat
  /-- answers that wait to cross the die bridges (01 R24) -/
  backs : List Back
  /-- collective slots by (die * 8 + partition) * 64 + slot (11 R450) -/
  tslots : SMap TSlot
  /-- POURs accepted whose registration has not reached its home tun, in order of acceptance (11 R450, R463) -/
  tunq : List Pour
  /-- next serial of an ABORT this module originates (13 R575) -/
  abortSerial : Nat
  /-- heartbeat exchanges in a row a die has not answered (15 R665) -/
  dieHbAge : SMap Nat
  /-- jobs by tag -/
  jobs : SMap JobRec
  /-- bit d: die d has been lost (01 R47) -/
  lostDies : Nat
  /-- the module is in the failed state (01 R46) -/
  failed : Bool
  /-- writes to slot-table words held until the swap completes: die, table, word, value (19 R769) -/
  slotHeld : List (Nat × Nat × Nat × Nat)
  /-- captures and staged words of the requesters (19 R758, R759) -/
  caps : List RegHold
  stages : List RegHold
  /-- injections an armed point of a die has still to make (15 R661); 0 with ARM set: until disarmed -/
  inocLeft : SMap Nat
  /-- kettle cores by die * 4 + core -/
  kcores : SMap KCore
  /-- the bond island's records of partitions -/
  parts : SMap PartRec
  sessions : List Session
  nextSess : Nat
  /-- protection changes asked for, those of the running fence, and the accesses checked before it that have not completed: kind
  (0 vat instruction, 1 racking request, 2 kettle group), die, unit, number, tag (16 R689, R691) -/
  changes : List Change
  fenceRun : List Change
  fenceOld : List (Nat × Nat × Nat × Nat × Nat)
  /-- keys the bond island's generator has made, and the number of the firmware's cellar key (16 R695) -/
  keyCtr : Nat
  fwKey : Nat
  /-- measurement registers BMR0 to BMR5 (16 R676) -/
  bmrs : SMap (BitVec 384)
  /-- security version of each image that runs: the bond monitor of each die, Maltster, link (16 R675, R681) -/
  imgSvns : List Nat
  /-- the alias key, and the certificates of slot 0, the root's first (16 R679) -/
  aliasKey : BitVec 384
  certs : List (List Byte)
  /-- contents of the image area of the flash (18 R745), recipe commits in the flash, newest first, each with the CRC-32C that ends it, and
  erased bytes (16 R698) -/
  flashGen : Nat
  recipes : List (List Byte × Nat)
  erased : Nat
  /-- the stored recipe, which is the newest commit with a good CRC, and the one in force (14 R621, R623) -/
  recipe : List Byte
  recipeNow : List Byte
  /-- throttle level each cause of R714 demands, evaluations in a row since its release condition began, and the level each die applies -/
  levels : SMap Nat
  calm : SMap Nat
  dieLevel : SMap Nat
  /-- 0 running, 1 starting (17 R722), 2 held in MOD reset, 3 no power; and the dies that have reported their self-test -/
  phase : Nat
  answered : Nat
  /-- TRIP# is latched low (18 R740); SMBALERT# is asserted (18 R744); FLASH_EXT# sampled low, a release waits for it (18 R745) -/
  trip : Bool
  smbAlert : Bool
  flashExt : Bool
  flashWait : Bool
  /-- TAP instruction and boundary register of each die (18 R746) -/
  taps : SMap (Nat × Nat)
  /-- the MOD sequence of a POR has not completed (18 R747) -/
  porSeq : Bool
  /-- last SMBus block read and its packet error code (18 R743) -/
  smb : List Byte
  smbPec : Nat
  /-- data of the last register read (14 R584, R586, 19 R758) -/
  rdata : Nat
  /-- Completer Aborts and dropped writes logged by AER, and Unsupported Requests (14 R583, R586) -/
  aer : Nat
  unsupported : Nat
  /-- the diagnostic overlay is in force (14 R626) -/
  diag : Bool
  /-- security version in the fuses (16 R675, R700) -/
  fuseSvn : Nat
  deriving DecidableEq, Repr

/-- The state right after POR and MOD of a QBM8-640 (00 R2, 17 R722); see INVENTORY.md for each value. -/
def State.reset : State where
  pending := []
  freeCtr := 0
  variant := .qbm8
  regs := []
  mem := []
  marks := []
  ctxs := []
  vats := []
  rings := []
  hyd := []
  fns := []
  reports := []
  errLog := []
  errIndex := 0
  flashLog := []
  ceSeen := []
  time := 0
  commitWait := []
  commitRun := none
  deferred := []
  pcieUp := true
  bondReports := []
  modNum := 0xFFFF
  grants := []
  grantsNew := []
  slotOwn := []
  ports := []
  seen := []
  keys := []
  nextInjDie := none
  longTag := none
  nextRid := 1
  rackqs := []
  rackSeq := 0
  rkLast := []
  turnTile := []
  tunOwn := []
  ledNew := []
  specRows := []
  abortRk := []
  abortTun := []
  drainRk := []
  drainTun := []
  accq := []
  cplValue := 0
  backs := []
  tslots := []
  tunq := []
  abortSerial := 0
  dieHbAge := []
  jobs := []
  lostDies := 0
  failed := false
  slotHeld := []
  caps := []
  stages := []
  inocLeft := []
  kcores := []
  parts := []
  sessions := []
  nextSess := 1
  changes := []
  fenceRun := []
  fenceOld := []
  keyCtr := 0
  fwKey := 0
  bmrs := [(0, resetBmrs.getD 0 0), (1, resetBmrs.getD 1 0), (2, resetBmrs.getD 2 0), (3, resetBmrs.getD 3 0),
    (4, measured 0 (digBytes (sha384 shippedRecipe)))]
  imgSvns := (List.replicate 8 1 ++ [2, 3]).map (fun k => Config.imageSvn (Config.flashImage 0 k 0) % 256)
  aliasKey := aliasOf resetBmrs
  certs := certsOf (aliasOf resetBmrs)
  flashGen := 0
  recipes := []
  erased := 262144
  recipe := shippedRecipe
  recipeNow := shippedRecipe
  levels := []
  calm := []
  dieLevel := []
  phase := 0
  answered := 0
  trip := false
  smbAlert := false
  flashExt := false
  flashWait := false
  taps := []
  porSeq := false
  smb := []
  smbPec := 0
  rdata := 0
  aer := 0
  unsupported := 0
  diag := false
  fuseSvn := 0

end Sys2Proof.Machine
end

