-- ==== Sys2Proof/Machine/Num.lean ====
section
/-!
DEFINITION. Sys2Proof/Machine/Num.lean: the number formats, the one conversion procedure, block sums into wort and the
barm generator (04_number_formats.md, 05_training_numerics.md).
-/
namespace Sys2Proof.Machine

/-- Two's complement reading of the low w bits of n (04 R152). -/
def sx (w n : Nat) : Int :=
  let m := n % 2 ^ w
  if 2 * m < 2 ^ w then (m : Int) else (m : Int) - (2 ^ w : Nat)

/-- The low w bits of an integer, two's complement. -/
def tc (w : Nat) (i : Int) : Nat := (i % ((2 ^ w : Nat) : Int)).toNat

/-- i clamped to lo..hi. -/
def clampI (lo hi i : Int) : Int := if i < lo then lo else if hi < i then hi else i

/-- A decoded element (04 R161): NaN, an infinity, or the exact value ±m·2^e; a zero keeps its sign. -/
inductive Val where
  | nan
  | inf (neg : Bool)
  | fin (neg : Bool) (m : Nat) (e : Int)
  deriving DecidableEq, Repr

/-- The value of an exact integer times 2^e; zero decodes as +0. -/
def Val.ofInt (i : Int) (e : Int) : Val := .fin (decide (i < 0)) i.natAbs e

/-- Signed significand of a finite value (0 otherwise). -/
def Val.sig (v : Val) : Int := match v with
  | .fin neg m _ => if neg then -(m : Int) else (m : Int)
  | _ => 0

/-- Exponent of a finite value (0 otherwise). -/
def Val.exp (v : Val) : Int := match v with
  | .fin _ _ e => e
  | _ => 0

/-- The value times 2^k (04 R161, step 2). -/
def Val.scale (v : Val) (k : Int) : Val := match v with
  | .fin neg m e => .fin neg m (e + k)
  | w => w

/-- A floating-point format: mantissa bits, bias, largest exponent field of a finite value, width of the exponent field. -/
structure FFmt where
  mb : Nat
  bias : Int
  emax : Nat
  eb : Nat
  deriving DecidableEq, Repr

/-- 04 R153, R155, R159. -/
def fQF8 : FFmt := ⟨3, 8, 15, 4⟩
def fQF16 : FFmt := ⟨9, 31, 62, 6⟩
def fB16 : FFmt := ⟨10, 15, 30, 5⟩
def fB32 : FFmt := ⟨23, 127, 254, 8⟩

/-- The value of a code of a format with infinities and NaNs above emax (04 R155, R159). -/
def decFloat (f : FFmt) (c : Nat) : Val :=
  let man := c % 2 ^ f.mb
  let ex := c / 2 ^ f.mb % 2 ^ f.eb
  let neg := decide (c / 2 ^ (f.mb + f.eb) % 2 = 1)
  if f.emax < ex then (if man = 0 then .inf neg else .nan)
  else if ex = 0 then .fin neg man (1 - f.bias - (f.mb : Int))
  else .fin neg (2 ^ f.mb + man) ((ex : Int) - f.bias - (f.mb : Int))

/-- 04 R153. -/
def decQF8 (c : Nat) : Val := if c % 256 = 0x80 then .nan else decFloat fQF8 (c % 256)
/-- 04 R155. -/
def decQF16 (c : Nat) : Val := decFloat fQF16 (c % 65536)
/-- 04 R159. -/
def decB16 (c : Nat) : Val := decFloat fB16 (c % 65536)
/-- 04 R159. -/
def decB32 (c : Nat) : Val := decFloat fB32 (c % 2 ^ 32)
/-- 04 R157: element of a QB8 block with exponent byte bexp and mantissa byte m. -/
def decQB8 (bexp m : Nat) : Val :=
  if bexp % 256 = 255 ∨ m % 256 = 0x80 then .nan else Val.ofInt (sx 8 m) ((bexp % 256 : Nat) - 127 : Int)
/-- 04 R152: a w-bit integer. -/
def decInt (w c : Nat) : Val := Val.ofInt (sx w c) 0

/-- The rounding in force (04 R162, R163): to nearest even, or stochastic with the 32-bit value u. -/
inductive Rnd where
  | rne
  | sr (u : Nat)
  deriving DecidableEq, Repr

/-- m·2^e rounded to a whole multiple of 2^g, in units of 2^g (04 R162, R163). -/
def roundTo (m : Nat) (e g : Int) (r : Rnd) : Nat :=
  if g ≤ e then m * 2 ^ (e - g).toNat
  else
    let d := 2 ^ (g - e).toNat
    let q := m / d
    let rem := m % d
    if rem = 0 then q else
    match r with
    | .rne => if 2 * rem < d then q else if d < 2 * rem then q + 1 else if q % 2 = 0 then q else q + 1
    | .sr u => if u < rem * 2 ^ 32 / d then q + 1 else q

/-- floor(log2) of m·2^e, m nonzero. -/
def log2I (m : Nat) (e : Int) : Int := (Nat.log2 m : Int) + e

/-- Running-maximum encoding of a finite nonzero magnitude, read signed (04 R186). -/
def maxEnc (m : Nat) (e : Int) : Int :=
  let l := Nat.log2 m
  (log2I m e) * 65536 + (((m * 65536) / 2 ^ l) % 65536 : Nat)

/-- Counter updates of one element (04 R166). -/
structure Cnt where
  zero : Nat := 0
  sat : Nat := 0
  nonf : Nat := 0
  max : Option Int := none
  deriving DecidableEq, Repr

/-- Counts of several elements together (04 R187). -/
def Cnt.add (a b : Cnt) : Cnt :=
  { zero := a.zero + b.zero, sat := a.sat + b.sat, nonf := a.nonf + b.nonf,
    max := match a.max, b.max with
      | none, y => y
      | x, none => x
      | some x, some y => some (if x < y then y else x) }

/-- Grid exponent of a finite nonzero value in format f. -/
def gridExp (f : FFmt) (m : Nat) (e : Int) : Int :=
  let g := log2I m e - (f.mb : Int)
  let lo := 1 - f.bias - (f.mb : Int)
  if g < lo then lo else g

/-- Magnitude code of k·2^g in format f, none beyond the largest finite value. -/
def encMag (f : FFmt) (k : Nat) (g : Int) : Option Nat :=
  let lo := 1 - f.bias - (f.mb : Int)
  if k < 2 ^ f.mb then some k   -- a subnormal, or zero: its grid is the lowest
  else
    let up := Nat.log2 k - f.mb
    let ex := g + (up : Int) - lo + 1
    if (f.emax : Int) < ex then none else some (ex.toNat * 2 ^ f.mb + (k / 2 ^ up - 2 ^ f.mb))

/-- Conversion into QF16, binary16 or binary32 (04 R168, R169); nanCode and infMag are the format's. -/
def convFloat (f : FFmt) (nanCode infMag : Nat) (x : Val) (k : Int) (r : Rnd) : Nat × Cnt :=
  let sb := 2 ^ (f.mb + f.eb)
  match x.scale k with
  | .nan => (nanCode, { nonf := 1 })
  | .inf neg => (infMag + (if neg then sb else 0), { nonf := 1 })
  | .fin neg m e =>
    let s := if neg then sb else 0
    if m = 0 then (s, { zero := 1 }) else
    let g := gridExp f m e
    let q := roundTo m e g r
    let mx := some (maxEnc m e)
    if q = 0 then (s, { zero := 1, max := mx }) else
    match encMag f q g with
    | some c => (s + c, { max := mx })
    | none => (s + infMag, { sat := 1, nonf := 1, max := mx })

/-- 04 R168. -/
def convQF16 (x : Val) (k : Int) (r : Rnd) : Nat × Cnt := convFloat fQF16 0x7F00 0x7E00 x k r
/-- 04 R169. -/
def convB16 (x : Val) (k : Int) (r : Rnd) : Nat × Cnt := convFloat fB16 0x7E00 0x7C00 x k r
/-- 04 R169. -/
def convB32 (x : Val) (k : Int) (r : Rnd) : Nat × Cnt := convFloat fB32 0x7FC00000 0x7F800000 x k r

/-- Conversion into QF8 (04 R167). -/
def convQF8 (x : Val) (k : Int) (r : Rnd) : Nat × Cnt :=
  match x.scale k with
  | .nan => (0x80, { nonf := 1 })
  | .inf neg => (if neg then 0xFF else 0x7F, { sat := 1, nonf := 1 })
  | .fin neg m e =>
    if m = 0 then (0, { zero := 1 }) else
    let g := gridExp fQF8 m e
    let q := roundTo m e g r
    let mx := some (maxEnc m e)
    if q = 0 then (0, { zero := 1, max := mx }) else
    match encMag fQF8 q g with
    | some c => ((if neg then 0x80 else 0) + c, { max := mx })
    | none => (if neg then 0xFF else 0x7F, { sat := 1, max := mx })

/-- Conversion into an integer with bounds lo and hi (04 R170). -/
def convInt (lo hi : Int) (x : Val) (k : Int) (r : Rnd) : Int × Cnt :=
  match x.scale k with
  | .nan => (0, { nonf := 1 })
  | .inf neg => (if neg then lo else hi, { sat := 1, nonf := 1 })
  | .fin neg m e =>
    if m = 0 then (0, { zero := 1 }) else
    let q := roundTo m e 0 r
    let i : Int := if neg then -(q : Int) else (q : Int)
    let mx := some (maxEnc m e)
    if q = 0 then (0, { zero := 1, max := mx })
    else if i < lo then (lo, { sat := 1, max := mx })
    else if hi < i then (hi, { sat := 1, max := mx })
    else (i, { max := mx })

/-- The bounds of R170. -/
def i32Lo : Int := -2147483648
def i32Hi : Int := 2147483647

/-- Is m1·2^e1 below m2·2^e2? -/
def magLt (m1 : Nat) (e1 : Int) (m2 : Nat) (e2 : Int) : Bool :=
  if e1 ≤ e2 then decide (m1 < m2 * 2 ^ (e2 - e1).toNat) else decide (m1 * 2 ^ (e1 - e2).toNat < m2)

/-- Largest finite nonzero magnitude of a list (04 R171). -/
def maxMag (vs : List Val) : Option (Nat × Int) :=
  vs.foldl (fun a v => match v with
    | .fin _ m e => if m = 0 then a else match a with
      | none => some (m, e)
      | some (m', e') => if magLt m' e' m e then some (m, e) else a
    | _ => a) none

/-- Conversion of a block of values into QB8 (04 R171): the exponent byte, the mantissa bytes and the counts. -/
def convQB8 (xs : List Val) (k : Int) (rs : List Rnd) : Nat × List Nat × Cnt :=
  let vs := xs.map (fun x => x.scale k)
  let b0 : Nat := match maxMag vs with
    | none => 0
    | some (m, e) => (clampI 0 254 (log2I m e + 121)).toNat
  let mant (b : Nat) : List Nat := (vs.zip rs).map (fun p => match p.1 with
    | .fin _ m e => roundTo m (e + 127 - (b : Int)) 0 p.2
    | _ => 0)
  let b := if b0 < 254 ∧ (mant b0).contains 128 then b0 + 1 else b0
  let outs := (vs.zip (mant b)).map (fun p => match p.1 with
    | .nan => (0x80, ({ nonf := 1 } : Cnt))
    | .inf _ => (0x80, { sat := 1, nonf := 1 })
    | .fin neg m e =>
      if m = 0 then (0, { zero := 1 }) else
      let mx := some (maxEnc m e)
      if p.2 = 0 then (0, { zero := 1, max := mx }) else
      let q := if 127 < p.2 then 127 else p.2
      (tc 8 (if neg then -(q : Int) else (q : Int)),
        if 127 < p.2 then { sat := 1, max := mx } else { max := mx }))
  (b, outs.map (fun p => p.1), outs.foldl (fun c p => c.add p.2) {})

/-- Exact sum of two finite values as a significand and an exponent. -/
def addExact (m1 : Int) (e1 : Int) (m2 : Int) (e2 : Int) : Int × Int :=
  if e1 ≤ e2 then (m1 + m2 * ((2 ^ (e2 - e1).toNat : Nat) : Int), e1)
  else (m1 * ((2 ^ (e1 - e2).toNat : Nat) : Int) + m2, e2)

/-- binary32 sum old + v with one rounding as wort takes it (04 R175): an exact zero sum is +0. -/
def addB32 (old v : Val) (r : Rnd) : Nat :=
  match old, v with
  | .nan, _ => 0x7FC00000
  | _, .nan => 0x7FC00000
  | .inf a, .inf b => if a = b then (if a then 0xFF800000 else 0x7F800000) else 0x7FC00000
  | .inf a, _ => if a then 0xFF800000 else 0x7F800000
  | _, .inf b => if b then 0xFF800000 else 0x7F800000
  | .fin _ _ e1, .fin _ _ e2 =>
    let s := addExact old.sig e1 v.sig e2
    if s.1 = 0 then 0 else (convB32 (Val.ofInt s.1 s.2) 0 r).1

/-- Wort entry after a block sum (04 R174, R175): flt is the wort format, unit the exponent of the block sum's unit. -/
def wortUpdate (flt init : Bool) (unit : Int) (old : Word32) (bs : BSum) (r : Rnd) : Word32 :=
  match bs with
  | .poisoned => old
  | .nan => BitVec.ofNat 32 0x7FC00000
  | .sum v =>
    if flt then
      BitVec.ofNat 32 (addB32 (if init then .fin false 0 0 else decB32 old.toNat) (Val.ofInt v unit) r)
    else
      BitVec.ofNat 32 (tc 32 (clampI i32Lo i32Hi ((if init then 0 else sx 32 old.toNat) + v)))

/-- x rotated left by n in 32 bits. -/
def rotl32 (x n : Nat) : Nat := (x * 2 ^ n % 2 ^ 32) ||| (x / 2 ^ (32 - n))

/-- The state of the barm mixer: four 32-bit words (05 R220). -/
structure BarmSt where
  x0 : Nat
  x1 : Nat
  x2 : Nat
  x3 : Nat
  deriving DecidableEq, Repr

/-- Key word i of R220. -/
def barmKey (key i : Nat) : Nat :=
  let k0 := key % 2 ^ 32
  let k1 := key / 2 ^ 32 % 2 ^ 32
  if i % 3 = 0 then k0 else if i % 3 = 1 then k1 else (k0 ^^^ k1) ^^^ 0x6a09e667

/-- inject(j) of R220. -/
def barmInject (key j : Nat) (b : BarmSt) : BarmSt :=
  { x0 := b.x0 ^^^ barmKey key j, x1 := (b.x1 + barmKey key (j + 1)) % 2 ^ 32,
    x2 := b.x2 ^^^ barmKey key (j + 2), x3 := (b.x3 + 2 * j + 1) % 2 ^ 32 }

/-- One round of R220 with its rotations. -/
def barmRound (sr tr : Nat) (b : BarmSt) : BarmSt :=
  let x1 := (b.x1 + b.x0) % 2 ^ 32
  let x3 := rotl32 (b.x3 ^^^ x1) sr
  let x2 := (b.x2 + x3) % 2 ^ 32
  { x0 := rotl32 (b.x0 ^^^ x2) tr, x1 := x1, x2 := x2, x3 := x3 }

/-- The barm generator (05 R220): 64-bit key, 128-bit counter, 32-bit output. -/
def barm (key ctr : Nat) : Nat :=
  let b := barmInject key 0
    { x0 := ctr % 2 ^ 32, x1 := ctr / 2 ^ 32 % 2 ^ 32, x2 := ctr / 2 ^ 64 % 2 ^ 32, x3 := ctr / 2 ^ 96 % 2 ^ 32 }
  let b := barmInject key 1 (barmRound 19 3 (barmRound 7 13 b))
  let b := barmInject key 2 (barmRound 25 9 (barmRound 11 22 b))
  let b := barmInject key 3 (barmRound 14 29 (barmRound 5 17 b))
  b.x0 ^^^ b.x2

/-- The counter of R217. -/
def barmCtr (tid elem purp step : Nat) : Nat :=
  tid % 2 ^ 24 + elem % 2 ^ 40 * 2 ^ 24 + purp % 256 * 2 ^ 64 + step % 2 ^ 32 * 2 ^ 72

/-- ELEM of purpose 0x01 (05 R218, R221). -/
def wortElem (i j : Nat) : Nat := i % 2 ^ 20 * 2 ^ 20 + j % 2 ^ 20

end Sys2Proof.Machine
end

