-- ==== Sys2Proof/Machine/Ops.lean ====
section
/-!
DEFINITION. Sys2Proof/Machine/Ops.lean: the named operations over the module's state: sparse maps, bit fields, the byte store
with its codewords, free values, unit presence, hydrometer sets.
-/
namespace Sys2Proof.Machine

/-! ## Sparse maps -/

/-- The entry of key k, if listed. -/
def mfind {α : Type} : SMap α → Nat → Option α
  | [], _ => none
  | (j, x) :: m, k => if j = k then some x else if k < j then none else mfind m k

/-- Is k below every key of m? -/
def mlow {α : Type} (k : Nat) : SMap α → Bool
  | [] => true
  | (j, _) :: _ => decide (k < j)

/-- Keys strictly rising. -/
def mrising {α : Type} : SMap α → Bool
  | [] => true
  | (j, _) :: m => mlow j m && mrising m

/-- List x under k. -/
def mput {α : Type} : SMap α → Nat → α → SMap α
  | [], k, x => [(k, x)]
  | (j, y) :: m, k, x => if j = k then (k, x) :: m else if k < j then (k, x) :: (j, y) :: m else (j, y) :: mput m k x

/-- Drop the entry of k. -/
def mdel {α : Type} : SMap α → Nat → SMap α
  | [], _ => []
  | (j, y) :: m, k => if j = k then m else if k < j then (j, y) :: m else (j, y) :: mdel m k

/-- Value of k, d k when unlisted. -/
def mget {α : Type} (d : Nat → α) (m : SMap α) (k : Nat) : α := (mfind m k).getD (d k)

/-- Make x the value of k, keeping the canonical form: an entry is listed unless it equals what an unlisted key reads as. -/
def mset {α : Type} [DecidableEq α] (d : Nat → α) : SMap α → Nat → α → SMap α
  | [], k, x => if x = d k then [] else [(k, x)]
  | (j, y) :: m, k, x =>
    if j = k then (if x = d k then m else (k, x) :: m)
    else if k < j then (if x = d k then (j, y) :: m else (k, x) :: (j, y) :: m)
    else (j, y) :: mset d m k x

/-- The canonical form: keys strictly rising, no entry equal to what an unlisted key reads as. -/
def mwf {α : Type} [DecidableEq α] (d : Nat → α) (m : SMap α) : Bool :=
  mrising m && m.all (fun e => decide (e.2 ≠ d e.1))

/-! ## Queues -/

/-- Append x to a queue. -/
def enq {α : Type} (q : List α) (x : α) : List α := q ++ [x]

/-! ## Free values -/

/-- The next free value, w bits wide (DESIGN CHOICE, log entry 2). -/
def State.free (s : State) (w : Nat) : Nat := Config.freeValue s.freeCtr % 2 ^ w

/-- A free value has been taken. -/
def State.tick (s : State) : State := { s with freeCtr := s.freeCtr + 1 }

/-! ## Units present -/

/-- Dies of the module (00 R3, R5). -/
def State.nDies (s : State) : Nat := match s.variant with
  | .qbm2 => 2
  | .qbm4 => 4
  | .qbm8 => 8

/-- Die d exists. -/
def State.hasDie (s : State) (d : Nat) : Bool := decide (d < s.nDies)
/-- Vat v of die d exists (01 R21). -/
def State.hasVat (s : State) (d v : Nat) : Bool := s.hasDie d && decide (v < 16)
/-- Context c of die d exists (10 R401). -/
def State.hasCtx (s : State) (d c : Nat) : Bool := s.hasDie d && decide (c < 25600)

/-- A command on units that exist; else no unit can send it. -/
def guarded (ok : Bool) (s : State) : Host.Outcome State Fault Refusal :=
  if ok then .next s else .fault .absentUnit

/-! ## The byte store -/

/-- The memories of the module and of the host (08 R303, 02 R48, R314). -/
inductive Region where
  | granary (d : Nat)
  | floor (d v : Nat)
  | cellar (d : Nat)
  | ctx (d : Nat)
  | tunBuf (d : Nat)
  | wort (d v h : Nat)
  | grist (d v : Nat)
  | host
  deriving DecidableEq, Repr

/-- Region number: each region has 2^64 locations. -/
def Region.num : Region → Nat
  | .host => 0
  | .granary d => 1 + d
  | .cellar d => 16 + d
  | .ctx d => 32 + d
  | .tunBuf d => 48 + d
  | .floor d v => 64 + d * 16 + v
  | .grist d v => 320 + d * 16 + v
  | .wort d v h => 576 + (d * 16 + v) * 2 + h

/-- Location of byte o of a region. -/
def Region.loc (r : Region) (o : Nat) : Nat := r.num * 2 ^ 64 + o % 2 ^ 64

/-- What a byte nothing has written reads as (17 R726: the memories are zero-written; DESIGN CHOICE, log entry 6 for the host's). -/
def memDefault (_ : Nat) : Byte := 0

/-- One byte. -/
def State.peek (s : State) (r : Region) (o : Nat) : Byte := mget memDefault s.mem (r.loc o)

/-- n bytes from o, as stored. -/
def State.peeks (s : State) (r : Region) : Nat → Nat → List Byte
  | _, 0 => []
  | o, n + 1 => s.peek r o :: State.peeks s r (o + 1) n

/-- n bytes from o as a little-endian number. -/
def State.peekN (s : State) (r : Region) (o n : Nat) : Nat := ofBytes (s.peeks r o n)

/-- The byte list with bytes bs stored from o of region r. -/
def pokeMem (r : Region) : List Host.Cell → Nat → List Byte → List Host.Cell
  | m, _, [] => m
  | m, o, b :: bs => pokeMem r (mset memDefault m (r.loc o) b) (o + 1) bs

/-- Store bytes, leaving the check symbols alone. -/
def State.poke (s : State) (r : Region) (o : Nat) (bs : List Byte) : State := { s with mem := pokeMem r s.mem o bs }

/-- What an unlisted codeword decodes as. -/
def markDefault (_ : Nat) : Mark := .clean

/-- Key of the codeword that holds byte o (15 R633). -/
def cwKey (r : Region) (o : Nat) : Nat := r.loc o / 32

/-- Mark of the codeword of byte o. -/
def State.mark (s : State) (r : Region) (o : Nat) : Mark := mget markDefault s.marks (cwKey r o)

/-- Give the codeword of byte o a mark. -/
def State.setMark (s : State) (r : Region) (o : Nat) (m : Mark) : State :=
  { s with marks := mset markDefault s.marks (cwKey r o) m }

/-- Does a read of n bytes from o touch a poisoned sack (08 R327)? Sacks hold two codewords. -/
def State.poisoned (s : State) (r : Region) (o n : Nat) : Bool :=
  decide (0 < n) && (List.range ((o % 64 + n + 63) / 64)).any (fun i =>
    let k := o / 64 * 64 + 64 * i
    decide (s.mark r k = .poison) || decide (s.mark r (k + 32) = .poison))

/-! ## Hydrometer sets -/

/-- Key of a set (04 R184). -/
def hydKey (d p set : Nat) : Nat := (d * 8 + p % 8) * 64 + set % 64

def hydDefault (_ : Nat) : HydSet := {}

/-- The live set. -/
def State.hydSet (s : State) (d p set : Nat) : HydSet := mget hydDefault s.hyd (hydKey d p set)

/-- A count that sticks at 2^40 − 1 (04 R185). -/
def sat40 (n : Nat) : Nat := if 2 ^ 40 - 1 < n then 2 ^ 40 - 1 else n

/-- A set after counts are added (04 R185–R187). -/
def HydSet.add (h : HydSet) (c : Cnt) : HydSet :=
  { zero := sat40 (h.zero + c.zero), sat := sat40 (h.sat + c.sat), nonf := sat40 (h.nonf + c.nonf),
    max := match c.max with
      | none => h.max
      | some x => if h.max < x then x else h.max }

/-- Count conversions into a live set. -/
def State.count (s : State) (d p set : Nat) (c : Cnt) : State :=
  { s with hyd := mset hydDefault s.hyd (hydKey d p set) ((s.hydSet d p set).add c) }

/-! ## Units' records -/

def ctxDefault (_ : Nat) : Ctx := {}
def vatDefault (_ : Nat) : Vat := {}
def ringDefault (_ : Nat) : Ring := {}
def fnDefault (_ : Nat) : Fn := {}

/-- Context c of die d. -/
def State.ctx (s : State) (d c : Nat) : Ctx := mget ctxDefault s.ctxs (d * 25600 + c)
/-- Replace the engine's copy of a context. -/
def State.putCtx (s : State) (d c : Nat) (x : Ctx) : State := { s with ctxs := mset ctxDefault s.ctxs (d * 25600 + c) x }
/-- Vat v of die d. -/
def State.vat (s : State) (d v : Nat) : Vat := mget vatDefault s.vats (d * 16 + v)
/-- Replace a vat. -/
def State.putVat (s : State) (d v : Nat) (x : Vat) : State := { s with vats := mset vatDefault s.vats (d * 16 + v) x }
/-- Ring spine of die d. -/
def State.ring (s : State) (d : Nat) : Ring := mget ringDefault s.rings d
/-- Replace a ring spine. -/
def State.putRing (s : State) (d : Nat) (x : Ring) : State := { s with rings := mset ringDefault s.rings d x }
/-- Host function f. -/
def State.fn (s : State) (f : Nat) : Fn := mget fnDefault s.fns f
/-- Replace a host function. -/
def State.putFn (s : State) (f : Nat) (x : Fn) : State := { s with fns := mset fnDefault s.fns f x }

end Sys2Proof.Machine
end

