-- ==== Sys2Proof/Machine/Registers.lean ====
section
/-!
DEFINITION. Sys2Proof/Machine/Registers.lean: the register map of 19_register_reference.md, field by field, as data, and the
one way in which hardware and firmware read and write a register or a field of it.
-/
namespace Sys2Proof.Machine

/-- Access codes (19 R760). -/
inductive Acc where
  | rw
  | ro
  | wo
  | w1c
  | w1s
  | rc
  deriving DecidableEq, Repr

/-- A field: lowest bit, width, access code, reset value, the reset kinds that restore it (1 POR, 2 MOD, 4 WRM, 8 PRT, 16 ISL,
32 FLR), who else than firmware and the bond monitor may write it (1 kettle threads, 2 the function's driver, 4 the PF only:
19 R772), and the recipe lists that may name it (1 base, 2 modes 0–2, 4 mode 3: 19 R775). -/
structure Fld where
  lo : Nat
  w : Nat
  acc : Acc
  rst : Nat
  kinds : Nat
  opn : Nat
  recipe : Nat
  deriving DecidableEq, Repr

/-- Islands that hold registers (19 R768). -/
inductive Isl where
  | spine
  | vat
  | kettle
  | racking
  | tun
  | link
  | maltster
  | bond
  | pcie
  deriving DecidableEq, Repr

/-- Window classes (19 R771). -/
inductive RCls where
  | ident
  | partition
  | tag
  | vat
  | core
  | queue
  | module
  | function
  | secret
  deriving DecidableEq, Repr

/-- A row of the map (19 R768): name, offset of instance 0, bytes, two instance counts with their strides, island, whether only
D0 has it, window class, fields. -/
structure RegInfo where
  name : String
  off : Nat
  bytes : Nat
  n1 : Nat
  s1 : Nat
  n2 : Nat
  s2 : Nat
  isl : Isl
  d0 : Bool
  cls : RCls
  flds : List Fld
  deriving DecidableEq, Repr

/-- Reset kinds. -/
def kPOR : Nat := 1
def kMOD : Nat := 2
def kWRM : Nat := 4
def kPRT : Nat := 8
def kISL : Nat := 16
def kFLR : Nat := 32

/-- CTL_ID.DIE [2:0] (R766). -/
def ctlIdDie : Fld := ⟨0, 3, .ro, 0x0, 0, 0, 0⟩
/-- CTL_ID.NDIE [6:3] (R766). -/
def ctlIdNdie : Fld := ⟨3, 4, .ro, 0x0, 0, 0, 0⟩
/-- CTL_ID.HEAD [7] (R766). -/
def ctlIdHead : Fld := ⟨7, 1, .ro, 0x0, 0, 0, 0⟩
/-- CTL_ID.REV [15:8] (R766). -/
def ctlIdRev : Fld := ⟨8, 8, .ro, 0x0, 3, 0, 0⟩
/-- CTL_ID.IDCODE [63:32] (R766). -/
def ctlIdIdcode : Fld := ⟨32, 32, .ro, 0x0, 3, 0, 0⟩
/-- VAT_RSTAT.BANK0 [1:0] (R103). -/
def vatRstatBank0 : Fld := ⟨0, 2, .ro, 0x0, 31, 0, 0⟩
/-- VAT_RSTAT.BANK1 [3:2] (R103). -/
def vatRstatBank1 : Fld := ⟨2, 2, .ro, 0x0, 31, 0, 0⟩
/-- VAT_RSTAT.LASTPAR [4] (R103). -/
def vatRstatLastpar : Fld := ⟨4, 1, .ro, 0x0, 31, 0, 0⟩
/-- VAT_RSTAT.LASTKEEP [5] (R103). -/
def vatRstatLastkeep : Fld := ⟨5, 1, .ro, 0x0, 31, 0, 0⟩
/-- VAT_RSTAT.INOCC [11:6] (R103). -/
def vatRstatInocc : Fld := ⟨6, 6, .ro, 0x0, 31, 0, 0⟩
/-- VAT_RSTAT.OUTCRED [17:12] (R103). -/
def vatRstatOutcred : Fld := ⟨12, 6, .ro, 0x20, 31, 0, 0⟩
/-- VAT_RSTAT.WORT0 [19:18] (R103). -/
def vatRstatWort0 : Fld := ⟨18, 2, .ro, 0x0, 31, 0, 0⟩
/-- VAT_RSTAT.WORT1 [21:20] (R103). -/
def vatRstatWort1 : Fld := ⟨20, 2, .ro, 0x0, 31, 0, 0⟩
/-- VAT_RSTAT.DRAWPTR [28:22] (R103). -/
def vatRstatDrawptr : Fld := ⟨22, 7, .ro, 0x0, 31, 0, 0⟩
/-- VAT_RSTAT.GPMM [29] (R103). -/
def vatRstatGpmm : Fld := ⟨29, 1, .w1c, 0x0, 31, 1, 0⟩
/-- VAT_RSTAT.ABORTDRN [30] (R103). -/
def vatRstatAbortdrn : Fld := ⟨30, 1, .ro, 0x0, 31, 0, 0⟩
/-- VAT_IFAULT.CODE [7:0] (R149). -/
def vatIfaultCode : Fld := ⟨0, 8, .ro, 0x0, 31, 0, 0⟩
/-- VAT_IFAULT.CTX [17:8] (R149). -/
def vatIfaultCtx : Fld := ⟨8, 10, .ro, 0x0, 31, 0, 0⟩
/-- VAT_IFAULT.UNIT [19:18] (R149). -/
def vatIfaultUnit : Fld := ⟨18, 2, .ro, 0x3, 31, 0, 0⟩
/-- VAT_IFAULT.OPC [27:20] (R149). -/
def vatIfaultOpc : Fld := ⟨20, 8, .ro, 0x0, 31, 0, 0⟩
/-- VAT_IFAULT.MORE [30] (R149). -/
def vatIfaultMore : Fld := ⟨30, 1, .w1c, 0x0, 31, 3, 0⟩
/-- VAT_IFAULT.VALID [31] (R149). -/
def vatIfaultValid : Fld := ⟨31, 1, .w1c, 0x0, 31, 3, 0⟩
/-- VAT_SRCTL.THLOG [4:0] (R227). -/
def vatSrctlThlog : Fld := ⟨0, 5, .rw, 0xa, 31, 0, 0⟩
/-- VAT_SCALE.EXP [7:0] (R150). -/
def vatScaleExp : Fld := ⟨0, 8, .rw, 0x0, 31, 1, 0⟩
/-- SPINE_MODE.LONG [0] (R104). -/
def spineModeLong : Fld := ⟨0, 1, .rw, 0x0, 15, 0, 0⟩
/-- SPINE_MODE.PEND [1] (R104). -/
def spineModePend : Fld := ⟨1, 1, .ro, 0x0, 15, 0, 0⟩
/-- SPINE_MODE.DRAINED [2] (R104). -/
def spineModeDrained : Fld := ⟨2, 1, .ro, 0x1, 15, 0, 0⟩
/-- SPINE_MODE.INJDIE [5:3] (R104). -/
def spineModeInjdie : Fld := ⟨3, 3, .ro, 0x0, 15, 0, 0⟩
/-- HYD_SNAP.SET [5:0] (R189). -/
def hydSnapSet : Fld := ⟨0, 6, .wo, 0x0, 15, 3, 0⟩
/-- HYD_SINFO.SET [5:0] (R190). -/
def hydSinfoSet : Fld := ⟨0, 6, .ro, 0x0, 15, 0, 0⟩
/-- HYD_SINFO.VALID [6] (R190). -/
def hydSinfoValid : Fld := ⟨6, 1, .ro, 0x0, 15, 0, 0⟩
/-- HYD_SMAX.FRAC [15:0] (R192). -/
def hydSmaxFrac : Fld := ⟨0, 16, .ro, 0x0, 15, 0, 0⟩
/-- HYD_SMAX.EXP [31:16] (R192). -/
def hydSmaxExp : Fld := ⟨16, 16, .ro, 0x8000, 15, 0, 0⟩
/-- HYD_SZERO.COUNT [39:0] (R191). -/
def hydSzeroCount : Fld := ⟨0, 40, .ro, 0x0, 15, 0, 0⟩
/-- HYD_SSAT.COUNT [39:0] (R191). -/
def hydSsatCount : Fld := ⟨0, 40, .ro, 0x0, 15, 0, 0⟩
/-- HYD_SNONF.COUNT [39:0] (R191). -/
def hydSnonfCount : Fld := ⟨0, 40, .ro, 0x0, 15, 0, 0⟩
/-- THR_JOB.EN [0] (R446). -/
def thrJobEn : Fld := ⟨0, 1, .rw, 0x0, 15, 0, 0⟩
/-- THR_JOB.STRICT [1] (R446). -/
def thrJobStrict : Fld := ⟨1, 1, .rw, 0x0, 15, 0, 0⟩
/-- THR_JOB.PART [4:2] (R446). -/
def thrJobPart : Fld := ⟨2, 3, .rw, 0x0, 15, 0, 0⟩
/-- THR_JOB.CBASE [44:8] (R446). -/
def thrJobCbase : Fld := ⟨8, 37, .rw, 0x0, 15, 0, 0⟩
/-- THR_JOB.CLIM [95:64] (R446). -/
def thrJobClim : Fld := ⟨64, 32, .rw, 0x0, 15, 0, 0⟩
/-- BARM_KEY.KEY [63:0] (R225). -/
def barmKeyKey : Fld := ⟨0, 64, .rw, 0x0, 15, 0, 0⟩
/-- BARM_STEP.STEP [31:0] (R226). -/
def barmStepStep : Fld := ⟨0, 32, .rw, 0x0, 15, 1, 0⟩
/-- THR_WDOG.TMO [15:0] (R447). -/
def thrWdogTmo : Fld := ⟨0, 16, .rw, 0x2710, 15, 2, 3⟩
/-- THR_WDOG.FIRED [16] (R447). -/
def thrWdogFired : Fld := ⟨16, 1, .w1c, 0x0, 15, 3, 0⟩
/-- THR_WDOG.CTX [31:17] (R447). -/
def thrWdogCtx : Fld := ⟨17, 15, .ro, 0x0, 15, 0, 0⟩
/-- THR_WDOG.KIND [34:32] (R447). -/
def thrWdogKind : Fld := ⟨32, 3, .ro, 0x0, 15, 0, 0⟩
/-- THR_WDOG.TAG [42:35] (R447). -/
def thrWdogTag : Fld := ⟨35, 8, .ro, 0x0, 15, 0, 0⟩
/-- KET_CSTAT.XFER [0] (R541). -/
def ketCstatXfer : Fld := ⟨0, 1, .ro, 0x0, 23, 0, 0⟩
/-- KET_CSTAT.AQOCC [4:1] (R541). -/
def ketCstatAqocc : Fld := ⟨1, 4, .ro, 0x0, 23, 0, 0⟩
/-- KET_CSTAT.CHKMM [31:16] (R541). -/
def ketCstatChkmm : Fld := ⟨16, 16, .rc, 0x0, 23, 0, 0⟩
/-- KET_FAULT.CODE [7:0] (R539). -/
def ketFaultCode : Fld := ⟨0, 8, .ro, 0x0, 15, 0, 0⟩
/-- KET_FAULT.CTX [17:8] (R539). -/
def ketFaultCtx : Fld := ⟨8, 10, .ro, 0x0, 15, 0, 0⟩
/-- KET_FAULT.CORE [19:18] (R539). -/
def ketFaultCore : Fld := ⟨18, 2, .ro, 0x0, 15, 0, 0⟩
/-- KET_FAULT.OPC [27:20] (R539). -/
def ketFaultOpc : Fld := ⟨20, 8, .ro, 0x0, 15, 0, 0⟩
/-- KET_FAULT.TAG [35:28] (R539). -/
def ketFaultTag : Fld := ⟨28, 8, .ro, 0x0, 15, 0, 0⟩
/-- KET_FAULT.MORE [62] (R539). -/
def ketFaultMore : Fld := ⟨62, 1, .w1c, 0x0, 15, 3, 0⟩
/-- KET_FAULT.VALID [63] (R539). -/
def ketFaultValid : Fld := ⟨63, 1, .w1c, 0x0, 15, 3, 0⟩
/-- KET_OPT.NAPP [31:0] (R540). -/
def ketOptNapp : Fld := ⟨0, 32, .rw, 0x0, 15, 0, 0⟩
/-- KSC_CTRL.CAL [0] (R228). -/
def kscCtrlCal : Fld := ⟨0, 1, .rw, 0x0, 15, 0, 3⟩
/-- KSC_CTRL.APPLIED [1] (R228). -/
def kscCtrlApplied : Fld := ⟨1, 1, .wo, 0x0, 15, 1, 0⟩
/-- KSC_CTRL.SKIPPED [2] (R228). -/
def kscCtrlSkipped : Fld := ⟨2, 1, .wo, 0x0, 15, 1, 0⟩
/-- KSC_CTRL.SKIPLIM [15:8] (R228). -/
def kscCtrlSkiplim : Fld := ⟨8, 8, .rw, 0x10, 15, 0, 3⟩
/-- KSC_CTRL.SKIPCNT [23:16] (R228). -/
def kscCtrlSkipcnt : Fld := ⟨16, 8, .rw, 0x0, 15, 0, 0⟩
/-- RK_QCFG.EN [0] (R394). -/
def rkQcfgEn : Fld := ⟨0, 1, .rw, 0x0, 15, 0, 0⟩
/-- RK_QCFG.PART [3:1] (R394). -/
def rkQcfgPart : Fld := ⟨1, 3, .rw, 0x0, 7, 0, 0⟩
/-- RK_QCFG.QDEPTH [9:4] (R394). -/
def rkQcfgQdepth : Fld := ⟨4, 6, .rw, 0x0, 15, 0, 0⟩
/-- RK_QCFG.VC [13:10] (R394). -/
def rkQcfgVc : Fld := ⟨10, 4, .rw, 0x1, 15, 0, 0⟩
/-- RK_QCFG.RATE [29:14] (R394). -/
def rkQcfgRate : Fld := ⟨14, 16, .rw, 0x0, 15, 0, 0⟩
/-- RK_QCFG.BURST [37:30] (R394). -/
def rkQcfgBurst : Fld := ⟨30, 8, .rw, 0x0, 15, 0, 0⟩
/-- RK_QSTAT.OCC [6:0] (R395). -/
def rkQstatOcc : Fld := ⟨0, 7, .ro, 0x0, 15, 0, 0⟩
/-- RK_QSTAT.HOLD [7] (R395). -/
def rkQstatHold : Fld := ⟨7, 1, .ro, 0x0, 15, 0, 0⟩
/-- RK_QSTAT.BUDGET [28:8] (R395). -/
def rkQstatBudget : Fld := ⟨8, 21, .ro, 0x0, 15, 0, 0⟩
/-- RK_TRK.INUSE [17:0] (R396). -/
def rkTrkInuse : Fld := ⟨0, 18, .ro, 0x0, 7, 0, 0⟩
/-- RK_TRK.HELD [35:18] (R396). -/
def rkTrkHeld : Fld := ⟨18, 18, .ro, 0x0, 7, 0, 0⟩
/-- RK_TRK.PEAK [53:36] (R396). -/
def rkTrkPeak : Fld := ⟨36, 18, .rc, 0x0, 7, 0, 0⟩
/-- RK_TRKQ.QUOTA [17:0] (R397). -/
def rkTrkqQuota : Fld := ⟨0, 18, .rw, 0x4000, 7, 0, 0⟩
/-- RK_TRKQ.USED [35:18] (R397). -/
def rkTrkqUsed : Fld := ⟨18, 18, .ro, 0x0, 15, 0, 0⟩
/-- RK_TRKQ.HELD [53:36] (R397). -/
def rkTrkqHeld : Fld := ⟨36, 18, .ro, 0x0, 15, 0, 0⟩
/-- RK_FAULT.CODE [7:0] (R398). -/
def rkFaultCode : Fld := ⟨0, 8, .ro, 0x0, 15, 0, 0⟩
/-- RK_FAULT.CTX [19:8] (R398). -/
def rkFaultCtx : Fld := ⟨8, 12, .ro, 0x0, 15, 0, 0⟩
/-- RK_FAULT.KET [20] (R398). -/
def rkFaultKet : Fld := ⟨20, 1, .ro, 0x0, 15, 0, 0⟩
/-- RK_FAULT.QUEUE [28:21] (R398). -/
def rkFaultQueue : Fld := ⟨21, 8, .ro, 0x0, 15, 0, 0⟩
/-- RK_FAULT.OPC [36:29] (R398). -/
def rkFaultOpc : Fld := ⟨29, 8, .ro, 0x0, 15, 0, 0⟩
/-- RK_FAULT.TAG [44:37] (R398). -/
def rkFaultTag : Fld := ⟨37, 8, .ro, 0x0, 15, 0, 0⟩
/-- RK_FAULT.RCODE [52:45] (R398). -/
def rkFaultRcode : Fld := ⟨45, 8, .ro, 0x0, 15, 0, 0⟩
/-- RK_FAULT.MORE [62] (R398). -/
def rkFaultMore : Fld := ⟨62, 1, .w1c, 0x0, 15, 3, 0⟩
/-- RK_FAULT.VALID [63] (R398). -/
def rkFaultValid : Fld := ⟨63, 1, .w1c, 0x0, 15, 3, 0⟩
/-- RK_OVL.OVL [0] (R344). -/
def rkOvlOvl : Fld := ⟨0, 1, .w1c, 0x0, 15, 3, 0⟩
/-- RK_OVL.CTX [12:1] (R344). -/
def rkOvlCtx : Fld := ⟨1, 12, .ro, 0x0, 15, 0, 0⟩
/-- RK_OVL.TAG [20:13] (R344). -/
def rkOvlTag : Fld := ⟨13, 8, .ro, 0x0, 15, 0, 0⟩
/-- RK_OVL.DESC [30:21] (R344). -/
def rkOvlDesc : Fld := ⟨21, 10, .ro, 0x0, 15, 0, 0⟩
/-- RK_OVL.MORE [31] (R344). -/
def rkOvlMore : Fld := ⟨31, 1, .w1c, 0x0, 15, 3, 0⟩
/-- RK_CASK.CBASE [63:0] (R399). -/
def rkCaskCbase : Fld := ⟨0, 64, .rw, 0x0, 15, 1, 0⟩
/-- RK_CASK.CLIM [103:64] (R399). -/
def rkCaskClim : Fld := ⟨64, 40, .rw, 0x0, 15, 1, 0⟩
/-- RK_CASK.HBASE [191:128] (R399). -/
def rkCaskHbase : Fld := ⟨128, 64, .rw, 0x0, 15, 1, 0⟩
/-- RK_CASK.HLIM [231:192] (R399). -/
def rkCaskHlim : Fld := ⟨192, 40, .rw, 0x0, 15, 1, 0⟩
/-- RK_CASKST.CFILL [39:0] (R400). -/
def rkCaskstCfill : Fld := ⟨0, 40, .ro, 0x1000, 15, 0, 0⟩
/-- RK_CASKST.OVF [40] (R400). -/
def rkCaskstOvf : Fld := ⟨40, 1, .w1c, 0x0, 15, 3, 0⟩
/-- RK_CASKST.HFILL [103:64] (R400). -/
def rkCaskstHfill : Fld := ⟨64, 40, .ro, 0x0, 15, 0, 0⟩
/-- SLOT_CTL.EPOS [11:0] (R448). -/
def slotCtlEpos : Fld := ⟨0, 12, .ro, 0x0, 7, 0, 0⟩
/-- SLOT_CTL.ACT [12] (R448). -/
def slotCtlAct : Fld := ⟨12, 1, .ro, 0x0, 7, 0, 0⟩
/-- SLOT_CTL.SWAP [13] (R448). -/
def slotCtlSwap : Fld := ⟨13, 1, .w1s, 0x0, 7, 0, 0⟩
/-- SLOT_STAT.LOST [31:0] (R449). -/
def slotStatLost : Fld := ⟨0, 32, .rc, 0x0, 7, 0, 0⟩
/-- SLOT_STAT.CARRIED [63:32] (R449). -/
def slotStatCarried : Fld := ⟨32, 32, .rc, 0x0, 7, 0, 0⟩
/-- SLOT_STAT.CARRY [127:64] (R449). -/
def slotStatCarry : Fld := ⟨64, 64, .ro, 0x0, 7, 0, 0⟩
/-- TUN_AXIS.P [15:0] (R499). -/
def tunAxisP : Fld := ⟨0, 16, .rw, 0x0, 15, 0, 0⟩
/-- TUN_AXIS.C [31:16] (R499). -/
def tunAxisC : Fld := ⟨16, 16, .rw, 0x0, 15, 0, 0⟩
/-- TUN_AXIS.TOPO [32] (R499). -/
def tunAxisTopo : Fld := ⟨32, 1, .rw, 0x0, 15, 0, 0⟩
/-- TUN_AXIS.EN [33] (R499). -/
def tunAxisEn : Fld := ⟨33, 1, .rw, 0x0, 15, 0, 0⟩
/-- TUN_AXIS.VC [37:34] (R499). -/
def tunAxisVc : Fld := ⟨34, 4, .rw, 0x0, 15, 0, 0⟩
/-- TUN_AXIS.NEXTMOD [79:64] (R499). -/
def tunAxisNextmod : Fld := ⟨64, 16, .rw, 0x0, 15, 0, 0⟩
/-- TUN_AXIS.PREVMOD [95:80] (R499). -/
def tunAxisPrevmod : Fld := ⟨80, 16, .rw, 0x0, 15, 0, 0⟩
/-- TUN_AXIS.MEM [255:128] (R499). -/
def tunAxisMem : Fld := ⟨128, 128, .rw, 0x0, 15, 0, 0⟩
/-- TUN_COLL.CID [22:0] (R500). -/
def tunCollCid : Fld := ⟨0, 23, .rw, 0x0, 15, 1, 0⟩
/-- TUN_COLL.KIND [25:24] (R500). -/
def tunCollKind : Fld := ⟨24, 2, .rw, 0x0, 15, 1, 0⟩
/-- TUN_COLL.AXIS [28:26] (R500). -/
def tunCollAxis : Fld := ⟨26, 3, .rw, 0x0, 15, 1, 0⟩
/-- TUN_COLL.DIR [29] (R500). -/
def tunCollDir : Fld := ⟨29, 1, .rw, 0x0, 15, 1, 0⟩
/-- TUN_COLL.IFMT [31:30] (R500). -/
def tunCollIfmt : Fld := ⟨30, 2, .rw, 0x0, 15, 1, 0⟩
/-- TUN_COLL.OFMT [33:32] (R500). -/
def tunCollOfmt : Fld := ⟨32, 2, .rw, 0x0, 15, 1, 0⟩
/-- TUN_COLL.SXI [41:34] (R500). -/
def tunCollSxi : Fld := ⟨34, 8, .rw, 0x0, 15, 1, 0⟩
/-- TUN_COLL.SXO [49:42] (R500). -/
def tunCollSxo : Fld := ⟨42, 8, .rw, 0x0, 15, 1, 0⟩
/-- TUN_COLL.HSET [55:50] (R500). -/
def tunCollHset : Fld := ⟨50, 6, .rw, 0x0, 15, 1, 0⟩
/-- TUN_COLL.HEN [56] (R500). -/
def tunCollHen : Fld := ⟨56, 1, .rw, 0x0, 15, 1, 0⟩
/-- TUN_COLL.NELEM [103:64] (R500). -/
def tunCollNelem : Fld := ⟨64, 40, .rw, 0x0, 15, 1, 0⟩
/-- TUN_COLL.CBUF [113:104] (R500). -/
def tunCollCbuf : Fld := ⟨104, 10, .rw, 0x0, 15, 1, 0⟩
/-- TUN_COLL.NBUF [124:114] (R500). -/
def tunCollNbuf : Fld := ⟨114, 11, .rw, 0x0, 15, 1, 0⟩
/-- TUN_COLL.NLOC [137:128] (R500). -/
def tunCollNloc : Fld := ⟨128, 10, .rw, 0x0, 15, 1, 0⟩
/-- TUN_CSTAT.STATE [1:0] (R501). -/
def tunCstatState : Fld := ⟨0, 2, .ro, 0x0, 15, 0, 0⟩
/-- TUN_CSTAT.NREG [11:2] (R501). -/
def tunCstatNreg : Fld := ⟨2, 10, .ro, 0x0, 15, 0, 0⟩
/-- TUN_CSTAT.STEP [27:12] (R501). -/
def tunCstatStep : Fld := ⟨12, 16, .ro, 0x0, 15, 0, 0⟩
/-- TUN_MM.SCNT [15:0] (R502). -/
def tunMmScnt : Fld := ⟨0, 16, .rc, 0x0, 15, 0, 0⟩
/-- TUN_MM.VALID [16] (R502). -/
def tunMmValid : Fld := ⟨16, 1, .w1c, 0x0, 15, 1, 0⟩
/-- TUN_MM.CID [39:17] (R502). -/
def tunMmCid : Fld := ⟨17, 23, .ro, 0x0, 15, 0, 0⟩
/-- TUN_MM.CHUNK [72:40] (R502). -/
def tunMmChunk : Fld := ⟨40, 33, .ro, 0x0, 15, 0, 0⟩
/-- TUN_MM.NAMED [88:73] (R502). -/
def tunMmNamed : Fld := ⟨73, 16, .ro, 0x0, 15, 0, 0⟩
/-- TUN_MM.CHECK [90:89] (R502). -/
def tunMmCheck : Fld := ⟨89, 2, .ro, 0x0, 15, 0, 0⟩
/-- TUN_MM.CNT [91] (R502). -/
def tunMmCnt : Fld := ⟨91, 1, .ro, 0x0, 15, 0, 0⟩
/-- TUN_FAULT.CODE [7:0] (R503). -/
def tunFaultCode : Fld := ⟨0, 8, .ro, 0x0, 15, 0, 0⟩
/-- TUN_FAULT.CTX [17:8] (R503). -/
def tunFaultCtx : Fld := ⟨8, 10, .ro, 0x0, 15, 0, 0⟩
/-- TUN_FAULT.OPC [25:18] (R503). -/
def tunFaultOpc : Fld := ⟨18, 8, .ro, 0x0, 15, 0, 0⟩
/-- TUN_FAULT.TAG [33:26] (R503). -/
def tunFaultTag : Fld := ⟨26, 8, .ro, 0x0, 15, 0, 0⟩
/-- TUN_FAULT.SLOT [39:34] (R503). -/
def tunFaultSlot : Fld := ⟨34, 6, .ro, 0x0, 15, 0, 0⟩
/-- TUN_FAULT.RCODE [47:40] (R503). -/
def tunFaultRcode : Fld := ⟨40, 8, .ro, 0x0, 15, 0, 0⟩
/-- TUN_FAULT.MORE [62] (R503). -/
def tunFaultMore : Fld := ⟨62, 1, .w1c, 0x0, 15, 3, 0⟩
/-- TUN_FAULT.VALID [63] (R503). -/
def tunFaultValid : Fld := ⟨63, 1, .w1c, 0x0, 15, 3, 0⟩
/-- QL_PCTL.TRAIN [0] (R578). -/
def qlPctlTrain : Fld := ⟨0, 1, .rw, 0x0, 3, 0, 1⟩
/-- QL_PCTL.RETRAIN [1] (R578). -/
def qlPctlRetrain : Fld := ⟨1, 1, .w1s, 0x0, 3, 0, 0⟩
/-- QL_PCTL.NAX [4:2] (R578). -/
def qlPctlNax : Fld := ⟨2, 3, .rw, 0x7, 3, 0, 1⟩
/-- QL_PCTL.MINW [6:5] (R578). -/
def qlPctlMinw : Fld := ⟨5, 2, .rw, 0x2, 3, 0, 1⟩
/-- QL_PSTAT.TXST [2:0] (R579). -/
def qlPstatTxst : Fld := ⟨0, 3, .ro, 0x0, 19, 0, 0⟩
/-- QL_PSTAT.RXST [5:3] (R579). -/
def qlPstatRxst : Fld := ⟨3, 3, .ro, 0x0, 19, 0, 0⟩
/-- QL_PSTAT.TXW [7:6] (R579). -/
def qlPstatTxw : Fld := ⟨6, 2, .ro, 0x0, 19, 0, 0⟩
/-- QL_PSTAT.RXW [9:8] (R579). -/
def qlPstatRxw : Fld := ⟨8, 2, .ro, 0x0, 19, 0, 0⟩
/-- QL_PSTAT.AXMIS [10] (R579). -/
def qlPstatAxmis : Fld := ⟨10, 1, .ro, 0x0, 19, 0, 0⟩
/-- QL_PSTAT.FARPORT [15:11] (R579). -/
def qlPstatFarport : Fld := ⟨11, 5, .ro, 0x0, 19, 0, 0⟩
/-- QL_PSTAT.FARMOD [31:16] (R579). -/
def qlPstatFarmod : Fld := ⟨16, 16, .ro, 0xffff, 19, 0, 0⟩
/-- QL_PSTAT.FARNAX [34:32] (R579). -/
def qlPstatFarnax : Fld := ⟨32, 3, .ro, 0x7, 19, 0, 0⟩
/-- QL_PSTAT.SCRED [44:35] (R579). -/
def qlPstatScred : Fld := ⟨35, 10, .ro, 0x2a0, 19, 0, 0⟩
/-- QL_PSTAT.DUPID [45] (R579). -/
def qlPstatDupid : Fld := ⟨45, 1, .ro, 0x0, 19, 0, 0⟩
/-- QL_ECNT.CORR [47:0] (R581). -/
def qlEcntCorr : Fld := ⟨0, 48, .rc, 0x0, 3, 0, 0⟩
/-- QL_ECNT.UNCORR [79:48] (R581). -/
def qlEcntUncorr : Fld := ⟨48, 32, .rc, 0x0, 3, 0, 0⟩
/-- QL_ECNT.CRCERR [111:80] (R581). -/
def qlEcntCrcerr : Fld := ⟨80, 32, .rc, 0x0, 3, 0, 0⟩
/-- QL_ECNT.RETRY [143:112] (R581). -/
def qlEcntRetry : Fld := ⟨112, 32, .rc, 0x0, 3, 0, 0⟩
/-- QL_ECNT.RETRAIN [159:144] (R581). -/
def qlEcntRetrain : Fld := ⟨144, 16, .rc, 0x0, 3, 0, 0⟩
/-- QL_ECNT.AUTHF [175:160] (R581). -/
def qlEcntAuthf : Fld := ⟨160, 16, .rc, 0x0, 3, 0, 0⟩
/-- QL_ECNT.PROTO [191:176] (R581). -/
def qlEcntProto : Fld := ⟨176, 16, .rc, 0x0, 3, 0, 0⟩
/-- QL_ECNT.MISRT [207:192] (R581). -/
def qlEcntMisrt : Fld := ⟨192, 16, .rc, 0x0, 3, 0, 0⟩
/-- QL_VCSTAT.DCRED [9:0] (R580). -/
def qlVcstatDcred : Fld := ⟨0, 10, .ro, 0x0, 19, 0, 0⟩
/-- QL_VCSTAT.OCC [21:10] (R580). -/
def qlVcstatOcc : Fld := ⟨10, 12, .ro, 0x0, 19, 0, 0⟩
/-- QL_CGRP.EN [0] (R582). -/
def qlCgrpEn : Fld := ⟨0, 1, .rw, 0x0, 15, 0, 0⟩
/-- QL_CGRP.KSLOT [7:1] (R582). -/
def qlCgrpKslot : Fld := ⟨1, 7, .rw, 0x0, 15, 0, 0⟩
/-- QL_CGRP.CSTOP [8] (R582). -/
def qlCgrpCstop : Fld := ⟨8, 1, .ro, 0x0, 15, 0, 0⟩
/-- ERR_CECNT.GRAN [31:0] (R667). -/
def errCecntGran : Fld := ⟨0, 32, .rc, 0x0, 7, 0, 0⟩
/-- ERR_CECNT.FLOOR [63:32] (R667). -/
def errCecntFloor : Fld := ⟨32, 32, .rc, 0x0, 7, 0, 0⟩
/-- ERR_CECNT.WORT [95:64] (R667). -/
def errCecntWort : Fld := ⟨64, 32, .rc, 0x0, 7, 0, 0⟩
/-- ERR_CECNT.CELLAR [127:96] (R667). -/
def errCecntCellar : Fld := ⟨96, 32, .rc, 0x0, 7, 0, 0⟩
/-- ERR_CECFG.CETHR [15:0] (R668). -/
def errCecfgCethr : Fld := ⟨0, 16, .rw, 0x400, 7, 0, 5⟩
/-- INOC_CTL.POINT [7:0] (R669). -/
def inocCtlPoint : Fld := ⟨0, 8, .rw, 0x0, 7, 4, 4⟩
/-- INOC_CTL.INST [15:8] (R669). -/
def inocCtlInst : Fld := ⟨8, 8, .rw, 0x0, 7, 4, 4⟩
/-- INOC_CTL.POS [22:16] (R669). -/
def inocCtlPos : Fld := ⟨16, 7, .rw, 0x0, 7, 4, 4⟩
/-- INOC_CTL.SUB [29:23] (R669). -/
def inocCtlSub : Fld := ⟨23, 7, .rw, 0x0, 7, 4, 4⟩
/-- INOC_CTL.BIT [35:30] (R669). -/
def inocCtlBit : Fld := ⟨30, 6, .rw, 0x0, 7, 4, 4⟩
/-- INOC_CTL.NSYM [37:36] (R669). -/
def inocCtlNsym : Fld := ⟨36, 2, .rw, 0x1, 7, 4, 4⟩
/-- INOC_CTL.COUNT [53:38] (R669). -/
def inocCtlCount : Fld := ⟨38, 16, .rw, 0x1, 7, 4, 4⟩
/-- INOC_CTL.ARM [54] (R669). -/
def inocCtlArm : Fld := ⟨54, 1, .w1s, 0x0, 7, 4, 4⟩
/-- INOC_CTL.DISARM [55] (R669). -/
def inocCtlDisarm : Fld := ⟨55, 1, .w1s, 0x0, 7, 4, 0⟩
/-- INOC_STAT.FIRED [15:0] (R670). -/
def inocStatFired : Fld := ⟨0, 16, .rc, 0x0, 7, 0, 0⟩
/-- INOC_STAT.PEND [16] (R670). -/
def inocStatPend : Fld := ⟨16, 1, .ro, 0x0, 7, 0, 0⟩
/-- INOC_STAT.REFUSED [17] (R670). -/
def inocStatRefused : Fld := ⟨17, 1, .w1c, 0x0, 7, 4, 0⟩
/-- HB_CTL.HBPER [15:0] (R671). -/
def hbCtlHbper : Fld := ⟨0, 16, .rw, 0x3e8, 7, 0, 5⟩
/-- HB_CTL.HBMISS [19:16] (R671). -/
def hbCtlHbmiss : Fld := ⟨16, 4, .rw, 0x3, 7, 0, 5⟩
/-- BOND_STAT.LIFE [1:0] (R703). -/
def bondStatLife : Fld := ⟨0, 2, .ro, 0x0, 3, 0, 0⟩
/-- BOND_STAT.FSVN [15:8] (R703). -/
def bondStatFsvn : Fld := ⟨8, 8, .ro, 0x0, 3, 0, 0⟩
/-- BOND_STAT.IMGSEL [23:16] (R703). -/
def bondStatImgsel : Fld := ⟨16, 8, .ro, 0x0, 3, 0, 0⟩
/-- BOND_FENCE.GEN [31:0] (R704). -/
def bondFenceGen : Fld := ⟨0, 32, .ro, 0x0, 7, 0, 0⟩
/-- BOND_FENCE.BUSY [32] (R704). -/
def bondFenceBusy : Fld := ⟨32, 1, .ro, 0x0, 7, 0, 0⟩
/-- BOND_FENCE.SWITCHED [40:33] (R704). -/
def bondFenceSwitched : Fld := ⟨33, 8, .ro, 0x0, 7, 0, 0⟩
/-- HU_STAT.ENERGY [23:0] (R706). -/
def huStatEnergy : Fld := ⟨0, 24, .ro, 0x2328, 3, 0, 0⟩
/-- HU_STAT.PGOOD [24] (R706). -/
def huStatPgood : Fld := ⟨24, 1, .ro, 0x1, 3, 0, 0⟩
/-- HU_STAT.CBUSY [25] (R706). -/
def huStatCbusy : Fld := ⟨25, 1, .ro, 0x0, 3, 0, 0⟩
/-- HU_STAT.DEFQ [32:26] (R706). -/
def huStatDefq : Fld := ⟨26, 7, .ro, 0x0, 3, 0, 0⟩
/-- HU_STAT.DROPPED [48:33] (R706). -/
def huStatDropped : Fld := ⟨33, 16, .rc, 0x0, 3, 0, 0⟩
/-- PART_STAT.STATE [1:0] (R705). -/
def partStatState : Fld := ⟨0, 2, .ro, 0x0, 7, 0, 0⟩
/-- PART_STAT.TDI [3:2] (R705). -/
def partStatTdi : Fld := ⟨2, 2, .ro, 0x0, 15, 0, 0⟩
/-- PART_STAT.OWNED [4] (R705). -/
def partStatOwned : Fld := ⟨4, 1, .ro, 0x0, 15, 0, 0⟩
/-- PART_STAT.INOCG [5] (R705). -/
def partStatInocg : Fld := ⟨5, 1, .ro, 0x0, 15, 0, 0⟩
/-- PART_STAT.IDEOK [6] (R705). -/
def partStatIdeok : Fld := ⟨6, 1, .ro, 0x0, 15, 0, 0⟩
/-- ISL_REST.RESTEN [30:0] (R731). -/
def islRestResten : Fld := ⟨0, 31, .rw, 0x47fffff, 7, 4, 1⟩
/-- ISL_REST.RESTED [62:32] (R731). -/
def islRestRested : Fld := ⟨32, 31, .ro, 0x0, 7, 0, 0⟩
/-- PWR_TEL.PDIE [15:0] (R732). -/
def pwrTelPdie : Fld := ⟨0, 16, .ro, 0x0, 3, 0, 0⟩
/-- PWR_TEL.PSTK [31:16] (R732). -/
def pwrTelPstk : Fld := ⟨16, 16, .ro, 0x0, 3, 0, 0⟩
/-- PWR_TEL.TJ [39:32] (R732). -/
def pwrTelTj : Fld := ⟨32, 8, .ro, 0x0, 3, 0, 0⟩
/-- PWR_TEL.TSTK [47:40] (R732). -/
def pwrTelTstk : Fld := ⟨40, 8, .ro, 0x0, 3, 0, 0⟩
/-- PWR_TEL.TJPK [55:48] (R732). -/
def pwrTelTjpk : Fld := ⟨48, 8, .rc, 0x0, 3, 0, 0⟩
/-- PWR_CTL.DORMREQ [7:0] (R729). -/
def pwrCtlDormreq : Fld := ⟨0, 8, .rw, 0x0, 7, 4, 0⟩
/-- PWR_CTL.PLIM [19:8] (R729). -/
def pwrCtlPlim : Fld := ⟨8, 12, .rw, 0xc80, 7, 4, 1⟩
/-- PWR_CTL.LFLOOR [22:20] (R729). -/
def pwrCtlLfloor : Fld := ⟨20, 3, .rw, 0x0, 7, 4, 1⟩
/-- PWR_STAT.DORM [7:0] (R730). -/
def pwrStatDorm : Fld := ⟨0, 8, .ro, 0x0, 7, 0, 0⟩
/-- PWR_STAT.LEVEL [10:8] (R730). -/
def pwrStatLevel : Fld := ⟨8, 3, .ro, 0x0, 3, 0, 0⟩
/-- PWR_STAT.CAUSE [15:11] (R730). -/
def pwrStatCause : Fld := ⟨11, 5, .ro, 0x0, 3, 0, 0⟩
/-- PWR_STAT.SLEEP [16] (R730). -/
def pwrStatSleep : Fld := ⟨16, 1, .ro, 0x0, 7, 0, 0⟩
/-- PWR_STAT.PEND [17] (R730). -/
def pwrStatPend : Fld := ⟨17, 1, .ro, 0x0, 7, 0, 0⟩
/-- PWR_STAT.THRCNT [47:32] (R730). -/
def pwrStatThrcnt : Fld := ⟨32, 16, .rc, 0x0, 3, 0, 0⟩
/-- PWR_STAT.WAKES [63:48] (R730). -/
def pwrStatWakes : Fld := ⟨48, 16, .rc, 0x0, 7, 0, 0⟩
/-- PWR_IN.VIN [15:0] (R733). -/
def pwrInVin : Fld := ⟨0, 16, .ro, 0xbb80, 3, 0, 0⟩
/-- PWR_IN.IIN [31:16] (R733). -/
def pwrInIin : Fld := ⟨16, 16, .ro, 0x0, 3, 0, 0⟩
/-- PWR_IN.PIN [47:32] (R733). -/
def pwrInPin : Fld := ⟨32, 16, .ro, 0x0, 3, 0, 0⟩
/-- PWR_IN.PPK [63:48] (R733). -/
def pwrInPpk : Fld := ⟨48, 16, .rc, 0x0, 3, 0, 0⟩
/-- GPIO_CTL.IN [3:0] (R748). -/
def gpioCtlIn : Fld := ⟨0, 4, .ro, 0x0, 3, 0, 0⟩
/-- GPIO_CTL.OE [5:4] (R748). -/
def gpioCtlOe : Fld := ⟨4, 2, .rw, 0x0, 7, 4, 1⟩
/-- GPIO_CTL.OUT [7:6] (R748). -/
def gpioCtlOut : Fld := ⟨6, 2, .rw, 0x0, 7, 4, 1⟩
/-- HI_RINGCFG.CBASE [63:0] (R630). -/
def hiRingcfgCbase : Fld := ⟨0, 64, .rw, 0x0, 35, 2, 0⟩
/-- HI_RINGCFG.CLOG [68:64] (R630). -/
def hiRingcfgClog : Fld := ⟨64, 5, .rw, 0x6, 35, 2, 0⟩
/-- HI_RINGCFG.PLOG [73:69] (R630). -/
def hiRingcfgPlog : Fld := ⟨69, 5, .rw, 0x6, 35, 2, 0⟩
/-- HI_RINGCFG.EN [74] (R630). -/
def hiRingcfgEn : Fld := ⟨74, 1, .rw, 0x0, 35, 2, 0⟩
/-- HI_RINGCFG.RESTART [75] (R630). -/
def hiRingcfgRestart : Fld := ⟨75, 1, .w1s, 0x0, 35, 2, 0⟩
/-- HI_RINGCFG.IRQEN [76] (R630). -/
def hiRingcfgIrqen : Fld := ⟨76, 1, .rw, 0x0, 35, 2, 0⟩
/-- HI_RINGCFG.PBASE [191:128] (R630). -/
def hiRingcfgPbase : Fld := ⟨128, 64, .rw, 0x0, 35, 2, 0⟩
/-- HI_RINGST.CMDHEAD [31:0] (R631). -/
def hiRingstCmdhead : Fld := ⟨0, 32, .ro, 0x0, 35, 0, 0⟩
/-- HI_RINGST.HALTED [32] (R631). -/
def hiRingstHalted : Fld := ⟨32, 1, .ro, 0x0, 35, 0, 0⟩
/-- HI_RINGST.HCAUSE [35:33] (R631). -/
def hiRingstHcause : Fld := ⟨33, 3, .ro, 0x0, 35, 0, 0⟩
/-- HI_RINGST.LONGRUN [42:36] (R631). -/
def hiRingstLongrun : Fld := ⟨36, 7, .ro, 0x0, 35, 0, 0⟩
/-- HI_RINGST.EVQ [51:43] (R631). -/
def hiRingstEvq : Fld := ⟨43, 9, .ro, 0x0, 35, 0, 0⟩
/-- HI_RINGST.EVLOST [63:56] (R631). -/
def hiRingstEvlost : Fld := ⟨56, 8, .rc, 0x0, 35, 0, 0⟩

/-- CTL_ID (R766; place R768, writers —). -/
def rgCtlId : RegInfo :=
  ⟨"CTL_ID", 0x0, 8, 1, 0x0, 1, 0x0, .spine, false, .ident,
   [ctlIdDie, ctlIdNdie, ctlIdHead, ctlIdRev, ctlIdIdcode]⟩
/-- VAT_RSTAT (R103; place R768, writers F, K). -/
def rgVatRstat : RegInfo :=
  ⟨"VAT_RSTAT", 0x10000, 4, 16, 0x1000, 1, 0x0, .vat, false, .vat,
   [vatRstatBank0, vatRstatBank1, vatRstatLastpar, vatRstatLastkeep, vatRstatInocc, vatRstatOutcred, vatRstatWort0, vatRstatWort1, vatRstatDrawptr, vatRstatGpmm, vatRstatAbortdrn]⟩
/-- VAT_IFAULT (R149; place R768, writers F, K, D). -/
def rgVatIfault : RegInfo :=
  ⟨"VAT_IFAULT", 0x10004, 4, 16, 0x1000, 1, 0x0, .vat, false, .vat,
   [vatIfaultCode, vatIfaultCtx, vatIfaultUnit, vatIfaultOpc, vatIfaultMore, vatIfaultValid]⟩
/-- VAT_SRCTL (R227; place R768, writers F). -/
def rgVatSrctl : RegInfo :=
  ⟨"VAT_SRCTL", 0x10008, 4, 16, 0x1000, 1, 0x0, .vat, false, .vat,
   [vatSrctlThlog]⟩
/-- VAT_SCALE (R150; place R768, writers F, K). -/
def rgVatScale : RegInfo :=
  ⟨"VAT_SCALE", 0x10040, 4, 16, 0x1000, 16, 0x4, .vat, false, .vat,
   [vatScaleExp]⟩
/-- SPINE_MODE (R104; place R768, writers F). -/
def rgSpineMode : RegInfo :=
  ⟨"SPINE_MODE", 0x20000, 4, 1, 0x0, 1, 0x0, .spine, false, .module,
   [spineModeLong, spineModePend, spineModeDrained, spineModeInjdie]⟩
/-- HYD_SNAP (R189; place R768, writers F, K, D). -/
def rgHydSnap : RegInfo :=
  ⟨"HYD_SNAP", 0x20100, 4, 8, 0x40, 1, 0x0, .spine, false, .partition,
   [hydSnapSet]⟩
/-- HYD_SINFO (R190; place R768, writers —). -/
def rgHydSinfo : RegInfo :=
  ⟨"HYD_SINFO", 0x20104, 4, 8, 0x40, 1, 0x0, .spine, false, .partition,
   [hydSinfoSet, hydSinfoValid]⟩
/-- HYD_SMAX (R192; place R768, writers —). -/
def rgHydSmax : RegInfo :=
  ⟨"HYD_SMAX", 0x20108, 4, 8, 0x40, 1, 0x0, .spine, false, .partition,
   [hydSmaxFrac, hydSmaxExp]⟩
/-- HYD_SZERO (R191; place R768, writers —). -/
def rgHydSzero : RegInfo :=
  ⟨"HYD_SZERO", 0x20110, 8, 8, 0x40, 1, 0x0, .spine, false, .partition,
   [hydSzeroCount]⟩
/-- HYD_SSAT (R191; place R768, writers —). -/
def rgHydSsat : RegInfo :=
  ⟨"HYD_SSAT", 0x20118, 8, 8, 0x40, 1, 0x0, .spine, false, .partition,
   [hydSsatCount]⟩
/-- HYD_SNONF (R191; place R768, writers —). -/
def rgHydSnonf : RegInfo :=
  ⟨"HYD_SNONF", 0x20120, 8, 8, 0x40, 1, 0x0, .spine, false, .partition,
   [hydSnonfCount]⟩
/-- THR_JOB (R446; place R768, writers F). -/
def rgThrJob : RegInfo :=
  ⟨"THR_JOB", 0x30000, 16, 256, 0x10, 1, 0x0, .spine, false, .tag,
   [thrJobEn, thrJobStrict, thrJobPart, thrJobCbase, thrJobClim]⟩
/-- BARM_KEY (R225; place R768, writers F). -/
def rgBarmKey : RegInfo :=
  ⟨"BARM_KEY", 0x31000, 8, 256, 0x8, 1, 0x0, .spine, false, .secret,
   [barmKeyKey]⟩
/-- BARM_STEP (R226; place R768, writers F, K). -/
def rgBarmStep : RegInfo :=
  ⟨"BARM_STEP", 0x32000, 4, 256, 0x4, 1, 0x0, .spine, false, .tag,
   [barmStepStep]⟩
/-- THR_WDOG (R447; place R768, writers F, K, D). -/
def rgThrWdog : RegInfo :=
  ⟨"THR_WDOG", 0x33000, 8, 8, 0x8, 1, 0x0, .spine, false, .partition,
   [thrWdogTmo, thrWdogFired, thrWdogCtx, thrWdogKind, thrWdogTag]⟩
/-- KET_CSTAT (R541; place R768, writers —). -/
def rgKetCstat : RegInfo :=
  ⟨"KET_CSTAT", 0x40000, 4, 4, 0x4, 1, 0x0, .kettle, false, .core,
   [ketCstatXfer, ketCstatAqocc, ketCstatChkmm]⟩
/-- KET_FAULT (R539; place R768, writers F, K, D). -/
def rgKetFault : RegInfo :=
  ⟨"KET_FAULT", 0x40100, 8, 8, 0x8, 1, 0x0, .spine, false, .partition,
   [ketFaultCode, ketFaultCtx, ketFaultCore, ketFaultOpc, ketFaultTag, ketFaultMore, ketFaultValid]⟩
/-- KET_OPT (R540; place R768, writers F). -/
def rgKetOpt : RegInfo :=
  ⟨"KET_OPT", 0x40200, 8, 8, 0x8, 1, 0x0, .spine, false, .partition,
   [ketOptNapp]⟩
/-- KSC_CTRL (R228; place R768, writers F, K). -/
def rgKscCtrl : RegInfo :=
  ⟨"KSC_CTRL", 0x40300, 4, 8, 0x4, 1, 0x0, .spine, false, .partition,
   [kscCtrlCal, kscCtrlApplied, kscCtrlSkipped, kscCtrlSkiplim, kscCtrlSkipcnt]⟩
/-- RK_QCFG (R394; place R768, writers F). -/
def rgRkQcfg : RegInfo :=
  ⟨"RK_QCFG", 0x50000, 8, 256, 0x8, 1, 0x0, .racking, false, .queue,
   [rkQcfgEn, rkQcfgPart, rkQcfgQdepth, rkQcfgVc, rkQcfgRate, rkQcfgBurst]⟩
/-- RK_QSTAT (R395; place R768, writers —). -/
def rgRkQstat : RegInfo :=
  ⟨"RK_QSTAT", 0x51000, 4, 256, 0x4, 1, 0x0, .racking, false, .queue,
   [rkQstatOcc, rkQstatHold, rkQstatBudget]⟩
/-- RK_TRK (R396; place R768, writers —). -/
def rgRkTrk : RegInfo :=
  ⟨"RK_TRK", 0x52000, 8, 1, 0x0, 1, 0x0, .racking, false, .module,
   [rkTrkInuse, rkTrkHeld, rkTrkPeak]⟩
/-- RK_TRKQ (R397; place R768, writers B). -/
def rgRkTrkq : RegInfo :=
  ⟨"RK_TRKQ", 0x52100, 8, 8, 0x8, 1, 0x0, .racking, false, .partition,
   [rkTrkqQuota, rkTrkqUsed, rkTrkqHeld]⟩
/-- RK_FAULT (R398; place R768, writers F, K, D). -/
def rgRkFault : RegInfo :=
  ⟨"RK_FAULT", 0x52200, 8, 8, 0x8, 1, 0x0, .racking, false, .partition,
   [rkFaultCode, rkFaultCtx, rkFaultKet, rkFaultQueue, rkFaultOpc, rkFaultTag, rkFaultRcode, rkFaultMore, rkFaultValid]⟩
/-- RK_OVL (R344; place R768, writers F, K, D). -/
def rgRkOvl : RegInfo :=
  ⟨"RK_OVL", 0x52300, 4, 8, 0x4, 1, 0x0, .racking, false, .partition,
   [rkOvlOvl, rkOvlCtx, rkOvlTag, rkOvlDesc, rkOvlMore]⟩
/-- RK_CASK (R399; place R768, writers F, K). -/
def rgRkCask : RegInfo :=
  ⟨"RK_CASK", 0x54000, 32, 8, 0x200, 16, 0x20, .racking, false, .partition,
   [rkCaskCbase, rkCaskClim, rkCaskHbase, rkCaskHlim]⟩
/-- RK_CASKST (R400; place R768, writers F, K, D). -/
def rgRkCaskst : RegInfo :=
  ⟨"RK_CASKST", 0x56000, 16, 8, 0x100, 16, 0x10, .racking, false, .partition,
   [rkCaskstCfill, rkCaskstOvf, rkCaskstHfill]⟩
/-- SLOT_CTL (R448; place R768, writers F). -/
def rgSlotCtl : RegInfo :=
  ⟨"SLOT_CTL", 0xc0000, 4, 5, 0x10, 1, 0x0, .spine, false, .module,
   [slotCtlEpos, slotCtlAct, slotCtlSwap]⟩
/-- SLOT_STAT (R449; place R768, writers —). -/
def rgSlotStat : RegInfo :=
  ⟨"SLOT_STAT", 0xc0100, 16, 5, 0x10, 1, 0x0, .spine, false, .module,
   [slotStatLost, slotStatCarried, slotStatCarry]⟩
/-- SLOT_ENT0 (R428, R769; place R768, writers F). -/
def rgSlotEnt0 : RegInfo :=
  ⟨"SLOT_ENT0", 0xd0000, 8192, 5, 0x4000, 1, 0x0, .spine, false, .module,
   []⟩
/-- SLOT_ENT1 (R428, R769; place R768, writers F). -/
def rgSlotEnt1 : RegInfo :=
  ⟨"SLOT_ENT1", 0xd2000, 8192, 5, 0x4000, 1, 0x0, .spine, false, .module,
   []⟩
/-- TUN_AXIS (R499; place R768, writers F). -/
def rgTunAxis : RegInfo :=
  ⟨"TUN_AXIS", 0x100000, 32, 256, 0x100, 6, 0x20, .tun, false, .tag,
   [tunAxisP, tunAxisC, tunAxisTopo, tunAxisEn, tunAxisVc, tunAxisNextmod, tunAxisPrevmod, tunAxisMem]⟩
/-- TUN_COLL (R500; place R768, writers F, K). -/
def rgTunColl : RegInfo :=
  ⟨"TUN_COLL", 0x110000, 32, 8, 0x800, 64, 0x20, .tun, false, .partition,
   [tunCollCid, tunCollKind, tunCollAxis, tunCollDir, tunCollIfmt, tunCollOfmt, tunCollSxi, tunCollSxo, tunCollHset, tunCollHen, tunCollNelem, tunCollCbuf, tunCollNbuf, tunCollNloc]⟩
/-- TUN_CSTAT (R501; place R768, writers —). -/
def rgTunCstat : RegInfo :=
  ⟨"TUN_CSTAT", 0x118000, 8, 8, 0x200, 64, 0x8, .tun, false, .partition,
   [tunCstatState, tunCstatNreg, tunCstatStep]⟩
/-- TUN_MM (R502; place R768, writers F, K). -/
def rgTunMm : RegInfo :=
  ⟨"TUN_MM", 0x120000, 16, 256, 0x10, 1, 0x0, .tun, false, .tag,
   [tunMmScnt, tunMmValid, tunMmCid, tunMmChunk, tunMmNamed, tunMmCheck, tunMmCnt]⟩
/-- TUN_FAULT (R503; place R768, writers F, K, D). -/
def rgTunFault : RegInfo :=
  ⟨"TUN_FAULT", 0x121000, 8, 8, 0x8, 1, 0x0, .tun, false, .partition,
   [tunFaultCode, tunFaultCtx, tunFaultOpc, tunFaultTag, tunFaultSlot, tunFaultRcode, tunFaultMore, tunFaultValid]⟩
/-- QL_PCTL (R578; place R768, writers F). -/
def rgQlPctl : RegInfo :=
  ⟨"QL_PCTL", 0x140000, 4, 3, 0x1000, 1, 0x0, .link, false, .module,
   [qlPctlTrain, qlPctlRetrain, qlPctlNax, qlPctlMinw]⟩
/-- QL_PSTAT (R579; place R768, writers —). -/
def rgQlPstat : RegInfo :=
  ⟨"QL_PSTAT", 0x140008, 8, 3, 0x1000, 1, 0x0, .link, false, .module,
   [qlPstatTxst, qlPstatRxst, qlPstatTxw, qlPstatRxw, qlPstatAxmis, qlPstatFarport, qlPstatFarmod, qlPstatFarnax, qlPstatScred, qlPstatDupid]⟩
/-- QL_ECNT (R581; place R768, writers —). -/
def rgQlEcnt : RegInfo :=
  ⟨"QL_ECNT", 0x140020, 32, 3, 0x1000, 1, 0x0, .link, false, .module,
   [qlEcntCorr, qlEcntUncorr, qlEcntCrcerr, qlEcntRetry, qlEcntRetrain, qlEcntAuthf, qlEcntProto, qlEcntMisrt]⟩
/-- QL_VCSTAT (R580; place R768, writers —). -/
def rgQlVcstat : RegInfo :=
  ⟨"QL_VCSTAT", 0x140100, 4, 3, 0x1000, 15, 0x4, .link, false, .module,
   [qlVcstatDcred, qlVcstatOcc]⟩
/-- QL_CGRP (R582; place R768, writers B). -/
def rgQlCgrp : RegInfo :=
  ⟨"QL_CGRP", 0x140200, 4, 3, 0x1000, 14, 0x4, .link, false, .module,
   [qlCgrpEn, qlCgrpKslot, qlCgrpCstop]⟩
/-- ERR_CECNT (R667; place R768, writers —). -/
def rgErrCecnt : RegInfo :=
  ⟨"ERR_CECNT", 0x150000, 16, 1, 0x0, 1, 0x0, .maltster, false, .module,
   [errCecntGran, errCecntFloor, errCecntWort, errCecntCellar]⟩
/-- ERR_CECFG (R668; place R768, writers F). -/
def rgErrCecfg : RegInfo :=
  ⟨"ERR_CECFG", 0x150010, 4, 1, 0x0, 1, 0x0, .maltster, false, .module,
   [errCecfgCethr]⟩
/-- INOC_CTL (R669; place R768, writers F, P). -/
def rgInocCtl : RegInfo :=
  ⟨"INOC_CTL", 0x150020, 8, 1, 0x0, 1, 0x0, .maltster, false, .module,
   [inocCtlPoint, inocCtlInst, inocCtlPos, inocCtlSub, inocCtlBit, inocCtlNsym, inocCtlCount, inocCtlArm, inocCtlDisarm]⟩
/-- INOC_STAT (R670; place R768, writers F, P). -/
def rgInocStat : RegInfo :=
  ⟨"INOC_STAT", 0x150028, 4, 1, 0x0, 1, 0x0, .maltster, false, .module,
   [inocStatFired, inocStatPend, inocStatRefused]⟩
/-- HB_CTL (R671; place R768, writers F). -/
def rgHbCtl : RegInfo :=
  ⟨"HB_CTL", 0x150030, 4, 1, 0x0, 1, 0x0, .maltster, false, .module,
   [hbCtlHbper, hbCtlHbmiss]⟩
/-- BOND_STAT (R703; place R768, writers —). -/
def rgBondStat : RegInfo :=
  ⟨"BOND_STAT", 0x160000, 4, 1, 0x0, 1, 0x0, .bond, true, .module,
   [bondStatLife, bondStatFsvn, bondStatImgsel]⟩
/-- BOND_FENCE (R704; place R768, writers B). -/
def rgBondFence : RegInfo :=
  ⟨"BOND_FENCE", 0x160008, 8, 1, 0x0, 1, 0x0, .bond, true, .module,
   [bondFenceGen, bondFenceBusy, bondFenceSwitched]⟩
/-- HU_STAT (R706; place R768, writers —). -/
def rgHuStat : RegInfo :=
  ⟨"HU_STAT", 0x160010, 8, 1, 0x0, 1, 0x0, .bond, true, .module,
   [huStatEnergy, huStatPgood, huStatCbusy, huStatDefq, huStatDropped]⟩
/-- PART_STAT (R705; place R768, writers B). -/
def rgPartStat : RegInfo :=
  ⟨"PART_STAT", 0x160100, 4, 8, 0x4, 1, 0x0, .bond, true, .partition,
   [partStatState, partStatTdi, partStatOwned, partStatInocg, partStatIdeok]⟩
/-- ISL_REST (R731; place R768, writers F, P). -/
def rgIslRest : RegInfo :=
  ⟨"ISL_REST", 0x170000, 8, 1, 0x0, 1, 0x0, .maltster, false, .module,
   [islRestResten, islRestRested]⟩
/-- PWR_TEL (R732; place R768, writers —). -/
def rgPwrTel : RegInfo :=
  ⟨"PWR_TEL", 0x170008, 8, 1, 0x0, 1, 0x0, .maltster, false, .module,
   [pwrTelPdie, pwrTelPstk, pwrTelTj, pwrTelTstk, pwrTelTjpk]⟩
/-- PWR_CTL (R729; place R768, writers F, P). -/
def rgPwrCtl : RegInfo :=
  ⟨"PWR_CTL", 0x170100, 4, 1, 0x0, 1, 0x0, .maltster, true, .module,
   [pwrCtlDormreq, pwrCtlPlim, pwrCtlLfloor]⟩
/-- PWR_STAT (R730; place R768, writers —). -/
def rgPwrStat : RegInfo :=
  ⟨"PWR_STAT", 0x170108, 8, 1, 0x0, 1, 0x0, .maltster, true, .module,
   [pwrStatDorm, pwrStatLevel, pwrStatCause, pwrStatSleep, pwrStatPend, pwrStatThrcnt, pwrStatWakes]⟩
/-- PWR_IN (R733; place R768, writers —). -/
def rgPwrIn : RegInfo :=
  ⟨"PWR_IN", 0x170110, 8, 1, 0x0, 1, 0x0, .maltster, true, .module,
   [pwrInVin, pwrInIin, pwrInPin, pwrInPpk]⟩
/-- GPIO_CTL (R748; place R768, writers F, P). -/
def rgGpioCtl : RegInfo :=
  ⟨"GPIO_CTL", 0x170118, 4, 1, 0x0, 1, 0x0, .maltster, true, .module,
   [gpioCtlIn, gpioCtlOe, gpioCtlOut]⟩
/-- HI_RINGCFG (R630; place R768, writers D). -/
def rgHiRingcfg : RegInfo :=
  ⟨"HI_RINGCFG", 0x7f0000, 32, 9, 0x100, 1, 0x0, .pcie, true, .function,
   [hiRingcfgCbase, hiRingcfgClog, hiRingcfgPlog, hiRingcfgEn, hiRingcfgRestart, hiRingcfgIrqen, hiRingcfgPbase]⟩
/-- HI_RINGST (R631; place R768, writers —). -/
def rgHiRingst : RegInfo :=
  ⟨"HI_RINGST", 0x7f0020, 8, 9, 0x100, 1, 0x0, .pcie, true, .function,
   [hiRingstCmdhead, hiRingstHalted, hiRingstHcause, hiRingstLongrun, hiRingstEvq, hiRingstEvlost]⟩

/-- The map of R768, in its order. -/
def regMap : List RegInfo :=
  [rgCtlId, rgVatRstat, rgVatIfault, rgVatSrctl, rgVatScale, rgSpineMode, rgHydSnap, rgHydSinfo, rgHydSmax, rgHydSzero, rgHydSsat, rgHydSnonf] ++
  [rgThrJob, rgBarmKey, rgBarmStep, rgThrWdog, rgKetCstat, rgKetFault, rgKetOpt, rgKscCtrl, rgRkQcfg, rgRkQstat, rgRkTrk, rgRkTrkq] ++
  [rgRkFault, rgRkOvl, rgRkCask, rgRkCaskst, rgSlotCtl, rgSlotStat, rgSlotEnt0, rgSlotEnt1, rgTunAxis, rgTunColl, rgTunCstat, rgTunMm] ++
  [rgTunFault, rgQlPctl, rgQlPstat, rgQlEcnt, rgQlVcstat, rgQlCgrp, rgErrCecnt, rgErrCecfg, rgInocCtl, rgInocStat, rgHbCtl, rgBondStat] ++
  [rgBondFence, rgHuStat, rgPartStat, rgIslRest, rgPwrTel, rgPwrCtl, rgPwrStat, rgPwrIn, rgGpioCtl, rgHiRingcfg, rgHiRingst]

/-! ## Finding a register -/

/-- Offset of instance (i, j). -/
def RegInfo.at (r : RegInfo) (i j : Nat) : Nat := r.off + i * r.s1 + j * r.s2

/-- Instance of register r whose bytes hold offset o. -/
def RegInfo.inst (r : RegInfo) (o : Nat) : Option (Nat × Nat) :=
  if o < r.off then none else
  let x := o - r.off
  let i := if r.s1 = 0 then 0 else x / r.s1
  let x' := x - i * r.s1
  let j := if r.s2 = 0 then 0 else x' / r.s2
  let b := x' - j * r.s2
  if i < r.n1 ∧ j < r.n2 ∧ b < r.bytes ∧ r.at i j + b = o then some (i, j) else none

/-- The register instance that holds offset o of a die's control-register space. -/
def regOf (o : Nat) : Option (RegInfo × Nat × Nat) :=
  regMap.findSome? (fun r => (r.inst o).map (fun p => (r, p)))

/-- Value of a field of a register word. -/
def getF (v : RegWord) (f : Fld) : Nat := bits v.toNat f.lo f.w

/-- The bits of a field. -/
def maskF (f : Fld) : RegWord := BitVec.ofNat 256 ((2 ^ f.w - 1) * 2 ^ f.lo)

/-- A register word with one field replaced. -/
def setF (v : RegWord) (f : Fld) (x : Nat) : RegWord :=
  (v &&& ~~~ maskF f) ||| BitVec.ofNat 256 (x % 2 ^ f.w * 2 ^ f.lo)

/-- Reset word of a list of fields. -/
def resetWord : List Fld → RegWord
  | [] => 0
  | f :: fs => setF (resetWord fs) f f.rst

/-- Dedicated credits of a channel after reset (13 R564): 64 for C0 and C1, 272 for
C2 to C13, 32 for C14. -/
def dcredReset (c : Nat) : Nat := if c < 2 then 64 else if c = 14 then 32 else 272

/-- Key of a register in the register file. -/
def regKey (d o : Nat) : Nat := d * 2 ^ 23 + o

/-- What an unlisted register reads as: its reset value. -/
def regDefault (k : Nat) : RegWord :=
  match regOf (k % 2 ^ 23) with
  | some (r, _, j) => if r.name = "QL_VCSTAT" then setF 0 qlVcstatDcred (dcredReset j) else resetWord r.flds
  | none => 0

/-- The stored word of the register at offset o of die d. -/
def State.reg (s : State) (d o : Nat) : RegWord := mget regDefault s.regs (regKey d o)

/-- Store a register word. -/
def State.setReg (s : State) (d o : Nat) (v : RegWord) : State := { s with regs := mset regDefault s.regs (regKey d o) v }

/-- A field of a register. -/
def State.rf (s : State) (d o : Nat) (f : Fld) : Nat := getF (s.reg d o) f

/-- Write a field of a register. -/
def State.wf (s : State) (d o : Nat) (f : Fld) (x : Nat) : State := s.setReg d o (setF (s.reg d o) f x)

/-- Write several fields. -/
def setFs (v : RegWord) : List (Fld × Nat) → RegWord
  | [] => v
  | (f, x) :: fs => setFs (setF v f x) fs

/-- Write several fields of one register. -/
def State.wfs (s : State) (d o : Nat) (fs : List (Fld × Nat)) : State := s.setReg d o (setFs (s.reg d o) fs)

/-- Reset the fields of r that a reset kind restores (19 R763). -/
def resetFields (fs : List Fld) (kind : Nat) (v : RegWord) : RegWord :=
  fs.foldl (fun v f => if bits f.kinds 0 6 / kind % 2 = 1 then setF v f f.rst else v) v

/-- A register map with the listed registers reset by kind where the scope holds (die, register, instance). -/
def resetRegs (kind : Nat) (scope : Nat → RegInfo → Nat → Nat → Bool) : SMap RegWord → SMap RegWord
  | [] => []
  | (k, v) :: m =>
    let rest := resetRegs kind scope m
    match regOf (k % 2 ^ 23) with
    | none => (k, v) :: rest
    | some (r, i, j) =>
      if scope (k / 2 ^ 23) r i j then
        let v' := if r.flds = [] then (if kind = kPRT then v else 0) else resetFields r.flds kind v
        let v'' := if r.name = "QL_VCSTAT" ∧ bits qlVcstatDcred.kinds 0 6 / kind % 2 = 1 then setF v' qlVcstatDcred (dcredReset j) else v'
        if v'' = regDefault k then rest else (k, v'') :: rest
      else (k, v) :: rest

/-! ## Offsets (19 R768) -/

def oVatRstat (v : Nat) : Nat := 0x10000 + v * 0x1000
def oVatIfault (v : Nat) : Nat := 0x10004 + v * 0x1000
def oVatSrctl (v : Nat) : Nat := 0x10008 + v * 0x1000
def oVatScale (v i : Nat) : Nat := 0x10040 + v * 0x1000 + i * 4
def oSpineMode : Nat := 0x20000
def oHydSnap (p : Nat) : Nat := 0x20100 + p * 0x40
def oHydSinfo (p : Nat) : Nat := 0x20104 + p * 0x40
def oHydSmax (p : Nat) : Nat := 0x20108 + p * 0x40
def oHydSzero (p : Nat) : Nat := 0x20110 + p * 0x40
def oHydSsat (p : Nat) : Nat := 0x20118 + p * 0x40
def oHydSnonf (p : Nat) : Nat := 0x20120 + p * 0x40
def oThrJob (t : Nat) : Nat := 0x30000 + t * 0x10
def oBarmKey (t : Nat) : Nat := 0x31000 + t * 8
def oBarmStep (t : Nat) : Nat := 0x32000 + t * 4
def oThrWdog (p : Nat) : Nat := 0x33000 + p * 8
def oKetCstat (k : Nat) : Nat := 0x40000 + k * 4
def oKetFault (p : Nat) : Nat := 0x40100 + p * 8
def oKetOpt (p : Nat) : Nat := 0x40200 + p * 8
def oKscCtrl (p : Nat) : Nat := 0x40300 + p * 4
def oRkQcfg (q : Nat) : Nat := 0x50000 + q * 8
def oRkQstat (q : Nat) : Nat := 0x51000 + q * 4
def oRkTrk : Nat := 0x52000
def oRkTrkq (p : Nat) : Nat := 0x52100 + p * 8
def oRkFault (p : Nat) : Nat := 0x52200 + p * 8
def oRkOvl (p : Nat) : Nat := 0x52300 + p * 4
def oRkCask (p c : Nat) : Nat := 0x54000 + p * 0x200 + c * 0x20
def oRkCaskst (p c : Nat) : Nat := 0x56000 + p * 0x100 + c * 0x10
def oSlotCtl (t : Nat) : Nat := 0xC0000 + t * 0x10
def oSlotStat (t : Nat) : Nat := 0xC0100 + t * 0x10
def oSlotEnt (t h i : Nat) : Nat := 0xD0000 + t * 0x4000 + h * 0x2000 + i * 4
def oTunAxis (t a : Nat) : Nat := 0x100000 + t * 0x100 + a * 0x20
def oTunColl (p sl : Nat) : Nat := 0x110000 + p * 0x800 + sl * 0x20
def oTunCstat (p sl : Nat) : Nat := 0x118000 + p * 0x200 + sl * 8
def oTunMm (t : Nat) : Nat := 0x120000 + t * 0x10
def oTunFault (p : Nat) : Nat := 0x121000 + p * 8
def oQlPctl (i : Nat) : Nat := 0x140000 + i * 0x1000
def oQlPstat (i : Nat) : Nat := 0x140008 + i * 0x1000
def oQlEcnt (i : Nat) : Nat := 0x140020 + i * 0x1000
def oQlVcstat (i c : Nat) : Nat := 0x140100 + i * 0x1000 + c * 4
def oQlCgrp (i g : Nat) : Nat := 0x140200 + i * 0x1000 + g * 4
def oErrCecnt : Nat := 0x150000
def oErrCecfg : Nat := 0x150010
def oInocCtl : Nat := 0x150020
def oInocStat : Nat := 0x150028
def oHbCtl : Nat := 0x150030
def oBondStat : Nat := 0x160000
def oBondFence : Nat := 0x160008
def oHuStat : Nat := 0x160010
def oPartStat (p : Nat) : Nat := 0x160100 + p * 4
def oIslRest : Nat := 0x170000
def oPwrTel : Nat := 0x170008
def oPwrCtl : Nat := 0x170100
def oPwrStat : Nat := 0x170108
def oPwrIn : Nat := 0x170110
def oGpioCtl : Nat := 0x170118
def oHiRingcfg (f : Nat) : Nat := 0x7F0000 + f * 0x100
def oHiRingst (f : Nat) : Nat := 0x7F0020 + f * 0x100

end Sys2Proof.Machine
end

