-- ==== Sys2Proof/Machine/Flags.lean ====
section
/-!
DEFINITION. Sys2Proof/Machine/Flags.lean: what the module records about errors: completion-ring events, the error log,
corrected-error counts, codeword decoding and merging, fault registers, unit reports, token counters and thread states.
-/
namespace Sys2Proof.Machine

/-! ## Completion rings: replies and event records (14 R589, R591, R593, R597) -/

/-- EN of a function's ring. -/
def State.ringEn (s : State) (f : Nat) : Bool := s.rf 0 (oHiRingcfg f) hiRingcfgEn = 1

/-- The 32 bytes of reply j (14 R597). -/
def outBytes (o : Out) (j plog head : Nat) : List Byte :=
  toBytes 4 o.seq ++ toBytes 2 o.opc ++
  [BitVec.ofNat 8 ((if j / 2 ^ plog % 2 = 0 then 1 else 0) + (if o.event then 2 else 0)), BitVec.ofNat 8 o.part] ++
  toBytes 2 o.status ++ toBytes 2 head ++ toBytes 4 o.detail ++ toBytes 16 o.result

/-- A ring halts, if it is in service and has not halted: the first cause stands (14 R592). -/
def State.haltRing (s : State) (f cause : Nat) : State :=
  if s.rf 0 (oHiRingst f) hiRingstHalted = 1 then s else s.wfs 0 (oHiRingst f) [(hiRingstHalted, 1), (hiRingstHcause, cause)]

/-- Requests of function f can be sent to the host: the PCIe link is up; a VF's TDI is not in ERROR, and its selective IDE stream is
established when the TDI needs it (14 R592, 16 R686, R692). -/
def State.linkOk (s : State) (f : Nat) : Bool :=
  s.pcieUp && (decide (f = 0) ||
    (let tdi := s.rf 0 (oPartStat (f - 1)) partStatTdi
     tdi = 0 || (decide (tdi ≠ 3) && s.rf 0 (oPartStat (f - 1)) partStatIdeok = 1)))

/-- Firmware serves the host: the module runs and is not in module sleep (17 R719, R722). -/
def State.serving (s : State) : Bool := s.phase = 0 && s.rf 0 oPwrStat pwrStatSleep = 0

/-- Firmware writes the replies and records that wait, in order, while there is room; a write that cannot be sent halts the
ring (14 R591, R592). The list is the queue not yet written. -/
def flushOuts (f : Nat) : State → List Out → State
  | s, [] => s.putFn f { s.fn f with outq := [] }
  | s, o :: os =>
    let x := s.fn f
    let plog := s.rf 0 (oHiRingcfg f) hiRingcfgPlog
    if ¬ s.ringEn f ∨ ¬ s.serving ∨ 2 ^ plog ≤ (x.replies + 2 ^ 32 - x.cplhead) % 2 ^ 32 then
      s.putFn f { x with outq := o :: os }
    else if ¬ s.linkOk f then (s.putFn f { x with outq := o :: os }).haltRing f 4
    else
      let base := s.rf 0 (oHiRingcfg f) hiRingcfgPbase
      let at_ := base + 32 * (x.replies % 2 ^ plog)
      let s := s.poke .host at_ (outBytes o x.replies plog (s.rf 0 (oHiRingst f) hiRingstCmdhead))
      let irq := (o.irq || o.event) && decide (s.rf 0 (oHiRingcfg f) hiRingcfgIrqen = 1)
      flushOuts f (s.putFn f { x with replies := (x.replies + 1) % 2 ^ 32, msix := x.msix + (if irq then 1 else 0) }) os

/-- Event records queued for a function. -/
def evQueued (x : Fn) : Nat := (x.outq.filter (fun o => o.event)).length

/-- Write what waits for function f; once its event queue has room for it, an EVLOST event follows (14 R593). -/
def State.flush (s : State) (f : Nat) : State :=
  let s := flushOuts f s (s.fn f).outq
  let y := s.fn f
  if 0 < y.evLost ∧ evQueued y < 256 then
    let o : Out := { event := true, seq := (y.evSerial + 1) % 2 ^ 32, opc := 0x8006, part := 0xFF, result := y.evLost }
    flushOuts f (s.putFn f { y with evSerial := y.evSerial + 1, evLost := 0 }) (enq y.outq o)
  else s

/-- Queue an event record, or count it as lost (14 R593), and write what can be written. The first record of a function has serial 1
(DESIGN CHOICE, log entry 51). -/
def State.raise (s : State) (f code part result : Nat) (detail : Nat := 0) : State :=
  let x := s.fn f
  let s :=
    if evQueued x < 256 then
      let o : Out := { event := true, seq := (x.evSerial + 1) % 2 ^ 32, opc := code, part := part, result := result, detail := detail }
      s.putFn f { x with outq := enq x.outq o, evSerial := x.evSerial + 1 }
    else
      let lost := s.rf 0 (oHiRingst f) hiRingstEvlost
      (s.putFn f { x with evLost := x.evLost + 1 }).wf 0 (oHiRingst f) hiRingstEvlost (if lost < 255 then lost + 1 else 255)
  s.flush f

/-- Queue a reply and write what can be written (14 R591). While EN = 0 replies are discarded (R589). -/
def State.reply (s : State) (f : Nat) (o : Out) : State :=
  if s.ringEn f then (s.putFn f { s.fn f with outq := enq (s.fn f).outq o }).flush f else s

/-! ## The error log (15 R654–R658) -/

/-- Severity of a class (15 R656). -/
def sevOf (c : Nat) : Nat :=
  if c = 0x01 ∨ c = 0x13 ∨ c = 0x14 then 0
  else if c = 0x02 ∨ c = 0x03 ∨ c = 0x07 ∨ c = 0x0A ∨ c = 0x0C ∨ c = 0x0D ∨ c = 0x1A then 1
  else if c = 0x10 then 3 else 2

/-- The module's clock when the next stamp is taken (DESIGN CHOICE, log entry 21). -/
def State.now (s : State) : Nat := s.time + Config.elapsed s.freeCtr

/-- Keep the n most recent entries of a list that grows at its end. -/
def lastN {α : Type} (n : Nat) (l : List α) : List α := l.drop (l.length - n)

/-- Fold a repeat of a class at one address within 1 ms into its record (15 R657). -/
def foldErr (e : ErrRec) (now : Nat) : List ErrRec → Option (List ErrRec)
  | [] => none
  | r :: rs =>
    match foldErr e now rs with
    | some rs' => some (r :: rs')
    | none => if r.cls = e.cls ∧ r.addr = e.addr ∧ e.addr ≠ 0 ∧ now < r.time + 1000
              then some ({ r with count := r.count + e.count } :: rs) else none

/-- A record with what R655 gives to its tag: BARM_STEP at detection and the pod job id, zero without one. -/
def State.tagged (s : State) (e : ErrRec) : ErrRec :=
  if e.tagv then { e with step := s.rf e.die (oBarmStep e.tag) barmStepStep, pjid := (mget (fun _ => ({} : JobRec)) s.jobs e.tag).pjid }
  else { e with step := 0, pjid := 0 }

/-- Firmware makes an error record, commits the fatal ones, and raises LOG (15 R654, R655, R657, 14 R598). -/
def State.logErr (s : State) (e : ErrRec) : State :=
  let e := s.tagged e
  let now := s.now
  let s := { s.tick with time := now }
  match foldErr e now s.errLog with
  | some l => { s with errLog := l }
  | none =>
    let r := { e with index := s.errIndex, time := now, sev := sevOf e.cls }
    let s := { s with errLog := lastN 4096 (enq s.errLog r), errIndex := s.errIndex + 1 }
    let s := if 2 ≤ r.sev then { s with commitWait := enq s.commitWait { erec := r } } else s
    if 1 ≤ r.sev ∨ r.cls = 0x01 then
      let s := s.raise 0 0x8003 (if r.tagv then r.part else 0xFF) r.index
      if r.tagv then s.raise (r.part + 1) 0x8003 r.part r.index else s
    else s

/-! ## Codewords: reads and writes (15 R634, R636, R776; 08 R329) -/

/-- Global address of byte o of a region, this module (08 R303); 0 where the region has none. -/
def gaddr (r : Region) (o : Nat) : Nat :=
  let m := 0xFFFF * 2 ^ 48
  match r with
  | .granary d => m + d * 2 ^ 30 + o
  | .floor d v => m + 1 * 2 ^ 44 + v * 2 ^ 26 + d * 2 ^ 23 + o
  | .cellar d => m + 2 * 2 ^ 44 + 2 ^ 43 + d * 2 ^ 37 + o
  | .ctx d => m + 4 * 2 ^ 44 + d * 2 ^ 23 + o
  | .tunBuf d => m + 6 * 2 ^ 44 + d * 2 ^ 23 + o
  | _ => 0

/-- Die of a region. -/
def Region.die : Region → Nat
  | .granary d => d
  | .floor d _ => d
  | .cellar d => d
  | .ctx d => d
  | .tunBuf d => d
  | .wort d _ _ => d
  | .grist d _ => d
  | .host => 0

/-- Field of ERR_CECNT that counts a region (15 R667). -/
def ceField : Region → Option (Nat × Fld)
  | .granary _ => some (0, errCecntGran)
  | .floor _ _ => some (1, errCecntFloor)
  | .wort _ _ _ => some (2, errCecntWort)
  | .cellar _ => some (3, errCecntCellar)
  | _ => none

/-- Granary bank of a byte (08 R308). -/
def granaryBank (o : Nat) : Nat :=
  let l := o / 128
  (bits l 4 2 + bits l 8 2) % 4 * 16 + (bits l 0 4 + bits l 12 4) % 16

/-- Island number of a region (17 R707): vats 0–15, granary halves 16–17, cellar controller 27, tun 26, else ring spine 30. -/
def islandOf (r : Region) (o : Nat) : Nat := match r with
  | .floor _ v => v
  | .wort _ v _ => v
  | .grist _ v => v
  | .granary _ => 16 + granaryBank o / 32
  | .tunBuf _ => 26
  | .cellar _ => 27
  | _ => 30

/-- A corrected error: the count, and the record of the first and of every CETHR after it (15 R634, R657). The syndrome is that of the code
in use, a free value (15 R635; DESIGN CHOICE, log entry 102). -/
def State.corrected (s : State) (r : Region) (o : Nat) (ino : Bool) : State :=
  match ceField r with
  | none => s
  | some (k, f) =>
    let d := r.die
    let c := s.rf d oErrCecnt f
    let s := s.wf d oErrCecnt f (if c < 2 ^ 32 - 1 then c + 1 else c)
    let n := mget (fun _ => 0) s.ceSeen (d * 4 + k)
    let thr := s.rf d oErrCecfg errCecfgCethr
    let e : ErrRec := { cls := 0x01, die := d, island := islandOf r o, addr := gaddr r (o / 32 * 32), inoc := ino, synd := s.free 32 }
    if n = 0 then ({ s with ceSeen := mset (fun _ => 0) s.ceSeen (d * 4 + k) 1 }).logErr e
    else if thr ≠ 0 ∧ thr ≤ n then
      ({ s with ceSeen := mset (fun _ => 0) s.ceSeen (d * 4 + k) 1 }).logErr { e with count := thr }
    else { s with ceSeen := mset (fun _ => 0) s.ceSeen (d * 4 + k) (n + 1) }

/-- An uncorrectable codeword: poison is written back and a record made (15 R634, R636); n errors met in it (R661). -/
def State.uncorrectable (s : State) (r : Region) (o : Nat) (ino : Bool) (n : Nat) : State :=
  (s.setMark r o .poison).logErr
    { cls := 0x02, die := r.die, island := islandOf r o, addr := gaddr r (o / 32 * 32), inoc := ino, count := n, synd := s.free 32 }

/-- The armed point of a die: the fields of its INOC_CTL while ARM reads 1, else no point (15 R661, R669). -/
def State.inoc (s : State) (d : Nat) : Inoc :=
  let f (x : Fld) : Nat := s.rf d oInocCtl x
  if f inocCtlArm = 0 then {} else
  { point := f inocCtlPoint, inst := f inocCtlInst, pos := f inocCtlPos, sub := f inocCtlSub, bit := f inocCtlBit, nsym := f inocCtlNsym }

/-- The armed point has injected at its event: FIRED counts, and with COUNT injections made the point is disarmed; until then it waits for
its next event, and PEND reads 1 (15 R661, R670). -/
def State.inocClear (s : State) (d : Nat) : State :=
  let n := s.rf d oInocStat inocStatFired
  let s := s.wf d oInocStat inocStatFired (if n < 65535 then n + 1 else n)
  let left := mget (fun _ => 0) s.inocLeft d
  if left = 0 then s
  else
    let s := { s with inocLeft := mset (fun _ => 0) s.inocLeft d (left - 1) }
    if left = 1 then (s.wf d oInocCtl inocCtlArm 0).wf d oInocStat inocStatPend 0 else s

/-- Does the armed point target a read of byte o of a region (15 R660, points 0x01 to 0x04)? -/
def State.inocReads (s : State) (r : Region) (o : Nat) : Bool :=
  let x := s.inoc r.die
  match r with
  | .granary _ => x.point = 1 && x.pos = granaryBank o
  | .floor _ v => x.point = 2 && x.inst = v && x.pos = bits o 6 4
  | .wort _ v h => x.point = 3 && x.inst = v && x.pos % 2 = h
  | .cellar _ => x.point = 4 && x.pos = bits o 6 6
  | _ => false

/-- Bytes of a codeword changed as a miscorrection leaves them (15 R776). -/
def State.aliased (s : State) (r : Region) (o : Nat) : State :=
  let c := o / 32 * 32
  s.poke r c ((s.peeks r c 32).zipIdx.map (fun p => p.1 ^^^ Config.aliasFlip s.freeCtr p.2))

/-- A codeword with mark m is decoded by a read (15 R634, R776); n errors met in it. -/
def State.decodeMark (s : State) (r : Region) (o : Nat) (m : Mark) (ino : Bool) (n : Nat) : State :=
  match m with
  | .clean => s
  | .poison => s
  | .one => (s.setMark r o .clean).corrected r o ino
  | .bad => s.uncorrectable r o ino n
  | .three =>
    let k := Config.aliasCase s.freeCtr % 4
    let s := s.tick
    if k = 0 then s.uncorrectable r o ino n
    else if k = 1 then (s.aliased r o).setMark r o .clean
    else if k = 2 then ((s.aliased r o).setMark r o .clean).corrected r o ino
    else s.setMark r o .poison

/-- A codeword with n more symbols in error (15 R634, R635, R776): one error on the poison encoding still reads as poison. -/
def Mark.corrupt (m : Mark) (n : Nat) : Mark :=
  if n = 0 then m else match m with
  | .clean => if n = 1 then .one else if n = 2 then .bad else .three
  | .one => if n = 1 then .bad else .three
  | .poison => if n = 1 then .poison else .three
  | _ => .three

/-- The codeword as a read finds it: the armed point corrupts it first (15 R660). -/
def State.markRead (s : State) (r : Region) (o : Nat) : Mark :=
  if s.inocReads r o then (s.mark r o).corrupt (s.inoc r.die).nsym else s.mark r o

/-- One codeword is decoded by a read (15 R660, R661): where an injection meets a real error, two errors are in one record. -/
def State.decodeCw (s : State) (r : Region) (o : Nat) : State :=
  let m := s.markRead r o
  if s.inocReads r o then
    (s.inocClear r.die).decodeMark r o m true (if s.mark r o = .clean ∨ s.mark r o = .poison then 1 else 2)
  else s.decodeMark r o m false 1

/-- The read finds the poison pattern, by its mark or as three symbols in error can give it. -/
def State.readsPoison (s : State) (r : Region) (o : Nat) : Bool :=
  match s.markRead r o with
  | .poison => true
  | .three => Config.aliasCase s.freeCtr % 4 = 3
  | _ => false

/-- Codewords of the n sacks from sack byte o are decoded. -/
def State.decodeSacks (s : State) (r : Region) : Nat → Nat → State
  | _, 0 => s
  | o, n + 1 => State.decodeSacks ((s.decodeCw r o).decodeCw r (o + 32)) r (o + 64) n

/-- Sacks a run of n bytes from o touches. -/
def sackCount (o n : Nat) : Nat := if n = 0 then 0 else (o % 64 + n + 63) / 64

/-- A read of n bytes from o decodes every codeword of the sacks it touches. The bytes and the poison are then those of
`peeks` and `poisoned`. -/
def State.readCheck (s : State) (r : Region) (o n : Nat) : State := s.decodeSacks r (o / 64 * 64) (sackCount o n)

/-- Global address of the first poisoned sack that n bytes from o touch; 0 when there is none (15 R640). -/
def State.poisonAt (s : State) (r : Region) (o n : Nat) : Nat :=
  match (List.range (sackCount o n)).find? (fun i => s.poisoned r (o / 64 * 64 + 64 * i) 64) with
  | some i => gaddr r (o / 64 * 64 + 64 * i)
  | none => 0

/-- Write bytes that lie in one codeword (08 R329): a part of it is merged with what a read of it finds. -/
def State.writeCw (s : State) (r : Region) (o : Nat) (bs : List Byte) : State :=
  if bs.length = 32 then (s.poke r o bs).setMark r o .clean else
  let t := s.decodeCw r o
  if s.readsPoison r o then t.logErr { cls := 0x03, die := r.die, island := islandOf r o, addr := gaddr r (o / 32 * 32) }
  else if t.mark r o = .poison then t else t.poke r o bs

/-- Write bytes, codeword by codeword; fuel bounds the codewords. -/
def writeCws (r : Region) : Nat → State → Nat → List Byte → State
  | 0, s, _, _ => s
  | _ + 1, s, _, [] => s
  | n + 1, s, o, b :: bs =>
    let k := 32 - o % 32
    writeCws r n (s.writeCw r o ((b :: bs).take k)) (o + k) ((b :: bs).drop k)

/-- Write bytes from o of a region (08 R329). The host's memory has no codewords of the module. -/
def State.write (s : State) (r : Region) (o : Nat) (bs : List Byte) : State :=
  if r = .host then s.poke r o bs else writeCws r (bs.length / 32 + 2) s o bs

/-- Poison the codewords of n bytes from o; fuel bounds the codewords. -/
def poisonCws (r : Region) : Nat → State → Nat → State
  | 0, s, _ => s
  | n + 1, s, o => poisonCws r n (s.setMark r o .poison) (o + 32)

/-- Poison every codeword that n bytes from o touch. -/
def State.poisonRange (s : State) (r : Region) (o n : Nat) : State :=
  if n = 0 ∨ r = .host then s else poisonCws r ((o % 32 + n + 31) / 32) s (o / 32 * 32)

/-! ## Jobs -/

/-- The tag is active on the die (10 R446). -/
def State.jobEn (s : State) (d tag : Nat) : Bool := s.rf d (oThrJob tag) thrJobEn = 1
/-- Partition of a tag on a die. -/
def State.jobPart (s : State) (d tag : Nat) : Nat := s.rf d (oThrJob tag) thrJobPart
/-- Strict bounds mode of a tag (10 R437). -/
def State.jobStrict (s : State) (d tag : Nat) : Bool := s.rf d (oThrJob tag) thrJobStrict = 1

/-- A unit reports to firmware (10 R436, 15 R640). -/
def State.report (s : State) (r : Report) : State := { s with reports := enq s.reports r }

/-- A unit reports an access outside a window to the bond island (08 R305). -/
def State.bondReport (s : State) (r : Report) : State := { s with bondReports := enq s.bondReports r }

/-! ## Fault registers -/

/-- Record in a fault register with VALID and MORE: the first fault after VALID was cleared (03 R149, 09 R398, 11 R503, 12 R539). -/
def State.faultReg (s : State) (d o : Nat) (valid more : Fld) (fs : List (Fld × Nat)) : State :=
  if s.rf d o valid = 1 then s.wf d o more 1 else s.wfs d o ((valid, 1) :: fs)

/-- A fault register holds no fault yet: the next one is recorded in it (14 R612). -/
def State.faultFree (s : State) (d o : Nat) (valid : Fld) : Bool := s.rf d o valid = 0

/-! ## Token counters (10 R412–R415) -/

/-- Offset of a counter in context memory (08 R323). -/
def ctrOff (p i : Nat) : Nat := 0x200000 + p * 0x8000 + i * 8

/-- COUNT of a counter. -/
def State.ctrCount (s : State) (d p i : Nat) : Nat := bits (s.peekN (.ctx d) (ctrOff p i) 8) 0 56

/-- A post: add, or with clr set; index 0xFFF names nothing; overflow sticks and is reported for the posting tag, if there is one (10 R413,
R415). -/
def State.postFor (s : State) (d p i add : Nat) (clr : Bool) (tag : Option Nat) : State :=
  if i = 0xFFF then s else
  let w := s.peekN (.ctx d) (ctrOff p i) 8
  let n := if clr then add else bits w 0 56 + add
  let ovf := if clr then 0 else bits w 63 1
  if n < 2 ^ 56 then s.write (.ctx d) (ctrOff p i) (toBytes 8 (n + ovf * 2 ^ 63))
  else (s.write (.ctx d) (ctrOff p i) (toBytes 8 (2 ^ 56 - 1 + 2 ^ 63))).report
        { die := d, tag := tag.getD 0, tagv := tag.isSome, part := p, cls := 0x16, addr := gaddr (.ctx d) (ctrOff p i) }

/-- A post of job tag `tag`. -/
def State.postCtr (s : State) (d p i add : Nat) (clr : Bool) (tag : Nat) : State := s.postFor d p i add clr (some tag)

/-- The completion post of a DONE field: +1 to the counter of the issuing job's partition on the unit's die (10 R413). -/
def State.done (s : State) (d p ctr tag : Nat) : State := s.postCtr d p ctr 1 false tag

/-! ## Thread states and images (10 R403–R405) -/

def cFREE : Nat := 0
def cREADY : Nat := 1
def cWAIT : Nat := 2
def cHOLD : Nat := 3
def cFENCE : Nat := 4
def cSTOPPED : Nat := 5

/-- The 64-byte image of a context (10 R404). -/
def ctxImage (x : Ctx) : List Byte :=
  toBytes 64 (x.state % 8 + x.tag % 256 * 2 ^ 4 + x.part % 8 * 2 ^ 12 + x.pc % 2 ^ 32 * 2 ^ 16 + x.wctr % 2 ^ 12 * 2 ^ 48 +
    x.wthr % 2 ^ 56 * 2 ^ 64 + x.heldus % 2 ^ 32 * 2 ^ 128 + x.fcode % 256 * 2 ^ 160 + x.fopc % 256 * 2 ^ 168)

/-- A crossing into island i of die d ends its rest (17 R708, R717, 19 R765). -/
def State.unrest (s : State) (d i : Nat) : State :=
  let m := s.rf d oIslRest islRestRested
  if bit m i then s.wf d oIslRest islRestRested (m - 2 ^ i) else s

/-- Island of a context's engine (17 R707). -/
def ctxIsland (c : Nat) : Nat :=
  if c < 16384 then c / 1024 else if c < 20480 then 18 + (c - 16384) / 1024 else if c < 24576 then 22 else 26

/-- A context that presents instructions keeps the island of its engine awake: its start or release is a crossing (17 R708, R717). -/
def State.rouse (s : State) (d c st : Nat) : State := if st = cREADY ∨ st = cHOLD then s.unrest d (ctxIsland c) else s

/-- The engine gives a context a new copy and writes its image whole. -/
def State.ctxFull (s : State) (d c : Nat) (x : Ctx) : State :=
  ((s.rouse d c x.state).putCtx d c x).write (.ctx d) (c * 64) (ctxImage x)

/-- A change of state of a context: READY and FREE write STATE alone, the holds write every field (10 R405). -/
def State.ctxTo (s : State) (d c : Nat) (x : Ctx) : State :=
  if x.state = cREADY ∨ x.state = cFREE then
    let b := s.peek (.ctx d) (c * 64)
    ((s.rouse d c x.state).putCtx d c x).write (.ctx d) (c * 64) [BitVec.ofNat 8 (b.toNat / 8 * 8 + x.state)]
  else s.ctxFull d c x

/-- Engine of a context (10 R401): 0 vat, 1 kettle core, 2 racking engine, 3 tun. -/
def ctxEng (c : Nat) : Nat := if c < 16384 then 0 else if c < 20480 then 1 else if c < 24576 then 2 else 3
/-- Instance of a context: the vat, the kettle core, or 0. -/
def ctxInst (c : Nat) : Nat := if c < 16384 then c / 1024 else if c < 20480 then (c - 16384) / 1024 else 0
/-- Local number of a context. -/
def ctxLocal (c : Nat) : Nat :=
  if c < 16384 then c % 1024 else if c < 20480 then (c - 16384) % 1024 else if c < 24576 then c - 20480 else c - 24576

/-- One of a context's instructions completed (10 R420). -/
def State.ctxRetire (s : State) (d c : Nat) : State :=
  let x := s.ctx d c
  s.putCtx d c { x with outst := x.outst - 1 }

end Sys2Proof.Machine
end

