-- ==== Sys2Proof/Machine/Sleep.lean ====
section
/-!
DEFINITION. Sys2Proof/Machine/Sleep.lean: zero-writes of whole memories, what a die loses when it is dormant, and its wake
(17_reset_power_clocks.md R716–R718, R726, 19 R765).
-/
namespace Sys2Proof.Machine

/-- Zero-write the bytes for which p (region number, byte) holds; poison goes with them (15 R641). p is constant over a codeword. -/
def State.zeroWhere (s : State) (p : Nat → Nat → Bool) : State :=
  { s with mem := s.mem.filter (fun c => ! p (c.1 / 2 ^ 64) (c.1 % 2 ^ 64)),
           marks := s.marks.filter (fun m => ! p (m.1 * 32 / 2 ^ 64) (m.1 * 32 % 2 ^ 64)) }

/-- Region numbers of the memories of vat v of die d: floor, grist, wort halves. -/
def vatRegion (d v n : Nat) : Bool :=
  n = (Region.floor d v).num || n = (Region.grist d v).num || n = (Region.wort d v 0).num || n = (Region.wort d v 1).num

/-- The die is dormant. -/
def State.dormant (s : State) (d : Nat) : Bool := bit (s.rf 0 oPwrStat pwrStatDorm) d

/-- Islands that dormancy powers off. -/
def Isl.poweredOff : Isl → Bool
  | .vat => true
  | .kettle => true
  | .tun => true
  | _ => false

/-- Memories of die d that a wake zero-writes (17 R718). -/
def wakeZero (d n : Nat) : Bool :=
  n = (Region.tunBuf d).num || (List.range 16).any (fun v => vatRegion d v n)

def kcoreDefault (_ : Nat) : KCore := {}

/-- A reset of a kind restores the registers of a scope; words staged for them are discarded (19 R759). -/
def State.restore (s : State) (kind : Nat) (scope : Nat → RegInfo → Nat → Nat → Bool) : State :=
  { s with regs := resetRegs kind scope s.regs,
           stages := s.stages.filter (fun h => ! (regOf h.off).any (fun r =>
             scope h.d r.1 r.2.1 r.2.2 && r.1.flds.any (fun f => decide (bits f.kinds 0 6 / kind % 2 = 1)))) }

/-- Kettle core k of die d. -/
def State.kcore (s : State) (d k : Nat) : KCore := mget kcoreDefault s.kcores (d * 4 + k)
/-- Replace a kettle core. -/
def State.putKcore (s : State) (d k : Nat) (x : KCore) : State := { s with kcores := mset kcoreDefault s.kcores (d * 4 + k) x }

/-- Zero the register files of a kettle core; a withdrawn core stays withdrawn (17 R725). -/
def State.zeroCore (s : State) (d k : Nat) : State := s.putKcore d k { out := (s.kcore d k).out }

/-- The powered-off islands of a die as a wake leaves them (17 R718). -/
def State.freshIslands (s : State) (d : Nat) : State :=
  let s := s.zeroWhere (fun n _ => wakeZero d n)
  let s := s.restore kPOR (fun e r _ _ => e = d && r.isl.poweredOff)
  let s := { s with
    vats := s.vats.filter (fun e => decide (e.1 / 16 ≠ d)),
    tslots := s.tslots.filter (fun e => decide (e.1 / 512 ≠ d)),
    tunOwn := s.tunOwn.filter (fun e => decide (e.1 / 1024 ≠ d)),
    ctxs := s.ctxs.map (fun (e : Nat × Ctx) =>
      if e.1 / 25600 = d ∧ ctxEng (e.1 % 25600) ≠ 2 then (e.1, { e.2 with ibuf := [] }) else e) }
  (List.range 4).foldl (fun s k => s.zeroCore d k) s

/-- A dormant die wakes, for an access or for its DORMREQ bit. -/
def State.wakeDie (s : State) (d : Nat) (access : Bool) : State :=
  if ! s.dormant d then s else
  let s := s.freshIslands d
  let s := s.wf 0 oPwrStat pwrStatDorm (s.rf 0 oPwrStat pwrStatDorm - 2 ^ d)
  if ! access then s else
  let r := s.rf 0 oPwrCtl pwrCtlDormreq
  let w := s.rf 0 oPwrStat pwrStatWakes
  (s.wf 0 oPwrCtl pwrCtlDormreq (if bit r d then r - 2 ^ d else r)).wf 0 oPwrStat pwrStatWakes (if w < 65535 then w + 1 else w)

/-- An access of n bytes from o of a region of a dormant die's vats, kettle cores, tun or granary wakes it first (17 R718); and the
islands that hold the bytes leave rest (17 R708, R717). -/
def State.touch (s : State) (r : Region) (o n : Nat) : State :=
  let rest (d : Nat) : State := (s.wakeDie d true).unrest d (islandOf r o)
  match r with
  | .granary d =>
    (List.range ((o + n + 127) / 128 - o / 128)).foldl (fun s k => s.unrest d (islandOf r (128 * (o / 128 + k)))) (s.wakeDie d true)
  | .floor d _ => rest d
  | .tunBuf d => rest d
  | .grist d _ => rest d
  | .wort d _ _ => rest d
  | _ => s

end Sys2Proof.Machine
end

