-- ==== Sys2Proof/Machine/Operands.lean ====
section
/-!
DEFINITION. Sys2Proof/Machine/Operands.lean: what an operand names: the global address and its decode, the windows of a
partition, the cellar interleave, the fields of context memory (08_memory_and_layout.md, 16_security.md).
-/
namespace Sys2Proof.Machine

/-! ## Windows (16 R684, R685; 08 R324) -/

/-- The tables a die's check points use: the new ones once it has switched in a running fence (16 R689). -/
def State.tables (s : State) (d : Nat) : List Grant :=
  if s.rf 0 oBondFence bondFenceBusy = 1 ∧ bit (s.rf 0 oBondFence bondFenceSwitched) d then s.grantsNew else s.grants

/-- Is every unit from first to last covered by the ranges? Fuel is the number of ranges. -/
def covered (gs : List Grant) : Nat → Nat → Nat → Bool
  | 0, first, last => decide (last < first)
  | n + 1, first, last =>
    if last < first then true else
    match gs.find? (fun g => decide (g.first ≤ first) && decide (first < g.first + g.count)) with
    | some g => covered gs n (g.first + g.count) last
    | none => false

/-- Kinds that name no die (16 R684). -/
def dieless (k : Nat) : Bool := k = 4 || k = 0xC || k = 0xD || k = 0xE

/-- Units first..last of a kind are granted to partition p, as die d's tables say. -/
def State.granted (s : State) (d p kind gd first last : Nat) : Bool :=
  let gs := (s.tables d).filter (fun g => decide (g.part = p) && decide (g.kind = kind) && (dieless kind || decide (g.die = gd)))
  covered gs gs.length first last

/-- Partition p holds thread context c of die d. -/
def State.ctxGranted (s : State) (d p c : Nat) : Bool :=
  if c < 16384 then s.granted d p 1 d 0 0
  else if c < 20480 then s.granted d p 2 d ((c - 16384) / 1024) ((c - 16384) / 1024)
  else if c < 24576 then s.granted d p 6 d (c - 20480) (c - 20480)
  else s.granted d p 7 d (c - 24576) (c - 24576)

/-- Bytes o .. o + n − 1 (n > 0) of context memory lie in regions of partition p (08 R323, R324). -/
def State.ctxWindow (s : State) (d p o n : Nat) : Bool :=
  let e := o + n
  (decide (ctrOff p 0 ≤ o) && decide (e ≤ ctrOff p 0 + 0x8000)) ||
  (decide (0x240000 + p * 0x22000 ≤ o) && decide (e ≤ 0x240000 + (p + 1) * 0x22000)) ||
  (decide (d = 0) && decide (0x354000 + p * 0x400 ≤ o) && decide (e ≤ 0x354000 + (p + 1) * 0x400)) ||
  (decide (0x400000 + p * 0x20000 ≤ o) && decide (e ≤ 0x400000 + (p + 1) * 0x20000)) ||
  (decide (e ≤ 25600 * 64) && (List.range (sackCount o n)).all (fun i => s.ctxGranted d p (o / 64 + i))) ||
  (decide (0x350000 ≤ o) && decide (e ≤ 0x354000) &&
    s.granted d p 0xA d ((o - 0x350000) / 64) ((e - 1 - 0x350000) / 64))

/-- Some of the n > 0 bytes of context memory from o lie in no region (08 R323): reserved. -/
def ctxReserved (d o n : Nat) : Bool :=
  (decide (0x354000 < o + n) && decide (o < 0x356000) && decide (d ≠ 0)) ||
  (decide (0x356000 < o + n) && decide (o < 0x400000)) || decide (0x500000 < o + n)

/-! ## Ledger records (07 R281) -/

/-- Offset of ledger i in context memory. -/
def ledOff (i : Nat) : Nat := 0x350000 + i * 64

/-- The 64-byte record of a ledger as a number. -/
def State.led (s : State) (d i : Nat) : Nat := s.peekN (.ctx d) (ledOff i) 64

/-- STATE of a ledger. -/
def State.ledState (s : State) (d i : Nat) : Nat := bits (s.led d i) 40 3

/-- The ledgers (die, number) whose byte 5, which holds STATE (07 R281), is not 0. -/
def State.ledgersOn (s : State) : List (Nat × Nat) :=
  s.mem.filterMap (fun c =>
    let r := c.1 / 2 ^ 64
    let o := c.1 % 2 ^ 64
    if (Region.ctx 0).num ≤ r ∧ r < (Region.ctx 0).num + s.nDies ∧ ledOff 0 ≤ o ∧ o < ledOff 256 ∧ (o - ledOff 0) % 64 = 5 then
      some (r - (Region.ctx 0).num, (o - ledOff 0) / 64)
    else none)

/-- Do floor bytes o .. o + n − 1 of vat v on die d meet withdrawn shadow rows of a ledger (07 R283)? -/
def State.shadowHit (s : State) (d v o n : Nat) : Bool :=
  s.ledgersOn.any (fun t =>
    let ld := t.1
    let r := s.led ld t.2
    let st := bits r 40 3
    let long := bit r 43
    if st = 0 ∨ 3 < st ∨ (¬ long ∧ ld ≠ d) then false else
    let nv := if long then 16 * s.nDies else 16
    let rv := if long then 16 * d + v else v
    let len := 16 * bits r 108 12
    let sb := bits r 86 22
    let sp := (bits r 32 8 + 1) * bits r 16 16
    if len = 0 ∨ o + n ≤ sb then false else
    let idx := if o < sb then 0 else (o - sb) / len
    let u := (idx / 128 * nv + rv) * 128 + idx % 128
    decide (u < sp))

/-! ## Global addresses (08 R303–R306, R315) -/

/-- What a global address names on this module, or elsewhere. -/
inductive Dec where
  /-- bytes of an on-module memory; the grant kind, die and unit size of its window -/
  | mem (r : Region) (o : Nat)
  /-- the cellar by its interleaved form: byte of the module's interleaved cellar -/
  | inter (a : Nat)
  | reg (d o : Nat)
  | host (w o : Nat)
  | remote (m a : Nat)
  | err (code : Nat)
  deriving DecidableEq, Repr

/-- The module field names this module (08 R304). -/
def State.isLocal (s : State) (m : Nat) : Bool := m = 0xFFFF || (m = s.modNum)

/-- Number of bytes of a stack. -/
def stackBytes : Nat := 80 * 2 ^ 30

/-- A local alias resolved on the issuing unit's die (and vat, for a vat): 08 R306. -/
def unalias (d : Nat) (v : Option Nat) (a : Nat) : Nat :=
  let c := bits a 40 4
  let o := bits a 0 40
  let m := bits a 48 16 * 2 ^ 48
  let off :=
    if c = 0 then o - bits o 30 3 * 2 ^ 30 + d * 2 ^ 30
    else if c = 1 then
      let o' := o - bits o 23 3 * 2 ^ 23 + d * 2 ^ 23
      match v with
      | none => o'
      | some v => o' - bits o 26 4 * 2 ^ 26 + v * 2 ^ 26
    else if c = 2 then bits o 0 37 + d * 2 ^ 37 + 2 ^ 43
    else o - bits o 23 3 * 2 ^ 23 + d * 2 ^ 23
  m + c * 2 ^ 44 + off

/-- Decode a global address, without the window check, in the order of R305. -/
def State.decodeAddr (s : State) (d : Nat) (v : Option Nat) (a0 : Nat) : Dec :=
  let sp0 := bits a0 44 4
  let m := bits a0 48 16
  let al := bits a0 40 4
  if 7 ≤ sp0 ∧ sp0 ≤ 14 then .err 1
  else if ¬ s.isLocal m ∧ 2 < sp0 then .err 6
  else if sp0 = 15 ∧ (al = 3 ∨ 6 < al) then .err 6
  else
    let a := if sp0 = 15 then unalias d v a0 else a0
    let sp := bits a 44 4
    let o := bits a 0 44
    let badBits :=
      if sp = 0 then o / 2 ^ 33 ≠ 0
      else if sp = 1 then bit o 22 = true ∨ o / 2 ^ 30 ≠ 0
      else if sp = 2 then bits o 40 3 ≠ 0
      else if sp = 3 then False
      else if sp = 6 then bits o 21 2 ≠ 0 ∨ o / 2 ^ 26 ≠ 0
      else o / 2 ^ 26 ≠ 0
    if badBits then .err 6
    else if ¬ s.isLocal m then .remote m (bits a 0 48)
    else
      let die := if sp = 0 then bits o 30 3 else if sp = 2 then bits o 37 3 else bits o 23 3
      let local2 := sp = 2 ∧ bit o 43 = false
      if sp = 3 then .host (bits o 38 6) (bits o 0 38)
      else if local2 then (if s.nDies * stackBytes ≤ bits o 0 40 then .err 6 else .inter (bits o 0 40))
      else if s.nDies ≤ die then .err 6
      else if sp = 0 then .mem (.granary die) (bits o 0 30)
      else if sp = 1 then .mem (.floor die (bits o 26 4)) (bits o 0 22)
      else if sp = 2 then (if stackBytes ≤ bits o 0 37 then .err 6 else .mem (.cellar die) (bits o 0 37))
      else if sp = 4 then (if ctxReserved die (bits o 0 23) 1 then .err 6 else .mem (.ctx die) (bits o 0 23))
      else if sp = 5 then .reg die (bits o 0 23)
      else .mem (.tunBuf die) (bits o 0 21)

/-- Stack and byte of an interleaved cellar byte (08 R315). -/
def State.interleave (s : State) (a : Nat) : Nat × Nat :=
  ((a / 4096) % s.nDies, a / 4096 / s.nDies * 4096 + a % 4096)

/-- Size of the memory a decoded local address lies in. -/
def regionSize : Region → Nat
  | .granary _ => 2 ^ 30
  | .floor _ _ => 2 ^ 22
  | .cellar _ => stackBytes
  | .ctx _ => 2 ^ 23
  | .tunBuf _ => 2 ^ 21
  | .wort _ _ _ => 2 ^ 18
  | .grist _ _ => 2 ^ 17
  | .host => 2 ^ 64

/-- Bytes o .. o + n − 1 lie in partition p's window of a memory, as die td's tables say (08 R305, 16 R685). -/
def State.memWindow (s : State) (td p : Nat) (r : Region) (o n : Nat) : Bool :=
  if n = 0 then true else
  match r with
  | .granary d => s.granted td p 3 d (o / 2 ^ 21) ((o + n - 1) / 2 ^ 21)
  | .floor d v => s.granted td p 1 d 0 0 && ! s.shadowHit d v o n
  | .cellar d => s.granted td p 5 d (o / 2 ^ 30) ((o + n - 1) / 2 ^ 30)
  | .ctx d => s.ctxWindow d p o n
  | .tunBuf d => s.granted td p 8 d (o / 2048) ((o + n - 1) / 2048)
  | _ => false

/-- Outcome of an access check: the bytes' places, or a status code of R305. -/
inductive Acc305 where
  /-- runs of bytes, each in one region -/
  | ok (runs : List (Region × Nat × Nat))
  | host (w o n : Nat)
  | remote (m a n : Nat)
  | err (code : Nat)
  deriving DecidableEq, Repr

/-- Runs of n bytes of the interleaved cellar from a: one per 4 KiB granule; fuel bounds the granules. -/
def State.interRuns (s : State) : Nat → Nat → Nat → List (Region × Nat × Nat)
  | 0, _, _ => []
  | k + 1, a, n =>
    if n = 0 then [] else
    let m := if n < 4096 - a % 4096 then n else 4096 - a % 4096
    let q := s.interleave a
    (.cellar q.1, q.2, m) :: State.interRuns s k (a + m) (n - m)

/-- A reach of n bytes from a global address by a unit of die d for partition p (08 R305): first byte decoded, last byte within
the memory, then the window. -/
def State.reach (s : State) (d : Nat) (v : Option Nat) (p a n : Nat) : Acc305 :=
  match s.decodeAddr d v a with
  | .err c => .err c
  | .remote m x => .remote m x n
  | .host w o => if 2 ^ 38 < o + n then .err 6 else .host w o n
  | .reg _ _ => .err 6
  | .inter x =>
    if s.nDies * stackBytes < x + n then .err 6
    else if n ≠ 0 ∧ ! s.granted d p 4 0 (x / 2 ^ 30) ((x + n - 1) / 2 ^ 30) then .err 9
    else .ok (s.interRuns (n / 4096 + 2) x n)
  | .mem r o =>
    if decide (regionSize r < o + n) || (match r with
      | .ctx e => ctxReserved e o n
      | _ => false) then .err 6
    else if ! s.memWindow d p r o n then .err 9 else .ok [(r, o, n)]

/-- Offset of window w of partition p in D0's context memory. -/
def winOff (p w : Nat) : Nat := 0x354000 + p * 0x400 + w * 0x10

/-- The entry of a host window (08 R321). -/
def State.winEntry (s : State) (p w : Nat) : Nat := s.peekN (.ctx 0) (winOff p w) 16

/-- Bytes o .. o + n − 1 of a host window entry: the window is not valid or they pass its end (08 R322). -/
def winBeyond (e o n : Nat) : Bool := ! bit e 90 || decide (bits e 64 26 * 4096 < o + n)

/-- A reach by the racking engine of die d: of another die's context memory and tun buffers it has none (08 R307), and host bytes lie in
a valid window (08 R322). A host COPY (`cmd`) reaches the context memory of every die (14 R607). -/
def State.rackReach (s : State) (d p a n : Nat) (cmd : Bool) : Acc305 :=
  match s.decodeAddr d none a with
  | .mem (.ctx e) _ => if ! cmd && decide (e ≠ d) then .err 6 else s.reach d none p a n
  | .mem (.tunBuf e) _ => if ! cmd && decide (e ≠ d) then .err 6 else s.reach d none p a n
  | .host w o => if winBeyond (s.winEntry p w) o n then .err 6 else s.reach d none p a n
  | _ => s.reach d none p a n

/-- Read the bytes of the runs, decoding codewords: the bytes, whether a poisoned sack was touched, the state. -/
def State.readRuns : State → List (Region × Nat × Nat) → List Byte × Bool × State
  | s, [] => ([], false, s)
  | s, (r, o, n) :: rs =>
    let s := (s.touch r o n).readCheck r o n
    let b := s.peeks r o n
    let z := s.poisoned r o n
    let t := State.readRuns s rs
    (b ++ t.1, z || t.2.1, t.2.2)

/-- Write bytes over the runs, poisoning them where pz holds. -/
def State.writeRuns : State → List (Region × Nat × Nat) → List Byte → Bool → State
  | s, [], _, _ => s
  | s, (r, o, n) :: rs, bs, pz =>
    let s := (s.touch r o n).write r o (bs.take n)
    let s := if pz then s.poisonRange r o n else s
    State.writeRuns s rs (bs.drop n) pz

end Sys2Proof.Machine
end

