-- ==== Sys2Proof/Machine/Issue.lean ====
section
/-!
DEFINITION. Sys2Proof/Machine/Issue.lean: what every engine does with the instruction a context presents: present, accept, hold,
reject (10 R403, R410, R423, R778; 03 R106, R107; 09 R351).
-/
namespace Sys2Proof.Machine

/-- A field of an instruction word. -/
def wbits (w : InstrWord) (lo n : Nat) : Nat := bits w.toNat lo n
/-- A bit of an instruction word. -/
def wbit (w : InstrWord) (i : Nat) : Bool := bit w.toNat i

/-- The word a context presents: it is READY, or HOLDs at a full queue or a busy target, and the word is fetched (10 R403, R407). -/
def State.front (s : State) (d c : Nat) : Option InstrWord :=
  let x := s.ctx d c
  if x.state = cREADY ∨ x.state = cHOLD then x.ibuf.head? else none

/-- Opcodes an engine executes: those of its own chapter and the synchronisation instructions (03 R111, 12 R519, 09 R357,
11 R462, 10 R417). -/
def opcKnown (eng o : Nat) : Bool :=
  (decide (0x60 ≤ o) && decide (o ≤ 0x65)) ||
  (if eng = 0 then decide (0x40 ≤ o) && decide (o ≤ 0x44)
   else if eng = 1 then (decide (0x80 ≤ o) && decide (o ≤ 0x8D)) || (decide (0x90 ≤ o) && decide (o ≤ 0x93)) ||
    (decide (0x98 ≤ o) && decide (o ≤ 0xA3))
   else if eng = 2 then decide (0x50 ≤ o) && decide (o ≤ 0x55)
   else decide (0x70 ≤ o) && decide (o ≤ 0x71))

/-- Record a rejection in the issuing engine's fault register; aux is the vat unit, the rack queue or the tun slot. -/
def State.recordFault (s : State) (d c code opc aux : Nat) : State :=
  let x := s.ctx d c
  let l := ctxLocal c
  match ctxEng c with
  | 0 => s.faultReg d (oVatIfault (ctxInst c)) vatIfaultValid vatIfaultMore
      [(vatIfaultCode, code), (vatIfaultCtx, l), (vatIfaultUnit, aux), (vatIfaultOpc, opc)]
  | 1 => s.faultReg d (oKetFault x.part) ketFaultValid ketFaultMore
      [(ketFaultCode, code), (ketFaultCtx, l), (ketFaultCore, ctxInst c), (ketFaultOpc, opc), (ketFaultTag, x.tag)]
  | 2 => s.faultReg d (oRkFault x.part) rkFaultValid rkFaultMore
      [(rkFaultCode, code), (rkFaultCtx, l), (rkFaultKet, 0), (rkFaultQueue, aux), (rkFaultOpc, opc), (rkFaultTag, x.tag),
       (rkFaultRcode, 0)]
  | _ => s.faultReg d (oTunFault x.part) tunFaultValid tunFaultMore
      [(tunFaultCode, code), (tunFaultCtx, l), (tunFaultOpc, opc), (tunFaultTag, x.tag), (tunFaultSlot, aux), (tunFaultRcode, 0)]

/-- The fault register of a context's engine is free. -/
def State.ctxFaultFree (s : State) (d c : Nat) : Bool :=
  let x := s.ctx d c
  match ctxEng c with
  | 0 => s.faultFree d (oVatIfault (ctxInst c)) vatIfaultValid
  | 1 => s.faultFree d (oKetFault x.part) ketFaultValid
  | 2 => s.faultFree d (oRkFault x.part) rkFaultValid
  | _ => s.faultFree d (oTunFault x.part) tunFaultValid

/-- Opcode of the word a context presents or holds, 0 when none is fetched. -/
def Ctx.headOp (x : Ctx) : Nat := match x.ibuf with
  | [] => 0
  | w :: _ => wbits w 0 8

/-- A rejected instruction: not accepted, nothing posted, the fault recorded and reported, the context stopped at it
(03 R107, 09 R351, 10 R423). A PROT is reported to the bond island as well (08 R305). -/
def State.reject (s : State) (d c code aux : Nat) : State :=
  let x := s.ctx d c
  let opc := x.headOp
  let free := s.ctxFaultFree d c
  let s := s.recordFault d c code opc aux
  let r : Report :=
    { die := d, tag := x.tag, part := x.part, cls := 0x12, detail := code, island := ctxIsland c,
      sub := ctxInst c, unit := free }
  let s := (s.ctxTo d c { x with state := cSTOPPED, fcode := code, fopc := opc, heldus := 0 }).report r
  if code = 9 then s.bondReport r else s

/-- The instruction of n words is accepted: the context goes on; out counts it as not completed (10 R410, R420). -/
def State.accept (s : State) (d c n : Nat) (out : Bool) : State :=
  let x := s.ctx d c
  let y : Ctx :=
    { x with
      state := cREADY, pc := (x.pc + 16 * n) % 2 ^ 32, ibuf := x.ibuf.drop n, yieldCyc := 0, yielded := false,
      outst := x.outst + (if out then 1 else 0), heldus := 0, wctr := 0, wthr := 0 }
  if x.state = cREADY then s.putCtx d c y else s.ctxTo d c y

/-- The context holds at the instruction (03 R106, 09 R352, 10 R403). -/
def State.hold (s : State) (d c : Nat) : State :=
  let x := s.ctx d c
  if x.state = cHOLD then s else s.ctxTo d c { x with state := cHOLD, heldus := 0, wctr := 0, wthr := 0 }

/-- A context of an engine presents an instruction of opcode opc: its meaning runs; an opcode the engine does not execute is
rejected with OPC (10 R778); any other word leaves the step without effect. -/
def issue (eng : Nat → Bool) (opc : Nat → Bool) (aux d c : Nat) (s : State) (body : InstrWord → State) :
    Host.Outcome State Fault Refusal :=
  if ! s.hasCtx d c then .fault .absentUnit else
  match s.front d c with
  | none => .next s
  | some w =>
    if ! eng (ctxEng c) then .next s
    else if opc (wbits w 0 8) then .next (body w)
    else if opcKnown (ctxEng c) (wbits w 0 8) then .next s
    else .next (s.reject d c 2 aux)

/-- Who holds the current slot of table t of a die (10 R429, R430): 0 nobody, v + 1 channel Cv, 17 ring liquor; and the tag, when the slot
is reserved for it. -/
def State.slotHolder (s : State) (d t : Nat) : Nat × Option Nat :=
  let o := mget (fun _ => 0) s.slotOwn (d * 5 + t)
  (o % 32, if o / 32 = 0 then none else some (o / 32 - 1))

/-- The current slot of a table is the traffic's of code k (as `slotHolder` gives it) and tag. -/
def State.slotFor (s : State) (d t k tag : Nat) : Bool :=
  let h := s.slotHolder d t
  h.1 = k && (match h.2 with
    | none => true
    | some g => g = tag)

/-- Run the rejecting checks in their order (10 R778): the code of the first that fails. -/
def firstFail : List (Bool × Nat) → Option Nat
  | [] => none
  | (b, c) :: cs => if b then some c else firstFail cs

end Sys2Proof.Machine
end

