-- ==== Sys2Proof/Machine/Vat.lean ====
section
/-!
DEFINITION. Sys2Proof/Machine/Vat.lean: the vat instructions STEEP, MASH, DRAW, SKIP and TALLY, their checks and acceptance, the
steep unit, the tally counters and the draw unit (02_sparge_ring.md, 03_tile_operations.md).
-/
namespace Sys2Proof.Machine

/-! ## Modes (03 R112, 02 R63) -/

/-- A mode combination of R112; STEEP has no FMT and takes the one its combination allows. -/
def modeOk (shape sp lvl : Nat) (fmt : Option Nat) : Bool :=
  let f (x : Nat) : Bool := match fmt with
    | none => true
    | some y => x = y
  if shape = 0 then (lvl = 1) || (sp = 0 && (lvl = 2 || lvl = 3) && f 1)
  else if shape = 1 then lvl = 1 && f 0
  else if shape = 2 then sp = 0 && lvl = 1
  else sp = 0 && lvl = 1 && f 0

/-- Is the shape a draught one? -/
def isDraught (shape : Nat) : Bool := 2 ≤ shape
/-- Is the mode INT4? -/
def isInt4 (shape : Nat) : Bool := shape % 2 = 1

/-- Grist entries a mode uses in a bank (02 R63, 03 R144). -/
def entriesOf (shape sp lvl ent : Nat) : Nat :=
  if isDraught shape then ent + 1 else if sp = 1 then 4 else if lvl = 2 then 2 else if lvl = 3 then 3 else 1

/-- Steep source bytes per row (02 R63, 03 R144). -/
def rowBytes (shape sp lvl ent : Nat) : Nat :=
  (if isInt4 shape then 64 else 128) * (if sp = 1 then 2 else if isDraught shape then ent + 1 else if lvl = 2 then 2
    else if lvl = 3 then 3 else 1)

/-- Liquor bytes per beat in the granary (03 R112, 07 R263). -/
def beatBytes (sp lvl : Nat) : Nat := if sp = 1 then 192 else if lvl = 2 then 256 else if lvl = 3 then 384 else 128

/-- Stages a liquor column spends in each cell (02 R59). -/
def stagesOf (lvl : Nat) : Nat := if lvl = 2 then 3 else if lvl = 3 then 6 else 1

/-! ## Fields of the words (03 R113, R117, R125, R131, R133) -/

def stBANK (w : InstrWord) : Nat := wbits w 21 1
def stSHAPE (w : InstrWord) : Nat := wbits w 22 2
def stSP (w : InstrWord) : Nat := wbits w 24 1
def stLVL (w : InstrWord) : Nat := wbits w 25 2
def stROWS (w : InstrWord) : Nat := wbits w 27 8
def stENT (w : InstrWord) : Nat := wbits w 35 2
def stTQ (w : InstrWord) : Nat := wbits w 37 2
def stSADDR (w : InstrWord) : Nat := wbits w 40 30
def maPAR (w : InstrWord) : Nat := wbits w 20 1
def maKEEP (w : InstrWord) : Bool := wbit w 21
def maINIT (w : InstrWord) : Bool := wbit w 22
def maHALF (w : InstrWord) : Nat := wbits w 23 1
def maSHAPE (w : InstrWord) : Nat := wbits w 24 2
def maSP (w : InstrWord) : Nat := wbits w 26 1
def maLVL (w : InstrWord) : Nat := wbits w 27 2
def maFMT (w : InstrWord) : Nat := wbits w 29 1
def maINJ (w : InstrWord) : Bool := wbit w 30
def maENT (w : InstrWord) : Nat := wbits w 31 2
def maWBASE (w : InstrWord) : Nat := wbits w 33 9
def maNCOL (w : InstrWord) : Nat := wbits w 42 10
def maTID (w : InstrWord) : Nat := wbits w 52 24
def maNB (w : InstrWord) : Nat := wbits w 76 16
def maLADDR (w : InstrWord) : Nat := wbits w 92 30
def drHALF (w : InstrWord) : Nat := wbits w 20 1
def drFOLD (w : InstrWord) : Bool := wbit w 21
def drWFMT (w : InstrWord) : Nat := wbits w 22 1
def drROWS (w : InstrWord) : Nat := wbits w 23 8
def drCBASE (w : InstrWord) : Nat := wbits w 31 9
def drNCOL (w : InstrWord) : Nat := wbits w 40 10
def drOFMT (w : InstrWord) : Nat := wbits w 50 3
def drHSET (w : InstrWord) : Nat := wbits w 57 6
def drDADDR (w : InstrWord) : Nat := wbits w 63 22
def skNPASS (w : InstrWord) : Nat := wbits w 20 16
def taOP (w : InstrWord) : Nat := wbits w 20 2
def taBANK (w : InstrWord) : Nat := wbits w 22 1
def taDADDR (w : InstrWord) : Nat := wbits w 23 22

/-- Opcode of an accepted instruction. -/
def VInstr.opc (x : VInstr) : Nat := wbits x.word 0 8

/-- The record a vat keeps of a STEEP (03 R115). -/
def steepRec (w : InstrWord) : BankRec :=
  { shape := stSHAPE w, sp := stSP w, lvl := stLVL w, ent := stENT w, tq := stTQ w, mb := wbits w 82 14, kblk := wbits w 96 16 }

/-- Distance between source rows of a STEEP (03 R113, R114). -/
def stDist (w : InstrWord) : Nat :=
  if wbits w 70 12 = 0 then rowBytes (stSHAPE w) (stSP w) (stLVL w) (stENT w) else 16 * wbits w 70 12

/-- Source rows of a STEEP: in draught, ROWS for each of four quadrants (03 R144). -/
def stSrcRows (w : InstrWord) : Nat := if isDraught (stSHAPE w) then 4 * stROWS w else stROWS w

/-- Bytes of a DRAW's output row (03 R127). -/
def drRowBytes (w : InstrWord) : Nat :=
  let n := drNCOL w
  match drOFMT w with
  | 0 => 4 * n
  | 1 => 2 * n
  | 2 => n
  | 3 => n
  | 4 => 33 * (n / 32)
  | _ => 4 * n

/-- Distance between a DRAW's output rows (03 R126). -/
def drDist (w : InstrWord) : Nat := if wbits w 85 16 = 0 then drRowBytes w else 16 * wbits w 85 16

/-! ## Parity-indexed parts of a vat -/

def Vat.bank (x : Vat) (q : Nat) : Nat := if q = 0 then x.bank0 else x.bank1
def Vat.setBank (x : Vat) (q b : Nat) : Vat := if q = 0 then { x with bank0 := b } else { x with bank1 := b }
def Vat.gens (x : Vat) (q : Nat) : List Gen := if q = 0 then x.gens0 else x.gens1
def Vat.setGens (x : Vat) (q : Nat) (g : List Gen) : Vat := if q = 0 then { x with gens0 := g } else { x with gens1 := g }
def Vat.live (x : Vat) (q : Nat) : Option BankRec := if q = 0 then x.live0 else x.live1
def Vat.setLive (x : Vat) (q : Nat) (r : Option BankRec) : Vat := if q = 0 then { x with live0 := r } else { x with live1 := r }
def Vat.mask (x : Vat) (q : Nat) : BitVec 128 := if q = 0 then x.mask0 else x.mask1
def Vat.psn (x : Vat) (q : Nat) : BitVec 128 := if q = 0 then x.psn0 else x.psn1
def Vat.struck (x : Vat) (q : Nat) : Bool := if q = 0 then x.struck0 else x.struck1
def Vat.setStruck (x : Vat) (q : Nat) (b : Bool) : Vat := if q = 0 then { x with struck0 := b } else { x with struck1 := b }
def Vat.accum (x : Vat) (h : Nat) : BitVec 128 := if h = 0 then x.accum0 else x.accum1
def Vat.setAccum (x : Vat) (h : Nat) (b : BitVec 128) : Vat := if h = 0 then { x with accum0 := b } else { x with accum1 := b }

/-- Set bit i of a 128-bit row set to b. -/
def setRow (v : BitVec 128) (i : Nat) (b : Bool) : BitVec 128 :=
  if b then v ||| (1#128 <<< i) else v &&& ~~~ (1#128 <<< i)

/-- RELEASED, STEEPING, READY, LIVE (02 R103). -/
def bRELEASED : Nat := 0
def bSTEEPING : Nat := 1
def bREADY : Nat := 2
def bLIVE : Nat := 3

/-- STEEPs to bank q that are accepted and not committed. -/
def Vat.steepsTo (x : Vat) (q : Nat) : List VInstr := x.steepQ.filter (fun i => i.opc = 0x40 && stBANK i.word = q)

/-! ## Acceptance -/

/-- The instruction enters a unit's queue (03 R105): context, tag and partition of the issuer, the next number of acceptance. -/
def State.vinstr (s : State) (d c : Nat) (w : InstrWord) : VInstr :=
  let x := s.ctx d c
  { word := w, ctx := c, tag := x.tag, part := x.part, seq := (s.vat d (ctxInst c)).seq }

/-- The counts of the tally set start afresh (03 R134). -/
def zeroTally (x : Vat) : Vat := { x with checked := 0, psnskip := 0, mismatch := 0, npasses := 0, nanskip := 0 }

/-- The tally set is cleared, with no tag (03 R135). -/
def clearTally (x : Vat) : Vat := { zeroTally x with ttag := none }

/-- The tally sets of the vats of die d below n are cleared. -/
def clearTallies (d : Nat) : Nat → State → State
  | 0, s => s
  | n + 1, s => clearTallies d n (s.putVat d n (clearTally (s.vat d n)))

/-! ## Floor and granary reads of the steep unit -/

/-- Read n bytes for a STEEP: from the vat's floor, or from the granary (03 R113, R116). -/
def State.steepRead (s : State) (d v : Nat) (w : InstrWord) (o n : Nat) : List Byte × Bool × State :=
  s.readRuns [(if wbit w 20 then .granary d else .floor d v, o, n)]

/-- Bank row r of a STEEP: the source row it takes, none for a row that holds zero (03 R114, R144). -/
def stSource (w : InstrWord) (r : Nat) : Option Nat :=
  if isDraught (stSHAPE w) then (if r % 32 < stROWS w then some (r / 32 * stROWS w + r % 32) else none)
  else if r < stROWS w then some r else none

/-- Row mask bit i of a STEEP with MSK (03 R113, R114). The stored bits count, poisoned or not (DESIGN CHOICE, log entry 83). -/
def State.steepMask (s : State) (d v : Nat) (w : InstrWord) (i : Nat) : Bool :=
  wbit w 39 && bit (s.peek (.floor d v) (wbits w 112 16 * 64 + i / 8 % 16)).toNat (i % 8)

/-- Stage bank row r of a STEEP (02 R69; 07 R271: a masked row is not read). Its mask bit is that of the source row, in draught too
(DESIGN CHOICE, log entry 84); a poisoned mask sack sets no PSN (DESIGN CHOICE, log entry 83). -/
def State.stageRow (s : State) (d v : Nat) (w : InstrWord) (r : Nat) : Staged × State :=
  match stSource w r with
  | none => ({ mask := true }, s)
  | some i =>
    let s := if wbit w 39 then s.readCheck (.floor d v) (wbits w 112 16 * 64) 16 else s
    if s.steepMask d v w i then ({ mask := true }, s) else
    let t := s.steepRead d v w (stSADDR w + i * stDist w) (rowBytes (stSHAPE w) (stSP w) (stLVL w) (stENT w))
    let o := stSADDR w + i * stDist w
    let src := t.2.2.poisonAt (if wbit w 20 then .granary d else .floor d v) o (rowBytes (stSHAPE w) (stSP w) (stLVL w) (stENT w))
    ({ bytes := t.1, psn := t.2.1, src := src }, t.2.2)

/-- Fill the staging buffer up to four rows (02 R69, R71); fuel bounds the rows. -/
def steepFill (d v : Nat) : Nat → State → State
  | 0, s => s
  | n + 1, s =>
    let x := s.vat d v
    match x.steepQ with
    | [] => s
    | i :: _ =>
      if i.opc ≠ 0x40 ∨ 4 ≤ x.staging.length ∨ 128 ≤ x.steepRead then s else
      let t := s.stageRow d v i.word x.steepRead
      steepFill d v n (t.2.putVat d v { t.2.vat d v with staging := enq x.staging t.1, steepRead := x.steepRead + 1 })

/-! ## TALLY (03 R134–R136) -/

/-- Write the record of the tally counters for tag t; counts that are t's start afresh, and the set stays t's (03 R134, R135). -/
def State.tallyReport (s : State) (d v : Nat) (i : VInstr) : State :=
  let x := s.vat d v
  let own := decide (x.ttag = some i.tag)
  let n (k : Nat) : Nat := if own then k else 0
  let bs := toBytes 4 (n x.checked) ++ toBytes 4 (n x.psnskip) ++ toBytes 2 (n x.mismatch) ++ [BitVec.ofNat 8 i.tag, 0] ++
    toBytes 4 (n x.npasses) ++ toBytes 4 (n x.nanskip) ++ List.replicate 44 0
  let s := s.write (.floor d v) (taDADDR i.word) bs
  if own then s.putVat d v (zeroTally x) else s

/-- Value of a grist byte in the integer reading (02 R72): limb e of a precision mode above 0 is unsigned, INT4 uses four bits. -/
def gristInt (shape lvl e b : Nat) : Int :=
  if isInt4 shape then sx 4 b else if (lvl = 2 ∨ lvl = 3) ∧ 0 < e then ((b % 256 : Nat) : Int) else sx 8 b

/-- A QF8 code in units of 2^-10, NaN as 0 (02 R72, 04 R153). -/
def qf8Units (b : Nat) : Int := match decQF8 b with
  | .fin neg m e => (if neg then -1 else 1) * ((m * 2 ^ (e + 10).toNat : Nat) : Int)
  | _ => 0

/-- Grist byte e of bank q at cell (r, k). -/
def State.grist (s : State) (d v r k q e : Nat) : Nat := (s.peek (.grist d v) ((r * 128 + k) * 8 + 4 * q + e)).toNat

/-- A residue mod 8191 of an integer. -/
def res (i : Int) : Nat := (i % 8191).toNat

/-- Rows the tally entries of a bank sum: all, or in draught those of quadrant TQ (03 R144). -/
def tallyRows (r : BankRec) : List Nat :=
  if isDraught r.shape then (List.range 32).map (fun i => 32 * r.tq + i) else List.range 128

/-- The two residues of entry e of column k in bank q, computed from the grist rows (02 R72). -/
def State.tallyOf (s : State) (d v q : Nat) (r : BankRec) (k e : Nat) : Nat × Nat :=
  let rows := tallyRows r
  (res ((rows.map (fun i => gristInt r.shape r.lvl e (s.grist d v i k q e))).foldl (· + ·) 0),
   res ((rows.map (fun i => qf8Units (s.grist d v i k q e))).foldl (· + ·) 0))

/-- Key of a stored tally residue: column, entry 0–7, reading. -/
def tallyKey (k q e reading : Nat) : Nat := (k * 8 + 4 * q + e) * 2 + reading

def tallyDefault (_ : Nat) : BitVec 13 := 0

/-- A stored tally residue. -/
def Vat.tallyAt (x : Vat) (k q e reading : Nat) : Nat := (mget tallyDefault x.tallyEnt (tallyKey k q e reading)).toNat

/-- RESCAN finds an entry that differs (03 R136). -/
def State.rescanBad (s : State) (d v q : Nat) : Bool :=
  let x := s.vat d v
  match x.live q with
  | none => false
  | some r => (List.range 128).any (fun k => (List.range 4).any (fun e =>
      let t := s.tallyOf d v q r k e
      decide (t.1 ≠ x.tallyAt k q e 0) || decide (t.2 ≠ x.tallyAt k q e 1)))

/-- TALLY at the head of the steep queue executes (03 R105, R136, R137, 15 R646). -/
def State.tallyRun (s : State) (d v : Nat) (i : VInstr) : State :=
  if taOP i.word = 0 then s.tallyReport d v i
  else
    let b := (s.vat d v).bank (taBANK i.word)
    if b = bREADY ∨ b = bLIVE then
      if s.rescanBad d v (taBANK i.word) then
        s.report { die := d, tag := i.tag, part := i.part, cls := 0x05, island := v, inoc := (s.vat d v).struck (taBANK i.word) }
      else s
    else s

/-- Move the steep unit past the TALLYs at its head and start reading the STEEP that follows; fuel bounds the queue. -/
def steepAdvance (d v : Nat) : Nat → State → State
  | 0, s => s
  | n + 1, s =>
    match (s.vat d v).steepQ with
    | [] => s
    | i :: q =>
      if i.opc = 0x40 then steepFill d v 4 s
      else
        let s := s.tallyRun d v i
        let x := s.vat d v
        steepAdvance d v n (s.putVat d v { x with steepQ := q, done := enq x.done i })

/-! ## STEEP -/

/-- The checks of a STEEP in their order (03 R116, 10 R778). -/
def steepChecks (s : State) (d c : Nat) (w : InstrWord) : List (Bool × Nat) :=
  let v := ctxInst c
  let dr := isDraught (stSHAPE w)
  let n := stSrcRows w
  let last := stSADDR w + (n - 1) * stDist w + rowBytes (stSHAPE w) (stSP w) (stLVL w) (stENT w)
  let src := wbit w 20
  [(! modeOk (stSHAPE w) (stSP w) (stLVL w) none || (! dr && (decide (stENT w ≠ 0) || decide (stTQ w ≠ 0))), 4),
   (decide ((if dr then 8 else 128) < stROWS w), 7),
   ((! src && decide (stSADDR w / 2 ^ 22 ≠ 0)) || (decide (0 < n) && decide ((if src then 2 ^ 30 else 2 ^ 22) < last)), 6),
   ((List.range n).any (fun i =>
      let o := stSADDR w + i * stDist w
      let b := rowBytes (stSHAPE w) (stSP w) (stLVL w) (stENT w)
      if src then ! s.memWindow d (s.ctx d c).part (.granary d) o b else s.shadowHit d v o b) ||
      (wbit w 39 && decide (0 < n) && s.shadowHit d v (wbits w 112 16 * 64) 64), 9)]

/-- STEEP accepted: it enters the steep queue and a RELEASED bank becomes STEEPING (02 R65, 03 R105). -/
def State.acceptSteep (s : State) (d c : Nat) (w : InstrWord) : State :=
  let v := ctxInst c
  let i := s.vinstr d c w
  let x := s.vat d v
  let q := stBANK w
  let y := { x with steepQ := enq x.steepQ i, seq := x.seq + 1 }
  let y := if y.bank q = bRELEASED then y.setBank q bSTEEPING else y
  steepAdvance d v 9 ((s.putVat d v y).accept d c 1 true)

/-- Issue of a STEEP (03 R106, R107, R116). -/
def State.steep (s : State) (d c : Nat) (w : InstrWord) : State :=
  match firstFail (steepChecks s d c w) with
  | some k => s.reject d c k 0
  | none => if 8 ≤ (s.vat d (ctxInst c)).steepQ.length then s.hold d c else s.acceptSteep d c w

def execSteep (d c : Nat) (s : State) : Host.Outcome State Fault Refusal :=
  issue (· = 0) (· = 0x40) 3 d c s (s.steep d c)

/-! ## TALLY issue -/

/-- The checks of a TALLY (03 R133, R137, 00 R777; 07 R283: a record in withdrawn shadow rows). -/
def tallyChecks (s : State) (d c : Nat) (w : InstrWord) : List (Bool × Nat) :=
  [(decide (wbits w 45 83 ≠ 0) || decide (2 ≤ taOP w) || (decide (taOP w = 0) && decide (taBANK w ≠ 0)) ||
      (decide (taOP w = 1) && decide (taDADDR w ≠ 0)), 1),
   (decide (taOP w = 0) && decide (taDADDR w % 64 ≠ 0), 8),
   (decide (taOP w = 0) && decide (2 ^ 22 < taDADDR w + 64), 6),
   (decide (taOP w = 0) && s.shadowHit d (ctxInst c) (taDADDR w) 64, 9)]

/-- Issue of a TALLY. -/
def State.tally (s : State) (d c : Nat) (w : InstrWord) : State :=
  let v := ctxInst c
  match firstFail (tallyChecks s d c w) with
  | some k => s.reject d c k 0
  | none =>
    let x := s.vat d v
    if 8 ≤ x.steepQ.length then s.hold d c else
    let i := s.vinstr d c w
    let s := (s.putVat d v { x with steepQ := enq x.steepQ i, seq := x.seq + 1 }).accept d c 1 true
    if x.steepQ = [] then steepAdvance d v 9 s else s

/-- A context presents TALLY with the given OP; OPs that are reserved are rejected by either row. -/
def execTallyReport (d c : Nat) (s : State) : Host.Outcome State Fault Refusal :=
  issue (· = 0) (· = 0x44) 3 d c s (fun w => if taOP w = 1 then s else s.tally d c w)

def execTallyRescan (d c : Nat) (s : State) : Host.Outcome State Fault Refusal :=
  issue (· = 0) (· = 0x44) 3 d c s (fun w => if taOP w = 0 then s else s.tally d c w)

/-! ## MASH and SKIP issue -/

/-- Draught: columns per entry (03 R145). -/
def maNo (w : InstrWord) : Nat := maNCOL w / (maENT w + 1)

/-- The checks of a MASH in their order (03 R124, R145, 10 R778). -/
def mashChecks (s : State) (d c : Nat) (w : InstrWord) : List (Bool × Nat) :=
  let dr := isDraught (maSHAPE w)
  let n := maNCOL w
  let b := maWBASE w
  let k := if isInt4 (maSHAPE w) then 2 else 1
  let bytes := if dr then 4 * n * 128 else n * beatBytes (maSP w) (maLVL w)
  let reads := (maINJ w || dr) && decide (0 < n)
  [(decide (wbits w 122 6 ≠ 0), 1),
   (! modeOk (maSHAPE w) (maSP w) (maLVL w) (some (maFMT w)) || (! dr && decide (maENT w ≠ 0)), 4),
   (maINJ w && (decide (ctxInst c ≠ 0) || dr), 5),
   (decide (512 < n) || (dr && decide (n % (maENT w + 1) ≠ 0)), 7),
   (decide (512 < b + k * (if dr then maNo w else n)), 3),
   (reads && decide (2 ^ 30 < maLADDR w + bytes), 6),
   (reads && ! s.memWindow d (s.ctx d c).part (.granary d) (maLADDR w) bytes, 9)]

/-- MASH accepted (03 R105, R138; 02 R91: the half's rows are ACCUM). -/
def State.acceptMash (s : State) (d c : Nat) (w : InstrWord) : State :=
  let v := ctxInst c
  let i := s.vinstr d c w
  let x := s.vat d v
  let y : Vat :=
    if maNCOL w = 0 then { x with done := enq x.done i, seq := x.seq + 1 }
    else ({ x with mashQ := enq x.mashQ i, seq := x.seq + 1 } : Vat).setAccum (maHALF w) (BitVec.allOnes 128)
  (s.putVat d v y).accept d c 1 true

/-- Issue of a MASH (03 R106, R107, R122, R124). -/
def State.mash (s : State) (d c : Nat) (w : InstrWord) : State :=
  match firstFail (mashChecks s d c w) with
  | some k => s.reject d c k 1
  | none =>
    if s.rf d oSpineMode spineModePend = 1 ∨ 8 ≤ (s.vat d (ctxInst c)).mashQ.length then s.hold d c else s.acceptMash d c w

def execMash (d c : Nat) (s : State) : Host.Outcome State Fault Refusal :=
  issue (· = 0) (· = 0x41) 3 d c s (s.mash d c)

/-- Issue of a SKIP (03 R131, R138). -/
def State.skip (s : State) (d c : Nat) (w : InstrWord) : State :=
  let v := ctxInst c
  if wbits w 36 92 ≠ 0 then s.reject d c 1 1 else
  let x := s.vat d v
  if 8 ≤ x.mashQ.length then s.hold d c else
  let i := s.vinstr d c w
  let y := if skNPASS w = 0 then { x with done := enq x.done i, seq := x.seq + 1 }
           else { x with mashQ := enq x.mashQ i, seq := x.seq + 1 }
  (s.putVat d v y).accept d c 1 true

def execSkip (d c : Nat) (s : State) : Host.Outcome State Fault Refusal :=
  issue (· = 0) (· = 0x43) 3 d c s (s.skip d c)

/-! ## DRAW issue -/

/-- The checks of a DRAW in their order (03 R130, 10 R778). -/
def drawChecks (s : State) (d c : Nat) (w : InstrWord) : List (Bool × Nat) :=
  let n := drNCOL w
  [(decide (wbits w 101 27 ≠ 0), 1),
   (decide (6 ≤ drOFMT w) || (decide (drOFMT w = 3) && decide (drWFMT w = 1)), 4),
   (decide ((if drFOLD w then 8 else 128) < drROWS w) || (decide (drOFMT w = 4) && decide (n % 32 ≠ 0)), 7),
   (decide (512 < drCBASE w + n), 3),
   (decide (0 < drROWS w) && decide (0 < n) && decide (2 ^ 22 < drDADDR w + (drROWS w - 1) * drDist w + drRowBytes w), 6),
   (decide (0 < n) && (List.range (drROWS w)).any (fun r => s.shadowHit d (ctxInst c) (drDADDR w + r * drDist w) (drRowBytes w)), 9)]

/-- Issue of a DRAW (03 R106, R107, R130, R138). -/
def State.draw (s : State) (d c : Nat) (w : InstrWord) : State :=
  let v := ctxInst c
  match firstFail (drawChecks s d c w) with
  | some k => s.reject d c k 2
  | none =>
    let x := s.vat d v
    if 8 ≤ x.drawQ.length then s.hold d c else
    let i := s.vinstr d c w
    let y := if drROWS w = 0 ∨ drNCOL w = 0 then { x with done := enq x.done i, seq := x.seq + 1 }
             else { x with drawQ := enq x.drawQ i, seq := x.seq + 1 }
    (s.putVat d v y).accept d c 1 true

def execDraw (d c : Nat) (s : State) : Host.Outcome State Fault Refusal :=
  issue (· = 0) (· = 0x42) 3 d c s (s.draw d c)

/-! ## The steep unit's commits (02 R70–R72, 03 R114, R144, 07 R265) -/

/-- Grist bytes of cell (r, k) of bank q after a row commit: the entries in use from the row, the others zero (02 R63). -/
def cellBytes (w : InstrWord) (row : List Byte) (k : Nat) : List Byte :=
  let at_ (i : Nat) : Nat := (row.getD i 0).toNat
  let nib (i : Nat) : Nat := bits (at_ (i / 2)) (4 * (i % 2)) 4
  let sh := stSHAPE w
  let n := entriesOf sh (stSP w) (stLVL w) (stENT w)
  (List.range 4).map (fun e =>
    if n ≤ e then 0 else BitVec.ofNat 8
      (if stSP w = 1 then (if isInt4 sh then nib (4 * (k / 2) + e) else at_ (4 * (k / 2) + e))
       else if isInt4 sh then nib (128 * e + k) else at_ (128 * e + k)))

/-- Commit the cells of row r from column k on; fuel is the columns left. -/
def commitCells (d v q r : Nat) (w : InstrWord) (row : List Byte) : Nat → Nat → State → State
  | 0, _, s => s
  | n + 1, k, s => commitCells d v q r w row n (k + 1) (s.poke (.grist d v) ((r * 128 + k) * 8 + 4 * q) (cellBytes w row k))

/-- Generations of bank q bound before a STEEP was accepted: it waits for their releases (02 R71). -/
def Vat.gensBefore (x : Vat) (q seq : Nat) : List Gen := (x.gens q).filter (fun g => decide (g.seq ≤ seq))

/-- The steep unit may commit row r of its head STEEP (02 R71). -/
def Vat.rowFree (x : Vat) (i : VInstr) (r : Nat) : Bool := (x.gensBefore (stBANK i.word) i.seq).all (fun g => g.rel.getLsbD r)

/-- The tally residues with the entries of one committed row added (02 R72): bs are the four bytes of each cell. -/
def tallyAddRow (q : Nat) (r : BankRec) (row : List Byte) (w : InstrWord) : Nat → Nat → SMap (BitVec 13) → SMap (BitVec 13)
  | 0, _, m => m
  | n + 1, k, m =>
    let add (m : SMap (BitVec 13)) (key : Nat) (i : Int) : SMap (BitVec 13) :=
      mset tallyDefault m key (BitVec.ofNat 13 (((mget tallyDefault m key).toNat + res i) % 8191))
    tallyAddRow q r row w n (k + 1) ((cellBytes w row k).zipIdx.foldl (fun m (t : Byte × Nat) =>
      add (add m (tallyKey k q t.2 0) (gristInt r.shape r.lvl t.2 t.1.toNat)) (tallyKey k q t.2 1) (qf8Units t.1.toNat)) m)

/-- Commit the next row of the STEEP at the head (02 R70, R71), and add it to the residues of the tally entries (02 R72). -/
def State.steepCommit (s : State) (d v : Nat) : State :=
  match (s.vat d v).steepQ with
  | [] => s
  | i :: _ =>
    let s := steepFill d v 4 s
    let x := s.vat d v
    match x.staging with
    | [] => s
    | g :: rest =>
      let r := x.steepRow
      if i.opc ≠ 0x40 ∨ 128 ≤ r ∨ ! x.rowFree i r then s else
      let q := stBANK i.word
      let s := commitCells d v q r i.word g.bytes 128 0 s
      let b := steepRec i.word
      let y := { x with staging := rest, steepRow := r + 1,
                        tallyNew := if (tallyRows b).contains r then tallyAddRow q b g.bytes i.word 128 0 x.tallyNew else x.tallyNew }
      let y := if q = 0 then { y with mask0 := setRow y.mask0 r g.mask, psn0 := setRow y.psn0 r g.psn }
               else { y with mask1 := setRow y.mask1 r g.mask, psn1 := setRow y.psn1 r g.psn }
      let y := { y with psnSrc := mset (fun _ => 0) y.psnSrc (q * 128 + r) g.src }
      steepFill d v 4 (s.putVat d v y)

def execSteepRowCommit (d v : Nat) (s : State) : Host.Outcome State Fault Refusal :=
  if s.hasVat d v then .next (s.steepCommit d v) else .fault .absentUnit

/-- The stored residues with those of bank q replaced by the ones its STEEP has summed (02 R72). -/
def storeTally (q : Nat) (m new : SMap (BitVec 13)) : SMap (BitVec 13) :=
  new.foldl (fun m (e : Nat × BitVec 13) => mset tallyDefault m e.1 e.2)
    (m.filter (fun (e : Nat × BitVec 13) => decide (e.1 / 8 % 2 ≠ q)))

/-- Commit the tally entries of the head STEEP: the bank is READY, unless a pass uses it already, and the STEEP completes
(02 R65, R72, 03 R109, R115). -/
def State.tallyCommit (s : State) (d v : Nat) : State :=
  let x := s.vat d v
  match x.steepQ with
  | [] => s
  | i :: rest =>
    let q := stBANK i.word
    if i.opc ≠ 0x40 ∨ x.steepRow < 128 ∨ ! (x.gensBefore q i.seq).all (fun g => g.trel) then s else
    let r := steepRec i.word
    let y := { x with
      tallyEnt := storeTally q x.tallyEnt x.tallyNew, tallyNew := [], steepQ := rest, steepRow := 0, steepRead := 0, staging := [],
      done := enq x.done i }
    let y := (y.setLive q (some r)).setStruck q false
    let y := if y.bank q = bSTEEPING then y.setBank q bREADY else y
    steepAdvance d v 9 (s.putVat d v y)

def execTallyEntryCommit (d v : Nat) (s : State) : Host.Outcome State Fault Refusal :=
  if s.hasVat d v then .next (s.tallyCommit d v) else .fault .absentUnit

/-! ## Wort (02 R91–R95, R100; 08 R314) -/

/-- Byte of a wort entry. -/
def wortOff (r c : Nat) : Nat := r * 2048 + c * 4

/-- Contents of a wort entry: after an abort drain those not written since are free (02 R100). -/
def State.wortAt (s : State) (d v h r c : Nat) : Word32 :=
  let x := s.vat d v
  let u := if h = 0 then x.undef0 else x.undef1
  let wr := if h = 0 then x.wrote0 else x.wrote1
  match u with
  | some e => if mget (fun _ => false) wr (r * 512 + c) then BitVec.ofNat 32 (s.peekN (.wort d v h) (wortOff r c) 4)
              else BitVec.ofNat 32 (Config.freeValue (e + r * 512 + c))
  | none => BitVec.ofNat 32 (s.peekN (.wort d v h) (wortOff r c) 4)

/-- Write a wort entry. -/
def State.wortPut (s : State) (d v h r c : Nat) (w : Word32) : State :=
  let s := s.write (.wort d v h) (wortOff r c) (toBytes 4 w.toNat)
  let x := s.vat d v
  if h = 0 then (if x.undef0.isSome then s.putVat d v { x with wrote0 := mset (fun _ => false) x.wrote0 (r * 512 + c) true } else s)
  else (if x.undef1.isSome then s.putVat d v { x with wrote1 := mset (fun _ => false) x.wrote1 (r * 512 + c) true } else s)

/-- A MASH of a half accepted before seq still has row r to write (02 R93). -/
def Vat.owesRow (x : Vat) (h seq r : Nat) : Bool :=
  x.mashQ.any (fun i => i.opc = 0x41 && maHALF i.word = h && decide (i.seq < seq)) ||
  x.passes.any (fun p => p.kind = .mash && maHALF p.instr.word = h && decide (p.instr.seq < seq) &&
    (! p.ended || p.cols.any (fun c => ! c.wr.getLsbD r)))

/-- Every column of the MASHes of a half accepted before seq has its tally result (15 R647). -/
def Vat.talliesKnown (x : Vat) (h seq : Nat) : Bool :=
  x.passes.all (fun p => ! (p.kind = .mash && maHALF p.instr.word = h && decide (p.instr.seq < seq)) ||
    p.cols.all (fun c => c.checked))

/-! ## The draw unit (03 R126, R147; 04 R176, R177; 15 R639) -/

/-- Wort row a draw reads at step i: row i, or with FOLD the rows of quadrant 0, then those of 1, 2 and 3 (03 R147). -/
def drRow (w : InstrWord) (i : Nat) : Nat := if drFOLD w then i / drROWS w * 32 + i % drROWS w else i
/-- Rows a draw reads. -/
def drSteps (w : InstrWord) : Nat := if drFOLD w then 4 * drROWS w else drROWS w

/-- A wort value as the draw's WFMT says. -/
def wortVal (wfmt : Nat) (x : Word32) : Val := if wfmt = 1 then decB32 x.toNat else decInt 32 x.toNat

/-- One addition of the quadrant fold (04 R176). -/
def foldAdd (wfmt : Nat) (a b : Word32) : Word32 :=
  if wfmt = 1 then BitVec.ofNat 32 (addB32 (decB32 a.toNat) (decB32 b.toNat) .rne)
  else BitVec.ofNat 32 (tc 32 (clampI i32Lo i32Hi (sx 32 a.toNat + sx 32 b.toNat)))

/-- The count of saturated INT32 entries (04 R177); with FOLD the folded sum is what is tested (DESIGN CHOICE, log entry 85). -/
def satCount (wfmt ofmt : Nat) (x : Word32) : Cnt :=
  if wfmt = 0 ∧ ofmt ≠ 0 ∧ (x = 0x80000000#32 ∨ x = 0x7FFFFFFF#32) then { sat := 1 } else {}

/-- Convert one element of a draw: its bytes and counts (03 R127, 04 R161–R170). -/
def drawElem (wfmt ofmt : Nat) (e : Int) (x : Word32) : List Byte × Cnt :=
  let v := wortVal wfmt x
  let c := satCount wfmt ofmt x
  match ofmt with
  | 0 => (toBytes 4 x.toNat, {})
  | 1 => let t := convQF16 v e .rne; (toBytes 2 t.1, t.2.add c)
  | 2 => let t := convQF8 v e .rne; (toBytes 1 t.1, t.2.add c)
  | 3 => let t := convInt (-128) 127 v e .rne; (toBytes 1 (tc 8 t.1), t.2.add c)
  | _ => let t := convB32 v e .rne; (toBytes 4 t.1, t.2.add c)

/-- Convert a block of 32 elements into QB8; poisoned elements take part as zeros and count nothing. -/
def drawBlock (wfmt : Nat) (e : Int) (xs : List (Word32 × Bool)) : List Byte × Cnt :=
  let good := xs.filter (fun p => ! p.2)
  let t := convQB8 (xs.map (fun p => if p.2 then Val.fin false 0 0 else wortVal wfmt p.1)) e (xs.map (fun _ => Rnd.rne))
  let u := convQB8 (good.map (fun p => wortVal wfmt p.1)) e (good.map (fun _ => Rnd.rne))
  (BitVec.ofNat 8 t.1 :: t.2.1.map (fun m => BitVec.ofNat 8 m), good.foldl (fun c p => c.add (satCount wfmt 4 p.1)) u.2.2)

/-- Blocks of 32 elements of a row; fuel bounds the blocks. -/
def drawBlocks (wfmt : Nat) (e : Int) : Nat → List (Word32 × Bool) → List (List Byte × Cnt × Bool)
  | 0, _ => []
  | n + 1, xs =>
    match xs with
    | [] => []
    | _ => (let b := drawBlock wfmt e (xs.take 32); (b.1, b.2, (xs.take 32).any (fun p => p.2))) :: drawBlocks wfmt e n (xs.drop 32)

/-- The pieces of an output row: bytes, counts, poison, element by element, or block by block in QB8. -/
def drawRow (w : InstrWord) (e : Int) (xs : List (Word32 × Bool)) : List (List Byte × Cnt × Bool) :=
  if drOFMT w = 4 then drawBlocks (drWFMT w) e 17 xs
  else xs.map (fun p => let t := drawElem (drWFMT w) (drOFMT w) e p.1; (t.1, (if p.2 then {} else t.2), p.2))

/-- Poison the output sacks that cover poisoned pieces of a row written from o. -/
def poisonPieces (r : Region) : State → Nat → List (List Byte × Cnt × Bool) → State
  | s, _, [] => s
  | s, o, (b, _, z) :: ps =>
    poisonPieces r (if z then s.poisonRange r (o / 64 * 64) ((o + b.length + 63) / 64 * 64 - o / 64 * 64) else s) (o + b.length) ps

/-- The pieces of an output row with those poisoned whose two conversions differ (15 R645, R646). -/
def drawDiffer (bad : Nat → Bool) (ps : List (List Byte × Cnt × Bool)) : List (List Byte × Cnt × Bool) :=
  ps.zipIdx.map (fun t => (t.1.1, t.1.2.1, t.1.2.2 || bad t.2))

/-- Write an output row of a draw, count its conversions, poison the sacks that cover poisoned elements (03 R126, R130). Each conversion is
formed twice; where the two differ, which no event of the module decides, the output sack is poisoned and the fault reported (15 R645,
R646; DESIGN CHOICE, log entry 104). -/
def State.drawOut (s : State) (d v : Nat) (i : VInstr) (r : Nat) (e : Int) (xs : List (Word32 × Bool)) : State :=
  let w := i.word
  let ps := drawRow w e xs
  let bad (k : Nat) : Bool := Config.drawUpset s.freeCtr i.seq r k
  let o := drDADDR w + r * drDist w
  let s := s.write (.floor d v) o (ps.map (fun p => p.1)).flatten
  let s := poisonPieces (.floor d v) s o (drawDiffer bad ps)
  let s := s.count d i.part (drHSET w) (ps.foldl (fun c p => c.add p.2.1) {})
  if (List.range ps.length).any bad then s.report { die := d, tag := i.tag, part := i.part, cls := 0x08, island := v, sub := r } else s

/-- The wort row r of a draw: each entry with its poison. -/
def State.wortRow (s : State) (d v : Nat) (w : InstrWord) (r : Nat) : List (Word32 × Bool) :=
  (List.range (drNCOL w)).map (fun j =>
    let c := drCBASE w + j
    (s.wortAt d v (drHALF w) r c, decide (s.mark (.wort d v (drHALF w)) (wortOff r c) = .poison)))

/-- The row a DRAW reads in place of results that will never come: free values, with the poison of the wort's row (02 R100). -/
def State.lostRow (s : State) (row : List (Word32 × Bool)) : List (Word32 × Bool) :=
  row.zipIdx.map (fun (t : (Word32 × Bool) × Nat) => (BitVec.ofNat 32 (Config.freeValue (s.freeCtr + t.2)), t.1.2))

/-- Decode the wort codewords of the entries a draw reads in row r. -/
def State.wortDecode (s : State) (d v : Nat) (w : InstrWord) (r : Nat) : State :=
  s.readCheck (.wort d v (drHALF w)) (wortOff r (drCBASE w)) (4 * drNCOL w)

/-- A MASH into half h accepted after seq is still to finish: rows a draw has read are its ACCUM (02 R91). -/
def Vat.accumAfter (x : Vat) (h seq : Nat) : Bool :=
  let p (i : VInstr) : Bool := i.opc = 0x41 && maHALF i.word = h && decide (seq < i.seq)
  x.mashQ.any p || x.passes.any (fun o => decide (o.kind ≠ .skip) && p o.instr)

/-- The fold buffer holds partial sums of up to 8 rows of 512 columns (03 R147): entry of output row r, column j. -/
def foldKey (r j : Nat) : Nat := r * 512 + j

/-- The partial row r of a fold of n columns. -/
def Vat.foldRow (x : Vat) (r n : Nat) : List (Word32 × Bool) :=
  (List.range n).map (fun j => (mget (fun _ => 0#32) x.fold (foldKey r j), x.foldPsn.contains (foldKey r j)))

/-- Put a partial row into the fold buffer. -/
def Vat.putFold (x : Vat) (r : Nat) (xs : List (Word32 × Bool)) : Vat :=
  { x with
    fold := xs.zipIdx.foldl (fun m (p : (Word32 × Bool) × Nat) => mset (fun _ => 0#32) m (foldKey r p.2) p.1.1) x.fold,
    foldPsn := x.foldPsn.filter (fun k => decide (k / 512 ≠ r)) ++
      (xs.zipIdx.filter (fun (p : (Word32 × Bool) × Nat) => p.1.2)).map (fun p => foldKey r p.2) }

/-- The draw unit reads its next wort row once the writes and tally results it waits for are in (02 R93, R94, 15 R647), converts
it and writes the output row; with FOLD it sums the quadrants in the fold buffer, and writes an output row when it has read the last
(03 R147). A row it has read is FREE, or ACCUM for a later MASH (02 R91, R94). -/
def State.drawStep (s : State) (d v : Nat) : State :=
  let x := s.vat d v
  match x.drawQ with
  | [] => s
  | i :: rest =>
    let w := i.word
    let h := drHALF w
    let n := x.drawPtr
    let r := drRow w n
    if x.owesRow h i.seq r ∨ (n = 0 ∧ ! x.talliesKnown h i.seq) then s else
    let s := s.wortDecode d v w r
    let e : Int := match x.drawExp with
      | some e => e
      | none => sx 8 (s.rf d (oVatScale v (wbits w 53 4)) vatScaleExp)
    let lost := x.lostDraws.contains i.seq
    let row := if lost then s.lostRow (s.wortRow d v w r) else s.wortRow d v w r
    let s := if lost then { s with freeCtr := s.freeCtr + 512 } else s
    let last := decide (n + 1 = drSteps w)
    let y := (s.vat d v).setAccum h (setRow (x.accum h) r (x.accumAfter h i.seq))
    let y := if last then { y with drawQ := rest, drawPtr := 0, drawExp := none, done := enq y.done i }
             else { y with drawPtr := n + 1, drawExp := some e }
    if ! drFOLD w then (s.putVat d v y).drawOut d v i r e row
    else
      let o := n % drROWS w
      let sum := if n / drROWS w = 0 then row
        else ((x.foldRow o (drNCOL w)).zip row).map (fun p => (foldAdd (drWFMT w) p.1.1 p.2.1, p.1.2 || p.2.2))
      if n / drROWS w = 3 then
        (s.putVat d v (y.putFold o (List.replicate (drNCOL w) (0, false)))).drawOut d v i o e sum
      else s.putVat d v (y.putFold o sum)

def execDrawRowRead (d v : Nat) (s : State) : Host.Outcome State Fault Refusal :=
  if s.hasVat d v then .next (s.drawStep d v) else .fault .absentUnit

/-! ## Completion (03 R109, R110) -/

/-- The oldest instruction whose completion event has happened completes: DONE is posted, unless an abort drain runs. -/
def State.vatComplete (s : State) (d v : Nat) : State :=
  let x := s.vat d v
  match x.done with
  | [] => s
  | i :: rest =>
    let s := (s.putVat d v { x with done := rest }).ctxRetire d i.ctx
    if x.abortDrn then s else s.done d i.part (wbits i.word 8 12) i.tag

def execVatInstructionComplete (d v : Nat) (s : State) : Host.Outcome State Fault Refusal :=
  if s.hasVat d v then .next (s.vatComplete d v) else .fault .absentUnit

end Sys2Proof.Machine
end

