-- ==== Sys2Proof/Machine/Ring.lean ====
section
/-!
DEFINITION. Sys2Proof/Machine/Ring.lean: the sparge ring: injection, links and credits, binding of passes, the columns in the
array, wort writes, releases, the tally check, long sparge and the abort drain (02_sparge_ring.md, 15_reliability.md).
-/
namespace Sys2Proof.Machine

/-! ## Links and credits (02 R77, R87, R89) -/

/-- The die after d round the bridge ring. -/
def State.nextDie (s : State) (d : Nat) : Nat := (d + 1) % s.nDies
/-- The die before d. -/
def State.prevDie (s : State) (d : Nat) : Nat := (d + s.nDies - 1) % s.nDies

/-- A landing-buffer credit goes back to the send buffer of die u; with 64 in transit the oldest has arrived (02 R89). -/
def State.returnLand (s : State) (u : Nat) : State :=
  let g := s.ring u
  s.putRing u (if g.landTransit < 64 then { g with landTransit := g.landTransit + 1 } else { g with landCred := g.landCred + 1 })

/-- Move landed beats into V0's incoming buffer while it has credits (02 R82, R83); fuel bounds the beats. -/
def pumpLanding (d : Nat) : Nat → State → State
  | 0, s => s
  | n + 1, s =>
    let g := s.ring d
    match g.landing with
    | [] => s
    | b :: bs =>
      if g.injCred = 0 then s else
      let s := s.putRing d { g with landing := bs, injCred := g.injCred - 1 }
      let x := s.vat d 0
      let s := (s.unrest d 0).putVat d 0 { x with inq := enq x.inq b }
      pumpLanding d n (s.returnLand (s.prevDie d))

/-- A credit of the incoming link of vat v goes back to its sender (02 R87). At most four are in transit: with four, the oldest has
arrived (02 R89). -/
def State.returnCredit (s : State) (d v : Nat) : State :=
  if v = 0 then
    let g := s.ring d
    if g.injTransit < 4 then s.putRing d { g with injTransit := g.injTransit + 1 }
    else pumpLanding d 1 (s.putRing d { g with injCred := g.injCred + 1 })
  else
    let x := s.vat d (v - 1)
    s.putVat d (v - 1) (if x.credTransit < 4 then { x with credTransit := x.credTransit + 1 } else { x with outCred := x.outCred + 1 })

/-- A returned credit reaches its sender (02 R89): l is the outgoing link of vat l (0–15), 16 the injection point, 17 the send
buffer's credits at V15, 18 the landing buffer's credits at the send buffer. -/
def State.creditArrive (s : State) (d l : Nat) : State :=
  let g := s.ring d
  if l < 16 then
    let x := s.vat d l
    if x.credTransit = 0 ∨ 32 ≤ x.outCred then s else s.putVat d l { x with credTransit := x.credTransit - 1, outCred := x.outCred + 1 }
  else if l = 16 then
    if g.injTransit = 0 ∨ 32 ≤ g.injCred then s
    else pumpLanding d 32 (s.putRing d { g with injTransit := g.injTransit - 1, injCred := g.injCred + 1 })
  else if l = 17 then
    if g.sendTransit = 0 ∨ 512 ≤ g.sendCred then s else s.putRing d { g with sendTransit := g.sendTransit - 1, sendCred := g.sendCred + 1 }
  else
    if g.landTransit = 0 ∨ 256 ≤ g.landCred then s else s.putRing d { g with landTransit := g.landTransit - 1, landCred := g.landCred + 1 }

def execCreditReturnArrive (d l : Nat) (s : State) : Host.Outcome State Fault Refusal :=
  if s.hasDie d && decide (l < 19) then .next (s.creditArrive d l) else .fault .absentUnit

/-! ## The injection point (02 R79, R82; 03 R118, R120, R121; 04 R180; 07 R263, R264) -/

/-- DRAINED of die d (02 R104). -/
def State.drained (s : State) (d : Nat) : Bool :=
  let g := s.ring d
  g.inj.isNone && g.send.isEmpty && g.wire.isEmpty && g.landing.isEmpty &&
    (List.range 16).all (fun v => (s.vat d v).inq.isEmpty && (s.vat d v).passes.isEmpty)

/-- Firmware gives the ring of die d to a job tag: the tally sets of its vats are cleared (02 R81, 03 R135). -/
def State.giveRing (s : State) (d tag : Nat) : State :=
  if (s.ring d).ringTag = some tag then s else
  clearTallies d 16 (s.putRing d { s.ring d with ringTag := some tag })

/-- The job of the tag has ended: it holds the ring of die d no more, and the tally sets of its vats are cleared (02 R81, 03 R135). -/
def State.freeRing (s : State) (d tag : Nat) : State :=
  if (s.ring d).ringTag = some tag then clearTallies d 16 (s.putRing d { s.ring d with ringTag := none }) else s

/-- The job that holds the ring of die d runs. -/
def State.ringHeld (s : State) (d : Nat) : Bool := match (s.ring d).ringTag with
  | none => false
  | some t => s.rf d (oThrJob t) thrJobEn = 1

/-- The ring of die d carries liquor of the tag, or can be given to it: no job holds it, and it is drained (02 R81; DEDUCED, log entry
86). -/
def State.ringFor (s : State) (d tag : Nat) : Bool :=
  decide ((s.ring d).ringTag = some tag) || (! s.ringHeld d && s.drained d)

/-- An accepted injecting MASH whose injection has not started waits at V0 of die d; during the abort drain of its tag none starts (02
R100). -/
def State.injWaiting (s : State) (d : Nat) : Option VInstr :=
  let x := s.vat d 0
  x.mashQ.find? (fun i => i.opc = 0x41 && maINJ i.word && ! i.injd && ! (x.abortDrn && x.abortTags.contains i.tag))

/-- Some die's injection point is active. -/
def State.injActive (s : State) : Bool := (List.range s.nDies).any (fun d => (s.ring d).inj.isSome)

/-- In long sparge the die that injects next: the first after INJDIE whose V0 holds an injecting MASH (03 R121). -/
def State.nextInj (s : State) : Option Nat :=
  let last := s.rf 0 oSpineMode spineModeInjdie
  ((List.range s.nDies).map (fun i => (last + 1 + i) % s.nDies)).find? (fun d => (s.injWaiting d).isSome)

/-- The die whose turn it is: the choice made when the last injection ended, while a MASH waits there; else the choice now. -/
def State.injTurn (s : State) : Option Nat :=
  match s.nextInjDie with
  | some d => if (s.injWaiting d).isSome then some d else s.nextInj
  | none => s.nextInj

/-- Set INJDIE on every die (03 R120). -/
def setInjdie (d : Nat) : Nat → State → State
  | 0, s => s
  | n + 1, s => setInjdie d n (s.wf n oSpineMode spineModeInjdie d)

/-- Start the injection of the next MASH when the ring allows it. -/
def State.injStart (s : State) (d : Nat) : State :=
  let g := s.ring d
  if g.inj.isSome then s else
  match s.injWaiting d with
  | none => s
  | some i =>
    if (g.long ∧ (s.injActive ∨ s.injTurn ≠ some d)) ∨ ! s.ringFor d i.tag then s else
    let s := s.giveRing d i.tag
    let g := s.ring d
    let x := s.vat d 0
    let s := s.putVat d 0 { x with mashQ := x.mashQ.map (fun j => if j.seq = i.seq then { j with injd := true } else j) }
    let s := s.putRing d { g with inj := some i, injNext := 0 }
    if g.long then setInjdie d s.nDies { s with nextInjDie := none } else s

/-- Liquor limb plane of a stage (04 R180): 0 the h limb. -/
def stagePlane (lvl st : Nat) : Nat :=
  if lvl = 2 then (if st = 1 then 1 else 0)
  else if lvl = 3 then [0, 1, 0, 2, 1, 0].getD st 0
  else 0

/-- Grist limb entry of a stage (04 R180). -/
def stageEntry (lvl st : Nat) : Nat :=
  if lvl = 2 then (if st = 2 then 1 else 0)
  else if lvl = 3 then [0, 0, 1, 0, 1, 2].getD st 0
  else 0

/-- Weight exponent of a stage (04 R180). -/
def stageWeight (lvl st : Nat) : Nat :=
  if lvl = 2 then (if st = 0 then 16 else 8)
  else if lvl = 3 then [32, 24, 24, 16, 16, 16].getD st 0
  else 0

/-- A lane element (02 R55). -/
def mkElem (val idx0 idx1 par : Nat) (last psn : Bool) : BitVec 16 :=
  BitVec.ofNat 16 (val % 256 + idx0 % 4 * 2 ^ 8 + idx1 % 4 * 2 ^ 10 + par % 2 * 2 ^ 12 + (if last then 2 ^ 13 else 0) + 2 ^ 14 +
    (if psn then 2 ^ 15 else 0))

def elVal (e : BitVec 16) : Nat := bits e.toNat 0 8
def elIdx0 (e : BitVec 16) : Nat := bits e.toNat 8 2
def elIdx1 (e : BitVec 16) : Nat := bits e.toNat 10 2
def elPar (e : BitVec 16) : Nat := bits e.toNat 12 1
def elEnd (e : BitVec 16) : Bool := e.toNat.testBit 13
def elPsn (e : BitVec 16) : Bool := e.toNat.testBit 15

/-- The 128 lane elements of one stage of pass column n of an injecting MASH, the address of a poisoned sack among those read, and the state
after the granary read. -/
def State.injLanes (s : State) (d : Nat) (w : InstrWord) (n st : Nat) : List (BitVec 16) × Nat × State :=
  let r := Region.granary d
  let sp := maSP w
  let o := maLADDR w + n * beatBytes sp (maLVL w)
  let pl := o + 128 * stagePlane (maLVL w) st
  let s := s.readCheck r pl 128
  let s := if sp = 1 then s.readCheck r (o + 128) 64 else s
  let z0 := s.poisoned r pl 64
  let z1 := s.poisoned r (pl + 64) 64
  let zi := sp = 1 && s.poisoned r (o + 128) 64
  let last := decide (n + 1 = maNCOL w)
  ((List.range 128).map (fun k =>
    let nib := if sp = 1 then bits (s.peek r (o + 128 + k / 2)).toNat (4 * (k % 2)) 4 else 0
    mkElem (s.peek r (pl + k)).toNat (bits nib 0 2) (if isInt4 (maSHAPE w) then bits nib 2 2 else 0) (maPAR w) last
      (zi || (if k < 64 then z0 else z1))),
    if zi then s.poisonAt r (o + 128) 64 else s.poisonAt r pl 128, s)

/-- The injection point places one beat while it holds a credit; beats from the previous die go first (02 R79, R82). With its last beat the
die that injects next is chosen (03 R121). -/
def State.inject (s : State) (d : Nat) : State :=
  let s := s.injStart d
  let g := s.ring d
  match g.inj with
  | none => s
  | some i =>
    if g.injCred = 0 ∨ (g.long ∧ g.landing ≠ []) then s else
    let c := stagesOf (maLVL i.word)
    let t := s.injLanes d i.word (g.injNext / c) (g.injNext % c)
    let s := t.2.2
    let b : Beat := { lanes := t.1, tag := i.tag, hops := if g.long then 16 * s.nDies else 16, stages := c, src := t.2.1 }
    let x := s.vat d 0
    let s := (s.unrest d 0).putVat d 0 { x with inq := enq x.inq b }
    let fin := decide (g.injNext + 1 = c * maNCOL i.word)
    let s := s.putRing d { g with injCred := g.injCred - 1, injNext := if fin then 0 else g.injNext + 1,
                                  inj := if fin then none else some i }
    if fin ∧ g.long then { s with nextInjDie := s.nextInj } else s

def execInjectBeat (d : Nat) (s : State) : Host.Outcome State Fault Refusal :=
  if s.hasDie d then .next (s.inject d) else .fault .absentUnit

/-! ## Binding a pass (02 R66–R68, R80; 03 R115, R131; 15 R664) -/

/-- Every pass in the array has entered to its END. -/
def Vat.entryFree (x : Vat) : Bool := x.passes.all (fun p => p.ended)

/-- A STEEP to bank q is accepted. -/
def Vat.steeping (x : Vat) (q : Nat) : Bool := ! (x.steepsTo q).isEmpty

/-- The cases of R67: none for a mismatch, else whether the pass continues the bank's grist. A LIVE bank with a STEEP accepted
counts as STEEPING, as R73 and R76 need, and a LIVE bank without one is in no row of R67 and fails (DEDUCED, log entry 9). -/
def Vat.bindCase (x : Vat) (q : Nat) : Option Bool :=
  let fill := x.bank q = bSTEEPING || x.bank q = bREADY || (x.bank q = bLIVE && x.steeping q)
  if x.hasPrev && x.lastKeep then (if q = x.lastPar && x.bank q = bLIVE then some true else none)
  else if x.hasPrev then (if q ≠ x.lastPar && fill then some false else none)
  else if fill then some false else none

/-- The record a pass is checked against (03 R115): in a continuation the live record, else that of the latest STEEP accepted
to the bank, else the live record. -/
def Vat.recFor (x : Vat) (q : Nat) (cont : Bool) : Option BankRec :=
  if cont then x.live q else
  match (x.steepsTo q).getLast? with
  | some i => some (steepRec i.word)
  | none => x.live q

/-- The MASH has the mode of the record (03 R115). -/
def recMatches (w : InstrWord) (r : BankRec) : Bool :=
  maSHAPE w = r.shape && maSP w = r.sp && maLVL w = r.lvl && maENT w = r.ent

/-- GPMM is set and the fault reported (02 R68). -/
def State.gristFault (s : State) (d v tag part : Nat) : State :=
  (s.wf d (oVatRstat v) vatRstatGpmm 1).report { die := d, tag := tag, part := part, cls := 0x15, island := v }

/-- A pass with parity q and tag t reaches cell (0,0) and is bound to the MASH at the head of the queue (02 R67). Its queue entry frees
(DEDUCED, log entry 87). A pass that fails, by its tag too, is reported as a fault of the MASH's job (DEDUCED, log entry 105). INITKB of a half is that of the latest pass with INIT bound to it (05 R213; DEDUCED, log entry 88). -/
def State.bindMash (s : State) (d v : Nat) (i : VInstr) (rest : List VInstr) (q t : Nat) : State :=
  let x := s.vat d v
  let n (k m : Nat) : Nat := if k < m then k + 1 else m
  let x := { x with npasses := n x.npasses (2 ^ 32 - 1), ttag := match x.ttag with
                                                              | none => some t
                                                              | some z => some z }
  let w := i.word
  let i := { i with step := s.rf d (oBarmStep i.tag) barmStepStep }
  let bad : Pass := { kind := .failed, instr := i, par := q, tag := t, brec := { shape := maSHAPE w } }
  let fail : State := (s.putVat d v { x with mashQ := rest, passes := enq x.passes bad }).gristFault d v i.tag i.part
  match x.bindCase q with
  | none => fail
  | some cont =>
    match x.recFor q cont with
    | none => fail
    | some r =>
      if q ≠ maPAR w ∨ t ≠ i.tag ∨ ! recMatches w r then fail else
      let kb := if maINIT w then r.kblk else if maHALF w = 0 then x.initKb0 else x.initKb1
      let p : Pass := { kind := .mash, instr := i, par := q, keep := maKEEP w, tag := t, brec := r, kb0 := kb,
                        gen := if cont then ((x.gens q).getLast?.map (fun g => g.seq)).getD 0 else x.seq }
      let y := { x with mashQ := rest, passes := enq x.passes p, hasPrev := true, lastPar := q, lastKeep := maKEEP w }
      let y := if cont then y else (y.setBank q bLIVE).setGens q (enq (y.gens q) { seq := x.seq })
      let y := if maHALF w = 0 then { y with initKb0 := kb } else { y with initKb1 := kb }
      s.putVat d v { y with seq := y.seq + 1 }

/-- A pass is bound to the SKIP at the head: only its tag is checked (03 R131). -/
def State.bindSkip (s : State) (d v : Nat) (i : VInstr) (rest : List VInstr) (t : Nat) : State :=
  let x := s.vat d v
  let left := if x.skipLeft = 0 then skNPASS i.word else x.skipLeft
  let p : Pass := { kind := .skip, instr := i, tag := t, keep := decide (left ≠ 1) }
  let s := s.putVat d v { x with skipLeft := left - 1, mashQ := if left ≤ 1 then rest else i :: rest, passes := enq x.passes p }
  if t = i.tag then s else s.wf d (oVatRstat v) vatRstatGpmm 1

/-- The first element of a pass reaches cell (0,0) (02 R66, R67), or a draught pass starts (03 R146). -/
def State.bind (s : State) (d v : Nat) : State :=
  let x := s.vat d v
  if ! x.entryFree then s else
  match x.mashQ with
  | [] =>
    match x.inq with
    | [] => s
    | b :: _ =>
      -- 15 R664: during the abort drain of its tag the beat passes as if under SKIP
      if x.abortDrn ∧ x.abortTags.contains b.tag then
        s.putVat d v { x with passes := enq x.passes { kind := .skip, tag := b.tag, fin := true } }
      else s
  | i :: rest =>
    if i.opc = 0x41 ∧ isDraught (maSHAPE i.word) then (if s.ringHeld d then s else s.giveRing d i.tag).bindMash d v i rest (maPAR i.word) i.tag
    else
      match x.inq with
      | [] => s
      | b :: _ =>
        if i.opc = 0x43 then s.bindSkip d v i rest b.tag
        else s.bindMash d v i rest (elPar (b.lanes.getD 0 0)) b.tag

def execPassBind (d v : Nat) (s : State) : Host.Outcome State Fault Refusal :=
  if s.hasVat d v then .next (s.bind d v) else .fault .absentUnit

/-! ## Columns entering the array -/

/-- Replace the last element of a list. -/
def setLast {α : Type} (ps : List α) (p : α) : List α := ps.dropLast ++ [p]

/-- A pass forms products for its column n (02 R61, 03 R124). -/
def Pass.forms (p : Pass) (n : Nat) : Bool := p.kind = .mash && decide (n < maNCOL p.instr.word)

/-- The pass is one of draught mode: its columns come over the spout bus (03 R143). A failed one too reads and drops its own columns. -/
def Pass.draught (p : Pass) : Bool := decide (p.kind ≠ .skip) && isDraught p.brec.shape

/-- A new column of a pass: one that forms no products owes no row and no tally result. -/
def Pass.column (p : Pass) (n : Nat) (lanes : List (List (BitVec 16))) (hops : Nat) (bads : List (List Nat)) (last : Bool)
    (more src : Nat) : Col :=
  { n := n, lanes := lanes, hops := hops, bads := bads, last := last, more := more, src := src,
    wr := if p.forms n then 0 else BitVec.allOnes 128, checked := ! p.forms n }

/-- The pass was injected by this vat: its length is the MASH's own (03 R124). -/
def Pass.injected (p : Pass) (v : Nat) : Bool := v = 0 && maINJ p.instr.word

/-- Stages of a column of a ring pass: those of its MASH, or, where it forms no products, those of its beats (02 R59, R80). -/
def Pass.stages (p : Pass) (b : Beat) : Nat :=
  if p.kind = .mash then stagesOf (maLVL p.instr.word) else if b.stages = 0 then 1 else b.stages

/-- The columns of a pass with one more stage beat: it goes on with the column that is entering, or starts the next. -/
def Pass.addBeat (p : Pass) (b : Beat) : List Col :=
  let last := elEnd (b.lanes.getD 0 0)
  let new : Col := p.column p.entered [b.lanes] b.hops [b.parBad] last (p.stages b - 1) b.src
  match p.cols.getLast? with
  | some c =>
    if c.more = 0 then enq p.cols new
    else setLast p.cols { c with lanes := enq c.lanes b.lanes, bads := enq c.bads b.parBad, more := c.more - 1, last := c.last || last,
                                 src := if c.src = 0 then b.src else c.src }
  | none => [new]

/-- A beat of a ring pass enters row 0; its credit goes back (02 R87). A column is complete with its last stage (02 R59), and the pass ends
with the last stage of its END column. -/
def State.enterBeat (s : State) (d v : Nat) (p : Pass) (b : Beat) (rest : List Beat) : State :=
  let cols := p.addBeat b
  let c := cols.getLast?.getD {}
  let whole := decide (c.more = 0)
  let x := s.vat d v
  let short := whole && c.last && p.kind = .mash && ! p.injected v && decide (p.entered + 1 ≠ maNCOL p.instr.word)
  let p' : Pass := { p with cols := cols, entered := if whole then p.entered + 1 else p.entered, ended := whole && c.last, lenBad := short }
  let s := (s.putVat d v { x with inq := rest, passes := setLast x.passes p' }).returnCredit d v
  if short then s.gristFault d v p.instr.tag p.instr.part else s

/-- The lanes of column n of the four quadrants of a draught pass (03 R143), and the address of a poisoned sack among those read. -/
def State.draughtLanes (s : State) (d : Nat) (w : InstrWord) (n : Nat) : Nat → State × List (List (BitVec 16)) × Nat
  | 0 => (s, [], 0)
  | j + 1 =>
    let t := State.draughtLanes s d w n j
    let r := Region.granary d
    let o := maLADDR w + (j * maNCOL w + n) * 128
    let s := t.1.readCheck r o 128
    let z0 := s.poisoned r o 64
    let z1 := s.poisoned r (o + 64) 64
    (s, enq t.2.1 ((List.range 128).map (fun k => mkElem (s.peek r (o + k)).toNat 0 0 (maPAR w) (decide (n + 1 = maNCOL w))
      (if k < 64 then z0 else z1))), if t.2.2 = 0 then s.poisonAt r o 128 else t.2.2)

/-- The next column of a draught pass enters: the spout bus delivers it to the four quadrants (03 R143); it leaves on no link. -/
def State.enterDraught (s : State) (d v : Nat) (p : Pass) : State :=
  let w := p.instr.word
  let n := p.entered
  let t := s.draughtLanes d w n 4
  let last := decide (n + 1 = maNCOL w)
  let c : Col := p.column n t.2.1 0 [[], [], [], []] last 0 t.2.2
  let x := t.1.vat d v
  t.1.putVat d v { x with passes := setLast x.passes { p with entered := n + 1, ended := last, cols := enq p.cols c } }

/-! ## Where the elements of the array can be (02 R53, R73, R88, R90) -/

/-- Row r of the grist the pass uses is committed (02 R70, R73). -/
def Vat.rowReady (x : Vat) (p : Pass) (r : Nat) : Bool :=
  x.steepQ.zipIdx.all (fun t => ! (t.1.opc = 0x40 && stBANK t.1.word = p.par && decide (t.1.seq < p.gen)) ||
    (t.2 = 0 && decide (r < x.steepRow)))

/-- Block sums between cell (r,127) and the wort, written by none of the columns before column j of pass i (02 R58: a sum is written six
cycles after it leaves the cell). -/
def Vat.owedBefore (x : Vat) (i j r : Nat) : Nat :=
  (x.passes.take i).foldl (fun n p => n + (p.cols.filter (fun c => ! c.wr.getLsbD r)).length)
    (((x.passes.getD i {}).cols.take j).filter (fun c => ! c.wr.getLsbD r)).length

/-- Block sums a row holds between its last cell and its wort entries (02 R58; DEDUCED, log entry 89). -/
def rowDepth : Nat := 6

/-- Row r holds the elements of column j of pass i: the row's grist is not committed (02 R73), or the row's resolver and rightward register
are full (02 R90). Elements that form no products are held by neither. -/
def Vat.rowHolds (x : Vat) (i j r : Nat) : Bool :=
  let p := x.passes.getD i {}
  p.kind = .mash && (! x.rowReady p r || (p.forms (p.cols.getD j {}).n && decide (rowDepth ≤ x.owedBefore i j r)))

/-- The first of n rows from lo that holds the column, else stop. -/
def Vat.heldAt (x : Vat) (i j lo n stop : Nat) : Nat :=
  (((List.range n).find? (fun k => x.rowHolds i j (lo + k))).map (lo + ·)).getD stop

/-- How far the elements on lane 127 can have moved: per quadrant the lowest place taken from row 32j on, and the place of the last ring
beat. Place r is row r, place 128 the tally row; 129 is none. -/
structure Front where
  low : List Nat := [129, 129, 129, 129]
  ring : Nat := 129
  deriving DecidableEq, Repr

/-- A ring beat whose first holding row is b, behind the others. -/
def Front.beat (t : Front) (b : Nat) : Front :=
  let k := min b (t.low.getD 0 0 - 1)
  { low := t.low.zipIdx.map (fun u => if 32 * u.2 ≤ k then min u.1 k else u.1), ring := k }

/-- n stage beats of one column. -/
def Front.beats (b : Nat) : Nat → Front → Front
  | 0, t => t
  | n + 1, t => Front.beats b n (t.beat b)

/-- The quadrants from number k on of a draught column, whose first holding rows are bs. -/
def Front.quads (t : Front) (bs : List Nat) (k : Nat) : Front :=
  let at_ (j : Nat) : Nat := min (bs.getD j 0) (t.low.getD j 0 - 1)
  { t with low := (List.range 4).map (fun j => if j < k then min (t.low.getD j 0) (at_ k) else at_ j) }

/-- The places after column j of pass i, where the array holds it. -/
def Vat.placeCol (x : Vat) (t : Front) (i j : Nat) : Front :=
  let p := x.passes.getD i {}
  let c := p.cols.getD j {}
  if c.lanes.length ≤ c.sent then t
  else if p.draught then
    t.quads ((List.range 4).map (fun q => x.heldAt i j (32 * q) 32 (if q = p.brec.tq then 128 else 32 * q + 32))) c.sent
  else Front.beats (x.heldAt i j 0 128 128) (c.lanes.length - c.sent) t

/-- Columns of the array in their order, as (pass, column). -/
def Vat.colIdx (x : Vat) : List (Nat × Nat) :=
  x.passes.zipIdx.flatMap (fun t => (List.range t.1.cols.length).map (fun j => (t.2, j)))

/-- The places after the columns up to column j of pass i. -/
def Vat.frontAt (x : Vat) (i j : Nat) : Front :=
  (x.colIdx.filter (fun t => decide (t.1 < i) || (t.1 = i && decide (t.2 ≤ j)))).foldl (fun t u => x.placeCol t u.1 u.2) {}

/-- The places after every column. -/
def Vat.front (x : Vat) : Front := x.colIdx.foldl (fun t u => x.placeCol t u.1 u.2) {}

/-- Row 0 takes another beat of a ring pass: the array is not filled from the bottom (02 R90). -/
def Vat.hasRoom (x : Vat) : Bool := decide (1 ≤ x.front.low.getD 0 0)

/-- The four quadrants take another draught column, and every ring beat has gone past their top rows. -/
def Vat.hasQuads (x : Vat) : Bool :=
  let t := x.front
  (List.range 4).all (fun j => decide (32 * j + 1 ≤ t.low.getD j 0)) && decide (97 ≤ t.ring)

/-- The elements of column j of pass i have reached row r: they are in it, or past it. -/
def Vat.reached (x : Vat) (i j r : Nat) : Bool :=
  let p := x.passes.getD i {}
  let c := p.cols.getD j {}
  let t := x.frontAt i j
  decide (c.more = 0) && (if p.draught then decide (r / 32 < c.sent) || decide (r ≤ t.low.getD (r / 32) 0)
    else decide (c.lanes.length ≤ c.sent) || decide (r ≤ t.ring))

/-- They have left cell (r,127). -/
def Vat.passed (x : Vat) (i j r : Nat) : Bool :=
  let p := x.passes.getD i {}
  let c := p.cols.getD j {}
  let t := x.frontAt i j
  decide (c.more = 0) && (if p.draught then decide (r / 32 < c.sent) || decide (r < t.low.getD (r / 32) 0)
    else decide (c.lanes.length ≤ c.sent) || decide (r < t.ring))

/-- A beat leaves the incoming buffer into row 0 of a bound pass while the array has room (02 R87, R90); a draught pass takes its next
column (03 R143). -/
def State.beatEnter (s : State) (d v : Nat) : State :=
  let x := s.vat d v
  match x.passes.getLast? with
  | none => s
  | some p =>
    if p.ended then s
    else if p.draught then (if x.hasQuads then s.enterDraught d v p else s)
    else
      match x.inq with
      | [] => s
      | b :: rest => if x.hasRoom then s.enterBeat d v p b rest else s

def execBeatEnterVat (d v : Nat) (s : State) : Host.Outcome State Fault Refusal :=
  if s.hasVat d v then .next (s.beatEnter d v) else .fault .absentUnit

/-! ## Block sums (02 R51, R99; 04 R172, R173, R180; 07 R266, R272; 03 R145) -/

/-- Grist entry and liquor element of lane k a row's cell multiplies at a stage, and the parts of a product. -/
def prodInt (shape lvl fmt st g l : Nat) : Int :=
  if isInt4 shape then sx 4 g * sx 4 l
  else if lvl = 2 ∨ lvl = 3 then
    (if stageEntry lvl st = 0 then sx 8 g else ((g % 256 : Nat) : Int)) *
      (if stagePlane lvl st = 0 then sx 8 l else ((l % 256 : Nat) : Int)) * ((2 ^ stageWeight lvl st : Nat) : Int)
  else if fmt = 1 then qf8Units g * qf8Units l
  else sx 8 g * sx 8 l

/-- Entry a cell uses for lane element e of column n; sub is the INT4 column of the pair (07 R266, 03 R145). -/
def cellEntry (p : Pass) (n st sub : Nat) (e : BitVec 16) : Nat :=
  if isDraught p.brec.shape then n / maNo p.instr.word
  else if p.brec.sp = 1 then (if sub = 0 then elIdx0 e else elIdx1 e)
  else stageEntry p.brec.lvl st

/-- The product of cell (r, k) at a stage: none when an operand is a QF8 NaN (04 R172). -/
def State.prod (s : State) (d v r : Nat) (p : Pass) (n st sub k : Nat) (e : BitVec 16) : Option Int :=
  let g := s.grist d v r k p.par (cellEntry p n st sub e)
  let l := if isInt4 p.brec.shape then bits (elVal e) (4 * sub) 4 else elVal e
  let fmt := maFMT p.instr.word
  if fmt = 1 ∧ p.brec.lvl = 1 ∧ (g = 0x80 ∨ l = 0x80) then none
  else some (prodInt p.brec.shape p.brec.lvl fmt st g l)

/-- Sum of the products of a stage over the lanes, from lane k. -/
def State.stageSum (s : State) (d v r : Nat) (p : Pass) (n st sub : Nat) : Nat → List (BitVec 16) → Option Int
  | _, [] => some 0
  | k, e :: es =>
    match s.prod d v r p n st sub k e, State.stageSum s d v r p n st sub (k + 1) es with
    | some a, some b => some (a + b)
    | _, _ => none

/-- Sum over the stages of a column, from stage st. -/
def State.colSum (s : State) (d v r : Nat) (p : Pass) (n sub : Nat) : Nat → List (List (BitVec 16)) → Option Int
  | _, [] => some 0
  | st, ls :: rest =>
    match s.stageSum d v r p n st sub 0 ls, State.colSum s d v r p n sub (st + 1) rest with
    | some a, some b => some (a + b)
    | _, _ => none

/-- The elements of stage (or quadrant) k of a column as they reach row r: with the bits that inoculations have flipped by then. -/
def Col.lanesAt (c : Col) (k r : Nat) : List (BitVec 16) :=
  c.flips.foldl (fun ls (f : Nat × Nat × Nat × Nat) =>
    if f.1 = k ∧ f.2.2.1 ≤ r then ls.zipIdx.map (fun (t : BitVec 16 × Nat) => if t.2 = f.2.1 then t.1 ^^^ BitVec.ofNat 16 f.2.2.2 else t.1)
    else ls) (c.lanes.getD k [])

/-- Lane elements row r sees of a column: in draught those of its quadrant. -/
def colLanes (p : Pass) (c : Col) (r : Nat) : List (List (BitVec 16)) :=
  if isDraught p.brec.shape then [c.lanesAt (r / 32) r] else (List.range c.lanes.length).map (fun k => c.lanesAt k r)

/-- The one or two block sums of row r for a column (04 R172, R173; 02 R99; 07 R272). -/
def State.blockSums (s : State) (d v : Nat) (p : Pass) (c : Col) (r : Nat) : List BSum :=
  let x := s.vat d v
  let ls := colLanes p c r
  let subs := if isInt4 p.brec.shape then [0, 1] else [0]
  if ls.any (fun l => l.any elPsn) ∨ (x.psn p.par).getLsbD r then subs.map (fun _ => BSum.poisoned)
  else if (x.mask p.par).getLsbD r then subs.map (fun _ => BSum.sum 0)
  else subs.map (fun sub => match s.colSum d v r p c.n sub 0 ls with
    | some i => BSum.sum i
    | none => BSum.nan)

/-- The tally entries of the grist the pass uses are committed. -/
def Vat.tallyReady (x : Vat) (p : Pass) : Bool :=
  x.steepQ.all (fun t => ! (t.opc = 0x40 && stBANK t.word = p.par && decide (t.seq < p.gen)))

/-- An accepted DRAW of the half, older than the MASH, still has row r to read (02 R94). -/
def Vat.drawAhead (x : Vat) (h seq r : Nat) : Bool :=
  x.drawQ.zipIdx.any (fun t => drHALF t.1.word = h && decide (t.1.seq < seq) &&
    (List.range (drSteps t.1.word)).any (fun i => decide (drRow t.1.word i = r) && (decide (t.2 ≠ 0) || decide (x.drawPtr ≤ i))))

/-- First index of a list where f holds, from i. -/
def findIdxFrom {α : Type} (f : α → Bool) : Nat → List α → Option Nat
  | _, [] => none
  | i, a :: as => if f a then some i else findIdxFrom f (i + 1) as

/-! ## Wort writes (02 R92, R95; 04 R174, R175; 05 R213, R214, R218, R221; 15 R645, R646) -/

/-- Wort columns a pass column contributes to (03 R119, R145). -/
def wortCols (w : InstrWord) (n : Nat) : List Nat :=
  let m := if isDraught (maSHAPE w) then n % maNo w else n
  if isInt4 (maSHAPE w) then [maWBASE w + 2 * m, maWBASE w + 2 * m + 1] else [maWBASE w + m]

/-- The contribution is its entry's first of the pass (02 R92; in draught those of the first entry, 03 R145). -/
def firstOfEntry (w : InstrWord) (n : Nat) : Bool := ! isDraught (maSHAPE w) || decide (n / maNo w = 0)

/-- Rounding of a contribution into binary32 wort (05 R213, R214, R218, R221). -/
def State.wortRnd (s : State) (d v : Nat) (p : Pass) (r n sub : Nat) : Rnd :=
  let w := p.instr.word
  let th := s.rf d (oVatSrctl v) vatSrctlThlog
  if isDraught (maSHAPE w) ∨ th = 31 ∨ p.brec.kblk < p.kb0 + 2 ^ th then .rne else
  let row := 128 * p.brec.mb + r
  let col := 8 * maNB w + (if isInt4 (maSHAPE w) then 2 * n + sub else n)
  let e := if bit (maTID w) 23 then wortElem col row else wortElem row col
  .sr (barm (s.rf d (oBarmKey p.instr.tag) barmKeyKey)
    (barmCtr (maTID w % 2 ^ 23) e 1 (p.brec.kblk * 2 ^ 16 + p.instr.step % 2 ^ 16)))

/-- Unit of the block sums of a pass (04 R173). -/
def bsUnit (p : Pass) : Int := if maFMT p.instr.word = 1 ∧ p.brec.lvl = 1 then -20 else 0

/-- One block sum enters its wort entry (02 R92, R95). -/
def State.wortAdd (s : State) (d v : Nat) (p : Pass) (r n sub c : Nat) (b : BSum) : State :=
  let w := p.instr.word
  let h := maHALF w
  let rg := Region.wort d v h
  let s := s.readCheck rg (wortOff r c / 32 * 32) 32
  match b with
  | .poisoned => s.setMark rg (wortOff r c) .poison
  | _ =>
    let init := maINIT w && firstOfEntry w n
    let new := wortUpdate (decide (maFMT w = 1)) init (bsUnit p) (s.wortAt d v h r c) b (s.wortRnd d v p r n sub)
    let hit := (s.inoc d).point = 0x14 ∧ (s.inoc d).inst = v ∧ (s.inoc d).pos = r
    let s := s.wortPut d v h r c new
    -- 15 R646: two accumulate results that differ
    if hit then ((s.inocClear d).setMark rg (wortOff r c) .poison).report
        { die := d, tag := p.instr.tag, part := p.instr.part, cls := 0x08, island := v, sub := r, inoc := true }
    else s

/-- The block sums of a column's row enter their entries in column order. -/
def wortAdds (d v : Nat) (p : Pass) (r n : Nat) : Nat → State → List (Nat × BSum) → State
  | _, s, [] => s
  | sub, s, (c, b) :: rest => wortAdds d v p r n (sub + 1) (s.wortAdd d v p r n sub c b) rest

/-- A column with the residues of one more row's sums (02 R98): in draught the residues and the poison of quadrant TQ alone count (03
R143), and a NaN sum of any row. -/
def Col.addSums (c : Col) (p : Pass) (r : Nat) (bs : List BSum) : Col :=
  let c := { c with nan := c.nan || bs.any (fun b => decide (b = .nan)) }
  if isDraught p.brec.shape ∧ r / 32 ≠ p.brec.tq then c else
  let v (b : BSum) : Nat := match b with
    | .sum i => res i
    | _ => 0
  { c with
    res0 := (c.res0 + v (bs.getD 0 (.sum 0))) % 8191, res1 := (c.res1 + v (bs.getD 1 (.sum 0))) % 8191,
    psn := c.psn || bs.any (fun b => decide (b = .poisoned)) }

/-- A column has done all it does: written, checked, and out of the array. -/
def Col.over (c : Col) : Bool :=
  c.checked && decide (c.wr = BitVec.allOnes 128) && decide (c.more = 0) && decide (c.lanes.length ≤ c.sent)

/-- Drop the columns that are over. -/
def Pass.trim (p : Pass) : Pass := { p with cols := p.cols.filter (fun c => ! c.over) }

/-- The completion event of a pass's instruction has happened (03 R109, R124). -/
def Pass.complete (p : Pass) : Bool :=
  p.ended && (match p.kind with
    | .mash => p.cols.all (fun c => decide (c.wr = BitVec.allOnes 128) && (! p.lenBad || decide (c.lanes.length ≤ c.sent)))
    | _ => p.cols.all (fun c => decide (c.lanes.length ≤ c.sent)))

/-- The END of the pass releases its grist: KEEP = 0, or its tag's abort drain runs (02 R65, R100). -/
def Vat.releasing (x : Vat) (p : Pass) : Bool := p.kind = .mash && p.ended && (! p.keep || (x.abortDrn && x.abortTags.contains p.tag))

/-- Generation of a pass in its bank. -/
def Vat.genOf (x : Vat) (p : Pass) : Gen := ((x.gens p.par).find? (fun g => g.seq = p.gen)).getD { rel := BitVec.allOnes 128, trel := true }

/-- Every row and the tally entries of the pass's grist are released. -/
def Vat.released (x : Vat) (p : Pass) : Bool := decide ((x.genOf p).rel = BitVec.allOnes 128) && (x.genOf p).trel

/-- Settle the passes of a vat: completions in order, passes removed that have no column left and need not stay (`stay`). -/
def settle (stay : Pass → Bool) : List Pass → List VInstr → List Pass × List VInstr
  | [], dn => ([], dn)
  | p :: ps, dn =>
    let p := p.trim
    let now := p.complete && ! p.fin
    -- a SKIP completes with its last pass only (its pass has `keep` false)
    let posts := now && (p.kind ≠ .skip || ! p.keep)
    let dn := if posts then enq dn p.instr else dn
    let p := if now then { p with fin := true } else p
    let t := settle stay ps dn
    (if p.fin && p.ended && p.cols.isEmpty && ! stay p then t.1 else p :: t.1, t.2)

/-- Store a vat whose passes may have finished: a releasing pass stays until its grist is released (02 R71). -/
def State.putSettled (s : State) (d v : Nat) (x : Vat) : State :=
  let t := settle (fun p => x.releasing p && ! x.released p) x.passes x.done
  s.putVat d v { x with passes := t.1, done := t.2 }

/-- The pass and column whose sum of row r is written next: the oldest column of a MASH pass that owes row r. -/
def Vat.nextCol (x : Vat) (r : Nat) : Option (Nat × Nat) :=
  (findIdxFrom (fun p => p.kind = .mash && p.cols.any (fun c => ! c.wr.getLsbD r)) 0 x.passes).bind (fun i =>
    (findIdxFrom (fun c => ! c.wr.getLsbD r) 0 ((x.passes.getD i {}).cols)).map (fun j => (i, j)))

/-- Replace column j of pass i. -/
def Vat.setCol (x : Vat) (i j : Nat) (c : Col) : Vat :=
  let p := x.passes.getD i {}
  { x with passes := x.passes.set i { p with cols := p.cols.set j c } }

/-- The armed point strikes the next block sum of row r (15 R660, point 0x10). -/
def State.sumHit (s : State) (d v r : Nat) : Bool :=
  let k := s.inoc d
  decide (k.point = 0x10) && decide (k.inst = v) && decide (k.pos = r)

/-- Its effect: 2^BIT is added, in the 64 bits of the resolver (04 R173; DEDUCED, log entry 106). -/
def State.inocSum (s : State) (d v r : Nat) (bs : List BSum) : List BSum × State :=
  if s.sumHit d v r then
    (match bs with
      | .sum i :: t => .sum (sx 64 (tc 64 (i + ((2 ^ (s.inoc d).bit : Nat) : Int)))) :: t
      | t => t, s.inocClear d)
  else (bs, s)

/-- Column j of pass i has its sums of row r formed: they enter its residues. -/
def State.formSums (s : State) (d v i j r : Nat) : List BSum × Col × State :=
  let x := s.vat d v
  let p := x.passes.getD i {}
  let c := p.cols.getD j {}
  let t := s.inocSum d v r (s.blockSums d v p c r)
  (t.1, { c.addSums p r t.1 with ino := c.ino || s.sumHit d v r }, t.2)

/-- The resolver of row r writes the next block sums, once the column has reached the row and no draw still has to read it (02 R92, R94). -/
def State.wortStep (s : State) (d v r : Nat) : State :=
  let x := s.vat d v
  match x.nextCol r with
  | none => s
  | some (i, j) =>
    let p := x.passes.getD i {}
    let c := p.cols.getD j {}
    let heldSums := mfind c.held r
    if (heldSums.isNone ∧ ! (x.rowReady p r && x.reached i j r)) ∨ x.drawAhead (maHALF p.instr.word) p.instr.seq r then s else
    let t : List BSum × Col × State := match heldSums with
      | some b => (b, c, s)
      | none => s.formSums d v i j r
    let s := t.2.2
    let first := t.1.any (fun b => decide (b = .poisoned)) && ! c.told
    let c' : Col := { t.2.1 with wr := setRow c.wr r true, held := mdel c.held r, told := c.told || first }
    let s := s.putVat d v (x.setCol i j c')
    let s := wortAdds d v p r c.n 0 s ((wortCols p.instr.word c.n).zip t.1)
    -- 15 R639, R640: poison that enters a block sum is consumed
    let s := if first then s.report
        { poison := true, die := d, tag := p.instr.tag, part := p.instr.part, cls := 0x04, island := v, sub := r, cause := 4,
          addr := if c.src = 0 then mget (fun _ => 0) x.psnSrc (p.par * 128 + r) else c.src }
      else s
    s.putSettled d v (s.vat d v)

def execWortWrite (d v r : Nat) (s : State) : Host.Outcome State Fault Refusal :=
  if s.hasVat d v && decide (r < 128) then .next (s.wortStep d v r) else .fault .absentUnit

/-! ## The tally row (02 R98, 15 R643, R646) -/

/-- Tally product of lane k at a stage, mod 8191 (02 R98, 07 R267). -/
def Vat.tallyProd (x : Vat) (p : Pass) (n st sub k : Nat) (e : BitVec 16) : Nat :=
  let fmt := maFMT p.instr.word
  let q := fmt = 1 && p.brec.lvl = 1
  let g := x.tallyAt k p.par (cellEntry p n st sub e) (if q then 1 else 0)
  let l : Int :=
    if isInt4 p.brec.shape then sx 4 (bits (elVal e) (4 * sub) 4)
    else if p.brec.lvl = 2 ∨ p.brec.lvl = 3 then
      (if stagePlane p.brec.lvl st = 0 then sx 8 (elVal e) else ((elVal e : Nat) : Int)) * ((2 ^ stageWeight p.brec.lvl st : Nat) : Int)
    else if q then qf8Units (elVal e) else sx 8 (elVal e)
  res ((g : Int) * l)

/-- Sum of the tally products of a stage mod 8191, from lane k. -/
def Vat.tallyStage (x : Vat) (p : Pass) (n st sub : Nat) : Nat → List (BitVec 16) → Nat
  | _, [] => 0
  | k, e :: es => (x.tallyProd p n st sub k e + Vat.tallyStage x p n st sub (k + 1) es) % 8191

/-- Tally products of the one or two columns. -/
def Vat.tallyProds (x : Vat) (p : Pass) (c : Col) : List Nat :=
  let ls := if isDraught p.brec.shape then [c.lanesAt p.brec.tq 128] else (List.range c.lanes.length).map (fun k => c.lanesAt k 128)
  (if isInt4 p.brec.shape then [0, 1] else [0]).map (fun sub =>
    (ls.zipIdx.map (fun t => x.tallyStage p c.n t.2 sub 0 t.1)).foldl (fun a b => (a + b) % 8191) 0)

/-- Rows whose sums the comparison needs are all formed. -/
def Col.allFormed (c : Col) : Bool := (List.range 128).all (fun r => c.wr.getLsbD r || (mfind c.held r).isSome)

/-- A count that stops at its largest value (03 R135). -/
def stopAt (w n : Nat) : Nat := if n < 2 ^ w then n else 2 ^ w - 1

/-- Poison the wort codewords of a column in all 128 rows (15 R646). -/
def poisonColumn (d v h c : Nat) : Nat → State → State
  | 0, s => s
  | r + 1, s => poisonColumn d v h c r (s.setMark (.wort d v h) (wortOff r c) .poison)

/-- A mismatch of column c of a pass (15 R646): the given wort columns poisoned, MISMATCH counted, job fault of the class, with the two
residues or the lane in its record (15 R655). -/
def State.tallyMismatch (s : State) (d v : Nat) (p : Pass) (c : Col) (cols : List Nat) (cls synd sub : Nat) : State :=
  let s := cols.foldl (fun s k => poisonColumn d v (maHALF p.instr.word) k 128 s) s
  let x := s.vat d v
  (s.putVat d v { x with mismatch := stopAt 16 (x.mismatch + 1) }).report
    { die := d, tag := p.instr.tag, part := p.instr.part, cls := cls, island := v, sub := sub, synd := synd, inoc := c.ino || x.struck p.par }

/-- Compare the one or two columns of pass column c: each is counted as checked, and a difference is a mismatch. -/
def tallyCompare (d v : Nat) (p : Pass) (c : Col) : State → List (Nat × Nat × Nat) → State
  | s, [] => s
  | s, (k, a, b) :: rest =>
    let x := s.vat d v
    let s := s.putVat d v { x with checked := stopAt 32 (x.checked + 1) }
    tallyCompare d v p c (if a = b then s else s.tallyMismatch d v p c [k] 0x05 (a + b * 2 ^ 16) 0) rest

/-- The tally row finds the parity of an element of the column wrong: as a tally mismatch of the column (15 R644, R646, R647). -/
def State.parityMismatch (s : State) (d v : Nat) (p : Pass) (c : Col) : State :=
  match c.bads.flatten with
  | [] => s
  | l :: _ => s.tallyMismatch d v p c (wortCols p.instr.word c.n) 0x06 0 l

/-- The oldest column whose tally result is not known is compared (02 R98), and its elements' parity is checked; poison is that which its sums
met. A column with poison and a NaN is counted in PSNSKIP (DESIGN CHOICE, log entry 107). -/
def State.tallyStep (s : State) (d v : Nat) : State :=
  let x := s.vat d v
  match findIdxFrom (fun p => p.kind = .mash && p.cols.any (fun c => ! c.checked)) 0 x.passes with
  | none => s
  | some i =>
    let p := x.passes.getD i {}
    match findIdxFrom (fun c => ! c.checked) 0 p.cols with
    | none => s
    | some j =>
      let c := p.cols.getD j {}
      if ! c.allFormed ∨ (c.tally.isNone ∧ ! x.tallyReady p) then s else
      let ts := match c.tally with
        | some t => t
        | none => x.tallyProds p c
      let k := ts.length
      let y := x.setCol i j { c with checked := true }
      let s :=
        if c.psn then s.putVat d v { y with psnskip := stopAt 32 (x.psnskip + k) }
        else if c.nan then s.putVat d v { y with nanskip := stopAt 32 (x.nanskip + k) }
        else tallyCompare d v p c (s.putVat d v y) ((wortCols p.instr.word c.n).zip (ts.zip [c.res0, c.res1]))
      let s := s.parityMismatch d v p c
      s.putSettled d v (s.vat d v)

def execTallyCheck (d v : Nat) (s : State) : Host.Outcome State Fault Refusal :=
  if s.hasVat d v then .next (s.tallyStep d v) else .fault .absentUnit

/-! ## Releases (02 R65, R71; 03 R146) -/

/-- Change one generation of a bank. -/
def Vat.mapGen (x : Vat) (q seq : Nat) (f : Gen → Gen) : Vat :=
  x.setGens q ((x.gens q).map (fun g => if g.seq = seq then f g else g))

/-- Hold the sums of row r for the columns of the passes of a generation that have not written it. -/
def State.holdSums (s : State) (d v q gen r : Nat) : State :=
  (s.vat d v).colIdx.foldl (fun s (t : Nat × Nat) =>
    let p := (s.vat d v).passes.getD t.1 {}
    let c := p.cols.getD t.2 {}
    if p.kind ≠ .mash ∨ p.par ≠ q ∨ p.gen ≠ gen ∨ c.wr.getLsbD r ∨ (mfind c.held r).isSome then s else
    let u := s.formSums d v t.1 t.2 r
    u.2.2.putVat d v ((s.vat d v).setCol t.1 t.2 { u.2.1 with held := mput c.held r u.1 })) s

/-- The oldest releasing pass for which f holds of its generation: its index and the pass. -/
def Vat.oldestReleasing (x : Vat) (f : Gen → Bool) : Option (Nat × Pass) :=
  (findIdxFrom (fun p => x.releasing p && f (x.genOf p)) 0 x.passes).map (fun i => (i, x.passes.getD i {}))

/-- END of pass i has left cell (r,127): its column has passed the row, or is over. -/
def Vat.endPassed (x : Vat) (i r : Nat) : Bool :=
  let cs := (x.passes.getD i {}).cols
  match cs.getLast? with
  | some c => if c.last then x.passed i (cs.length - 1) r else true
  | none => true

/-- Generations that are wholly released are forgotten. -/
def Vat.tidyGens (x : Vat) (q : Nat) : Vat :=
  x.setGens q ((x.gens q).filter (fun g => ! (decide (g.rel = BitVec.allOnes 128) && g.trel)))

/-- Row r of the grist of the oldest releasing pass is released by its END leaving cell (r,127) (02 R71; 03 R146). -/
def State.rowRelease (s : State) (d v r : Nat) : State :=
  let x := s.vat d v
  match x.oldestReleasing (fun g => ! g.rel.getLsbD r) with
  | none => s
  | some (i, p) =>
    let top := if isDraught p.brec.shape then r % 32 = 0 else r = 0
    if ! x.rowReady p r ∨ ! (top || (x.genOf p).rel.getLsbD (r - 1)) ∨ ! x.endPassed i r then s else
    let s := s.holdSums d v p.par p.gen r
    let y := ((s.vat d v).mapGen p.par p.gen (fun g => { g with rel := setRow g.rel r true })).tidyGens p.par
    s.putSettled d v y

def execGristRowRelease (d v r : Nat) (s : State) : Host.Outcome State Fault Refusal :=
  if s.hasVat d v && decide (r < 128) then .next (s.rowRelease d v r) else .fault .absentUnit

/-- The bank after its tally entries are released: LIVE while a later pass uses it, STEEPING with a STEEP accepted, else
RELEASED (02 R65). -/
def Vat.bankAfterRelease (x : Vat) (q : Nat) : Vat :=
  if (x.gens q).all (fun g => g.trel) then x.setBank q (if x.steeping q then bSTEEPING else bRELEASED) else x

/-- Rows whose release comes before that of the tally entries: all, or in draught those of quadrant TQ (03 R143). -/
def relRows (r : BankRec) : List Nat := tallyRows r

/-- Credits vat v holds for its outgoing link. -/
def State.creditsOf (s : State) (d v : Nat) : Nat := if v < 15 then (s.vat d v).outCred else (s.ring d).sendCred

/-- END of pass i is the next element to leave the tally row, and can: every stage before it is out, and the link has a credit or the
element stops here. -/
def State.endAtTally (s : State) (d v i : Nat) : Bool :=
  let x := s.vat d v
  let p := x.passes.getD i {}
  let out (c : Col) : Bool := decide (c.lanes.length ≤ c.sent)
  match p.cols.getLast? with
  | none => true
  | some c =>
    if ! c.last ∨ out c then true else
    if p.draught then true else
    (x.passes.take i).all (fun o => o.cols.all out) && p.cols.dropLast.all out && decide (c.lanes.length ≤ c.sent + 1) &&
      (decide (c.hops ≤ 1) || decide (s.creditsOf d v ≠ 0))

/-- The tally entries of the oldest releasing pass's bank are released, as its END leaves the tally row. -/
def State.tallyRelease (s : State) (d v : Nat) : State :=
  let x := s.vat d v
  match x.oldestReleasing (fun g => ! g.trel) with
  | none => s
  | some (i, p) =>
    if ! (relRows p.brec).all (fun r => (x.genOf p).rel.getLsbD r) ∨ ! x.tallyReady p ∨ ! s.endAtTally d v i then s else
    let y : Vat := { x with passes := x.passes.map (fun (o : Pass) =>
      if o.kind = .mash ∧ o.par = p.par ∧ o.gen = p.gen then
        { o with cols := o.cols.map (fun (c : Col) =>
            if c.checked || c.tally.isSome then c else { c with tally := some (x.tallyProds o c) }) }
      else o) }
    let y := y.mapGen p.par p.gen (fun g => { g with trel := true })
    s.putSettled d v ((y.bankAfterRelease p.par).tidyGens p.par)

def execTallyEntryRelease (d v : Nat) (s : State) : Host.Outcome State Fault Refusal :=
  if s.hasVat d v then .next (s.tallyRelease d v) else .fault .absentUnit

/-! ## Beats leaving the tally row (02 R78, 15 R644, R646) -/

/-- The next stage (or quadrant) of column j of pass i may leave the array: no row holds it, and where it is a releasing END the grist it
passed is released (02 R71, R73, R90). -/
def Vat.mayLeave (x : Vat) (i j : Nat) : Bool :=
  let p := x.passes.getD i {}
  let c := p.cols.getD j {}
  let end_ := c.last && x.releasing p
  if p.draught then
    let q := c.sent
    decide (x.heldAt i j (32 * q) 32 128 = 128) &&
      (! end_ || ((List.range 32).all (fun k => (x.genOf p).rel.getLsbD (32 * q + k)) && (decide (q ≠ p.brec.tq) || (x.genOf p).trel)))
  else
    decide (x.heldAt i j 0 128 128 = 128) && (! (end_ && decide (c.sent + 1 = c.lanes.length)) || (x.genOf p).trel)

/-- Lane elements with PSN set where the parity fails (15 R644). -/
def parityCheck (ls : List (BitVec 16)) (bad : List Nat) : List (BitVec 16) :=
  ls.zipIdx.map (fun t => if bad.contains t.2 then t.1 ||| 0x8000#16 else t.1)

/-- Place a beat in the outgoing link of vat v (02 R77, R83). -/
def State.placeBeat (s : State) (d v : Nat) (b : Beat) : State :=
  if v < 15 then
    let x := s.vat d v
    let s := s.putVat d v { x with outCred := x.outCred - 1 }
    let y := s.vat d (v + 1)
    (s.unrest d (v + 1)).putVat d (v + 1) { y with inq := enq y.inq b }
  else
    let g := s.ring d
    s.putRing d { g with sendCred := g.sendCred - 1, send := enq g.send b }

/-- The next stage of the oldest column not wholly sent leaves the tally row: sent on, or dropped as its last hop (02 R78). -/
def State.beatLeave (s : State) (d v : Nat) : State :=
  let x := s.vat d v
  match findIdxFrom (fun p => p.cols.any (fun c => decide (c.sent < c.lanes.length))) 0 x.passes with
  | none => s
  | some i =>
    let p := x.passes.getD i {}
    match findIdxFrom (fun c => decide (c.sent < c.lanes.length)) 0 p.cols with
    | none => s
    | some j =>
      let c := p.cols.getD j {}
      if ! x.mayLeave i j ∨ (1 < c.hops ∧ s.creditsOf d v = 0) then s else
      let bad := c.bads.getD c.sent []
      let b : Beat := { lanes := parityCheck (c.lanesAt c.sent 128) bad, tag := p.tag, hops := c.hops - 1,
                        stages := c.lanes.length + c.more, src := c.src }
      let s := s.putVat d v (x.setCol i j { c with sent := c.sent + 1 })
      let s := if 1 < c.hops then s.placeBeat d v b else s
      let s := if bad ≠ [] ∧ ! p.forms c.n then
          s.report { die := d, tag := p.tag, part := p.instr.part, cls := 0x06, island := v, sub := bad.getD 0 0, inoc := c.ino } else s
      s.putSettled d v (s.vat d v)

def execBeatSend (d v : Nat) (s : State) : Host.Outcome State Fault Refusal :=
  if s.hasVat d v then .next (s.beatLeave d v) else .fault .absentUnit

/-! ## Long sparge across a bridge (02 R83, R86, R89; 15 R644) -/

/-- A beat on the previous die's bridge arrives in the landing buffer of die d; a CRC failure poisons it (15 R644, R646). -/
def State.bridgeLand (s : State) (d : Nat) : State :=
  let u := s.prevDie d
  let gu := s.ring u
  match gu.wire with
  | [] => s
  | b :: bs =>
    let s := s.putRing u { gu with wire := bs }
    let b' : Beat := if b.crcBad then { b with lanes := b.lanes.map (fun e => e ||| 0x8000#16), parBad := [], crcBad := false } else b
    let g := s.ring d
    let s := s.putRing d { g with landing := enq g.landing b' }
    let s := if b.crcBad then s.logErr { cls := 0x07, die := d, island := 30, inoc := true } else s
    pumpLanding d 1 s

def execBridgeBeatLand (d : Nat) (s : State) : Host.Outcome State Fault Refusal :=
  if s.hasDie d then .next (s.bridgeLand d) else .fault .absentUnit

/-- Apply the pending LONG of the dies below n. -/
def applyLong : Nat → State → State
  | 0, s => s
  | d + 1, s =>
    let s := s.putRing d { s.ring d with long := decide (s.rf d oSpineMode spineModeLong = 1) }
    applyLong d (s.wf d oSpineMode spineModePend 0)

/-- A pending change of LONG takes effect once every die is drained (02 R86). -/
def State.longSwitch (s : State) : State :=
  if (List.range s.nDies).any (fun d => s.rf d oSpineMode spineModePend = 1) ∧ (List.range s.nDies).all (fun d => s.drained d) then
    let s := applyLong s.nDies s
    match s.longTag with
    | none => s
    | some t => (List.range s.nDies).foldl (fun s d => s.giveRing d t) s
  else s

def execLongModeSwitch (s : State) : Host.Outcome State Fault Refusal := .next s.longSwitch

/-! ## The abort drain (02 R100) -/

/-- No beat of the tag is upstream of the vat and the injection point does not inject it (02 R100). -/
def State.noUpstream (s : State) (d v tag : Nat) : Bool :=
  let long := (s.ring d).long
  (List.range s.nDies).all (fun e => if e ≠ d ∧ ! long then true else
    let g := s.ring e
    (match g.inj with
      | some i => i.tag ≠ tag
      | none => true) &&
    (g.send ++ g.wire ++ g.landing).all (fun b => b.tag ≠ tag) &&
    (List.range 16).all (fun u => if e = d ∧ v < u ∧ ! long then true else
      (s.vat e u).inq.all (fun b => b.tag ≠ tag) && ((e = d && u = v) || (s.vat e u).passes.all (fun p => p.tag ≠ tag))))

/-- Discard the accepted MASHes and SKIPs of the tag that have no pass, once nothing of the tag is upstream; the output of a DRAW that
waited on such a MASH is undefined (02 R100). -/
def State.abortDiscard (s : State) (d v : Nat) : State :=
  let x := s.vat d v
  let dead (i : VInstr) : Bool := x.abortTags.contains i.tag && s.noUpstream d v i.tag
  let gone := x.mashQ.filter dead
  let s := gone.foldl (fun s i => s.ctxRetire d i.ctx) s
  let left := if (x.mashQ.head?).any dead then 0 else x.skipLeft
  let lost (j : VInstr) : Bool := gone.any (fun i => i.opc = 0x41 && decide (i.seq < j.seq) && maHALF i.word = drHALF j.word)
  s.putVat d v { x with
    mashQ := x.mashQ.filter (fun i => ! dead i), skipLeft := left,
    lostDraws := x.lostDraws ++ (x.drawQ.filter lost).map (fun j => j.seq) }

/-- A bank kept LIVE by the last pass, with no pass of the aborted tag in the array, is released (02 R100). -/
def Vat.abortRelease (x : Vat) : Vat :=
  let q := x.lastPar
  if x.hasPrev ∧ x.lastKeep ∧ x.passes.all (fun p => ! x.abortTags.contains p.tag) ∧ x.bank q = bLIVE then
    (x.setGens q []).bankAfterRelease q
  else x

/-- The vat holds an instruction or a pass of the tag. -/
def Vat.holdsTag (x : Vat) (tag : Nat) : Bool :=
  (x.steepQ ++ x.mashQ ++ x.drawQ ++ x.done).any (fun i => i.tag = tag) || x.passes.any (fun p => p.tag = tag)

/-- A job-abort notice for the ring's job tag, or for a tag of which the vat holds work, reaches the vat (02 R100). -/
def State.vatAbort (s : State) (d v tag : Nat) : State :=
  let x := s.vat d v
  if (s.ring d).ringTag ≠ some tag ∧ ! x.holdsTag tag then s else
  let y := { x with abortDrn := true, abortTags := if x.abortTags.contains tag then x.abortTags else enq x.abortTags tag }
  (s.putVat d v y.abortRelease).abortDiscard d v

def execVatAbortNotice (d v tag : Nat) (s : State) : Host.Outcome State Fault Refusal :=
  if s.hasVat d v then .next (s.vatAbort d v tag) else .fault .absentUnit

/-- The units are idle and the vat holds no beat: ABORTDRN clears, the previous pass is forgotten, the wort halves are FREE with
contents undefined, and the counters of the tag are cleared (02 R100, 03 R135). -/
def State.vatDrainEnd (s : State) (d v : Nat) : State :=
  if ! (s.vat d v).abortDrn then s else
  let s := s.abortDiscard d v
  let s := s.putVat d v (s.vat d v).abortRelease
  let x := s.vat d v
  if x.mashQ ≠ [] ∨ x.steepQ ≠ [] ∨ x.drawQ ≠ [] ∨ x.done ≠ [] ∨ x.passes ≠ [] ∨ x.inq ≠ [] then s else
  let y := if x.ttag.any (fun t => x.abortTags.contains t) then clearTally x else x
  let s := s.putVat d v { y with
    abortDrn := false, abortTags := [], hasPrev := false, lastPar := 0, lastKeep := false, accum0 := 0, accum1 := 0,
    undef0 := some s.freeCtr, undef1 := some (s.freeCtr + 65536), wrote0 := [], wrote1 := [], lostDraws := [] }
  { s with freeCtr := s.freeCtr + 131072 }

def execVatAbortDrainEnd (d v : Nat) (s : State) : Host.Outcome State Fault Refusal :=
  if s.hasVat d v then .next (s.vatDrainEnd d v) else .fault .absentUnit

end Sys2Proof.Machine
end

