-- ==== Sys2Proof/Machine/Link.lean ====
section
/-!
DEFINITION. Sys2Proof/Machine/Link.lean: the send side of QLink: messages as bytes, encryption, the choice of the port, and the
byte streams of the channels (13_qlink.md).
-/
namespace Sys2Proof.Machine

/-! ## Records -/

def portDefault (_ : Nat) : Port := {}

/-- Port i of die d (13 R542; 00 R17). -/
def State.port (s : State) (d i : Nat) : Port := mget portDefault s.ports (d * 3 + i)
/-- Replace a port. -/
def State.putPort (s : State) (d i : Nat) (x : Port) : State := { s with ports := mset portDefault s.ports (d * 3 + i) x }
/-- Port i of die d exists. -/
def State.hasPort (s : State) (d i : Nat) : Bool := s.hasDie d && decide (i < 3)

def rxDefault (_ : Nat) : RxCh := {}

/-- Receive channel ch of a port. -/
def State.rxch (s : State) (d i ch : Nat) : RxCh := mget rxDefault (s.port d i).rx ch
def State.putRxch (s : State) (d i ch : Nat) (r : RxCh) : State :=
  let x := s.port d i
  s.putPort d i { x with rx := mset rxDefault x.rx ch r }

/-- States of R549. -/
def lDOWN : Nat := 0
def lTRAIN : Nat := 1
def lACTIVE : Nat := 2
def lRETRY : Nat := 3
def lRETRAIN : Nat := 4

def State.txst (s : State) (d i : Nat) : Nat := s.rf d (oQlPstat i) qlPstatTxst
def State.rxst (s : State) (d i : Nat) : Nat := s.rf d (oQlPstat i) qlPstatRxst

/-- A state in service: ACTIVE, RETRY or RETRAIN (R554). -/
def inService (x : Nat) : Bool := x = lACTIVE || x = lRETRY || x = lRETRAIN

/-- Message types (R560). -/
def mWREQ : Nat := 1
def mRREQ : Nat := 2
def mRDATA : Nat := 3
def mWACK : Nat := 4
def mPOST : Nat := 5
def mDISP : Nat := 8
def mNOTICE : Nat := 9
def mCHUNK : Nat := 0xA
def mABORT : Nat := 0x10
def mHB : Nat := 0x11
def mHBR : Nat := 0x12
def mPNOT : Nat := 0x13
def mMGMT : Nat := 0x20

/-- Bytes of the body of a type (R560, R476, R628, R642); none for a reserved type. -/
def bodyLen (t : Nat) : Option Nat :=
  if t = 1 ∨ t = 5 ∨ t = 8 ∨ t = 9 ∨ t = 0x11 ∨ t = 0x12 ∨ t = 0x20 then some 8
  else if t = 2 ∨ t = 0x10 then some 16
  else if t = 3 ∨ t = 4 then some 0
  else if t = 0xA then some 32
  else if t = 0x13 then some 24
  else none

/-- May a type use a channel (R560)? -/
def typeOnCh (t ch : Nat) : Bool :=
  if 1 ≤ t ∧ t ≤ 5 then decide (1 ≤ ch) && decide (ch ≤ 13)
  else if 8 ≤ t ∧ t ≤ 0xA then decide (2 ≤ ch) && decide (ch ≤ 13)
  else if 0x10 ≤ t ∧ t ≤ 0x13 then ch = 14
  else t = 0x20 && ch = 0

/-- Channel group of a channel (R568). -/
def groupOf (ch : Nat) : Nat := if ch = 14 then 0 else ch

/-! ## Messages as bytes (R559, R562, R569) -/

/-- Bits of a poison map as bytes. -/
def mapBytes : Nat → List Bool → List Byte
  | 0, _ => []
  | n + 1, bs =>
    let v := (bs.take 8).zipIdx.foldl (fun a t => a + (if t.1 then 2 ^ t.2 else 0)) 0
    BitVec.ofNat 8 v :: mapBytes n (bs.drop 8)

/-- The poison map of a message, padded to 8 B (R562); none when no data is poisoned. -/
def Msg.map (m : Msg) : List Byte :=
  if m.pmap.any id then mapBytes (8 * ((m.data.length + 4095) / 4096)) m.pmap else []

/-- The 16-byte link header (R559). -/
def Msg.header (m : Msg) (enc : Bool) : List Byte :=
  toBytes 16 (m.typ % 256 + m.dmod % 2 ^ 16 * 2 ^ 8 + m.smod % 2 ^ 16 * 2 ^ 24 + m.ddie % 8 * 2 ^ 40 + m.sdie % 8 * 2 ^ 43 +
    m.tag % 256 * 2 ^ 46 + (if m.map = [] then 0 else 2 ^ 54) + (if enc then 2 ^ 55 else 0) + m.stat % 256 * 2 ^ 56 +
    (m.body.length + m.data.length + m.map.length) * 2 ^ 64 + m.rid % 2 ^ 32 * 2 ^ 96)

/-- Zero bytes that bring a length to a multiple of 8. -/
def pad8 (n : Nat) : List Byte := List.replicate ((8 - n % 8) % 8) 0

/-- The initialisation vector (R570). -/
def gcmIv (smod port ch ctr : Nat) : Nat := smod % 2 ^ 16 + port % 32 * 2 ^ 16 + ch % 16 * 2 ^ 21 + ctr % 2 ^ 64 * 2 ^ 32

/-- The bytes of a message on a channel, padded to the next message start. -/
def Msg.bytes (m : Msg) (key : Option (BitVec 256)) (iv : Nat) : List Byte :=
  let b := match key with
    | none => m.header false ++ m.body ++ m.data ++ m.map
    | some k =>
      let h := m.header true
      let pt := m.body ++ m.data
      let ct := Config.gcmSeal k iv (h ++ m.map) pt
      h ++ ct.take pt.length ++ m.map ++ (ct.drop pt.length).take 16
  b ++ pad8 b.length

def keyDefault (_ : Nat) : Option (BitVec 256) := none

/-- Key of a group of a port: none when EN = 0. -/
def State.groupKey (s : State) (d i g : Nat) : Option (BitVec 256) :=
  if s.rf d (oQlCgrp i g) qlCgrpEn = 1 then
    some ((mget keyDefault s.keys (s.rf d (oQlCgrp i g) qlCgrpKslot)).getD 0)
  else none

def n0 (_ : Nat) : Nat := 0
def nilB (_ : Nat) : List Byte := []
def nilT (_ : Nat) : List (Nat × Nat × Nat) := []
def nilM (_ : Nat) : List Msg := []

/-- The bytes of a message join the byte stream of channel ch. A C14 message is kept until it is acknowledged (R573). -/
def Port.queue (x : Port) (ch : Nat) (m : Msg) (b : List Byte) : Port :=
  let y := { x with tx := mset nilB x.tx ch (mget nilB x.tx ch ++ b),
                    txTags := mset nilT x.txTags ch (enq (mget nilT x.txTags ch) (b.length, m.tag, m.dmod)) }
  if ch = 14 then { y with put14 := x.put14 + b.length, c14 := enq x.c14 (x.put14 + b.length, m) } else y

/-- The message enters the byte stream of channel ch of a port (R558, R570). A channel whose counter has reached 2^64 − 1 keeps it until
a new key is installed. -/
def State.enqueueMsg (s : State) (d i ch : Nat) (m : Msg) : State :=
  let x := s.port d i
  let g := groupOf ch
  let c := mget n0 x.gcmTx ch
  match s.groupKey d i g with
  | none => s.putPort d i (x.queue ch m (m.bytes none 0))
  | some k =>
    if 2 ^ 64 - 1 ≤ c then s.putPort d i { x with stopped := mset nilM x.stopped ch (enq (mget nilM x.stopped ch) m) } else
    let b := m.bytes (some k) (gcmIv m.smod (3 * d + i) ch c)
    let hit := (s.inoc d).point = 0x42 && (s.inoc d).inst = i
    let t := 16 + m.body.length + m.data.length + m.map.length
    let b := if hit then b.set t (b.getD t 0 ^^^ 1) else b
    let s := if hit then s.inocClear d else s
    let s := s.putPort d i ({ x with gcmTx := mset n0 x.gcmTx ch (c + 1) }.queue ch m b)
    if c + 1 = 2 ^ 64 - 1 then s.wf d (oQlCgrp i g) qlCgrpCstop 1 else s

/-- Messages kept for a new key enter the stream, in their order. -/
def State.sendStopped (s : State) (d i ch : Nat) : State :=
  let x := s.port d i
  (mget nilM x.stopped ch).foldl (fun s m => s.enqueueMsg d i ch m) (s.putPort d i { x with stopped := mset nilM x.stopped ch [] })

/-- Messages kept for a new key are dropped. -/
def State.dropStopped (s : State) (d i ch : Nat) : State :=
  let x := s.port d i
  s.putPort d i { x with stopped := mset nilM x.stopped ch [] }

/-! ## The choice of the port (R552, R553, R573) -/

/-- Ports of the module as (die, port of the die), in ascending port order. -/
def State.allPorts (s : State) : List (Nat × Nat) := (List.range (3 * s.nDies)).map (fun p => (p / 3, p % 3))

/-- May the port carry a message for module dm on channel ch (R552, R553, R573)? -/
def State.portOk (s : State) (d i ch dm : Nat) : Bool :=
  let o := oQlPstat i
  (s.txst d i = lACTIVE) &&
  decide (s.rf d o qlPstatFarmod = dm) && (ch = 0 || s.modNum ≠ 0xFFFF) &&
  (s.rf d o qlPstatAxmis = 0 || ch = 0) && decide (s.rf d o qlPstatDupid = 0)

/-- The job axis that names channel v for a tag on a die (11 R457, 13 R573). -/
def State.axisOf (s : State) (d tag v : Nat) : Option Nat :=
  (List.range 6).find? (fun a => s.rf d (oTunAxis tag a) tunAxisEn = 1 && s.rf d (oTunAxis tag a) tunAxisVc = v)

/-- The port a message for module dm leaves through. -/
def State.choosePort (s : State) (d ch tag dm : Nat) : Option (Nat × Nat) :=
  let ps := s.allPorts.filter (fun p => s.portOk p.1 p.2 ch dm)
  if 2 ≤ ch ∧ ch ≤ 13 then
    let ps := match s.axisOf d tag ch with
      | none => []
      | some a => ps.filter (fun p => s.rf p.1 (oQlPctl p.2) qlPctlNax = a)
    let own := ps.filter (fun p => p.1 = d)
    let ps := if own = [] then ps else own
    ps[ch % ps.length]?
  else
    match ps.find? (fun p => p.1 = d) with
    | some p => some p
    | none => ps.head?

/-- Channel ch of port p of the module is granted to another partition than part (16 R685). -/
def State.chanHeld (s : State) (d p ch part : Nat) : Bool :=
  (s.tables d).any (fun g => g.kind = 0xC && decide (g.part ≠ part) && decide (g.first ≤ 16 * p + ch) &&
    decide (16 * p + ch < g.first + g.count))

/-- Send a message of partition part from die d on channel ch; 0xFE when no port qualifies (R573), 9 (PROT) when the channel is another
partition's (16 R685). -/
def State.sendMsg (s : State) (d ch part : Nat) (m : Msg) : Except Nat (Nat × State) :=
  match s.choosePort d ch m.tag m.dmod with
  | none => .error 0xFE
  | some p =>
    if 1 ≤ ch ∧ ch ≤ 13 ∧ s.chanHeld p.1 (p.1 * 3 + p.2) ch part then .error 9
    else .ok (p.1 * 3 + p.2, s.enqueueMsg p.1 p.2 ch { m with smod := s.modNum, sdie := d })

/-- The next request id (DESIGN CHOICE, log entry 10). -/
def State.newRid (s : State) : Nat × State := (s.nextRid, { s with nextRid := (s.nextRid + 1) % 2 ^ 32 })

end Sys2Proof.Machine
end

