-- ==== Sys2Proof/Machine/Descriptors.lean ====
section
/-!
DEFINITION. Sys2Proof/Machine/Descriptors.lean: tensor descriptors: reading one, the acceptance checks, who holds an element and at
which bytes, and the overlap check (08 R331–R345).
-/
namespace Sys2Proof.Machine

/-- Offset of descriptor i of partition p in context memory (08 R323). -/
def descOff (p i : Nat) : Nat := 0x400000 + p * 0x20000 + i * 0x80

/-- Dimension record i of descriptor words (08 R334). -/
def parseDim (r : Nat) : Dim :=
  { ext := bits r 0 32, blk := bits r 32 32, stride := bits r 64 40, shard := bits r 104 2, axis := bits r 106 3, pad := bits r 109 16 }

/-- The fields of a descriptor of 1,024 bits (08 R332). -/
def parseDesc (i v : Nat) : Desc :=
  let nd := bits v 68 3
  let rec_ (k : Nat) : Nat := bits v (256 + 128 * k) 128
  { idx := i, base := bits v 0 64, fmt := bits v 64 4, ndim := nd, chk := bit v 71, hset := bits v 72 6, hen := bit v 78,
    tid := bits v 80 24, fill := bits v 128 32,
    dims := (List.range (if nd < 6 then nd else 6)).map (fun k => parseDim (rec_ k)),
    resv := bit v 79 || decide (bits v 104 24 ≠ 0) || decide (bits v 160 96 ≠ 0) ||
      (List.range 6).any (fun k => decide (bits (rec_ k) 125 3 ≠ 0) || (decide (nd ≤ k) && decide (rec_ k ≠ 0))) }

/-- The engine latches a descriptor (08 R331); the Bool says that its read consumed poison (15 R639). -/
def State.loadDesc (s : State) (d p i : Nat) : Desc × Bool × State :=
  let s := s.readCheck (.ctx d) (descOff p i) 128
  (parseDesc i (s.peekN (.ctx d) (descOff p i) 128), s.poisoned (.ctx d) (descOff p i) 128, s)

/-- Latch several descriptors. -/
def State.loadDescs : State → Nat → Nat → List Nat → List Desc × Bool × State
  | s, _, _, [] => ([], false, s)
  | s, d, p, i :: is =>
    let t := s.loadDesc d p i
    let u := State.loadDescs t.2.2 d p is
    (t.1 :: u.1, t.2.1 || u.2.1, u.2.2)

/-! ## Formats (08 R333, R337) -/

def fmINT4 : Nat := 0
def fmQB8 : Nat := 5

/-- Bytes of an element in a contiguous format. -/
def elSize (f : Nat) : Nat := if f = 2 ∨ f = 7 then 4 else if f = 4 ∨ f = 6 then 2 else 1
/-- Limb bytes of a limb format. -/
def limbs (f : Nat) : Nat := if f = 8 then 2 else if f = 9 then 3 else 1
/-- Elements that are packed together in dimension 0. -/
def groupSize (f : Nat) (em : Bool) : Nat := if em then 1 else if f = 0 then 2 else if f = 5 then 32 else if f = 8 ∨ f = 9 then 128 else 1
/-- Runs of bytes of a group, or of an element in element mode `em`. -/
def groupRuns (f : Nat) (em : Bool) : Nat := if f = 8 ∨ f = 9 then limbs f else if f = 5 ∧ em then 2 else 1

/-- Byte offset in dimension 0 of run r of the group (or element) at local index l. -/
def elOff (f : Nat) (em : Bool) (l r : Nat) : Nat :=
  if f = 0 then l / 2
  else if f = 5 then 33 * (l / 32) + (if em ∧ r = 1 then 1 + l % 32 else 0)
  else if f = 8 ∨ f = 9 then 128 * limbs f * (l / 128) + 128 * r + l % 128
  else l * elSize f

/-- Bytes of run r of a group that holds k elements. -/
def runLen (f : Nat) (em : Bool) (k : Nat) : Nat :=
  if f = 0 then 1 else if f = 5 then (if em then 1 else 1 + k) else if f = 8 ∨ f = 9 then k else elSize f

/-- Last byte offset of local index l in dimension 0. -/
def elEndOff (f l : Nat) : Nat :=
  if f = 0 then l / 2 else if f = 5 then 33 * (l / 32) + 1 + l % 32
  else if f = 8 ∨ f = 9 then 128 * limbs f * (l / 128) + 128 * (limbs f - 1) + l % 128 else l * elSize f + elSize f - 1

/-- Bytes of a dimension-0 row of n elements laid out densely (09 R374). -/
def denseRow (f n : Nat) : Nat :=
  if f = 0 then (n + 1) / 2 else if f = 5 then 33 * ((n + 31) / 32)
  else if f = 8 ∨ f = 9 then 128 * limbs f * ((n + 127) / 128) else n * elSize f

/-! ## Sharding (08 R335, R336) -/

/-- Members of an axis: 6 the dies, 7 the vats, else the job's axis; 0 when the job has not declared it. -/
def State.axisP (s : State) (d tag a : Nat) : Nat :=
  if a = 6 then s.nDies else if a = 7 then 16
  else if s.rf d (oTunAxis tag a) tunAxisEn = 1 then s.rf d (oTunAxis tag a) tunAxisP else 0

/-- The size P of an axis as its register holds it, declared or not (08 R339). -/
def State.axisRaw (s : State) (d tag a : Nat) : Nat :=
  if a = 6 then s.nDies else if a = 7 then 16 else s.rf d (oTunAxis tag a) tunAxisP

/-- This module's coordinate on a network axis. -/
def State.axisC (s : State) (d tag a : Nat) : Nat := s.rf d (oTunAxis tag a) tunAxisC

/-- Effective block length. -/
def Dim.eblk (m : Dim) (p : Nat) : Nat :=
  if m.shard = 0 then m.ext else if m.blk ≠ 0 then m.blk else if m.shard = 1 then (m.ext + p - 1) / p else 1

/-- Owner (none: every member) and local index of a global index. -/
def Dim.owner (m : Dim) (p g : Nat) : Option Nat × Nat :=
  if m.shard = 0 then (none, g) else
  let b := m.eblk p
  if m.shard = 1 then (some (g / b), g - g / b * b)
  else (some (g / b % p), g / b / p * (b + m.pad) + g % b)

/-- Largest valid local index of member c; none when it holds no valid position. -/
def Dim.lastLocal (m : Dim) (p c : Nat) : Option Nat :=
  if m.ext = 0 then none
  else if m.shard = 0 then some (m.ext - 1)
  else
    let b := m.eblk p
    if m.ext ≤ c * b then none
    else if m.shard = 1 then some ((if b < m.ext - c * b then b else m.ext - c * b) - 1)
    else
      let nb := (m.ext + b - 1) / b
      let j := c + (nb - 1 - c) / p * p
      some (j / p * (b + m.pad) + (if b < m.ext - j * b then b else m.ext - j * b) - 1)

/-- BASE with a local alias resolved on the issuing die (08 R306, R335). -/
def State.descBase (s : State) (d : Nat) (x : Desc) : Nat :=
  let al := bits x.base 40 4
  if bits x.base 44 4 = 15 ∧ s.isLocal (bits x.base 48 16) ∧ al ≠ 3 ∧ al ≤ 6 then unalias d none x.base else x.base

/-- Module number of member c of a network axis (08 R335): none for a member the job's table does not name. -/
def State.memberMod (s : State) (d tag a c base : Nat) : Option Nat :=
  let o := oTunAxis tag a
  let c0 := s.axisC d tag a
  let p := s.axisP d tag a
  if c = c0 then some (bits base 48 16)
  else if s.rf d o tunAxisTopo = 1 then (if c < 8 then some (bits (s.rf d o tunAxisMem) (16 * c) 16) else none)
  else if c = (c0 + 1) % p then some (s.rf d o tunAxisNextmod)
  else if (c + 1) % p = c0 % p then some (s.rf d o tunAxisPrevmod)
  else none

/-- Replace w bits of n from bit lo. -/
def putBits (n lo w x : Nat) : Nat := n - bits n lo w * 2 ^ lo + x % 2 ^ w * 2 ^ lo

/-- Storage base of a member given its coordinates (axis, coordinate), one network axis at most off this module's own: 08 R335. -/
def State.axesBase (s : State) (d tag : Nat) : Nat → List (Nat × Nat) → Option Nat
  | b, [] => some b
  | b, (a, c) :: rest =>
    if a = 6 then
      let lo := if bits b 44 4 = 0 then 30 else if bits b 44 4 = 2 then 37 else 23
      State.axesBase s d tag (putBits b lo 3 c) rest
    else if a = 7 then State.axesBase s d tag (putBits b 26 4 c) rest
    else match s.memberMod d tag a c b with
      | none => none
      | some m => State.axesBase s d tag (putBits b 48 16 m) rest

/-- Storage base of a member given its coordinates (axis, coordinate): 08 R335. A member off this module's coordinate on two network
axes has no module number known here. -/
def State.memberBase (s : State) (d tag b : Nat) (cs : List (Nat × Nat)) : Option Nat :=
  if 2 ≤ (cs.filter (fun t => decide (t.1 < 6) && decide (t.2 ≠ s.axisC d tag t.1))).length then none else s.axesBase d tag b cs

/-- Owner coordinates and local indices of the element with the given global indices. -/
def State.locate (s : State) (d tag : Nat) : List Dim → List Nat → List (Nat × Nat) × List Nat
  | m :: ms, g :: gs =>
    let o := m.owner (s.axisP d tag m.axis) g
    let t := State.locate s d tag ms gs
    (match o.1 with
      | none => t.1
      | some c => (m.axis, c) :: t.1, o.2 :: t.2)
  | _, _ => ([], [])

/-- Σ over dimensions 1 and up of local index times STRIDE. -/
def strideSum : List Dim → List Nat → Nat
  | m :: ms, l :: ls => m.stride * l + strideSum ms ls
  | _, _ => 0

/-- Global address of run r of the group (or element) at global indices gs (08 R337); none for a member without a module number. -/
def State.elemAddr (s : State) (d tag : Nat) (x : Desc) (em : Bool) (gs : List Nat) (r : Nat) : Option Nat :=
  let t := s.locate d tag x.dims gs
  (s.memberBase d tag (s.descBase d x) t.1).map (fun b =>
    b + strideSum (x.dims.drop 1) (t.2.drop 1) + elOff x.fmt em (t.2.headD 0) r)

/-- BASE names another module (08 R304). -/
def State.baseRemote (s : State) (x : Desc) : Bool := ! s.isLocal (bits x.base 48 16)

/-- The issuing module holds the element (09 R359): on every network axis the owner is this module's coordinate. -/
def State.holds (s : State) (d tag : Nat) (x : Desc) (gs : List Nat) : Bool :=
  s.baseRemote x || (s.locate d tag x.dims gs).1.all (fun ac => decide (6 ≤ ac.1) || decide (ac.2 = s.axisC d tag ac.1))

/-- Die d of this module holds the element: its module does, and a dimension dealt to the dies gives it to d (11 R463). -/
def State.dieHolds (s : State) (d tag : Nat) (x : Desc) (gs : List Nat) : Bool :=
  s.holds d tag x gs && (s.baseRemote x || (s.locate d tag x.dims gs).1.all (fun ac => decide (ac.1 ≠ 6) || decide (ac.2 = d)))

/-- Number of elements. -/
def Desc.count (x : Desc) : Nat := (x.dims.map (fun m => m.ext)).foldl (· * ·) 1

/-- Extents of the dimensions. -/
def Desc.exts (x : Desc) : List Nat := x.dims.map (fun m => m.ext)

/-- The global indices of linear index n over the given extents. -/
def unlinear : List Nat → Nat → List Nat
  | [], _ => []
  | e :: es, n => n % e :: unlinear es (n / e)

/-! ## Acceptance checks (08 R339) -/

/-- Members of a descriptor: owner coordinates and last local index of each dimension. `sel i c` says that the instruction touches
member c of dimension i. Members without a valid position are left out (R345). -/
def State.members (s : State) (d tag : Nat) (sel : Nat → Nat → Bool) : Nat → List Dim → List (List (Nat × Nat) × List Nat)
  | _, [] => [([], [])]
  | i, m :: ms =>
    let rest := State.members s d tag sel (i + 1) ms
    if m.shard = 0 then
      match m.lastLocal 1 0 with
      | none => []
      | some l => rest.map (fun t => (t.1, l :: t.2))
    else
      let p := s.axisP d tag m.axis
      ((List.range p).filter (sel i)).flatMap (fun c => match m.lastLocal p c with
        | none => []
        | some l => rest.map (fun t => ((m.axis, c) :: t.1, l :: t.2)))

/-- Every member. -/
def selAll : Nat → Nat → Bool := fun _ _ => true

/-- The members on this module: of a network axis the one at this module's coordinate (09 R359). -/
def State.selHere (s : State) (d tag : Nat) (x : Desc) : Nat → Nat → Bool := fun i c =>
  let a := (x.dims.getD i {}).axis
  s.baseRemote x || decide (6 ≤ a) || decide (c = s.axisC d tag a)

/-- The index of one dimension is held by this module. -/
def State.holdsDim (s : State) (d tag : Nat) (x : Desc) (i g : Nat) : Bool :=
  let m := x.dims.getD i {}
  s.baseRemote x || decide (6 ≤ m.axis) || (match (m.owner (s.axisP d tag m.axis) g).1 with
    | none => true
    | some c => decide (c = s.axisC d tag m.axis))

/-- The indices of dimension i that elements of x held here are written at: index g of dimension i comes from the indices pre i g of
dimension perm i of x. -/
def State.wroteFrom (s : State) (d tag : Nat) (x : Desc) (perm : Nat → Nat) (pre : Nat → Nat → List Nat) : Nat → Nat → Bool :=
  fun i g => (pre i g).any (fun h => decide (h < (x.dims.getD (perm i) {}).ext) && s.holdsDim d tag x (perm i) h)

/-- The members of y that hold an index that w selects, dimension by dimension. -/
def State.selWhere (s : State) (d tag : Nat) (y : Desc) (w : Nat → Nat → Bool) : Nat → Nat → Bool := fun i c =>
  let m := y.dims.getD i {}
  (List.range m.ext).any (fun g => w i g && (m.owner (s.axisP d tag m.axis) g).1 = some c)

/-- The members of table x that the rows of y held here touch: an index chooses the outermost, the others follow y. -/
def State.selRows (s : State) (d tag : Nat) (x y : Desc) : Nat → Nat → Bool := fun i c =>
  if i + 1 = x.ndim then s.selHere d tag x i c else s.selWhere d tag x (s.holdsDim d tag y) i c

/-- First and last valid byte of a member over all its dimensions. -/
def State.memberSpan (s : State) (d tag : Nat) (x : Desc) (t : List (Nat × Nat) × List Nat) : Option (Nat × Nat) :=
  (s.memberBase d tag (s.descBase d x) t.1).map (fun b =>
    (b, b + strideSum (x.dims.drop 1) (t.2.drop 1) + elEndOff x.fmt (t.2.headD 0)))

/-- Has the space of an address a die field (08 R335)? -/
def hasDieField (b : Nat) : Bool :=
  let sp := bits b 44 4
  sp = 0 || sp = 1 || sp = 4 || sp = 5 || sp = 6 || (sp = 2 && bit b 43)

/-- Axes named more than once. -/
def dupAxis : List Nat → Bool
  | [] => false
  | a :: as => as.contains a || dupAxis as

/-- The address row of R339 for one byte: code of R305, 0 when it decodes. -/
def State.byteCode (s : State) (d p a : Nat) : Nat :=
  match s.rackReach d p a 1 false with
  | .err c => c
  | _ => 0

/-- The checks of R339 in their order: the code of the first that fails (0 none), PROT left for the end (10 R778); the Bool is that
PROT. -/
def State.descCheck (s : State) (d tag p : Nat) (sel : Nat → Nat → Bool) (x : Desc) : Nat × Bool :=
  let ds := x.dims
  let sh := ds.filter (fun m => m.shard ≠ 0)
  let b := s.descBase d x
  let m0 := x.dims.headD {}
  let b0 := if m0.shard = 0 then 0 else m0.eblk (s.axisRaw d tag m0.axis)
  let al := if x.fmt = 5 then 32 else if x.fmt = 8 ∨ x.fmt = 9 then 128 else 1
  let early := firstFail
    [(x.resv, 1),
     (decide (9 < x.fmt) || decide (6 < x.ndim), 0x10),
     (decide (2 ^ 40 < x.count), 0x11),
     (ds.any (fun m => m.shard = 1 &&
        (let p := s.axisRaw d tag m.axis
         decide (p * m.eblk p < m.ext))), 0x11),
     (ds.any (fun m => m.shard = 3), 0x11),
     (decide (x.ndim ≠ 0) && ((x.fmt = 0 && (decide ((b0 + m0.pad) % 2 ≠ 0) || decide (b0 % 2 ≠ 0))) ||
        decide (b0 % al ≠ 0) || decide (m0.pad % al ≠ 0)), 0x11),
     (decide (m0.stride ≠ 0), 0x11),
     (dupAxis (sh.map (fun m => m.axis)) ||
        sh.any (fun m =>
          (m.axis = 6 && ! hasDieField b) || (m.axis = 7 && decide (bits b 44 4 ≠ 1)) ||
          (decide (m.axis < 6) && (s.axisP d tag m.axis = 0 || decide (bits x.base 48 16 ≠ 0xFFFF)))), 0x12),
     (decide (x.base % elSize x.fmt ≠ 0) || ds.any (fun m => decide (m.stride % elSize x.fmt ≠ 0)), 0x13)]
  match early with
  | some c => (c, false)
  | none =>
    let codes := (s.members d tag sel 0 ds).map (fun t => match s.memberSpan d tag x t with
      | none => (6, 6)
      | some sp => (s.byteCode d p sp.1, s.byteCode d p sp.2))
    let flat := codes.flatMap (fun t => [t.1, t.2])
    match flat.find? (fun c => c ≠ 0 && c ≠ 9) with
    | some c => (c, false)
    | none => (0, flat.contains 9)

/-- Check descriptors in the order the word names them, each with the members the instruction touches. -/
def State.descChecks (s : State) (d tag p : Nat) : List (Desc × (Nat → Nat → Bool)) → Nat × Bool
  | [] => (0, false)
  | (x, sel) :: xs =>
    let c := s.descCheck d tag p sel x
    if c.1 ≠ 0 then c else
    let r := State.descChecks s d tag p xs
    if r.1 ≠ 0 then r else (0, c.2 || r.2)

/-- A touched member of a descriptor lies on another module (09 R394). -/
def State.descRemote (s : State) (d tag : Nat) (sel : Nat → Nat → Bool) (x : Desc) : Bool :=
  s.baseRemote x || (s.members d tag sel 0 x.dims).any (fun t => match s.memberBase d tag (s.descBase d x) t.1 with
    | none => false
    | some b => ! s.isLocal (bits b 48 16))

/-! ## Overlap (08 R343) -/

/-- What an instruction writes of a destination: the indices of each dimension, and the distance and number of the tile slots it uses
(one when it has no tiles). -/
structure Wrote where
  desc : Desc
  idx : Nat → Nat → Bool
  dist : Nat := 0
  slots : Nat := 1

/-- First and last local index of dimension m, among those that w selects, on member c (none: every member). -/
def Dim.localSpan (m : Dim) (p : Nat) (c : Option Nat) (w : Nat → Bool) : Option (Nat × Nat) :=
  ((List.range m.ext).filter (fun g => w g && (c.isNone || (m.owner p g).1 = c))).foldl (fun a g =>
    let l := (m.owner p g).2
    match a with
    | none => some (l, l)
    | some t => some (min t.1 l, max t.2 l)) none

/-- Members written, with the first and last local index written of each dimension. -/
def State.writtenSpans (s : State) (d tag : Nat) (w : Nat → Nat → Bool) : Nat → List Dim → List (List (Nat × Nat) × List (Nat × Nat))
  | _, [] => [([], [])]
  | i, m :: ms =>
    let rest := State.writtenSpans s d tag w (i + 1) ms
    let p := s.axisP d tag m.axis
    if m.shard = 0 then
      match m.localSpan p none (w i) with
      | none => []
      | some l => rest.map (fun t => (t.1, l :: t.2))
    else (List.range p).flatMap (fun c => match m.localSpan p (some c) (w i) with
      | none => []
      | some l => rest.map (fun t => ((m.axis, c) :: t.1, l :: t.2)))

/-- Bytes from the first to the last byte written over the lowest dimensions of spans l. -/
def spanBytes (f : Nat) (ds : List Dim) (l : List (Nat × Nat)) : Nat :=
  let z := l.headD (0, 0)
  strideSum (ds.drop 1) ((l.drop 1).map (fun t => t.2 - t.1)) + elEndOff f z.2 - elOff f false z.1 0 + 1

/-- A destination overlaps itself: the STRIDE of a dimension, or the distance of the tile slots (09 R392; DEDUCED, log entry 94), is less
than the span over the dimensions below it. -/
def State.selfOverlap (s : State) (d tag : Nat) (x : Wrote) : Bool :=
  let y := x.desc
  (s.writtenSpans d tag x.idx 0 y.dims).any (fun t =>
    (List.range y.ndim).any (fun i =>
      decide (1 ≤ i) && (let z := t.2.getD i (0, 0); decide (z.1 < z.2)) &&
        decide ((y.dims.getD i {}).stride < spanBytes y.fmt (y.dims.take i) (t.2.take i))) ||
    (decide (1 < x.slots) && decide (x.dist ≠ 0) && decide (x.dist < spanBytes y.fmt y.dims t.2)))

/-- An address with this module's own number as 0xFFFF, which names the same bytes (08 R304). -/
def State.ownAddr (s : State) (a : Nat) : Nat := if s.isLocal (bits a 48 16) then a % 2 ^ 48 + 0xFFFF * 2 ^ 48 else a

/-- First and last byte written of each member. -/
def State.byteSpans (s : State) (d tag : Nat) (x : Wrote) : List (Nat × Nat) :=
  let y := x.desc
  (s.writtenSpans d tag x.idx 0 y.dims).filterMap (fun t => (s.memberBase d tag (s.descBase d y) t.1).map (fun b =>
    let a := s.ownAddr b + strideSum (y.dims.drop 1) ((t.2.drop 1).map (fun z => z.1)) + elOff y.fmt false (t.2.headD (0, 0)).1 0
    (a, a + spanBytes y.fmt y.dims t.2 - 1 + x.dist * (x.slots - 1))))

/-- The spans of two destinations intersect. -/
def State.crossOverlap (s : State) (d tag : Nat) (x y : Wrote) : Bool :=
  (s.byteSpans d tag x).any (fun a => (s.byteSpans d tag y).any (fun b => decide (a.1 ≤ b.2) && decide (b.1 ≤ a.2)))

/-- The later-written descriptors of overlapping pairs, in list order. -/
def State.overlaps (s : State) (d tag : Nat) (xs : List Wrote) : List Desc :=
  (xs.zipIdx.filter (fun t => s.selfOverlap d tag t.1 || (xs.take t.2).any (fun y => s.crossOverlap d tag y t.1))).map (fun t => t.1.desc)

end Sys2Proof.Machine
end

