-- ==== Sys2Proof/Machine/RackOps.lean ====
section
/-!
DEFINITION. Sys2Proof/Machine/RackOps.lean: what the racking engine does with bytes and requests: queues, tracker, address checks of
a request, reads and writes with their poison, remote messages, stops (09_racking_and_streams.md, 08_memory_and_layout.md).
-/
namespace Sys2Proof.Machine

/-! ## Queues and books (09 R350, R367, R370) -/

def rackqDefault (_ : Nat) : RackQ := {}

/-- Rack queue q of die d; 256 is the command queue. -/
def State.rackq (s : State) (d q : Nat) : RackQ := mget rackqDefault s.rackqs (d * 257 + q)
def State.putRackq (s : State) (d q : Nat) (x : RackQ) : State := { s with rackqs := mset rackqDefault s.rackqs (d * 257 + q) x }

/-- The queues of die d that hold something. -/
def State.rackqsOf (s : State) (d : Nat) : List (Nat × RackQ) :=
  (s.rackqs.filter (fun e => decide (e.1 / 257 = d))).map (fun e => (e.1 % 257, e.2))

/-- Sum of f over a list. -/
def sumBy {α : Type} (f : α → Nat) (l : List α) : Nat := l.foldl (fun n x => n + f x) 0

/-- Tracker entries partition p's ledgers of die d hold (07 R284): HELD of a record is its bytes 47 to 49, TAG its byte 6 (07 R281). -/
def State.heldOf (s : State) (d p : Nat) : Nat :=
  sumBy (fun i =>
    let n := s.peekN (.ctx d) (ledOff i + 47) 3
    if n = 0 then 0 else if s.jobPart d (s.peek (.ctx d) (ledOff i + 6)).toNat = p then n else 0) (List.range 256)

/-- USED of partition p on die d: requests with an entry, and speculative rows its ledgers hold (09 R370). -/
def State.trkUsed (s : State) (d p : Nat) : Nat :=
  sumBy (fun (e : Nat × RackQ) => (e.2.outs.filter (fun r => r.trk && decide (r.part = p))).length) (s.rackqsOf d) + s.heldOf d p

/-- INUSE of die d. -/
def State.trkInuse (s : State) (d : Nat) : Nat := sumBy (s.trkUsed d) (List.range 8)

/-- PEAK follows INUSE (09 R396). -/
def State.trkPeak (s : State) (d : Nat) : State :=
  let n := s.trkInuse d
  if s.rf d oRkTrk rkTrkPeak < n then s.wf d oRkTrk rkTrkPeak n else s

/-- The tag is in abort at die d's racking engine (09 R390). -/
def State.rkAborting (s : State) (d tag : Nat) : Bool := mget (fun _ => false) s.abortRk (d * 256 + tag)

/-! ## Stops (09 R363, R351) -/

/-- Replace the instruction of a sequence number in a queue. -/
def RackQ.setIns (x : RackQ) (i : RInstr) : RackQ := 
  { x with ins := x.ins.map (fun j => if j.seq = i.seq then i else j), tins := x.tins.map (fun j => if j.seq = i.seq then i else j) }

/-- The instruction of a sequence number. -/
def RackQ.getIns (x : RackQ) (n : Nat) : Option RInstr := (x.ins ++ x.tins).find? (fun i => i.seq = n)

/-- Record a fault in RK_FAULT (09 R398). -/
def State.rkFault (s : State) (d p code c qu opc tag rcode : Nat) (ket : Bool) : State :=
  s.faultReg d (oRkFault p) rkFaultValid rkFaultMore
    [(rkFaultCode, code), (rkFaultCtx, if ket then c - 16384 else ctxLocal c), (rkFaultKet, if ket then 1 else 0), (rkFaultQueue, qu),
     (rkFaultOpc, opc), (rkFaultTag, tag), (rkFaultRcode, rcode)]

/-- The issuing thread is a kettle thread. -/
def isKet (c : Nat) : Bool := ctxEng c = 1

/-- A host COPY stops (14 R608): status XFER with the code on its long command. -/
def State.copyStop (s : State) (i : RInstr) (code : Nat) : State :=
  let x := s.fn i.fn
  s.putFn i.fn { x with longs := x.longs.map (fun l =>
    if l.pkt.seq = i.hseq ∧ l.state < 0x80 then { l with state := 0x81, status := 0x23, detail := code } else l) }

/-- The transfer of an instruction stops at a fault (09 R363). -/
def State.rackStop (s : State) (d qu seq code rcode : Nat) : State :=
  let x := s.rackq d qu
  match x.getIns seq with
  | none => s
  | some i =>
    if i.stopped then s else
    let s := s.putRackq d qu { x.setIns { i with stopped := true, full := true } with trkWait := 0 }
    if qu = 256 then
      let s := s.copyStop i code
      if code = 9 then s.bondReport { die := d, tagv := false, part := i.part, cls := 0x12, detail := code, island := 22 } else s
    else
    let free := s.faultFree d (oRkFault i.part) rkFaultValid
    let s := s.rkFault d i.part code i.c qu i.opc i.tag rcode (isKet i.c)
    let r : Report := { die := d, tag := i.tag, part := i.part, cls := 0x12, detail := code, island := 22, sub := qu, unit := free }
    let s := s.report r
    if code = 9 then s.bondReport r else s

/-- Address of byte k of pieces. -/
def srcAddr : List Piece → Nat → Nat
  | [], _ => 0
  | p :: ps, k => if k < p.n then p.addr + k else srcAddr ps (k - p.n)

/-- Address of the sack of a request's first poisoned byte (15 R640). -/
def Req.poisonAddr (q : Req) (zs : List Bool) : Nat := srcAddr q.src (zs.takeWhile (fun z => ! z)).length / 64 * 64

/-- A unit of a die consumed the poison of a sack (15 R640). -/
def State.consumed (s : State) (d tag part island addr : Nat) : State :=
  s.report { poison := true, die := d, tag := tag, part := part, cls := 0x04, island := island, addr := addr, cause := 4 }

/-- The transfer stops and the poison is consumed (07 R298, R299). -/
def State.rackPoison (s : State) (d qu seq addr : Nat) : State :=
  let x := s.rackq d qu
  match x.getIns seq with
  | none => s
  | some i => (s.putRackq d qu { x.setIns { i with stopped := true, full := true } with trkWait := 0 }).consumed d i.tag i.part 22 addr

/-- A host window entry that a request needs is poisoned: the transfer stops, and the poison is consumed for the partition (15 R639, R640;
DESIGN CHOICE, log entry 108). -/
def State.windowPoison (s : State) (d qu : Nat) (q : Req) (w : Nat) : State :=
  let x := s.rackq d qu
  match x.getIns q.seq with
  | none => s
  | some i =>
    let s := s.putRackq d qu { x.setIns { i with stopped := true, full := true } with trkWait := 0 }
    (if qu = 256 then s.copyStop i 0 else s).report
      { poison := true, die := 0, tagv := false, part := q.part, cls := 4, cause := 4, island := 22, addr := gaddr (.ctx 0) (winOff q.part w) }

/-- The overlap record of a partition on die d (08 R344): the context is the engine-local number of a context, without its core (DESIGN CHOICE, log
entry 110). -/
def State.overlapMark (s : State) (d c part tag : Nat) (ov : List Desc) : State :=
  match ov.find? (fun y => y.chk) with
  | none => s
  | some y =>
    if s.rf d (oRkOvl part) rkOvlOvl = 1 then s.wf d (oRkOvl part) rkOvlMore 1
    else s.wfs d (oRkOvl part) [(rkOvlOvl, 1), (rkOvlCtx, ctxLocal c), (rkOvlTag, tag), (rkOvlDesc, y.idx)]

/-! ## Host windows (08 R320–R322) -/

/-- A host access of partition p: the bus address and the no-snoop attribute, or a code. -/
def State.hostWindow (s : State) (p w o n : Nat) (write : Bool) : Except Nat (Nat × Bool) :=
  let e := s.winEntry p w
  if winBeyond e o n then .error 6
  else if write ∧ bit e 91 = false then .error 9
  else .ok ((bits e 0 64 + o) % 2 ^ 64, bit e 92)

/-- The partition's requests can use the host link (09 R387, 16 R686, R692). -/
def State.hostOk (s : State) (p : Nat) : Bool := s.linkOk (p + 1)

/-! ## Where an address of a request lies -/

/-- Classes of a request's bytes: of this module (tracked or not), host (bus address, window, no-snoop), remote; or the code of a
failure. -/
inductive Place where
  | here (trk : Bool)
  | host (bus win : Nat) (ns : Bool)
  | remote
  | bad (code : Nat)
  deriving DecidableEq, Repr

/-- Owner code of the tun chunks of a range: true when the tun owns one (08 R326). -/
def State.tunOwned (s : State) (d o n : Nat) : Bool :=
  (List.range ((o % 2048 + n + 2047) / 2048)).any (fun k => decide (mget (fun _ => 0) s.tunOwn (d * 1024 + o / 2048 + k) ≠ 0))

/-- Place n bytes at global address a for partition p, as the racking engine of die d checks them at issue (08 R305, R307, R322, R326). -/
def State.place (s : State) (d p a n : Nat) (write cmd : Bool) : Place :=
  match s.rackReach d p a n cmd with
  | .err c => .bad c
  | .remote _ _ _ => .remote
  | .host w o m => match s.hostWindow p w o m write with
    | .error c => .bad c
    | .ok b => .host b.1 (64 * p + w + 1) b.2
  | .ok runs =>
    if runs.any (fun t => match t.1 with
      | .tunBuf e => s.tunOwned e t.2.1 t.2.2
      | _ => false) then .bad 9
    else .here (runs.any (fun t => match t.1 with
      | .cellar _ => true
      | r => decide (r.die ≠ d)))

/-- Die a remote request names: the die field of its space; the sending die for the interleaved cellar (DEDUCED, log entry 12). -/
def dieOfAddr (d a : Nat) : Nat :=
  let sp := bits a 44 4
  if sp = 0 then bits a 30 3 else if sp = 2 then (if bit a 43 then bits a 37 3 else d) else bits a 23 3

/-- The host window that an address of a request names. -/
def State.windowOf (s : State) (d p a n : Nat) (cmd : Bool) : Option Nat :=
  match s.rackReach d p a n cmd with
  | .host w _ _ => some w
  | _ => none

/-- Windows that a request's addresses name. -/
def State.windowsOf (s : State) (d : Nat) (q : Req) (cmd : Bool) : List Nat :=
  (q.src.filter (fun p => p.wait ≠ 3)).filterMap (fun p => s.windowOf d q.part p.addr p.n cmd) ++
    (if 3 ≤ q.what && q.what ≤ 5 then [] else q.dst.filterMap (fun x => s.windowOf d q.part x.addr x.n cmd))

/-! ## Bytes with their poison -/

/-- Read runs of this module's bytes, with the poison of each byte's sack. -/
def State.readZ : State → List (Region × Nat × Nat) → List Byte × List Bool × State
  | s, [] => ([], [], s)
  | s, (r, o, n) :: rs =>
    let s := (s.touch r o n).readCheck r o n
    let b := s.peeks r o n
    let z := (List.range n).map (fun i => s.poisoned r (o + i) 1)
    let t := State.readZ s rs
    (b ++ t.1, z ++ t.2.1, t.2.2)

/-- Poison whole sacks of the bytes marked. -/
def poisonZ (r : Region) : State → Nat → List Bool → State
  | s, _, [] => s
  | s, o, z :: zs => poisonZ r (if z ∧ ¬ s.poisoned r o 1 then s.poisonRange r (o / 64 * 64) 64 else s) (o + 1) zs

/-- Write bytes over runs; the sacks that cover poisoned bytes are written as poison (09 R362). -/
def State.writeZ : State → List (Region × Nat × Nat) → List Byte → List Bool → State
  | s, [], _, _ => s
  | s, (r, o, n) :: rs, bs, zs =>
    let s := (s.touch r o n).write r o (bs.take n)
    State.writeZ (poisonZ r s o (zs.take n)) rs (bs.drop n) (zs.drop n)

/-- Write bytes to the host's memory at a bus address; each sack with poisoned bytes becomes 64 B of 0xFF, with an error record
(09 R362). -/
def State.writeHost (s : State) (a : Nat) (bs : List Byte) (zs : List Bool) : State :=
  let s := s.poke .host a bs
  (List.range ((a % 64 + bs.length + 63) / 64)).foldl (fun s i =>
    let k := a / 64 * 64 + 64 * i
    if (zs.zipIdx.any (fun t => t.1 && decide ((a + t.2) / 64 * 64 = k))) then
      (s.poke .host k (List.replicate 64 0xFF)).logErr { cls := 0x1A, addr := k }
    else s) s

/-- Low or high nibble of the first byte. -/
def nibOf (bs : List Byte) (hi : Bool) : Nat := bits (bs.headD 0).toNat (if hi then 4 else 0) 4

/-- Runs of a local range. -/
def State.runsOf (s : State) (d p a n : Nat) : List (Region × Nat × Nat) :=
  match s.reach d none p a n with
  | .ok r => r
  | _ => []

/-- Runs of a local range without the window check, which is made at issue (16 R688). -/
def State.rawRuns (s : State) (d a n : Nat) : List (Region × Nat × Nat) :=
  match s.decodeAddr d none a with
  | .inter x => s.interRuns (n / 4096 + 2) x n
  | .mem r o => [(r, o, n)]
  | _ => []

/-- Ledger records of die d that a write of n bytes at o of its context memory leaves with STATE 1 wait to be armed (07 R283). -/
def State.ledTouched (s : State) (runs : List (Region × Nat × Nat)) : State :=
  runs.foldl (fun s t => match t.1 with
    | .ctx d =>
      if t.2.1 + t.2.2 ≤ 0x350000 ∨ 0x354000 ≤ t.2.1 then s else
      let lo := (t.2.1 - 0x350000) / 64
      let hi := (t.2.1 + t.2.2 - 1 - 0x350000) / 64
      (List.range (hi + 1 - lo)).foldl (fun s k =>
        if s.ledState d (lo + k) = 1 then { s.unrest d 22 with ledNew := mset (fun _ => false) s.ledNew (d * 256 + lo + k) true } else s) s
    | _ => s) s

/-! ## The order of an instruction's writes (08 R343) -/

/-- Place in the order of R343 of byte o of a destination: descriptor, linear index of its element, position among writes of it. -/
def Dst.keyAt (x : Dst) (o : Nat) : Nat × Nat × Nat :=
  (x.j, x.ord + (if x.alen = 0 then 0 else (x.skip + o) / x.alen * x.els), x.sub)

/-- The order of the places. -/
def keyLt (a b : Nat × Nat × Nat) : Bool :=
  decide (a.1 < b.1) || (a.1 = b.1 && (decide (a.2.1 < b.2.1) || (a.2.1 = b.2.1 && decide (a.2.2 < b.2.2))))

/-- An entry of a log of writes covers a location. -/
def covers (t : Nat × Dst × List Byte) (loc : Nat) : Bool := decide (t.1 ≤ loc) && decide (loc < t.1 + t.2.1.n)

/-- A later place in the order has written a half (1 low, 2 high) of the byte at a location. -/
def laterWrote (log : List (Nat × Dst × List Byte)) (loc : Nat) (k : Nat × Nat × Nat) (half : Nat) : Bool :=
  log.any (fun t => covers t loc && (t.2.1.nib = 0 || t.2.1.nib = half) && keyLt k (t.2.1.keyAt (loc - t.1)))

/-- A byte of the low half of one and the high half of another. -/
def halves (lo hi : Byte) : Byte := BitVec.ofNat 8 (lo.toNat % 16 + hi.toNat / 16 * 16)

/-- What stands at a location when byte o of x writes v there: none when later places have written all that it writes. -/
def standing (log : List (Nat × Dst × List Byte)) (x : Dst) (loc o : Nat) (v : Byte) : Option Byte :=
  let k := x.keyAt o
  let lo := decide (x.nib ≠ 2) && ! laterWrote log loc k 1
  let hi := decide (x.nib ≠ 1) && ! laterWrote log loc k 2
  let was := ((log.find? (covers · loc)).map (fun t => t.2.2.getD (loc - t.1) 0)).getD v
  if lo || hi then some (halves (if lo then v else was) (if hi then v else was)) else none

/-- Runs of the bytes that stand, by offset. -/
def standRuns : Nat → List (Option Byte) → List (Nat × List Byte)
  | _, [] => []
  | k, none :: bs => standRuns (k + 1) bs
  | k, some b :: bs => match standRuns (k + 1) bs with
    | (m, r) :: rest => if m = k + 1 then (k, b :: r) :: rest else (k, [b]) :: (m, r) :: rest
    | [] => [(k, [b])]

/-- The runs of x's bytes bs that are written at location loc, its bytes from offset o on, and the log with them; without a log every
byte is written. -/
def settled (ov : Bool) (log : List (Nat × Dst × List Byte)) (x : Dst) (loc o : Nat) (bs : List Byte) :
    List (Nat × List Byte) × List (Nat × Dst × List Byte) :=
  if ! ov then ([(0, bs)], log) else
  let out := bs.zipIdx.map (fun t => standing log x (loc + t.2) (o + t.2) t.1)
  let now := (out.zip bs).zipIdx.map (fun t => t.1.1.getD (((log.find? (covers · (loc + t.2))).map (fun e => e.2.2.getD (loc + t.2 - e.1) 0)).getD t.1.2))
  (standRuns 0 out, (loc, { x with skip := x.skip + o, n := bs.length }, now) :: log)

/-- The log of an instruction. -/
def State.setLog (s : State) (d qu : Nat) (i : RInstr) (log : List (Nat × Dst × List Byte)) : State :=
  if i.ov then s.putRackq d qu ((s.rackq d qu).setIns { i with wlog := log }) else s

/-- Write runs of bytes of one region, by offset from o. -/
def State.writeOffs (s : State) (r : Region) (o : Nat) (zs : List Bool) (l : List (Nat × List Byte)) : State :=
  l.foldl (fun s t => s.writeZ [(r, o + t.1, t.2.length)] t.2 (zs.drop t.1)) s

/-- Write bytes bs of destination x, from its offset o on, over runs: what stands by R343. -/
def State.writeStanding (d qu seq : Nat) (x : Dst) : State → List (Region × Nat × Nat) → Nat → List Byte → List Bool → State
  | s, [], _, _, _ => s
  | s, (r, a, n) :: rs, o, bs, zs =>
    match (s.rackq d qu).getIns seq with
    | none => s.writeZ ((r, a, n) :: rs) bs zs
    | some i =>
      let t := settled i.ov i.wlog x (r.loc a) o (bs.take n)
      State.writeStanding d qu seq x ((s.writeOffs r a zs t.1).setLog d qu i t.2) rs (o + n) (bs.drop n) (zs.drop n)

/-- A racking write to this module: what stands by R343; an inoculation of point 0x05 poisons its first sack. -/
def State.rackWrite (s : State) (d qu : Nat) (q : Req) (x : Dst) (bs : List Byte) (zs : List Bool) : State :=
  let runs := s.rawRuns d x.addr bs.length
  let s := State.writeStanding d qu q.seq x s runs 0 bs zs
  let s := if (s.inoc d).point = 5 then
      match runs with
      | [] => s
      | (r, o, _) :: _ => (s.inocClear d).poisonRange r (o / 64 * 64) 64
    else s
  s.ledTouched runs

/-- The bytes a request writes at x, whose byte is `was` when x is a nibble: the nibbles of the request for one byte are merged into it
(08 R329, R340). -/
def Req.bytesFor (q : Req) (bs : List Byte) (x : Dst) (was : Byte) : List Byte :=
  if x.nib = 0 then (bs.drop x.off).take x.n else
  [(q.dst.filter (fun y => y.nib ≠ 0 && y.addr = x.addr && y.kind = x.kind)).foldl (fun b y =>
    let v := BitVec.ofNat 8 (nibOf (bs.drop y.off) (decide (q.nib = 2)) * 17)
    if y.nib = 1 then halves v b else halves b v) was]

/-- The byte of a nibble destination on the host or another module as the engine has read it (DESIGN CHOICE, log entry 95). -/
def Dst.oldIn (x : Dst) (bs : List Byte) : Byte := bs.getD (x.old - 1) 0
/-- The poison of a destination's bytes, that of the byte merged with among it. -/
def Dst.zsFor (x : Dst) (zs : List Bool) : List Bool :=
  if x.old = 0 then (zs.drop x.off).take x.n else [zs.getD x.off false || zs.getD (x.old - 1) false]

/-- Write destination x of the host's memory. -/
def State.writeToHost (s : State) (d qu : Nat) (q : Req) (x : Dst) (bs : List Byte) (zs : List Bool) : State :=
  let b := q.bytesFor bs x (x.oldIn bs)
  let z := x.zsFor zs
  match (s.rackq d qu).getIns q.seq with
  | none => s.writeHost x.addr b z
  | some i =>
    let t := settled i.ov i.wlog x (Region.host.loc x.addr) 0 b
    (t.1.foldl (fun (s : State) (r : Nat × List Byte) => s.writeHost (x.addr + r.1) r.2 ((z.drop r.1).take r.2.length)) s).setLog d qu i t.2

/-! ## Remote messages of a request (09 R388, 13 R561) -/

/-- Poison map of data: one Bool per 64 bytes. -/
def pmapOf (zs : List Bool) : List Bool :=
  (List.range ((zs.length + 63) / 64)).map (fun i => ((zs.drop (64 * i)).take 64).any id)

/-- Channel of a queue's remote requests; the command queue and units without a queue use C1. -/
def State.queueVc (s : State) (d qu : Nat) : Nat := if qu = 256 then 1 else s.rf d (oRkQcfg qu) rkQcfgVc

/-- The queue's channel cannot carry remote requests (09 R394). -/
def State.vcBad (s : State) (d qu : Nat) : Bool := let v := s.queueVc d qu; decide (v = 0) || decide (13 < v)

/-- Send a request message of an instruction: its id, port and the state, or the code of `sendMsg`. -/
def State.rackSend (s : State) (d qu tag part typ dm ddie : Nat) (body data : List Byte) (pm : List Bool) :
    Except Nat (Nat × Nat × State) :=
  let t := s.newRid
  match t.2.sendMsg d (s.queueVc d qu) part
      { typ := typ, dmod := dm, ddie := ddie, tag := tag, rid := t.1, body := body, data := data, pmap := pm } with
  | .error e => .error e
  | .ok u => .ok (t.1, u.1, u.2)

/-- A transfer whose message cannot be sent stops: RNAK with RCODE 0xFE, or PROT (09 R388, 16 R685). -/
def State.sendStop (s : State) (d qu seq e : Nat) : State :=
  if e = 9 then s.rackStop d qu seq 9 0 else s.rackStop d qu seq 0x19 e

/-- All bytes of a request are in hand or can be read on the module. -/
def Req.ready (q : Req) : Bool := q.src.all (fun p => p.wait = 0 || p.wait = 3)

/-- Start of the 136-byte row that holds a byte of context memory (05 R193, 08 R323); none outside rows. -/
def rowStart : Region → Nat → Option Nat
  | .ctx _, o => if 0x240000 ≤ o ∧ o < 0x350000 then some (o - (o - 0x240000) % 136) else none
  | _, _ => none

/-- The bytes of the row at a that a read of bytes o .. o + n − 1 leaves, as they stand; none when the instruction has read of it. -/
def State.rowRest (s : State) (rows : List (Nat × Byte × Bool)) (r : Region) (o n a : Nat) : List (Nat × Byte × Bool) :=
  if rows.any (fun t => decide (r.loc a ≤ t.1) && decide (t.1 < r.loc a + 136)) then [] else
  ((List.range 136).filter (fun k => decide (a + k < o) || decide (o + n ≤ a + k))).map
    (fun k => (r.loc (a + k), s.peek r (a + k), s.poisoned r (a + k) 1))

/-- Read a run of this module's bytes; a row that the instruction has read in part it reads as it then stood (05 R196). -/
def State.readRowed (s : State) (rows : List (Nat × Byte × Bool)) (r : Region) (o n : Nat) :
    List Byte × List Bool × List (Nat × Byte × Bool) × State :=
  let t := s.readZ [(r, o, n)]
  match rowStart r o with
  | none => (t.1, t.2.1, rows, t.2.2)
  | some a =>
    let was (k : Nat) : Option (Byte × Bool) := (rows.find? (fun e => e.1 = r.loc (o + k))).map (fun e => e.2)
    let z := (rowStart r (o + n - 1)).getD a
    (t.1.zipIdx.map (fun e => ((was e.2).map (fun w => w.1)).getD e.1), t.2.1.zipIdx.map (fun e => ((was e.2).map (fun w => w.2)).getD e.1),
      rows.filter (fun e => decide (e.1 < r.loc o) || decide (r.loc o + n ≤ e.1)) ++ s.rowRest rows r o n a ++
        (if z = a then [] else s.rowRest rows r o n z), t.2.2)

/-- The same for runs. -/
def State.readAll : State → List (Nat × Byte × Bool) → List (Region × Nat × Nat) →
    List Byte × List Bool × List (Nat × Byte × Bool) × State
  | s, rows, [] => ([], [], rows, s)
  | s, rows, (r, o, n) :: rs =>
    let t := s.readRowed rows r o n
    let u := State.readAll t.2.2.2 t.2.2.1 rs
    (t.1 ++ u.1, t.2.1 ++ u.2.1, u.2.2.1, u.2.2.2)

/-- The source bytes of pieces: local ones are read. -/
def State.gather (d : Nat) : State → List (Nat × Byte × Bool) → List Piece → List Byte × List Bool × List (Nat × Byte × Bool) × State
  | s, rows, [] => ([], [], rows, s)
  | s, rows, p :: ps =>
    let t := if p.wait = 3 then (p.data, p.pz, rows, s) else s.readAll rows (s.rawRuns d p.addr p.n)
    let u := State.gather d t.2.2.2 t.2.2.1 ps
    (t.1 ++ u.1, t.2.1 ++ u.2.1, u.2.2.1, u.2.2.2)

/-- Take the source bytes of a request of a queue, with their poison. -/
def State.takeReq (s : State) (d qu : Nat) (q : Req) : List Byte × List Bool × State :=
  match (s.rackq d qu).getIns q.seq with
  | none => let t := State.gather d s [] q.src; (t.1, t.2.1, t.2.2.2)
  | some i =>
    let t := State.gather d s i.rows q.src
    (t.1, t.2.1, if t.2.2.1 = i.rows then t.2.2.2
      else t.2.2.2.putRackq d qu ((t.2.2.2.rackq d qu).setIns { i with rows := t.2.2.1 }))

/-- Replace a request of a queue. -/
def RackQ.setOut (x : RackQ) (q : Req) : RackQ := { x with outs := x.outs.map (fun r => if r.id = q.id then q else r) }

/-- Byte ranges meet. -/
def meets (a n b m : Nat) : Bool := decide (a < b + m) && decide (b < a + n)

/-- An older request of the same instruction writes bytes of this one's destinations (08 R343, 07 R299, R300). -/
def olderMeets (outs : List Req) (q : Req) : Bool :=
  outs.any (fun r => r.seq = q.seq && decide (r.id < q.id) &&
    r.dst.any (fun a => q.dst.any (fun b => a.kind = b.kind && meets a.addr a.n b.addr b.n)))

/-- Location of a remote byte in a log of writes. -/
def remoteLoc (a : Nat) : Nat := 2 ^ 100 + a

/-- Send the writes of a list of remote runs, with their bytes and poison; a code when one cannot be sent. -/
def State.sendRuns (s : State) (d qu : Nat) (q : Req) : List (Dst × List Byte × List Bool) → List Dst × Nat × State
  | [] => ([], 0, s)
  | (x, bs, zs) :: xs =>
    match s.rackSend d qu q.tag q.part mWREQ (bits x.addr 48 16) (dieOfAddr d x.addr) (toBytes 8 x.addr) bs (pmapOf zs) with
    | .error e => (x :: xs.map (fun t => t.1), e, s)
    | .ok u =>
      let t := State.sendRuns u.2.2 d qu q xs
      ({ x with sent := 1, rid := u.1, port := u.2.1 } :: t.1, t.2.1, t.2.2)

/-- Send the WREQs of a request's remote destinations: what stands by R343. -/
def State.sendDsts (s : State) (d qu : Nat) (q : Req) (bs : List Byte) (zs : List Bool) : List Dst → List Dst × Nat × State
  | [] => ([], 0, s)
  | x :: xs =>
    if x.kind ≠ 2 ∨ x.sent ≠ 0 then
      let t := State.sendDsts s d qu q bs zs xs
      (x :: t.1, t.2.1, t.2.2)
    else
      let b := q.bytesFor bs x (x.oldIn bs)
      let z := x.zsFor zs
      let i := ((s.rackq d qu).getIns q.seq).getD {}
      let t := settled i.ov i.wlog x (remoteLoc x.addr) 0 b
      let runs := t.1.map (fun r => ({ x with addr := x.addr + r.1, off := x.off + r.1, n := r.2.length, skip := x.skip + r.1 }, r.2,
        (z.drop r.1).take r.2.length))
      let u := (s.setLog d qu i t.2).sendRuns d qu q runs
      if u.2.1 ≠ 0 then (u.1 ++ xs, u.2.1, u.2.2) else
      let v := State.sendDsts u.2.2 d qu q bs zs xs
      (u.1 ++ v.1, v.2.1, v.2.2)

end Sys2Proof.Machine
end

