-- ==== Sys2Proof/Machine/RackGen.lean ====
section
/-!
DEFINITION. Sys2Proof/Machine/RackGen.lean: how each racking instruction is cut into requests, in order (09 R347, R359, R361, R374,
R375, R377, R380–R384; 07 R297–R300).
-/
namespace Sys2Proof.Machine

/-! ## Fields (09 R357, R358, R375, R377, R380, R382–R384) -/

def rkQUEUE (w : InstrWord) : Nat := wbits w 20 8
def rkMODE (w : InstrWord) : Nat := wbits w 50 2
def rkDEPTH (w : InstrWord) : Nat := if wbits w 52 4 = 0 then 4 else wbits w 52 4
def rkTLEN (w : InstrWord) : Nat := wbits w 80 16
def rkNTILE (w : InstrWord) : Nat := wbits w 96 16
def rkSLOT (w : InstrWord) : Nat := wbits w 112 16
def rkWRAP (w : InstrWord) : Bool := wbit w 58
def rkFORM (w : InstrWord) : Nat := wbits w 59 2
def rkCASK (w : InstrWord) : Nat := wbits w 38 4
def rkMARK (w : InstrWord) : Nat := wbits w 42 8

/-- Descriptor n of an instruction. -/
def RInstr.desc (i : RInstr) (n : Nat) : Desc := i.descs.getD n {}

/-- Tiles of a RACK or TURN: none in BULK or with TLEN 0 (09 R392). -/
def RInstr.tiles (i : RInstr) : Nat :=
  if (i.opc = 0x50 ∨ i.opc = 0x51) ∧ rkMODE i.word ≠ 0 ∧ rkTLEN i.word ≠ 0 then rkNTILE i.word else 0

/-! ## Atoms: the smallest runs that are contiguous on both sides -/

/-- A run of bytes: source address, destination addresses, length, source nibble (Req.nib) and destination nibbles (Dst.nib), the linear
index of its first element in each destination, the elements and bytes of an atom, the bytes of the first atom left out, the position
among writes of one element, tile, block of the turning tile (0: none), immediate data; and the bytes before the end of a cask's cellar part inside it (0: none), where the
rest lies, and whether the cask is the source. -/
structure Atom where
  src : Nat := 0
  dsts : List Nat := []
  len : Nat := 0
  nib : Nat := 0
  dnibs : List Nat := []
  ords : List Nat := []
  els : Nat := 1
  alen : Nat := 0
  skip : Nat := 0
  sub : Nat := 0
  tile : Nat := 0
  blk : Nat := 0
  data : List Byte := []
  seam : Nat := 0
  far : Nat := 0
  fsrc : Bool := false

/-- An atom of an instruction: left out, at an address no member the module knows holds, or to move. -/
inductive AtomR where
  | skip
  | bad
  | ok (a : Atom)

/-- Extent of dimension 0; a scalar has one element (08 R345). -/
def Desc.e0 (x : Desc) : Nat := if x.ndim = 0 then 1 else x.exts.headD 0
def Desc.nGroups (x : Desc) (em : Bool) : Nat := (x.e0 + groupSize x.fmt em - 1) / groupSize x.fmt em
def Desc.nRows (x : Desc) : Nat := (x.exts.drop 1).foldl (· * ·) 1
/-- Atoms of a tensor. -/
def Desc.nAtoms (x : Desc) (em : Bool) : Nat := x.nRows * (x.nGroups em * groupRuns x.fmt em)

/-- Atom n: global indices of its first element, its run, and its elements. -/
def Desc.atomAt (x : Desc) (em : Bool) (n : Nat) : List Nat × Nat × Nat :=
  let rr := groupRuns x.fmt em
  let g := n / rr % x.nGroups em * groupSize x.fmt em
  (if x.ndim = 0 then [] else g :: unlinear (x.exts.drop 1) (n / rr / x.nGroups em), n % rr,
   if x.e0 - g < groupSize x.fmt em then x.e0 - g else groupSize x.fmt em)

/-- Exchange the first two. -/
def swap01 : List Nat → List Nat
  | a :: b :: t => b :: a :: t
  | l => l

/-- Linear index over extents. -/
def linear : List Nat → List Nat → Nat
  | e :: es, g :: gs => g + e * linear es gs
  | _, _ => 0

/-- Byte offset in a dense stash copy (09 R374). -/
def denseOff (x : Desc) (em : Bool) (gs : List Nat) (r : Nat) : Nat :=
  linear (x.exts.drop 1) (gs.drop 1) * denseRow x.fmt x.e0 + elOff x.fmt em (gs.headD 0) r

/-- Bytes of a dense stash copy, before rounding. -/
def Desc.denseLen (x : Desc) : Nat := if x.count = 0 then 0 else x.nRows * denseRow x.fmt x.e0

/-- Address of byte o of a stash copy (09 R375, R377). -/
def RInstr.caskAddr (i : RInstr) (o : Nat) : Nat := if o < i.caskN then i.caskC + o else i.caskH + (o - i.caskN)
/-- Bytes of n from byte o of a stash copy that lie before the end of the cellar part, when it falls inside them; else 0. -/
def RInstr.caskSeam (i : RInstr) (o n : Nat) : Nat := if o < i.caskN ∧ i.caskN < o + n then i.caskN - o else 0

/-- The descriptor with its dimensions replicated and dimensions 0 and 1 exchanged: the shape of a stash copy turned into x. -/
def Desc.turned (x : Desc) (turn : Bool) : Desc :=
  let ds := x.dims.map (fun m => { m with shard := 0, pad := 0, blk := 0 })
  { x with base := 0, dims := match turn, ds with
      | true, a :: b :: t => b :: a :: t
      | _, l => l }

/-- The instruction exchanges dimensions 0 and 1. -/
def RInstr.turn (i : RInstr) : Bool := i.opc = 0x51 || (i.opc = 0x55 && wbit i.word 50)

/-- The tensor whose elements a copying instruction runs over: the source, or for UNSTASH the stash copy. -/
def RInstr.walked (i : RInstr) : Desc := if i.opc = 0x55 then (i.desc 0).turned i.turn else i.desc 0

/-- Does the instruction move element by element: a TURN, or tiles that cut dimension 0 inside a packing group. -/
def RInstr.em (i : RInstr) : Bool :=
  let x := i.walked
  i.turn || (decide (0 < i.tiles) && decide (x.ndim = 1) && decide (rkTLEN i.word % groupSize x.fmt false ≠ 0))

/-- Nibble of an atom of k elements whose first has index g of dimension 0 (08 R337): 0 a whole byte, 1 low, 2 high. -/
def nibOfIdx (f : Nat) (em : Bool) (k g : Nat) : Nat := if f ≠ 0 then 0 else if em then 1 + g % 2 else if k = 1 then 1 else 0

/-- The addresses, or none when one has none. -/
def allSome : List (Option Nat) → Option (List Nat)
  | [] => some []
  | none :: _ => none
  | some a :: t => (allSome t).map (fun l => a :: l)

/-- Place p of a turning instruction's walk, which takes the source in blocks of 32 × 32 elements of one tile, each block by rows (09 R371;
DEDUCED, log entry 20): the place of its block's first element, row and column in the block, and the atom it stands for. -/
def RInstr.turnAt (i : RInstr) (p : Nat) : Nat × Nat × Nat × Nat :=
  let x := i.walked
  let rr := groupRuns x.fmt i.em
  let e0 := x.e0
  let e1 := x.exts.getD 1 1
  let l := if 0 < i.tiles ∧ x.ndim = 2 then rkTLEN i.word else e1
  let m := p / rr % (e0 * e1)
  let t := m / (e0 * l)
  let m1 := m % (e0 * l)
  let b1 := m1 / (32 * e0)
  let h := min 32 (min l (e1 - t * l) - 32 * b1)
  let b0 := m1 % (32 * e0) / (32 * h)
  let m2 := m1 % (32 * e0) % (32 * h)
  let w := min 32 (e0 - 32 * b0)
  (p - (m2 * rr + p % rr), m2 / w, m2 % w,
    (p / rr / (e0 * e1) * (e0 * e1) + (t * l + 32 * b1 + m2 / w) * e0 + 32 * b0 + m2 % w) * rr + p % rr)

/-- Atom n of a RACK, TURN, STASH or UNSTASH. -/
def State.copyAtom (s : State) (d : Nat) (i : RInstr) (n0 : Nat) : AtomR :=
  let x := i.walked
  let em := i.em
  let n := if i.turn then (i.turnAt n0).2.2.2 else n0
  let t := x.atomAt em n
  let gs := t.1
  let g := gs.getD (x.ndim - 1) 0
  let tile := if i.tiles = 0 then 0 else g / rkTLEN i.word
  if (i.opc = 0x50 ∨ i.opc = 0x51) ∧ (! s.holds d i.tag x gs ∨ (rkMODE i.word ≠ 0 ∧ i.tiles ≤ tile)) then .skip else
  let gt := if i.tiles = 0 then gs else gs.set (x.ndim - 1) (g - tile * rkTLEN i.word)
  let gd := if i.turn then swap01 gt else gt
  let len := runLen x.fmt em t.2.2
  let a0 : Atom := { len := len, nib := nibOfIdx x.fmt em t.2.2 (gs.headD 0), els := if em then 1 else t.2.2, alen := len, tile := tile,
                     blk := if i.turn then (i.turnAt n0).1 + 1 else 0 }
  let dn := nibOfIdx x.fmt em t.2.2 (gd.headD 0)
  if i.opc = 0x54 then
    let o := denseOff x em gs t.2.1
    match s.elemAddr d i.tag x em gs t.2.1 with
    | none => .bad
    | some a => .ok { a0 with src := a, dsts := [i.caskAddr o], dnibs := [dn], ords := [o], seam := i.caskSeam o len, far := i.caskH }
  else if i.opc = 0x55 then
    let o := denseOff x em gs t.2.1
    match s.elemAddr d i.tag (i.desc 0) em gd t.2.1 with
    | none => .bad
    | some a => .ok { a0 with src := i.caskAddr o, dsts := [a], dnibs := [dn], ords := [linear (i.desc 0).exts gd],
                              seam := i.caskSeam o len, far := i.caskH, fsrc := true }
  else
    let z := if rkMODE i.word = 1 then tile % rkDEPTH i.word else tile
    let sh := if i.tiles = 0 then 0 else 64 * rkSLOT i.word * z
    match s.elemAddr d i.tag x em gs t.2.1,
        allSome ((i.descs.drop 1).map (fun y => s.elemAddr d i.tag { y with base := y.base + sh } em gd t.2.1)) with
    | some a, some ds =>
      let o := tile * 2 ^ 42 + linear ((i.desc 1).exts) gd
      .ok { a0 with src := a, dsts := ds, dnibs := ds.map (fun _ => dn), ords := ds.map (fun _ => o) }
    | _, _ => .bad

/-! ## Runs (09 R347): at most 512 bytes, contiguous everywhere, crossing no 4 KiB boundary -/

/-- The next atom at or after n that is not left out. -/
def seekAtom (f : Nat → AtomR) : Nat → Nat → Nat × AtomR
  | 0, n => (n, .skip)
  | k + 1, n => match f n with
    | .skip => seekAtom f k (n + 1)
    | r => (n, r)

/-- Bytes before the next 4 KiB boundary of any address. -/
def pageRoom (as : List Nat) : Nat := as.foldl (fun m a => if 4096 - a % 4096 < m then 4096 - a % 4096 else m) 512

/-- Atom b goes on where run a ends, in memory and, where the order of writes is kept (`ov`), in the order of R343. -/
def follows (ov : Bool) (a b : Atom) : Bool :=
  a.nib = 0 && b.nib = 0 && b.seam = 0 && b.tile = a.tile && b.blk = a.blk && decide (b.src = a.src + a.len) && decide (b.dsts = a.dsts.map (· + a.len)) &&
  (! ov || (b.els = a.els && b.alen = a.alen && decide (a.alen ≠ 0) && decide ((a.skip + a.len) % a.alen = 0) &&
    decide (b.ords = a.ords.map (· + (a.skip + a.len) / a.alen * a.els))))

/-- Grow a run with the atoms that follow it. -/
def growRun (ov : Bool) (f : Nat → AtomR) : Nat → Nat → Atom → Nat × Atom
  | 0, n, a => (n, a)
  | k + 1, n, a => match f n with
    | .ok b =>
      if follows ov a b ∧ a.len + b.len ≤ pageRoom (a.src :: a.dsts) then
        growRun ov f k (n + 1) { a with len := a.len + b.len, data := a.data ++ b.data }
      else (n, a)
    | _ => (n, a)

/-- The bytes of an atom from its byte k on, up to the end of a cask's cellar part when they start before it (09 R375). -/
def Atom.from (a : Atom) (k : Nat) : Atom :=
  let past := decide (a.seam ≠ 0) && decide (a.seam ≤ k)
  let stop := if a.seam ≠ 0 ∧ k < a.seam then a.seam else a.len
  { a with src := if past && a.fsrc then a.far + (k - a.seam) else a.src + k,
           dsts := if past && ! a.fsrc then [a.far + (k - a.seam)] else a.dsts.map (· + k),
           len := stop - k, data := (a.data.drop k).take (stop - k), skip := k, seam := 0 }

/-- A run that starts k bytes into atom n (already found): the run, and where the next one starts. -/
def cutRun (ov : Bool) (f : Nat → AtomR) (total n k : Nat) (a0 : Atom) : Atom × Nat × Nat :=
  let a := a0.from k
  let room := pageRoom (a.src :: a.dsts)
  if room < a.len then ({ a with len := room, data := a.data.take room }, n, k + room)
  else if k + a.len < a0.len then (a, n, k + a.len)
  else
    let r := growRun ov f (total - n - 1) (n + 1) a
    (r.2, r.1, 0)

/-- All runs of a short list of atoms (a token row); none at an unknown member. -/
def allRuns (ov : Bool) (f : Nat → AtomR) (total : Nat) : Nat → Nat → Nat → Option (List Atom)
  | 0, _, _ => some []
  | fuel + 1, n, k =>
    if total ≤ n then some [] else
    match f n with
    | .skip => allRuns ov f total fuel (n + 1) 0
    | .bad => none
    | .ok a =>
      let c := cutRun ov f total n k a
      (allRuns ov f total fuel c.2.1 c.2.2).map (fun l => c.1 :: l)

/-! ## What comes next -/

/-- The next thing of an instruction: nothing yet, a stop, no further request, or a request with the instruction as it stands after its
issue. -/
inductive NextR where
  | wait
  | stop (code : Nat)
  | fin
  | req (q : Req) (i : RInstr)

/-- Destination k of a run, descriptor j of the instruction's list. -/
def Atom.dst (a : Atom) (k j : Nat) : Dst :=
  { addr := a.dsts.getD k 0, n := a.len, j := j, ord := a.ords.getD k 0, skip := a.skip, alen := a.alen, els := a.els, sub := a.sub,
    nib := a.dnibs.getD k 0 }

/-- Source bytes of a run. -/
def Atom.piece (a : Atom) : Piece :=
  if a.data = [] then { addr := a.src, n := a.len } else { n := a.len, wait := 3, data := a.data, pz := List.replicate a.len false }

/-- A request of one run; the destinations of an index instruction are of one descriptor. -/
def runReq (i : RInstr) (a : Atom) : Req :=
  { seq := i.seq, tag := i.tag, part := i.part, tile := a.tile, n := a.len, nib := a.nib, src := [a.piece],
    dst := (List.range a.dsts.length).map (fun k => a.dst k (if i.opc = 0x52 ∨ i.opc = 0x53 then 0 else k)) }

/-- A request that writes the bytes of element ord of destination j of the instruction's list to its address. -/
def immReq (i : RInstr) (addr : Nat) (bs : List Byte) (j ord : Nat) : Req :=
  { seq := i.seq, tag := i.tag, part := i.part, n := bs.length,
    src := [{ n := bs.length, wait := 3, data := bs, pz := List.replicate bs.length false }],
    dst := [{ addr := addr, n := bs.length, j := j, ord := ord }] }

/-- The cursor of a copying instruction after a run, marked full when no run is left. -/
def State.copySeek (s : State) (d : Nat) (i : RInstr) : RInstr :=
  let total := i.walked.nAtoms i.em
  if i.k ≠ 0 then i else
  let t := seekAtom (s.copyAtom d i) (total - i.cur) i.cur
  { i with cur := t.1, full := i.opc ≠ 0x54 && decide (total ≤ t.1), ph := if i.opc = 0x54 && decide (total ≤ t.1) then 2 else i.ph }

/-- Next run of a RACK, TURN, STASH or UNSTASH. -/
def State.copyNext (s : State) (d : Nat) (i : RInstr) : NextR :=
  let total := i.walked.nAtoms i.em
  if total ≤ i.cur then .fin else
  match s.copyAtom d i i.cur with
  | .skip => .wait
  | .bad => .stop 6
  | .ok a =>
    let c := cutRun i.ov (s.copyAtom d i) total i.cur i.k a
    .req { runReq i c.1 with pos := if i.turn then i.cur + 1 else 0 } (s.copySeek d { i with cur := c.2.1, k := c.2.2 })

/-! ## The turning tile (09 R371, 15 R637) -/

/-- Parity of a byte. -/
def byteParity (b : Byte) : Bool := (List.range 8).foldl (fun p k => xor p (b.getLsbD k)) false

/-- Element of the buffer, and byte in it, of byte k of a turning request. -/
def RInstr.cellOf (i : RInstr) (q : Req) (k : Nat) : Nat × Nat :=
  let x := q.dst.headD {}
  let a := max 1 x.alen
  let p := q.pos - 1 + (x.skip + k) / a
  let t := i.turnAt p
  (32 * t.2.1 + t.2.2.1, p % groupRuns i.walked.fmt i.em + (x.skip + k) % a)

/-- The rows of a request are written into a buffer. -/
def TurnBuf.load (t : TurnBuf) (i : RInstr) (q : Req) (bs : List Byte) (zs : List Bool) : TurnBuf :=
  (List.range q.n).foldl (fun t k =>
    let e := i.cellOf q k
    let b := bs.getD k 0
    { cells := mput t.cells (8 * e.1 + e.2) (b, zs.getD k false),
      par := mput t.par e.1 (xor (mget (fun _ => false) t.par e.1) (byteParity b)) }) t

/-- Parity that the bytes held of an element have. -/
def TurnBuf.parity (t : TurnBuf) (e : Nat) : Bool :=
  (List.range 8).foldl (fun p b => xor p (byteParity (mget (fun _ => (0, false)) t.cells (8 * e + b)).1)) false

/-- What a request reads of a buffer: its bytes, and the poison of each; an element whose parity fails is poisoned. -/
def TurnBuf.readOut (t : TurnBuf) (i : RInstr) (upset : Nat → Bool) (q : Req) : Req :=
  let at_ (k : Nat) : Byte × Bool :=
    let e := i.cellOf q k
    let c := mget (fun _ => (0, false)) t.cells (8 * e.1 + e.2)
    (c.1, c.2 || xor (t.parity e.1) (xor (mget (fun _ => false) t.par e.1) (upset e.1)))
  let l := (List.range q.n).map at_
  { q with turned := true, src := [{ n := q.n, wait := 3, data := l.map (fun c => c.1), pz := l.map (fun c => c.2) }] }

/-- Requests of a block that have not passed through the tile. -/
def RackQ.blockOuts (x : RackQ) (i : RInstr) (b : Nat) : List Req :=
  x.outs.filter (fun r => r.seq = i.seq && decide (r.pos ≠ 0) && ! r.turned && decide ((i.turnAt (r.pos - 1)).1 = b))

/-- The block of a request of a queue passes through the die's turning tile, once all its requests are issued, or no more can be, and their
data is in hand: one buffer is filled by rows, then read (09 R371; DEDUCED, log entry 20). -/
def State.turnIn (s : State) (d qu id : Nat) : State :=
  let x := s.rackq d qu
  match x.outs.find? (fun q => q.id = id) with
  | none => s
  | some q => match x.getIns q.seq with
    | none => s
    | some i =>
      let b := (i.turnAt (q.pos - 1)).1
      let rs := x.blockOuts i b
      if q.pos = 0 ∨ q.turned ∨ ! (i.full || decide ((i.turnAt i.cur).1 ≠ b) || decide (x.trkWait = 1)) ∨ ! rs.all Req.ready then s else
      let t := rs.foldl (fun (t : State × TurnBuf) r => let u := t.1.takeReq d qu r; (u.2.2, t.2.load i r u.1 u.2.1)) (s, {})
      let tile := mget (fun _ => {}) s.turnTile d
      let tile := if tile.next = 0 then { tile with buf0 := t.2, next := 1 } else { tile with buf1 := t.2, next := 0 }
      let s := { t.1 with turnTile := mset (fun _ => {}) t.1.turnTile d tile }
      s.putRackq d qu ((rs.map (t.2.readOut i (fun e => Config.tileUpset s.freeCtr i.seq (b + e)))).foldl RackQ.setOut (s.rackq d qu))

/-! ## Remote writes that were held -/

/-- A request's remote writes that cannot be sent are given up. -/
def Req.unsent (q : Req) : Req := { q with dst := q.dst.map (fun x => if x.kind = 2 ∧ x.sent = 0 then { x with sent := 3 } else x) }

/-- Once its data is in hand and no older write of its instruction is under way where it writes, a request with remote destinations
sends its writes; what cannot be sent stops the transfer, and the request completes without it (09 R363). -/
def State.pushOne (s : State) (d qu : Nat) (q : Req) : State :=
  if ! q.dst.any (fun x => x.kind = 2 && x.sent = 0) ∨ ! q.ready ∨ q.what = 2 ∧ ! q.summed ∨ (3 ≤ q.what ∧ q.what ≤ 7) ∨
      (q.pos ≠ 0 ∧ ! q.turned) ∨ olderMeets (s.rackq d qu).outs q then s else
  let t := s.takeReq d qu q
  let u := t.2.2.sendDsts d qu q t.1 t.2.1 q.dst
  let src : List Piece := [{ n := t.1.length, wait := 3, data := t.1, pz := t.2.1 }]
  let q' := { q with src := src, dst := u.1 }
  if u.2.1 = 0 then u.2.2.putRackq d qu ((u.2.2.rackq d qu).setOut q')
  else (u.2.2.putRackq d qu ((u.2.2.rackq d qu).setOut q'.unsent)).sendStop d qu q.seq u.2.1

/-- The same of a request of a queue by its id, its block first passing through the turning tile. -/
def State.pushId (s : State) (d qu id : Nat) : State :=
  let s := s.turnIn d qu id
  match (s.rackq d qu).outs.find? (fun q => q.id = id) with
  | none => s
  | some q => s.pushOne d qu q

/-- Requests of an instruction that held their remote writes send them. -/
def State.pushHeld (s : State) (d qu seq : Nat) : State :=
  ((s.rackq d qu).outs.filter (fun q => q.seq = seq)).foldl (fun s q => s.pushId d qu q.id) s

/-- A request of a queue has its data: it sends its remote writes, a turning one with those of its block. -/
def State.pushRemote (s : State) (d qu : Nat) (q : Req) : State :=
  if q.pos = 0 then s.pushOne d qu q else s.pushHeld d qu q.seq

/-! ## STASH and UNSTASH (09 R375, R377) -/

/-- A cask mark (09 R373). -/
def markBytes (coff len hoff fmt : Nat) (valid : Bool) : List Byte :=
  toBytes 16 (coff % 2 ^ 40 + len % 2 ^ 40 * 2 ^ 40 + hoff % 2 ^ 40 * 2 ^ 80 + (if valid then 2 ^ 120 else 0) + fmt % 16 * 2 ^ 121)

/-- STASH: the mark cleared, the copy, and when all of it is written the mark. -/
def State.stashNext (s : State) (d qu : Nat) (i : RInstr) : NextR :=
  let x := i.desc 0
  let mk := markBytes i.src i.len i.dst x.fmt
  if i.ph = 0 then .req (immReq i i.caskM (mk false) 0 0) (s.copySeek d { i with ph := 1 })
  else if i.ph = 1 then s.copyNext d i
  else if (s.rackq d qu).outs.any (fun q => q.seq = i.seq) then .wait
  else .req (immReq i i.caskM (mk true) 0 0) { i with full := true }

/-- UNSTASH: the mark read, then the copy. -/
def State.unstashNext (s : State) (d : Nat) (i : RInstr) : NextR :=
  if i.ph = 0 then
    .req { seq := i.seq, what := 6, tag := i.tag, part := i.part, n := 16, src := [{ addr := i.caskM, n := 16 }] } { i with ph := 1 }
  else if i.ph = 1 then .wait
  else s.copyNext d i

/-! ## Index windows (07 R296, R297) -/

/-- Index elements of an instruction. -/
def RInstr.idx (i : RInstr) : Desc := i.desc 1
/-- Elements in the window in work. -/
def RInstr.wlen (i : RInstr) : Nat := if i.idx.count - 64 * i.w < 64 then i.idx.count - 64 * i.w else 64

/-- Element e of the index tensor as an atom. -/
def State.idxAtom (s : State) (d : Nat) (x : Desc) (tag e : Nat) : AtomR :=
  match s.elemAddr d tag x false (unlinear x.exts e) 0 with
  | none => .bad
  | some a => .ok { src := a, len := 4 }

/-- Next fetch of index elements of the window. -/
def State.idxNext (s : State) (d : Nat) (i : RInstr) : NextR :=
  if i.wlen ≤ i.k then .wait else
  match s.idxAtom d i.idx i.tag (64 * i.w + i.k) with
  | .ok a =>
    let c := growRun false (s.idxAtom d i.idx i.tag) (i.wlen - i.k - 1) (64 * i.w + i.k + 1) a
    .req { seq := i.seq, what := 1, tag := i.tag, part := i.part, n := c.2.len, aux := i.k, src := [{ addr := c.2.src, n := c.2.len }] }
      { i with k := c.1 - 64 * i.w }
  | _ => .stop 6

/-- Row an index names in a table of n rows (07 R296). -/
def resolveIdx (n : Nat) (wrap : Bool) (v : Nat) : Option Nat :=
  let x := sx 32 v
  if 0 ≤ x ∧ x < (n : Int) then some x.toNat
  else if wrap ∧ x < 0 ∧ -(n : Int) ≤ x then some (x + n).toNat
  else none

/-- Rows of a table: its outermost extent. -/
def Desc.rows (x : Desc) : Nat := x.exts.getLastD 0
/-- The row tensor: all dimensions but the outermost. -/
def Desc.row (x : Desc) : Desc := { x with ndim := x.ndim - 1, dims := x.dims.dropLast }

/-- The table of an index instruction: the source of a GATHER, the destination of a SCATTER. -/
def RInstr.table (i : RInstr) : Desc := if i.opc = 0x52 then i.desc 0 else i.desc 2
/-- The tensor whose rows the index elements number: the destination of a GATHER, the source of a SCATTER. -/
def RInstr.byIdx (i : RInstr) : Desc := if i.opc = 0x52 then i.desc 2 else i.desc 0

/-- Row an element of the window names; element positions are those of the window. -/
def RInstr.rowOf (i : RInstr) (p : Nat) : Option Nat :=
  resolveIdx i.table.rows (rkWRAP i.word) (mget n0 i.win p)

/-- Does this module take part in element p of the window: it holds the row that the element numbers, on the outermost dimension. -/
def State.takesPart (s : State) (d : Nat) (i : RInstr) (p : Nat) : Bool :=
  let x := i.byIdx
  s.holdsDim d i.tag x (x.ndim - 1) (64 * i.w + p)

/-- Group positions by the row they name, in order of first appearance. -/
def groupRows (f : Nat → Option Nat) : List Nat → List (Nat × List Nat)
  | [] => []
  | p :: ps => match f p with
    | none => groupRows f ps
    | some r =>
      let rest := groupRows f ps
      if rest.any (fun e => e.1 = r) then
        (r, p :: ((rest.find? (fun e => e.1 = r)).map (fun e => e.2)).getD []) :: rest.filter (fun e => e.1 ≠ r)
      else (r, [p]) :: rest

/-- Work of a window: a row with the positions of its elements, or an out-of-bounds element of a gather. -/
def State.items (s : State) (d : Nat) (i : RInstr) : List (Option Nat × List Nat) :=
  let ps := (List.range i.wlen).filter (s.takesPart d i)
  let gr := groupRows i.rowOf ps
  if i.opc = 0x52 then
    gr.map (fun e => (some e.1, e.2)) ++ (ps.filter (fun p => (i.rowOf p).isNone)).map (fun p => (none, [p]))
  else if rkFORM i.word = 1 then gr.map (fun e => (some e.1, e.2))
  else gr.map (fun e => (some e.1, [e.2.getLastD 0]))

/-- Element mode of rows: a table of one dimension. -/
def RInstr.rowEm (i : RInstr) : Bool := i.table.ndim = 1

/-- Atoms of a row. -/
def RInstr.rowAtoms (i : RInstr) : Nat :=
  if i.rowEm then groupRuns i.table.fmt true else i.table.row.nAtoms false

/-- Global indices, run and elements of atom n of row r of a tensor. -/
def rowAtomAt (x : Desc) (em : Bool) (n r : Nat) : List Nat × Nat × Nat :=
  if em then ([r], n, 1) else
  let t := x.row.atomAt false n
  (t.1 ++ [r], t.2.1, t.2.2)

/-- Fill bytes of a run of k elements (08 R341). -/
def fillBytes (f fill : Nat) (em : Bool) (r k : Nat) : List Byte :=
  if f = 0 then [BitVec.ofNat 8 (bits fill 0 4 * 17)]
  else if f = 5 then
    (if em then [BitVec.ofNat 8 (if r = 0 then bits fill 8 8 else bits fill 0 8)]
     else BitVec.ofNat 8 (bits fill 8 8) :: List.replicate k (BitVec.ofNat 8 (bits fill 0 8)))
  else if f = 8 ∨ f = 9 then List.replicate k (BitVec.ofNat 8 (bits fill (8 * (limbs f - 1 - r)) 8))
  else toBytes (elSize f) fill

/-- A QB8 block of a one-dimensional table is filled whole in the window: every element of the block of position p is out of bounds
(08 R341). -/
def RInstr.blockFilled (i : RInstr) (p : Nat) : Bool :=
  let e := 64 * i.w + p
  (List.range 32).all (fun j => let q := e / 32 * 32 + j
    decide (i.byIdx.rows ≤ q) || (decide (64 * i.w ≤ q) && (i.rowOf (q - 64 * i.w)).isNone))

/-- Atom n of an item of a GATHER. -/
def State.gatherAtom (s : State) (d : Nat) (i : RInstr) (it : Option Nat × List Nat) (n : Nat) : AtomR :=
  let x := i.table
  let y := i.byIdx
  let em := i.rowEm
  let ps := it.2.filter (fun p => s.holds d i.tag y (rowAtomAt x em n (64 * i.w + p)).1)
  let t := rowAtomAt x em n 0
  if ps = [] then .skip else
  match allSome (ps.map (fun p => s.elemAddr d i.tag y em (rowAtomAt x em n (64 * i.w + p)).1 t.2.1)) with
  | none => .bad
  | some ds =>
    let gd (p : Nat) : List Nat := (rowAtomAt x em n (64 * i.w + p)).1
    let len := runLen x.fmt em t.2.2
    let a0 : Atom := { src := ds.headD 0, dsts := ds, len := len, els := if em then 1 else t.2.2, alen := len,
                       dnibs := ps.map (fun p => nibOfIdx x.fmt em t.2.2 ((gd p).headD 0)), ords := ps.map (fun p => linear y.exts (gd p)) }
    match it.1 with
    | none =>
      if x.fmt = 5 ∧ em ∧ n = 0 ∧ ! i.blockFilled (ps.headD 0) then .skip else
      .ok { a0 with data := fillBytes x.fmt x.fill em t.2.1 t.2.2, nib := a0.dnibs.headD 0 }
    | some r =>
      let u := rowAtomAt x em n r
      match s.elemAddr d i.tag x em u.1 u.2.1 with
      | none => .bad
      | some a => .ok { a0 with src := a, nib := nibOfIdx x.fmt em t.2.2 (u.1.headD 0) }

/-- Atom n of source row e (a position of the window) going to row r of a SCATTER's table. -/
def State.scatterAtom (s : State) (d : Nat) (i : RInstr) (p r n : Nat) : AtomR :=
  let x := i.byIdx
  let y := i.table
  let em := i.rowEm
  let u := rowAtomAt x em n (64 * i.w + p)
  let v := rowAtomAt y em n r
  if ! s.holds d i.tag x u.1 then .skip else
  match s.elemAddr d i.tag x em u.1 u.2.1, s.elemAddr d i.tag y em v.1 v.2.1 with
  | some a, some b =>
    let len := runLen x.fmt em u.2.2
    .ok { src := a, dsts := [b], len := len, els := if em then 1 else u.2.2, alen := len, nib := nibOfIdx x.fmt em u.2.2 (u.1.headD 0),
          dnibs := [nibOfIdx y.fmt em v.2.2 (v.1.headD 0)], ords := [linear y.exts v.1], sub := 64 * i.w + p }
  | _, _ => .bad

/-- The window after one is done. -/
def RInstr.nextWin (i : RInstr) : RInstr :=
  { i with w := i.w + 1, ph := 0, k := 0, cur := 0, src := 0, win := i.win.filter (fun e => 64 ≤ e.1) }

/-- Is the window the last? -/
def RInstr.lastWin (i : RInstr) : Bool := decide (i.idx.count ≤ 64 * (i.w + 1))

/-- Move past finished items; fuel bounds the items. The cursor is (k, cur, src): item, atom, byte. -/
def State.itemSeek (s : State) (d : Nat) (f : RInstr → Option Nat × List Nat → Nat → AtomR) : Nat → RInstr → RInstr
  | 0, i => i
  | n + 1, i =>
    match (s.items d i)[i.k]? with
    | none => if i.lastWin then { i with full := true } else i.nextWin
    | some it =>
      if i.src ≠ 0 then i else
      let t := seekAtom (f i it) (i.rowAtoms - i.cur) i.cur
      if i.rowAtoms ≤ t.1 then State.itemSeek s d f n { i with k := i.k + 1, cur := 0 } else { i with cur := t.1 }

/-- Atoms of the items of a GATHER or a plain SCATTER. -/
def State.itemAtom (s : State) (d : Nat) (i : RInstr) (it : Option Nat × List Nat) (n : Nat) : AtomR :=
  if i.opc = 0x52 then s.gatherAtom d i it n
  else s.scatterAtom d i (it.2.headD 0) (it.1.getD 0) n

/-- Next request of a GATHER or a plain SCATTER. -/
def State.itemNext (s : State) (d : Nat) (i : RInstr) : NextR :=
  if i.ph = 0 then s.idxNext d i else
  match (s.items d i)[i.k]? with
  | none => .wait
  | some it =>
    match s.itemAtom d i it i.cur with
    | .skip => .wait
    | .bad => .stop 6
    | .ok a =>
      let c := cutRun i.ov (s.itemAtom d i it) i.rowAtoms i.cur i.src a
      .req (runReq i c.1) (s.itemSeek d (s.itemAtom d) 65 { i with cur := c.2.1, src := c.2.2 })

/-- An atom of a unit's destination row alone. -/
def AtomR.toDst : AtomR → AtomR
  | .ok a => .ok { a with src := a.dsts.headD 0 }
  | r => r

/-- An atom of a unit's source row alone. -/
def AtomR.toSrc : AtomR → AtomR
  | .ok a => .ok { a with dsts := [], ords := [] }
  | r => r

/-- The next item of a scatter-add; its cursor counts requests of the item's unit. -/
def State.addSeek (s : State) (d : Nat) (i : RInstr) : RInstr :=
  { s.itemSeek d (fun i it n => s.scatterAtom d i (it.2.headD 0) (it.1.getD 0) n) 65 i with cur := 0 }

/-- Requests of an accumulate unit (07 R300, 12 R517; 09 R347): the reads of the destination row, which also write it back, then those of
the source rows of the window that name it; none at an unknown member. -/
def State.unitReqs (s : State) (d : Nat) (i : RInstr) (it : Option Nat × List Nat) : Option (List Req) :=
  let at_ (p n : Nat) : AtomR := s.scatterAtom d i p (it.1.getD 0) n
  let fuel := i.rowAtoms * 2 + 1
  let q : Req := { seq := i.seq, what := 2, tag := i.tag, part := i.part, aux := it.2.length, unit := (i.seq + 1) * 2 ^ 41 + 64 * i.w + i.k }
  let rows := it.2.map (fun p => allRuns i.ov (fun n => (at_ p n).toSrc) i.rowAtoms fuel 0 0)
  match allRuns i.ov (fun n => (at_ (it.2.getLastD 0) n).toDst) i.rowAtoms fuel 0 0 with
  | none => none
  | some ds =>
    if rows.any (fun r => r.isNone) then none else
    some (ds.map (fun a => { q with n := a.len, src := [a.piece], dst := [a.dst 0 0] }) ++
      rows.flatMap (fun l => (l.getD []).map (fun a => { q with n := a.len, src := [a.piece] })))

/-- Next request of a scatter-add. -/
def State.addNext (s : State) (d : Nat) (i : RInstr) : NextR :=
  if i.ph = 0 then s.idxNext d i else
  match (s.items d i)[i.k]? with
  | none => .wait
  | some it => match s.unitReqs d i it with
    | none => .stop 6
    | some l => match l[i.cur]? with
      | none => .wait
      | some q =>
        if i.cur + 1 < l.length then .req q { i with cur := i.cur + 1 }
        else .req { q with ulast := true } (s.addSeek d { i with k := i.k + 1, cur := 0 })

/-! ## Token rows (07 R279, R280; 09 R383, R384) -/

/-- Pieces of row r of a tensor in dense order; none at an unknown member. -/
def State.rowPieces (s : State) (d tag : Nat) (x : Desc) (r : Nat) : Option (List Piece) :=
  let em := decide (x.ndim = 1)
  let total := if em then groupRuns x.fmt true else x.row.nAtoms false
  let f (n : Nat) : AtomR :=
    let u := rowAtomAt x em n r
    match s.elemAddr d tag x em u.1 u.2.1 with
    | none => .bad
    | some a => .ok { src := a, len := runLen x.fmt em u.2.2 }
  (allRuns false f total (total * 2 + 1) 0 0).map (fun l => l.map (fun a => { addr := a.src, n := a.len }))

/-- Bytes of pieces. -/
def pieceBytes (ps : List Piece) : Nat := sumBy (fun (p : Piece) => p.n) ps

def dpQ (w : InstrWord) : Nat := wbits w 63 16
def dpP (w : InstrWord) : Nat := wbits w 79 16
def dpS (w : InstrWord) : Nat := wbits w 95 8

/-- Map entry of expert e, if it has been fetched. -/
def RInstr.mapOf (i : RInstr) (e : Nat) : Option Nat := mfind i.win (64 + e)

/-- Fetch the map entry of expert e. -/
def State.mapFetch (s : State) (d : Nat) (i : RInstr) (e : Nat) (j : RInstr) : NextR :=
  match s.idxAtom d (i.desc 2) i.tag e with
  | .ok a => .req { seq := i.seq, what := 1, tag := i.tag, part := i.part, n := 4, aux := 64 + e, src := [{ addr := a.src, n := 4 }] } j
  | _ => .stop 6

/-- A record of a choice (09 R383). -/
def recBytes (e cls j : Nat) : List Byte := toBytes 4 (e % 2 ^ 12 + cls * 2 ^ 12 + j % 2 ^ 16 * 2 ^ 14)

/-- Next request of a dispatch. Phases: 0 index window, 1 map entries of the window, 2 rows and records (`cur` 0 the row, 1 the record),
3 count notices. -/
def State.dispatchNext (s : State) (d : Nat) (i : RInstr) : NextR :=
  let ne := (i.desc 2).count
  if i.ph = 0 then (if i.idx.count = 0 then .wait else s.idxNext d i)
  else if i.ph = 1 then
    match (List.range i.wlen).find? (fun p => match i.rowOf p with
      | none => false
      | some e => (i.mapOf e).isNone && ! (mget (fun _ => 0) i.cnt (2 ^ 20 + e) = 1)) with
    | some p => let e := (i.rowOf p).getD 0
                s.mapFetch d i e { i with cnt := mset n0 i.cnt (2 ^ 20 + e) 1 }
    | none => .wait
  else if i.ph = 2 then
    let e64 := 64 * i.w + i.k
    let kk := i.idx.e0
    let t := e64 / kk
    let r := (i.rowOf i.k)
    let e := r.getD 0
    let j := mget n0 i.cnt e
    let cls := if r.isNone then 3 else if j < dpQ i.word then 0 else if j < dpQ i.word + dpP i.word then 1 else 2
    let jj := if cls = 1 then j - dpQ i.word else if cls = 3 then 0 else j
    if i.cur = 0 ∧ cls < 2 then
      match s.rowPieces d i.tag (i.desc 0) t, i.mapOf e with
      | some ps, some m =>
        .req { seq := i.seq, what := 3, tag := i.tag, part := i.part, n := pieceBytes ps, src := ps,
               aux := bits m 19 8 + dpS i.word * 2 ^ 10 + cls * 2 ^ 18 + jj * 2 ^ 19,
               dst := [{ addr := bits m 0 16, off := bits m 16 3 }] } { i with cur := 1 }
      | _, _ => .stop 6
    else
      match s.elemAddr d i.tag (i.desc 3) false [e64 % kk, t] 0 with
      | none => .stop 6
      | some a =>
        let i' := { i with cur := 0, k := i.k + 1, sat := if 2 ≤ cls then i.sat + 1 else i.sat, cnt := if cls = 3 then i.cnt else mset n0 i.cnt e (j + 1) }
        let i' := if i'.k < i.wlen then i' else if i.lastWin then { i' with ph := 3, k := 0, full := ne = 0 } else i'.nextWin
        .req (immReq i a (recBytes (if cls = 3 then 0 else e) cls jj) 0 e64) i'
  else
    match i.mapOf i.k with
    | none => if mget n0 i.cnt (2 ^ 20 + i.k) = 1 then .wait else s.mapFetch d i i.k { i with cnt := mset n0 i.cnt (2 ^ 20 + i.k) 1 }
    | some m =>
      .req { seq := i.seq, what := 4, tag := i.tag, part := i.part, n := 8,
             aux := bits m 19 8 + dpS i.word * 2 ^ 10 + mget n0 i.cnt i.k * 2 ^ 18,
             dst := [{ addr := bits m 0 16, off := bits m 16 3 }] }
        { i with k := i.k + 1, full := decide (ne ≤ i.k + 1) }

/-! ## Ledgers as the slot-map form reads them (07 R281, R282, R286) -/

/-- A ledger's counts: Q, P, S. -/
def State.ledQ (s : State) (d l : Nat) : Nat := bits (s.led d l) 0 16
def State.ledP (s : State) (d l : Nat) : Nat := bits (s.led d l) 16 16
def State.ledS (s : State) (d l : Nat) : Nat := bits (s.led d l) 32 8 + 1

/-- n bytes at offset o of a ledger's map extent, as a number. -/
def State.ledMap (s : State) (d l o n : Nat) : Nat :=
  ofBytes ((s.rawRuns d (bits (s.led d l) 192 64 + o) n).flatMap (fun t => s.peeks t.1 t.2.1 t.2.2))

/-- n_s of a sender. -/
def State.ledNs (s : State) (d l k : Nat) : Nat := s.ledMap d l (16 * k) 4

/-- f_s and x_s of a sender (07 R286). -/
def State.ledF (s : State) (d l k : Nat) : Nat := min (s.ledNs d l k) (s.ledQ d l)
def State.ledX (s : State) (d l k : Nat) : Nat := min (s.ledNs d l k - s.ledF d l k) (s.ledP d l)

/-- keep_s of every sender, in ascending rank (07 R286). -/
def State.ledKeeps (s : State) (d l : Nat) : List Nat :=
  let ss := List.range (s.ledS d l)
  let free := s.ledS d l * s.ledQ d l - sumBy (s.ledF d l) ss
  (ss.foldl (fun (t : List Nat × Nat) k => let x := min (s.ledX d l k) t.2; (t.1 ++ [x], t.2 - x)) ([], free)).1

def smLEDGER (w : InstrWord) : Nat := wbits w 63 8
def smEXPERT (w : InstrWord) : Nat := wbits w 71 12

/-- The count of the next sender of a slot-map return (09 R384). -/
def State.slotCount (s : State) (d : Nat) (i : RInstr) : NextR :=
  let l := smLEDGER i.word
  match s.elemAddr d i.tag (i.desc 2) false [smEXPERT i.word, i.k] 0 with
  | none => .stop 6
  | some a => .req (immReq i a (toBytes 4 (s.ledF d l i.k + (s.ledKeeps d l).getD i.k 0)) 1 (linear (i.desc 2).exts [smEXPERT i.word, i.k]))
                { i with k := i.k + 1, full := decide (s.ledS d l ≤ i.k + 1) }

/-- Next request of a slot-map return: the row of the next valid slot, then the count of each sender (09 R384). -/
def State.slotMapNext (s : State) (d : Nat) (i : RInstr) : NextR :=
  let l := smLEDGER i.word
  let q := s.ledQ d l
  let n := s.ledS d l * q
  let e := smEXPERT i.word
  if i.ph = 0 then
    match (List.range (n - i.k)).find? (fun k => bit (s.ledMap d l (4096 + 8 * (i.k + k)) 8) 40) with
    | none => s.slotCount d { i with ph := 1, k := 0 }
    | some k0 =>
      let k := i.k + k0
      let m := s.ledMap d l (4096 + 8 * k) 8
      let p := if bit m 41 then q + bits m 0 32 else bits m 0 32
      let x := i.desc 0
      let y := i.desc 1
      let em := decide (x.ndim = 1)
      let total := if em then groupRuns x.fmt true else x.row.nAtoms false
      let f (a : Nat) : AtomR :=
        let u := rowAtomAt x em a k
        let gy := (if em then [] else u.1.dropLast) ++ [e * (q + s.ledP d l) + p, bits m 32 8]
        match s.elemAddr d i.tag x em u.1 u.2.1, s.elemAddr d i.tag y em gy u.2.1 with
        | some a, some b =>
          let len := runLen x.fmt em u.2.2
          .ok { src := a, dsts := [b], len := len, els := if em then 1 else u.2.2, alen := len, nib := nibOfIdx x.fmt em u.2.2 (u.1.headD 0),
                dnibs := [nibOfIdx x.fmt em u.2.2 (gy.headD 0)], ords := [linear y.exts gy], sub := k }
        | _, _ => .bad
      match allRuns i.ov f total (total * 2 + 1) 0 0 with
      | none => .stop 6
      | some rs =>
        .req { seq := i.seq, tag := i.tag, part := i.part, n := sumBy (fun (a : Atom) => a.len) rs, src := rs.map Atom.piece,
               nib := rs.foldl (fun m a => max m a.nib) 0,
               dst := rs.zipIdx.map (fun t => { t.1.dst 0 0 with off := sumBy (fun (a : Atom) => a.len) (rs.take t.2) }) }
          { i with k := k + 1 }
  else s.slotCount d i

/-! ## POST with REM = 1 and host COPY (10 R418, 14 R607) -/

def pREM (w : InstrWord) : Bool := wbit w 20
def pDIE (w : InstrWord) : Nat := wbits w 21 3
def pMOD (w : InstrWord) : Nat := wbits w 24 16
def pQUEUE (w : InstrWord) : Nat := wbits w 40 8
def pCLR (w : InstrWord) : Bool := wbit w 48
def pADD (w : InstrWord) : Nat := wbits w 49 16

/-- The one request of a POST: body counter, CLR and ADD as in its message (13 R560). -/
def postNext (i : RInstr) : NextR :=
  .req { seq := i.seq, what := 5, tag := i.tag, part := i.part,
         aux := wbits i.word 8 12 + (if pCLR i.word then 2 ^ 12 else 0) + pADD i.word * 2 ^ 13,
         dst := [{ addr := pMOD i.word, off := pDIE i.word }] } { i with full := true }

/-- Next request of a host COPY. -/
def copyBytesNext (i : RInstr) : NextR :=
  if i.len ≤ i.cur then .fin else
  let a := i.src + i.cur
  let b := i.dst + i.cur
  let n := min (i.len - i.cur) (pageRoom [a, b])
  .req { seq := i.seq, tag := i.tag, part := i.part, n := n, ord := i.cur, src := [{ addr := a, n := n }], dst := [{ addr := b, n := n }] }
    { i with cur := i.cur + n, full := decide (i.len ≤ i.cur + n) }

/-- What an instruction issues next. -/
def State.nextReq (s : State) (d qu : Nat) (i : RInstr) : NextR :=
  if i.opc = 0x50 ∨ i.opc = 0x51 then s.copyNext d i
  else if i.opc = 0x54 then s.stashNext d qu i
  else if i.opc = 0x55 then s.unstashNext d i
  else if i.opc = 0x60 then postNext i
  else if i.opc = 0x100 then copyBytesNext i
  else if i.opc = 0x53 ∧ rkFORM i.word = 1 then s.addNext d i
  else if i.opc = 0x53 ∧ rkFORM i.word = 2 then s.dispatchNext d i
  else if i.opc = 0x53 ∧ rkFORM i.word = 3 then s.slotMapNext d i
  else s.itemNext d i

end Sys2Proof.Machine
end

