-- ==== Sys2Proof/Machine/Ledger.lean ====
section
/-!
DEFINITION. Sys2Proof/Machine/Ledger.lean: dispatch ledgers: arming, arrivals, notices, commit, close, fault and abort
(07 R281–R291).
-/
namespace Sys2Proof.Machine

/-- Write fields (lowest bit, width, value) of a ledger's record. -/
def State.ledSet (s : State) (d l : Nat) (fs : List (Nat × Nat × Nat)) : State :=
  s.write (.ctx d) (ledOff l) (toBytes 64 (fs.foldl (fun r f => putBits r f.1 f.2.1 f.2.2) (s.led d l)))

/-- A counter field of a record. -/
def State.ledF24 (s : State) (d l lo : Nat) : Nat := bits (s.led d l) lo 24
/-- Add to a 24-bit counter of a record. -/
def State.ledAdd (s : State) (d l lo n : Nat) : State := s.ledSet d l [(lo, 24, s.ledF24 d l lo + n)]

def lFIRM : Nat := 256
def lSPEC : Nat := 280
def lKEPT : Nat := 304
def lUNDONE : Nat := 328
def lBAD : Nat := 352
def lHELD : Nat := 376

/-- Write n bytes at offset o of the map extent. -/
def State.ledMapPut (s : State) (d l o n v : Nat) : State :=
  s.writeZ (s.rawRuns d (bits (s.led d l) 192 64 + o) n) (toBytes n v) (List.replicate n false)

def State.ledFarr (s : State) (d l k : Nat) : Nat := s.ledMap d l (16 * k + 8) 4
def State.ledShld (s : State) (d l k : Nat) : Nat := s.ledMap d l (16 * k + 12) 4

/-- A ledger's record, and n bytes of its map extent, are read: the address of a poisoned sack among them (15 R634, R639). -/
def State.ledPoison (s : State) (d l n : Nat) : Option Nat × State :=
  let s := s.readCheck (.ctx d) (ledOff l) 64
  if s.poisoned (.ctx d) (ledOff l) 64 then (some (gaddr (.ctx d) (ledOff l)), s) else
  let runs := s.rawRuns d (bits (s.led d l) 192 64) n
  let s := runs.foldl (fun s t => s.readCheck t.1 t.2.1 t.2.2) s
  ((runs.find? (fun t => s.poisoned t.1 t.2.1 t.2.2)).map (fun t => s.poisonAt t.1 t.2.1 t.2.2), s)

/-- Run f on a ledger whose record, and n bytes of whose map extent, hold no poison; else the engine consumes it, for the partition that
holds the ledger (15 R639, R640; DESIGN CHOICE, log entry 112). -/
def State.withLed (s : State) (d l n : Nat) (f : State → State) : State :=
  let t := s.ledPoison d l n
  match t.1 with
  | none => f t.2
  | some a => t.2.report { poison := true, die := d, tagv := false, cls := 4, cause := 4, island := 22, addr := a,
                           part := ((List.range 8).find? (fun p => s.granted d p 0xA d l l)).getD 8 }

/-- Rows of speculative tokens landed. -/
def State.specOf (s : State) (d l : Nat) : List (Nat × Nat) := mget (fun _ => []) s.specRows (d * 256 + l)
def State.putSpec (s : State) (d l : Nat) (x : List (Nat × Nat)) : State :=
  { s with specRows := mset (fun _ => []) s.specRows (d * 256 + l) x }

/-- Die, vat and floor offset of slot u from a base (07 R278). -/
def State.slotPlace (s : State) (d l base u : Nat) : Nat × Nat × Nat :=
  let r := s.led d l
  let v := if bit r 43 then 16 * s.nDies else 16
  let rv := u / 128 % v
  (if bit r 43 then rv / 16 else d, rv % 16, base + (u / 128 / v * 128 + u % 128) * (16 * bits r 108 12))

/-- Row length of a ledger. -/
def State.ledRow (s : State) (d l : Nat) : Nat := 16 * bits (s.led d l) 108 12

/-- Write a row at slot u from a base: no more of it than the ledger's row length (DESIGN CHOICE, log entry 93). -/
def State.putRow (s : State) (d l base u : Nat) (bs : List Byte) (zs : List Bool) : State :=
  let t := s.slotPlace d l base u
  let n := min bs.length (s.ledRow d l)
  s.writeZ [(.floor t.1 t.2.1, t.2.2, n)] bs zs

/-- A row of the ledger lies inside the floor; one that would not is refused with RANGE (DESIGN CHOICE, log entry 93). -/
def State.rowFits (s : State) (d l base u n : Nat) : Bool :=
  decide ((s.slotPlace d l base u).2.2 + min n (s.ledRow d l) ≤ 2 ^ 22)

/-- The ledger enters FAULT: entries released, nothing posted, a dispatch-count fault reported (07 R289). -/
def State.ledFault (s : State) (d l : Nat) : State :=
  let tag := bits (s.led d l) 48 8
  let s := (s.ledSet d l [(40, 3, 6), (lHELD, 24, 0)]).putSpec d l []
  s.report { die := d, tag := tag, part := s.jobPart d tag, cls := 0x18, island := 22, sub := l, addr := gaddr (.ctx d) (ledOff l) }

/-- In COUNTED, too many rows of a sender fault the ledger at once (07 R287). -/
def State.ledOver (s : State) (d l : Nat) : State :=
  if s.ledState d l = 2 ∧ (List.range (s.ledS d l)).any (fun k =>
      decide (s.ledF d l k < s.ledFarr d l k) || decide (s.ledX d l k < s.ledShld d l k)) then s.ledFault d l else s

/-- A racking write armed the ledger: counters and the count table are zeroed, its shadow rows leave the window (07 R283). What
landed between the racking write of STATE and this step landed as at an OPEN ledger; its counts are zeroed with the rest (DESIGN CHOICE, log
entry 124). -/
def State.ledArm (s : State) (d l : Nat) : State :=
  if ! mget (fun _ => false) s.ledNew (d * 256 + l) then s else s.withLed d l 0 fun s =>
  let s := { s with ledNew := mset (fun _ => false) s.ledNew (d * 256 + l) false }
  if s.ledState d l ≠ 1 then s else
  let s := (s.ledSet d l [(256, 153, 0), (432, 17, 0)]).putSpec d l []
  s.writeZ (s.rawRuns d (bits (s.led d l) 192 64) 4096) (List.replicate 4096 0) (List.replicate 4096 false)

def execLedgerArm (d i : Nat) (s : State) : Host.Outcome State Fault Refusal :=
  if s.hasDie d && decide (i < 256) then .next (s.ledArm d i) else .fault .absentUnit

/-- What becomes of an arrival: it waits for a tracker entry, is refused with a status, is dropped without an answer, or is handled. -/
inductive Landed where
  | hold
  | refused (stat : Nat)
  | dropped
  | done (s : State)

/-- Count an arrival as inconsistent. -/
def State.ledBad (s : State) (d l : Nat) : State := s.ledAdd d l lBAD 1

/-- An arrival at a ledger that takes none: counted, and reported to firmware (07 R284; DEDUCED, log entry 14). -/
def State.ledClosedArr (s : State) (d l tag : Nat) : State :=
  (s.ledBad d l).report { die := d, tag := tag, part := s.jobPart d tag, cls := 0x18, island := 22, sub := l }

/-- A dispatched token row arrives at its ledger, whose record is clean (07 R284). -/
def State.landRow (s : State) (d tag body : Nat) (bs : List Byte) (zs : List Bool) : Landed :=
  let l := bits body 0 8
  let k := bits body 10 8
  let spec := bit body 18
  let j := bits body 19 16
  let r := s.led d l
  let st := bits r 40 3
  let q := bits r 0 16
  let p := bits r 16 16
  if st = 0 ∨ 3 < st then .done (s.ledClosedArr d l tag)
  else if tag ≠ bits r 48 8 then
    .done ((s.ledBad d l).bondReport { die := d, tag := tag, part := s.jobPart d tag, cls := 0x18, island := 22, sub := l })
  else
    let quota := decide (k ≤ bits r 32 8) && (if spec then decide (j < p) else decide (j < q))
    let keep := (s.ledKeeps d l).getD k 0
    if st = 3 then
      if spec ∧ quota ∧ keep ≤ j then .done (s.ledAdd d l lUNDONE 1) else .done (s.ledBad d l)
    else if ! quota then .done (s.ledBad d l)
    else if ! spec then
      let u := k * q + j
      if ! s.rowFits d l (bits r 64 22) u bs.length then .refused 6 else
      let s := s.putRow d l (bits r 64 22) u bs zs
      let s := (s.ledMapPut d l (16 * k + 8) 4 (s.ledFarr d l k + 1)).ledAdd d l lFIRM 1
      .done (s.ledOver d l)
    else if st = 2 ∧ keep ≤ j then .done (s.ledAdd d l lUNDONE 1)
    else
      let pt := s.jobPart d tag
      let u := k * p + j
      if s.rf d (oRkTrkq pt) rkTrkqQuota ≤ s.trkUsed d pt then .hold
      else if ! s.rowFits d l (bits r 86 22) u bs.length then .refused 6 else
      let s := s.putRow d l (bits r 86 22) u bs zs
      let s := (s.ledMapPut d l (16 * k + 12) 4 (s.ledShld d l k + 1)).ledAdd d l lSPEC 1
      let s := ((s.ledAdd d l lHELD 1).putSpec d l (enq (s.specOf d l) (k, j))).trkPeak d
      .done (s.ledOver d l)

/-- The ledger's record and count table are read for an arrival; poison in them is consumed for the arrival's job (15 R639, R640). -/
def State.landDisp (s : State) (d tag body : Nat) (bs : List Byte) (zs : List Bool) : Landed :=
  let t := s.ledPoison d (bits body 0 8) 4096
  match t.1 with
  | none => t.2.landRow d tag body bs zs
  | some a => .done (t.2.consumed d tag (s.jobPart d tag) 22 a)

/-- All notices are in: keep counts, COUNTED, and the undo of surplus speculative rows (07 R286). -/
def State.ledCounted (s : State) (d l : Nat) : State :=
  let keeps := s.ledKeeps d l
  let rows := s.specOf d l
  let gone (k : Nat) : Nat := (rows.filter (fun r => decide (r.1 = k) && decide (keeps.getD k 0 ≤ r.2))).length
  let total := sumBy gone (List.range (s.ledS d l))
  let s := (List.range (s.ledS d l)).foldl (fun s k =>
    if gone k = 0 then s else s.ledMapPut d l (16 * k + 12) 4 (s.ledShld d l k - gone k)) s
  let s := s.putSpec d l (rows.filter (fun r => decide (r.2 < keeps.getD r.1 0)))
  let s := s.ledSet d l [(40, 3, 2), (lHELD, 24, s.ledF24 d l lHELD - total), (lUNDONE, 24, s.ledF24 d l lUNDONE + total)]
  s.ledOver d l

/-- A count notice arrives at a ledger whose record is clean (07 R286). At an IDLE, CLOSED, ABORTED or FAULT ledger, with a tag that is not
the ledger's, or from a sender past SM1, it is counted in BADARR and recorded as a row is there (DESIGN CHOICE, log entry 123). -/
def State.landCount (s : State) (d tag body : Nat) : State :=
  let l := bits body 0 8
  let k := bits body 10 8
  let r := s.led d l
  let st := bits r 40 3
  if st = 0 ∨ 3 < st then s.ledClosedArr d l tag
  else if tag ≠ bits r 48 8 then
    (s.ledBad d l).bondReport { die := d, tag := tag, part := s.jobPart d tag, cls := 0x18, island := 22, sub := l }
  else if bits r 32 8 < k ∨ s.ledMap d l (16 * k + 4) 4 % 2 = 1 then s.ledBad d l
  else
    let s := s.ledMapPut d l (16 * k) 8 (bits body 18 32 + 2 ^ 32)
    let n := bits (s.led d l) 400 9 + 1
    let s := s.ledSet d l [(400, 9, n)]
    if n = s.ledS d l then s.ledCounted d l else s

/-- A count notice arrives (07 R286, 15 R639). -/
def State.landNotice (s : State) (d tag body : Nat) : State :=
  let t := s.ledPoison d (bits body 0 8) 4096
  match t.1 with
  | none => t.2.landCount d tag body
  | some a => t.2.consumed d tag (s.jobPart d tag) 22 a

/-- COUNTED to COMMITTING (07 R287). -/
def State.ledCommit (s : State) (d l : Nat) : State := s.withLed d l 4096 fun s =>
  if s.ledState d l = 2 ∧ (List.range (s.ledS d l)).all (fun k =>
      decide (s.ledFarr d l k = s.ledF d l k) && decide (s.ledShld d l k = (s.ledKeeps d l).getD k 0)) then s.ledSet d l [(40, 3, 3)]
  else s

def execLedgerCommitting (d i : Nat) (s : State) : Host.Outcome State Fault Refusal :=
  if s.hasDie d && decide (i < 256) then .next (s.ledCommit d i) else .fault .absentUnit

/-- Empty firm slots in ascending number (07 R288). -/
def State.emptySlots (s : State) (d l : Nat) : List Nat :=
  (List.range (s.ledS d l)).flatMap (fun k => (List.range (s.ledQ d l - s.ledF d l k)).map (fun j => k * s.ledQ d l + s.ledF d l k + j))

/-- Kept speculative tokens in ascending sender and index. -/
def State.keptTokens (s : State) (d l : Nat) : List (Nat × Nat) :=
  (s.ledKeeps d l).zipIdx.flatMap (fun t => (List.range t.1).map (fun j => (t.2, j)))

/-- Copy shadow rows into empty slots, pair by pair. -/
def commitCopy (d l : Nat) : State → List (Nat × Nat × Nat) → State
  | s, [] => s
  | s, (u, k, j) :: rest =>
    let r := s.led d l
    let a := s.slotPlace d l (bits r 86 22) (k * bits r 16 16 + j)
    let t := s.readZ [(.floor a.1 a.2.1, a.2.2, s.ledRow d l)]
    commitCopy d l (t.2.2.putRow d l (bits r 64 22) u t.1 t.2.1) rest

/-- Write the slot map: slot u holds token j of sender k. -/
def slotMapPut (d l : Nat) : State → List (Nat × Nat) → State
  | s, [] => s
  | s, (u, v) :: rest => slotMapPut d l (s.ledMapPut d l (4096 + 8 * u) 8 v) rest

/-- A slot entry (07 R282). -/
def slotEntry (j k : Nat) (spec : Bool) : Nat := j % 2 ^ 32 + k % 256 * 2 ^ 32 + 2 ^ 40 + (if spec then 2 ^ 41 else 0)

/-- Free bytes: n of them from the k-th free value. -/
def freeBytes (k : Nat) : Nat → List Byte
  | 0 => []
  | n + 1 => BitVec.ofNat 8 (Config.freeValue k) :: freeBytes (k + 1) n

/-- The shadow rows return with contents undefined (07 R288): free bytes. -/
def undefRows (d l base len : Nat) : Nat → State → State
  | 0, s => s
  | u + 1, s =>
    let t := s.slotPlace d l base u
    let s := s.writeZ [(.floor t.1 t.2.1, t.2.2, len)] (freeBytes s.freeCtr len) (List.replicate len false)
    undefRows d l base len u { s with freeCtr := s.freeCtr + len }

/-- Mask sacks of the instance's tiles: bit r set for each empty slot (07 R288), every bit when no slot is filled (07 R302).
Bits of the last tile for rows past the last slot stay 0 (DESIGN CHOICE, log entry 125). -/
def maskSacks (d l : Nat) (none_ : Bool) (empty : List Nat) : Nat → State → State
  | 0, s => s
  | z + 1, s =>
    let r := s.led d l
    let t := s.slotPlace d l 0 (128 * z)
    let v := if bit r 43 then 16 * s.nDies else 16
    let m := if none_ then 2 ^ 128 - 1
      else ((empty.filter (fun u => decide (u / 128 = z))).map (fun u => 2 ^ (u % 128))).foldl (· + ·) 0
    maskSacks d l none_ empty z (s.writeZ [(.floor t.1 t.2.1, (bits r 128 16 + z / v) * 64, 64)] (toBytes 64 m) (List.replicate 64 false))

/-- The commit copy ends and the ledger closes, or faults when arrivals were inconsistent (07 R287, R288). A ledger that faults here has had
its commit copy and nothing else of the close: no slot map, mask sack, KEPT or TOTAL is written (DESIGN CHOICE, log entry 122). -/
def State.ledClose (s : State) (d l : Nat) : State :=
  if s.ledState d l ≠ 3 then s else s.withLed d l 4096 fun s =>
  let empty := s.emptySlots d l
  let kept := s.keptTokens d l
  let s := commitCopy d l s (empty.zip kept)
  if s.ledF24 d l lBAD ≠ 0 then s.ledFault d l else
  let q := s.ledQ d l
  let n := s.ledS d l * q
  let left := empty.drop kept.length
  let firm := (List.range (s.ledS d l)).flatMap (fun k => (List.range (s.ledF d l k)).map (fun j => (k * q + j, slotEntry j k false)))
  let spec := (empty.zip kept).map (fun t => (t.1, slotEntry t.2.2 t.2.1 true))
  let s := slotMapPut d l s (firm ++ spec ++ left.map (fun u => (u, 0)))
  let s := maskSacks d l (firm.length + kept.length = 0) left ((n + 127) / 128) s
  let r := s.led d l
  let s := undefRows d l (bits r 86 22) (s.ledRow d l) (s.ledS d l * s.ledP d l) s
  let s := (s.ledSet d l [(40, 3, 4), (lKEPT, 24, kept.length), (lHELD, 24, 0), (432, 17, firm.length + kept.length)]).putSpec d l []
  let tag := bits r 48 8
  s.postCtr d (s.jobPart d tag) (bits r 144 12) 1 false tag

def execLedgerClose (d i : Nat) (s : State) : Host.Outcome State Fault Refusal :=
  if s.hasDie d && decide (i < 256) then .next (s.ledClose d i) else .fault .absentUnit

/-- The ledger's job is aborted: whatever its state, but IDLE (07 R290). -/
def State.ledAbort (s : State) (d l tag : Nat) : State :=
  let st := s.ledState d l
  if bits (s.led d l) 48 8 = tag ∧ (st ≠ 0 ∧ st ≠ 7) then
    (s.ledSet d l [(40, 3, 5), (lHELD, 24, 0)]).putSpec d l []
  else s

/-- Abort the ledgers of a tag on a die. -/
def ledAborts (d tag : Nat) : Nat → State → State
  | 0, s => s
  | l + 1, s => ledAborts d tag l (s.ledAbort d l tag)

end Sys2Proof.Machine
end

