-- ==== Sys2Proof/Machine/Tun.lean ====
section
/-!
DEFINITION. Sys2Proof/Machine/Tun.lean: the tun: exact sums, gauges, POUR and COLLECT, chunk messages, schedules and the abort
(11_collectives_and_tun.md).
-/
namespace Sys2Proof.Machine

/-! ## Exact values (11 R453, R454) -/

/-- Special states add (11 R454): 0 finite, 1 +infinity, 2 −infinity, 3 NaN. -/
def spAdd (a b : Nat) : Nat := if a = 3 ∨ b = 3 then 3 else if a = 0 then b else if b = 0 ∨ a = b then a else 3

/-- Position 8r + 6 of a STATUS collective combines by signed maximum (11 R485). -/
def isMaxPos (kind l : Nat) : Bool := kind = 2 && l % 8 = 6

/-- Two elements of lane l combine. -/
def exAdd (kind l : Nat) (a b : Int × Nat) : Int × Nat :=
  if isMaxPos kind l then (if a.1 < b.1 then b.1 else a.1, 0)
  else
    (a.1 + b.1, spAdd a.2 b.2)

/-- Two chunks combine lane by lane. -/
def exAdds (kind : Nat) (a b : List (Int × Nat)) : List (Int × Nat) :=
  (a.zip b).zipIdx.map (fun (t : ((Int × Nat) × (Int × Nat)) × Nat) => exAdd kind t.2 t.1.1 t.1.2)

/-- The value of a chunk no element has reached: 0, or −2^31 at a maximum position among its n elements. -/
def emptyVals (kind n : Nat) : List (Int × Nat) := (List.range 128).map (fun l => (if isMaxPos kind l ∧ l < n then i32Lo else 0, 0))

/-- An element of a source tensor in the units of the collective (11 R453). -/
def exDecode (i32 : Bool) (c : Nat) : Int × Nat :=
  if i32 then (sx 32 c, 0)
  else match decQF16 c with
    | .nan => (0, 3)
    | .inf neg => (0, if neg then 2 else 1)
    | .fin neg m e =>
      let x : Int := ((m * 2 ^ (e + 39).toNat : Nat) : Int)
      (if neg then -x else x, 0)

/-- The value that is converted (11 R456). -/
def exVal (i32 : Bool) (x : Int × Nat) : Val :=
  if x.2 = 3 then .nan else if x.2 = 1 then .inf false else if x.2 = 2 then .inf true
  else if x.1 = 0 then .fin false 0 0 else Val.ofInt x.1 (if i32 then 0 else -39)

/-! ## Gauges (11 R478, R479) -/

/-- The prime of the gauge. -/
def gP : Nat := 2 ^ 61 - 1

/-- Coefficient of element e (11 R478). -/
def gCoef (key cid step e : Nat) : Nat :=
  (barm key (barmCtr (cid + 2 ^ 23) e 4 step) * 2 ^ 32 + barm key (barmCtr cid e 4 step)) % gP

/-- The term of one element. -/
def gTerm (key cid step e : Nat) (x : Int) : Nat := gCoef key cid step e * (x % (gP : Int)).toNat % gP

/-- Gauge of the finite elements of chunk k that `keep` selects (11 R479). -/
def gaugeOf (key cid step kind k : Nat) (keep : Nat → Bool) (vs : List (Int × Nat)) : Nat :=
  (vs.zipIdx.foldl (fun (n : Nat) (t : (Int × Nat) × Nat) =>
    if t.1.2 ≠ 0 ∨ isMaxPos kind t.2 ∨ ! keep t.2 then n else n + gTerm key cid step (128 * k + t.2) t.1.1) 0) % gP

/-! ## Slots and their records (11 R460, R461) -/

def tslotDefault (_ : Nat) : TSlot := {}

/-- Slot sl of partition p on die d. -/
def State.tslot (s : State) (d p sl : Nat) : TSlot := mget tslotDefault s.tslots ((d * 8 + p % 8) * 64 + sl % 64)
def State.putTslot (s : State) (d p sl : Nat) (x : TSlot) : State :=
  { s with tslots := mset tslotDefault s.tslots ((d * 8 + p % 8) * 64 + sl % 64) x }

/-- A field of a slot's latched record. -/
def TSlot.f (x : TSlot) (f : Fld) : Nat := bits x.rec_ f.lo f.w

def TSlot.kind (x : TSlot) : Nat := x.f tunCollKind
def TSlot.nelem (x : TSlot) : Nat := x.f tunCollNelem
def TSlot.nch (x : TSlot) : Nat := (x.nelem + 127) / 128
def TSlot.nbuf (x : TSlot) : Nat := x.f tunCollNbuf
/-- The collective is in I32 units. -/
def TSlot.i32 (x : TSlot) : Bool := x.f tunCollIfmt % 2 = 1
/-- The output is converted: QF16 or I32, and not a STATUS. -/
def TSlot.native (x : TSlot) : Bool := x.kind ≠ 2 && decide (x.f tunCollOfmt < 2)
/-- The output is retained. -/
def TSlot.fx (x : TSlot) : Bool := x.f tunCollOfmt = 2

/-- The axis of a slot on its die: members, coordinate. -/
def State.slotP (s : State) (d : Nat) (x : TSlot) : Nat := s.rf d (oTunAxis x.tag (x.f tunCollAxis)) tunAxisP
def State.slotC (s : State) (d : Nat) (x : TSlot) : Nat := s.rf d (oTunAxis x.tag (x.f tunCollAxis)) tunAxisC
def State.slotA2A (s : State) (d : Nat) (x : TSlot) : Bool := s.rf d (oTunAxis x.tag (x.f tunCollAxis)) tunAxisTopo = 1

/-- Chunks of a segment (11 R461). -/
def segLen (nch p : Nat) : Nat := if p = 0 then 0 else (nch + p - 1) / p

/-- Chunks that segment g holds. -/
def segSize (nch p g : Nat) : Nat :=
  let b := segLen nch p
  min ((g + 1) * b) nch - min (g * b) nch

/-- Member c + k · δ (11 "Schedules"). -/
def ringStep (p c k : Nat) (prev : Bool) : Nat := if prev then (c + p - k % p) % p else (c + k) % p

/-- Segment that a ring member handles j-th: it starts that of member c − δ, and ends with its own (11 R472; DEDUCED, log entry 28). -/
def schedSeg (p c : Nat) (prev : Bool) (j : Nat) : Nat := ringStep p c (j + 1) (! prev)

/-- Chunk at position i of a ring member's schedule, from its j-th segment on. -/
def schedFrom (nch p c : Nat) (prev : Bool) : Nat → Nat → Nat → Nat
  | 0, _, i => i
  | n + 1, j, i =>
    let g := schedSeg p c prev j
    let z := segSize nch p g
    if i < z then g * segLen nch p + i else schedFrom nch p c prev n (j + 1) (i - z)

/-- Chunk at position i of the schedule; ascending in a group and with one member. -/
def State.sched (s : State) (d : Nat) (x : TSlot) (i : Nat) : Nat :=
  let p := s.slotP d x
  if s.slotA2A d x ∨ p ≤ 1 then i else schedFrom x.nch p (s.slotC d x) (x.f tunCollDir = 1) p 0 i

/-- Position of chunk k. -/
def State.schedPos (s : State) (d : Nat) (x : TSlot) (k : Nat) : Nat :=
  let p := s.slotP d x
  if s.slotA2A d x ∨ p ≤ 1 then k else
  let b := segLen x.nch p
  let c := s.slotC d x
  let prev := x.f tunCollDir = 1
  let g := if b = 0 then 0 else k / b
  let j := (if prev then (g + p - c % p) else (c + p - g % p)) % p
  let j := (j + p - 1) % p
  sumBy (fun i => segSize x.nch p (schedSeg p c prev i)) (List.range j) + (k - g * b)

/-- Buffer of chunk k. -/
def TSlot.bufOf (x : TSlot) (k : Nat) : Nat := x.f tunCollCbuf + (if x.nbuf = 0 then 0 else k % x.nbuf)

def chunkDefault (_ : Nat) : Chunk := {}

/-- Chunk k's buffer is held by chunk k − NBUF, so that its message waits (11 R475). -/
def TSlot.bufHeld (x : TSlot) (k : Nat) : Bool := decide (x.nbuf ≤ k) && ((mfind x.chunks (k - x.nbuf)).any (fun c => c.held))

/-- Chunk k's buffer is held by a chunk that comes before it in the schedule, so that its reads wait (DEDUCED, log entry 28). -/
def State.readHeld (s : State) (d : Nat) (x : TSlot) (k : Nat) : Bool :=
  x.chunks.any (fun (t : Nat × Chunk) => t.2.held && decide (t.1 ≠ k) && x.bufOf t.1 = x.bufOf k &&
    decide (s.schedPos d x t.1 < s.schedPos d x k))

/-- BARM_KEY of the slot's tag. -/
def State.slotKey (s : State) (d : Nat) (x : TSlot) : Nat := s.rf d (oBarmKey x.tag) barmKeyKey

/-- Gauge of values of chunk k in a slot. -/
def State.slotGauge (s : State) (d : Nat) (x : TSlot) (k : Nat) (keep : Nat → Bool) (vs : List (Int × Nat)) : Nat :=
  gaugeOf (s.slotKey d x) (x.f tunCollCid) x.step x.kind k keep vs

/-- The values of a chunk stored in its buffer (11 R451). -/
def State.bufStore (s : State) (d : Nat) (x : TSlot) (k : Nat) (vs : List (Int × Nat)) (psn : Bool) : State :=
  let o := x.bufOf k * 2048
  let s := s.write (.tunBuf d) o (vs.flatMap (fun v => toBytes 16 (tc 128 v.1)))
  if psn then s.poisonRange (.tunBuf d) o 2048 else s

/-! ## Faults and mismatches (11 R452, R482, R490, R779) -/

/-- Record a fault of a collective in TUN_FAULT. -/
def State.tunFault (s : State) (d p sl : Nat) (x : TSlot) (code rcode : Nat) : State :=
  s.faultReg d (oTunFault p) tunFaultValid tunFaultMore
    [(tunFaultCode, code), (tunFaultCtx, ctxLocal x.c), (tunFaultOpc, 0x71), (tunFaultTag, x.tag), (tunFaultSlot, sl), (tunFaultRcode, rcode)]

/-- A chunk message that cannot be sent or is refused: the COLLECT does not complete (11 R779; 16 R685). -/
def State.chunkFail (s : State) (d p sl : Nat) (x : TSlot) (code rcode : Nat) : State :=
  let s := s.putTslot d p sl { s.tslot d p sl with failed := true }
  let free := s.faultFree d (oTunFault p) tunFaultValid
  let s := (s.tunFault d p sl x code rcode).report
    { die := d, tag := x.tag, part := p, cls := 0x12, detail := code, island := 26, sub := sl, unit := free }
  if code = 9 then s.bondReport { die := d, tag := x.tag, part := p, cls := 0x12, detail := code, island := 26 } else s

/-- A check fails on chunk k (11 R482); in a STATUS collective the job ends (R490). -/
def State.mismatch (s : State) (d p sl : Nat) (x : TSlot) (k check named : Nat) (cnt : Bool) (cls : Nat) (ino : Bool) : State :=
  let o := oTunMm x.tag
  let n := s.rf d o tunMmScnt
  let s := s.wf d o tunMmScnt (if n < 65535 then n + 1 else n)
  let s := if s.rf d o tunMmValid = 1 then s else
    s.wfs d o [(tunMmValid, 1), (tunMmCid, x.f tunCollCid), (tunMmChunk, k), (tunMmNamed, named), (tunMmCheck, check),
      (tunMmCnt, if cnt then 1 else 0)]
  let s := s.logErr { cls := cls, die := d, island := 26, tagv := true, tag := x.tag, part := p, named := named, inoc := ino, detail := k }
  if x.kind = 2 then
    (s.tunFault d p sl x 0x23 0).report
      { die := d, tag := x.tag, part := p, cls := 0x0B, detail := 0x23, island := 26, sub := sl, named := named, cause := 0x0A,
        unit := s.faultFree d (oTunFault p) tunFaultValid }
  else s

/-! ## Reading the POURs (11 R463–R465) -/

def poQUEUE (w : InstrWord) : Nat := wbits w 20 8
def poSDESC (w : InstrWord) : Nat := wbits w 28 10
def poHDIE (w : InstrWord) : Nat := wbits w 38 3
def poSLOT (w : InstrWord) : Nat := wbits w 41 6
def poCHAIN (w : InstrWord) : Bool := wbit w 47
def poSSLOT (w : InstrWord) : Nat := wbits w 48 6

/-- Elements of chunk k that a POUR contributes from its descriptor: those that its die holds (11 R463; DEDUCED, log entry 30). -/
def State.pourElems (s : State) (x : TSlot) (p : Pour) (k : Nat) : List Nat :=
  ((List.range 128).map (128 * k + ·)).filter (fun e => decide (e < x.nelem) && decide (e < p.desc.count) &&
    s.dieHolds p.d p.tag p.desc (unlinear p.desc.exts e))

/-- A POUR has something to read in chunk k by a request. -/
def State.pourReads (s : State) (x : TSlot) (p : Pour) (k : Nat) : Bool := ! poCHAIN p.word && decide (s.pourElems x p k ≠ [])

/-- Chunk k's record, made when it enters the window or a partial arrives. -/
def TSlot.chunk (x : TSlot) (k : Nat) : Chunk :=
  (mfind x.chunks k).getD { loc := emptyVals x.kind (x.nelem - 128 * k), fx := List.replicate 128 0 }

def TSlot.putChunk (x : TSlot) (k : Nat) (c : Chunk) : TSlot := { x with chunks := mput x.chunks k c }

/-- Values of one POUR for chunk k: elements with their values, gauged and added to the local sum (11 R464, R480, R481); `fin` says that
they are the POUR's last of the chunk. Elements make the chunk hold its buffer (11 R475). -/
def State.feed (s : State) (d : Nat) (x : TSlot) (k : Nat) (es : List (Nat × (Int × Nat))) (psn fin : Bool) : TSlot :=
  let c := x.chunk k
  let val (l : Nat) : Option (Int × Nat) := (es.find? (fun (t : Nat × (Int × Nat)) => t.1 = 128 * k + l)).map (fun t => t.2)
  let loc := c.loc.zipIdx.map (fun (t : (Int × Nat) × Nat) => match val t.2 with
    | none => t.1
    | some v => exAdd x.kind t.2 t.1 v)
  let fx := c.fx.zipIdx.map (fun (t : Int × Nat) => match val t.2 with
    | some (v, 0) => t.1 + v
    | _ => t.1)
  let g := es.foldl (fun (n : Nat) (t : Nat × (Int × Nat)) =>
    if t.2.2 ≠ 0 ∨ isMaxPos x.kind (t.1 % 128) then n
    else n + gTerm (s.slotKey d x) (x.f tunCollCid) x.step t.1 t.2.1) c.lg
  x.putChunk k { c with loc := loc, fx := fx, lg := g % gP, nread := c.nread + (if fin then 1 else 0), psn := c.psn || psn,
                        held := c.held || decide (es ≠ []), dirty := c.dirty || decide (es ≠ []) }

/-- Elements a chained POUR contributes to chunk k: those the retained slot of its die holds. -/
def State.chainElems (s : State) (x : TSlot) (p : Pour) (k : Nat) : List (Nat × (Int × Nat)) × Bool :=
  match mfind (s.tslot p.d p.part (poSSLOT p.word)).ret k with
  | none => ([], false)
  | some (vs, z) => ((vs.zipIdx.map (fun (t : (Int × Nat) × Nat) => (128 * k + t.2, t.1))).filter (fun t => decide (t.1 < x.nelem)), z)

/-- Take from one POUR what needs no request, up to the end of the window; fuel bounds the chunks. -/
def State.pourFeed (s : State) (d : Nat) : Nat → TSlot → Pour → TSlot × Pour
  | 0, x, p => (x, p)
  | n + 1, x, p =>
    if x.cur ≤ p.next then (x, p) else
    let k := s.sched d x p.next
    if poCHAIN p.word ∧ ! p.fin then
      let t := s.chainElems x p k
      State.pourFeed s d n (s.feed d x k t.1 t.2 true) { p with next := p.next + 1 }
    else if s.pourReads x p k then (x, p)
    else State.pourFeed s d n (s.feed d x k [] false true) { p with next := p.next + 1 }

/-- Every POUR of the slot in turn. -/
def State.poursFeed (s : State) (d : Nat) : TSlot → List Pour → TSlot
  | x, [] => x
  | x, p :: ps =>
    let t := s.pourFeed d (x.nbuf + 1) x p
    let y := { t.1 with pours := t.1.pours.map (fun q => if q.id = p.id then t.2 else q) }
    State.poursFeed s d y ps

/-- Positions enter the read-ahead window while it and their buffers allow (11 R464, R475); fuel bounds the positions. -/
def State.enterWindow (s : State) (d : Nat) : Nat → TSlot → TSlot
  | 0, x => x
  | n + 1, x =>
    let w := max 1 (x.nbuf / 2)
    let k := s.sched d x x.cur
    if x.nch ≤ x.cur ∨ w ≤ x.cur - x.low ∨ s.readHeld d x k then x
    else State.enterWindow s d n ({ x.putChunk k (x.chunk k) with cur := x.cur + 1 })

/-- Positions that every chunk has left fall out of the window; fuel bounds the positions. -/
def State.leaveWindow (s : State) (d : Nat) : Nat → TSlot → TSlot
  | 0, x => x
  | n + 1, x =>
    let k := s.sched d x x.low
    let c := x.chunk k
    if x.low < x.cur ∧ c.gone then
      let y := if c.held then x else { x with chunks := mdel x.chunks k }
      State.leaveWindow s d n { y with low := x.low + 1 }
    else x

/-- The sum of a chunk so far. -/
def Chunk.sum (c : Chunk) (kind : Nat) : List (Int × Nat) := if c.narr = 0 then c.loc else exAdds kind c.arr c.loc

/-- The sums that have changed are written to their buffers (11 R451). -/
def State.storeSums (s : State) (d p sl : Nat) : State :=
  let x := s.tslot d p sl
  (x.chunks.filter (fun t => t.2.dirty)).foldl (fun s t =>
    let s := s.bufStore d x t.1 (t.2.sum x.kind) t.2.psn
    s.putTslot d p sl ((s.tslot d p sl).putChunk t.1 { t.2 with dirty := false, stored := true })) s

/-- The window of an armed slot moves on and what needs no request is taken. -/
def State.pump (s : State) (d p sl : Nat) : State :=
  let x := s.tslot d p sl
  if x.state ≠ 1 then s else
  let x := s.leaveWindow d (x.nbuf + 1) x
  let x := s.enterWindow d (x.nbuf + 1) x
  (s.putTslot d p sl (s.poursFeed d x x.pours)).storeSums d p sl

/-- The tun reads the sum of chunk k in its buffer: an uncorrectable codeword poisons the chunk (15 R633, R634). -/
def State.readSum (s : State) (d p sl k : Nat) : State :=
  let x := s.tslot d p sl
  let c := x.chunk k
  if ! c.stored then s else
  let o := x.bufOf k * 2048
  let s := s.readCheck (.tunBuf d) o 2048
  if s.poisoned (.tunBuf d) o 2048 then s.putTslot d p sl (x.putChunk k { c with psn := true }) else s

/-- Register waiting POURs with an armed slot until it has NLOC (11 R463). -/
def TSlot.join : Nat → TSlot → TSlot
  | 0, x => x
  | n + 1, x =>
    match x.waiting with
    | [] => x
    | p :: ps =>
      if x.state = 1 ∧ x.pours.length < x.f tunCollNloc then
        TSlot.join n { x with pours := enq x.pours p, waiting := ps, nreg := x.nreg + 1 }
      else x

/-- The tag is in abort at die d's tun (11 R495). -/
def State.tunAborting (s : State) (d tag : Nat) : Bool := mget (fun _ => false) s.abortTun (d * 256 + tag)

/-- POUR_REGISTER: the oldest registration of die `src` for home die d reaches its slot; one of a tag in abort is discarded (11 R495). -/
def State.pourRegister (s : State) (d src : Nat) : State :=
  match s.tunq.find? (fun p => decide (p.d = src) && poHDIE p.word = d) with
  | none => s
  | some p =>
    let s := { s with tunq := s.tunq.filter (fun q => q.id ≠ p.id) }
    if s.tunAborting d p.tag || s.tunAborting src p.tag then s else
    let x := s.tslot d p.part (poSLOT p.word)
    ((s.unrest d 26).putTslot d p.part (poSLOT p.word) (TSlot.join 1024 { x with waiting := enq x.waiting p })).pump d p.part (poSLOT p.word)

def execPourRegister (d src : Nat) (s : State) : Host.Outcome State Fault Refusal :=
  if s.hasDie d && s.hasDie src then .next (s.pourRegister d src) else .fault .absentUnit

/-! ## The tun's requests through a rack queue (11 R464, R469) -/

/-- Runs of elements of z bytes at given addresses, each at most 512 bytes and within a 4 KiB page (09 R347): its elements and its
address; `cur` is the run that is growing. -/
def elemRuns (z : Nat) : Option (List Nat × Nat) → List (Nat × Nat) → List (List Nat × Nat)
  | cur, [] => cur.toList
  | none, (e, a) :: rest => elemRuns z (some ([e], a)) rest
  | some (es, b), (e, a) :: rest =>
    if a = b + z * es.length ∧ z * (es.length + 1) ≤ pageRoom [b] then elemRuns z (some (es ++ [e], b)) rest
    else (es, b) :: elemRuns z (some ([e], a)) rest

/-- The runs of the given elements of a descriptor; none when a member has no module number. -/
def State.descRuns (s : State) (d tag : Nat) (x : Desc) (es : List Nat) : Option (List (List Nat × Nat)) :=
  (allSome (es.map (fun e => s.elemAddr d tag x false (unlinear x.exts e) 0))).map (fun as => elemRuns (elSize x.fmt) none (es.zip as))

/-- The keys of slots, as die, partition, slot. -/
def State.slotKeys (s : State) : List (Nat × Nat × Nat) :=
  s.tslots.map (fun (t : Nat × TSlot) => (t.1 / 512, t.1 / 64 % 8, t.1 % 64))

/-- The transfer of id n through queue qu has not stopped. -/
def RackQ.live (x : RackQ) (n : Nat) : Bool := (x.getIns n).any (fun i => ! i.stopped)

/-- The next read a POUR of die d issues through queue qu; its ord counts the reads of the chunk that follow it. -/
def State.pourNext (s : State) (d qu : Nat) : Option (Req × RInstr) :=
  s.slotKeys.findSome? (fun (t : Nat × Nat × Nat) =>
    let x := s.tslot t.1 t.2.1 t.2.2
    if x.state ≠ 1 then none else
    x.pours.findSome? (fun p =>
      if p.d ≠ d ∨ poQUEUE p.word ≠ qu ∨ x.cur ≤ p.next ∨ ! (s.rackq d qu).live p.id then none else
      let k := s.sched t.1 x p.next
      let es := s.pourElems x p k
      if es = [] then none else
      match s.descRuns p.d p.tag p.desc es, (s.rackq d qu).getIns p.id with
      | some rs, some i => (rs[p.sub]?).map (fun r =>
          let n := r.1.length * elSize p.desc.fmt
          ({ seq := p.id, what := 7, tag := p.tag, part := p.part, n := n, src := [{ addr := r.2, n := n }], aux := k, lanes := r.1,
             ord := rs.length - 1 - p.sub }, i))
      | _, _ => none))

/-- The next request of the tun through queue qu of die d: a result write that waits, else a read. -/
def State.tunNext (s : State) (d qu : Nat) : Option (Req × RInstr) :=
  let x := s.rackq d qu
  match x.twr.find? (fun q => x.live q.seq) with
  | some q => (x.getIns q.seq).map (fun i => (q, i))
  | none => s.pourNext d qu

/-- A POUR of the given id changes in its slot. -/
def State.onPour (s : State) (id : Nat) (f : Pour → Pour) : State :=
  { s with tslots := s.tslots.map (fun (t : Nat × TSlot) =>
      (t.1, { t.2 with pours := t.2.pours.map (fun p => if p.id = id then f p else p) })) }

/-- The slot a POUR of an id is registered with. -/
def State.pourSlot (s : State) (id : Nat) : Option (Nat × Nat × Nat) :=
  s.slotKeys.find? (fun (t : Nat × Nat × Nat) => (s.tslot t.1 t.2.1 t.2.2).pours.any (fun p => p.id = id))

/-- A request of the tun has been issued; the first local read of a chunk makes it hold its buffer (11 R475). -/
def State.tunIssued (s : State) (d qu : Nat) (q : Req) : State :=
  if q.what = 7 then
    let s := s.onPour q.seq (fun p =>
      { p with next := if q.ord = 0 then p.next + 1 else p.next, sub := if q.ord = 0 then 0 else p.sub + 1, reads := enq p.reads q.aux })
    match s.pourSlot q.seq with
    | none => s
    | some t =>
      let x := s.tslot t.1 t.2.1 t.2.2
      s.putTslot t.1 t.2.1 t.2.2 (x.putChunk q.aux { x.chunk q.aux with held := true })
  else
    let x := s.rackq d qu
    s.putRackq d qu { x with twr := x.twr.filter (fun r => decide (r.seq ≠ q.seq) || decide (r.aux ≠ q.aux) || decide (r.ord ≠ q.ord)) }

/-- Values of a read's elements, with the poison of each. -/
def readVals (i32 : Bool) (z : Nat) : List Nat → List Byte → List Bool → List (Nat × (Int × Nat)) × Bool
  | [], _, _ => ([], false)
  | e :: es, bs, zs =>
    let t := readVals i32 z es (bs.drop z) (zs.drop z)
    ((e, exDecode i32 (ofBytes (bs.take z))) :: t.1, (zs.take z).any id || t.2)

/-- The bytes of a read arrive (11 R464, R481; 15 R639): a poisoned sack poisons the chunk and is consumed. -/
def State.tunRead (s : State) (q : Req) (bs : List Byte) (zs : List Bool) : State :=
  match s.pourSlot q.seq with
  | none => s
  | some t =>
    let x := s.tslot t.1 t.2.1 t.2.2
    match x.pours.find? (fun p => p.id = q.seq) with
    | none => s
    | some p =>
      let v := readVals x.i32 (elSize p.desc.fmt) q.lanes bs zs
      let left := p.reads.erase q.aux
      let y := s.feed t.1 x q.aux v.1 v.2 (! left.contains q.aux && (p.sub = 0 || decide (s.sched t.1 x p.next ≠ q.aux)))
      let y := { y with pours := y.pours.map (fun r => if r.id = p.id then { r with reads := left } else r) }
      let s := (s.putTslot t.1 t.2.1 t.2.2 y).pump t.1 t.2.1 t.2.2
      if v.2 then s.consumed p.d p.tag p.part 26 (q.poisonAddr zs) else s

/-- Every chunk of a POUR has been read, or holds nothing of it from its next position on. -/
def State.pourAll (s : State) (d : Nat) (x : TSlot) (p : Pour) : Bool :=
  p.reads = [] && (List.range (x.nch - p.next)).all (fun i =>
    let k := s.sched d x (p.next + i)
    if poCHAIN p.word then (s.chainElems x p k).1 = [] else ! s.pourReads x p k)

/-- Release the window of a slot that returns to IDLE; what waits for its next arming stays, and so do the counts of TUN_CSTAT
(11 R501). -/
def State.slotIdle (s : State) (d p sl : Nat) : State :=
  let x := s.tslot d p sl
  let own := 1 + 64 * (p % 8) + sl % 64
  let o := (List.range x.nbuf).foldl (fun m b =>
    if mget (fun _ => 0) m (d * 1024 + x.f tunCollCbuf + b) = own then mset (fun _ => 0) m (d * 1024 + x.f tunCollCbuf + b) 0 else m) s.tunOwn
  { s.putTslot d p sl { waiting := x.waiting, nreg := x.nreg, step := x.step } with tunOwn := o }

/-- Drop the tun's transfer of id n from a queue. -/
def State.dropTin (s : State) (d qu n : Nat) : State :=
  let x := s.rackq d qu
  s.putRackq d qu { x with tins := x.tins.filter (fun i => i.seq ≠ n) }

/-- POUR_COMPLETE: the n-th POUR registered with a slot has been read whole; one of a tag in abort on its die posts nothing (11 R495). -/
def State.pourComplete (s : State) (d p sl n : Nat) : State :=
  let x := s.tslot d p sl
  match x.pours[n]? with
  | none => s
  | some q =>
    if x.state ≠ 1 ∨ q.fin ∨ ! s.pourAll d x q then s else
    let s := s.onPour q.id (fun r => { r with fin := true })
    let s := s.dropTin q.d (poQUEUE q.word) q.id
    let s := if s.tunAborting q.d q.tag then s else s.done q.d q.part (wbits q.word 8 12) q.tag
    let s := s.ctxRetire q.d q.c
    if poCHAIN q.word then s.slotIdle q.d q.part (poSSLOT q.word) else s

def execPourComplete (d p sl n : Nat) (s : State) : Host.Outcome State Fault Refusal :=
  if s.hasDie d && decide (p < 8) && decide (sl < 64) then .next (s.pourComplete d p sl n) else .fault .absentUnit

/-! ## POUR and COLLECT (11 R462–R471) -/

/-- The record of a slot, as latched or as written when it is IDLE (11 R466). -/
def State.slotRec (s : State) (d p sl : Nat) : TSlot :=
  let x := s.tslot d p sl
  if x.state = 0 then { rec_ := (s.reg d (oTunColl p sl)).toNat } else x

/-- POURs of die d in the tun's instruction queue (11 R450; DEDUCED, log entry 27). -/
def State.tunqLen (s : State) (d : Nat) : Nat := (s.tunq.filter (fun p => p.d = d)).length

/-- Queue qu of die d is partition p's (09 R350; DEDUCED, log entry 31). -/
def State.queueBad (s : State) (d qu p : Nat) : Bool :=
  s.rf d (oRkQcfg qu) rkQcfgEn = 0 || decide (s.rf d (oRkQcfg qu) rkQcfgPart ≠ p)

/-- Checks of a POUR in the order of 10 R778; the descriptor's answer is given. -/
def State.pourChecks (s : State) (d tag part : Nat) (w : InstrWord) (x : Desc) (dc : Nat × Bool) : List (Bool × Nat) :=
  let r := s.slotRec (poHDIE w) part (poSLOT w)
  let y := s.tslot d part (poSSLOT w)
  let ch := poCHAIN w
  [(decide (wbits w 54 74 ≠ 0) || (ch && decide (poSDESC w ≠ 0)) || (! ch && decide (poSSLOT w ≠ 0)), 1),
   (! ch && s.vcBad d (poQUEUE w) && s.descRemote d tag (s.selHere d tag x) x, 4),
   (decide (s.nDies ≤ poHDIE w), 6),
   (! ch && decide (dc.1 ≠ 0), dc.1),
   ((! ch && (decide (x.fmt ≠ if r.i32 then 2 else 4) || (r.kind = 2 && decide (x.fmt ≠ 2)) || decide (x.count ≠ r.nelem))) ||
      (ch && y.state = 2 && (decide (y.i32 ≠ r.i32) || decide (y.nelem ≠ r.nelem))), 0x15),
   (ch && decide (y.state ≠ 2), 0x20),
   (! ch && (dc.2 || s.queueBad d (poQUEUE w) part), 9)]

/-- Descriptor of a tun instruction read as control was poisoned: consumed, and the context stops (15 R639). -/
def State.tunDescPoison (s : State) (d c i : Nat) : State :=
  let x := s.ctx d c
  (s.ctxTo d c { x with state := cSTOPPED, fopc := (x.ibuf.head?.map (fun w => wbits w 0 8)).getD 0 }).consumed d x.tag x.part 26
    (gaddr (.ctx d) (descOff x.part i))

/-- A tun thread presents a POUR. -/
def State.pour (s : State) (d c : Nat) (w : InstrWord) : State :=
  let x := s.ctx d c
  if 16 ≤ s.tunqLen d then s.hold d c else
  let t := if poCHAIN w then (({} : Desc), false, s) else s.loadDesc d x.part (poSDESC w)
  let s := t.2.2
  if t.2.1 then s.tunDescPoison d c (poSDESC w) else
  let dc := if poCHAIN w then (0, false) else s.descCheck d x.tag x.part (s.selHere d x.tag t.1) t.1
  match firstFail (s.pourChecks d x.tag x.part w t.1 dc) with
  | some k => s.reject d c k (poSLOT w)
  | none =>
    let p : Pour := { id := s.rackSeq, d := d, c := c, tag := x.tag, part := x.part, word := w, desc := t.1 }
    let q := s.rackq d (poQUEUE w)
    let i : RInstr := { word := w, opc := 0x70, c := c, tag := x.tag, part := x.part, seq := s.rackSeq }
    let s := if poCHAIN w then s else (s.unrest d 22).putRackq d (poQUEUE w) { q with tins := enq q.tins i }
    { s with tunq := enq s.tunq p, rackSeq := s.rackSeq + 1 }.accept d c 1 true

def execPour (d c : Nat) (s : State) : Host.Outcome State Fault Refusal := issue (· = 3) (· = 0x70) 0 d c s (s.pour d c)

def coSLOT (w : InstrWord) : Nat := wbits w 28 6
def coDDESC (w : InstrWord) : Nat := wbits w 34 10

/-- Chunks a member holds at the end of the schedule: its own segment in RS, else every chunk (11 R469). -/
def State.needOf (s : State) (d : Nat) (x : TSlot) : Nat :=
  if x.kind = 0 then segSize x.nch (s.slotP d x) (s.slotC d x) else x.nch

/-- First chunk of what the member holds. -/
def State.needFrom (s : State) (d : Nat) (x : TSlot) : Nat :=
  if x.kind = 0 then s.slotC d x * segLen x.nch (s.slotP d x) else 0

/-- Members of a COLLECT's destination that it writes: every one but in RS, where its own segment's elements choose. -/
def State.collectSel (s : State) (d : Nat) (x : TSlot) (y : Desc) : Nat → Nat → Bool := fun i c =>
  if x.kind ≠ 0 then true else
  let lo := 128 * s.needFrom d x
  let n := 128 * s.needOf d x
  (List.range n).any (fun j => decide (lo + j < x.nelem) &&
    (let m := y.dims.getD i {}
     (m.owner (s.axisP d x.tag m.axis) ((unlinear y.exts (lo + j)).getD i 0)).1 = some c))

/-- Checks of a COLLECT in the order of 10 R778. -/
def State.collectChecks (s : State) (d tag part : Nat) (w : InstrWord) (x : TSlot) (y : Desc) (dc : Nat × Bool) : List (Bool × Nat) :=
  let sl := coSLOT w
  let of := x.f tunCollOfmt
  let p := s.slotP d x
  let axisBad := decide (5 < x.f tunCollAxis) || s.rf d (oTunAxis tag (x.f tunCollAxis)) tunAxisEn = 0 || p = 0 ||
    (s.slotA2A d x && decide (8 < p))
  let cb := x.f tunCollCbuf
  let others := s.slotKeys.filter (fun (t : Nat × Nat × Nat) =>
    decide (t.1 = d) && decide ((t.2.1, t.2.2) ≠ (part, sl)) && decide ((s.tslot t.1 t.2.1 t.2.2).state ≠ 0))
  [(decide (wbits w 44 84 ≠ 0), 1),
   (x.kind = 3 || of = 3 || (x.kind = 2 && (! x.i32 || of = 0)) ||
      (decide (of ≠ 2) && s.vcBad d (poQUEUE w) && s.descRemote d tag (s.collectSel d x y) y), 4),
   (x.nbuf = 0 || decide (1024 < cb + x.nbuf) || (of = 2 && ! axisBad && decide (x.nbuf < s.needOf d x)), 7),
   (decide (of ≠ 2) && decide (dc.1 ≠ 0), dc.1),
   (decide (of ≠ 2) && (decide (y.fmt ≠ if of = 0 then 4 else 2) || decide (y.count ≠ if x.kind = 2 then 2 * x.nelem else x.nelem)), 0x15),
   (axisBad, 0x24),
   (decide ((s.tslot d part sl).state ≠ 0), 0x20),
   (others.any (fun t => let z := s.tslot t.1 t.2.1 t.2.2
      decide (cb < z.f tunCollCbuf + z.nbuf) && decide (z.f tunCollCbuf < cb + x.nbuf)), 0x22),
   (others.any (fun t => let z := s.tslot t.1 t.2.1 t.2.2
      decide (z.tag = tag) && decide (z.f tunCollCid = x.f tunCollCid)), 0x21),
   (! s.granted d part 8 d cb (cb + x.nbuf - 1) || (decide (of ≠ 2) && (dc.2 || s.queueBad d (poQUEUE w) part)), 9)]

/-- The indices of its destination that a COLLECT writes: all, but in RS those of its own segment's elements (11 R469). -/
def State.collectWrites (s : State) (d : Nat) (x : TSlot) (y : Desc) : Nat → Nat → Bool := fun i g =>
  if x.kind ≠ 0 then true else
  let lo := 128 * s.needFrom d x
  (List.range (128 * s.needOf d x)).any (fun j => decide (lo + j < x.nelem) && decide ((unlinear y.exts (lo + j)).getD i 0 = g))

/-- A tun thread presents a COLLECT; acceptance arms the slot, and an overlap of its writes is recorded (08 R343, R344). -/
def State.collect (s : State) (d c : Nat) (w : InstrWord) : State :=
  let z := s.ctx d c
  if 16 ≤ s.tunqLen d then s.hold d c else
  let sl := coSLOT w
  let x : TSlot := { state := 1, rec_ := (s.reg d (oTunColl z.part sl)).toNat, word := w, tag := z.tag, part := z.part, c := c,
                     id := s.rackSeq, step := s.rf d (oBarmStep z.tag) barmStepStep }
  let t := if x.fx then (({} : Desc), false, s) else s.loadDesc d z.part (coDDESC w)
  let s := t.2.2
  if t.2.1 then s.tunDescPoison d c (coDDESC w) else
  let dc := if x.fx then (0, false) else s.descCheck d z.tag z.part (s.collectSel d x t.1) t.1
  match firstFail (s.collectChecks d z.tag z.part w x t.1 dc) with
  | some k => s.reject d c k sl
  | none =>
    let x := TSlot.join 1024 { x with desc := t.1, waiting := (s.tslot d z.part sl).waiting }
    let own := (List.range x.nbuf).foldl (fun m b => mset (fun _ => 0) m (d * 1024 + x.f tunCollCbuf + b) (1 + 64 * (z.part % 8) + sl)) s.tunOwn
    let q := s.rackq d (poQUEUE w)
    let ov := if x.fx then [] else s.overlaps d z.tag [{ desc := t.1, idx := s.collectWrites d x t.1 }]
    let s := s.overlapMark d c z.part z.tag ov
    let i : RInstr := { word := w, opc := 0x71, c := c, tag := z.tag, part := z.part, seq := s.rackSeq, ov := decide (ov ≠ []) }
    let s := if x.fx then s else (s.unrest d 22).putRackq d (poQUEUE w) { q with tins := enq q.tins i }
    let s := { s with tunOwn := own, rackSeq := s.rackSeq + 1 }
    ((s.putTslot d z.part sl x).pump d z.part sl).accept d c 1 true

def execCollect (d c : Nat) (s : State) : Host.Outcome State Fault Refusal := issue (· = 3) (· = 0x71) 0 d c s (s.collect d c)

/-! ## Chunk messages (11 R475–R477) -/

/-- Trailing zero bits of a nonzero integer. -/
def trailZ : Nat → Nat → Nat
  | 0, _ => 0
  | f + 1, n => if n % 2 = 1 then 0 else trailZ f (n / 2) + 1

/-- L of R477: the smallest trailing-zero count over the nonzero finite elements. -/
def packL (vs : List (Int × Nat)) : Nat :=
  match (vs.filter (fun v => decide (v.2 = 0) && decide (v.1 ≠ 0))).map (fun v => trailZ 128 v.1.natAbs) with
  | [] => 0
  | z :: zs => zs.foldl min z

/-- The value fits w signed bytes. -/
def fitsB (w : Nat) (x : Int) : Bool :=
  if w = 0 then x = 0 else decide (-((2 ^ (8 * w - 1) : Nat) : Int) ≤ x) && decide (x < ((2 ^ (8 * w - 1) : Nat) : Int))

/-- What lane l stores. -/
def packX (l : Nat) (v : Int × Nat) : Int := if v.2 = 0 then v.1 / ((2 ^ l : Nat) : Int) else 0

/-- W of R477. -/
def packW (l : Nat) (vs : List (Int × Nat)) : Nat := ((List.range 17).find? (fun w => vs.all (fun v => fitsB w (packX l v)))).getD 16

/-- The packed payload: values, then the special-state map when a lane is special. -/
def packed (vs : List (Int × Nat)) : Nat × Nat × Bool × List Byte :=
  let l := packL vs
  let w := packW l vs
  let spc := vs.any (fun v => v.2 ≠ 0)
  (w, l, spc, vs.flatMap (fun v => toBytes w (tc (8 * w) (packX l v))) ++
    if spc then toBytes 32 (vs.zipIdx.foldl (fun (n : Nat) (t : (Int × Nat) × Nat) => n + t.1.2 * 4 ^ t.2) 0) else [])

/-- The values of a packed payload. -/
def unpacked (w l : Nat) (spc : Bool) (bs : List Byte) : List (Int × Nat) :=
  let m := if spc then ofBytes ((bs.drop (128 * w)).take 32) else 0
  (List.range 128).map (fun i =>
    let st := bits m (2 * i) 2
    (if w = 0 ∨ st ≠ 0 then 0 else sx (8 * w) (ofBytes ((bs.drop (w * i)).take w)) * ((2 ^ l : Nat) : Int), st))

/-- The header of R476 without SMOD. -/
def chunkHead (x : TSlot) (d k ph ncon w l : Nat) (spc psn : Bool) (g : Nat) : Nat :=
  x.f tunCollCid + ph * 2 ^ 23 + x.tag * 2 ^ 24 + x.step % 2 ^ 16 * 2 ^ 32 + k * 2 ^ 48 + ncon % 2 ^ 16 * 2 ^ 81 + w * 2 ^ 113 + l * 2 ^ 118 +
    (if spc then 2 ^ 125 else 0) + (if psn then 2 ^ 126 else 0) + g % 2 ^ 61 * 2 ^ 128 + d * 2 ^ 189

/-- Module number of member m of the slot's axis (11 R457). -/
def State.memberOf (s : State) (d : Nat) (x : TSlot) (m : Nat) : Nat :=
  let o := oTunAxis x.tag (x.f tunCollAxis)
  if s.slotA2A d x then bits (s.rf d o tunAxisMem) (16 * m) 16
  else if m = ringStep (s.slotP d x) (s.slotC d x) 1 false then
    (if x.f tunCollDir = 1 ∧ s.slotP d x = 2 then s.rf d o tunAxisPrevmod else s.rf d o tunAxisNextmod)
  else s.rf d o tunAxisPrevmod

/-- Send a chunk message (11 R458, R476); when it cannot be sent the job ends (R779). -/
def State.chunkMsg (s : State) (d p sl : Nat) (o : TOut) : Bool × State :=
  let x := s.tslot d p sl
  let t := s.newRid
  let m : Msg := { typ := mCHUNK, dmod := s.memberOf d x o.dest, ddie := d, tag := x.tag, rid := t.1,
                   body := toBytes 32 (o.head + s.modNum * 2 ^ 97), data := o.data }
  match t.2.sendMsg d (s.rf d (oTunAxis x.tag (x.f tunCollAxis)) tunAxisVc) p m with
  | .error e => (false, s.chunkFail d p sl x (if e = 9 then 9 else 0x19) (if e = 9 then 0 else e))
  | .ok u => (true, u.2.putTslot d p sl { x with acks := enq x.acks (t.1, u.1) })

/-- Chunk k has left the member: its buffer is free unless a result still holds it. -/
def TSlot.leave (x : TSlot) (k : Nat) (hold : Bool) : TSlot := x.putChunk k { x.chunk k with gone := true, held := hold }

/-- NLOC POURs are registered and each has been read for the chunk (11 R464). -/
def TSlot.locally (x : TSlot) (k : Nat) : Bool :=
  decide (x.f tunCollNloc ≤ x.pours.length) && decide (x.f tunCollNloc ≤ (x.chunk k).nread)

/-- Partials chunk k waits for on this member before it goes on (11 R472, R473). -/
def State.waitsFor (s : State) (d : Nat) (x : TSlot) (k : Nat) : Nat :=
  let p := s.slotP d x
  let c := s.slotC d x
  let b := segLen x.nch p
  let g := if b = 0 then 0 else k / b
  if p ≤ 1 then 0
  else if s.slotA2A d x then (if g = c then p - 1 else 0)
  else if schedSeg p c (x.f tunCollDir = 1) 0 = g then 0 else 1

/-- This member owns chunk k's segment. -/
def State.ownsSeg (s : State) (d : Nat) (x : TSlot) (k : Nat) : Bool :=
  let p := s.slotP d x
  let b := segLen x.nch p
  p ≤ 1 || (decide (b ≠ 0) && decide (k / b = s.slotC d x))

/-- Chunks of the window that have not left the member. -/
def State.inWindow (s : State) (d : Nat) (x : TSlot) : List Nat :=
  ((List.range (x.cur - x.low)).map (fun i => s.sched d x (x.low + i))).filter (fun k => ! (x.chunk k).gone)

/-- The member starts chunk k on a ring: it waits for no partial and does not own it (11 R472). -/
def State.starts (s : State) (d : Nat) (x : TSlot) (k : Nat) : Bool :=
  ! s.slotA2A d x && s.waitsFor d x k = 0 && ! s.ownsSeg d x k

/-- The first chunk of the window whose sum is complete, owned or not as asked; those the member starts on a ring go in ascending
order (11 R472). -/
def State.readyChunk (s : State) (d : Nat) (x : TSlot) (own : Bool) : Option Nat :=
  let w := s.inWindow d x
  w.find? (fun k =>
    x.locally k && decide (s.waitsFor d x k ≤ (x.chunk k).narr) && s.ownsSeg d x k = own &&
      (! s.starts d x k || w.all (fun j => ! s.starts d x j || decide (k ≤ j))))

/-- The final or new partial of a chunk: its values, and the gauge they must have (11 R480; DEDUCED, log entry 29). -/
def State.partialOf (s : State) (d : Nat) (x : TSlot) (k : Nat) : List (Int × Nat) × Nat :=
  let c := x.chunk k
  let vs := if c.narr = 0 then c.loc else exAdds x.kind c.arr c.loc
  let special (l : Nat) : Bool := (vs.getD l (0, 0)).2 ≠ 0
  let gone := s.slotGauge d x k special (c.fx.map (fun v => (v, 0)))
  (vs, (c.ag + c.lg + gP - gone) % gP)

/-- The tun adds 2^BIT to lane SUB of the next reduce-phase partial when point 0x30 is in flight (15 R660). -/
def State.inocPartial (s : State) (d : Nat) (vs : List (Int × Nat)) : List (Int × Nat) × Bool × State :=
  let i := s.inoc d
  if i.point ≠ 0x30 then (vs, false, s)
  else (vs.zipIdx.map (fun (t : (Int × Nat) × Nat) => if t.2 = i.sub % 128 ∧ t.1.2 = 0 then (t.1.1 + 2 ^ i.bit, 0) else t.1), true, s.inocClear d)

/-! ## Transfers between dies (01 R24, R25; 08 R318; 10 R429, R430) -/

/-- The slot tables a transfer from die a to die b passes, one for each bridge: by the next bridges unless the other way round is
shorter. The specification gives the direction of host traffic (01 R25) and of racking traffic to another die's memory (08 R318); tun
chunks and QLink messages between dies take the same one (DESIGN CHOICE, log entry 120). -/
def State.bridgePath (s : State) (a b : Nat) : List (Nat × Nat) :=
  let n := s.nDies
  let h := (b + n - a) % n
  if 2 * h ≤ n then (List.range h).map (fun k => ((a + k) % n, 3)) else (List.range (n - h)).map (fun k => ((a + n - k) % n, 4))

/-- Dies that a global address's bytes lie at for a request of die d: those of its memory, D0 for the host, the die of the port for
another module. -/
def State.diesOf (s : State) (d qu tag a : Nat) : List Nat :=
  match s.decodeAddr d none a with
  | .mem r _ => [r.die]
  | .inter x => [(s.interleave x).1]
  | .host _ _ => [0]
  | .remote m _ => [((s.choosePort d (s.queueVc d qu) tag m).map (fun p => p.1)).getD d]
  | _ => []

/-- The bridges a request's data passes on the way from its sources to die d and on to its destinations; a POUR's goes to its home
tun. -/
def State.reqPath (s : State) (d qu : Nat) (q : Req) : List (Nat × Nat) :=
  let body := 3 ≤ q.what && q.what ≤ 5
  (q.src.filter (fun p => decide (p.wait ≠ 3))).flatMap (fun p => (s.diesOf d qu q.tag p.addr).flatMap (fun e => s.bridgePath e d)) ++
  q.dst.flatMap (fun x =>
    (if body then [if s.isLocal x.addr then x.off else ((s.choosePort d (s.queueVc d qu) q.tag x.addr).map (fun p => p.1)).getD d]
     else if x.kind = 1 then [0] else s.diesOf d qu q.tag x.addr).flatMap (fun e => s.bridgePath d e)) ++
  (if q.what = 7 then ((s.pourSlot q.seq).map (fun t => s.bridgePath d t.1)).getD [] else [])

/-- The request a queue would issue next: the tun's, else the head instruction's. -/
def State.headReq (s : State) (d qu : Nat) : Option Req :=
  match s.tunNext d qu with
  | some (q, _) => some q
  | none => match (s.rackq d qu).ins.find? (fun i => ! i.full) with
    | none => none
    | some i => match s.nextReq d qu i with
      | .req q _ => some q
      | _ => none

/-- The bridges the next chunk message of a slot passes. -/
def State.chunkPath (s : State) (d : Nat) (x : TSlot) (dest : Nat) : List (Nat × Nat) :=
  match s.choosePort d (s.rf d (oTunAxis x.tag (x.f tunCollAxis)) tunAxisVc) x.tag (s.memberOf d x dest) with
  | none => []
  | some p => s.bridgePath d p.1

/-- Member a reduce-phase partial of chunk k goes to (11 R472, R473). -/
def State.partialTo (s : State) (d : Nat) (x : TSlot) (k : Nat) : Nat :=
  if s.slotA2A d x then (let b := segLen x.nch (s.slotP d x); k / b)
  else ringStep (s.slotP d x) (s.slotC d x) 1 (x.f tunCollDir = 1)

/-- Member the next chunk message of a slot goes to. -/
def State.chunkDest (s : State) (d : Nat) (x : TSlot) : Option Nat :=
  if x.state ≠ 1 then none else
  match x.outs with
  | o :: _ => some o.dest
  | [] => (s.readyChunk d x false).map (s.partialTo d x)

/-- Bridges an answer passes from its die to the port that sends it. -/
def State.backPath (s : State) (b : Back) : List (Nat × Nat) :=
  s.bridgePath b.die (((s.choosePort b.die b.ch b.msg.tag b.msg.dmod).map (fun p => p.1)).getD b.d)

/-- Received messages that wait to pass to another die, and answers that wait to come back. -/
def State.messageWaits (s : State) (d t : Nat) : List (Nat × Nat) :=
  s.ports.flatMap (fun (e : Nat × Port) => (List.range 14).filterMap (fun ch =>
    match (s.rxch (e.1 / 3) (e.1 % 3) ch).msg with
    | none => none
    | some m => if m.typ < 0x10 ∧ (s.bridgePath (e.1 / 3) m.ddie).contains (d, t) then some (ch, m.tag) else none)) ++
  (s.backs.filter (fun b => (s.backPath b).contains (d, t))).map (fun b => (b.ch, b.msg.tag))

/-- Channel and tag of the traffic that waits to pass a bridge (table t of die d): requests, chunk messages, received messages, answers. -/
def State.bridgeWaits (s : State) (d t : Nat) : List (Nat × Nat) :=
  s.rackqs.filterMap (fun (e : Nat × RackQ) => match s.headReq (e.1 / 257) (e.1 % 257) with
    | none => none
    | some q => if (s.reqPath (e.1 / 257) (e.1 % 257) q).contains (d, t) then some (s.queueVc (e.1 / 257) (e.1 % 257), q.tag) else none) ++
  s.slotKeys.filterMap (fun (k : Nat × Nat × Nat) =>
    let x := s.tslot k.1 k.2.1 k.2.2
    match s.chunkDest k.1 x with
    | none => none
    | some m => if (s.chunkPath k.1 x m).contains (d, t) then some (s.rf k.1 (oTunAxis x.tag (x.f tunCollAxis)) tunAxisVc, x.tag) else none) ++
  s.messageWaits d t

/-- Carry count v of a slot table (10 R449); 0 is ring liquor. -/
def State.carry (s : State) (d t v : Nat) : Nat := bits (s.rf d (oSlotStat t) slotStatCarry) (4 * v) 4

/-- The channel among l with the largest carry count, the lower on a tie, if any has one. -/
def bestCarry (f : Nat → Nat) (l : List Nat) : Option Nat :=
  l.foldl (fun b v => if f v = 0 then b else match b with
    | none => some v
    | some w => if f w < f v then some v else b) none

/-- The owner of a bridge's current slot has traffic ready (10 R429). -/
def State.ownerReady (s : State) (h : Nat × Nat) : Bool :=
  let own := (s.slotHolder h.1 h.2).1
  if own = 17 then decide ((s.ring h.1).send ≠ []) else
  decide (own ≠ 0) && (s.bridgeWaits h.1 h.2).any (fun t => s.slotFor h.1 h.2 (t.1 + 1) t.2)

/-- The carried owner that unreserved capacity of a bridge goes to (10 R430): channel v, or 0 for ring liquor. -/
def State.bridgeCarried (s : State) (h : Nat × Nat) : Option Nat :=
  let w := s.bridgeWaits h.1 h.2
  bestCarry (s.carry h.1 h.2) ((if h.2 = 3 ∧ (s.ring h.1).send ≠ [] then [0] else []) ++
    ((List.range 13).map (· + 1)).filter (fun k => w.any (fun t => t.1 = k)))

/-- A bridge takes data of channel v and a tag now: in a slot it holds, or in capacity whose owner has nothing ready as a carried owner
or, when none waits, as best-effort traffic (10 R429, R430; DESIGN CHOICE, log entry 96). -/
def State.bridgeTakes (s : State) (v tag : Nat) (h : Nat × Nat) : Bool :=
  if s.slotFor h.1 h.2 (v + 1) tag then true
  else if s.ownerReady h then false
  else match s.bridgeCarried h with
    | some k => decide (k = v) && decide (k ≠ 0)
    | none => decide (v ≤ 1)

/-- Ring liquor of a tag passes the next bridge of die d now. -/
def State.liquorTakes (s : State) (d tag : Nat) : Bool :=
  s.slotFor d 3 17 tag || (! s.ownerReady (d, 3) && s.bridgeCarried (d, 3) = some 0)

/-- Every bridge of a path takes data of channel v and a tag. -/
def State.bridgesTake (s : State) (v tag : Nat) (path : List (Nat × Nat)) : Bool := path.all (s.bridgeTakes v tag)

/-- CHUNK_SEND: a pending result-phase message, else the next reduce-phase partial, is sent. -/
def State.chunkSend (s : State) (d p sl : Nat) : State :=
  let x := s.tslot d p sl
  if x.state ≠ 1 ∨ ! ((s.chunkDest d x).all (fun m =>
      s.bridgesTake (s.rf d (oTunAxis x.tag (x.f tunCollAxis)) tunAxisVc) x.tag (s.chunkPath d x m))) then s else
  match x.outs with
  | o :: os => (s.putTslot d p sl { x with outs := os }).chunkMsg d p sl o |>.2
  | [] =>
    match s.readyChunk d x false with
    | none => s
    | some k =>
      let s := s.readSum d p sl k
      let x := s.tslot d p sl
      let c := x.chunk k
      let e := s.partialOf d x k
      let t := if c.psn then (e.1, false, s) else s.inocPartial d e.1
      let s := t.2.2
      let bad := ! c.psn && decide (s.slotGauge d x k (fun _ => true) t.1 ≠ e.2)
      let s := if bad then s.mismatch d p sl x k 1 s.modNum false 0x0A t.2.1 else s
      let psn := c.psn || bad
      let pk := packed t.1
      let h := chunkHead x d k 0 (c.ncon + 1) (if psn then 0 else pk.1) (if psn then 0 else pk.2.1) (! psn && pk.2.2.1) psn e.2
      let u := s.chunkMsg d p sl { dest := s.partialTo d x k, head := h, data := if psn then [] else pk.2.2.2 }
      if ! u.1 then u.2 else
      let s := u.2.bufStore d x k t.1 psn
      (s.putTslot d p sl ((s.tslot d p sl).leave k false)).pump d p sl

def execChunkSend (d p sl : Nat) (s : State) : Host.Outcome State Fault Refusal :=
  if s.hasDie d && decide (p < 8) && decide (sl < 64) then .next (s.chunkSend d p sl) else .fault .absentUnit

/-! ## Results (11 R456, R469, R474, R486) -/

/-- Bytes of an element in the converted output. -/
def TSlot.outSize (x : TSlot) : Nat := if x.f tunCollOfmt = 0 then 2 else 4

/-- One element converted (11 R456): its code, and its counts. -/
def TSlot.convert (x : TSlot) (v : Int × Nat) : Nat × Cnt :=
  let i32out := x.f tunCollOfmt = 1
  let e : Int := (if i32out then 0 else sx 8 (x.f tunCollSxo)) - (if x.i32 then 0 else sx 8 (x.f tunCollSxi))
  if i32out then
    let r := convInt i32Lo i32Hi (exVal x.i32 v) e .rne
    (tc 32 r.1, r.2)
  else convQF16 (exVal x.i32 v) e .rne

/-- The result values as a receiver of the result phase reads them: codes in the units of R453 (11 R479). -/
def TSlot.codeVals (x : TSlot) (cs : List Nat) : List (Int × Nat) := cs.map (exDecode (x.f tunCollOfmt = 1))

/-- Codes of a converted payload. -/
def codesOf (z : Nat) (bs : List Byte) : List Nat := (List.range 128).map (fun l => ofBytes ((bs.drop (z * l)).take z))

/-- Bytes written for a chunk's elements: codes of a converted output, or the two words of a STATUS element (11 R486). -/
def TSlot.outBytes (x : TSlot) (cs : List Nat) (vs : List (Int × Nat)) : List Byte :=
  if x.kind = 2 then vs.flatMap (fun v => toBytes 8 (tc 64 v.1)) else cs.flatMap (toBytes x.outSize)

/-- Requests that write bytes to runs of the destination's elements. -/
def TSlot.outReqs (x : TSlot) (k : Nat) (psn : Bool) : Nat → List (List Nat × Nat) → List Byte → List Req
  | _, [], _ => []
  | ord, r :: rs, bs =>
    let n := r.1.length * x.outSize
    { seq := x.id, what := 8, tag := x.tag, part := x.part, n := n, aux := k, ord := ord,
      dst := [{ addr := r.2, n := n, ord := r.1.headD 0, alen := x.outSize, els := 1 }],
      src := [{ n := n, wait := 3, data := bs.take n, pz := List.replicate n psn }] } :: TSlot.outReqs x k psn (ord + 1) rs (bs.drop n)

/-- A chunk's values stand in its buffer (11 R451); its result is retained, or its writes are handed to the rack queue (11 R469). -/
def State.deliver (s : State) (d p sl k : Nat) (cs : List Nat) (vs : List (Int × Nat)) (psn : Bool) : State :=
  let x := s.tslot d p sl
  let s := s.bufStore d x k vs psn
  if x.fx then s.putTslot d p sl { (x.leave k false) with ret := mput x.ret k (vs, psn), nfin := x.nfin + 1 }
  else
    let n := min 128 (x.nelem - 128 * k)
    let es := if x.kind = 2 then (List.range (2 * n)).map (256 * k + ·) else (List.range n).map (128 * k + ·)
    let rs := x.outReqs k psn 0 ((s.descRuns d x.tag x.desc es).getD []) (x.outBytes cs vs)
    if rs = [] then s.putTslot d p sl { (x.leave k false) with nfin := x.nfin + 1 } else
    let q := s.rackq d (poQUEUE x.word)
    (s.putRackq d (poQUEUE x.word) { q with twr := q.twr ++ rs }).putTslot d p sl { (x.leave k true) with writes := mput x.writes k rs.length }

/-- One result write of a COLLECT has completed. -/
def State.tunWrote (s : State) (_d : Nat) (q : Req) : State :=
  match s.slotKeys.find? (fun (t : Nat × Nat × Nat) => let x := s.tslot t.1 t.2.1 t.2.2
      decide (x.state = 1) && x.id = q.seq) with
  | none => s
  | some t =>
    let x := s.tslot t.1 t.2.1 t.2.2
    let n := mget n0 x.writes q.aux
    if 1 < n then s.putTslot t.1 t.2.1 t.2.2 { x with writes := mput x.writes q.aux (n - 1) }
    else
      let c := x.chunk q.aux
      let y := { x with writes := mdel x.writes q.aux, nfin := x.nfin + 1 }
      let y := if s.schedPos t.1 x q.aux < x.low then { y with chunks := mdel y.chunks q.aux } else y.putChunk q.aux { c with held := false }
      (s.putTslot t.1 t.2.1 t.2.2 y).pump t.1 t.2.1 t.2.2

/-- Payload of a result-phase message: codes, or packed values (11 R477). -/
def TSlot.resultData (x : TSlot) (cs : List Nat) (vs : List (Int × Nat)) : Nat × Nat × Bool × List Byte :=
  if x.native then (0, 0, false, cs.flatMap (toBytes x.outSize)) else packed vs

/-- The result-phase messages of chunk k to the given members. -/
def State.resultOuts (s : State) (d : Nat) (x : TSlot) (k : Nat) (cs : List Nat) (vs : List (Int × Nat)) (psn : Bool) (g : Nat)
    (tos : List Nat) : List TOut :=
  let pk := x.resultData cs vs
  tos.map (fun t => { dest := t, data := if psn then [] else pk.2.2.2,
                      head := chunkHead x d k 1 (s.slotP d x) (if psn then 0 else pk.1) (if psn then 0 else pk.2.1) (! psn && pk.2.2.1) psn g })

/-- CHUNK_RELEASE: the owner checks the next complete final sum, converts or retains it, sends it on and writes it. -/
def State.chunkRelease (s : State) (d p sl : Nat) : State :=
  let x := s.tslot d p sl
  if x.state ≠ 1 then s else
  match s.readyChunk d x true with
  | none => s
  | some k =>
    let s := s.readSum d p sl k
    let x := s.tslot d p sl
    let c := x.chunk k
    let e := s.partialOf d x k
    let np := s.slotP d x
    let badN := ! c.psn && decide (c.ncon + 1 ≠ np)
    let badG := ! c.psn && decide (s.slotGauge d x k (fun _ => true) e.1 ≠ e.2)
    let s := if badN || badG then s.mismatch d p sl x k 2 s.modNum badN 0x0A false else s
    let psn := c.psn || badN || badG
    let conv := x.native && ! psn
    let ino := conv && (s.inoc d).point = 0x31
    let s := if ino then (s.inocClear d).mismatch d p sl x k 2 s.modNum false 0x0C true else s
    let psn := psn || ino
    let out := e.1.map x.convert
    let cs := if x.native then out.map (fun o => o.1) else []
    let nv := min 128 (x.nelem - 128 * k)
    let s := if conv ∧ ! ino ∧ x.f tunCollHen = 1 then
        (out.take nv).foldl (fun (s : State) (o : Nat × Cnt) => s.count d p (x.f tunCollHset) o.2) s else s
    let g := if psn then 0 else s.slotGauge d x k (fun _ => true) (if x.native then x.codeVals cs else e.1)
    let tos := if x.kind = 0 ∨ np ≤ 1 then [] else if s.slotA2A d x then (List.range np).filter (· ≠ s.slotC d x)
      else [ringStep np (s.slotC d x) 1 (x.f tunCollDir = 1)]
    let y := s.tslot d p sl
    let s := s.putTslot d p sl { y with outs := y.outs ++ s.resultOuts d x k cs e.1 psn g tos }
    (s.deliver d p sl k cs e.1 psn).pump d p sl

def execChunkRelease (d p sl : Nat) (s : State) : Host.Outcome State Fault Refusal :=
  if s.hasDie d && decide (p < 8) && decide (sl < 64) then .next (s.chunkRelease d p sl) else .fault .absentUnit

/-- Every event of R470 has happened. -/
def State.collectReady (s : State) (d : Nat) (x : TSlot) : Bool :=
  x.state = 1 && ! x.failed && decide (x.f tunCollNloc ≤ x.pours.length) && x.pours.all (fun p => p.fin) && x.outs = [] && x.acks = [] &&
    decide (x.low = x.nch) && decide (s.needOf d x ≤ x.nfin)

/-- COLLECT_COMPLETE: DONE is posted, and the slot returns to IDLE or enters RETAINED. -/
def State.collectComplete (s : State) (d p sl : Nat) : State :=
  let x := s.tslot d p sl
  if ! s.collectReady d x then s else
  let s := ((s.dropTin d (poQUEUE x.word) x.id).done d p (wbits x.word 8 12) x.tag).ctxRetire d x.c
  if x.fx then s.putTslot d p sl { x with state := 2, pours := [], chunks := [] } else s.slotIdle d p sl

def execCollectComplete (d p sl : Nat) (s : State) : Host.Outcome State Fault Refusal :=
  if s.hasDie d && decide (p < 8) && decide (sl < 64) then .next (s.collectComplete d p sl) else .fault .absentUnit

/-! ## A chunk message arrives (11 R475, R480, R481) -/

/-- The slot of die d that a message's tag and CID name. -/
def State.collFor (s : State) (d tag cid : Nat) : Option (Nat × Nat × Nat) :=
  s.slotKeys.find? (fun (t : Nat × Nat × Nat) => let x := s.tslot t.1 t.2.1 t.2.2
    decide (t.1 = d) && decide (x.state = 1) && decide (x.tag = tag) && decide (x.f tunCollCid = cid))

/-- The tun of die d takes a chunk message, or leaves it in the link's receive buffer. -/
def State.landChunk (s : State) (d : Nat) (m : Msg) : Landed :=
  let h := ofBytes m.body
  if s.tunAborting d m.tag || ! s.jobEn d m.tag then .dropped else
  match s.collFor d m.tag (bits h 0 23) with
  | none => .hold
  | some (_, p, sl) =>
    let x := s.tslot d p sl
    let k := bits h 48 33
    if bits h 32 16 ≠ x.step % 2 ^ 16 ∨ x.bufHeld k then .hold else
    let psn := bit h 126
    let ph := bit h 23
    let native := ph && x.native
    let cs := if native then codesOf x.outSize m.data else []
    let vs := if native then x.codeVals cs else unpacked (bits h 113 5) (bits h 118 7) (bit h 125) m.data
    let bad := ! psn && decide (s.slotGauge d x k (fun _ => true) vs ≠ bits h 128 61)
    let s := if bad then s.mismatch d p sl x k (if ph then 3 else 0) (bits h 97 16) false 0x0A false else s
    let psn := psn || bad
    if ph then
      let np := s.slotP d x
      let nxt := ringStep np (s.slotC d x) 1 (x.f tunCollDir = 1)
      let b := segLen x.nch np
      let tos := if s.slotA2A d x ∨ (decide (b ≠ 0) ∧ nxt = k / b) then [] else [nxt]
      let y := s.tslot d p sl
      let s := s.putTslot d p sl { y with outs := y.outs ++ s.resultOuts d x k cs vs psn (bits h 128 61) tos }
      .done ((s.deliver d p sl k cs vs psn).pump d p sl)
    else
      let c := x.chunk k
      let c := { c with arr := if c.narr = 0 then vs else exAdds x.kind c.arr vs, narr := c.narr + 1, ag := (c.ag + bits h 128 61) % gP, held := true, dirty := true,
                        ncon := c.ncon + bits h 81 16, psn := c.psn || psn,
                        fx := (c.fx.zip vs).map (fun (t : Int × (Int × Nat)) => if t.2.2 = 0 then t.1 + t.2.1 else t.1) }
      .done ((s.putTslot d p sl ((s.tslot d p sl).putChunk k c)).pump d p sl)

/-- The acknowledgement of a chunk message (11 R470, R779); STAT 0xFF is a port that went down, which ends the job as R554 gives. -/
def State.chunkAck (s : State) (rid stat : Nat) : State :=
  match s.slotKeys.find? (fun (t : Nat × Nat × Nat) => (s.tslot t.1 t.2.1 t.2.2).acks.any (fun a => a.1 = rid)) with
  | none => s
  | some t =>
    let x := s.tslot t.1 t.2.1 t.2.2
    let s := s.putTslot t.1 t.2.1 t.2.2 { x with acks := x.acks.filter (fun a => a.1 ≠ rid) }
    if stat = 0 then s
    else if stat = 0xFF then s.putTslot t.1 t.2.1 t.2.2 { s.tslot t.1 t.2.1 t.2.2 with failed := true }
    else s.chunkFail t.1 t.2.1 t.2.2 x 0x19 stat

/-! ## Abort (11 R495) -/

/-- The slots of a tag return to IDLE, and no POUR of it waits. -/
def tunAbortSlots (tag d : Nat) : List (Nat × Nat × Nat) → State → State
  | [], s => s
  | (e, p, sl) :: ts, s =>
    if e ≠ d then tunAbortSlots tag d ts s else
    let x := s.tslot e p sl
    let s := s.putTslot e p sl { x with waiting := x.waiting.filter (fun q => q.tag ≠ tag), pours := x.pours.filter (fun q => q.tag ≠ tag) }
    tunAbortSlots tag d ts (if x.state ≠ 0 ∧ x.tag = tag then s.slotIdle e p sl else s)

/-- The tun's transfers of a tag through the queues of a die stop. -/
def State.tunStopQs (s : State) (d tag : Nat) : State :=
  { s with rackqs := s.rackqs.map (fun (e : Nat × RackQ) =>
      if e.1 / 257 = d then
        (e.1, { e.2 with tins := e.2.tins.filter (fun i => i.tag ≠ tag), twr := e.2.twr.filter (fun q => q.tag ≠ tag) })
      else e) }

/-- The tag holds a tracker entry on the die (09 R390, 11 R495). -/
def State.tagTracked (s : State) (d tag : Nat) : Bool :=
  (s.rackqsOf d).any (fun e => e.2.outs.any (fun q => q.tag = tag && q.trk)) ||
    (List.range 256).any (fun l => decide ((s.peek (.ctx d) (ledOff l + 6)).toNat = tag) && decide (0 < s.peekN (.ctx d) (ledOff l + 47) 3))

/-- TUN_DRAIN_REPORT. -/
def State.tunDrain (s : State) (d tag : Nat) : State :=
  if s.tunAborting d tag ∧ ! s.tagTracked d tag then
    { s with drainTun := mset (fun _ => false) s.drainTun (d * 256 + tag) true }
  else s

def execTunDrainReport (d tag : Nat) (s : State) : Host.Outcome State Fault Refusal :=
  if s.hasDie d && decide (tag < 256) then .next (s.tunDrain d tag) else .fault .absentUnit

end Sys2Proof.Machine
end

