-- ==== Sys2Proof/Machine/Bridge.lean ====
section
/-!
DEFINITION. Sys2Proof/Machine/Bridge.lean: ring liquor leaves a die for the next one in the slots of its bridge (02_sparge_ring.md R83, R86, R89;
15 R644).
-/
namespace Sys2Proof.Machine

/-- The send buffer sends a beat in a slot that ring liquor holds, or in capacity it has as a carried owner, while it holds a landing credit
(02 R83, R86, 10 R429). -/
def State.bridgeSend (s : State) (d : Nat) : State :=
  let g := s.ring d
  match g.send with
  | [] => s
  | b :: bs =>
    if ! g.long ∨ g.landCred = 0 ∨ ! s.liquorTakes d b.tag then s else
    let e := s.nextDie d
    let near := (s.inoc d).point = 0x15 && (s.inoc d).inst = 0
    let far := ! near && (s.inoc e).point = 0x15 && (s.inoc e).inst = 1
    let hit := near || far
    let s := if near then s.inocClear d else if far then s.inocClear e else s
    let back (g : Ring) : Ring :=
      if g.sendTransit < 4 then { g with sendTransit := g.sendTransit + 1 } else { g with sendCred := g.sendCred + 1 }
    s.putRing d (back { g with send := bs, landCred := g.landCred - 1, wire := enq g.wire { b with crcBad := hit } })

def execBridgeBeatSend (d : Nat) (s : State) : Host.Outcome State Fault Refusal :=
  if s.hasDie d then .next (s.bridgeSend d) else .fault .absentUnit

end Sys2Proof.Machine
end

