-- ==== Sys2Proof/Machine/KettleForm.lean ====
section
/-!
DEFINITION. Sys2Proof/Machine/KettleForm.lean: the fields of kettle groups, how each opcode uses its word, and the interlock
(12_kettle_and_optimizer.md R511, R518–R520, R522).
-/
namespace Sys2Proof.Machine

/-! ## Fields (12 R518, R520) -/

def kD (w : InstrWord) : Nat := wbits w 20 11
def kA (w : InstrWord) : Nat := wbits w 31 11
def kB (w : InstrWord) : Nat := wbits w 42 11
def kC (w : InstrWord) : Nat := wbits w 53 11
/-- Scalar register named at bit lo. -/
def kJ (w : InstrWord) (lo : Nat) : Nat := wbits w lo 10
def kOFF (w : InstrWord) : Nat := wbits w 74 16
def kMFMT (w : InstrWord) : Nat := wbits w 90 4
def kNR (w : InstrWord) : Nat := wbits w 94 6 + 1
def kNL (w : InstrWord) : Nat := wbits w 100 7
/-- Lanes an LD or ST moves (12 R521). -/
def kLanes (w : InstrWord) : Nat := 64 * (kNR w - 1) + kNL w
def kSZ (w : InstrWord) : Nat := if wbit w 90 then 8 else 4
def kTopN (w : InstrWord) : Nat := wbits w 103 7
def kTopK (w : InstrWord) : Nat := wbits w 100 3 + 1
def kTopE (w : InstrWord) : Nat := wbits w 88 12 + 1
def kROW (w : InstrWord) : Nat := wbits w 74 10

def fD : Nat × Nat := (20, 11)
def fA : Nat × Nat := (31, 11)
def fB : Nat × Nat := (42, 11)
def fC : Nat × Nat := (53, 11)

/-- How the groups of an opcode use their word: the fields that are not reserved, the MODE and COUNT checks, the lane and scalar
registers read or written (12 R511), and the class. -/
structure KForm where
  used : List (Nat × Nat)
  mode : Bool := false
  count : Bool := false
  zs : List Nat := []
  js : List Nat := []
  xfer : Bool := false

/-- n registers from r. -/
def regsFrom (r n : Nat) : List Nat := (List.range n).map (fun i => r + i)

/-- Lane operations with one to three sources. -/
def kForm3 (w : InstrWord) : KForm := { used := [fD, fA, fB, fC], zs := [kD w, kA w, kB w, kC w] }
def kForm2 (w : InstrWord) (more : List (Nat × Nat)) : KForm := { used := [fD, fA, fB] ++ more, zs := [kD w, kA w, kB w] }
def kForm1 (w : InstrWord) (more : List (Nat × Nat)) : KForm := { used := [fD, fA] ++ more, zs := [kD w, kA w] }

/-- The form of a word, by its opcode (12 R519, R520, R522). -/
def kForm (w : InstrWord) : KForm := match wbits w 0 8 with
  | 0x80 => kForm2 w []
  | 0x81 => kForm2 w []
  | 0x82 => kForm3 w
  | 0x83 => kForm2 w []
  | 0x84 => kForm2 w []
  | 0x85 => kForm3 w
  | 0x86 => kForm2 w [(64, 2)]
  | 0x87 => { kForm1 w [(64, 3)] with mode := wbits w 64 3 = 7 }
  | 0x88 => kForm1 w [(64, 1)]
  | 0x89 => kForm2 w []
  | 0x8A => kForm2 w []
  | 0x8B => kForm2 w []
  | 0x8C => { kForm2 w [(64, 3)] with mode := decide (5 < wbits w 64 3) }
  | 0x8D => if wbit w 74 then { used := [fA, (64, 11)], zs := [kA w], js := [kJ w 64] }
            else { used := [fD, (64, 11)], zs := [kD w], js := [kJ w 64] }
  | 0x90 => { kForm1 w [(64, 58)] with mode := decide (4 < wbits w 64 3) || decide (4 < wbits w 67 3), js := [kJ w 70, kJ w 112] }
  | 0x91 => { kForm1 w [(64, 60)] with js := [kJ w 64, kJ w 98] }
  | 0x92 => { used := [fD, (64, 58)], mode := decide (wbits w 64 8 < 0x80), zs := [kD w], js := [kJ w 96] }
  | 0x93 => { used := [fD, fA, fC, (64, 50)], zs := [kD w, kA w, kC w], js := [kJ w 104] }
  | 0x98 => { used := [fD, (64, 60)], mode := decide (9 < kMFMT w) || ((kMFMT w = 8 || kMFMT w = 9) && (kNR w % 2 = 1 || decide (kNL w ≠ 64))),
              count := decide (2048 < kD w + kNR w) || decide (64 < kNL w), zs := regsFrom (kD w) (kNR w), js := [kJ w 64, kJ w 107], xfer := true }
  | 0x99 => { used := [fA, (64, 60)], mode := decide (9 < kMFMT w) || ((kMFMT w = 8 || kMFMT w = 9) && (kNR w % 2 = 1 || decide (kNL w ≠ 64))),
              count := decide (2048 < kA w + kNR w) || decide (64 < kNL w), zs := regsFrom (kA w) (kNR w), js := [kJ w 64, kJ w 107], xfer := true }
  | 0x9A => { used := [(64, 37)], js := [kJ w 64, kJ w 91], xfer := true }
  | 0x9B => { used := [(64, 37)], js := [kJ w 64, kJ w 91], xfer := true }
  | 0x9C => { used := [(64, 24)], count := decide (127 < wbits w 74 7 + wbits w 81 6), js := if wbit w 87 then [kJ w 64] else [], xfer := true }
  | 0x9D => { used := [fA, fB, (64, 48)], mode := ! (kMFMT w = 0 || kMFMT w = 1 || kMFMT w = 3),
              count := decide (2048 < kA w + (if kMFMT w = 0 then 8 else 4)),
              zs := kB w :: regsFrom (kA w) (if kMFMT w = 0 then 8 else 4), js := [kJ w 64, kJ w 94], xfer := true }
  | 0x9E => { used := [fD, fC, (64, 53)],
              count := decide (2048 < kD w + kTopK w) || decide (2048 < kC w + kTopK w) || decide (64 < kTopN w) || decide (kTopE w < kTopK w),
              zs := regsFrom (kD w) (kTopK w) ++ regsFrom (kC w) (kTopK w), js := [kJ w 64], xfer := true }
  | 0x9F => { used := [(64, 40)], js := [kJ w 64, kJ w 84, kJ w 94], xfer := true }
  | 0xA0 => { used := [(64, 64)], mode := decide (11 < wbits w 64 4),
              js := kJ w 68 :: kJ w 78 :: (if wbit w 98 then [] else [kJ w 88]) }
  | 0xA1 => { used := [(20, 10), (64, 64)], js := [kJ w 20] }
  | 0xA2 => { used := [(64, 44)], js := [kJ w 64] }
  | 0xA3 => { used := [(64, 10), (76, 32)], js := [kJ w 64] }
  | _ => { used := [(64, 64)] }

/-- A bit outside OPC, DONE and the listed fields is 1. -/
def wordRsvd (w : InstrWord) (fs : List (Nat × Nat)) : Bool :=
  decide (sumBy (fun (f : Nat × Nat) => wbits w f.1 f.2 * 2 ^ f.1) ((0, 20) :: fs) ≠ w.toNat)

/-- A register of the group has a pending write (12 R511). -/
def KCore.hazard (x : KCore) (f : KForm) : Bool :=
  x.pend.any (fun p => p.zw.any (fun t => f.zs.contains (t.1 / 64)) || p.jw.any (fun t => f.js.contains t.1))

end Sys2Proof.Machine
end

