-- ==== Sys2Proof/Machine/KettleNum.lean ====
section
/-!
DEFINITION. Sys2Proof/Machine/KettleNum.lean: binary32 arithmetic of the kettle, its exact special functions, its lane forms and memory
formats, and the master update (12_kettle_and_optimizer.md R506, R521–R528, 04_number_formats.md, 05_training_numerics.md R210–R212).
-/
namespace Sys2Proof.Machine

/-! ## binary32 arithmetic (12 R523) -/

def nan32 : Nat := 0x7FC00000
def inf32 (neg : Bool) : Nat := if neg then 0xFF800000 else 0x7F800000
def zero32 (neg : Bool) : Nat := if neg then 0x80000000 else 0

/-- The binary32 code nearest a finite value, ties to even; a zero keeps its sign. -/
def rne32 (neg : Bool) (m : Nat) (e : Int) : Nat := (convB32 (.fin neg m e) 0 .rne).1

/-- Exact sum of signed m·2^e terms, rounded; zeroes of one sign keep it, every other exact zero is +0. -/
def sum32 (n1 : Bool) (m1 : Nat) (e1 : Int) (n2 : Bool) (m2 : Nat) (e2 : Int) : Nat :=
  let s := addExact (if n1 then -(m1 : Int) else m1) e1 (if n2 then -(m2 : Int) else m2) e2
  if s.1 = 0 then zero32 (m1 = 0 && m2 = 0 && n1 && n2) else rne32 (decide (s.1 < 0)) s.1.natAbs s.2

def fAdd (a b : Nat) : Nat := match decB32 a, decB32 b with
  | .nan, _ => nan32
  | _, .nan => nan32
  | .inf x, .inf y => if x = y then inf32 x else nan32
  | .inf x, .fin _ _ _ => inf32 x
  | .fin _ _ _, .inf y => inf32 y
  | .fin n1 m1 e1, .fin n2 m2 e2 => sum32 n1 m1 e1 n2 m2 e2

/-- Exact product of two decoded values. -/
def mulVal (a b : Val) : Val := match a, b with
  | .nan, _ => .nan
  | _, .nan => .nan
  | .inf x, .inf y => .inf (x != y)
  | .inf x, .fin n m _ => if m = 0 then .nan else .inf (x != n)
  | .fin n m _, .inf y => if m = 0 then .nan else .inf (n != y)
  | .fin n1 m1 e1, .fin n2 m2 e2 => .fin (n1 != n2) (m1 * m2) (e1 + e2)

def fMul (a b : Nat) : Nat := (convB32 (mulVal (decB32 a) (decB32 b)) 0 .rne).1

/-- A × B + C with one rounding. -/
def fFma (a b c : Nat) : Nat := match mulVal (decB32 a) (decB32 b), decB32 c with
  | .nan, _ => nan32
  | _, .nan => nan32
  | .inf x, .inf y => if x = y then inf32 x else nan32
  | .inf x, .fin _ _ _ => inf32 x
  | .fin _ _ _, .inf y => inf32 y
  | .fin n1 m1 e1, .fin n2 m2 e2 => sum32 n1 m1 e1 n2 m2 e2

def isNan32 (a : Nat) : Bool := decB32 a = .nan

/-- Order of the numbers; −0 below +0 when strict, equal otherwise. -/
def key32 (strict : Bool) (a : Nat) : Int :=
  let m : Int := (a % 2 ^ 31 : Nat)
  if a / 2 ^ 31 % 2 = 1 then (if strict then -m - 1 else -m) else m

def fMax (a b : Nat) : Nat := if isNan32 a ∨ isNan32 b then nan32 else if key32 true a < key32 true b then b % 2 ^ 32 else a % 2 ^ 32
def fMin (a b : Nat) : Nat := if isNan32 a ∨ isNan32 b then nan32 else if key32 true b < key32 true a then b % 2 ^ 32 else a % 2 ^ 32

/-- FCMP: OP 0 less, 1 less or equal, 2 equal, 3 unordered. -/
def fCmp (op a b : Nat) : Bool :=
  let un := isNan32 a || isNan32 b
  if op = 3 then un else if un then false
  else if op = 0 then decide (key32 false a < key32 false b)
  else if op = 1 then decide (key32 false a ≤ key32 false b)
  else decide (key32 false a = key32 false b)

/-- FRED: the fixed tree over adjacent lanes; fuel is the number of levels. -/
def treeStep (f : Nat → Nat → Nat) : List Nat → List Nat
  | a :: b :: l => f a b :: treeStep f l
  | l => l

def tree (f : Nat → Nat → Nat) : Nat → List Nat → List Nat
  | 0, l => l
  | n + 1, l => tree f n (treeStep f l)

/-! ## I32 arithmetic -/

def iSat (i : Int) : Nat := tc 32 (clampI i32Lo i32Hi i)
def iAdd (a b : Nat) : Nat := iSat (sx 32 a + sx 32 b)
def iSub (a b : Nat) : Nat := iSat (sx 32 a - sx 32 b)
def iMul (a b : Nat) : Nat := iSat (sx 32 a * sx 32 b)

/-- ILOG: 0 and, 1 or, 2 xor, 3 shift left, 4 logical and 5 arithmetic shift right by B[4:0]. -/
def iLog (op a b : Nat) : Nat :=
  let a := a % 2 ^ 32
  let b := b % 2 ^ 32
  let n := b % 32
  if op = 0 then Nat.land a b else if op = 1 then Nat.lor a b else if op = 2 then Nat.xor a b
  else if op = 3 then a * 2 ^ n % 2 ^ 32 else if op = 4 then a / 2 ^ n else tc 32 (sx 32 a / (2 ^ n : Nat))

/-- SALU on 64-bit scalars (12 R520). -/
def salu (op a b : Nat) : Nat :=
  let n := b % 64
  let r : Nat := match op with
    | 0 => a + b
    | 1 => a + (2 ^ 64 - b % 2 ^ 64)
    | 2 => a * b
    | 3 => Nat.land a b
    | 4 => Nat.lor a b
    | 5 => Nat.xor a b
    | 6 => a * 2 ^ n
    | 7 => a % 2 ^ 64 / 2 ^ n
    | 8 => tc 64 (sx 64 a / (2 ^ n : Nat))
    | 9 => if sx 64 b < sx 64 a then b else a
    | 10 => if sx 64 a < sx 64 b then b else a
    | _ => if sx 64 a < sx 64 b then 1 else 0
  r % 2 ^ 64

/-! ## FSPEC: the binary32 value nearest the exact one (12 R523)

Algebraic functions carry the exact remainder as a sticky bit. The transcendental ones are computed to more than 200 bits below the
result's leading bit and taken as just above the truncated value: their exact values are never halfway between two binary32 numbers,
and no argument's value lies that close to a halfway point (DEDUCED, log entry 47). -/

/-- Bits of a fixed-point number. -/
def spB : Nat := 320
def spOne : Nat := 2 ^ spB
def spMul (a b : Nat) : Nat := a * b / spOne

/-- floor(√n) for n < 4^k. -/
def isqrtGo (n : Nat) : Nat → Nat → Nat
  | 0, r => r
  | k + 1, r => isqrtGo n k (if (r + 2 ^ k) * (r + 2 ^ k) ≤ n then r + 2 ^ k else r)

def isqrt (k n : Nat) : Nat := isqrtGo n k 0

/-- Σ y^k / k! from term t of index k: e^y − 1 for y < 1 when started at t = y, k = 1. -/
def expGo (y : Nat) : Nat → Nat → Nat → Nat → Nat
  | 0, _, _, s => s
  | n + 1, k, t, s => expGo y n (k + 1) (spMul t y / (k + 1)) (s + t)

/-- e^y for y < 2^6, by e^(y/256) squared eight times. -/
def spExp (y : Nat) : Nat :=
  let r := spOne + expGo (y / 256) 120 1 (y / 256) 0
  (List.range 8).foldl (fun r _ => spMul r r) r

/-- 2 · atanh(z) = Σ 2 z^(2k+1) / (2k + 1), z ≤ 1/3. -/
def atanhGo (z2 : Nat) : Nat → Nat → Nat → Nat → Nat
  | 0, _, _, s => s
  | n + 1, k, t, s => atanhGo z2 n (k + 2) (spMul t z2) (s + 2 * t / k)

def spLn (num den : Nat) : Nat :=
  let z := (num - den) * spOne / (num + den)
  atanhGo (spMul z z) 110 1 z 0

def spLn2 : Nat := spLn 2 1

/-- atan(1/q) = Σ (−1)^k / ((2k+1) q^(2k+1)). -/
def atanGo (q2 : Nat) : Nat → Nat → Int → Nat → Int → Int
  | 0, _, _, _, s => s
  | n + 1, k, sg, t, s => atanGo q2 n (k + 2) (-sg) (t / q2) (s + sg * ((t / k : Nat) : Int))

def spAtan (q : Nat) : Int := atanGo (q * q) 140 1 1 (spOne / q) 0
def spPi : Nat := (16 * spAtan 5 - 4 * spAtan 239).toNat

/-- Σ (−1)^n x^(2n+1) / (n! (2n+1)) with t = x^(2n+1)/n!. -/
def erfGo (x2 : Nat) : Nat → Nat → Nat → Int → Int → Int
  | 0, _, _, _, s => s
  | n + 1, k, t, sg, s => erfGo x2 n (k + 1) (spMul t x2 / (k + 1)) (-sg) (s + sg * ((t / (2 * k + 1) : Nat) : Int))

/-- A result just above q · 2^−spB (or equal when exact). -/
def sticky (neg exact : Bool) (q : Nat) (e : Int) : Nat := rne32 neg (2 * q + if exact then 0 else 1) (e - 1)

/-- 2^x, x = ±m·2^e nonzero. -/
def sp2x (neg : Bool) (m : Nat) (e : Int) : Nat :=
  if 8 ≤ log2I m e then (if neg then 0 else inf32 false)
  else if log2I m e < -40 then 0x3F800000
  else
    let v : Int := (if neg then -1 else 1) * (if 0 ≤ e then (m * 2 ^ (spB + e.toNat) : Nat) else (m * spOne / 2 ^ (-e).toNat : Nat))
    let i := v / (spOne : Int)
    let f := (v - i * (spOne : Int)).toNat
    if f = 0 then rne32 false 1 i else sticky false false (spExp (spMul f spLn2)) (i - spB)

/-- log2 of m·2^e, positive. -/
def spLog2 (m : Nat) (e : Int) : Nat :=
  let l := Nat.log2 m
  let i := (l : Int) + e
  if m = 2 ^ l then rne32 (decide (i < 0)) i.natAbs 0
  else
    let v := i * (spOne : Int) + ((spLn m (2 ^ l) * spOne / spLn2 : Nat) : Int)
    if 0 ≤ v then sticky false false v.toNat (-(spB : Int)) else sticky true false ((-v).toNat - 1) (-(spB : Int))

/-- 1 / (m·2^e). -/
def spInv (neg : Bool) (m : Nat) (e : Int) : Nat := sticky neg (decide (2 ^ 128 % m = 0)) (2 ^ 128 / m) (-128 - e)

/-- √(m·2^e): the exponent is made even. -/
def spSqrt (m : Nat) (e : Int) : Nat :=
  let m' := if e % 2 = 0 then m * 2 ^ 128 else m * 2 ^ 129
  let e' : Int := if e % 2 = 0 then e - 128 else e - 129
  let r := isqrt 100 m'
  sticky false (decide (r * r = m')) r (e' / 2)

/-- 1/√(m·2^e). -/
def spRsqrt (m : Nat) (e : Int) : Nat :=
  let m' := if e % 2 = 0 then m else m * 2
  let e' : Int := if e % 2 = 0 then e else e - 1
  let q := 2 ^ 256 / m'
  let r := isqrt 130 q
  sticky false (decide (r * r * m' = 2 ^ 256)) r (-128 - e' / 2)

/-- tanh of a magnitude m·2^e. -/
def spTanh (neg : Bool) (m : Nat) (e : Int) : Nat :=
  if 4 ≤ log2I m e then rne32 neg 1 0
  else if log2I m e < -40 then rne32 neg m e
  else
    let x := if 0 ≤ e then m * 2 ^ (spB + e.toNat) else m * spOne / 2 ^ (-e).toNat
    let y := spExp (2 * x)
    sticky neg false ((y - spOne) * spOne / (y + spOne)) (-(spB : Int))

/-- erf of a magnitude m·2^e; below 2^−40 it is x · 2/√π. -/
def spErf (neg : Bool) (m : Nat) (e : Int) : Nat :=
  let c := 2 * spOne * 2 ^ 160 / isqrt 330 (spPi * 2 ^ 320)
  if 3 ≤ log2I m e then rne32 neg 1 0
  else if log2I m e < -40 then sticky neg false (m * c) (e - 160)
  else
    let x := if 0 ≤ e then m * 2 ^ (spB + e.toNat) else m * spOne / 2 ^ (-e).toNat
    let s := erfGo (spMul x x) 420 0 x 1 0
    sticky neg false (s.toNat * c / 2 ^ 160) (-(spB : Int))

/-- FSPEC (12 R520): 0 2^x, 1 log2, 2 1/x, 3 1/√x, 4 √x, 5 tanh, 6 erf. -/
def fSpec (fn a : Nat) : Nat := match decB32 a with
  | .nan => nan32
  | .inf neg => match fn with
    | 0 => if neg then 0 else inf32 false
    | 1 => if neg then nan32 else inf32 false
    | 2 => zero32 neg
    | 3 => if neg then nan32 else 0
    | 4 => if neg then nan32 else inf32 false
    | _ => rne32 neg 1 0
  | .fin neg m e =>
    if m = 0 then
      match fn with
      | 0 => 0x3F800000
      | 1 => inf32 true
      | 2 => inf32 neg
      | 3 => inf32 neg
      | _ => zero32 neg
    else match fn with
      | 0 => sp2x neg m e
      | 1 => if neg then nan32 else spLog2 m e
      | 2 => spInv neg m e
      | 3 => if neg then nan32 else spRsqrt m e
      | 4 => if neg then nan32 else spSqrt m e
      | 5 => spTanh neg m e
      | _ => spErf neg m e

/-! ## Lane forms and CVT (12 R506, R524) -/

/-- A lane decoded in format 0 binary32, 1 binary16, 2 QF16, 3 QB8, 4 I32. -/
def laneVal (f x : Nat) : Val := match f with
  | 0 => decB32 x
  | 1 => decB16 x
  | 2 => decQF16 x
  | 3 => decQB8 (x / 256) x
  | _ => decInt 32 x

/-- A value converted to a lane of format 0, 1, 2 or 4. -/
def laneConv (f : Nat) (v : Val) (k : Int) (r : Rnd) : Nat × Cnt := match f with
  | 0 => convB32 v k r
  | 1 => convB16 v k r
  | 2 => convQF16 v k r
  | _ => let t := convInt i32Lo i32Hi v k r
         (tc 32 t.1, t.2)

/-- Counts of the lanes that carry no poison. -/
def sumCnt (l : List (Cnt × Bool)) : Cnt := l.foldl (fun c (t : Cnt × Bool) => if t.2 then c else c.add t.1) {}

/-- One QB8 block of 32 lanes: lanes with poison give no value to the block and count nothing (DEDUCED, log entry 45). -/
def blockConv (vs : List (Val × Bool)) (k : Int) (rs : List Rnd) : List Nat × Cnt :=
  let one (v : Val × Bool) : Val := if v.2 then .fin false 0 0 else v.1
  let t := convQB8 (vs.map one) k rs
  let z := (vs.filter (fun v => v.2)).length
  (t.2.1.map (fun m => m + 256 * t.1), { t.2.2 with zero := t.2.2.zero - z })

/-- CVT of 64 lanes: the lanes and the counts. -/
def cvtLanes (sf df : Nat) (xs : List (Nat × Bool)) (k : Int) (rs : List Rnd) : List Nat × Cnt :=
  let vs := xs.map (fun (x : Nat × Bool) => (laneVal sf x.1, x.2))
  if df = 3 then
    let a := blockConv (vs.take 32) k (rs.take 32)
    let b := blockConv (vs.drop 32) k (rs.drop 32)
    (a.1 ++ b.1, a.2.add b.2)
  else
    let ts := (vs.zip rs).map (fun (p : (Val × Bool) × Rnd) => (laneConv df p.1.1 k p.2, p.1.2))
    (ts.map (fun t => t.1.1), sumCnt (ts.map (fun t => (t.1.2, t.2))))

/-! ## Floor loads and stores (12 R521; codes of 08 R333) -/

/-- Bytes that n lanes take in a memory format (n a multiple of 128 for limb formats). -/
def memBytes (f n : Nat) : Nat :=
  if f = 0 then (n + 1) / 2
  else if f = 1 ∨ f = 3 then n
  else if f = 4 ∨ f = 6 then 2 * n
  else if f = 5 then 33 * (n / 32) + (if n % 32 = 0 then 0 else 1 + n % 32)
  else if f = 8 then 2 * n
  else if f = 9 then 3 * n
  else 4 * n

/-- Bytes that a store of n lanes writes: a QB8 block that it ends inside is written whole, with zero mantissas at the positions it does not use (04
R158; DESIGN CHOICE, log entry 91). -/
def storeBytes (f n : Nat) : Nat := if f = 5 then 33 * ((n + 31) / 32) else memBytes f n

/-- Alignment of an address (12 R522): the element size of 08 R333; bytes for INT4 and QB8. -/
def memAlign (f : Nat) : Nat :=
  if f = 4 ∨ f = 6 ∨ f = 8 then 2 else if f = 9 then 3 else if f = 2 ∨ f = 7 then 4 else 1

/-- Byte offsets of lane i. -/
def laneBytes (f i : Nat) : List Nat :=
  if f = 0 then [i / 2]
  else if f = 1 ∨ f = 3 then [i]
  else if f = 4 ∨ f = 6 then [2 * i, 2 * i + 1]
  else if f = 5 then [33 * (i / 32), 33 * (i / 32) + 1 + i % 32]
  else if f = 8 then [i / 128 * 256 + i % 128, i / 128 * 256 + 128 + i % 128]
  else if f = 9 then [i / 128 * 384 + i % 128, i / 128 * 384 + 128 + i % 128, i / 128 * 384 + 256 + i % 128]
  else [4 * i, 4 * i + 1, 4 * i + 2, 4 * i + 3]

/-- Formats a load or store converts. -/
def memConverts (f : Nat) : Bool := f = 0 || f = 1 || f = 3 || f = 8 || f = 9

/-- A loaded lane from its bytes (in the order of `laneBytes`), and its counts. -/
def loadLane (f i : Nat) (bs : List Nat) (k : Int) : Nat × Cnt :=
  let b (j : Nat) : Nat := bs.getD j 0
  if f = 0 then convB32 (decInt 4 (b 0 / (if i % 2 = 1 then 16 else 1))) k .rne
  else if f = 1 then convB32 (decInt 8 (b 0)) k .rne
  else if f = 3 then convB32 (decQF8 (b 0)) k .rne
  else if f = 8 then convB32 (Val.ofInt (sx 8 (b 0) * 256 + (b 1 : Int)) 0) k .rne
  else if f = 9 then convB32 (Val.ofInt (sx 8 (b 0) * 65536 + (b 1 : Int) * 256 + (b 2 : Int)) 0) k .rne
  else if f = 5 then (b 1 + 256 * b 0, {})
  else if f = 4 ∨ f = 6 then (b 0 + 256 * b 1, {})
  else (b 0 + 256 * b 1 + 65536 * b 2 + 16777216 * b 3, {})

/-- An integer element of w bits with bounds lo, hi from a binary32 lane. -/
def storeInt (lo hi : Int) (w x : Nat) (k : Int) : Nat × Cnt :=
  let t := convInt lo hi (decB32 x) k .rne
  (tc w t.1, t.2)

/-- The code of a stored lane, and its counts. -/
def storeLane (f x : Nat) (k : Int) : Nat × Cnt :=
  if f = 0 then storeInt (-8) 7 4 x k
  else if f = 1 then storeInt (-128) 127 8 x k
  else if f = 3 then convQF8 (decB32 x) k .rne
  else if f = 8 then storeInt (-32768) 32767 16 x k
  else if f = 9 then storeInt (-8388608) 8388607 24 x k
  else (x, {})

/-- Byte j of the stored lanes of codes cs (12 R521, 04 R157, R179). -/
def storeByte (f : Nat) (cs : List Nat) (j : Nat) : Nat :=
  let c (i : Nat) : Nat := cs.getD i 0
  if f = 0 then c (2 * j) % 16 + 16 * (c (2 * j + 1) % 16)
  else if f = 1 ∨ f = 3 then c j % 256
  else if f = 4 ∨ f = 6 then c (j / 2) / 2 ^ (8 * (j % 2)) % 256
  else if f = 5 then (if j % 33 = 0 then c (32 * (j / 33)) / 256 % 256 else c (32 * (j / 33) + j % 33 - 1) % 256)
  else if f = 8 then c (j / 256 * 128 + j % 128) / 2 ^ (8 * (1 - j % 256 / 128)) % 256
  else if f = 9 then c (j / 384 * 128 + j % 128) / 2 ^ (8 * (2 - j % 384 / 128)) % 256
  else c (j / 4) / 2 ^ (8 * (j % 4)) % 256

/-! ## The master update (05 R210–R212, 12 R526) -/

/-- Exponent of ulp(w) of a QF16 code. -/
def ulpExp (w : Nat) : Int :=
  let e := w / 512 % 64
  if e = 0 then -39 else (e : Int) - 40

/-- The next QF16 code above or below, in value; +0 stands for both zeros. -/
def nextCode (w : Nat) (up : Bool) : Nat :=
  let m := w % 32768
  let neg := decide (w / 32768 % 2 = 1)
  if m = 0 then (if up then 1 else 0x8001)
  else if up != neg then m + 1 + (if neg then 0x8000 else 0)
  else if m = 1 then 0 else m - 1 + (if neg then 0x8000 else 0)

/-- Value of a finite QF16 code as an integer of unit 2^g, g ≤ −39. -/
def codeAt (w : Nat) (g : Int) : Int := (decQF16 w).sig * ((2 ^ ((decQF16 w).exp - g).toNat : Nat) : Int)

/-- The heel of y (unit 2^g) against code w, before any move: rounded in units of ulp(w)·2^−16. -/
def heelOf (y g : Int) (w : Nat) (r : Rnd) : Int :=
  let d := y - codeAt w g
  let q := roundTo d.natAbs (g - (ulpExp w - 16)) 0 r
  if d < 0 then -(q : Int) else (q : Int)

/-- A finite pair: its exact value, unit 2^g. -/
def pairAt (w : Nat) (h g : Int) : Int := codeAt w g + h * ((2 ^ (ulpExp w - 16 - g).toNat : Nat) : Int)

/-- One master update of pair (w, h) by d under SXm: the pair and the counts. -/
def masterUpdate (w : Nat) (h : Int) (d sxm : Nat) (r : Rnd) : Nat × Int × Cnt :=
  match decQF16 w, decB32 d with
  | .fin _ _ _, .fin dn dm de =>
    let ds := de + sx 8 sxm
    let g : Int := if ds < -55 then ds else -55
    let y := pairAt w h g + (if dn then -(dm : Int) else (dm : Int)) * ((2 ^ (ds - g).toNat : Nat) : Int)
    let mx := if y = 0 then none else some (maxEnc y.natAbs g)
    let beyond : Nat × Int × Cnt :=
      if y < 0 then (0xFDFF, -32768, { sat := 1, max := mx }) else (0x7DFF, 32767, { sat := 1, max := mx })
    let c := convQF16 (Val.ofInt y g) 0 .rne
    let w1 := if c.1 % 32768 = 0 then 0 else c.1
    if 0x7DFF < w1 % 32768 then beyond else
    let h1 := heelOf y g w1 r
    let w2 := if 32767 < h1 then nextCode w1 true else if h1 < -32768 then nextCode w1 false else w1
    if 0x7DFF < w2 % 32768 then beyond else
    let h2 := if w2 = w1 then h1 else heelOf y g w2 r
    if w2 % 32768 = 0 ∧ h2 = 0 then (0, 0, { zero := 1 }) else (w2, h2, { max := mx })
  | _, _ => (w, h, { nonf := 1 })

/-- Value of a pair in real units, in binary32 (12 R526). -/
def pairReal (w : Nat) (h : Int) (sxm : Nat) : Nat := match decQF16 w with
  | .nan => nan32
  | .inf neg => inf32 neg
  | .fin neg _ _ =>
    let y := pairAt w h (-55)
    if y = 0 then zero32 (neg && h = 0) else (convB32 (Val.ofInt y (-55)) (-(sx 8 sxm)) .rne).1

/-! ## 2:4 groups and expert choice (07 R269, R277) -/

/-- Positions of a group's lanes 2g and 2g + 1 under a keep mask: position and whether it is kept. -/
def groupLanes (m : Nat) : (Nat × Bool) × (Nat × Bool) :=
  let ks := (List.range 4).filter (fun i => m.testBit i)
  match ks with
  | [] => ((0, false), (1, false))
  | [a] => ((a, true), ((((List.range 4).filter (fun i => decide (i ≠ a))).headD 0), false))
  | a :: b :: _ => ((a, true), (b, true))

/-- A keep mask of more than two positions. -/
def groupBad (m : Nat) : Bool := decide (2 < ((List.range 4).filter (fun i => m.testBit i)).length)

/-- Score i comes before score j (12 R529, 07 R277). -/
def scoreBefore (a b : Nat × Nat) : Bool :=
  let na := isNan32 a.2
  let nb := isNan32 b.2
  if na ≠ nb then nb
  else if na then decide (a.1 < b.1)
  else if key32 false a.2 = key32 false b.2 then decide (a.1 < b.1)
  else decide (key32 false b.2 < key32 false a.2)

/-- The first of the scores (expert, code) left. -/
def bestScore : List (Nat × Nat) → Option (Nat × Nat)
  | [] => none
  | x :: xs => match bestScore xs with
    | none => some x
    | some y => some (if scoreBefore x y then x else y)

/-- The k chosen experts with their scores. -/
def topK : Nat → List (Nat × Nat) → List (Nat × Nat)
  | 0, _ => []
  | k + 1, l => match bestScore l with
    | none => []
    | some x => x :: topK k (l.filter (fun y => decide (y.1 ≠ x.1)))

end Sys2Proof.Machine
end

