-- ==== Sys2Proof/Machine/Racking.lean ====
section
/-!
DEFINITION. Sys2Proof/Machine/Racking.lean: the racking engine: acceptance of its instructions, issue and completion of requests,
streams, the regulator, the tracker, aborts, and the completions of host reads (09_racking_and_streams.md).
-/
namespace Sys2Proof.Machine

/-! ## Acceptance (09 R351, R352, R360, R362, R378, R380–R385) -/

/-- Codes of an offer to a rack queue beyond those of R393: accepted, full queue, descriptor poison consumed. -/
def oOK : Nat := 0
def oFULL : Nat := 0x100
def oPOISON : Nat := 0x101

/-- What acceptance checks of an instruction answer: a code, or the instruction and whether its checks left a PROT for the end. -/
inductive Made where
  | rej (code : Nat)
  | ok (i : RInstr) (prot : Bool)

/-- Run the checks of the word, then those of the descriptors, then those that follow them (10 R778). -/
def State.runChecks (s : State) (d tag part : Nat) (pre : List (Bool × Nat)) (ds : List (Desc × (Nat → Nat → Bool)))
    (post : List (Bool × Nat)) (i : RInstr) : Made :=
  match firstFail pre with
  | some c => .rej c
  | none =>
    let t := s.descChecks d tag part ds
    if t.1 ≠ 0 then .rej t.1 else
    match firstFail post with
    | some c => .rej c
    | none => .ok i t.2

/-- Extents with the first two exchanged when turned. -/
def turnExts (turn : Bool) (l : List Nat) : List Nat := if turn then swap01 l else l

/-- The destination dimension that receives the tiled dimension (09 R360). -/
def tilePos (turn : Bool) (nd : Nat) : Nat := if turn ∧ nd = 2 then 0 else nd - 1

/-- Destination indices that a RACK or TURN writes, dimension by dimension: those of source elements this module holds, in tiles that
move (09 R359, R361). -/
def State.rackWrote (s : State) (d tag : Nat) (i : RInstr) : Nat → Nat → Bool :=
  let w := i.word
  let nd := (i.desc 0).ndim
  let perm (k : Nat) : Nat := if i.opc = 0x51 ∧ k < 2 then 1 - k else k
  let pre (k g : Nat) : List Nat :=
    if i.tiles = 0 then (if rkMODE w = 0 then [g] else [])
    else if perm k = nd - 1 then (if g < rkTLEN w then (List.range i.tiles).map (fun t => t * rkTLEN w + g) else []) else [g]
  s.wroteFrom d tag (i.desc 0) perm pre

/-- Tile slots a RACK or TURN uses (09 R361). -/
def RInstr.tileSlots (i : RInstr) : Nat :=
  let n := min i.tiles ((((i.desc 0).exts.getLastD 0) + rkTLEN i.word - 1) / rkTLEN i.word)
  if i.tiles = 0 then 1 else if rkMODE i.word = 1 then min n (rkDEPTH i.word) else n

/-- RACK and TURN (09 R362). -/
def State.makeRack (s : State) (d tag part qu : Nat) (i : RInstr) : Made :=
  let w := i.word
  let m := rkMODE w
  let tiled := m = 1 || m = 2
  let turn := i.opc = 0x51
  let x := i.desc 0
  let ys := i.descs.drop 1
  let nd := x.ndim
  let sel (y : Desc) : Nat → Nat → Bool := s.selWhere d tag y (s.rackWrote d tag i)
  let exts := let e := turnExts turn x.exts
    if tiled then e.set (tilePos turn nd) (rkTLEN w) else e
  s.runChecks d tag part
    [((m = 0 && (decide (wbits w 52 4 ≠ 0) || decide (wbits w 68 60 ≠ 0) || decide (wbits w 56 12 ≠ 0xFFF))) ||
        (2 ≤ m && (decide (wbits w 52 4 ≠ 0) || decide (wbits w 68 12 ≠ 0))), 1),
     (m = 3 || (m = 2 && s.rf d (oRkQcfg qu) rkQcfgRate = 0) || (tiled && nd = 0) || (turn && (x.fmt = 0 || x.fmt = 5)) ||
        (s.vcBad d qu && (s.descRemote d tag (s.selHere d tag x) x ||
          ys.any (fun y => s.descRemote d tag (sel y) y))), 4),
     (decide (8 < wbits w 52 4) || decide (1023 < wbits w 38 10 + wbits w 48 2), 7)]
    ((x, s.selHere d tag x) :: ys.map (fun y => (y, sel y)))
    [(ys.any (fun y => decide (y.fmt ≠ x.fmt) || decide (y.ndim ≠ nd) || (turn && decide (nd < 2)) || decide (y.exts ≠ exts)), 0x15)]
    i

/-- GATHER (09 R380, R381). -/
def State.makeGather (s : State) (d tag part qu : Nat) (i : RInstr) : Made :=
  let x := i.desc 0
  let k := i.desc 1
  let y := i.desc 2
  s.runChecks d tag part
    [(decide (wbits i.word 59 69 ≠ 0), 1),
     (s.vcBad d qu && (s.descRemote d tag (s.selRows d tag x y) x || s.descRemote d tag selAll k ||
        s.descRemote d tag (s.selHere d tag y) y), 4)]
    [(x, s.selRows d tag x y), (k, selAll), (y, s.selHere d tag y)]
    [(decide (x.ndim = 0) || decide (k.fmt ≠ 2) || decide (y.fmt ≠ x.fmt) || decide (y.ndim ≠ x.ndim) ||
        decide (y.exts.dropLast ≠ x.exts.dropLast) || decide (y.rows ≠ k.count), 0x15)]
    i

/-- SCATTER, plain and add (09 R382; 07 R300). -/
def State.makeScatter (s : State) (d tag part qu : Nat) (i : RInstr) : Made :=
  let w := i.word
  let x := i.desc 0
  let k := i.desc 1
  let y := i.desc 2
  s.runChecks d tag part
    [(decide (wbits w 63 65 ≠ 0) || (rkFORM w = 0 && decide (wbits w 61 2 ≠ 0)), 1),
     ((rkFORM w = 1 && decide (y.fmt ≠ 2) && decide (y.fmt ≠ 7)) ||
        (s.vcBad d qu && (s.descRemote d tag (s.selHere d tag x) x || s.descRemote d tag selAll k ||
          s.descRemote d tag (s.selRows d tag y x) y)), 4)]
    [(x, s.selHere d tag x), (k, selAll), (y, s.selRows d tag y x)]
    [(decide (y.ndim = 0) || decide (k.fmt ≠ 2) || decide (y.fmt ≠ x.fmt) || decide (y.ndim ≠ x.ndim) ||
        decide (y.exts.dropLast ≠ x.exts.dropLast) || decide (x.rows ≠ k.count), 0x15)]
    i

/-- Dispatch form (09 R383, R385). -/
def State.makeDispatch (s : State) (d tag part qu : Nat) (i : RInstr) : Made :=
  let w := i.word
  let x := i.desc 0
  let k := i.desc 1
  let m := i.desc 2
  let r := i.desc 3
  let sn := dpS w + 1
  s.runChecks d tag part
    [(decide (wbits w 113 15 ≠ 0) || decide (wbits w 61 2 ≠ 0), 1),
     (s.vcBad d qu && i.descs.any (fun z => s.descRemote d tag selAll z), 4),
     (decide (65536 < sn * dpQ w) || decide (65536 < sn * dpP w) || decide (65536 < x.row.denseLen), 7)]
    (i.descs.map (fun z => (z, selAll)))
    [(decide (x.ndim = 0) || decide (k.fmt ≠ 2) || decide (k.ndim ≠ 2) || decide (k.exts.getD 1 0 ≠ x.rows) || decide (m.fmt ≠ 2) ||
        decide (m.ndim ≠ 1) || decide (r.fmt ≠ 2) || decide (r.exts ≠ k.exts), 0x15)]
    i

/-- The counts a slot-map return writes: element (e, s) for every sender s (09 R384). -/
def State.countsWritten (s : State) (d : Nat) (w : InstrWord) : Nat → Nat → Bool := fun i g =>
  if i = 0 then g = smEXPERT w else decide (g < s.ledS d (smLEDGER w))

/-- Slot-map form (09 R384, R385). -/
def State.makeSlotMap (s : State) (d tag part qu : Nat) (i : RInstr) : Made :=
  let w := i.word
  let x := i.desc 0
  let y := i.desc 1
  let c := i.desc 2
  let l := smLEDGER w
  let cs := s.selWhere d tag c (s.countsWritten d w)
  s.runChecks d tag part
    [(decide (wbits w 93 35 ≠ 0) || decide (wbits w 61 2 ≠ 0) || decide (wbits w 38 10 ≠ 0), 1),
     (decide (s.ledState d l ≠ 4) ||
        (s.vcBad d qu && (s.descRemote d tag (s.selHere d tag x) x || s.baseRemote y || s.descRemote d tag cs c)), 4),
     (decide (65536 < s.ledS d l * s.ledQ d l) || decide (65536 < s.ledS d l * s.ledP d l), 7)]
    [(x, s.selHere d tag x), (y, s.selHere d tag y), (c, cs)]
    [(decide (x.ndim = 0) || decide (y.fmt ≠ x.fmt) || decide (y.ndim ≠ x.ndim + 1) ||
        decide (y.exts.take (x.ndim - 1) ≠ x.exts.dropLast) || decide (c.fmt ≠ 2) || decide (c.ndim ≠ 2), 0x15),
     (! s.ctxWindow d part (ledOff (smLEDGER w)) 64, 9)]
    i

/-- Cask registers are not valid (09 R378, R399). -/
def State.caskBad (s : State) (d part c : Nat) : Bool :=
  let o := oRkCask part c
  let cb := s.rf d o rkCaskCbase
  let cl := s.rf d o rkCaskClim
  let hb := s.rf d o rkCaskHbase
  ! s.isLocal (bits cb 48 16) || decide (bits cb 44 4 ≠ 2) || decide (cb % 4096 ≠ 0) || decide (cl < 8192) || decide (cl % 4096 ≠ 0) ||
    (decide (s.rf d o rkCaskHlim ≠ 0) && (decide (bits hb 44 4 ≠ 3) || ! s.isLocal (bits hb 48 16) || decide (hb % 64 ≠ 0)))

/-- Bytes of a stash copy, rounded up to sacks (09 R374). -/
def stashLen (x : Desc) : Nat := (x.denseLen + 63) / 64 * 64

/-- Places of a stash copy (09 R375): COFF, HOFF, new CFILL and HFILL, and whether it overflows; none for a stash overflow. -/
def stashPlace (rst : Bool) (cfill hfill clim hlim len : Nat) : Option (Nat × Nat × Nat × Nat × Bool) :=
  let c := if rst then 4096 else cfill
  let h := if rst then 0 else hfill
  if len = 0 then some (c, 0, c, h, false)
  else if c + len ≤ clim then some (c, 0, c + len, h, false)
  else
    let rest := c + len - clim
    if hlim = 0 ∨ hlim < h + rest then none else some (c, h, clim, h + rest, true)

/-- STASH (09 R375, R378). -/
def State.makeStash (s : State) (d tag part qu : Nat) (i : RInstr) : Made :=
  let w := i.word
  let x := i.desc 0
  let c := rkCASK w
  let o := oRkCask part c
  let p := stashPlace (wbit w 50) (s.rf d (oRkCaskst part c) rkCaskstCfill) (s.rf d (oRkCaskst part c) rkCaskstHfill)
    (s.rf d o rkCaskClim) (s.rf d o rkCaskHlim) (stashLen x)
  s.runChecks d tag part
    [(decide (wbits w 51 77 ≠ 0), 1),
     (x.dims.any (fun m => decide (m.shard ≠ 0) && decide (m.axis < 6)) || (s.vcBad d qu && s.baseRemote x), 4)]
    [(x, s.selHere d tag x)]
    [(s.caskBad d part c, 0x16), (p.isNone, 0x17)]
    (match p with
      | none => i
      | some (coff, hoff, _, _, _) =>
        { i with src := coff, dst := hoff, len := stashLen x, caskC := s.rf d o rkCaskCbase + coff,
                 caskN := min (stashLen x) (s.rf d o rkCaskClim - coff), caskH := s.rf d o rkCaskHbase + hoff,
                 caskM := s.rf d o rkCaskCbase + 16 * rkMARK w })

/-- UNSTASH (09 R377, R378). -/
def State.makeUnstash (s : State) (d tag part qu : Nat) (i : RInstr) : Made :=
  let w := i.word
  let y := i.desc 0
  let c := rkCASK w
  let trn := wbit w 50
  s.runChecks d tag part
    [(decide (wbits w 51 77 ≠ 0), 1),
     ((trn && (y.fmt = 0 || y.fmt = 5)) || (s.vcBad d qu && s.descRemote d tag selAll y), 4)]
    [(y, selAll)]
    [(trn && decide (y.ndim < 2), 0x15), (s.caskBad d part c, 0x16)]
    { i with caskM := s.rf d (oRkCask part c) rkCaskCbase + 16 * rkMARK w }

/-- POST with REM = 1 (10 R418, R423). -/
def State.makePost (s : State) (d qu : Nat) (i : RInstr) : Made :=
  let w := i.word
  let loc := s.isLocal (pMOD w)
  match firstFail
    [(decide (wbits w 65 63 ≠ 0), 1), (! loc && s.vcBad d qu, 4), (decide (wbits w 8 12 = 0xFFF), 7),
     (loc && decide (s.nDies ≤ pDIE w), 6)] with
  | some c => .rej c
  | none => .ok i false

/-- Descriptors a word names, in its order. -/
def descIdx (w : InstrWord) : List Nat :=
  let o := wbits w 0 8
  if o = 0x50 ∨ o = 0x51 then
    wbits w 28 10 :: (if 1023 < wbits w 38 10 + wbits w 48 2 then []
      else (List.range (wbits w 48 2 + 1)).map (fun k => wbits w 38 10 + k))
  else if o = 0x52 then [wbits w 28 10, wbits w 38 10, wbits w 48 10]
  else if o = 0x53 then
    (if rkFORM w = 2 then [wbits w 28 10, wbits w 38 10, wbits w 48 10, wbits w 103 10]
     else if rkFORM w = 3 then [wbits w 28 10, wbits w 48 10, wbits w 83 10]
     else [wbits w 28 10, wbits w 38 10, wbits w 48 10])
  else if o = 0x54 ∨ o = 0x55 then [wbits w 28 10]
  else []

/-- Queue a word names. -/
def queueOf (w : InstrWord) : Nat := if wbits w 0 8 = 0x60 then pQUEUE w else rkQUEUE w

/-- The checks of a word offered to the racking engine. -/
def State.makeR (s : State) (d tag part : Nat) (i : RInstr) : Made :=
  let o := i.opc
  let qu := queueOf i.word
  if o = 0x50 ∨ o = 0x51 then s.makeRack d tag part qu i
  else if o = 0x52 then s.makeGather d tag part qu i
  else if o = 0x53 then
    (if rkFORM i.word = 2 then s.makeDispatch d tag part qu i
     else if rkFORM i.word = 3 then s.makeSlotMap d tag part qu i else s.makeScatter d tag part qu i)
  else if o = 0x54 then s.makeStash d tag part qu i
  else if o = 0x55 then s.makeUnstash d tag part qu i
  else s.makePost d qu i

/-- The first request's place, once accepted: cursor, gates, and the instruction already issued whole when it is empty. -/
def State.startR (s : State) (d : Nat) (i : RInstr) : RInstr :=
  let i := { i with gates := rkDEPTH i.word, c0 := s.ctrCount d i.part (wbits i.word 68 12) }
  if i.opc = 0x50 ∨ i.opc = 0x51 then s.copySeek d i
  else if i.opc = 0x52 ∨ (i.opc = 0x53 ∧ rkFORM i.word < 2) then { i with full := i.idx.count = 0 }
  else if i.opc = 0x53 ∧ rkFORM i.word = 2 ∧ i.idx.count = 0 then { i with ph := 3, full := (i.desc 2).count = 0 }
  else i

/-- The indices a slot-map return can write of its data: the rows of its expert, at the senders of its ledger (09 R384). -/
def State.slotRowsWritten (s : State) (d : Nat) (i : RInstr) : Nat → Nat → Bool := fun k g =>
  let l := smLEDGER i.word
  let n := s.ledQ d l + s.ledP d l
  let y := i.desc 1
  if k + 1 = y.ndim then g < s.ledS d l
  else if k + 2 = y.ndim then decide (smEXPERT i.word * n ≤ g) && decide (g < (smEXPERT i.word + 1) * n)
  else true

/-- The destinations of an instruction, in list order, with what it can write of each (08 R343). -/
def State.writesOf (s : State) (d : Nat) (i : RInstr) : List Wrote :=
  let all : Nat → Nat → Bool := fun _ _ => true
  if i.opc = 0x50 ∨ i.opc = 0x51 then
    (i.descs.drop 1).map (fun y => { desc := y, idx := s.rackWrote d i.tag i, dist := 64 * rkSLOT i.word, slots := i.tileSlots })
  else if i.opc = 0x52 then [{ desc := i.desc 2, idx := s.holdsDim d i.tag (i.desc 2) }]
  else if i.opc = 0x53 then
    (if rkFORM i.word < 2 then
      [{ desc := i.desc 2, idx := fun k g => decide (i.idx.count ≠ 0) &&
          (decide (k + 1 = (i.desc 2).ndim) || s.holdsDim d i.tag (i.desc 0) k g) }]
     else if rkFORM i.word = 2 then [{ desc := i.desc 3, idx := all }]
     else [{ desc := i.desc 1, idx := s.slotRowsWritten d i }, { desc := i.desc 2, idx := s.countsWritten d i.word }])
  else if i.opc = 0x55 then [{ desc := i.desc 0, idx := all }]
  else []

/-- What acceptance does beside the queue: the fill pointers of a STASH and the record of an overlap (09 R375, 08 R343, R344). RK_OVL.CTX of an
instruction a kettle thread pushed is its context's number in its own core, without the core (DESIGN CHOICE, log entry 110). -/
def State.acceptR (s : State) (d c : Nat) (i : RInstr) : RInstr × State :=
  let s :=
    if i.opc = 0x54 then
      let k := rkCASK i.word
      let o := oRkCask i.part k
      let st := oRkCaskst i.part k
      match stashPlace (wbit i.word 50) (s.rf d st rkCaskstCfill) (s.rf d st rkCaskstHfill) (s.rf d o rkCaskClim) (s.rf d o rkCaskHlim)
          i.len with
      | none => s
      | some (_, _, cf, hf, ovf) =>
        s.wfs d st ([(rkCaskstCfill, cf), (rkCaskstHfill, hf)] ++ if ovf then [(rkCaskstOvf, 1)] else [])
    else s
  let ov := s.overlaps d i.tag (s.writesOf d i)
  let s := s.overlapMark d c i.part i.tag ov
  ({ i with ov := decide (ov ≠ []) || decide (1 < i.tiles) || (decide (i.opc ≤ 0x51) && decide (2 < i.descs.length)) || ((i.opc = 0x52 || i.opc = 0x53) && i.table.ndim = 1 && i.table.fmt = 5) }, s)

/-- Offer a word to its rack queue for a thread of a job (09 R351, R352). The code says what became of it. -/
def State.rackOffer (s : State) (d c : Nat) (w : InstrWord) : Nat × State :=
  let x := s.ctx d c
  let o := wbits w 0 8
  if ! ((decide (0x50 ≤ o) && decide (o ≤ 0x55)) || o = 0x60) then (2, s) else
  let t := s.loadDescs d x.part (descIdx w)
  let s := t.2.2
  if t.2.1 then (oPOISON, s.consumed d x.tag x.part 22 (gaddr (.ctx d) (descOff x.part ((descIdx w).headD 0)))) else
  let qu := queueOf w
  let i : RInstr := { word := w, opc := o, c := c, ket := isKet c, tag := x.tag, part := x.part, seq := s.rackSeq, descs := t.1 }
  let r := if o = 0x53 ∧ rkFORM w = 3 then s.ledPoison d (smLEDGER w) 0 else (none, s)
  let s := r.2
  if r.1.isSome then (oPOISON, s.consumed d x.tag x.part 22 (r.1.getD 0)) else
  match s.makeR d x.tag x.part i with
  | .rej k => (k, s)
  | .ok i prot =>
    if prot ∨ s.rf d (oRkQcfg qu) rkQcfgEn = 0 ∨ s.rf d (oRkQcfg qu) rkQcfgPart ≠ x.part then (9, s)
    else if s.rf d (oRkQcfg qu) rkQcfgQdepth < (s.rackq d qu).ins.length then (oFULL, s)
    else
      let a := s.acceptR d c i
      let s := a.2.unrest d 22
      let i := s.startR d a.1
      let q := s.rackq d qu
      (oOK, { s.putRackq d qu { q with ins := enq q.ins i } with rackSeq := s.rackSeq + 1 })

/-- A racking thread presents an instruction. -/
def State.rackIssueThread (s : State) (d c : Nat) (w : InstrWord) : State :=
  let t := s.rackOffer d c w
  if t.1 = oOK then t.2.accept d c 1 true
  else if t.1 = oFULL then t.2.hold d c
  else if t.1 = oPOISON then
    t.2.ctxTo d c { t.2.ctx d c with state := cSTOPPED, fcode := 0, fopc := wbits w 0 8 }
  else t.2.reject d c t.1 (queueOf w)

/-- Issue of a racking instruction whose word satisfies p. -/
def rackRow (opc : Nat) (p : InstrWord → Bool) (d c : Nat) (s : State) : Host.Outcome State Fault Refusal :=
  issue (· = 2) (· = opc) 0 d c s (fun w => if p w then s.rackIssueThread d c w else s)

def execRack (d c : Nat) (s : State) : Host.Outcome State Fault Refusal := rackRow 0x50 (fun _ => true) d c s
def execTurn (d c : Nat) (s : State) : Host.Outcome State Fault Refusal := rackRow 0x51 (fun _ => true) d c s
def execGather (d c : Nat) (s : State) : Host.Outcome State Fault Refusal := rackRow 0x52 (fun _ => true) d c s
def execScatter (d c : Nat) (s : State) : Host.Outcome State Fault Refusal := rackRow 0x53 (fun w => rkFORM w = 0) d c s
def execScatterAdd (d c : Nat) (s : State) : Host.Outcome State Fault Refusal := rackRow 0x53 (fun w => rkFORM w = 1) d c s
def execScatterDispatch (d c : Nat) (s : State) : Host.Outcome State Fault Refusal := rackRow 0x53 (fun w => rkFORM w = 2) d c s
def execScatterSlotMap (d c : Nat) (s : State) : Host.Outcome State Fault Refusal := rackRow 0x53 (fun w => rkFORM w = 3) d c s
def execStash (d c : Nat) (s : State) : Host.Outcome State Fault Refusal := rackRow 0x54 (fun _ => true) d c s
def execUnstash (d c : Nat) (s : State) : Host.Outcome State Fault Refusal := rackRow 0x55 (fun _ => true) d c s

/-! ## Issue of a request (09 R353, R364, R366–R368) -/

/-- Cap of a queue's budget (09 R366). -/
def State.rackCap (s : State) (d qu : Nat) : Nat :=
  let b := s.rf d (oRkQcfg qu) rkQcfgBurst
  if b = 0 then 512 else b * 4096

/-- The regulator lets a request of n bytes issue (09 R366). -/
def State.budgetOk (s : State) (d qu n : Nat) : Bool :=
  qu = 256 || s.rf d (oRkQcfg qu) rkQcfgRate = 0 ||
    (let b := (s.rackq d qu).budget
     decide ((n : Int) ≤ b) || (decide (s.rackCap d qu < n) && decide (b = (s.rackCap d qu : Int))))

/-- Classify the source pieces of a request at issue: the pieces, a code, whether an entry of the tracker is needed, whether another module
is, and the host windows. -/
def State.placeSrc (s : State) (d p : Nat) (cmd : Bool) : List Piece → List Piece × Option Nat × Bool × Bool × List Nat
  | [] => ([], none, false, false, [])
  | x :: xs =>
    let t := State.placeSrc s d p cmd xs
    if x.wait = 3 then (x :: t.1, t.2.1, t.2.2.1, t.2.2.2.1, t.2.2.2.2) else
    match s.place d p x.addr x.n false cmd with
    | .bad c => (x :: t.1, some c, t.2.2.1, t.2.2.2.1, t.2.2.2.2)
    | .here k => (x :: t.1, t.2.1, k || t.2.2.1, t.2.2.2.1, t.2.2.2.2)
    | .host b w ns => ({ x with addr := b, wait := 1, ns := ns } :: t.1, t.2.1, true, t.2.2.2.1, w :: t.2.2.2.2)
    | .remote => ({ x with wait := 2 } :: t.1, t.2.1, true, true, t.2.2.2.2)

/-- Classify the destinations of a request at issue. -/
def State.placeDst (s : State) (d p : Nat) (cmd : Bool) : List Dst → List Dst × Option Nat × Bool × Bool × List Nat
  | [] => ([], none, false, false, [])
  | x :: xs =>
    let t := State.placeDst s d p cmd xs
    match s.place d p x.addr x.n true cmd with
    | .bad c => (x :: t.1, some c, t.2.2.1, t.2.2.2.1, t.2.2.2.2)
    | .here k => (x :: t.1, t.2.1, k || t.2.2.1, t.2.2.2.1, t.2.2.2.2)
    | .host b w ns => ({ x with addr := b, kind := 1, ns := ns } :: t.1, t.2.1, true, t.2.2.2.1, w :: t.2.2.2.2)
    | .remote => ({ x with kind := 2 } :: t.1, t.2.1, true, true, t.2.2.2.2)

/-- The bytes that nibble destinations on the host or another module are merged with are read too, after the o source bytes (08 R340;
DESIGN CHOICE, log entry 95). -/
def oldPieces : Nat → List Dst → List Dst × List Piece
  | _, [] => ([], [])
  | o, x :: xs =>
    if x.nib = 0 ∨ x.kind = 0 then let t := oldPieces o xs; (x :: t.1, t.2)
    else
      let t := oldPieces (o + 1) xs
      ({ x with old := o + 1 } :: t.1, { addr := x.addr, n := 1, wait := x.kind, ns := x.ns } :: t.2)

/-- Send the RREQs of a request's remote pieces (09 R388); a code when one cannot be sent. -/
def State.sendReads (s : State) (d qu tag part : Nat) : List Piece → List Piece × Nat × State
  | [] => ([], 0, s)
  | x :: xs =>
    if x.wait ≠ 2 then
      let t := State.sendReads s d qu tag part xs
      (x :: t.1, t.2.1, t.2.2)
    else
      match s.rackSend d qu tag part mRREQ (bits x.addr 48 16) (dieOfAddr d x.addr) (toBytes 8 x.addr ++ toBytes 4 x.n ++ toBytes 4 0)
          [] [] with
      | .error e => (x :: xs, e, s)
      | .ok u =>
        let t := State.sendReads u.2.2 d qu tag part xs
        ({ x with rid := u.1, port := u.2.1 } :: t.1, t.2.1, t.2.2)

/-- Send a DISP, NOTICE or POST to another module once its data is in hand. -/
def State.pushBody (s : State) (d qu : Nat) (q : Req) : State :=
  match q.dst with
  | x :: _ =>
    if q.what < 3 ∨ 5 < q.what ∨ x.kind ≠ 2 ∨ x.sent ≠ 0 ∨ ! q.ready then s else
    let t := s.takeReq d qu q
    let typ := if q.what = 3 then mDISP else if q.what = 4 then mNOTICE else mPOST
    match t.2.2.rackSend d qu q.tag q.part typ x.addr x.off (toBytes 8 q.aux) t.1 (pmapOf t.2.1) with
    | .error e => (s.putRackq d qu ((s.rackq d qu).setOut q.unsent)).sendStop d qu q.seq e
    | .ok u => u.2.2.putRackq d qu ((u.2.2.rackq d qu).setOut { q with dst := [{ x with sent := 1, rid := u.1, port := u.2.1 }] })
  | [] => s

/-- Set the head's wait for a tracker entry. -/
def State.setTrkWait (s : State) (d qu k : Nat) : State := s.putRackq d qu { s.rackq d qu with trkWait := k }

/-- Core of a scatter-add. -/
def kcoreOf (w : InstrWord) : Nat := wbits w 61 2

/-- Accumulate units waiting at a core (12 R517). -/
def State.accOf (s : State) (d k : Nat) : List (Nat × Nat) := mget (fun _ => []) s.accq (d * 4 + k)
def State.putAcc (s : State) (d k : Nat) (l : List (Nat × Nat)) : State := { s.unrest d (18 + k) with accq := mset (fun _ => []) s.accq (d * 4 + k) l }

/-- Count dropped choices (09 R383) in the set of the map's descriptor. -/
def State.countSat (s : State) (d : Nat) (i : RInstr) (n : Nat) : State :=
  if n = 0 ∨ ! i.table.hen then s else s.count d i.part i.table.hset { sat := n }

/-- A request that reads the bytes it writes, of the host or another module: an accumulate unit's destination row, or a nibble. -/
def Req.readsDst (q : Req) : Bool := q.dst.any (fun x => decide (x.kind ≠ 0) && (q.what = 2 || decide (x.nib ≠ 0)))

/-- An outstanding request of q's instruction writes where q does. -/
def anyMeets (outs : List Req) (q : Req) : Bool :=
  outs.any (fun r => r.seq = q.seq && r.dst.any (fun a => q.dst.any (fun b => a.kind = b.kind && meets a.addr a.n b.addr b.n)))

/-- The core's queue of accumulate units has no room for q's unit (12 R517). -/
def State.accFull (s : State) (d qu : Nat) (q : Req) (i : RInstr) : Bool :=
  let l := s.accOf d (kcoreOf i.word)
  q.what = 2 && ! l.contains (qu, q.unit) && decide (8 ≤ l.length)

/-- The request is issued: it leaves for the bytes it needs, and its queue, regulator and tracker count it; instruction i is what its
instruction becomes (09 R353, R366, R367). -/
def State.sendOff (s : State) (d qu : Nat) (q : Req) (i : RInstr) : State :=
  let s := s.countSat d i i.sat
  let x := s.rackq d qu
  let y := x.setIns { i with started := true, sat := 0 }
  let bud := if qu ≠ 256 ∧ s.rf d (oRkQcfg qu) rkQcfgRate ≠ 0 then x.budget - (q.n : Int) else x.budget
  let s := { s.putRackq d qu { y with outs := enq y.outs q, budget := bud, trkWait := 0 } with rackSeq := s.rackSeq + 1 }
  let k := kcoreOf i.word
  let s := if q.what = 2 ∧ ! (s.accOf d k).contains (qu, q.unit) then s.putAcc d k (enq (s.accOf d k) (qu, q.unit)) else s
  ((s.trkPeak d).pushRemote d qu q).pushBody d qu q

/-- Host reads that the module has outstanding (14 R583). -/
def State.hostReads (s : State) : Nat :=
  sumBy (fun (e : Nat × RackQ) => sumBy (fun q => (q.src.filter (fun p => p.wait = 1)).length) e.2.outs) s.rackqs

/-- Issue request q, after which the instruction is i; the Bool says that the engine has served the queue (09 R353). -/
def State.issuePlaced (s : State) (d qu : Nat) (q : Req) (i : RInstr) : State × Bool :=
  let body := 3 ≤ q.what && q.what ≤ 5
  let sp := s.placeSrc d q.part (qu = 256) q.src
  let dp := if body then
      (q.dst.map (fun x => { x with kind := if s.isLocal x.addr then 0 else 2 }), (none : Option Nat),
        q.dst.any (fun x => ! s.isLocal x.addr || decide (x.off ≠ d)), q.dst.any (fun x => ! s.isLocal x.addr), [])
    else s.placeDst d q.part (qu = 256) q.dst
  match sp.2.1, dp.2.1 with
  | some c, _ => (s.rackStop d qu q.seq c 0, true)
  | _, some c => (s.rackStop d qu q.seq c 0, true)
  | none, none =>
    let remote := sp.2.2.2.1 || dp.2.2.2.1
    if remote ∧ (s.vcBad d qu ∨ ((q.what = 3 ∨ q.what = 4) ∧ s.queueVc d qu < 2)) then (s.rackStop d qu q.seq 4 0, true) else
    if body ∧ q.dst.any (fun x => s.isLocal x.addr && decide (s.nDies ≤ x.off)) then (s.rackStop d qu q.seq 6 0, true) else
    let trk := sp.2.2.1 || dp.2.2.1
    let x := s.rackq d qu
    let old := if body then (dp.1, []) else oldPieces (pieceBytes q.src) dp.1
    let q := { q with trk := trk, dst := old.1, wins := sp.2.2.2.2 ++ dp.2.2.2.2 }
    if trk ∧ s.rf d (oRkTrkq q.part) rkTrkqQuota ≤ s.trkUsed d q.part then
      (s.putRackq d qu { x with trkWait := 1, trkPart := q.part, trkTag := q.tag }, false)
    else if ! s.budgetOk d qu q.n || s.accFull d qu q i || (q.readsDst && anyMeets x.outs q) ||
        decide (4096 < s.hostReads + ((sp.1 ++ old.2).filter (fun p => p.wait = 1)).length) ||
        ! s.bridgesTake (s.queueVc d qu) q.tag (s.reqPath d qu q) then (s, false)
    else
      let u := s.sendReads d qu q.tag q.part (sp.1 ++ old.2)
      if u.2.1 ≠ 0 then (s.sendStop d qu q.seq u.2.1, true)
      else (u.2.2.sendOff d qu { q with id := s.rackSeq, src := u.1 } i, true)

/-- Issue request q: the host window entries it needs are read first (15 R634, R639). -/
def State.issueReq (s : State) (d qu : Nat) (q : Req) (i : RInstr) : State × Bool :=
  let ws := s.windowsOf d q (qu = 256)
  let s := ws.foldl (fun s w => s.readCheck (.ctx 0) (winOff q.part w) 16) s
  match ws.find? (fun w => s.poisoned (.ctx 0) (winOff q.part w) 16) with
  | some w => (s.windowPoison d qu q w, true)
  | none => s.issuePlaced d qu q i

/-- The queue's next request, tried; a lost die's engine issues none (01 R47). The tun's through it (DEDUCED, log entry 25), else the head
instruction's, a slot-map return first reading its ledger (15 R639); the Bool says that the queue was eligible and the engine has served it (09 R353, R364). -/
def State.rackTry (s : State) (d qu : Nat) : State × Bool :=
  let x := s.rackq d qu
  if x.trkWait = 1 ∨ bit s.lostDies d then (s, false) else
  match s.tunNext d qu with
  | some (q, i) =>
    if s.rkAborting d q.tag then (s, false) else
    let t := s.issueReq d qu q i
    if x.outs.length < (t.1.rackq d qu).outs.length then (t.1.tunIssued d qu q, true) else t
  | none =>
  match x.ins.find? (fun i => ! i.full) with
  | none => (s, false)
  | some i =>
    if s.rkAborting d i.tag ∧ qu ≠ 256 then (s, false) else
    let l := smLEDGER i.word
    let r := if i.opc = 0x53 ∧ rkFORM i.word = 3 then s.ledPoison d l (4096 + 8 * (s.ledS d l * s.ledQ d l)) else (none, s)
    let s := r.2
    if r.1.isSome then (s.rackPoison d qu i.seq (r.1.getD 0), true) else
    match s.nextReq d qu i with
    | .wait => (s, false)
    | .stop c => (s.rackStop d qu i.seq c 0, true)
    | .fin => (s.putRackq d qu ((s.rackq d qu).setIns { i with full := true }), false)
    | .req q i' =>
      if (i.opc = 0x50 ∨ i.opc = 0x51) ∧ rkMODE i.word = 1 ∧ i.gates ≤ q.tile then (s, false) else s.issueReq d qu q i'

/-- It is the queue's turn: no queue between the one the engine served last and this one is eligible (09 R353). -/
def State.rackTurn (s : State) (d qu : Nat) : Bool :=
  let at_ (k : Nat) : Nat := (k + 257 - mget n0 s.rkLast d % 257) % 257
  (s.rackqsOf d).all (fun e => decide (at_ qu ≤ at_ e.1) || ! (s.rackTry d e.1).2)

/-- RACK_REQUEST_ISSUE: the queue issues its next request, if it can and it is its turn. -/
def State.rackIssue (s : State) (d qu : Nat) : State :=
  if ! s.rackTurn d qu then s else
  let t := s.rackTry d qu
  if t.2 then { t.1 with rkLast := mset n0 t.1.rkLast d (qu + 1) } else t.1

def execRackRequestIssue (d qu : Nat) (s : State) : Host.Outcome State Fault Refusal :=
  if s.hasDie d && decide (qu < 257) then .next (s.rackIssue d qu) else .fault .absentUnit

/-! ## Completion of a request (09 R354, R377, R383) -/

/-- Write the data of a request to its destinations on this module and in host memory; false when a host write cannot be sent. -/
def State.writeDsts (s : State) (d qu : Nat) (q : Req) (bs : List Byte) (zs : List Bool) : List Dst → State × Bool
  | [] => (s, true)
  | x :: xs =>
    if x.kind = 2 then State.writeDsts s d qu q bs zs xs
    else if x.kind = 1 then
      if s.hostOk q.part then State.writeDsts (s.writeToHost d qu q x bs zs) d qu q bs zs xs else (s, false)
    else
      let was := ((s.rawRuns d x.addr 1).flatMap (fun t => s.peeks t.1 t.2.1 1)).headD 0
      State.writeDsts (s.rackWrite d qu q x (q.bytesFor bs x was) (x.zsFor zs)) d qu q bs zs xs

/-- The index window of a gather or scatter is complete: out-of-bounds elements are counted or stop the transfer (07 R298, R299); a scatter
into a table of no rows counts nothing (08 R345). -/
def State.idxDone (s : State) (d qu : Nat) (i : RInstr) : State :=
  if ! (List.range i.wlen).all (fun p => (mfind i.win p).isSome) then s else
  let none_ := i.opc = 0x53 && decide (i.table.rows = 0)
  let oob := if none_ then [] else ((List.range i.wlen).filter (s.takesPart d i)).filter (fun p => (i.rowOf p).isNone)
  if oob ≠ [] ∧ s.jobStrict d i.tag then s.rackStop d qu i.seq 0x1A 0 else
  let s := s.countSat d i oob.length
  let i := { i with ph := 1, k := 0, cur := 0, src := 0 }
  let i := if i.opc = 0x53 ∧ rkFORM i.word = 1 then
      s.itemSeek d (fun i it n => s.scatterAtom d i (it.2.headD 0) (it.1.getD 0) n) 65 i
    else s.itemSeek d (s.itemAtom d) 65 i
  s.putRackq d qu ((s.rackq d qu).setIns i)

/-- Every expert the window names has its map entry. -/
def RInstr.mapsIn (i : RInstr) : Bool :=
  (List.range i.wlen).all (fun p => match i.rowOf p with
    | none => true
    | some e => (i.mapOf e).isSome)

/-- A dispatch moves on when its window, and then its map entries, are in. -/
def State.dispatchIn (s : State) (d qu : Nat) (i : RInstr) : State :=
  if i.ph = 0 ∧ ! (List.range i.wlen).all (fun p => (mfind i.win p).isSome) then s else
  let i := if i.ph = 0 then { i with ph := 1, k := 0 } else i
  let i := if i.ph = 1 ∧ i.mapsIn then { i with ph := 2, k := 0, cur := 0 } else i
  s.putRackq d qu ((s.rackq d qu).setIns i)

/-- Index words arrive for an instruction. -/
def State.idxArrive (s : State) (d qu : Nat) (q : Req) (bs : List Byte) (zs : List Bool) : State :=
  match (s.rackq d qu).getIns q.seq with
  | none => s
  | some i =>
    if zs.any id then s.rackPoison d qu q.seq (q.poisonAddr zs) else
    let i := { i with win := (List.range (bs.length / 4)).foldl (fun m k => mput m (q.aux + k) (ofBytes ((bs.drop (4 * k)).take 4))) i.win }
    let s := s.putRackq d qu ((s.rackq d qu).setIns i)
    if i.stopped then s
    else if i.opc = 0x53 ∧ rkFORM i.word = 2 then s.dispatchIn d qu i else s.idxDone d qu i

/-- The mark of an UNSTASH is read and checked (09 R377). -/
def State.markArrive (s : State) (d qu : Nat) (q : Req) (bs : List Byte) (zs : List Bool) : State :=
  match (s.rackq d qu).getIns q.seq with
  | none => s
  | some i =>
    let m := ofBytes bs
    let y := i.desc 0
    let len := (((y.turned i.turn).denseLen) + 63) / 64 * 64
    if zs.any id then s.rackPoison d qu q.seq (q.poisonAddr zs)
    else if bit m 120 = false ∨ bits m 121 4 ≠ y.fmt ∨ bits m 40 40 ≠ len then s.rackStop d qu q.seq 0x16 0
    else
      let o := oRkCask i.part (rkCASK i.word)
      let coff := bits m 0 40
      let i := { i with ph := 2, cur := 0, k := 0, len := len, caskC := s.rf d o rkCaskCbase + coff,
                        caskN := min len (s.rf d o rkCaskClim - coff), caskH := s.rf d o rkCaskHbase + bits m 80 40 }
      s.putRackq d qu ((s.rackq d qu).setIns (s.copySeek d i))

/-- Poisoned source sacks of a COPY's request, its bytes done, and one more than the first byte of the first host sack that a copy to the
host fills: a sack that two requests share counts once (14 R601, R608). -/
def copyCount (q : Req) (zs : List Bool) (i : RInstr) : RInstr :=
  let a := (q.src.headD {}).addr
  let bad := ((List.range ((a % 64 + q.n + 63) / 64)).filter (fun k =>
    (decide (0 < k) || q.ord = 0 || decide (a % 64 = 0)) && zs.zipIdx.any (fun t => t.1 && decide ((a % 64 + t.2) / 64 = k)))).length
  let first := mget n0 i.cnt 2
  let k := (zs.takeWhile (fun z => ! z)).length
  let here := q.ord + k - ((q.dst.headD {}).addr + k) % 64 + 1
  let toHost := (q.dst.headD {}).kind = 1
  let c := mset n0 (mset n0 i.cnt 0 (mget n0 i.cnt 0 + bad)) 1 (mget n0 i.cnt 1 + q.n)
  { i with cnt := mset n0 c 2 (if toHost ∧ zs.any id ∧ (first = 0 ∨ here < first) then here else first) }

/-- A COPY's request could not be written: one more than its first byte, the least of them. -/
def copyFail (q : Req) (i : RInstr) : RInstr :=
  let o := mget n0 i.cnt 3
  { i with cnt := mset n0 i.cnt 3 (if o = 0 ∨ q.ord + 1 < o then q.ord + 1 else o) }

/-- Drop a request from a queue; an aborted instruction with none left is discarded (09 R390). -/
def State.dropReq (s : State) (d qu id seq : Nat) : State :=
  let x := s.rackq d qu
  let outs := x.outs.filter (fun r => r.id ≠ id)
  let gone := qu ≠ 256 && ((x.getIns seq).any (fun i => s.rkAborting d i.tag)) && ! outs.any (fun r => r.seq = seq)
  s.putRackq d qu { x with outs := outs, ins := if gone then x.ins.filter (fun i => i.seq ≠ seq) else x.ins }

/-- An accumulate unit that its instruction has left before its last request: it is never summed (09 R363, R390). -/
def State.unitDead (s : State) (d qu : Nat) (q : Req) : Bool :=
  let x := s.rackq d qu
  q.what = 2 && ! q.summed && ! x.outs.any (fun r => r.unit = q.unit && r.ulast) && (match x.getIns q.seq with
    | none => true
    | some i => i.full)

/-- The effect on this module of a request whose data is bs, with poison zs. -/
def State.reqEffect (s : State) (d qu : Nat) (q : Req) (bs : List Byte) (zs : List Bool) : State :=
  let fin (s : State) : State := (s.dropReq d qu q.id q.seq).pushHeld d qu q.seq
  let x := q.dst.headD {}
  if q.what = 1 then fin (s.idxArrive d qu q bs zs)
  else if q.what = 6 then fin (s.markArrive d qu q bs zs)
  else if q.what = 7 then fin (s.tunRead q bs zs)
  else if 3 ≤ q.what ∧ q.what ≤ 5 then
    if x.kind = 2 then fin s
    else if q.what = 3 then
      match s.landDisp x.off q.tag q.aux bs zs with
      | .hold => s
      | .refused c => fin (s.rackStop d qu q.seq 0x19 c)
      | .dropped => fin s
      | .done s => fin s
    else if q.what = 4 then fin (s.landNotice x.off q.tag q.aux)
    else if s.jobEn x.off q.tag then
      fin (s.postCtr x.off (s.jobPart x.off q.tag) (bits q.aux 0 12) (bits q.aux 13 16) (bit q.aux 12) q.tag)
    else fin (s.rackStop d qu q.seq 0x19 9)
  else
    let t := s.writeDsts d qu q bs zs q.dst
    let s := if t.2 then t.1 else t.1.rackStop d qu q.seq 0x18 0
    let s := if qu = 256 then
        match (s.rackq d qu).getIns q.seq with
        | none => s
        | some i => s.putRackq d qu ((s.rackq d qu).setIns (if t.2 then copyCount q zs i else copyFail q i))
      else if q.what = 8 then s.tunWrote d q
      else s
    fin s

/-- Request q of a queue completes, if its data is in hand and turned, and every remote destination has acknowledged. -/
def State.completeReq (s : State) (d qu : Nat) (q : Req) : State :=
  if s.unitDead d qu q then (if q.ready then (s.dropReq d qu q.id q.seq).pushHeld d qu q.seq else s)
  else if ! q.ready ∨ (q.pos ≠ 0 ∧ ! q.turned) ∨ q.dst.any (fun y => y.kind = 2 && decide (y.sent < 2)) ∨ (q.what = 2 ∧ ! q.summed) ∨
      olderMeets (s.rackq d qu).outs q then s
  else
    let t := s.takeReq d qu q
    t.2.2.reqEffect d qu q t.1 t.2.1

/-- RACK_REQUEST_COMPLETE: the n-th outstanding request of a queue completes; one that turns first passes through the tile with its block
when it has not (09 R354, R371). -/
def State.rackComplete (s : State) (d qu n : Nat) : State :=
  match (s.rackq d qu).outs[n]? with
  | none => s
  | some q =>
    if q.pos = 0 ∨ q.turned then s.completeReq d qu q else
    let s := s.pushHeld d qu q.seq
    match (s.rackq d qu).outs.find? (fun r => r.id = q.id) with
    | none => s
    | some q => s.completeReq d qu q

def execRackRequestComplete (d qu n : Nat) (s : State) : Host.Outcome State Fault Refusal :=
  if s.hasDie d && decide (qu < 257) then .next (s.rackComplete d qu n) else .fault .absentUnit

/-! ## Accumulate units at a kettle core (07 R300, 12 R517) -/

/-- One 4-byte sum: binary32 by RNE, or I32 saturating; whether it saturated. -/
def addElem (f a b : Nat) : Nat × Bool :=
  if f = 7 then (fAdd a b, false)
  else
    let v := sx 32 a + sx 32 b
    (tc 32 (clampI i32Lo i32Hi v), decide (v < i32Lo) || decide (i32Hi < v))

/-- Add one row to another, element by element; how many saturated. -/
def addRows (f : Nat) : Nat → List Byte → List Byte → List Byte × Nat
  | 0, _, _ => ([], 0)
  | n + 1, a, b =>
    let e := addElem f (ofBytes (a.take 4)) (ofBytes (b.take 4))
    let t := addRows f n (a.drop 4) (b.drop 4)
    (toBytes 4 e.1 ++ t.1, t.2 + if e.2 then 1 else 0)

/-- Fold k source rows of n bytes into a destination row, with their poison. -/
def foldRows (f n : Nat) : Nat → List Byte → List Bool → List Byte → List Bool → List Byte × List Bool × Nat
  | 0, acc, az, _, _ => (acc, az, 0)
  | k + 1, acc, az, bs, zs =>
    let t := addRows f (n / 4) acc (bs.take n)
    let u := foldRows f n k t.1 ((az.zip (zs.take n)).map (fun p => p.1 || p.2)) (bs.drop n) (zs.drop n)
    (u.1, u.2.1, u.2.2 + t.2)

/-- The requests of a unit in a queue, oldest first. -/
def RackQ.unitOuts (x : RackQ) (u : Nat) : List Req := x.outs.filter (fun r => r.what = 2 && r.unit = u)

/-- The oldest unit waiting at a kettle core can be taken: its rows are in hand, and no older request of its queue meets them; or its
instruction has left it. -/
def State.accReady (s : State) (d k : Nat) : Bool :=
  match s.accOf d k with
  | [] => false
  | (qu, u) :: _ =>
    let x := s.rackq d qu
    let rs := x.unitOuts u
    if rs.any (fun r => r.ulast) then rs.all (fun q => q.ready && ! olderMeets x.outs q)
    else rs.all (s.unitDead d qu)

/-- Bytes of requests, taken in order, with their poison. -/
def takeAll (d qu : Nat) : State → List Req → List Byte × List Bool × State
  | s, [] => ([], [], s)
  | s, q :: qs =>
    let t := s.takeReq d qu q
    let u := takeAll d qu t.2.2 qs
    (t.1.take q.n ++ u.1, t.2.1.take q.n ++ u.2.1, u.2.2)

/-- Requests of a unit that has been summed: those of the destination row hold their parts of the sum. -/
def sumInto : List Req → List Byte → List Bool → List Req
  | [], _, _ => []
  | q :: qs, bs, zs =>
    if q.dst = [] then { q with summed := true } :: sumInto qs bs zs
    else { q with summed := true, src := [{ n := q.n, wait := 3, data := bs.take q.n, pz := zs.take q.n }] } ::
      sumInto qs (bs.drop q.n) (zs.drop q.n)

/-- A unit whose last request is issued and whose rows are all in hand is summed: its destination requests hold the sum, and send what
they write elsewhere (07 R300, 12 R517). -/
def State.sumUnit (s : State) (d qu u : Nat) : State :=
  let rs := (s.rackq d qu).unitOuts u
  match rs.find? (fun r => r.ulast) with
  | none => s
  | some q => match (s.rackq d qu).getIns q.seq with
    | none => s
    | some i =>
      if ! rs.all Req.ready then s else
      let a := takeAll d qu s (rs.filter (fun r => decide (r.dst ≠ [])))
      let b := takeAll d qu a.2.2 (rs.filter (fun r => r.dst = []))
      let r := foldRows i.table.fmt a.1.length q.aux a.1 a.2.1 b.1 b.2.1
      let s := b.2.2.countSat d i r.2.2
      let done := sumInto rs r.1 r.2.1
      done.foldl (fun s q => s.pushRemote d qu q) (s.putRackq d qu (done.foldl RackQ.setOut (s.rackq d qu)))

/-- ACCUMULATE_UNIT: the core sums the oldest waiting unit, between groups (12 R517). -/
def State.accumulate (s : State) (d k : Nat) : State :=
  match s.accOf d k with
  | [] => s
  | (qu, u) :: rest =>
    if ! s.accReady d k ∨ (s.kcore d k).pend ≠ [] then s else (s.sumUnit d qu u).putAcc d k rest

def execAccumulateUnit (d k : Nat) (s : State) : Host.Outcome State Fault Refusal :=
  if s.hasDie d && decide (k < 4) then .next (s.accumulate d k) else .fault .absentUnit

/-! ## Streams and the end of an instruction (09 R354, R361, R364) -/

/-- Tile n has no request left to issue or complete. -/
def State.tileDone (s : State) (d qu : Nat) (i : RInstr) (n : Nat) : Bool :=
  let at_ := match s.copyAtom d i i.cur with
    | .ok a => a.tile
    | _ => 0
  (i.full || decide (n < at_)) && ! (s.rackq d qu).outs.any (fun q => q.seq = i.seq && q.tile = n)

/-- STREAM_TILE_READY: the next tile of the oldest instruction that has one ready posts RDY. -/
def State.tileReady (s : State) (d qu : Nat) : State :=
  let x := s.rackq d qu
  match x.ins.find? (fun i => decide (i.posted < i.tiles) && ! i.stopped && ! s.rkAborting d i.tag &&
      (decide (rkMODE i.word ≠ 1) || decide (i.posted < i.gates)) && s.tileDone d qu i i.posted) with
  | none => s
  | some i =>
    let s := s.putRackq d qu (x.setIns { i with posted := i.posted + 1 })
    s.postCtr d i.part (wbits i.word 56 12) 1 false i.tag

def execStreamTileReady (d qu : Nat) (s : State) : Host.Outcome State Fault Refusal :=
  if s.hasDie d && decide (qu < 256) then .next (s.tileReady d qu) else .fault .absentUnit

/-- STREAM_GATE_OPEN: the next gate of the queue's issuing stream opens when the consumer has posted enough. A poisoned counter stops the
instruction, its poison consumed (DESIGN CHOICE, log entry 119). -/
def State.gateOpen (s : State) (d qu : Nat) : State :=
  let x := s.rackq d qu
  match x.ins.find? (fun i => (i.opc = 0x50 || i.opc = 0x51) && rkMODE i.word = 1 && ! i.stopped && decide (i.gates < i.tiles)) with
  | none => s
  | some i =>
    let s := s.readCheck (.ctx d) (ctrOff i.part (wbits i.word 68 12)) 8
    if s.poisoned (.ctx d) (ctrOff i.part (wbits i.word 68 12)) 8 then
      (s.putRackq d qu (x.setIns { i with full := true, stopped := true })).consumed d i.tag i.part 22
        (gaddr (.ctx d) (ctrOff i.part (wbits i.word 68 12) / 64 * 64))
    else if i.gates + 1 ≤ rkDEPTH i.word + (s.ctrCount d i.part (wbits i.word 68 12) - i.c0) then
      s.putRackq d qu (x.setIns { i with gates := i.gates + 1 })
    else s

def execStreamGateOpen (d qu : Nat) (s : State) : Host.Outcome State Fault Refusal :=
  if s.hasDie d && decide (qu < 256) then .next (s.gateOpen d qu) else .fault .absentUnit

/-- A host COPY has ended: its long command has its end state, status and VALID (14 R608, R619). -/
def State.copyEnd (s : State) (i : RInstr) : State :=
  let x := s.fn i.fn
  let bad := mget n0 i.cnt 0
  let first := mget n0 i.cnt 2
  s.putFn i.fn { x with longs := x.longs.map (fun l =>
    if l.pkt.seq = i.hseq ∧ l.state < 0x80 then
      { l with state := 0x80, done := l.total, status := if bad = 0 then 0 else 3, detail := bad,
               valid := if first = 0 then (i.len + 255) / 256 else (first - 1) / 256 } else l) }

/-- RACK_INSTRUCTION_COMPLETE: the n-th instruction of a queue has completed every request. -/
def State.rackInstrDone (s : State) (d qu n : Nat) : State :=
  let x := s.rackq d qu
  match x.ins[n]? with
  | none => s
  | some i =>
    if ! i.full ∨ i.stopped ∨ x.outs.any (fun q => q.seq = i.seq) ∨ i.posted < i.tiles ∨ (s.rkAborting d i.tag ∧ qu ≠ 256) then s else
    let s := s.putRackq d qu { x with ins := x.ins.filter (fun j => j.seq ≠ i.seq) }
    if qu = 256 then s.copyEnd i else
    (s.done d i.part (if i.opc = 0x60 then 0xFFF else wbits i.word 8 12) i.tag).ctxRetire d i.c

def execRackInstructionComplete (d qu n : Nat) (s : State) : Host.Outcome State Fault Refusal :=
  if s.hasDie d && decide (qu < 257) then .next (s.rackInstrDone d qu n) else .fault .absentUnit

/-! ## Regulator and tracker (09 R366, R368) -/

/-- Refill one queue. -/
def State.refillQ (s : State) (d qu : Nat) : State :=
  let r := s.rf d (oRkQcfg qu) rkQcfgRate
  if r = 0 then s else
  let x := s.rackq d qu
  let b := x.budget + ((r * 64 : Nat) : Int)
  let cap : Int := s.rackCap d qu
  s.putRackq d qu { x with budget := if cap < b then cap else b }

/-- Refill the queues below n. -/
def refillQs (d : Nat) : Nat → State → State
  | 0, s => s
  | n + 1, s => refillQs d n (s.refillQ d n)

def execRegulatorRefill (d : Nat) (s : State) : Host.Outcome State Fault Refusal :=
  if s.hasDie d then .next (refillQs d 256 s) else .fault .absentUnit

/-- TRACKER_ENTRY_WAIT_END: the head request's wait ends when its partition's quota allows; it takes the entry at its issue (09 R367,
R370). -/
def State.trkGrant (s : State) (d qu : Nat) : State :=
  let x := s.rackq d qu
  if x.trkWait = 1 ∧ s.trkUsed d x.trkPart < s.rf d (oRkTrkq x.trkPart) rkTrkqQuota then s.setTrkWait d qu 0 else s

def execTrackerEntryWaitEnd (d qu : Nat) (s : State) : Host.Outcome State Fault Refusal :=
  if s.hasDie d && decide (qu < 257) then .next (s.trkGrant d qu) else .fault .absentUnit

/-! ## Abort (09 R390) -/

/-- The abort of a tag in one queue: instructions without a request are discarded, others stop issuing. -/
def State.rackAbortQ (s : State) (d qu tag : Nat) : State :=
  let x := s.rackq d qu
  let ins := (x.ins.filter (fun i => decide (i.tag ≠ tag) || x.outs.any (fun q => q.seq = i.seq))).map (fun i =>
    if i.tag = tag then { i with full := true } else i)
  let tw := if x.trkTag = tag then 0 else x.trkWait
  s.putRackq d qu { x with ins := ins, trkWait := tw, twr := x.twr.filter (fun q => q.tag ≠ tag) }

/-- The abort of a tag in the queues below n. -/
def rackAbortQs (d tag : Nat) : Nat → State → State
  | 0, s => s
  | n + 1, s => rackAbortQs d tag n (s.rackAbortQ d n tag)

/-- RACKING_ABORT_NOTICE. -/
def State.rackAbort (s : State) (d tag : Nat) : State :=
  let s := { s with abortRk := mset (fun _ => false) s.abortRk (d * 256 + tag) true }
  ledAborts d tag 256 (rackAbortQs d tag 256 s)

def execRackingAbortNotice (d tag : Nat) (s : State) : Host.Outcome State Fault Refusal :=
  if s.hasDie d && decide (tag < 256) then .next (s.rackAbort d tag) else .fault .absentUnit

/-- RACKING_DRAIN_REPORT. -/
def State.rackDrain (s : State) (d tag : Nat) : State :=
  if s.rkAborting d tag ∧ ! s.tagTracked d tag then
    { s with drainRk := mset (fun _ => false) s.drainRk (d * 256 + tag) true }
  else s

def execRackingDrainReport (d tag : Nat) (s : State) : Host.Outcome State Fault Refusal :=
  if s.hasDie d && decide (tag < 256) then .next (s.rackDrain d tag) else .fault .absentUnit

/-! ## Host reads (09 R387, 14 R587) -/

/-- Give the first piece of a list that waits as w its data. -/
def fillFirst (p : Piece → Bool) (f : Piece → Piece) : List Piece → List Piece
  | [] => []
  | x :: xs => if p x then f x :: xs else x :: fillFirst p f xs

/-- A host read of a queue ends: with the host's bytes, or as an error, whose destination sacks are poisoned and counted. -/
def State.hostReadEnd (s : State) (d qu : Nat) (ok : Bool) : State :=
  match (s.rackq d qu).outs.find? (fun q => q.src.any (fun p => p.wait = 1)) with
  | none => s
  | some q =>
    let good := ok && s.hostOk q.part
    let a := ((q.src.find? (fun p => p.wait = 1)).getD {}).addr
    let fill (p : Piece) : Piece :=
      { p with wait := 3, data := if good then s.peeks .host p.addr p.n else List.replicate p.n 0, pz := List.replicate p.n (! good) }
    let q' := { q with src := fillFirst (fun p => p.wait = 1) fill q.src }
    let s := s.putRackq d qu ((s.rackq d qu).setOut q')
    let s := if good then s else s.logErr { cls := 0x0D, die := d, island := 22, tagv := qu ≠ 256, tag := q.tag, part := q.part, addr := a }
    (s.pushRemote d qu q').pushBody d qu q'

def execHostCompletion (d qu : Nat) (ok : Bool) (s : State) : Host.Outcome State Fault Refusal :=
  if s.hasDie d && decide (qu < 257) then .next (s.hostReadEnd d qu ok) else .fault .absentUnit

/-- Completion timeout in µs: the upper bound of the sub-range that Device Control 2 programs, 50 ms for 0 (14 R583, R587; the sub-ranges are
those of the PCI Express Base Specification: PRESUMED, log entry 111). -/
def State.cplTimeout (s : State) : Nat := match s.cplValue with
  | 1 => 100
  | 2 => 10000
  | 5 => 55000
  | 6 => 210000
  | 9 => 900000
  | 10 => 3500000
  | 13 => 13000000
  | 14 => 64000000
  | _ => 50000

/-- HOST_COMPLETION_TIMEOUT: the wait has lasted at least the timeout programmed (14 R587). -/
def execHostCompletionTimeout (d qu us : Nat) (s : State) : Host.Outcome State Fault Refusal :=
  if s.hasDie d && decide (qu < 257) then .next (if us < s.cplTimeout then s else s.hostReadEnd d qu false) else .fault .absentUnit

end Sys2Proof.Machine
end

