-- ==== Sys2Proof/Machine/Threads.lean ====
section
/-!
DEFINITION. Sys2Proof/Machine/Threads.lean: the synchronisation instructions, their releases, the fetch unit and the context images
(10_threads_and_schedule.md).
-/
namespace Sys2Proof.Machine

/-- The unit, queue or slot a fault register records for a synchronisation instruction: UNIT 0b11 in a vat, the queue of a POST in the
racking engine (10 R423). -/
def syncAux (c : Nat) (w : InstrWord) : Nat :=
  if ctxEng c = 0 then 3 else if ctxEng c = 2 ∧ wbits w 0 8 = 0x60 then pQUEUE w else 0

/-- A context of a kettle core presents a group: its first word is there, and no pending write holds it (12 R511). -/
def State.offersGroup (s : State) (d c : Nat) : Bool :=
  (s.front d c).any (fun w => let x := s.kcore d (ctxInst c)
    ! x.hazard (kForm w) && ! ((kForm w).xfer && decide (x.pend ≠ [])))

/-- The contexts of the core of context c that present a group, with c's place in the round and theirs (12 R510): first those that have not
yielded, from the one after the context accepted last, then the yielded ones in ascending number. -/
def State.turnOf (s : State) (d c : Nat) : Nat :=
  if (s.ctx d c).yielded then 1024 + c % 1024 else (c % 1024 + 1024 - (s.kcore d (ctxInst c)).last % 1024) % 1024

/-- Another context of the core goes before context c. Contexts that present between two commands present in the same cycle (12 R510; DESIGN
CHOICE, log entry 118). -/
def State.outTurned (s : State) (d c : Nat) : Bool :=
  s.ctxs.any (fun (e : Nat × Ctx) => let b := e.1 % 25600
    decide (e.1 / 25600 = d) && ctxEng b = 1 && decide (ctxInst b = ctxInst c) && decide (b ≠ c) && s.offersGroup d b &&
      decide (s.turnOf d b < s.turnOf d c))

/-- A kettle core takes no group of context c now: it is withdrawn, a transfer runs, an accumulate unit goes first, or another context does (12
R510, R512, R517, 15 R648). -/
def State.coreBusy (s : State) (d c : Nat) : Bool :=
  let x := s.kcore d (ctxInst c)
  x.out || x.pend.any (fun p => p.xfer) || s.accReady d (ctxInst c) || s.outTurned d c

/-- A kettle core has executed one more compute group (12 R507). -/
def State.ketGroup (s : State) (d c : Nat) : State :=
  let x := s.kcore d (ctxInst c)
  s.putKcore d (ctxInst c) { x with groups := x.groups + 1, last := c % 1024 + 1 }

/-- A context presents a synchronisation instruction: rejected at the first failing check, else carried out. In a kettle core it is a
compute group (12 R509). -/
def syncRow (opc d c : Nat) (s : State) (checks : InstrWord → List (Bool × Nat)) (body : InstrWord → State) :
    Host.Outcome State Fault Refusal :=
  issue (fun _ => true) (· = opc) (if ctxEng c = 0 then 3 else 0) d c s (fun w =>
    if ctxEng c = 1 ∧ s.coreBusy d c then s else
    match firstFail (checks w) with
    | some k => s.reject d c k (syncAux c w)
    | none =>
      let t := body w
      let st := (t.ctx d c).state
      if ctxEng c = 1 ∧ st ≠ cHOLD ∧ st ≠ cSTOPPED then t.ketGroup d c else t)

/-! ## POST (10 R418) -/

/-- Checks of a local POST (10 R423, R777); those of a remote one are the rack queue's. -/
def postChecks (w : InstrWord) : List (Bool × Nat) :=
  if pREM w then [] else
  [(decide (wbits w 65 63 ≠ 0) || decide (pDIE w ≠ 0) || decide (pMOD w ≠ 0) || decide (pQUEUE w ≠ 0), 1), (wbits w 8 12 = 0xFFF, 7)]

/-- A remote POST enters its rack queue, whichever engine issues it; a full queue holds a racking thread and rejects another
(10 R410, 09 R352). -/
def State.postRemote (s : State) (d c : Nat) (w : InstrWord) : State :=
  if ctxEng c = 2 then s.rackIssueThread d c w else
  let t := s.rackOffer d c w
  if t.1 = oOK then t.2.accept d c 1 true else t.2.reject d c (if t.1 = oFULL then 0x14 else t.1) (syncAux c w)

/-- A POST is carried out. -/
def State.post (s : State) (d c : Nat) (w : InstrWord) : State :=
  if pREM w then s.postRemote d c w else
  let x := s.ctx d c
  (s.postCtr d x.part (wbits w 8 12) (pADD w) (pCLR w) x.tag).accept d c 1 false

def execPost (d c : Nat) (s : State) : Host.Outcome State Fault Refusal := syncRow 0x60 d c s postChecks (s.post d c)

/-! ## WAIT (10 R419, R414) -/

def wCTR (w : InstrWord) : Nat := wbits w 8 12
def wTHR (w : InstrWord) : Nat := wbits w 20 56

/-- A context that reads a poisoned counter stops, and its poison is consumed (DESIGN CHOICE, log entry 119). -/
def State.tokenPoison (s : State) (d c i : Nat) : State :=
  let x := s.ctx d c
  (s.ctxTo d c { x with state := cSTOPPED, fopc := 0x61, heldus := 0, wctr := 0, wthr := 0 }).consumed d x.tag x.part (ctxIsland c)
    (gaddr (.ctx d) (ctrOff x.part i / 64 * 64))

/-- The counter has reached the threshold, or the context enters WAIT; its PC stays at the WAIT (DEDUCED, log entry 22). -/
def State.wait (s : State) (d c : Nat) (w : InstrWord) : State :=
  let x := s.ctx d c
  let s := s.readCheck (.ctx d) (ctrOff x.part (wCTR w)) 8
  if s.poisoned (.ctx d) (ctrOff x.part (wCTR w)) 8 then s.tokenPoison d c (wCTR w)
  else if wTHR w ≤ s.ctrCount d x.part (wCTR w) then s.accept d c 1 false
  else s.ctxTo d c { x with state := cWAIT, wctr := wCTR w, wthr := wTHR w, heldus := 0 }

def execWait (d c : Nat) (s : State) : Host.Outcome State Fault Refusal :=
  syncRow 0x61 d c s (fun w => [(decide (wbits w 76 52 ≠ 0), 1), (wCTR w = 0xFFF, 7)]) (s.wait d c)

/-- The waiting context sees that its threshold is reached. -/
def State.waitRelease (s : State) (d c : Nat) : State :=
  let x := s.ctx d c
  if x.state ≠ cWAIT then s else
  let s := s.readCheck (.ctx d) (ctrOff x.part x.wctr) 8
  if s.poisoned (.ctx d) (ctrOff x.part x.wctr) 8 then s.tokenPoison d c x.wctr
  else if x.wthr ≤ s.ctrCount d x.part x.wctr then s.accept d c 1 false else s

def execWaitRelease (d c : Nat) (s : State) : Host.Outcome State Fault Refusal :=
  if s.hasCtx d c then .next (s.waitRelease d c) else .fault .absentUnit

/-! ## FENCE and END (10 R420, R422) -/

/-- The fence or END at the front is satisfied: DONE is posted, and the context is released or freed in the same cycle. -/
def State.fenceDone (s : State) (d c : Nat) (w : InstrWord) : State :=
  let x := s.ctx d c
  let s := s.done d x.part (wbits w 8 12) x.tag
  if wbits w 0 8 = 0x65 then s.ctxTo d c {} else s.accept d c 1 false

/-- A FENCE or END is carried out, or holds while an earlier instruction has not completed. -/
def State.fence (s : State) (d c : Nat) (w : InstrWord) : State :=
  let x := s.ctx d c
  if x.outst = 0 then s.fenceDone d c w
  else s.ctxTo d c { x with state := cFENCE, ending := wbits w 0 8 = 0x65, heldus := 0 }

def fenceChecks (w : InstrWord) : List (Bool × Nat) := [(decide (wbits w 20 108 ≠ 0), 1)]

def execFence (d c : Nat) (s : State) : Host.Outcome State Fault Refusal := syncRow 0x62 d c s fenceChecks (s.fence d c)
def execEnd (d c : Nat) (s : State) : Host.Outcome State Fault Refusal := syncRow 0x65 d c s fenceChecks (s.fence d c)

/-- The last earlier instruction of a fenced context has completed. -/
def State.fenceSatisfied (s : State) (d c : Nat) : State :=
  let x := s.ctx d c
  match x.ibuf with
  | [] => s
  | w :: _ =>
    if x.state ≠ cFENCE ∨ x.outst ≠ 0 then s
    else (s.putCtx d c { x with ending := false }).fenceDone d c w

def execFenceSatisfied (d c : Nat) (s : State) : Host.Outcome State Fault Refusal :=
  if s.hasCtx d c then .next (s.fenceSatisfied d c) else .fault .absentUnit

/-! ## YIELD (10 R411) -/

/-- The context stops presenting for CYC cycles, and loses contentions until its next acceptance (DESIGN CHOICE, log entry 23: cycles pass between
commands). -/
def State.yield (s : State) (d c : Nat) (w : InstrWord) : State :=
  let s := s.accept d c 1 false
  s.putCtx d c { s.ctx d c with yieldCyc := wbits w 8 16, yielded := true }

def execYield (d c : Nat) (s : State) : Host.Outcome State Fault Refusal :=
  syncRow 0x64 d c s (fun w => [(decide (wbits w 24 104 ≠ 0), 1)]) (s.yield d c)

/-! ## SPAWN (10 R421, R423) -/

def sENG (w : InstrWord) : Nat := wbits w 20 2
def sINST (w : InstrWord) : Nat := wbits w 22 4
def sCTX (w : InstrWord) : Nat := wbits w 26 12
def sPC (w : InstrWord) : Nat := wbits w 38 32
def sPRED (w : InstrWord) : Bool := wbit w 80
def sNEG (w : InstrWord) : Bool := wbit w 81
def sPADDR (w : InstrWord) : Nat := 16 * wbits w 82 19
def sPLO (w : InstrWord) : Nat := wbits w 101 7
def sPWID (w : InstrWord) : Nat := wbits w 108 7

/-- The target exists (10 R401). -/
def sTargetOk (w : InstrWord) : Bool :=
  match sENG w with
  | 0 => decide (sCTX w < 1024)
  | 1 => decide (sINST w < 4) && decide (sCTX w < 1024)
  | 2 => sINST w = 0
  | _ => sINST w = 0 && decide (sCTX w < 1024)

/-- Die context number of the target. -/
def sTarget (w : InstrWord) : Nat :=
  match sENG w with
  | 0 => 1024 * sINST w + sCTX w
  | 1 => 16384 + 1024 * sINST w + sCTX w
  | 2 => 20480 + sCTX w
  | _ => 24576 + sCTX w

/-- CLIM of a tag on a die. -/
def State.clim (s : State) (d tag : Nat) : Nat := s.rf d (oThrJob tag) thrJobClim

/-- Checks of a SPAWN. -/
def State.spawnChecks (s : State) (d c : Nat) (w : InstrWord) : List (Bool × Nat) :=
  let x := s.ctx d c
  [(decide (wbits w 70 10 ≠ 0) || decide (wbits w 115 13 ≠ 0), 1),
   (! sTargetOk w || (sPRED w && decide (127 < sPLO w + sPWID w)), 7),
   (decide (sPC w % 16 ≠ 0), 8),
   (decide (s.clim d x.tag ≤ sPC w), 6),
   (! s.ctxGranted d x.part (sTarget w) || (sPRED w && ! s.ctxWindow d x.part (sPADDR w) 16), 9)]

/-- A thread starts in a context (10 R421, R440). -/
def State.startThread (s : State) (d c tag part pc : Nat) : State :=
  s.ctxFull d c { state := cREADY, tag := tag, part := part, pc := pc }

/-- The SPAWN completes and posts DONE. -/
def State.spawnEnd (s : State) (d c : Nat) (w : InstrWord) : State :=
  let x := s.ctx d c
  (s.done d x.part (wbits w 8 12) x.tag).accept d c 1 false

/-- A SPAWN whose checks pass: the predicate word is read indivisibly, and the target starts, or is waited for. -/
def State.spawn (s : State) (d c : Nat) (w : InstrWord) : State :=
  let x := s.ctx d c
  let s := if sPRED w then s.readCheck (.ctx d) (sPADDR w) 16 else s
  if sPRED w ∧ s.poisoned (.ctx d) (sPADDR w) 16 then
    (s.ctxTo d c { x with state := cSTOPPED, fopc := 0x63 }).consumed d x.tag x.part (ctxIsland c) (gaddr (.ctx d) (sPADDR w))
  else
    let f := bits (s.peekN (.ctx d) (sPADDR w) 16) (sPLO w) (sPWID w + 1)
    if sPRED w ∧ (decide (f ≠ 0) = sNEG w) then s.spawnEnd d c w
    else if (s.ctx d (sTarget w)).state ≠ cFREE then s.hold d c
    else (s.startThread d (sTarget w) x.tag x.part (sPC w)).spawnEnd d c w

def execSpawn (d c : Nat) (s : State) : Host.Outcome State Fault Refusal :=
  syncRow 0x63 d c s (s.spawnChecks d c) (s.spawn d c)

/-! ## Fetch (10 R406–R409) -/

/-- Capacity of an engine instance's instruction buffer, in words (10 R407). -/
def bufWords (c : Nat) : Nat := match ctxEng c with
  | 1 => 4096
  | 2 => 2048
  | _ => 1024

/-- Words an instance's buffer holds. -/
def State.bufUsed (s : State) (d c : Nat) : Nat :=
  sumBy (fun (e : Nat × Ctx) =>
    if e.1 / 25600 = d ∧ ctxEng (e.1 % 25600) = ctxEng c ∧ ctxInst (e.1 % 25600) = ctxInst c then e.2.ibuf.length else 0) s.ctxs

/-- The words of 16 n bytes from byte o of a stack. -/
def State.codeWords (s : State) (d o : Nat) : Nat → List InstrWord
  | 0 => []
  | n + 1 => BitVec.ofNat 128 (s.peekN (.cellar d) o 16) :: State.codeWords s d (o + 16) n

/-- The fetch unit reads the next sack of a READY context's code, up to 4 sacks from its PC and further while the buffer has room; a
sack beyond CLIM or poisoned stops the context only when its own PC lies in it (DEDUCED, log entry 24). -/
def State.fetch (s : State) (d c : Nat) : State :=
  let x := s.ctx d c
  if x.state ≠ cREADY then s else
  if 16 ≤ x.ibuf.length ∧ bufWords c < s.bufUsed d c + 4 then s else
  let a := x.pc + 16 * x.ibuf.length
  let now := x.ibuf = []
  if s.clim d x.tag ≤ a then (if now then s.reject d c 6 (if ctxEng c = 0 then 3 else 0) else s) else
  let o := s.rf d (oThrJob x.tag) thrJobCbase + a
  let s := s.readCheck (.cellar d) o 16
  if s.poisoned (.cellar d) o 16 then
    (if now then
      (s.ctxTo d c { s.ctx d c with state := cSTOPPED }).consumed d x.tag x.part (ctxIsland c) (gaddr (.cellar d) (o / 64 * 64))
    else s)
  else s.putCtx d c { s.ctx d c with ibuf := x.ibuf ++ s.codeWords d o ((64 - a % 64) / 16) }

def execInstructionFetch (d c : Nat) (s : State) : Host.Outcome State Fault Refusal :=
  if s.hasCtx d c then .next (s.fetch d c) else .fault .absentUnit

/-! ## Images (10 R405) -/

/-- Every 100 µs the engine rewrites the image of a held or stopped context; us is how long the hold has lasted (DESIGN CHOICE, log entry 21). -/
def State.imageUpdate (s : State) (d c us : Nat) : State :=
  let x := s.ctx d c
  if x.state = cWAIT ∨ x.state = cHOLD ∨ x.state = cFENCE then s.ctxFull d c { x with heldus := min us (2 ^ 32 - 1) }
  else if x.state = cSTOPPED then s.ctxFull d c x
  else s

def execContextImageUpdate (d c us : Nat) (s : State) : Host.Outcome State Fault Refusal :=
  if s.hasCtx d c then .next (s.imageUpdate d c us) else .fault .absentUnit

end Sys2Proof.Machine
end

