-- ==== Sys2Proof/Machine/QLink.lean ====
section
/-!
DEFINITION. Sys2Proof/Machine/QLink.lean: flits, credits, retry and training of a QLink port, and the loss of a port (13_qlink.md).
-/
namespace Sys2Proof.Machine

/-! ## Flits (13 R546–R548) -/

/-- One bit step of CRC-32C, reflected. -/
def crcBit (c : Nat) : Nat := if c % 2 = 1 then (c / 2) ^^^ 0x82F63B78 else c / 2

/-- One byte of CRC-32C. -/
def crcByte (c : Nat) (b : Byte) : Nat :=
  crcBit (crcBit (crcBit (crcBit (crcBit (crcBit (crcBit (crcBit (c ^^^ b.toNat))))))))

/-- CRC-32C of bytes (13 R547). -/
def crc32c (bs : List Byte) : Nat := (bs.foldl crcByte 0xFFFFFFFF) ^^^ 0xFFFFFFFF

/-- A flit: header, 248 bytes of payload, CRC. -/
def mkFlit (vc seq pool pbt pbv : Nat) (pl : List Byte) : List Byte :=
  let h := toBytes 4 (vc % 16 + seq % 2048 * 2 ^ 4 + pool % 2 * 2 ^ 15 + pbt % 4 * 2 ^ 16 + pbv % 2 ^ 12 * 2 ^ 18)
  let b := h ++ (pl ++ List.replicate (248 - pl.length) 0).take 248
  b ++ toBytes 4 (crc32c b)

/-- Header bits of a flit. -/
def flHead (fl : List Byte) : Nat := ofBytes (fl.take 4)
/-- Payload of a flit. -/
def flPayload (fl : List Byte) : List Byte := (fl.drop 4).take 248
/-- The flit's CRC holds. -/
def flOk (fl : List Byte) : Bool := fl.length = 256 && decide (crc32c (fl.take 252) = ofBytes (fl.drop 252))
def flVc (fl : List Byte) : Nat := bits (flHead fl) 0 4
def flSeq (fl : List Byte) : Nat := bits (flHead fl) 4 11
def flPool (fl : List Byte) : Bool := bit (flHead fl) 15
def flPbt (fl : List Byte) : Nat := bits (flHead fl) 16 2
def flPbv (fl : List Byte) : Nat := bits (flHead fl) 18 12

/-! ## Lanes and widths (13 R542) -/

/-- Lanes of a width code (13 R545). -/
def laneCount (w : Nat) : Nat := 8 / 2 ^ w
/-- Lanes MINW asks for (13 R578). -/
def minLanes (m : Nat) : Nat := 2 * 2 ^ m

/-- Lanes lo .. lo + n − 1 are good. -/
def lanesGood (good lo n : Nat) : Bool := bits good lo n = 2 ^ n - 1

/-- The lanes that serve a width: the lowest aligned group of that many lanes that are all good (13 R542). -/
def lanesOf (good w : Nat) : Option (List Nat) :=
  let n := laneCount w
  ((List.range (8 / n)).find? (fun k => lanesGood good (n * k) n)).map (fun k => (List.range n).map (fun j => n * k + j))

/-- The widest of the width codes w and above whose lanes are all good. -/
def widthFrom (good w : Nat) : Option Nat := [0, 1, 2].find? (fun v => decide (w ≤ v) && (lanesOf good v).isSome)

/-! ## Codewords (13 R544, R545). The code of IEEE 802.3 Clause 91 is named, not printed, by the spec: PRESUMED, log entry 97. -/

/-- Multiply by the primitive element of GF(2^10), field polynomial x^10 + x^3 + 1. -/
def gfDouble (a : Nat) : Nat := if 512 ≤ a then (2 * a - 1024) ^^^ 9 else 2 * a

/-- Product in GF(2^10), over the low n bits of b. -/
def gfMul (a : Nat) : Nat → Nat → Nat
  | 0, _ => 0
  | n + 1, b => (if b % 2 = 1 then a else 0) ^^^ gfMul (gfDouble a) n (b / 2)

/-- The coefficients of p(x) · (x + r), highest power first; c is the coefficient above. -/
def mulRoot (r : Nat) : Nat → List Nat → List Nat
  | c, [] => [gfMul c 10 r]
  | c, p :: ps => (p ^^^ gfMul c 10 r) :: mulRoot r p ps

/-- The product of (x + α^j) for n roots from r = α^j0 on, without its leading 1. -/
def genPoly : Nat → Nat → List Nat → List Nat
  | 0, _, g => g
  | n + 1, r, g => genPoly n (gfDouble r) (mulRoot r 1 g)

/-- The 30 coefficients below the leading one of the generator polynomial. -/
def rsGen : List Nat := genPoly 30 1 []

/-- Parity symbols after the message symbols: the remainder of the message by the generator, one symbol at a time. -/
def rsParity : List Nat → List Nat → List Nat
  | [], r => r
  | m :: ms, r =>
    let f := m ^^^ r.headD 0
    rsParity ms ((r.drop 1 ++ [0]).zipWith (fun a g => a ^^^ gfMul f 10 g) rsGen)

/-- The 544 symbols of the codeword with index cwi, width code w and 640 flit bytes bs. -/
def codeword (cwi w : Nat) (bs : List Byte) : List Nat :=
  let v := cwi % 1024 + w % 4 * 2 ^ 10 + ofBytes bs * 2 ^ 20
  let m := (List.range 514).map (fun k => bits v (10 * k) 10)
  m ++ rsParity m (List.replicate 30 0)

/-- The symbols of a codeword that the k-th of n active lanes sends. -/
def laneSyms (n k : Nat) (cw : List Nat) : List Nat := (List.range ((543 - k) / n + 1)).map (fun j => cw.getD (n * j + k) 0)

/-- Flit bytes join the stream of codewords: each 640 of them make one, which the active lanes send. -/
def Port.frame (x : Port) (w : Nat) (bs : List Byte) : Port :=
  let b := x.cwBytes ++ bs
  if b.length < 640 then { x with cwBytes := b } else
  let cw := codeword x.cwi w (b.take 640)
  let ls := (lanesOf x.goodTx w).getD []
  { x with cwBytes := b.drop 640, cwi := (x.cwi + 1) % 1024, laneOut := ls.zipIdx.map (fun t => (t.1, laneSyms ls.length t.2 cw)) }

/-- The next flit received is in a codeword past correction; errs counts the symbol errors of the codeword that starts in it, when one
does: the first and the third flit of five start one, and 15 errors can be corrected. -/
def Port.flitBad (x : Port) (errs : Nat) : Bool :=
  if x.rxPos = 0 then decide (15 < errs) else x.rxBad || (x.rxPos = 2 && decide (15 < errs))

/-- A codeword starts in the next flit received. -/
def Port.startsCw (x : Port) : Bool := x.rxPos = 0 || x.rxPos = 2

/-- The place of the flit after this one. -/
def Port.nextPos (x : Port) (errs : Nat) : Port :=
  { x with rxPos := (x.rxPos + 1) % 5, rxBad := if x.startsCw then decide (15 < errs) else x.rxBad }

/-! ## Fields of a port -/

/-- A field of QL_PSTAT of port i of die d. -/
def State.pst (s : State) (d i : Nat) (f : Fld) : Nat := s.rf d (oQlPstat i) f
/-- Write fields of QL_PSTAT. -/
def State.setPst (s : State) (d i : Nat) (fs : List (Fld × Nat)) : State := s.wfs d (oQlPstat i) fs

/-- Count n in a field of QL_ECNT; the counter stops at its largest value. -/
def State.ecnt (s : State) (d i : Nat) (f : Fld) (n : Nat) : State :=
  let c := s.rf d (oQlEcnt i) f + n
  s.wf d (oQlEcnt i) f (if c < 2 ^ f.w then c else 2 ^ f.w - 1)

/-- LINK_WIDTH event of a direction (14 R598). -/
def State.linkWidth (s : State) (d i : Nat) (rx : Bool) : State :=
  let w := s.pst d i (if rx then qlPstatRxw else qlPstatTxw)
  let st := s.pst d i (if rx then qlPstatRxst else qlPstatTxst)
  s.raise 0 0x8002 0xFF ((3 * d + i) + (if rx then 32 else 0) + w * 64 + st * 256 + s.pst d i qlPstatDupid * 2048)

/-- The IDENT payload (13 R550). -/
def State.identPl (s : State) (d i : Nat) : List Byte :=
  [2] ++ toBytes 2 s.modNum ++ toBytes 1 (3 * d + i) ++ toBytes 1 (s.rf d (oQlPctl i) qlPctlNax) ++ toBytes 8 Config.deviceSerial.toNat

/-- The NAK payload (13 R548). -/
def nakPl (seq : Nat) : List Byte := [1] ++ toBytes 2 (seq % 2048)

/-- A control flit waits to be sent. -/
def State.pushCtl (s : State) (d i : Nat) (pl : List Byte) : State :=
  let x := s.port d i
  s.putPort d i { x with ctl := enq x.ctl pl }

/-! ## Sending (13 R555, R565, 10 R429) -/

/-- The piggyback of the next flit: an ack every fourth flit, else credit returns in turn (13 R548; DESIGN CHOICE, log entry 34). -/
def Port.piggy (x : Port) : Nat × Nat :=
  if x.sent % 4 = 0 then (1, (x.rxSeq + 2047) % 2048)
  else if x.sent % 4 = 1 then (3, x.sFreed % 4096)
  else
    let ch := (x.sent / 4 * 2 + (x.sent % 4 - 2)) % 15
    (2, ch + mget n0 x.dFreed ch / 4 % 256 * 16)

/-- Put a flit on the line. An inoculation of point 0x40 corrupts the CRC of a sequenced one (15 R660). -/
def State.putLine (s : State) (d i vc seq pool : Nat) (pl : List Byte) : State :=
  let x := s.port d i
  let f := mkFlit vc seq pool x.piggy.1 x.piggy.2 pl
  let hit := (s.inoc d).point = 0x40 && (s.inoc d).inst = i && decide (vc ≠ 15)
  let f := if hit then f.set 255 (f.getD 255 0 ^^^ 1) else f
  let s := if hit then s.inocClear d else s
  s.putPort d i ({ s.port d i with line := f, sent := x.sent + 1 }.frame (s.pst d i qlPstatTxw) f)

/-- Tag of the message at the front of a channel's stream. -/
def State.headTag (s : State) (d i ch : Nat) : Option Nat := (mget nilT (s.port d i).txTags ch).head?.map (fun e => e.2.1)

/-- Module that the message at the front of a channel's stream is for. -/
def State.headMod (s : State) (d i ch : Nat) : Option Nat := (mget nilT (s.port d i).txTags ch).head?.map (fun e => e.2.2)

/-- n message bytes leave the front of a channel's stream. -/
def dropTags : Nat → List (Nat × Nat × Nat) → List (Nat × Nat × Nat)
  | _, [] => []
  | n, (k, t) :: l => if n < k then (k - n, t) :: l else dropTags (n - k) l

/-- The channel may send now: it has bytes, a credit and room in the replay buffer, and the port may carry it; with DUPID no message for the
duplicated number leaves (13 R553). -/
def State.chReady (s : State) (d i ch : Nat) : Bool :=
  let x := s.port d i
  decide (mget nilB x.tx ch ≠ []) && decide (x.replay.length < 1023) &&
  (decide (0 < s.rf d (oQlVcstat i ch) qlVcstatDcred) || decide (0 < s.pst d i qlPstatScred)) &&
  (s.pst d i qlPstatDupid = 0 || (ch = 0 && decide (s.headMod d i ch ≠ some (s.pst d i qlPstatFarmod)))) &&
  (ch = 0 || decide (s.pst d i qlPstatAxmis = 0))

/-- The slot that runs is for the traffic at the front of a channel: its owner's channel and tag, or the carried channel. -/
def State.ownsSlot (s : State) (d i ch : Nat) : Bool := (s.headTag d i ch).any (fun t => s.slotFor d i (ch + 1) t)

/-- The channel that sends at the next flit position (10 R429, R430): C14, the slot's owner, a carried owner, C0, C1. -/
def State.nextCh (s : State) (d i : Nat) : Option Nat :=
  let own := (s.slotHolder d i).1
  let ready := s.chReady d i
  if ready 14 then some 14
  else if 1 ≤ own ∧ own ≤ 16 ∧ ready (own - 1) ∧ s.ownsSlot d i (own - 1) then some (own - 1)
  else match bestCarry (s.carry d i) (((List.range 13).map (· + 1)).filter ready) with
    | some v => some v
    | none => if ready 0 then some 0 else if ready 1 then some 1 else none

/-- A new flit of a channel: it takes the next SEQ and a credit, and is held until it is acknowledged. -/
def State.newFlit (s : State) (d i ch : Nat) : State :=
  let x := s.port d i
  let b := mget nilB x.tx ch
  let pl := b.take 248
  let dc := s.rf d (oQlVcstat i ch) qlVcstatDcred
  let pool := if 0 < dc then 0 else 1
  let y := { x with tx := mset nilB x.tx ch (b.drop 248), txTags := mset nilT x.txTags ch (dropTags 248 (mget nilT x.txTags ch)),
                    seq := (x.seq + 1) % 2048,
                    replay := enq x.replay (x.seq, ch + 16 * pool, pl.length, pl) }
  let s := s.putPort d i y
  let s := if pool = 0 then s.wf d (oQlVcstat i ch) qlVcstatDcred (dc - 1)
    else s.setPst d i [(qlPstatScred, s.pst d i qlPstatScred - 1)]
  s.putLine d i ch x.seq pool pl

/-- FLIT_SEND: the next flit of a port, an IDLE when it has nothing else ready. A port that trains sends IDENT once its lanes are aligned (13 R550). -/
def State.flitSend (s : State) (d i : Nat) : State :=
  let x := s.port d i
  let st := s.txst d i
  if st = lDOWN ∨ st = lRETRAIN then s else
  if st = lTRAIN then (if x.aligned then s.putLine d i 15 0 0 (s.identPl d i) else s) else
  match x.ctl with
  | pl :: rest => (s.putPort d i { x with ctl := rest }).putLine d i 15 0 0 pl
  | [] =>
    match x.resend.bind (fun q => x.replay.findIdx? (fun e => e.1 = q)) with
    | some k =>
      let e := x.replay.getD k (0, 0, 0, [])
      let nx := (x.replay[k + 1]?).map (fun e => e.1)
      (s.putPort d i { x with resend := nx }).putLine d i (e.2.1 % 16) e.1 (e.2.1 / 16) e.2.2.2
    | none =>
      match s.nextCh d i with
      | some ch => s.newFlit d i ch
      | none => s.putLine d i 15 0 0 [0]

def execFlitSend (d i : Nat) (s : State) : Host.Outcome State Fault Refusal :=
  if s.hasPort d i then .next (s.flitSend d i) else .fault .absentUnit

/-! ## Credits and acknowledgements (13 R546, R565, R567) -/

/-- The C14 messages whose last byte has been acknowledged are no longer kept (13 R573). -/
def Port.drop14 (x : Port) : Port := { x with c14 := x.c14.filter (fun m => decide (x.ack14 < m.1)) }

/-- An ack of every flit up to SEQ v; a replay that stood at one of them goes on at the first that is left (13 R556). -/
def State.ackTo (s : State) (d i v : Nat) : State :=
  let x := s.port d i
  let gone (e : Nat × Nat × Nat × List Byte) : Bool := decide ((v + 2048 - e.1) % 2048 < 1024)
  let n14 := sumBy (fun (e : Nat × Nat × Nat × List Byte) => if gone e ∧ e.2.1 % 16 = 14 then e.2.2.1 else 0) x.replay
  let left := x.replay.filter (fun e => ! gone e)
  let next := if x.resend.any (fun q => decide ((v + 2048 - q) % 2048 < 1024)) then left.head?.map (fun e => e.1) else x.resend
  let y := { x with replay := left, resend := next, ack14 := x.ack14 + n14 }.drop14
  let fin := match x.retryAt with
    | none => false
    | some q => decide ((v + 2048 - q) % 2048 < 1024)
  if fin then
    let s := s.putPort d i { y with retryAt := none, naksTx := 0 }
    if s.txst d i = lRETRY then s.setPst d i [(qlPstatTxst, lACTIVE)] else s
  else s.putPort d i y

/-- The piggyback of an accepted flit acts. -/
def State.applyPiggy (s : State) (d i : Nat) (fl : List Byte) : State :=
  let x := s.port d i
  let v := flPbv fl
  match flPbt fl with
  | 1 => s.ackTo d i (bits v 0 11)
  | 2 =>
    let ch := bits v 0 4
    if ch = 15 then s else
    let k := (bits v 4 8 + 256 - mget n0 x.dSeen ch) % 256
    let s := s.putPort d i { x with dSeen := mset n0 x.dSeen ch (bits v 4 8) }
    s.wf d (oQlVcstat i ch) qlVcstatDcred (s.rf d (oQlVcstat i ch) qlVcstatDcred + 4 * k)
  | 3 =>
    let k := (v + 4096 - x.sSeen) % 4096
    let s := s.putPort d i { x with sSeen := v }
    s.setPst d i [(qlPstatScred, s.pst d i qlPstatScred + k)]
  | _ => s

/-- Bytes at the front of a channel's buffer are delivered or discarded: the flits left, dedicated and shared ones freed. -/
def freeFlits : Nat → List (Bool × Nat) → List (Bool × Nat) × Nat × Nat
  | _, [] => ([], 0, 0)
  | n, (sh, k) :: fs =>
    if n < k then ((sh, k - n) :: fs, 0, 0) else
    let t := freeFlits (n - k) fs
    (t.1, t.2.1 + (if sh then 0 else 1), t.2.2 + (if sh then 1 else 0))

/-- n bytes of a channel leave the receive buffer, and the credits of its freed flits are returned to the pools they used. -/
def State.freeBytes (s : State) (d i ch n : Nat) : State :=
  let r := s.rxch d i ch
  let t := freeFlits n r.flits
  let s := s.putRxch d i ch { r with flits := t.1 }
  let x := s.port d i
  s.putPort d i { x with dFreed := mset n0 x.dFreed ch (mget n0 x.dFreed ch + t.2.1), sFreed := x.sFreed + t.2.2 }

/-- A C14 message whose port enters RETRAIN or DOWN is sent again on another qualifying port (13 R573). -/
def State.resend14 (s : State) (d i : Nat) : State :=
  (s.port d i).c14.foldl (fun s m => match s.choosePort d 14 m.2.tag m.2.dmod with
    | none => s
    | some p => if p = (d, i) then s else s.enqueueMsg p.1 p.2 14 m.2) s

/-! ## States (13 R549, R551, R554) -/

/-- A direction enters RETRAIN. -/
def State.toRetrain (s : State) (d i : Nat) (tx : Bool) : State :=
  let s := (s.setPst d i [(if tx then qlPstatTxst else qlPstatRxst, lRETRAIN)]).ecnt d i qlEcntRetrain 1
  if tx then s.resend14 d i else s

/-- The framing of a direction starts afresh (DESIGN CHOICE, log entry 101). -/
def Port.reframe (x : Port) (tx : Bool) : Port :=
  if tx then { x with cwBytes := [], cwi := 0, laneOut := [] } else { x with rxPos := 0, rxBad := false }

/-- Both directions enter a state. -/
def State.bothTo (s : State) (d i st : Nat) : State :=
  let s := s.setPst d i [(qlPstatTxst, st), (qlPstatRxst, st)]
  let s := s.wf d (oQlPctl i) qlPctlRetrain 0
  s.putPort d i (({ s.port d i with ident := false, aligned := false }.reframe true).reframe false)

/-- RETRAIN reads 1 until neither direction is in RETRAIN (13 R578). -/
def State.retrainDone (s : State) (d i : Nat) : State :=
  if s.txst d i = lRETRAIN ∨ s.rxst d i = lRETRAIN then s else s.wf d (oQlPctl i) qlPctlRetrain 0

/-! ## Receiving (13 R547, R555, R556) -/

/-- The receiver enters its side of RETRY: one NAK with the expected SEQ. -/
def State.rxRetry (s : State) (d i : Nat) : State :=
  if s.rxst d i ≠ lACTIVE then s else
  let x := s.port d i
  let s := (s.setPst d i [(qlPstatRxst, lRETRY)]).ecnt d i qlEcntRetry 1
  (s.putPort d i { x with naks := 1 }).pushCtl d i (nakPl x.rxSeq)

/-- A sequenced flit that is accepted. -/
def State.acceptFlit (s : State) (d i : Nat) (fl : List Byte) : State :=
  let x := s.port d i
  let s := s.putPort d i { x with rxSeq := (x.rxSeq + 1) % 2048, naks := 0 }
  let s := if s.rxst d i = lRETRY then s.setPst d i [(qlPstatRxst, lACTIVE)] else s
  let s := s.applyPiggy d i fl
  let r := s.rxch d i (flVc fl)
  s.putRxch d i (flVc fl) { r with bytes := r.bytes ++ flPayload fl, flits := enq r.flits (flPool fl, 248) }

/-- Error counts of a received flit, and of the codeword that starts in it; true when the flit is discarded. An inoculation of point 0x41
adds NSYM symbol errors to the next codeword (DEDUCED, log entry 35). -/
def State.lineCheck (s : State) (d i : Nat) (fl : List Byte) (errs : Nat) : Bool × State :=
  let x := s.port d i
  let hit := (s.inoc d).point = 0x41 && (s.inoc d).inst = i && x.startsCw
  let n := errs + (if hit then (s.inoc d).nsym else 0)
  let s := if hit then s.inocClear d else s
  let s := if ! x.startsCw then s else if 15 < n then s.ecnt d i qlEcntUncorr 1 else s.ecnt d i qlEcntCorr n
  let s := if flOk fl then s else s.ecnt d i qlEcntCrcerr 1
  (x.flitBad n || ! flOk fl, s.putPort d i ((s.port d i).nextPos n))

/-- The receive direction takes sequenced flits. -/
def State.rxLive (s : State) (d i : Nat) : Bool := s.rxst d i = lACTIVE || s.rxst d i = lRETRY

/-- FLIT_RECEIVE: fl is the flit as the decoder gives it, errs the symbol errors of the codeword that starts in it. -/
def State.flitReceive (s : State) (d i : Nat) (fl : List Byte) (errs : Nat) : State :=
  if ! s.rxLive d i then s else
  let t := s.lineCheck d i fl errs
  if t.1 then t.2.rxRetry d i else
  let s := t.2
  if flVc fl = 15 then s else
  let x := s.port d i
  if flSeq fl = x.rxSeq then s.acceptFlit d i fl
  else if (x.rxSeq + 2047 - flSeq fl) % 2048 < 1024 then s
  else s.rxRetry d i

/-- The codeword that starts in the flit had dataErrs errors among its data symbols and parErrs among its parity symbols (13 R544). -/
def execFlitReceive (d i : Nat) (fl : List Byte) (dataErrs parErrs : Nat) (s : State) : Host.Outcome State Fault Refusal :=
  if s.hasPort d i then .next (s.flitReceive d i fl (dataErrs + parErrs)) else .fault .absentUnit

/-- A control flit of a kind arrives: a damaged one starts a retry, one of another kind is no such event; else its piggyback acts and
then its body. -/
def State.ctlFlit (s : State) (d i kind : Nat) (lf : LineFlit) (train : Bool) (body : State → State) : State :=
  let fl := lf.bytes
  let pl := flPayload fl
  if ! s.rxLive d i ∧ ! (train ∧ s.rxst d i = lTRAIN) then s else
  if flOk fl ∧ (flVc fl ≠ 15 ∨ (pl.headD 0).toNat ≠ kind) then s else
  let t := s.lineCheck d i fl lf.errs
  if t.1 then t.2.rxRetry d i
  else if s.rxLive d i then body (t.2.applyPiggy d i fl)
  else body t.2

def execIdle (d i : Nat) (fl : LineFlit) (s : State) : Host.Outcome State Fault Refusal :=
  if s.hasPort d i then .next (s.ctlFlit d i 0 fl false id) else .fault .absentUnit

/-- A NAK: the sender stops new flits and resends every flit from the SEQ expected; one that expects the next new flit starts a retry
with nothing to resend (13 R556). -/
def State.nakRx (s : State) (d i q : Nat) : State :=
  let x := s.port d i
  let held := x.replay.any (fun e => e.1 = q)
  if s.txst d i ≠ lACTIVE ∧ s.txst d i ≠ lRETRY ∨ (! held ∧ q ≠ x.seq) then s else
  let s := if s.txst d i = lACTIVE then (s.setPst d i [(qlPstatTxst, lRETRY)]).ecnt d i qlEcntRetry 1 else s
  s.putPort d i { s.port d i with resend := if held then some q else none, retryAt := some q,
                                  naksTx := if x.retryAt = some q then x.naksTx + 1 else 1 }

def execNak (d i : Nat) (fl : LineFlit) (s : State) : Host.Outcome State Fault Refusal :=
  if s.hasPort d i then
    .next (s.ctlFlit d i 1 fl false (fun s => s.nakRx d i (bits (ofBytes ((flPayload fl.bytes).drop 1 |>.take 2)) 0 11)))
  else .fault .absentUnit

/-- LANESTAT: its payload is not given, so only its piggyback acts (DEDUCED, log entry 38). -/
def execLanestat (d i : Nat) (fl : LineFlit) (s : State) : Host.Outcome State Fault Refusal :=
  if s.hasPort d i then .next (s.ctlFlit d i 3 fl false id) else .fault .absentUnit

/-- NAK_RESEND: us microseconds have passed since the last NAK without the expected flit. -/
def State.nakAgain (s : State) (d i us : Nat) : State :=
  let x := s.port d i
  if s.rxst d i = lRETRY ∧ 1 ≤ us ∧ x.naks < 3 then (s.putPort d i { x with naks := x.naks + 1 }).pushCtl d i (nakPl x.rxSeq) else s

def execNakResend (d i us : Nat) (s : State) : Host.Outcome State Fault Refusal :=
  if s.hasPort d i then .next (s.nakAgain d i us) else .fault .absentUnit

/-- RETRY_LIMIT: a direction whose retry has lasted us = 4 µs, or has seen the third NAK for one SEQ, enters RETRAIN (13 R556). -/
def State.retryLimit (s : State) (d i us : Nat) : State :=
  let x := s.port d i
  let s := if s.rxst d i = lRETRY ∧ (4 ≤ us ∨ 3 ≤ x.naks) then
      (s.putPort d i { x with naks := 0 }).toRetrain d i false else s
  if s.txst d i = lRETRY ∧ (4 ≤ us ∨ 3 ≤ (s.port d i).naksTx) then
    (s.putPort d i { s.port d i with naksTx := 0 }).toRetrain d i true else s

def execRetryLimit (d i us : Nat) (s : State) : Host.Outcome State Fault Refusal :=
  if s.hasPort d i then .next (s.retryLimit d i us) else .fault .absentUnit

/-! ## IDENT (13 R550, R552, R553) -/

/-- The port's far end duplicates a module number (13 R553; DEDUCED, log entry 33). -/
def State.duplicates (s : State) (d i : Nat) : Bool :=
  let m := s.pst d i qlPstatFarmod
  decide (m ≠ 0xFFFF) && (m = s.modNum ||
    s.allPorts.any (fun p => decide (p ≠ (d, i)) && (s.txst p.1 p.2 = lACTIVE) && decide (s.pst p.1 p.2 qlPstatFarmod = m) &&
      decide ((s.port p.1 p.2).farSerial ≠ (s.port d i).farSerial)))

/-- DUPID of every port, with a LINK_WIDTH event for each that newly has it. -/
def dupids : State → List (Nat × Nat) → State
  | s, [] => s
  | s, (d, i) :: ps =>
    let v := s.duplicates d i
    let old := s.pst d i qlPstatDupid
    let s := s.setPst d i [(qlPstatDupid, if v then 1 else 0)]
    dupids (if v ∧ old = 0 then s.linkWidth d i false else s) ps

/-- An IDENT arrives. -/
def State.identRx (s : State) (d i : Nat) (pl : List Byte) : State :=
  let f (o n : Nat) : Nat := ofBytes ((pl.drop o).take n)
  let nax := bits (f 4 1) 0 3
  let s := s.setPst d i [(qlPstatFarmod, f 1 2), (qlPstatFarport, bits (f 3 1) 0 5), (qlPstatFarnax, nax),
    (qlPstatAxmis, if nax = s.rf d (oQlPctl i) qlPctlNax then 0 else 1)]
  let s := s.putPort d i { s.port d i with farSerial := f 5 8, ident := true }
  dupids s s.allPorts

def execIdent (d i : Nat) (fl : LineFlit) (s : State) : Host.Outcome State Fault Refusal :=
  if s.hasPort d i then .next (s.ctlFlit d i 2 fl true (fun s => s.identRx d i (flPayload fl.bytes))) else .fault .absentUnit

/-! ## Training (13 R549–R551, R578) -/

/-- Credits, sequence numbers and replay at their initial values; what waits to be sent is kept (13 R550). -/
def Port.books (x : Port) : Port :=
  { x with seq := 0, replay := [], resend := none, ctl := [], rxSeq := 0, naks := 0, rx := [], dFreed := [], sFreed := 0, dSeen := [],
           sSeen := 0, failsTx := 0, failsRx := 0, retryAt := none, naksTx := 0, sent := 0 }

/-- Every dedicated count of a port at its allocation (13 R564). -/
def fullCredits (d i : Nat) : Nat → State → State
  | 0, s => s
  | n + 1, s => fullCredits d i n (s.wf d (oQlVcstat i n) qlVcstatDcred (dcredReset n))

/-- TRAIN detects the good lanes gt and gr, aligns them, chooses the widths, none below MINW, and sets the books of both directions (13 R550). -/
def State.align (s : State) (d i gt gr : Nat) : State :=
  let x := s.port d i
  let m := minLanes (s.rf d (oQlPctl i) qlPctlMinw)
  match widthFrom gt 0, widthFrom gr 0 with
  | some wt, some wr =>
    if x.aligned ∨ laneCount wt < m ∨ laneCount wr < m then s else
    let ot := s.pst d i qlPstatTxw
    let or_ := s.pst d i qlPstatRxw
    let s := fullCredits d i 15 (s.putPort d i { x.books with aligned := true, goodTx := gt % 256, goodRx := gr % 256 })
    let s := s.setPst d i [(qlPstatTxw, wt), (qlPstatRxw, wr), (qlPstatScred, 672)]
    let s := if wt = ot then s else s.linkWidth d i false
    if wr = or_ then s else s.linkWidth d i true
  | _, _ => s

/-- TRAIN_COMPLETE: the lanes are aligned, with bit l of gt and gr saying that lane l of the sending and of the receiving direction is good; once
the far IDENT is there, the port enters ACTIVE. -/
def State.trainDone (s : State) (d i gt gr : Nat) : State :=
  if s.txst d i ≠ lTRAIN ∨ s.rxst d i ≠ lTRAIN ∨ (s.port d i).svc then s else
  let s := s.align d i gt gr
  let x := s.port d i
  if ! x.ident ∨ ! x.aligned then s else
  let s := (s.putPort d i { x with svc := true }).setPst d i [(qlPstatTxst, lACTIVE), (qlPstatRxst, lACTIVE)]
  dupids s s.allPorts

def execTrainComplete (d i gt gr : Nat) (s : State) : Host.Outcome State Fault Refusal :=
  if s.hasPort d i then .next (s.trainDone d i gt gr) else .fault .absentUnit

/-- TRAIN_TIMEOUT: us microseconds in TRAIN without success. -/
def execTrainTimeout (d i us : Nat) (s : State) : Host.Outcome State Fault Refusal :=
  if ! s.hasPort d i then .fault .absentUnit
  else .next (if s.txst d i = lTRAIN ∧ 100000 ≤ us then s.bothTo d i lDOWN else s)

/-- The port starts to train if TRAIN lets it. -/
def State.startTrain (s : State) (d i : Nat) : State :=
  if s.txst d i = lDOWN ∧ s.rf d (oQlPctl i) qlPctlTrain = 1 then s.bothTo d i lTRAIN else s

/-- DOWN_RETRAIN_TIMER: us microseconds in DOWN. -/
def execDownRetrainTimer (d i us : Nat) (s : State) : Host.Outcome State Fault Refusal :=
  if ! s.hasPort d i then .fault .absentUnit else .next (if 100000 ≤ us then s.startTrain d i else s)

/-- QLINK_CABLE_MATE: QLpp_PRSNT# goes from high to low. -/
def execQlinkCableMate (d i : Nat) (s : State) : Host.Outcome State Fault Refusal :=
  if ! s.hasPort d i then .fault .absentUnit
  else .next (if (s.port d i).cable then s else (s.putPort d i { s.port d i with cable := true }).startTrain d i)

/-- QLINK_CABLE_UNMATE (18 R752). -/
def execQlinkCableUnmate (d i : Nat) (s : State) : Host.Outcome State Fault Refusal :=
  if ! s.hasPort d i then .fault .absentUnit
  else .next ((s.putPort d i { s.port d i with cable := false }).bothTo d i lDOWN)

/-- Firmware writes TRAIN. -/
def State.writeTrain (s : State) (d i : Nat) (v : Bool) : State :=
  let s := s.wf d (oQlPctl i) qlPctlTrain (if v then 1 else 0)
  if v then s.startTrain d i else s.bothTo d i lDOWN

def execQlTrainWrite (d i : Nat) (v : Bool) (s : State) : Host.Outcome State Fault Refusal :=
  if s.hasPort d i then .next (s.writeTrain d i v) else .fault .absentUnit

/-- Firmware sets RETRAIN: both directions of a port in service. -/
def State.writeRetrain (s : State) (d i : Nat) : State :=
  if ! inService (s.txst d i) ∨ ! inService (s.rxst d i) then s else
  let s := s.wf d (oQlPctl i) qlPctlRetrain 1
  let s := if s.txst d i = lRETRAIN then s else s.toRetrain d i true
  if s.rxst d i = lRETRAIN then s else s.toRetrain d i false

def execQlRetrainWrite (d i : Nat) (s : State) : Host.Outcome State Fault Refusal :=
  if s.hasPort d i then .next (s.writeRetrain d i) else .fault .absentUnit

/-- The lanes a direction uses. -/
def State.activeLanes (s : State) (d i : Nat) (tx : Bool) : List Nat :=
  let x := s.port d i
  (lanesOf (if tx then x.goodTx else x.goodRx) (s.pst d i (if tx then qlPstatTxw else qlPstatRxw))).getD []

/-- LANE_ERROR_RETRAIN: lane l, which an ACTIVE direction uses, lost lock, or had too many symbols corrected in 1 ms. -/
def execLaneErrorRetrain (d i : Nat) (tx : Bool) (l : Nat) (fault : LaneFault) (s : State) : Host.Outcome State Fault Refusal :=
  if ! s.hasPort d i ∨ 8 ≤ l then .fault .absentUnit
  else .next (if (if tx then s.txst d i else s.rxst d i) = lACTIVE ∧ (s.activeLanes d i tx).contains l ∧ fault.retrains = true
    then s.toRetrain d i tx else s)

/-- The replay resumes after a relock, from the oldest flit not acknowledged (13 R556). -/
def Port.relock (x : Port) (tx : Bool) : Port :=
  let y := x.reframe tx
  if tx then { y with resend := x.replay.head?.map (fun e => e.1) } else y

/-- RETRAIN_RESULT: the direction relocked after us microseconds, with the lanes of the mask g within their error ratio, or failed to. The
others are dropped, and the width falls to the next whose lanes are all good (13 R551). -/
def State.retrainResult (s : State) (d i : Nat) (tx ok : Bool) (g us : Nat) : State :=
  if (if tx then s.txst d i else s.rxst d i) ≠ lRETRAIN then s else
  let fst := if tx then qlPstatTxst else qlPstatRxst
  let fw := if tx then qlPstatTxw else qlPstatRxw
  let x := s.port d i
  let fails := if tx then x.failsTx else x.failsRx
  let put (n : Nat) (s : State) : State := s.putPort d i (if tx then { x with failsTx := n } else { x with failsRx := n })
  let old := s.pst d i fw
  let good := (if tx then x.goodTx else x.goodRx) &&& g
  if ok ∧ us ≤ 500 then
    match widthFrom good old with
    | none => (put 0 s).setPst d i [(fst, lTRAIN)]
    | some w =>
      if laneCount w < minLanes (s.rf d (oQlPctl i) qlPctlMinw) then (put 0 s).setPst d i [(fst, lTRAIN)] else
      let y := (if tx then { x with failsTx := 0, goodTx := good } else { x with failsRx := 0, goodRx := good }).relock tx
      let s := ((s.putPort d i y).setPst d i [(fst, lACTIVE), (fw, w)]).retrainDone d i
      if w = old then s else s.linkWidth d i (! tx)
  else if 1 ≤ fails then (put 0 s).setPst d i [(fst, lTRAIN)]
  else put (fails + 1) s

def execRetrainResult (d i : Nat) (tx ok : Bool) (g us : Nat) (s : State) : Host.Outcome State Fault Refusal :=
  if s.hasPort d i then .next (s.retrainResult d i tx ok g us) else .fault .absentUnit

/-! ## The loss of a port (13 R554) -/

/-- Remote pieces and destinations through port p of one queue: reads are poisoned, writes stop. -/
def State.loseReqs (s : State) (d qu p : Nat) : List Req → State
  | [] => s
  | q :: qs =>
    let rd := q.src.any (fun x => x.wait = 2 && x.port = p)
    let wr := q.dst.any (fun x => x.kind = 2 && x.sent = 1 && x.port = p)
    let src := q.src.map (fun x => if x.wait = 2 ∧ x.port = p then
      { x with wait := 3, data := List.replicate x.n 0, pz := List.replicate x.n true } else x)
    let dst := q.dst.map (fun x => if x.kind = 2 ∧ x.sent = 1 ∧ x.port = p then { x with sent := 2 } else x)
    let q' := { q with src := src, dst := dst }
    let s := if rd ∨ wr then s.putRackq d qu ((s.rackq d qu).setOut q') else s
    let s := if wr then s.rackStop d qu q.seq 0x19 0xFF else s
    let s := if rd then (s.pushRemote d qu q').pushBody d qu q' else s
    State.loseReqs s d qu p qs

/-- The same for every queue of the module. -/
def loseQueues (p : Nat) : State → List (Nat × RackQ) → State
  | s, [] => s
  | s, (k, x) :: qs => loseQueues p (s.loseReqs (k / 257) (k % 257) p x.outs) qs

/-- Chunk messages through port p are no longer waited for; a slot that waited for one has failed. -/
def loseAcks (p : Nat) (s : State) : State :=
  { s with tslots := s.tslots.map (fun (e : Nat × TSlot) =>
      (e.1, { e.2 with acks := e.2.acks.filter (fun a => decide (a.2 ≠ p)), failed := e.2.failed || e.2.acks.any (fun a => a.2 = p) })) }

/-- Active tags that have an axis on a port, each with a die on which it is active (13 R554). -/
def State.jobsOnPort (s : State) (d i : Nat) : List (Nat × Nat) :=
  let a := s.rf d (oQlPctl i) qlPctlNax
  if 5 < a then [] else
  (List.range 256).filterMap (fun t =>
    ((List.range s.nDies).find? (fun e => s.jobEn e t && decide (s.rf e (oTunAxis t a) tunAxisEn = 1))).map (fun e => (e, t)))

/-- Index of the newest record of a class and address. -/
def State.recIdx (s : State) (cls addr : Nat) : Nat :=
  ((s.errLog.reverse.find? (fun r => r.cls = cls && r.addr = addr)).map (fun r => r.index)).getD 0

/-- Firmware ends the jobs listed, which share one record of a class. -/
def State.endJobs (s : State) (js : List (Nat × Nat)) (cls cause named island sub : Nat) (idx : Nat) : State :=
  js.foldl (fun s j => s.report
    { die := j.1, tag := j.2, part := s.jobPart j.1 j.2, cls := cls, cause := cause, named := named, island := island, sub := sub,
      idx := some idx }) s

/-- PORT_DOWN: a direction has entered DOWN or TRAIN from service. -/
def State.portDown (s : State) (d i : Nat) : State :=
  let x := s.port d i
  let t := s.txst d i
  let r := s.rxst d i
  if ! x.svc ∨ (inService t ∧ inService r) then s else
  let st := if ! inService t then t else r
  let far := s.pst d i qlPstatFarmod
  let js := s.jobsOnPort d i
  let s := s.bothTo d i st
  let s := s.resend14 d i
  let x := s.port d i
  let s := s.putPort d i { x.books with tx := [], txTags := [], stopped := [], svc := false, c14 := [], put14 := 0, ack14 := 0, hbWait := [], hbMiss := 0 }
  let p := 3 * d + i
  let s := loseAcks p (loseQueues p s s.rackqs)
  let s := s.logErr { cls := 0x17, die := d, island := 23 + i, sub := i, named := far, tagv := ! js.isEmpty,
                      tag := (js.headD (0, 0)).2, part := s.jobPart (js.headD (0, 0)).1 (js.headD (0, 0)).2 }
  s.endJobs js 0x17 7 far (23 + i) i (s.recIdx 0x17 0)

def execPortDown (d i : Nat) (s : State) : Host.Outcome State Fault Refusal :=
  if s.hasPort d i then .next (s.portDown d i) else .fault .absentUnit

end Sys2Proof.Machine
end

