-- ==== Sys2Proof/Machine/Messages.lean ====
section
/-!
DEFINITION. Sys2Proof/Machine/Messages.lean: messages that arrive on QLink: authentication, routing, refusal and what each type does
(13_qlink.md, 09_racking_and_streams.md R388–R390, 15_reliability.md R642, R665, 14_host_and_commands.md R628).
-/
namespace Sys2Proof.Machine

/-! ## Parsing (13 R558, R559, R562, R577) -/

/-- Bytes of data in n bytes of data and poison map. -/
def dataLen (psn : Bool) (n : Nat) : Nat := if psn then n - 8 * ((n + 4103) / 4104) else n

/-- The message whose header is h and whose clear bytes after it (body, data) are pt and map mp. -/
def parseMsg (h : Nat) (bl : Nat) (pt mp : List Byte) : Msg :=
  { typ := bits h 0 8, dmod := bits h 8 16, smod := bits h 24 16, ddie := bits h 40 3, sdie := bits h 43 3, tag := bits h 46 8,
    stat := bits h 56 8, rid := bits h 96 32, body := pt.take bl, data := pt.drop bl,
    pmap := (List.range ((pt.length - bl + 63) / 64)).map (fun i => bit (mp.getD (i / 8) 0).toNat (i % 8)) }

/-- Count the discard of a message. -/
def State.discard (s : State) (d i ch n : Nat) (f : Fld) : State := (s.freeBytes d i ch n).ecnt d i f 1

/-- An answer leaves, on the channel its request came on; through the port that came in on when R573 gives none (DEDUCED, log entry 37). -/
def State.sendBack (s : State) (b : Back) : State :=
  match s.sendMsg b.die b.ch b.part b.msg with
  | .ok u => u.2
  | .error _ => s.enqueueMsg b.d b.i b.ch { b.msg with smod := s.modNum, sdie := b.die }

/-- The bridges take an answer, which no older one of its channel precedes (01 R24). -/
def State.backTaken (s : State) (b : Back) (older : List Back) : Bool :=
  s.bridgesTake b.ch b.msg.tag (s.backPath b) && older.all (fun o => decide (o.ch ≠ b.ch) || decide (o.die ≠ b.die))

/-- An answer to message m from its die: it waits for the bridges on its way, if there are any (01 R24; DESIGN CHOICE, log entry 96). -/
def State.answer (s : State) (d i ch : Nat) (m : Msg) (typ stat : Nat) (data : List Byte) (pm : List Bool) : State :=
  let b : Back := { d := d, i := i, ch := ch, die := m.ddie, part := s.jobPart m.ddie m.tag,
                    msg := { typ := typ, dmod := m.smod, ddie := m.sdie, tag := m.tag, stat := stat, rid := m.rid, data := data, pmap := pm } }
  if s.backPath b = [] ∨ s.backTaken b s.backs then s.sendBack b else { s with backs := enq s.backs b }

/-- Answers that waited and that the bridges now take leave, oldest first. -/
def State.sendBacks (s : State) : List Back → List Back → State
  | kept, [] => { s with backs := kept }
  | kept, b :: bs => if s.backTaken b kept then State.sendBacks (s.sendBack b) kept bs else State.sendBacks s (enq kept b) bs

/-- Refuse a request with a status: WACK, or RDATA for a read. Other types have no answer. -/
def State.refuse (s : State) (d i ch : Nat) (m : Msg) (stat : Nat) : State :=
  if m.typ = mRREQ then s.answer d i ch m mRDATA stat [] []
  else if m.typ = mWREQ ∨ m.typ = mPOST ∨ m.typ = mDISP ∨ m.typ = mNOTICE ∨ m.typ = mCHUNK then s.answer d i ch m mWACK stat [] []
  else s

/-- Jobs that own channel v of a port: those whose axis on v is the port's, in the partition that holds the channel, if one does; on C1 those of
that partition (13 R571; DEDUCED, log entry 36). -/
def State.channelJobs (s : State) (d i v : Nat) : List (Nat × Nat) :=
  (List.range 256).filterMap (fun t => ((List.range s.nDies).find? (fun e => s.jobEn e t &&
    (if v = 1 then s.granted e (s.jobPart e t) 0xC 0 (16 * (3 * d + i) + 1) (16 * (3 * d + i) + 1)
     else s.axisOf e t v = some (s.rf d (oQlPctl i) qlPctlNax) && ! s.chanHeld e (3 * d + i) v (s.jobPart e t)))).map (fun e => (e, t)))

/-- A message fails authentication (13 R571). -/
def State.authFail (s : State) (d i ch n : Nat) : State :=
  let far := s.pst d i qlPstatFarmod
  let js := if groupOf ch = 0 then [] else s.channelJobs d i ch
  let r : Report := { die := d, tagv := ! js.isEmpty, tag := (js.headD (0, 0)).2, part := s.jobPart (js.headD (0, 0)).1 (js.headD (0, 0)).2,
                      cls := 0x0E, cause := 8, island := 23 + i, sub := ch, named := far }
  let s := (s.discard d i ch n qlEcntAuthf).bondReport r
  let s := s.logErr { cls := 0x0E, die := d, island := 23 + i, sub := ch, named := far, tagv := r.tagv, tag := r.tag, part := r.part }
  s.endJobs js 0x0E 8 far (23 + i) ch (s.recIdx 0x0E 0)

/-- The link island routes a message of n buffered bytes in the order of R563. A channel granted to a partition carries its tags alone: any
other is refused as an inactive one (16 R685). The delivery wakes the engine (17 R708). -/
def State.route (s : State) (d i ch n len : Nat) (m : Msg) : State :=
  let short : Bool := match bodyLen m.typ with
    | none => true
    | some b => decide (len < b)
  let empty := len = 0 && ! (m.typ = mWACK || (m.typ = mRDATA && decide (m.stat ≠ 0)))
  if ! typeOnCh m.typ ch ∨ (s.modNum = 0xFFFF ∧ ch ≠ 0) ∨ short ∨ empty then s.discard d i ch n qlEcntProto
  else if m.dmod ≠ s.modNum then s.discard d i ch n qlEcntMisrt
  else if s.nDies ≤ m.ddie then (s.freeBytes d i ch n).refuse d i ch m 6
  else if m.typ ≤ 0xA ∧ (! s.jobEn m.ddie m.tag ∨ s.chanHeld d (3 * d + i) ch (s.jobPart m.ddie m.tag)) then
    (s.freeBytes d i ch n).refuse d i ch m 9
  else
    let s := if m.typ ≤ 0xA then s.unrest m.ddie (if m.typ = mCHUNK then 26 else 22) else s
    let r := s.rxch d i ch
    s.putRxch d i ch { r with held := n, msg := some m }

/-- MESSAGE_RECEIVE: the next message of a channel, when all its bytes are in the receive buffer. -/
def State.messageReceive (s : State) (d i ch : Nat) : State :=
  let r := s.rxch d i ch
  match r.msg, r.bytes with
  | some _, _ => s
  | _, [] => s
  | none, b :: _ =>
    if b = 0 then
      let n := (r.flits.headD (false, 0)).2
      (s.putRxch d i ch { r with bytes := r.bytes.drop n }).freeBytes d i ch n
    else
      let h := ofBytes (r.bytes.take 16)
      let len := bits h 64 17
      let enc := bit h 55
      let raw := 16 + len + (if enc then 16 else 0)
      let n := raw + (8 - raw % 8) % 8
      if r.bytes.length < 16 ∨ r.bytes.length < n then s else
      let all := r.bytes.take raw
      let s := s.putRxch d i ch { r with bytes := r.bytes.drop n }
      let bl := (bodyLen (bits h 0 8)).getD 0
      let dl := dataLen (bit h 54) (len - bl)
      let mp := (all.drop (16 + bl + dl)).take (len - bl - dl)
      let ct := (all.drop 16).take (bl + dl)
      let g := groupOf ch
      match s.groupKey d i g with
      | none => if enc then s.authFail d i ch n else s.route d i ch n len (parseMsg h bl ct mp)
      | some k =>
        if ! enc then s.authFail d i ch n else
        let x := s.port d i
        let c := match mget (fun _ => none) x.gcmRx ch with
          | none => 0
          | some c => c + 1
        match Config.gcmOpen k (gcmIv (bits h 24 16) (s.pst d i qlPstatFarport) ch c) (all.take 16 ++ mp) (ct ++ all.drop (16 + len)) with
        | none => s.authFail d i ch n
        | some pt =>
          let s := s.putPort d i { x with gcmRx := mset (fun _ => none) x.gcmRx ch (some c) }
          s.route d i ch n len (parseMsg h bl pt mp)

def execMessageReceive (d i ch : Nat) (s : State) : Host.Outcome State Fault Refusal :=
  if s.hasPort d i && decide (ch < 15) then .next (s.messageReceive d i ch) else .fault .absentUnit

/-! ## Handling a delivered message -/

/-- The message delivered on a channel has been handled: it leaves the receive buffer. -/
def State.consume (s : State) (d i ch : Nat) : State :=
  let r := s.rxch d i ch
  (s.putRxch d i ch { r with msg := none, held := 0 }).freeBytes d i ch r.held

/-- Chunk messages of a tag that wait for die d leave the receive buffers, and their credits return (11 R495). -/
def State.dropChunks (s : State) (d tag : Nat) : State :=
  s.ports.foldl (fun s (e : Nat × Port) => (List.range 14).foldl (fun s ch =>
    match (s.rxch (e.1 / 3) (e.1 % 3) ch).msg with
    | none => s
    | some m => if m.typ = mCHUNK ∧ m.tag = tag ∧ m.ddie = d then s.consume (e.1 / 3) (e.1 % 3) ch else s) s) s

/-- TUN_ABORT_NOTICE. -/
def State.tunAbort (s : State) (d tag : Nat) : State :=
  let s := { s with abortTun := mset (fun _ => false) s.abortTun (d * 256 + tag) true,
                    tunq := s.tunq.filter (fun p => decide (p.tag ≠ tag) || decide (p.d ≠ d)) }
  ((tunAbortSlots tag d s.slotKeys s).tunStopQs d tag).dropChunks d tag

def execTunAbortNotice (d tag : Nat) (s : State) : Host.Outcome State Fault Refusal :=
  if s.hasDie d && decide (tag < 256) then .next (s.tunAbort d tag) else .fault .absentUnit

/-- The message can pass from the port's die to the die it names: data for another die crosses the bridges as other traffic does, control
messages ahead of it (01 R24). -/
def State.crosses (s : State) (d ch : Nat) (m : Msg) : Bool :=
  decide (0x10 ≤ m.typ) || s.bridgesTake ch m.tag (s.bridgePath d m.ddie)

/-- A row of a message type: it acts on the message of that type delivered on the channel. -/
def msgRow (typ d i ch : Nat) (s : State) (body : Msg → State) : Host.Outcome State Fault Refusal :=
  if ! s.hasPort d i || decide (15 ≤ ch) then .fault .absentUnit else
  match (s.rxch d i ch).msg with
  | none => .next s
  | some m => .next (if m.typ = typ ∧ s.crosses d ch m then body m else s)

/-- Poison of each byte of a message's data. -/
def Msg.zs (m : Msg) : List Bool := (List.range m.data.length).map (fun k => m.pmap.getD (k / 64) false)

/-- The address of a request names bytes a remote sender may reach: spaces 0x0 to 0x2 of this module (08 R305). -/
def State.remoteReach (s : State) (m : Msg) (n : Nat) : Acc305 :=
  let a := ofBytes (m.body.take 8)
  if 2 < bits a 44 4 then .err 6 else s.reach m.ddie none (s.jobPart m.ddie m.tag) a n

/-- A request refused with a code; bytes outside the partition's window are reported to the bond island (08 R305). -/
def State.refuseReach (s : State) (d i ch : Nat) (m : Msg) (c : Nat) : State :=
  let s := if c = 9 then
      s.bondReport { die := m.ddie, tag := m.tag, part := s.jobPart m.ddie m.tag, cls := 0x12, detail := 9, island := 22 }
    else s
  s.refuse d i ch m c

/-- A remote write (09 R388, R390). -/
def State.wreqRx (s : State) (d i ch : Nat) (m : Msg) : State :=
  let s := s.consume d i ch
  if s.rkAborting m.ddie m.tag then s.refuse d i ch m 9 else
  match s.remoteReach m m.data.length with
  | .ok runs => ((s.writeZ runs m.data m.zs).ledTouched runs).answer d i ch m mWACK 0 [] []
  | .err c => s.refuseReach d i ch m c
  | _ => s.refuse d i ch m 6

def execWreq (d i ch : Nat) (s : State) : Host.Outcome State Fault Refusal := msgRow mWREQ d i ch s (s.wreqRx d i ch)

/-- A remote read (09 R388, R390, 13 R560, R577). -/
def State.rreqRx (s : State) (d i ch : Nat) (m : Msg) : State :=
  let s := s.consume d i ch
  let n := ofBytes ((m.body.drop 8).take 4)
  if s.rkAborting m.ddie m.tag then s.refuse d i ch m 9 else
  if n = 0 ∨ 512 < n then s.refuse d i ch m 7 else
  match s.remoteReach m n with
  | .ok runs =>
    let t := s.readZ runs
    t.2.2.answer d i ch m mRDATA 0 t.1 (pmapOf t.2.1)
  | .err c => s.refuseReach d i ch m c
  | _ => s.refuse d i ch m 6

def execRreq (d i ch : Nat) (s : State) : Host.Outcome State Fault Refusal := msgRow mRREQ d i ch s (s.rreqRx d i ch)

/-- The request of die d one of whose pieces or destinations has request id rid: its queue and the request. -/
def State.reqOf (s : State) (d rid : Nat) : Option (Nat × Req) :=
  (s.rackqsOf d).findSome? (fun e => (e.2.outs.find? (fun q =>
    q.src.any (fun p => p.wait = 2 && p.rid = rid) || q.dst.any (fun x => x.kind = 2 && x.sent = 1 && x.rid = rid))).map (fun q => (e.1, q)))

/-- Data of a remote read arrive, or a refusal stops the transfer (09 R388, R389). -/
def State.rdataRx (s : State) (d i ch : Nat) (m : Msg) : State :=
  let s := s.consume d i ch
  match s.reqOf m.ddie m.rid with
  | none => s
  | some (qu, q) =>
    if m.stat ≠ 0 then (s.rackStop m.ddie qu q.seq 0x19 m.stat).dropReq m.ddie qu q.id q.seq else
    let fill (p : Piece) : Piece :=
      { p with wait := 3, data := (m.data ++ List.replicate (p.n - m.data.length) 0).take p.n,
               pz := (m.zs ++ List.replicate (p.n - m.data.length) false).take p.n }
    let q' := { q with src := fillFirst (fun p => p.wait = 2 && p.rid = m.rid) fill q.src }
    let s := s.putRackq m.ddie qu ((s.rackq m.ddie qu).setOut q')
    (s.pushRemote m.ddie qu q').pushBody m.ddie qu q'

def execRdata (d i ch : Nat) (s : State) : Host.Outcome State Fault Refusal := msgRow mRDATA d i ch s (s.rdataRx d i ch)

/-- A write acknowledgement, of a racking request or of a chunk message (09 R388, 11 R779). -/
def State.wackRx (s : State) (d i ch : Nat) (m : Msg) : State :=
  let s := s.consume d i ch
  match s.reqOf m.ddie m.rid with
  | none => s.chunkAck m.rid m.stat
  | some (qu, q) =>
    let dst := q.dst.map (fun x => if x.kind = 2 ∧ x.sent = 1 ∧ x.rid = m.rid then { x with sent := 2 } else x)
    let s := s.putRackq m.ddie qu ((s.rackq m.ddie qu).setOut { q with dst := dst })
    if m.stat = 0 then s else s.rackStop m.ddie qu q.seq 0x19 m.stat

def execWack (d i ch : Nat) (s : State) : Host.Outcome State Fault Refusal := msgRow mWACK d i ch s (s.wackRx d i ch)

/-- A remote POST (10 R418). -/
def State.postRx (s : State) (d i ch : Nat) (m : Msg) : State :=
  let s := s.consume d i ch
  let b := ofBytes m.body
  if s.rkAborting m.ddie m.tag then s.refuse d i ch m 9 else
  (s.postCtr m.ddie (s.jobPart m.ddie m.tag) (bits b 0 12) (bits b 13 16) (bit b 12) m.tag).answer d i ch m mWACK 0 [] []

def execPostMessage (d i ch : Nat) (s : State) : Host.Outcome State Fault Refusal := msgRow mPOST d i ch s (s.postRx d i ch)

/-- What an arrival's landing leaves: it stays in the buffer, is refused, is dropped (11 R495), or is acknowledged. -/
def State.landed (s : State) (d i ch : Nat) (m : Msg) : Landed → State
  | .hold => s
  | .refused c => (s.consume d i ch).refuse d i ch m c
  | .dropped => s.consume d i ch
  | .done t => (t.consume d i ch).answer d i ch m mWACK 0 [] []

/-- A dispatched row (07 R284). -/
def State.dispRx (s : State) (d i ch : Nat) (m : Msg) : State :=
  if s.rkAborting m.ddie m.tag then (s.consume d i ch).refuse d i ch m 9
  else s.landed d i ch m (s.landDisp m.ddie m.tag (ofBytes m.body) m.data m.zs)

def execDisp (d i ch : Nat) (s : State) : Host.Outcome State Fault Refusal := msgRow mDISP d i ch s (s.dispRx d i ch)

/-- A count notice (07 R286). -/
def State.noticeRx (s : State) (d i ch : Nat) (m : Msg) : State :=
  if s.rkAborting m.ddie m.tag then (s.consume d i ch).refuse d i ch m 9
  else s.landed d i ch m (.done (s.landNotice m.ddie m.tag (ofBytes m.body)))

def execNotice (d i ch : Nat) (s : State) : Host.Outcome State Fault Refusal := msgRow mNOTICE d i ch s (s.noticeRx d i ch)

/-- A chunk message (11 R475). -/
def execChunk (d i ch : Nat) (s : State) : Host.Outcome State Fault Refusal :=
  msgRow mCHUNK d i ch s (fun m => s.landed d i ch m (s.landChunk m.ddie m))

/-! ## ABORT (13 R575) -/

/-- Pairs a die has seen in the last 10 ms, 64 at most. -/
def State.seenAt (s : State) (d : Nat) : List (Nat × Nat × Nat) :=
  (mget (fun _ => []) s.seen d).filter (fun e => decide (s.time < e.2.2 + 10000))

/-- One die's link complex takes an ABORT not seen before: it sends it on its ACTIVE ports but the one it arrived on. -/
def State.floodDie (s : State) (d org ser : Nat) (body : List Byte) (tag : Nat) (skip : Option (Nat × Nat)) : State :=
  if (s.seenAt d).any (fun e => e.1 = org && e.2.1 = ser) then s else
  let s := { s with seen := mset (fun _ => []) s.seen d (lastN 64 (enq (s.seenAt d) (org, ser, s.time))) }
  (List.range 3).foldl (fun s i =>
    if some (d, i) = skip ∨ s.txst d i ≠ lACTIVE ∨ ! s.portOk d i 14 (s.pst d i qlPstatFarmod) then s
    else s.enqueueMsg d i 14 { typ := mABORT, dmod := s.pst d i qlPstatFarmod, smod := s.modNum, sdie := d, tag := tag, body := body }) s

/-- Every die of the module gets it over the bridges. -/
def State.flood (s : State) (org ser : Nat) (body : List Byte) (tag : Nat) (skip : Option (Nat × Nat)) : State :=
  (List.range s.nDies).foldl (fun s d => s.floodDie d org ser body tag skip) s

/-- Body of an ABORT (13 R560). -/
def abortBody (pjid org ser cause : Nat) : List Byte :=
  toBytes 16 (pjid % 2 ^ 32 + org % 2 ^ 16 * 2 ^ 32 + ser % 2 ^ 16 * 2 ^ 48 + cause % 256 * 2 ^ 64)

/-! ## Heartbeats (15 R665, R671, R672) -/

/-- A heartbeat is answered; an inoculation of point 0x51 withholds the answer. -/
def State.hbRx (s : State) (d i ch : Nat) (m : Msg) : State :=
  let s := s.consume d i ch
  if (s.inoc d).point = 0x51 ∧ (s.inoc d).inst = i then s.inocClear d else
  s.enqueueMsg d i 14 { typ := mHBR, dmod := m.smod, smod := s.modNum, ddie := m.sdie, sdie := d, tag := m.tag, body := m.body }

def execHb (d i ch : Nat) (s : State) : Host.Outcome State Fault Refusal := msgRow mHB d i ch s (s.hbRx d i ch)

/-- A heartbeat reply clears the misses. -/
def State.hbrRx (s : State) (d i ch : Nat) (m : Msg) : State :=
  let s := s.consume d i ch
  let x := s.port d i
  s.putPort d i { x with hbWait := x.hbWait.filter (fun n => decide (ofBytes m.body < n)), hbMiss := 0 }

def execHbr (d i ch : Nat) (s : State) : Host.Outcome State Fault Refusal := msgRow mHBR d i ch s (s.hbrRx d i ch)

/-- HB_SEND on the ports of a die. -/
def State.hbSend (s : State) (d : Nat) : State :=
  if s.rf d oHbCtl hbCtlHbper = 0 ∨ s.modNum = 0xFFFF then s else
  (List.range 3).foldl (fun s i =>
    if s.txst d i ≠ lACTIVE then s else
    let x := s.port d i
    let s := s.putPort d i { x with hbSerial := (x.hbSerial + 1) % 2 ^ 64, hbWait := enq x.hbWait x.hbSerial }
    s.enqueueMsg d i 14
      { typ := mHB, dmod := s.pst d i qlPstatFarmod, smod := s.modNum, sdie := d, body := toBytes 8 x.hbSerial }) s

def execHbSend (d : Nat) (s : State) : Host.Outcome State Fault Refusal :=
  if s.hasDie d then .next (s.hbSend d) else .fault .absentUnit

/-- HB_LOSS: HBMISS heartbeats in a row have waited, the last us microseconds. -/
def State.hbLoss (s : State) (d i us : Nat) : State :=
  let k := s.rf d oHbCtl hbCtlHbmiss
  let x := s.port d i
  if k = 0 ∨ s.rf d oHbCtl hbCtlHbper = 0 ∨ x.hbWait.length < k ∨ us < 1500 then s else
  let s := s.putPort d i { x with hbWait := [], hbMiss := 0 }
  let far := s.pst d i qlPstatFarmod
  let js := s.jobsOnPort d i
  let j := js.headD (0, 0)
  let s := s.logErr { cls := 0x0F, die := d, island := 23 + i, sub := i, named := far, tagv := ! js.isEmpty, tag := j.2, part := s.jobPart j.1 j.2 }
  s.endJobs js 0x0F 7 far (23 + i) i (s.recIdx 0x0F 0)

def execHbLoss (d i us : Nat) (s : State) : Host.Outcome State Fault Refusal :=
  if s.hasPort d i then .next (s.hbLoss d i us) else .fault .absentUnit

/-- DIE_HEARTBEAT_EXCHANGE: bit d of silent says that die d does not answer; a point 0x52 inoculation withholds a die's answer. -/
def State.hbExchange (s : State) (silent : Nat) : State :=
  (List.range s.nDies).foldl (fun s d =>
    let hit := (s.inoc d).point = 0x52
    let s := if hit then s.inocClear d else s
    let n := if hit ∨ bit silent d then mget n0 s.dieHbAge d + 1 else 0
    { s with dieHbAge := mset n0 s.dieHbAge d n }) s

def execDieHeartbeatExchange (silent : Nat) (s : State) : Host.Outcome State Fault Refusal := .next (s.hbExchange silent)

/-! ## PNOT and MGMT (15 R642, 14 R628) -/

/-- A peer's poison notice makes a record; it ends nothing. -/
def State.pnotRx (s : State) (d i ch : Nat) (m : Msg) : State :=
  let s := s.consume d i ch
  let b := ofBytes m.body
  s.logErr { cls := 0x13, die := d, island := 23 + i, sub := ch, named := bits b 32 16, addr := bits b 64 64,
             detail := bits b 128 8 }

def execPnot (d i ch : Nat) (s : State) : Host.Outcome State Fault Refusal := msgRow mPNOT d i ch s (s.pnotRx d i ch)

/-- A management message: an identity report of 10 bytes is kept with its port, an echo request is answered through the port R573 gives,
or not at all, an echo reply is taken, and any other is discarded and logged (14 R628). -/
def State.mgmtRx (s : State) (d i ch : Nat) (m : Msg) : State :=
  let s := s.consume d i ch
  let k := bits (ofBytes m.body) 0 16
  let id := ofBytes m.data
  if bits (ofBytes m.body) 16 48 ≠ 0 ∨ k = 0 ∨ 3 < k ∨ 4096 < m.data.length ∨ (k = 1 ∧ m.data.length ≠ 10) then
    s.logErr { cls := 0x14, die := d, island := 23 + i, sub := ch, named := m.smod, detail := k }
  else if k = 1 then s.putPort d i { s.port d i with farId := some (bits id 0 16, bits id 16 32, bits id 48 32) }
  else if k = 2 then
    match s.sendMsg m.ddie 0 0 { typ := mMGMT, dmod := m.smod, ddie := m.sdie, tag := m.tag, body := toBytes 8 3, data := m.data,
                                 pmap := m.pmap } with
    | .ok u => u.2
    | .error _ => s
  else s

def execMgmt (d i ch : Nat) (s : State) : Host.Outcome State Fault Refusal := msgRow mMGMT d i ch s (s.mgmtRx d i ch)

end Sys2Proof.Machine
end

