-- ==== Sys2Proof/Machine/Grants.lean ====
section
/-!
DEFINITION. Sys2Proof/Machine/Grants.lean: what the bond island holds of a partition, its measurement register, and how grants change
(16_security.md R677, R683–R690).
-/
namespace Sys2Proof.Machine

/-! ## Partition records and PMR -/

def partDefault (_ : Nat) : PartRec := {}
/-- What the bond island holds of partition p. -/
def State.partRec (s : State) (p : Nat) : PartRec := mget partDefault s.parts p
def State.putPart (s : State) (p : Nat) (x : PartRec) : State := { s with parts := mset partDefault s.parts p x }

/-- SHA-384 digest bytes. -/
def digest (bs : List Byte) : List Byte := digBytes (sha384 bs)

/-- PMR is extended with the digest of bs (16 R677). -/
def State.pmrExtend (s : State) (p : Nat) (bs : List Byte) : State :=
  let x := s.partRec p
  s.putPart p { x with pmr := measured x.pmr (digest bs) }

/-! ## Grants and their changes -/

/-- The 16 bytes of a grant entry. -/
def grantBytes (g : Grant) : List Byte := toBytes 16 (g.kind + g.die * 2 ^ 8 + g.first * 2 ^ 32 + g.count * 2 ^ 64)

/-- Two grants name units of one kind and place. -/
def Grant.same (g h : Grant) : Bool := decide (g.kind = h.kind) && (dieless g.kind || decide (g.die = h.die))

/-- Their ranges meet. -/
def Grant.meets (g h : Grant) : Bool := decide (g.first < h.first + h.count) && decide (h.first < g.first + g.count)

/-- A grant without the units of another. -/
def Grant.minus (g h : Grant) : List Grant :=
  if ! g.same h then [g]
  else if h.kind = 0xB then []
  else if ! g.meets h then [g]
  else
    (if g.first < h.first then [{ g with count := h.first - g.first }] else []) ++
    (if h.first + h.count < g.first + g.count then
      [{ g with first := h.first + h.count, count := g.first + g.count - (h.first + h.count) }] else [])

/-- The units of a grant that another names. -/
def Grant.inter (g h : Grant) : List Grant :=
  if ! g.same h then []
  else if g.kind = 0xB then [g]
  else if ! g.meets h then []
  else
    let lo := max g.first h.first
    [{ g with first := lo, count := min (g.first + g.count) (h.first + h.count) - lo }]

/-- A grant is made: a quota replaces the one held. -/
def addGrant (gs : List Grant) (g : Grant) : List Grant :=
  if g.kind = 0xB then enq (gs.filter (fun h => ! (h.part = g.part && h.same g))) g
  else if gs.contains g then gs else enq gs g

/-- Units are revoked from a partition. -/
def subGrant (gs : List Grant) (g : Grant) : List Grant := gs.flatMap (fun h => if h.part = g.part then h.minus g else [h])

/-- A core as a grant. -/
def coreGrant (p d k : Nat) : Grant := { part := p, kind := 2, die := d, first := k, count := 1 }

/-- The tables after a change. -/
def applyChange (gs : List Grant) (c : Change) : List Grant := match c.kind with
  | 0 => c.list.foldl addGrant gs
  | 1 => c.list.foldl subGrant gs
  | 2 => gs.filter (fun g => decide (g.part ≠ c.part))
  | 4 => (List.range 8).foldl (fun gs p => subGrant gs (coreGrant p c.port c.grp)) gs
  | _ => gs

/-- What leaves partition p with a change. -/
def leaving (gs : List Grant) (c : Change) (p : Nat) : List Grant :=
  let mine := gs.filter (fun g => g.part = p)
  match c.kind with
  | 1 => if c.part = p then c.list.flatMap (fun h => mine.flatMap (fun g => g.inter h)) else []
  | 2 => if c.part = p then mine else []
  | 4 => mine.flatMap (fun g => g.inter (coreGrant p c.port c.grp))
  | _ => []

/-- Changes asked for and not in force. -/
def State.waiting (s : State) : List Change := s.fenceRun ++ s.changes

/-- The tables once every change asked for is in force. -/
def State.plan (s : State) : List Grant := s.waiting.foldl applyChange s.grants

/-- What partition p holds of die d (16 R677; DEDUCED, log entry 116). -/
def State.dieGrants (s : State) (p d : Nat) : List Grant :=
  s.grants.filter (fun g => decide (g.part = p) && (g.kind = 4 || (! dieless g.kind && decide (g.die = d))))

end Sys2Proof.Machine
end

