-- ==== Sys2Proof/Machine/Jobs.lean ====
section
/-!
DEFINITION. Sys2Proof/Machine/Jobs.lean: slot tables, the watchdog, faults and consumed poison, and the end of a job
(10_threads_and_schedule.md, 14_host_and_commands.md R609–R614, 15_reliability.md).
-/
namespace Sys2Proof.Machine

/-! ## Slot tables (10 R427–R432, R448, R449, 19 R769) -/

/-- Entry e of half h of a table. -/
def State.slotEnt (s : State) (d t h e : Nat) : Nat := bits (s.reg d (oSlotEnt t h (e / 2))).toNat (16 * (e % 2)) 16

/-- The words of a half that are not zero, by word number. -/
def State.halfWords (s : State) (d t h : Nat) : List (Nat × RegWord) :=
  let b := regKey d (oSlotEnt t h 0)
  (s.regs.filter (fun e => decide (b ≤ e.1) && decide (e.1 < b + 8192))).map (fun e => ((e.1 - b) / 4, e.2))

/-- Put words into a half. -/
def putWords (d t h : Nat) : State → List (Nat × RegWord) → State
  | s, [] => s
  | s, (i, v) :: ws => putWords d t h (s.setReg d (oSlotEnt t h i) v) ws

/-- Make ws the whole contents of a half. -/
def State.setHalf (s : State) (d t h : Nat) (ws : List (Nat × RegWord)) : State :=
  let b := regKey d (oSlotEnt t h 0)
  putWords d t h { s with regs := s.regs.filter (fun e => ! (decide (b ≤ e.1) && decide (e.1 < b + 8192))) } ws

/-- Active half of a table, and whether a swap is asked for. -/
def State.slotAct (s : State) (d t : Nat) : Nat := s.rf d (oSlotCtl t) slotCtlAct
def State.slotSwapping (s : State) (d t : Nat) : Bool := s.rf d (oSlotCtl t) slotCtlSwap = 1

/-- The words held for table t of die d, by word number (19 R769). A number past the last word stands for firmware's SWAP, which follows
the words of an edit it made while SWAP read 1. -/
def State.heldWords (s : State) (d t : Nat) : List (Nat × RegWord) :=
  (s.slotHeld.filter (fun w => decide (w.1 = d) && decide (w.2.1 = t))).map (fun w => (w.2.2.1, BitVec.ofNat 256 w.2.2.2))

/-- Word number of a held SWAP. -/
def heldSwap : Nat := 2048

/-- Words ws of a half with the writes hs over them, oldest first. -/
def overWords (ws hs : List (Nat × RegWord)) : List (Nat × RegWord) :=
  hs.foldl (fun ws h => if h.1 < heldSwap then h :: ws.filter (fun w => decide (w.1 ≠ h.1)) else ws) ws

/-- The words of a table once every edit firmware has made is in force. -/
def State.nextWords (s : State) (d t : Nat) : List (Nat × RegWord) :=
  if ! s.slotSwapping d t then s.halfWords d t (s.slotAct d t)
  else if (s.heldWords d t).any (fun w => w.1 = heldSwap) then overWords (s.halfWords d t (s.slotAct d t)) (s.heldWords d t)
  else s.halfWords d t (1 - s.slotAct d t)

/-- A word of a list of words. -/
def wordOf (ws : List (Nat × RegWord)) (i : Nat) : RegWord := (ws.find? (fun w => w.1 = i)).elim 0 (fun w => w.2)

/-- The writes that make words `old` into `new`. -/
def wordDiff (old new : List (Nat × RegWord)) : List (Nat × RegWord) :=
  ((old ++ new).map (fun w => w.1)).eraseDups.filterMap (fun i => if wordOf old i = wordOf new i then none else some (i, wordOf new i))

/-- Hold writes of words of table t of die d (19 R769). -/
def State.holdWords (s : State) (d t : Nat) (ws : List (Nat × RegWord)) : State :=
  { s with slotHeld := s.slotHeld ++ ws.map (fun w => (d, t, w.1, w.2.toNat)) }

/-- Firmware edits the inactive halves of a die's tables and sets SWAP. While SWAP reads 1 its words are held until the swap, and its SWAP
follows them (19 R769). -/
def State.slotEdit (s : State) (d : Nat) (f : Nat → List (Nat × RegWord) → List (Nat × RegWord)) : State :=
  (List.range 5).foldl (fun s t =>
    let ws := f t (s.nextWords d t)
    if s.slotSwapping d t then
      { s with slotHeld := s.slotHeld.filter (fun w => ! (decide (w.1 = d) && decide (w.2.1 = t))) }.holdWords d t
        (wordDiff (s.halfWords d t (s.slotAct d t)) ws ++ [(heldSwap, 0)])
    else (s.setHalf d t (1 - s.slotAct d t) ws).wf d (oSlotCtl t) slotCtlSwap 1) s

/-- An entry is reserved for a tag for which p holds. -/
def entHas (p : Nat → Bool) (e : Nat) : Bool := bit e 0 && p (bits e 8 8)

/-- A word without the entries of the tags for which p holds. -/
def wordDrop (p : Nat → Bool) (w : RegWord) : RegWord :=
  let lo := bits w.toNat 0 16
  let hi := bits w.toNat 16 16
  BitVec.ofNat 256 ((if entHas p lo then 0 else lo) + (if entHas p hi then 0 else hi) * 2 ^ 16)

/-- Some half of a table of die d, or a write held for one, has an entry of the tags. -/
def State.slotUses (s : State) (d : Nat) (p : Nat → Bool) : Bool :=
  (List.range 5).any (fun t => (s.halfWords d t 0 ++ s.halfWords d t 1 ++ s.heldWords d t).any (fun w =>
    entHas p (bits w.2.toNat 0 16) || entHas p (bits w.2.toNat 16 16)))

/-- The entries of the tags are cleared in the active halves of die d too, once these are inactive: firmware's writes of them are held until
the swap (10 R432, R448, 19 R769). -/
def State.holdDrops (s : State) (d : Nat) (p : Nat → Bool) : State :=
  (List.range 5).foldl (fun s t =>
    if (s.heldWords d t).any (fun w => w.1 = heldSwap) then s else
    let ws := overWords (s.halfWords d t (s.slotAct d t)) (s.heldWords d t)
    s.holdWords d t (wordDiff ws (ws.map (fun w => (w.1, wordDrop p w.2))))) s

/-- Release the slots of tags on every die (10 R432). -/
def State.releaseSlots (s : State) (p : Nat → Bool) : State :=
  (List.range s.nDies).foldl (fun s d =>
    if s.slotUses d p then (s.slotEdit d (fun _ ws => ws.map (fun w => (w.1, wordDrop p w.2)))).holdDrops d p else s) s

/-- Set a carry count. -/
def State.setCarry (s : State) (d t v n : Nat) : State :=
  let c := s.rf d (oSlotStat t) slotStatCarry
  s.wf d (oSlotStat t) slotStatCarry (putBits c (4 * v) 4 n)

/-- The traffic that is ready on a table's link, as code of its kind (as `slotHolder` gives it) and tag. -/
def State.slotTraffic (s : State) (d t : Nat) : List (Nat × Nat) :=
  if t < 3 then (List.range 15).filterMap (fun v => (s.headTag d t v).map (fun g => (v + 1, g)))
  else (if t = 3 then ((s.ring d).send.take 1).map (fun b => (17, b.tag)) else []) ++ (s.bridgeWaits d t).map (fun w => (w.1 + 1, w.2))

/-- Code of the owner of an entry: 17 ring liquor, v + 1 channel Cv; none when unreserved. -/
def entOwner (e : Nat) : Option Nat := if bit e 0 then some (if bits e 1 2 = 1 then 17 else bits e 3 4 + 1) else none

/-- Carry count index of a code: 0 for ring liquor, v for channel Cv (10 R449). -/
def carryOf (k : Nat) : Nat := if k = 17 then 0 else k - 1

/-- Payload bytes of a slot: of a port at the width in force, of a bridge 64,000 (10 R427, 13 R542, R543). -/
def State.slotCap (s : State) (d t : Nat) : Nat := if t < 3 then 4980 * laneCount (s.pst d t qlPstatTxw) / 8 else 64000

/-- The slot that ends carried less than half of its capacity for its owner, who held it: the owner's carry count rises (10 R430). -/
def State.slotLess (s : State) (d t : Nat) : State :=
  let h := s.slotHolder d t
  if h.2.isNone then s else
  let v := carryOf h.1
  let n := s.carry d t v
  if 15 ≤ n then
    let l := s.rf d (oSlotStat t) slotStatLost
    s.wf d (oSlotStat t) slotStatLost (if l < 2 ^ 32 - 1 then l + 1 else l)
  else s.setCarry d t v (n + 1)

/-- Give the current slot of a table: code k (0 nobody), and the tag when it is the reserved owner's. -/
def State.setHolder (s : State) (d t k : Nat) (tag : Option Nat) : State :=
  { s with slotOwn := mset n0 s.slotOwn (d * 5 + t) (k + (tag.map (fun g => 32 * (g + 1))).getD 0) }

/-- SLOT_START: the next slot of a table starts; `use` is what the one that ends carried (DESIGN CHOICE, log entry 21). -/
def State.slotStart (s : State) (d t : Nat) (use : SlotUse) : State :=
  let e := s.rf d (oSlotCtl t) slotCtlEpos
  if e = 4095 ∧ s.slotSwapping d t then s else
  let s := if use.cut ∧ 2 * use.sent < s.slotCap d t then s.slotLess d t else s
  let e' := (e + 1) % 4096
  let s := s.wf d (oSlotCtl t) slotCtlEpos e'
  let ent := s.slotEnt d t (s.slotAct d t) e'
  let tag := bits ent 8 8
  let w := s.slotTraffic d t
  let own : Option Nat := match entOwner ent with
    | none => none
    | some k => if s.jobEn d tag ∧ w.contains (k, tag) then some k else none
  match own with
  | some k => s.setHolder d t k (some tag)
  | none =>
    match bestCarry (s.carry d t) ((List.range 14).filter (fun v => w.any (fun x => carryOf x.1 = v && decide (x.1 ≠ 1)))) with
    | none => s.setHolder d t 0 none
    | some v =>
      let s := s.setCarry d t v (s.carry d t v - 1)
      let k := s.rf d (oSlotStat t) slotStatCarried
      let s := s.wf d (oSlotStat t) slotStatCarried (if k < 2 ^ 32 - 1 then k + 1 else k)
      s.setHolder d t (if v = 0 then 17 else v + 1) none

/-- The next slot starts, and answers that waited for it cross. -/
def State.slotNext (s : State) (d t : Nat) (use : SlotUse) : State :=
  let s := s.slotStart d t use
  s.sendBacks [] s.backs

def execSlotStart (d t : Nat) (use : SlotUse) (s : State) : Host.Outcome State Fault Refusal :=
  if s.hasDie d && decide (t < 5) then .next (s.slotNext d t use) else .fault .absentUnit

/-- A held SWAP of table t is set: the half now in force gets the same words once that swap has made it inactive. -/
def State.swapAgain (s : State) (d t : Nat) : State :=
  (s.wf d (oSlotCtl t) slotCtlSwap 1).holdWords d t (wordDiff (s.halfWords d t (s.slotAct d t)) (s.halfWords d t (1 - s.slotAct d t)))

/-- Held writes apply to the half that is inactive after the swap (19 R769). -/
def slotHeldApply (d : Nat) : State → List (Nat × Nat × Nat × Nat) → State
  | s, [] => s
  | s, (e, t, i, v) :: ws =>
    slotHeldApply d (if e ≠ d then s else if i = heldSwap then s.swapAgain d t
      else s.setReg d (oSlotEnt t (1 - s.slotAct d t) i) (BitVec.ofNat 256 v)) ws

/-- EPOCH_BOUNDARY: the last slot of the epoch is running and SWAP is set: the five tables change halves together. -/
def State.epoch (s : State) (d : Nat) : State :=
  if ! (List.range 5).all (fun t => s.rf d (oSlotCtl t) slotCtlEpos = 4095) ∨ ! (List.range 5).any (s.slotSwapping d) then s else
  let s := (List.range 5).foldl (fun s t =>
    if s.slotSwapping d t then s.wfs d (oSlotCtl t) [(slotCtlAct, 1 - s.slotAct d t), (slotCtlSwap, 0)] else s) s
  slotHeldApply d { s with slotHeld := s.slotHeld.filter (fun w => decide (w.1 ≠ d)) } s.slotHeld

/-- Entry e of a half's words. -/
def entOf (ws : List (Nat × RegWord)) (e : Nat) : Nat :=
  bits ((ws.find? (fun w => w.1 = e / 2)).elim 0 (fun w => w.2.toNat)) (16 * (e % 2)) 16

/-- Words of a half with entry e made v. -/
def putEnt (ws : List (Nat × RegWord)) (e v : Nat) : List (Nat × RegWord) :=
  let old := (ws.find? (fun w => w.1 = e / 2)).elim 0 (fun w => w.2.toNat)
  (e / 2, BitVec.ofNat 256 (putBits old (16 * (e % 2)) 16 v)) :: ws.filter (fun w => decide (w.1 ≠ e / 2))

/-- A half's words with the grants of table t, their TAG written. -/
def withGrants (gs : List Nat) (tag t : Nat) (ws : List (Nat × RegWord)) : List (Nat × RegWord) :=
  (gs.filter (fun g => bits g 0 3 = t)).foldl (fun ws g => putEnt ws (bits g 4 12) (bits g 16 8 + tag % 256 * 256)) ws

/-- T3 would have three entries in a row without ring liquor once the grants are in (02 R84). -/
def State.noLiquor (s : State) (d : Nat) (gs : List Nat) : Bool :=
  let ws := withGrants gs 0 3 (s.nextWords d 3)
  let liq (e : Nat) : Bool := let v := entOf ws (e % 4096); bit v 0 && bits v 1 2 = 1
  (List.range 4096).any (fun e => ! (liq e || liq (e + 1) || liq (e + 2)))

def execEpochBoundary (d : Nat) (s : State) : Host.Outcome State Fault Refusal :=
  if s.hasDie d then .next (s.epoch d) else .fault .absentUnit

/-- SLOT_SWAP: firmware sets SWAP. -/
def execSlotSwap (d t : Nat) (s : State) : Host.Outcome State Fault Refusal :=
  if s.hasDie d && decide (t < 5) then .next (s.wf d (oSlotCtl t) slotCtlSwap 1) else .fault .absentUnit

/-! ## Jobs -/

def jobDefault (_ : Nat) : JobRec := {}

/-- The job of a tag. -/
def State.job (s : State) (tag : Nat) : JobRec := mget jobDefault s.jobs tag
def State.putJob (s : State) (tag : Nat) (j : JobRec) : State := { s with jobs := mset jobDefault s.jobs tag j }

/-- Contexts that hold a tag, as (die, context). -/
def State.tagCtxs (s : State) (tag : Nat) : List (Nat × Nat) :=
  (s.ctxs.filter (fun e => e.2.tag = tag && decide (e.2.state ≠ cFREE))).map (fun e => (e.1 / 25600, e.1 % 25600))

/-- Every context of a tag enters STOPPED, with the opcode it stopped at (10 R403, R404, R436). -/
def stopAll : State → List (Nat × Nat) → State
  | s, [] => s
  | s, (d, c) :: cs =>
    let x := s.ctx d c
    stopAll (if x.state = cSTOPPED then s else
      s.ctxTo d c { x with state := cSTOPPED, wctr := 0, wthr := 0, heldus := 0, fopc := x.headOp, ending := false }) cs

/-- Every context of a tag is written FREE. -/
def freeAll : State → List (Nat × Nat) → State
  | s, [] => s
  | s, (d, c) :: cs => freeAll (s.ctxTo d c {}) cs

/-- The command a function's ring runs ends: its reply is written (14 R591, R599). -/
def State.endCmd (s : State) (f status detail result : Nat) : State :=
  let x := s.fn f
  match x.cur with
  | none => s
  | some p =>
    let s := s.putFn f { x with cur := none, stage := 0 }
    if p.mute then s else
    s.reply f
      { seq := p.seq, opc := p.opc, part := p.part, status := status, detail := detail, result := result, irq := p.irq }

/-- Modules that the axes of a tag name as neighbours (15 R642). -/
def State.neighbours (s : State) (d tag : Nat) : List Nat :=
  ((List.range 6).flatMap (fun a =>
    let o := oTunAxis tag a
    if s.rf d o tunAxisEn = 0 then []
    else if s.rf d o tunAxisTopo = 0 then [s.rf d o tunAxisNextmod, s.rf d o tunAxisPrevmod]
    else ((List.range (s.rf d o tunAxisP)).filter (fun c => decide (c ≠ s.rf d o tunAxisC))).map (fun c =>
      bits (s.rf d o tunAxisMem) (16 * c) 16))).eraseDups

/-- A PNOT to each neighbour. -/
def State.sendPnots (s : State) (d tag pjid ser addr cls : Nat) : State :=
  let b := toBytes 24 (pjid % 2 ^ 32 + s.modNum * 2 ^ 32 + ser % 2 ^ 16 * 2 ^ 48 + addr % 2 ^ 64 * 2 ^ 64 + cls % 256 * 2 ^ 128)
  (s.neighbours d tag).foldl (fun s m =>
    match s.sendMsg d 14 (s.jobPart d tag) { typ := mPNOT, dmod := m, tag := tag, body := b } with
    | .ok u => u.2
    | .error _ => s) s

/-- The notice of a job's end wakes every resting island of its dies (17 R717, R720). -/
def State.wakeIslands (s : State) (mask : Nat) : State :=
  (List.range s.nDies).foldl (fun s d => if bit mask d then s.wf d oIslRest islRestRested 0 else s) s

/-- Firmware begins to end a job: its dies' islands wake, contexts stop, and the abort floods the pod, but for a peer's abort (10 R436). The
first cause stands. Body bytes of a PNOT go with a POISON ending. -/
def State.beginEnd (s : State) (d tag cause fbit fcode : Nat) (idx : Option Nat) (org addr pcls : Nat) : State :=
  let j := s.job tag
  if j.phase ≠ 1 then s else
  let s := s.putJob tag { j with phase := 2, cause := cause, fdie := d, fbit := fbit, fcode := fcode, idx := idx, org := org }
  let s := stopAll (s.wakeIslands j.mask) (s.tagCtxs tag)
  if cause = 2 then s else
  let ser := s.abortSerial
  let s := { s with abortSerial := (ser + 1) % 2 ^ 16 }
  let s := if s.modNum = 0xFFFF then s else s.flood s.modNum ser (abortBody j.pjid s.modNum ser cause) tag none
  if cause = 4 then s.sendPnots d tag j.pjid ser addr pcls else s

/-- A beat or the injection of the tag is in the ring of die d. -/
def State.inRing (s : State) (d tag : Nat) : Bool :=
  let g := s.ring d
  g.inj.any (fun i => i.tag = tag) || (g.send ++ g.wire ++ g.landing).any (fun b => b.tag = tag) ||
    (List.range 16).any (fun v => (s.vat d v).inq.any (fun b => b.tag = tag))

/-- LONG of every die becomes v, which waits until every die is drained (02 R86). -/
def setLong (v : Nat) : Nat → State → State
  | 0, s => s
  | d + 1, s => setLong v d (s.wfs d oSpineMode
      [(spineModeLong, v), (spineModePend, if decide (v = 1) = (s.ring d).long then 0 else 1)])

/-- The job that holds every vat of the module, if one does (01 R35): its footprint is every die, its partition holds every ring, and no
other job's liquor has one. -/
def State.longJob (s : State) : Option Nat :=
  (s.jobs.find? (fun e => e.2.phase = 1 && (List.range s.nDies).all (fun d =>
    bit e.2.mask d && s.granted d e.2.part 1 d 0 0 && (! s.ringHeld d || decide ((s.ring d).ringTag = some e.1))))).map (fun e => e.1)

/-- SPINE_MODE.LONG is written on die d, for all dies together (02 R86). Long sparge is refused unless one job holds every vat, and while
some die's T3 is short of liquor slots (01 R35, 10 R431): LONG stays as it was. -/
def State.longWrite (s : State) (d : Nat) : State :=
  let v := s.rf d oSpineMode spineModeLong
  if v = 1 ∧ (s.longJob = none ∨ (List.range s.nDies).any (fun e => s.noLiquor e [])) then
    s.wf d oSpineMode spineModeLong (s.rf ((d + 1) % s.nDies) oSpineMode spineModeLong)
  else { setLong v s.nDies s with longTag := if v = 1 then s.longJob else none }

/-- The end of the job that holds every vat brings back the per-die rings (01 R35). -/
def State.longEnds (s : State) (tag : Nat) : State :=
  if s.longTag = some tag then { setLong 0 s.nDies s with longTag := none } else s

/-- Every unit of every die in operation has nothing left of the tag: the drain is reported (10 R436). -/
def State.drainedAll (s : State) (tag : Nat) : Bool :=
  (List.range s.nDies).all (fun d => bit s.lostDies d ||
    (mget (fun _ => false) s.drainRk (d * 256 + tag) && mget (fun _ => false) s.drainTun (d * 256 + tag) &&
     (List.range 4).all (fun k => (s.kcore d k).pend.all (fun p => decide (p.tag ≠ tag))) && ! s.inRing d tag &&
     (List.range 16).all (fun v =>
       let x := s.vat d v
       ! (x.abortDrn && x.abortTags.contains tag) && (x.steepQ ++ x.mashQ ++ x.drawQ).all (fun i => decide (i.tag ≠ tag)) &&
       x.passes.all (fun p => decide (p.kind ≠ .mash) || decide (p.tag ≠ tag)))))

/-- Step 4 of R436: contexts FREE, EN cleared, slots released, JOB_END raised, waiting JOB_ABORTs answered. -/
def State.finishJob (s : State) (tag : Nat) : State :=
  let j := s.job tag
  let s := freeAll (s.longEnds tag) (s.tagCtxs tag)
  let s := (List.range s.nDies).foldl (fun s d =>
    let k := d * 256 + tag
    let s := (s.wf d (oThrJob tag) thrJobEn 0).freeRing d tag
    { s with abortRk := mset (fun _ => false) s.abortRk k false, abortTun := mset (fun _ => false) s.abortTun k false,
             drainRk := mset (fun _ => false) s.drainRk k false, drainTun := mset (fun _ => false) s.drainTun k false }) s
  let s := (s.releaseSlots (fun t => t = tag)).putJob tag {}
  let res := tag % 256 + j.cause % 256 * 2 ^ 8 + j.fdie % 8 * 2 ^ 16 + j.fbit % 2 * 2 ^ 19 + j.fcode % 256 * 2 ^ 24 +
    j.pjid % 2 ^ 32 * 2 ^ 32 + (if j.cause = 2 then j.org else s.modNum) % 2 ^ 16 * 2 ^ 64
  let det := j.idx.getD 0xFFFFFFFF
  let s := (s.raise 0 0x8001 j.part res det).raise (j.part + 1) 0x8001 j.part res det
  (List.range 9).foldl (fun s f =>
    match (s.fn f).cur with
    | some p => if p.opc = 0x31 ∧ (s.fn f).stage = 1 ∧ (p.params.headD 0).toNat = tag then s.endCmd f 0 0 0 else s
    | none => s) s

def execJobDrainComplete (tag : Nat) (s : State) : Host.Outcome State Fault Refusal :=
  .next (if (s.job tag).phase = 2 ∧ s.drainedAll tag then s.finishJob tag else s)

/-- JOB_NORMAL_END: every context of the tag on every die of its footprint is FREE (14 R612). -/
def execJobNormalEnd (tag : Nat) (s : State) : Host.Outcome State Fault Refusal :=
  .next (if (s.job tag).phase = 1 ∧ s.tagCtxs tag = [] then s.finishJob tag else s)

/-! ## Reports of units (10 R436, 15 R640, R655–R658) -/

/-- The first report for which p holds, and the others. -/
def takeFirst (p : Report → Bool) : List Report → Option (Report × List Report)
  | [] => none
  | r :: rs => if p r then some (r, rs) else (takeFirst p rs).map (fun t => (t.1, r :: t.2))

/-- The error record of a report: an existing one, or a new one; its index. -/
def State.reportRec (s : State) (r : Report) (sec : Bool) : Nat × State :=
  match r.idx with
  | some i => (i, s)
  | none =>
    let s := s.logErr
      { cls := r.cls, sec := sec, tagv := r.tagv, part := r.part, tag := r.tag, die := r.die, island := r.island, sub := r.sub,
        named := r.named, addr := r.addr, synd := r.synd, detail := r.detail, inoc := r.inoc }
    (s.recIdx r.cls r.addr, s)

/-- JOB_FAULT: firmware handles the oldest report of a fault, or of a peer's abort. -/
def State.jobFault (s : State) : State :=
  match takeFirst (fun r => ! r.poison) s.reports with
  | none => s
  | some (r, rs) =>
    let s := { s with reports := rs }
    if r.cause = 2 then s.beginEnd r.die r.tag 2 0 0 none r.named 0 0 else
    let t := s.reportRec r (r.tagv && (s.job r.tag).phase = 2)
    if ! r.tagv then t.2 else
    t.2.beginEnd r.die r.tag r.cause (if r.unit then 0 else 1) (if r.unit then r.detail else r.cls) (some t.1) s.modNum 0 0

def execJobFault (s : State) : Host.Outcome State Fault Refusal := .next s.jobFault

/-- Health mask of the dies. -/
def State.healthMask (s : State) : Nat := (2 ^ s.nDies - 1) - s.lostDies

/-- MODULE_STATE to the PF and every VF (14 R598). -/
def State.moduleState (s : State) : State :=
  (List.range 9).foldl (fun s f => s.raise f 0x8005 0xFF (s.healthMask + (if s.failed then 256 else 0))) s

/-- Partition p holds a vat, kettle core, granary range or stack range of die d (01 R47). -/
def State.partUses (s : State) (p d : Nat) : Bool :=
  s.grants.any (fun g => g.part = p && ((g.kind = 1 || g.kind = 2 || g.kind = 3 || g.kind = 5) && g.die = d || g.kind = 4))

/-- The COPYs and state transfers of partitions that use die d end in STATE: no request of one issues again (01 R47; DEDUCED, log entry
99). -/
def State.stopLongs (s : State) (d : Nat) : State :=
  { s with
    rackqs := s.rackqs.map (fun (e : Nat × RackQ) => if e.1 % 257 = 256 then
      (e.1, { e.2 with ins := e.2.ins.map (fun i => if s.partUses i.part d then { i with full := true, stopped := true } else i) }) else e),
    fns := s.fns.map (fun (e : Nat × Fn) => (e.1, { e.2 with longs := e.2.longs.map (fun l =>
      if [0x20, 0x32, 0x33].contains l.pkt.opc ∧ l.state < 0x80 ∧ s.partUses l.pkt.part d then { l with state := 0x81, status := 0x15 }
      else l) })) }

/-- A die is lost (01 R47, 16 R686): jobs that used it, and those of partitions that use it, end; a LOCKED partition goes to ERROR, and a
partition that uses it measures what it held of the die (16 R677). -/
def State.dieLost (s : State) (d : Nat) : State :=
  if bit s.lostDies d then s else
  let s := { s with lostDies := s.lostDies + 2 ^ d }
  let s := s.logErr { cls := 0x10, die := d, island := 28 }
  let i := s.recIdx 0x10 0
  let s := (List.range 8).foldl (fun s p =>
    if ! s.partUses p d then s else
    let s := s.pmrExtend p ((s.dieGrants p d).flatMap grantBytes)
    if s.rf 0 (oPartStat p) partStatState = 2 then s.wfs 0 (oPartStat p) [(partStatState, 3), (partStatTdi, 3)] else s) s
  let s := s.jobs.foldl (fun s (e : Nat × JobRec) =>
    if bit e.2.mask d ∨ s.partUses e.2.part d then s.beginEnd d e.1 9 1 0x10 (some i) s.modNum 0 0 else s) s
  (s.stopLongs d).moduleState

/-- Class of the record that introduced the poison of a sack, when known (15 R642). -/
def State.poisonCls (s : State) (addr : Nat) : Nat :=
  ((s.errLog.reverse.find? (fun r => decide (addr ≠ 0) && decide (addr / 64 = r.addr / 64) &&
    [2, 3, 5, 6, 8, 0xA, 0xC, 0xD].contains r.cls)).map (fun r => r.cls)).getD 0

/-- POISON_CONSUMED: the owning job ends; or every job of the owning partition; or the die is lost (part 0xFF). -/
def State.poisonEvent (s : State) : State :=
  match takeFirst (fun r => r.poison) s.reports with
  | none => s
  | some (r, rs) =>
    let s := { s with reports := rs }
    let t := s.reportRec r (r.tagv && (s.job r.tag).phase = 2)
    let k := s.poisonCls r.addr
    if r.tagv then t.2.beginEnd r.die r.tag 4 1 4 (some t.1) s.modNum r.addr k
    else if r.part < 8 then
      t.2.jobs.foldl (fun s (e : Nat × JobRec) =>
        if e.2.part = r.part then s.beginEnd r.die e.1 4 1 4 (some t.1) s.modNum r.addr k else s) t.2
    else t.2.dieLost r.die

def execPoisonConsumed (s : State) : Host.Outcome State Fault Refusal := .next s.poisonEvent

/-- DIE_HEARTBEAT_TIMEOUT: a die has answered none of the exchanges of 1 ms (15 R665). -/
def execDieHeartbeatTimeout (d : Nat) (s : State) : Host.Outcome State Fault Refusal :=
  if ! s.hasDie d then .fault .absentUnit else .next (if 10 ≤ mget n0 s.dieHbAge d then s.dieLost d else s)

/-- An ABORT arrives: it is flooded and firmware ends the job it names (13 R575). -/
def State.abortRx (s : State) (d i ch : Nat) (m : Msg) : State :=
  let s := s.consume d i ch
  let b := ofBytes m.body
  let org := bits b 32 16
  let ser := bits b 48 16
  let now := s.now
  let s := { s.tick with time := now }
  if (s.seenAt d).any (fun e => e.1 = org && e.2.1 = ser) then s else
  let s := s.flood org ser m.body m.tag (some (d, i))
  match s.jobs.find? (fun e => e.2.phase = 1 && e.2.pjid = bits b 0 32) with
  | none => s
  | some e => s.report { die := d, tag := e.1, part := e.2.part, cause := 2, cls := 0, named := org, detail := bits b 64 8 }

def execAbort (d i ch : Nat) (s : State) : Host.Outcome State Fault Refusal := msgRow mABORT d i ch s (s.abortRx d i ch)

/-! ## The watchdog (10 R434, R435) -/

/-- The lowest context of a tag that waits on a die. -/
def State.waitingCtx (s : State) (d tag : Nat) : Nat :=
  let cs := s.ctxs.filter (fun e => decide (e.1 / 25600 = d) && e.2.tag = tag && decide (e.2.state ≠ cFREE))
  match cs.find? (fun e => e.2.state = cWAIT || e.2.state = cHOLD || e.2.state = cFENCE) with
  | some e => e.1 % 25600
  | none => (cs.headD (0, {})).1 % 25600

/-- The lowest context of a tag on a die that waits on held work, as p tells; else the lowest that waits (DEDUCED, log entry 98). -/
def State.waitingOn (s : State) (d tag : Nat) (p : Nat → Ctx → Bool) : Nat :=
  match s.ctxs.find? (fun e => decide (e.1 / 25600 = d) && e.2.tag = tag &&
      (e.2.state = cWAIT || e.2.state = cHOLD || e.2.state = cFENCE) && p (e.1 % 25600) e.2) with
  | some e => e.1 % 25600
  | none => s.waitingCtx d tag

/-- A context waits on instructions: in WAIT for a counter one of them posts, or held or fenced while one of its own is among them. Each is
given as its context and its DONE counter. -/
def waitsOn (l : List (Nat × Nat)) (c : Nat) (x : Ctx) : Bool :=
  if x.state = cWAIT then l.any (fun e => e.2 = x.wctr) else l.any (fun e => e.1 = c)

/-- The context and the DONE counter of a queue's instructions of a tag for which p holds, the tun's transfers through it among them. -/
def State.queueWork (s : State) (d qu : Nat) (p : RInstr → Bool) : List (Nat × Nat) :=
  (((s.rackq d qu).ins ++ (s.rackq d qu).tins).filter p).map (fun i => (i.c, wbits i.word 8 12))

/-- The watchdog of the tag's partition fires for a hold of ms milliseconds; else nothing. -/
def State.wdog (s : State) (d kind tag c ms : Nat) (body : State → State) : State :=
  let p := s.jobPart d tag
  let o := oThrWdog p
  let tmo := s.rf d o thrWdogTmo
  let ino := (s.inoc d).point = 0x50 && (s.inoc d).inst = p && kind = 0
  if ! ino ∧ (tmo = 0 ∨ ms < tmo) then s else
  let s := if ino then s.inocClear d else s
  let s := if s.rf d o thrWdogFired = 1 then s
    else s.wfs d o [(thrWdogFired, 1), (thrWdogCtx, c), (thrWdogKind, kind), (thrWdogTag, tag)]
  body (s.report { die := d, tag := tag, part := p, cls := 0x11, cause := 5, island := ctxIsland c, sub := ctxInst c, detail := kind,
                   inoc := ino })

/-- A remote request of a queue waits for its acknowledgement; numbers from 257 name tun slots. Its tag, and the instructions it is of. -/
def State.remoteWait (s : State) (d x : Nat) : Option (Nat × List (Nat × Nat)) :=
  if x < 257 then
    ((s.rackq d x).outs.find? (fun q => q.src.any (fun p => p.wait = 2) || q.dst.any (fun y => y.kind = 2 && y.sent = 1))).map (fun q =>
      (q.tag, s.queueWork d x (fun i => i.seq = q.seq)))
  else
    let y := s.tslot d ((x - 257) / 64) ((x - 257) % 64)
    if y.acks = [] then none
    else some (y.tag, (y.c, wbits y.word 8 12) :: (y.pours.filter (fun p => p.d = d)).map (fun p => (p.c, wbits p.word 8 12)))

/-- WATCHDOG_FIRE: a hold of a kind on object x of die d has lasted ms milliseconds (DESIGN CHOICE, log entry 21). Kinds 0 context, 1 vat, 2 ledger, 3
rack queue, 4 rack queue or 257 + 64 · partition + slot. -/
def State.watchdog (s : State) (d kind x ms : Nat) : State :=
  match kind with
  | 0 =>
    let c := s.ctx d x
    if c.state = cWAIT ∨ c.state = cHOLD ∨ c.state = cFENCE then s.wdog d 0 c.tag x ms id else s
  | 1 =>
    let v := s.vat d x
    match v.inq, v.mashQ, v.entryFree with
    | b :: _, [], true => s.wdog d 1 b.tag (s.waitingOn d b.tag (fun c _ => decide (c / 1024 = x))) ms id
    | _, _, _ => s
  | 2 =>
    let st := s.ledState d x
    let t := bits (s.led d x) 48 8
    if st = 1 ∨ st = 2 ∨ st = 3 then s.wdog d 2 t
      (s.waitingOn d t (fun _ y => y.state = cWAIT && y.wctr = bits (s.led d x) 144 12)) ms (fun s => s.ledFault d x) else s
  | 3 =>
    let q := s.rackq d x
    if q.trkWait = 1 then s.wdog d 3 q.trkTag
      (s.waitingOn d q.trkTag (waitsOn (s.queueWork d x (fun i => i.tag = q.trkTag)))) ms id else s
  | 4 =>
    match s.remoteWait d x with
    | none => s
    | some (t, l) => s.wdog d 4 t (s.waitingOn d t (waitsOn l)) ms id
  | _ => s

def execWatchdogFire (d kind x ms : Nat) (s : State) : Host.Outcome State Fault Refusal :=
  let ok := s.hasDie d && (match kind with
    | 0 => decide (x < 25600)
    | 1 => decide (x < 16)
    | 2 => decide (x < 256)
    | 3 => decide (x < 256)
    | 4 => decide (x < 769) && decide (x ≠ 256)
    | _ => false)
  if ok then .next (s.watchdog d kind x ms) else .fault .absentUnit

end Sys2Proof.Machine
end

