-- ==== Sys2Proof/Machine/RegAccess.lean ====
section
/-!
DEFINITION. Sys2Proof/Machine/RegAccess.lean: who reads and writes the control registers, and how: forms, windows, fields, captures
and staged words, the live view of fields the hardware computes, and what a write starts (19_register_reference.md), with the rows of
the hydrometer, the scale control, the rings' configuration, inoculation and patrol scrub.
-/
namespace Sys2Proof.Machine

/-! ## Fields that show the state of units -/

/-- Owner of row r of a wort half (02 R92–R94): 0 FREE, 1 ACCUM, 2 DRAW. -/
def Vat.rowOwner (x : Vat) (h r : Nat) : Nat :=
  let drawn := match x.drawQ with
    | [] => false
    | i :: _ => drHALF i.word = h && decide (drRow i.word x.drawPtr = r) && ! x.owesRow h i.seq r
  if drawn then 2 else if (if h = 0 then x.accum0 else x.accum1).getLsbD r then 1 else 0

/-- WORT0 or WORT1 (02 R103). -/
def Vat.wortOwner (x : Vat) (h : Nat) : Nat :=
  let os := (List.range 128).map (x.rowOwner h)
  let o := os.headD 0
  if os.all (fun n => decide (n = o)) then o else 3

/-- A racking thread holds at queue q (09 R395). -/
def State.rackHold (s : State) (d q : Nat) : Bool :=
  s.ctxs.any (fun (e : Nat × Ctx) => decide (e.1 / 25600 = d) && ctxEng (e.1 % 25600) = 2 && decide (e.2.state = cHOLD) &&
    (match e.2.ibuf with
      | w :: _ => decide (queueOf w = q)
      | [] => false))

/-- A message that QLink has delivered to die d's tun, or to its racking engine, waits. -/
def State.delivered (s : State) (d : Nat) (tun : Bool) : Bool :=
  s.ports.any (fun (e : Nat × Port) => e.2.rx.any (fun (r : Nat × RxCh) => r.2.msg.any (fun m =>
    decide (m.typ ≤ 0xA) && decide (m.ddie = d) && (decide (m.typ = mCHUNK) == tun))))

/-- The island i of die d is idle (17 R717). -/
def State.islandIdle (s : State) (d i : Nat) : Bool :=
  if i < 16 then
    let x := s.vat d i
    x.inq.isEmpty && x.passes.isEmpty && x.steepQ.isEmpty && x.mashQ.isEmpty && x.drawQ.isEmpty && x.done.isEmpty && ! x.abortDrn &&
      s.ctxs.all (fun (e : Nat × Ctx) => decide (e.1 / 25600 ≠ d) || decide (e.1 % 25600 / 1024 ≠ i) ||
        ! (e.2.state = cREADY || e.2.state = cHOLD))
  else if i < 18 then true
  else if i < 22 then
    (s.kcore d (i - 18)).pend.isEmpty && (s.accOf d (i - 18)).isEmpty &&
      s.ctxs.all (fun (e : Nat × Ctx) => decide (e.1 / 25600 ≠ d) || decide (e.1 % 25600 / 1024 ≠ i - 2) ||
        ! (e.2.state = cREADY || e.2.state = cHOLD))
  else if i = 22 then
    (s.rackqsOf d).all (fun (e : Nat × RackQ) => e.2.ins.isEmpty && e.2.outs.isEmpty) && s.trkInuse d = 0 && ! s.delivered d false &&
      (List.range 256).all (fun l => let st := s.ledState d l
        decide (st = 0) || decide (3 < st))
  else if i = 26 then
    s.tslots.all (fun (e : Nat × TSlot) => decide (e.1 / 512 ≠ d) || e.2.state = 0) && s.tunq.all (fun p => decide (p.d ≠ d)) && ! s.delivered d true
  else false

/-- Islands of die d at rest: those that entered rest, are idle, and may rest, and in module sleep the racking engine and the cellar controller
(17 R716; DEDUCED, log entry 41). -/
def State.restedMask (s : State) (d : Nat) : Nat :=
  let st := s.rf d oIslRest islRestRested
  let en := s.rf d oIslRest islRestResten
  let slept (i : Nat) : Bool := (i = 22 || i = 27) && decide (s.rf 0 oPwrStat pwrStatSleep = 1)
  sumBy (fun i => if bit st i ∧ ((bit en i ∧ s.islandIdle d i) ∨ slept i) then 2 ^ i else 0) (List.range 31)

/-- The island of a register's instance (17 R707). -/
def RegInfo.island (r : RegInfo) (i : Nat) : Nat := match r.isl with
  | .spine => 30
  | .vat => i
  | .kettle => 18 + i
  | .racking => 22
  | .tun => 26
  | .link => 23 + i
  | .maltster => 28
  | .bond => 29
  | .pcie => 31

/-- The IEEE 1149.1 identification code of die d (18 R746). -/
def idcode (d : Nat) : Nat := (Config.dieRev d).toNat * 2 ^ 28 + 0x0B7D * 2 ^ 12 + 0x3A7 * 2 + 1

/-- Levels of GPIO0 to GPIO3: ATTN and THROT low when asserted, and the two general-purpose pins, driven or measured (18 R747, R748). -/
def State.pins (s : State) : Nat :=
  let g (f : Fld) : Nat := s.rf 0 oGpioCtl f
  let pin (i : Nat) : Bool := if bit (g gpioCtlOe) i then bit (g gpioCtlOut) i else Config.pinLevel (2 + i) s.freeCtr
  (if ! s.porSeq ∧ ! s.failed ∧ s.lostDies = 0 then 1 else 0) + (if s.rf 0 oPwrStat pwrStatLevel = 0 then 2 else 0) +
    (if pin 0 then 4 else 0) + (if pin 1 then 8 else 0)

/-- The word a read of instance (i, j) of register r finds: stored fields, with those the hardware computes. OUTCRED of V15 is that of a
link nothing has left on (DESIGN CHOICE, log entry 90). -/
def State.regLive (s : State) (d : Nat) (r : RegInfo) (i j : Nat) : RegWord :=
  let o := r.at i j
  let v := s.reg d o
  match r.off with
  | 0x0 => setFs v [(ctlIdDie, d), (ctlIdNdie, s.nDies), (ctlIdHead, if d = 0 then 1 else 0), (ctlIdRev, (Config.dieRev d).toNat),
      (ctlIdIdcode, idcode d)]
  | 0x10000 =>
    let x := s.vat d i
    setFs v [(vatRstatBank0, x.bank0), (vatRstatBank1, x.bank1), (vatRstatLastpar, x.lastPar), (vatRstatLastkeep, if x.lastKeep then 1 else 0),
      (vatRstatInocc, x.inq.length), (vatRstatOutcred, x.outCred), (vatRstatWort0, x.wortOwner 0), (vatRstatWort1, x.wortOwner 1),
      (vatRstatDrawptr, match x.drawQ with
        | [] => 0
        | y :: _ => drRow y.word x.drawPtr), (vatRstatAbortdrn, if x.abortDrn then 1 else 0)]
  | 0x20000 => setF v spineModeDrained (if s.drained d then 1 else 0)
  | 0x40000 =>
    setFs v [(ketCstatXfer, if (s.kcore d i).pend.any (fun p => p.xfer) then 1 else 0), (ketCstatAqocc, (s.accOf d i).length)]
  | 0x51000 =>
    let x := s.rackq d i
    setFs v [(rkQstatOcc, x.ins.length), (rkQstatHold, if s.rackHold d i then 1 else 0), (rkQstatBudget, tc 21 x.budget)]
  | 0x52000 => setFs v [(rkTrkInuse, s.trkInuse d), (rkTrkHeld, sumBy (s.heldOf d) (List.range 8))]
  | 0x52100 => setFs v [(rkTrkqUsed, s.trkUsed d i), (rkTrkqHeld, s.heldOf d i)]
  | 0x118000 =>
    let x := s.tslot d i j
    setFs v [(tunCstatState, x.state), (tunCstatNreg, x.nreg), (tunCstatStep, x.step)]
  | 0x140100 => setF v qlVcstatOcc (s.rxch d i j).flits.length
  | 0x160010 => setFs v [(huStatCbusy, if s.commitRun.isSome then 1 else 0), (huStatDefq, (s.deferred.filter (fun c => c.kind = 0)).length)]
  | 0x170118 => setF v gpioCtlIn s.pins
  | 0x170000 => setF v islRestRested (s.restedMask d)
  | 0x7F0020 => setFs v [(hiRingstLongrun, (s.fn i).longs.length), (hiRingstEvq, evQueued (s.fn i))]
  | _ => v

/-! ## Forms and windows (19 R757, R768, R770, R771) -/

/-- Register instance an access of w bytes at offset o of die d reaches in the form R757 gives: the register, its indices and the
word; none is RANGE. -/
def regAt (d o w : Nat) : Option (RegInfo × Nat × Nat × Nat) :=
  match regOf o with
  | none => none
  | some (r, i, j) =>
    let x := o - r.at i j
    if r.d0 ∧ d ≠ 0 then none
    else if r.bytes ≤ 8 then (if w = r.bytes ∧ x = 0 then some (r, i, j, 0) else none)
    else if r.bytes ≤ 32 then (if w = 8 ∧ x % 8 = 0 then some (r, i, j, x / 8) else none)
    else if w = 4 ∧ x % 4 = 0 then some (r, i, j, x / 4) else none

/-- Partition p reaches instance i of a register of die d that is not of the module, of a function or secret, by the tables of die e. -/
def State.classWindow (s : State) (e p d : Nat) (r : RegInfo) (i : Nat) : Bool := match r.cls with
  | .ident => true
  | .partition => decide (i = p)
  | .tag => s.granted e p 0xE 0 i i
  | .vat => s.granted e p 1 d 0 0
  | .core => s.granted e p 2 d i i
  | .queue => s.granted e p 9 d i i
  | _ => false

/-- Partition p has an owner bound (16 R683). -/
def State.owned (s : State) (p : Nat) : Bool := s.rf 0 (oPartStat p) partStatOwned = 1

/-- Partition that holds kettle core k of die d, if one does. -/
def State.corePart (s : State) (d k : Nat) : Option Nat := (List.range 8).find? (fun p => s.granted d p 2 d k k)

/-- Requester q, acting for partition p where it is a kettle core, reaches instance i of register r of die d. An access through BAR0 is
judged where it arrives, by the tables of D0 (16 R688). -/
def State.regWindow (s : State) (q : Requester) (p d : Nat) (r : RegInfo) (i : Nat) (write : Bool) : Bool := match q with
  | .firmware _ => true
  | .bond => true
  | .kettle e _ => decide (e = d) && s.classWindow d p d r i
  | .vf k => decide (s.rf 0 (oPartStat k) partStatTdi ≠ 3) && (s.classWindow 0 k d r i || (r.cls = .function && decide (i = k + 1)))
  | .pf => r.cls = .module || r.cls = .ident || (r.cls = .function && decide (i = 0)) || (r.off = 0x160100 && ! write) ||
      (List.range 8).any (fun k => ! s.owned k && s.classWindow 0 k d r i)

/-- Registers only the bond monitor writes; and only a driver. -/
def bondOnly (r : RegInfo) : Bool := r.off = 0x52100 || r.off = 0x140200

/-- The field is open to the requester (19 R768, R772). -/
def fieldOpen (q : Requester) (r : RegInfo) (f : Fld) : Bool := match q with
  | .firmware _ => ! bondOnly r && decide (r.cls ≠ .function)
  | .bond => bondOnly r
  | .kettle _ _ => bit f.opn 0
  | .vf _ => bit f.opn 1
  | .pf => bit f.opn 1 || bit f.opn 2

/-- What a value n written over o leaves in an RW field: reserved bits read 0 and a reserved code is ignored (00 R9): the RESTEN bits of
islands that never rest (17 R731), and MINW 0b11 (13 R578). -/
def rwValue (f : Fld) (o n : Nat) : Nat :=
  if f = islRestResten then Nat.land n 0x47FFFFF else if f = qlPctlMinw ∧ n = 3 then o else n

/-- A write of value n over old value o of a field would change it (19 R773). -/
def fieldChange (f : Fld) (o n : Nat) : Bool := match f.acc with
  | .rw => decide (o ≠ rwValue f o n)
  | .w1c => decide (Nat.land o n ≠ 0)
  | .w1s => decide (Nat.lor o n ≠ o)
  | .wo => decide (n ≠ 0)
  | _ => false

/-- What a field holds after a write (19 R760). -/
def fieldWrite (f : Fld) (o n : Nat) : Nat := match f.acc with
  | .rw => rwValue f o n
  | .w1c => o - Nat.land o n
  | .w1s => Nat.lor o n
  | _ => o

/-- Bits of the 64-bit words of a mask. -/
def wordBits (m : Nat) : RegWord :=
  BitVec.ofNat 256 (sumBy (fun j => if bit m j then (2 ^ 64 - 1) * 2 ^ (64 * j) else 0) (List.range 4))

/-- Value v over the words of mask m, old word o elsewhere. -/
def mergeWords (o v : RegWord) (m : Nat) : RegWord := (v &&& wordBits m) ||| (o &&& ~~~ wordBits m)

/-- A field that the written words do not touch keeps W1C, W1S and WO quiet. -/
def writtenF (v : RegWord) (m : Nat) (f : Fld) : Nat := getF (v &&& wordBits m) f

/-- A write of words m of v would change a field not open to q. -/
def closedChange (q : Requester) (r : RegInfo) (old v : RegWord) (m : Nat) : Bool :=
  r.flds.any (fun f => ! fieldOpen q r f &&
    fieldChange f (getF old f) (if f.acc = .rw then getF (mergeWords old v m) f else writtenF v m f))

/-- The register word after the write, field by field. -/
def applyFields (q : Requester) (r : RegInfo) (old v : RegWord) (m : Nat) : RegWord :=
  r.flds.foldl (fun w f => if fieldOpen q r f then
    setF w f (fieldWrite f (getF old f) (if f.acc = .rw then getF (mergeWords old v m) f else writtenF v m f)) else w) old

/-! ## Captures and staged words (19 R758, R759) -/

def sameHold (q : Requester) (d : Nat) (h : RegHold) : Bool := decide (h.q = q) && decide (h.d = d)

/-- Read word k of instance (i, j) of register r: the word, and the state after the capture and the clears. Of a powered-off island the
reset value is read, and nothing wakes (19 R765). -/
def State.regRead (s : State) (q : Requester) (d : Nat) (r : RegInfo) (i j k : Nat) : Nat × State :=
  let o := r.at i j
  if 32 < r.bytes then ((s.reg d (o + 4 * k)).toNat, s) else
  let off := s.dormant d && r.isl.poweredOff
  let s := if off then s else s.unrest d (r.island i)
  let live := if off then resetWord r.flds else s.regLive d r i j
  if 0 < k then
    match s.caps.find? (sameHold q d) with
    | some h => (bits (if h.off = o then h.v else live).toNat (64 * k) 64, s)
    | none => (bits live.toNat (64 * k) 64, s)
  else
    let ket := match q with
      | .kettle _ _ => true
      | _ => false
    let s := if r.bytes ≤ 8 then s else
      { s with caps := { q := q, d := d, off := o, v := live } :: s.caps.filter (fun h => ! sameHold q d h) }
    let rc := r.flds.filter (fun f => f.acc = .rc && (decide (r.off ≠ 0x120000) || ket))
    let s := if rc = [] ∨ off then s else s.wfs d o (rc.map (fun f => (f, if f = rkTrkPeak then s.trkInuse d else 0)))
    (bits live.toNat 0 64, s)

/-! ## What a write starts -/

/-- HYD_SNAP: copy and clear (04 R188). -/
def State.hydSnapshot (s : State) (d p set : Nat) : State :=
  let h := s.hydSet d p set
  let s := { s with hyd := mset hydDefault s.hyd (hydKey d p set) {} }
  let s := s.wfs d (oHydSinfo p) [(hydSinfoSet, set), (hydSinfoValid, 1)]
  let s := s.wfs d (oHydSmax p) [(hydSmaxFrac, tc 32 h.max % 65536), (hydSmaxExp, tc 32 h.max / 65536)]
  ((s.wf d (oHydSzero p) hydSzeroCount h.zero).wf d (oHydSsat p) hydSsatCount h.sat).wf d (oHydSnonf p) hydSnonfCount h.nonf

/-- The job of partition p the non-finite limit ends: the tag active on the die that firmware runs for it. -/
def State.partTag (s : State) (d p : Nat) : Option Nat :=
  (s.jobs.find? (fun e => decide (e.2.part = p) && decide (e.2.phase ≠ 0) && s.jobEn d e.1)).map (fun e => e.1)

/-- KSC_CTRL: APPLIED or SKIPPED, not both (05 R205, R228, 12 R534; DEDUCED, log entry 40). -/
def State.kscWrite (s : State) (d p : Nat) (applied skipped : Bool) : State :=
  let o := oKscCtrl p
  if applied = skipped then s else
  if applied then
    let n := s.rf d (oKetOpt p) ketOptNapp
    (s.wf d o kscCtrlSkipcnt 0).wf d (oKetOpt p) ketOptNapp (if n < 2 ^ 32 - 1 then n + 1 else n)
  else
    let n := s.rf d o kscCtrlSkipcnt
    let n := if n < 255 then n + 1 else n
    let lim := s.rf d o kscCtrlSkiplim
    let s := s.wf d o kscCtrlSkipcnt n
    if lim ≠ 0 ∧ n = lim then
      match s.partTag d p with
      | some t => s.report { die := d, tag := t, part := p, cls := 0x19, cause := 6, island := 30 }
      | none => s
    else s

/-- Bounds of PLIM of a variant (18 R735). -/
def State.plimBounds (s : State) : Nat × Nat := match s.variant with
  | .qbm2 => (300, 850)
  | .qbm4 => (600, 1650)
  | .qbm8 => (1200, 3200)

/-- PLIM is taken as the nearer bound (17 R729). -/
def State.plimWrite (s : State) : State :=
  let x := s.rf 0 oPwrCtl pwrCtlPlim
  let b := s.plimBounds
  s.wf 0 oPwrCtl pwrCtlPlim (if x < b.1 then b.1 else if b.2 < x then b.2 else x)

/-- Level that cause c demands: 0 input power, 1 input current, 2 die temperature, 3 stack temperature, 4 LFLOOR (17 R714). -/
def State.levelOf (s : State) (c : Nat) : Nat := if c = 4 then s.rf 0 oPwrCtl pwrCtlLfloor else mget n0 s.levels c

/-- A die has yet to apply the level in force (17 R713, R730). -/
def State.levelPend (s : State) : State :=
  let l := s.rf 0 oPwrStat pwrStatLevel
  s.wf 0 oPwrStat pwrStatPend (if (List.range s.nDies).any (fun d => decide (mget n0 s.dieLevel d ≠ l)) then 1 else 0)

/-- The level in force is the largest that a cause demands; a rise is counted and alerts the host (17 R714, R730, 18 R744). -/
def State.levelSet (s : State) : State :=
  let l := (List.range 5).foldl (fun m c => max m (s.levelOf c)) 0
  let holds := sumBy (fun c => if 0 < l ∧ s.levelOf c = l then 2 ^ c else 0) (List.range 5)
  let old := s.rf 0 oPwrStat pwrStatLevel
  let n := s.rf 0 oPwrStat pwrStatThrcnt
  let s := s.wfs 0 oPwrStat [(pwrStatLevel, l), (pwrStatCause, holds)]
  let s := if old < l then { s with smbAlert := true }.wf 0 oPwrStat pwrStatThrcnt (if n < 65535 then n + 1 else n) else s
  s.levelPend

/-- Partitions of the target of an inoculation point on die d (15 R659, R660; DEDUCED, log entry 42): the watchdog's own; the holders of the
die's ring or of the kettle core; else every partition that uses the die. -/
def State.inocParts (s : State) (d point inst : Nat) : List Nat :=
  if point = 0x50 then [inst]
  else if (0x10 ≤ point ∧ point ≤ 0x15) ∨ point = 2 ∨ point = 3 then (List.range 8).filter (fun p => s.granted d p 1 d 0 0)
  else if point = 0x20 then (List.range 8).filter (fun p => s.granted d p 2 d inst inst)
  else (List.range 8).filter (fun p => s.partUses p d)

/-- Arming is permitted (15 R659). -/
def State.inocMay (s : State) (d point inst : Nat) : Bool :=
  s.diag || (! (s.inocParts d point inst).isEmpty && (s.inocParts d point inst).all (fun p => s.rf 0 (oPartStat p) partStatInocg = 1))

/-- ARM is written to a point that is not armed (15 R659, R661). -/
def State.inocArm (s : State) (d : Nat) : State :=
  let f (x : Fld) : Nat := s.rf d oInocCtl x
  if f inocCtlPoint = 0 then s.wf d oInocCtl inocCtlArm 0
  else if s.inocMay d (f inocCtlPoint) (f inocCtlInst) then
    { s.wfs d oInocStat [(inocStatPend, 1)] with inocLeft := mset n0 s.inocLeft d (f inocCtlCount) }
  else (s.wf d oInocCtl inocCtlArm 0).wf d oInocStat inocStatRefused 1

/-- The die's point is disarmed. -/
def State.inocDisarm (s : State) (d : Nat) : State :=
  { (s.wfs d oInocCtl [(inocCtlArm, 0), (inocCtlDisarm, 0)]).wf d oInocStat inocStatPend 0 with inocLeft := mset n0 s.inocLeft d 0 }

/-- INOC_CTL is written while a point is armed: the point its fields now name is disarmed when it is none (15 R672), or one that may not be
armed, with REFUSED (15 R659; DESIGN CHOICE, log entry 103). -/
def State.inocKept (s : State) (d : Nat) : State :=
  let pt := s.rf d oInocCtl inocCtlPoint
  if pt = 0 then s.inocDisarm d
  else if s.inocMay d pt (s.rf d oInocCtl inocCtlInst) then s
  else (s.inocDisarm d).wf d oInocStat inocStatRefused 1

/-- Effects of a write of INOC_CTL, whose ARM was set before if `was`. -/
def State.inocWrite (s : State) (d : Nat) (was arm disarm : Bool) : State :=
  let s := if was then s.inocKept d else if arm then s.inocArm d else s
  if disarm then s.inocDisarm d else s

/-- A ring is put in service (14 R588). -/
def State.ringOn (s : State) (f : Nat) : State :=
  let s := s.putFn f { s.fn f with expSeq := none, replies := 0, cmdtail := 0, cplhead := 0 }
  (s.wfs 0 (oHiRingst f) [(hiRingstCmdhead, 0), (hiRingstHalted, 0), (hiRingstHcause, 0)]).flush f

/-- A ring goes out of service: replies that wait, and those of the commands that run on, are discarded; events stay queued
(14 R589). -/
def State.ringOff (s : State) (f : Nat) : State :=
  let x := s.fn f
  let m (p : Pkt) : Pkt := { p with mute := true }
  s.putFn f { x with outq := x.outq.filter (fun o => o.event), cur := x.cur.map m, longs := x.longs.map (fun l => { l with pkt := m l.pkt }) }

/-- RESTART (14 R592). -/
def State.ringRestart (s : State) (f : Nat) : State :=
  let x := s.fn f
  (s.putFn f { x with expSeq := none }).wfs 0 (oHiRingst f) [(hiRingstCmdhead, x.cmdtail), (hiRingstHalted, 0), (hiRingstHcause, 0)]

/-- HI_RINGCFG fields after a write over `old` (14 R589, R630). -/
def ringCfg (old new : RegWord) : RegWord :=
  if getF old hiRingcfgEn = 1 then
    setFs new [(hiRingcfgCbase, getF old hiRingcfgCbase), (hiRingcfgClog, getF old hiRingcfgClog), (hiRingcfgPlog, getF old hiRingcfgPlog),
      (hiRingcfgPbase, getF old hiRingcfgPbase), (hiRingcfgRestart, 0)]
  else
    let ok (n : Nat) : Bool := decide (6 ≤ n) && decide (n ≤ 16)
    let good := ok (getF new hiRingcfgClog) && ok (getF new hiRingcfgPlog) && getF new hiRingcfgCbase % 4096 = 0 &&
      getF new hiRingcfgPbase % 4096 = 0
    setFs new [(hiRingcfgRestart, 0), (hiRingcfgEn, if good then getF new hiRingcfgEn else 0)]

/-- A write of HI_RINGCFG of function f whose fields come to `new`. -/
def State.ringWrite (s : State) (f : Nat) (old new : RegWord) (restart : Bool) : State :=
  let w := ringCfg old new
  let s := s.setReg 0 (oHiRingcfg f) w
  let s := if restart then s.ringRestart f else s
  if getF old hiRingcfgEn = 0 ∧ getF w hiRingcfgEn = 1 then s.ringOn f
  else if getF old hiRingcfgEn = 1 ∧ getF w hiRingcfgEn = 0 then s.ringOff f
  else s

/-- A write of QL_CGRP asks for a key change: KSLOT and EN are installed, and the group's counters reset, at a protection fence (13 R582, 16
R693). -/
def State.cgrpWrite (s : State) (d i j : Nat) (new : RegWord) : State :=
  let port := 3 * d + i
  { s with changes := enq s.changes (
    { kind := 3, part := ((List.range 8).find? (fun p => s.granted 0 p 0xC 0 (16 * port + j) (16 * port + j))).getD 8, port := port, grp := j,
      slot := getF new qlCgrpKslot, en := getF new qlCgrpEn = 1,
      data := toBytes 4 (port + j * 2 ^ 8 + getF new qlCgrpKslot * 2 ^ 16 + getF new qlCgrpEn * 2 ^ 24) } : Change) }

/-- Register word v reaches words m of instance (i, j) of r, already allowed for q: fields by code, then what the write starts. -/
def State.regApply (s : State) (q : Requester) (d : Nat) (r : RegInfo) (i j : Nat) (v : RegWord) (m : Nat) : State :=
  let o := r.at i j
  let old := s.reg d o
  let new := applyFields q r old v m
  let w (f : Fld) : Bool := fieldOpen q r f && decide (writtenF v m f ≠ 0)
  match r.off with
  | 0x7F0000 => s.ringWrite i old new (w hiRingcfgRestart)
  | 0x140200 => if old = new then s else s.cgrpWrite d i j new
  | 0x140000 =>
    let s1 := s.setReg d o (setFs new [(qlPctlTrain, getF old qlPctlTrain), (qlPctlRetrain, getF old qlPctlRetrain)])
    let s2 := if getF new qlPctlTrain = getF old qlPctlTrain then s1 else s1.writeTrain d i (getF new qlPctlTrain = 1)
    if w qlPctlRetrain then s2.writeRetrain d i else s2
  | _ =>
    let s := s.setReg d o new
    match r.off with
    | 0x20000 => if fieldOpen q r spineModeLong then s.longWrite d else s
    | 0x20100 => if fieldOpen q r hydSnapSet then s.hydSnapshot d i (writtenF v m hydSnapSet) else s
    | 0x40300 => s.kscWrite d i (w kscCtrlApplied) (w kscCtrlSkipped)
    | 0x150020 => s.inocWrite d (getF old inocCtlArm = 1) (w inocCtlArm) (w inocCtlDisarm)
    | 0x170000 => s.wf d oIslRest islRestRested (Nat.land (s.rf d oIslRest islRestRested) (s.rf d oIslRest islRestResten))
    | 0x170100 => s.plimWrite.levelSet
    | _ => s

/-- Bits of a word of slot entries that are not reserved (10 R428, 00 R9). -/
def slotBits : Nat := 0xFF7FFF7F

/-- A write of a word of a slot-table half (19 R769). -/
def State.slotWord (s : State) (d : Nat) (r : RegInfo) (i k v : Nat) : State :=
  if s.slotSwapping d i then { s with slotHeld := enq s.slotHeld (d, i, k, Nat.land v slotBits) }
  else
    let h := if r.off = 0xD2000 then 1 else 0
    if h = s.slotAct d i then s else s.setReg d (oSlotEnt i h k) (BitVec.ofNat 256 (Nat.land v slotBits))

/-- Words staged by a requester for a register. -/
def State.staged (s : State) (q : Requester) (d o : Nat) : RegHold :=
  match s.stages.find? (sameHold q d) with
  | some h => if h.off = o then h else { q := q, d := d, off := o }
  | none => { q := q, d := d, off := o }

/-- Stage word k > 0 of a wide register (19 R759). -/
def State.stage (s : State) (q : Requester) (d o k v : Nat) : State :=
  let h := s.staged q d o
  let x : RegHold := { h with v := mergeWords h.v (BitVec.ofNat 256 (v % 2 ^ 64 * 2 ^ (64 * k))) (2 ^ k), mask := Nat.lor h.mask (2 ^ k) }
  { s with stages := x :: s.stages.filter (fun h => ! sameHold q d h) }

/-- The words a write of word 0 commits: the value and the mask. -/
def State.commitWords (s : State) (q : Requester) (d : Nat) (r : RegInfo) (o v : Nat) : RegWord × Nat :=
  if r.bytes ≤ 8 then (BitVec.ofNat 256 (v % 2 ^ 64), 1) else
  let h := s.staged q d o
  (mergeWords h.v (BitVec.ofNat 256 (v % 2 ^ 64)) 1, Nat.lor h.mask 1)

/-- The write would change a field closed to q. -/
def State.regClosed (s : State) (q : Requester) (d : Nat) (r : RegInfo) (i j k v : Nat) : Bool :=
  let o := r.at i j
  if 32 < r.bytes then
    (match q with
      | .firmware _ => false
      | _ => decide ((s.reg d (o + 4 * k)).toNat ≠ v % 2 ^ 32))
  else if 0 < k then false
  else
    let c := s.commitWords q d r o v
    closedChange q r (s.reg d o) c.1 c.2

/-- Is the requester firmware? -/
def isFw : Requester → Bool
  | .firmware _ => true
  | _ => false

/-- A write that the checks allow: word k of instance (i, j) of r. Another than firmware writes a slot-table word only with the value it has,
which changes nothing (19 R773). An island at rest, and a powered-off one of a dormant die, is woken first (19 R765). -/
def State.regDo (s : State) (q : Requester) (d : Nat) (r : RegInfo) (i j k v : Nat) : State :=
  let o := r.at i j
  if 32 < r.bytes then (if isFw q then s.slotWord d r i k v else s) else
  let s := (if r.isl.poweredOff then s.wakeDie d true else s).unrest d (r.island i)
  if 0 < k then s.stage q d o k v else
  let c := s.commitWords q d r o v
  let s := { s with stages := s.stages.filter (fun h => ! (sameHold q d h && decide (h.off = o))) }
  s.regApply q d r i j c.1 c.2

/-- BAR0 offset of a function's own ring registers (19 R770). -/
def barOff (q : Requester) (d o : Nat) : Nat :=
  if d = 0 ∧ 0x7F0000 ≤ o then
    match q with
    | .pf => if o < 0x7F0100 then o else 0x7FFFFF
    | .vf p => if o < 0x7F0100 then o + 0x100 * (p + 1) else 0x7FFFFF
    | _ => o
  else o

/-- Does the requester come through BAR0? -/
def isBar : Requester → Bool
  | .pf => true
  | .vf _ => true
  | _ => false

/-- Partition a requester acts for. -/
def State.qPart (s : State) : Requester → Nat
  | .vf p => p
  | .kettle d k => (s.corePart d k).getD 8
  | _ => 8

/-- A write of w bytes at offset o of die d by requester q (14 R586, 19 R773). A kettle core's write that its window or fields do not
allow is rejected where its STC issues, so nothing arrives. -/
def State.regWrite (s : State) (q : Requester) (d o0 w v : Nat) : State :=
  let o := barOff q d o0
  let refuse := if isBar q then { s with aer := s.aer + 1 } else s
  match regAt d o w with
  | none => refuse
  | some (r, i, j, k) =>
    if ! s.regWindow q (s.qPart q) d r i true then refuse
    else if s.regClosed q d r i j k v then
      (match q with
        | .firmware _ => if bondOnly r then s.logErr { cls := 0x12, die := d, island := r.island i, detail := 9 } else s
        | .bond => s
        | _ => refuse)
    else s.regDo q d r i j k v

/-- Does the requester exist? Firmware core n is core M(n mod 4) of die n / 4 (00 R17). -/
def State.hasReq (s : State) : Requester → Bool
  | .kettle d k => s.hasDie d && decide (k < 4)
  | .firmware n => s.hasDie (n / 4)
  | .vf p => decide (p < 8)
  | _ => true

/-- Is the requester a virtual function? -/
def isVf : Requester → Bool
  | .vf _ => true
  | _ => false

/-- An access arrives: the register blocks are powered and out of reset, the PCIe link is up for one through BAR0, and virtual functions
are exposed (01 R46). -/
def State.reachable (s : State) (q : Requester) : Bool :=
  decide (s.phase < 2) && (! isBar q || s.pcieUp) && ! (isVf q && s.failed)

/-- A write command: a BAR0 write to an absent die is ignored (14 R584). -/
def regWriteRow (q : Requester) (d o w v : Nat) (s : State) : Host.Outcome State Fault Refusal :=
  if ! s.hasReq q then .fault .absentUnit
  else if ! s.hasDie d then (if isBar q ∧ d < 8 then .next s else .fault .absentUnit)
  else .next (if s.reachable q then s.regWrite q d o w v else s)

/-- REGISTER_WRITE (19 R760). -/
def execRegisterWrite (q : Requester) (d off width v : Nat) (s : State) : Host.Outcome State Fault Refusal :=
  regWriteRow q d off width v s

/-- A read of w bytes at offset o of die d: its data is kept. One of another form, or outside the window, is refused (19 R757, R758, 14
R586). -/
def State.clearingRead (s : State) (q : Requester) (d o w : Nat) : State :=
  let refuse := if isBar q then { s with aer := s.aer + 1 } else s
  match regAt d (barOff q d o) w with
  | none => refuse
  | some (r, i, j, k) =>
    if s.regWindow q (s.qPart q) d r i false then
      let t := s.regRead q d r i j k
      { t.2 with rdata := t.1 }
    else refuse

/-- REGISTER_CLEARING_READ. One of an absent die reads as zero through BAR0 (14 R584). -/
def execRegisterClearingRead (q : Requester) (d : Nat) (off : RegRead) (s : State) : Host.Outcome State Fault Refusal :=
  if ! s.hasReq q then .fault .absentUnit
  else if ! s.hasDie d then
    (if isBar q ∧ d < 8 then .next (if s.reachable q then { s with rdata := 0 } else s) else .fault .absentUnit)
  else .next (if s.reachable q then s.clearingRead q d off.off off.width else s)

/-! ## Rows of particular registers -/

/-- HYD_SNAP (04 R188). -/
def execHydSnap (q : Requester) (d p set : Nat) (s : State) : Host.Outcome State Fault Refusal :=
  if p < 8 then regWriteRow q d (oHydSnap p) 4 (set % 64) s else .fault .absentUnit

/-- The word of KSC_CTRL with its other fields as they stand. -/
def State.kscWord (s : State) (d p b : Nat) : Nat := (s.reg d (oKscCtrl p)).toNat + b

/-- KSC_APPLIED, KSC_SKIPPED (05 R205). -/
def execKscApplied (q : Requester) (d p : Nat) (s : State) : Host.Outcome State Fault Refusal :=
  if p < 8 then regWriteRow q d (oKscCtrl p) 4 (s.kscWord d p 2) s else .fault .absentUnit

def execKscSkipped (q : Requester) (d p : Nat) (s : State) : Host.Outcome State Fault Refusal :=
  if p < 8 then regWriteRow q d (oKscCtrl p) 4 (s.kscWord d p 4) s else .fault .absentUnit

/-- INOC_ARM, INOC_DISARM (15 R659, R661): ARM or DISARM with the other fields as they stand. -/
def State.inocWord (s : State) (d : Nat) (b : Fld) : Nat :=
  (setFs (s.reg d oInocCtl) [(inocCtlArm, 0), (inocCtlDisarm, 0), (b, 1)]).toNat

def execInocArm (q : Requester) (d : Nat) (s : State) : Host.Outcome State Fault Refusal :=
  regWriteRow q d oInocCtl 8 (s.inocWord d inocCtlArm) s

def execInocDisarm (q : Requester) (d : Nat) (s : State) : Host.Outcome State Fault Refusal :=
  regWriteRow q d oInocCtl 8 (s.inocWord d inocCtlDisarm) s

/-- Function f is exposed: in the failed state only the physical function is (01 R46). -/
def State.exposed (s : State) (f : Nat) : Bool := f = 0 || ! s.failed

/-- A write of function f's driver arrives: the link is up, the function is exposed, and the VF's TDI is not in ERROR (16 R686). -/
def State.fnOpen (s : State) (f : Nat) : Bool :=
  decide (s.phase < 2) && s.pcieUp && s.exposed f && (f = 0 || decide (s.rf 0 (oPartStat (f - 1)) partStatTdi ≠ 3))

/-- RING_ENABLE (14 R588, R589): the function's driver writes EN, the other fields as they stand. -/
def execRingEnable (f : Nat) (v : Bool) (s : State) : Host.Outcome State Fault Refusal :=
  if f < 9 then
    let old := s.reg 0 (oHiRingcfg f)
    .next (if s.fnOpen f then s.ringWrite f old (setF old hiRingcfgEn (if v then 1 else 0)) false else s)
  else .fault .absentUnit

/-- RING_RESTART (14 R592). -/
def execRingRestart (f : Nat) (s : State) : Host.Outcome State Fault Refusal :=
  if f < 9 then
    let old := s.reg 0 (oHiRingcfg f)
    .next (if s.fnOpen f then s.ringWrite f old old true else s)
  else .fault .absentUnit

/-! ## Inoculation (15 R660, R661) -/

/-- Bank with live grist, if any. -/
def Vat.liveBank (x : Vat) : Option Nat := if x.bank0 = bLIVE then some 0 else if x.bank1 = bLIVE then some 1 else none

/-- Flip a bit of entry 0 of grist cell (row, col) in bank q of vat v (point 0x11). -/
def State.flipGrist (s : State) (d v q row col b : Nat) : State :=
  let o := (row * 128 + col) * 8 + 4 * q
  s.poke (.grist d v) o [s.peek (.grist d v) o ^^^ BitVec.ofNat 8 (2 ^ (b % 8))]

/-- Flip a bit of a stored residue (point 0x13). -/
def flipTally (b : Nat) (m : SMap (BitVec 13)) (k : Nat) : SMap (BitVec 13) :=
  mset tallyDefault m k (mget tallyDefault m k ^^^ BitVec.ofNat 13 (2 ^ (b % 13)))

/-- Rows from row lo on, of the quadrant or of the array, are still to form their sums of column c. -/
def Col.freshFrom (c : Col) (p : Pass) (lo : Nat) : Bool :=
  (List.range 128).all (fun r => decide (r < lo) || (p.draught && decide (r / 32 ≠ lo / 32)) ||
    (! p.forms c.n || (! c.wr.getLsbD r && (mfind c.held r).isNone)))

/-- The stage (or quadrant) of a column whose next element is at row lo or above it. -/
def Col.stageAt (c : Col) (p : Pass) (lo : Nat) : Option Nat :=
  let k := if p.draught then lo / 32 else c.sent
  if c.sent ≤ k ∧ k < c.lanes.length ∧ c.freshFrom p lo = true then some k else none

/-- The next element at row lo: pass, column, and stage or quadrant. -/
def Vat.nextElem (x : Vat) (lo : Nat) : Option (Nat × Nat × Nat) :=
  x.colIdx.findSome? (fun t =>
    let p := x.passes.getD t.1 {}
    ((p.cols.getD t.2 {}).stageAt p lo).map (fun k => (t.1, t.2, k)))

/-- One more flip of an element: of two, the parity is right again. -/
def toggle (l : Nat) (ls : List Nat) : List Nat := if ls.contains l then ls.filter (fun k => decide (k ≠ l)) else l :: ls

/-- Column with VAL bit b of lane l of its stage k flipped from row lo on. -/
def Col.flip (c : Col) (k l lo b : Nat) : Col :=
  { c with flips := enq c.flips (k, l, lo, 2 ^ (b % 8)), bads := c.bads.set k (toggle l (c.bads.getD k [])), ino := true }

/-- The three points that strike a stored value at once: a live grist entry, an element in the array, the tally entry of a lane. None while
there is none; the other points' events are those of other commands (15 R660; DEDUCED, log entry 42). -/
def State.inocStrike (s : State) (d : Nat) (x : Inoc) : Option State :=
  let v := s.vat d x.inst
  if 16 ≤ x.inst then none
  else if x.point = 0x11 then
    v.liveBank.map (fun q => (s.putVat d x.inst (v.setStruck q true)).flipGrist d x.inst q x.pos x.sub x.bit)
  else if x.point = 0x12 then
    (v.nextElem x.pos).map (fun t =>
      s.putVat d x.inst (v.setCol t.1 t.2.1 ((((v.passes.getD t.1 {}).cols).getD t.2.1 {}).flip t.2.2 x.sub x.pos x.bit)))
  else if x.point = 0x13 then
    let q := v.liveBank.getD 0
    some (s.putVat d x.inst { v.setStruck q true with
      tallyEnt := flipTally x.bit (flipTally x.bit v.tallyEnt (tallyKey x.sub q 0 0)) (tallyKey x.sub q 0 1) })
  else none

/-- INOC_FIRE: the event of an armed point that strikes a stored value at once. -/
def State.inocFire (s : State) (d : Nat) : State :=
  match s.inocStrike d (s.inoc d) with
  | none => s
  | some t => t.inocClear d

def execInocFire (d : Nat) (s : State) : Host.Outcome State Fault Refusal :=
  if s.hasDie d then .next (s.inocFire d) else .fault .absentUnit

/-! ## Patrol scrub (15 R636) -/

/-- Codeword cw of the memories a die's scrub engine patrols: granary, floors, then the die's stack. -/
def scrubPlace (d cw : Nat) : Option (Region × Nat) :=
  let a := cw * 32
  if a < 2 ^ 30 then some (.granary d, a)
  else if a < 2 ^ 30 + 2 ^ 26 then some (.floor d ((a - 2 ^ 30) / 2 ^ 22), (a - 2 ^ 30) % 2 ^ 22)
  else if a < 2 ^ 30 + 2 ^ 26 + stackBytes then some (.cellar d, a - 2 ^ 30 - 2 ^ 26)
  else none

/-- PATROL_SCRUB: one codeword is read and decoded. -/
def execPatrolScrub (d cw : Nat) (s : State) : Host.Outcome State Fault Refusal :=
  if ! s.hasDie d then .fault .absentUnit else
  match scrubPlace d cw with
  | none => .fault .absentUnit
  | some (r, o) => .next (s.decodeCw r o)

end Sys2Proof.Machine
end

