-- ==== Sys2Proof/Machine/Kettle.lean ====
section
/-!
DEFINITION. Sys2Proof/Machine/Kettle.lean: the kettle cores: the fields, checks and interlock of their groups, what each opcode
computes, and the completion of groups (12_kettle_and_optimizer.md).
-/
namespace Sys2Proof.Machine

/-! ## Registers of a core (12 R504, R508) -/

def z32 (_ : Nat) : Word32 := 0
def z64 (_ : Nat) : Word64 := 0
def zB (_ : Nat) : Bool := false

/-- A lane with its poison. -/
def KCore.lane (x : KCore) (r i : Nat) : Nat × Bool := ((mget z32 x.z (r * 64 + i)).toNat, mget zB x.zp (r * 64 + i))
/-- The 64 lanes of a register. -/
def KCore.reg (x : KCore) (r : Nat) : List (Nat × Bool) := (List.range 64).map (x.lane r)
/-- A scalar register with its poison. -/
def KCore.sc (x : KCore) (r : Nat) : Nat × Bool := ((mget z64 x.j r).toNat, mget zB x.jp r)

def KCore.putZ (x : KCore) : List (Nat × Word32 × Bool) → KCore
  | [] => x
  | (k, v, p) :: l => KCore.putZ { x with z := mset z32 x.z k v, zp := mset zB x.zp k p } l

def KCore.putJ (x : KCore) : List (Nat × Word64 × Bool) → KCore
  | [] => x
  | (k, v, p) :: l => KCore.putJ { x with j := mset z64 x.j k v, jp := mset zB x.jp k p } l

/-- Writes of the lanes of register r. -/
def zWrite (r : Nat) (l : List (Nat × Bool)) : List (Nat × Word32 × Bool) :=
  l.zipIdx.map (fun (t : (Nat × Bool) × Nat) => (r * 64 + t.2, BitVec.ofNat 32 t.1.1, t.1.2))

/-! ## Issue (12 R509–R512, R522) -/

/-- The context stops at a group that consumes poison (12 R508). -/
def State.ketPoison (s : State) (d c addr : Nat) : State :=
  let x := s.ctx d c
  let opc := match x.ibuf with
    | [] => 0
    | w :: _ => wbits w 0 8
  (s.ctxTo d c { x with state := cSTOPPED, fopc := opc, heldus := 0 }).consumed d x.tag x.part (ctxIsland c) addr

/-- What a kettle group meets at issue: nothing while the core cannot take it; the rejection of the first failing check; poison used
as an address, before the checks `late` that use the address; other poison used at issue (12 R508); or its body. -/
def ketRow (opc d c : Nat) (s : State) (addr : KCore → InstrWord → Bool) (late : KCore → InstrWord → List (Bool × Nat))
    (psn : KCore → InstrWord → Bool) (body : KCore → InstrWord → State) : Host.Outcome State Fault Refusal :=
  issue (· = 1) (· = opc) 0 d c s (fun w =>
    let x := s.kcore d (ctxInst c)
    let f := kForm w
    if s.coreBusy d c ∨ x.hazard f ∨ (f.xfer ∧ x.pend ≠ []) then s else
    match firstFail ([(wordRsvd w f.used, 1), (f.mode, 4), (f.count, 7)]) with
    | some k => s.reject d c k 0
    | none => if addr x w then s.ketPoison d c 0 else match firstFail (late x w) with
      | some k => s.reject d c k 0
      | none => if psn x w then s.ketPoison d c 0 else body x w)

def noLate (_ : KCore) (_ : InstrWord) : List (Bool × Nat) := []
def noPsn (_ : KCore) (_ : InstrWord) : Bool := false

/-- A lane whose check mismatches: count, report, and withdraw the core at the second within 1 s (15 R648). -/
def State.checkMiss (s : State) (d c lane : Nat) : State :=
  let k := ctxInst c
  let n := s.rf d (oKetCstat k) ketCstatChkmm
  let s := s.wf d (oKetCstat k) ketCstatChkmm (if n < 65535 then n + 1 else n)
  let t := s.ctx d c
  let now := s.now
  let s := { s.tick with time := now }
  let s := s.report { die := d, tag := t.tag, part := t.part, cls := 9, island := 18 + k, sub := lane, inoc := true }
  let x := s.kcore d k
  let last := mget n0 x.chk lane
  let s := s.putKcore d k { x with chk := mset n0 x.chk lane (now + 1) }
  if last = 0 ∨ 1000000 < now + 1 - last then s else
  let s := s.putKcore d k { s.kcore d k with out := true }
  let c : Change := { kind := 4, port := d, grp := k }
  let gs := s.plan
  let s := (List.range 8).foldl (fun s p =>
    if leaving gs c p = [] then s else s.pmrExtend p ((leaving gs c p).flatMap grantBytes)) s
  let s := { s with changes := enq s.changes c }
  s.raise 0 0x8003 0xFF s.errIndex

/-- The results of a compute group pass the check lanes, 16j + s of the group's number s mod 16; an inoculation of point 0x20 strikes
its lane first (12 R507, 15 R660). -/
def State.checkLanes (s : State) (d c : Nat) (zw : List (Nat × Word32 × Bool)) : State × List (Nat × Word32 × Bool) :=
  let k := ctxInst c
  let i := s.inoc d
  if i.point ≠ 0x20 ∨ i.inst ≠ k ∨ zw = [] then (s, zw) else
  let zw := zw.map (fun (t : Nat × Word32 × Bool) => if t.1 % 64 = i.sub then (t.1, t.2.1 ^^^ BitVec.ofNat 32 (2 ^ (i.bit % 32)), t.2.2) else t)
  let miss := decide (i.sub % 16 = (s.kcore d k).groups % 16)
  let s := s.inocClear d
  (if miss then s.checkMiss d c i.sub else s, zw)

/-- Latency of a compute group in kettle cycles (12 R513). A transfer has the core to itself, so its hold orders nothing (R512). -/
def ketLatency (w : InstrWord) : Nat :=
  let o := wbits w 0 8
  if o = 0x87 ∨ o = 0x88 then 12
  else if 0x90 ≤ o ∧ o ≤ 0x93 then 6
  else if 0xA0 ≤ o then 1
  else 4

/-- A group is accepted in the core's next cycle and its writes pend for its latency (12 R512; DEDUCED, log entry 43). -/
def State.ketPend (s : State) (d c : Nat) (p : KPend) : State :=
  let x := s.kcore d (ctxInst c)
  let t := s.ctx d c
  let q : KPend := { p with c := c, tag := t.tag, part := t.part, id := s.rackSeq, due := x.cycle + 1 + ketLatency p.word }
  let s := s.putKcore d (ctxInst c) { x with cycle := x.cycle + 1, pend := enq x.pend q, last := c % 1024 + 1 }
  { s with rackSeq := s.rackSeq + 1 }.accept d c 1 true

/-- A compute group is accepted: results checked, writes pending. -/
def State.ketCompute (s : State) (d c : Nat) (w : InstrWord) (zw : List (Nat × Word32 × Bool)) (jw : List (Nat × Word64 × Bool)) : State :=
  let t := s.checkLanes d c zw
  (t.1.ketGroup d c).ketPend d c { word := w, zw := t.2, jw := jw }

/-- Counts of a group go to its set when HEN = 1. -/
def State.ketCount (s : State) (d c : Nat) (hen : Bool) (set : Nat) (n : Cnt) : State :=
  if hen then s.count d (s.ctx d c).part set n else s

/-! ## Lane arithmetic (12 R519, R523) -/

/-- D := f(A, B), poison of either. -/
def lanes2 (f : Nat → Nat → Nat) (x : KCore) (w : InstrWord) : List (Nat × Word32 × Bool) :=
  zWrite (kD w) (((x.reg (kA w)).zip (x.reg (kB w))).map (fun (t : (Nat × Bool) × (Nat × Bool)) => (f t.1.1 t.2.1, t.1.2 || t.2.2)))

/-- D := f(A, B, C). -/
def lanes3 (f : Nat → Nat → Nat → Nat) (x : KCore) (w : InstrWord) : List (Nat × Word32 × Bool) :=
  zWrite (kD w) ((((x.reg (kA w)).zip (x.reg (kB w))).zip (x.reg (kC w))).map
    (fun (t : ((Nat × Bool) × (Nat × Bool)) × (Nat × Bool)) => (f t.1.1.1 t.1.2.1 t.2.1, t.1.1.2 || t.1.2.2 || t.2.2)))

/-- A row whose group is a lane operation without further checks. -/
def laneRow (opc d c : Nat) (s : State) (f : KCore → InstrWord → List (Nat × Word32 × Bool)) : Host.Outcome State Fault Refusal :=
  ketRow opc d c s noPsn noLate noPsn (fun x w => s.ketCompute d c w (f x w) [])

def execFadd (d c : Nat) (s : State) : Host.Outcome State Fault Refusal := laneRow 0x80 d c s (lanes2 fAdd)
def execFmul (d c : Nat) (s : State) : Host.Outcome State Fault Refusal := laneRow 0x81 d c s (lanes2 fMul)
def execFfma (d c : Nat) (s : State) : Host.Outcome State Fault Refusal := laneRow 0x82 d c s (lanes3 fFma)
def execFmax (d c : Nat) (s : State) : Host.Outcome State Fault Refusal := laneRow 0x83 d c s (lanes2 fMax)
def execFmin (d c : Nat) (s : State) : Host.Outcome State Fault Refusal := laneRow 0x84 d c s (lanes2 fMin)
def execFsel (d c : Nat) (s : State) : Host.Outcome State Fault Refusal :=
  laneRow 0x85 d c s (lanes3 (fun a b k => if k % 2 = 1 then a else b))
def execFcmp (d c : Nat) (s : State) : Host.Outcome State Fault Refusal :=
  laneRow 0x86 d c s (fun x w => lanes2 (fun a b => if fCmp (wbits w 64 2) a b then 1 else 0) x w)
def execFspec (d c : Nat) (s : State) : Host.Outcome State Fault Refusal :=
  laneRow 0x87 d c s (fun x w => zWrite (kD w) ((x.reg (kA w)).map (fun t => (fSpec (wbits w 64 3) t.1, t.2))))

/-- FRED: the tree of six levels; poison of any lane reaches every lane. -/
def fred (x : KCore) (w : InstrWord) : List (Nat × Word32 × Bool) :=
  let l := x.reg (kA w)
  let v := (tree (if wbit w 64 then fMax else fAdd) 6 (l.map (fun t => t.1))).headD 0
  zWrite (kD w) (List.replicate 64 (v, l.any (fun t => t.2)))

def execFred (d c : Nat) (s : State) : Host.Outcome State Fault Refusal := laneRow 0x88 d c s fred
def execIadd (d c : Nat) (s : State) : Host.Outcome State Fault Refusal := laneRow 0x89 d c s (lanes2 iAdd)
def execIsub (d c : Nat) (s : State) : Host.Outcome State Fault Refusal := laneRow 0x8A d c s (lanes2 iSub)
def execImul (d c : Nat) (s : State) : Host.Outcome State Fault Refusal := laneRow 0x8B d c s (lanes2 iMul)
def execIlog (d c : Nat) (s : State) : Host.Outcome State Fault Refusal :=
  laneRow 0x8C d c s (fun x w => lanes2 (iLog (wbits w 64 3)) x w)

/-- MOV. -/
def execMov (d c : Nat) (s : State) : Host.Outcome State Fault Refusal :=
  ketRow 0x8D d c s noPsn noLate noPsn (fun x w =>
    if wbit w 74 then
      let t := x.lane (kA w) 0
      s.ketCompute d c w [] [(kJ w 64, BitVec.ofNat 64 (tc 64 (sx 32 t.1)), t.2)]
    else
      let t := x.sc (kJ w 64)
      s.ketCompute d c w (zWrite (kD w) (List.replicate 64 (t.1 % 2 ^ 32, t.2))) [])

/-! ## Conversions, dropout, random numbers, master update (12 R524, R526, R527) -/

/-- The 32 random bits of an element (05 R217, R218). -/
def State.ketRand (s : State) (d c purp tid elem : Nat) : Nat :=
  let tag := (s.ctx d c).tag
  barm (s.rf d (oBarmKey tag) barmKeyKey) (barmCtr tid elem purp (s.rf d (oBarmStep tag) barmStepStep))

/-- CVT. -/
def State.cvt (s : State) (d c : Nat) (x : KCore) (w : InstrWord) : State :=
  let e := x.sc (kJ w 70)
  let j := x.sc (kJ w 112)
  let sr := wbit w 80
  let z := e.2 || (sr && j.2)
  let xs := (x.reg (kA w)).map (fun (t : Nat × Bool) => (t.1, t.2 || z))
  let rs := (List.range 64).map (fun i => if sr then Rnd.sr (s.ketRand d c 2 (wbits w 88 24) (j.1 + i)) else Rnd.rne)
  let t := cvtLanes (wbits w 64 3) (wbits w 67 3) xs (sx 8 e.1) rs
  (s.ketCount d c (wbit w 87) (wbits w 81 6) t.2).ketCompute d c w (zWrite (kD w) (t.1.zip (xs.map (fun t => t.2)))) []

def execCvt (d c : Nat) (s : State) : Host.Outcome State Fault Refusal := ketRow 0x90 d c s noPsn noLate noPsn (fun x w => s.cvt d c x w)

/-- DROP. -/
def State.drop (s : State) (d c : Nat) (x : KCore) (w : InstrWord) : State :=
  let t := x.sc (kJ w 64)
  let j := x.sc (kJ w 98)
  let z := t.2 || j.2
  let out := (x.reg (kA w)).zipIdx.map (fun (a : (Nat × Bool) × Nat) =>
    let u := s.ketRand d c 3 (wbits w 74 24) (j.1 + a.2 * wbits w 108 16)
    (if bits t.1 0 32 ≤ u then fMul a.1.1 (bits t.1 32 32) else 0, a.1.2 || z))
  s.ketCompute d c w (zWrite (kD w) out) []

def execDrop (d c : Nat) (s : State) : Host.Outcome State Fault Refusal := ketRow 0x91 d c s noPsn noLate noPsn (fun x w => s.drop d c x w)

/-- RAND. -/
def State.rand (s : State) (d c : Nat) (x : KCore) (w : InstrWord) : State :=
  let j := x.sc (kJ w 96)
  s.ketCompute d c w (zWrite (kD w) ((List.range 64).map (fun i =>
    (s.ketRand d c (wbits w 64 8) (wbits w 72 24) (j.1 + i * wbits w 106 16), j.2)))) []

def execRand (d c : Nat) (s : State) : Host.Outcome State Fault Refusal := ketRow 0x92 d c s noPsn noLate noPsn (fun x w => s.rand d c x w)

/-- MUPD. -/
def State.mupd (s : State) (d c : Nat) (x : KCore) (w : InstrWord) : State :=
  let j := x.sc (kJ w 104)
  let sr := wbit w 72
  let out := ((x.reg (kD w)).zip (x.reg (kA w))).zipIdx.map (fun (t : ((Nat × Bool) × (Nat × Bool)) × Nat) =>
    let r := if sr then Rnd.sr (s.ketRand d c 5 (wbits w 80 24) (j.1 + t.2)) else Rnd.rne
    (masterUpdate (t.1.1.1 % 65536) (sx 16 (t.1.1.1 / 65536)) t.1.2.1 (wbits w 64 8) r, t.1.1.2 || t.1.2.2 || (sr && j.2)))
  let n := sumCnt (out.map (fun (t : (Nat × Int × Cnt) × Bool) => (t.1.2.2, t.2)))
  let pair := out.map (fun (t : (Nat × Int × Cnt) × Bool) => (t.1.1 + 65536 * tc 16 t.1.2.1, t.2))
  let real := out.map (fun (t : (Nat × Int × Cnt) × Bool) => (pairReal t.1.1 t.1.2.1 (wbits w 64 8), t.2))
  (s.ketCount d c (wbit w 79) (wbits w 73 6) n).ketCompute d c w (zWrite (kD w) pair ++ zWrite (kC w) real) []

def execMupd (d c : Nat) (s : State) : Host.Outcome State Fault Refusal := ketRow 0x93 d c s noPsn noLate noPsn (fun x w => s.mupd d c x w)

/-! ## Scalars and branches -/

/-- SALU. -/
def execSalu (d c : Nat) (s : State) : Host.Outcome State Fault Refusal :=
  ketRow 0xA0 d c s noPsn noLate noPsn (fun x w =>
    let a := x.sc (kJ w 78)
    let b : Nat × Bool := if wbit w 98 then (tc 64 (sx 29 (wbits w 99 29)), false) else x.sc (kJ w 88)
    s.ketCompute d c w [] [(kJ w 68, BitVec.ofNat 64 (salu (wbits w 64 4) a.1 b.1), a.2 || b.2)])

/-- SLI. -/
def execSli (d c : Nat) (s : State) : Host.Outcome State Fault Refusal :=
  ketRow 0xA1 d c s noPsn noLate noPsn (fun _ w => s.ketCompute d c w [] [(kJ w 20, BitVec.ofNat 64 (wbits w 64 64), false)])

/-- A taken branch: the next instruction is at TGT, and fetch starts again from there (10 R407; PC[3:0] is zero). -/
def State.jump (s : State) (d c : Nat) (w : InstrWord) : State :=
  s.putCtx d c { s.ctx d c with pc := wbits w 76 32 / 16 * 16, ibuf := [] }

/-- BR. -/
def execBr (d c : Nat) (s : State) : Host.Outcome State Fault Refusal :=
  ketRow 0xA2 d c s noPsn noLate (fun x w => (x.sc (kJ w 64)).2) (fun x w =>
    let v := (x.sc (kJ w 64)).1
    let k := wbits w 74 2
    let taken := if k = 0 then decide (v = 0) else if k = 1 then decide (v ≠ 0) else if k = 2 then bit v 63 else ! bit v 63
    let s := s.ketCompute d c w [] []
    if taken then s.jump d c w else s)

/-- LOOP. -/
def execLoop (d c : Nat) (s : State) : Host.Outcome State Fault Refusal :=
  ketRow 0xA3 d c s noPsn noLate (fun x w => (x.sc (kJ w 64)).2) (fun x w =>
    let v := (x.sc (kJ w 64)).1
    if v = 0 then s.ketCompute d c w [] [] else
    let s := s.ketCompute d c w [] [(kJ w 64, BitVec.ofNat 64 (v - 1), false)]
    if v = 1 then s else s.jump d c w)

/-! ## Transfers: addresses at issue (12 R514, R521, R522) -/

/-- A reach of n bytes of the core's own floors: the code that rejects it. -/
def State.floorFail (s : State) (d part a n : Nat) : Option Nat :=
  match s.decodeAddr d none a with
  | .err k => some k
  | .mem (.floor e v) o =>
    if e ≠ d ∨ 2 ^ 22 < o + n then some 6 else if s.memWindow d part (.floor e v) o n then none else some 9
  | _ => some 6

/-- The same as a list of checks. -/
def codeCheck (k : Option Nat) : List (Bool × Nat) := match k with
  | some k => [(true, k)]
  | none => []

/-- Effective address J[JA] + OFF. -/
def kAddr (x : KCore) (w : InstrWord) : Nat := ((x.sc (kJ w 64)).1 + kOFF w) % 2 ^ 64

/-- The poison of the address register. -/
def addrPsn (x : KCore) (w : InstrWord) : Bool := (x.sc (kJ w 64)).2

/-- Checks of an LD or ST of n bytes. -/
def State.ldChecks (s : State) (d c n : Nat) (x : KCore) (w : InstrWord) : List (Bool × Nat) :=
  let a := kAddr x w
  (decide (a % memAlign (kMFMT w) ≠ 0), 8) :: codeCheck (s.floorFail d (s.ctx d c).part a n)

def State.loadChecks (s : State) (d c : Nat) (x : KCore) (w : InstrWord) : List (Bool × Nat) :=
  s.ldChecks d c (memBytes (kMFMT w) (kLanes w)) x w

def State.storeChecks (s : State) (d c : Nat) (x : KCore) (w : InstrWord) : List (Bool × Nat) :=
  s.ldChecks d c (storeBytes (kMFMT w) (kLanes w)) x w

/-- A transfer is accepted: its address and scalar operands are read. -/
def State.ketXfer (s : State) (d c : Nat) (w : InstrWord) (addr : Nat) (args : List Nat) : State :=
  s.ketPend d c { word := w, xfer := true, addr := addr, args := args }

/-- The scale operand: J[JS][7:0] and its poison, as numbers. -/
def scaleArgs (x : KCore) (js : Nat) : List Nat := [(x.sc js).1 % 256, if (x.sc js).2 then 1 else 0]

def execLd (d c : Nat) (s : State) : Host.Outcome State Fault Refusal :=
  ketRow 0x98 d c s addrPsn (s.loadChecks d c) noPsn (fun x w => s.ketXfer d c w (kAddr x w) (scaleArgs x (kJ w 107)))

def execSt (d c : Nat) (s : State) : Host.Outcome State Fault Refusal :=
  ketRow 0x99 d c s addrPsn (s.storeChecks d c) noPsn (fun x w => s.ketXfer d c w (kAddr x w) (scaleArgs x (kJ w 107)))

/-- The kettle core as a requester of registers. -/
def ketReq (d c : Nat) : Requester := .kettle d (ctxInst c)

/-- Checks of an LDC or STC: alignment, space, window and fields. -/
def State.ldcChecks (s : State) (d c : Nat) (write : Bool) (x : KCore) (w : InstrWord) : List (Bool × Nat) :=
  let a := kAddr x w
  let n := kSZ w
  let part := (s.ctx d c).part
  let v := (x.sc (kJ w 91)).1 % 2 ^ (8 * n)
  (decide (a % n ≠ 0), 8) :: (match s.decodeAddr d none a with
    | .err k => [(true, k)]
    | .mem (.floor _ _) _ => codeCheck (s.floorFail d part a n)
    | .mem (.ctx e) o => [(decide (e ≠ d) || ctxReserved e o n, 6), (! s.ctxWindow d part o n, 9)]
    | .reg e o => match regAt e o n with
      | none => [(true, 6)]
      | some (r, i, j, k) =>
        [(decide (e ≠ d), 6), (! s.regWindow (ketReq d c) part d r i write, 9), (write && ! (x.sc (kJ w 91)).2 && s.regClosed (ketReq d c) d r i j k v, 9)]
    | _ => [(true, 6)])

def execLdc (d c : Nat) (s : State) : Host.Outcome State Fault Refusal :=
  ketRow 0x9A d c s addrPsn (s.ldcChecks d c false) noPsn (fun x w => s.ketXfer d c w (kAddr x w) [])

/-- An address of a control register. -/
def State.isReg (s : State) (d a : Nat) : Bool := match s.decodeAddr d none a with
  | .reg _ _ => true
  | _ => false

def execStc (d c : Nat) (s : State) : Host.Outcome State Fault Refusal :=
  ketRow 0x9B d c s addrPsn (s.ldcChecks d c true) (fun x w => s.isReg d (kAddr x w) && (x.sc (kJ w 91)).2) (fun x w =>
    let t := x.sc (kJ w 91)
    s.ketXfer d c w (kAddr x w) [t.1 % 2 ^ (8 * kSZ w), if t.2 then 1 else 0])

/-- Lane i of a list of lanes. -/
def laneAt (l : List (Nat × Bool)) (i : Nat) : Nat × Bool := l.getD i (0, false)

/-- A group of the keep mask of PACK24 keeps more than two positions. -/
def packBad (x : KCore) (w : InstrWord) : Bool :=
  (x.reg (kB w)).any (fun t => groupBad (t.1 % 16) || (kMFMT w = 0 && groupBad (t.1 / 16 % 16)))

/-- Bytes PACK24 writes. -/
def packSize (w : InstrWord) : Nat := if wbit w 104 then 256 else 192

def State.packChecks (s : State) (d c : Nat) (x : KCore) (w : InstrWord) : List (Bool × Nat) :=
  let a := kAddr x w
  let k := s.floorFail d (s.ctx d c).part a (packSize w)
  [(decide (a % 64 ≠ 0), 8), (decide (k ≠ none) && decide (k ≠ some 9), k.getD 0), (packBad x w, 0x30), (k = some 9, 9)]

def execPack24 (d c : Nat) (s : State) : Host.Outcome State Fault Refusal :=
  ketRow 0x9D d c s addrPsn (s.packChecks d c) noPsn (fun x w => s.ketXfer d c w (kAddr x w) (scaleArgs x (kJ w 94)))

/-- Address of the scores of token t. -/
def topAddr (x : KCore) (w : InstrWord) (t : Nat) : Nat := ((x.sc (kJ w 64)).1 + 16 * wbits w 74 14 * t) % 2 ^ 64

/-- The first failing reach of a list, those of PROT last. -/
def worstFail (l : List (Option Nat)) : Option Nat :=
  match (l.filterMap id).filter (fun k => decide (k ≠ 9)) with
  | k :: _ => some k
  | [] => if l.any (fun k => k = some 9) then some 9 else none

def State.topChecks (s : State) (d c : Nat) (x : KCore) (w : InstrWord) : List (Bool × Nat) :=
  codeCheck (worstFail ((List.range (kTopN w)).map (fun t => s.floorFail d (s.ctx d c).part (topAddr x w t) (4 * kTopE w))))

def execTopk (d c : Nat) (s : State) : Host.Outcome State Fault Refusal :=
  ketRow 0x9E d c s (fun x w => decide (0 < kTopN w) && addrPsn x w) (s.topChecks d c) noPsn (fun x w => s.ketXfer d c w (topAddr x w 0) [])

/-- Offset of a row of a partition's scale table (08 R323). -/
def scOff (p row : Nat) : Nat := 0x240000 + p * 0x22000 + row * 0x88

/-- Checks of SCUPD: space, then the row's class, then the window. -/
def State.scChecks (s : State) (d c : Nat) (x : KCore) (w : InstrWord) : List (Bool × Nat) :=
  let p := (s.ctx d c).part
  let k := s.floorFail d p (x.sc (kJ w 64)).1 64
  [(decide (k ≠ none) && decide (k ≠ some 9), k.getD 0), (bits (s.peekN (.ctx d) (scOff p (kROW w)) 8) 26 2 = 3, 0x31), (k = some 9, 9)]

def execScupd (d c : Nat) (s : State) : Host.Outcome State Fault Refusal :=
  ketRow 0x9F d c s addrPsn (s.scChecks d c) (fun x w => (x.sc (kJ w 84)).2) (fun x w =>
    s.ketXfer d c w (x.sc (kJ w 64)).1 [(x.sc (kJ w 84)).1 % 2, s.rf d (oKscCtrl (s.ctx d c).part) kscCtrlCal])

/-! ## KPUSH (12 R520, R530; 09 R352) -/

/-- The racking word after the addition. -/
def pushWord (x : KCore) (w v : InstrWord) : InstrWord :=
  if ! wbit w 87 then v else
  let lo := wbits w 74 7
  let n := wbits w 81 6 + 1
  let f := wbits v lo n
  BitVec.ofNat 128 (v.toNat - f * 2 ^ lo + (f + (x.sc (kJ w 64)).1) % 2 ^ n * 2 ^ lo)

/-- The racking word is rejected: recorded in RK_FAULT with KET = 1 (12 R522, 09 R393; DEDUCED, log entry 46). -/
def State.rejectPush (s : State) (d c code : Nat) (v : InstrWord) : State :=
  let x := s.ctx d c
  let free := s.faultFree d (oRkFault x.part) rkFaultValid
  let s := s.rkFault d x.part code c (queueOf v) (wbits v 0 8) x.tag 0 true
  let s := (s.ctxTo d c { x with state := cSTOPPED, fcode := code, fopc := 0x9C, heldus := 0 }).report
    { die := d, tag := x.tag, part := x.part, cls := 0x12, detail := code, island := 22, sub := queueOf v, unit := free }
  if code = 9 then s.bondReport { die := d, tag := x.tag, part := x.part, cls := 0x12, detail := code, island := 22 } else s

/-- KPUSH with the racking word after it. -/
def State.kpush (s : State) (d c : Nat) (x : KCore) (w : InstrWord) : State :=
  match (s.ctx d c).ibuf with
  | _ :: v0 :: _ =>
    let v := pushWord x w v0
    let o := wbits v 0 8
    if o < 0x50 ∨ 0x55 < o then s.rejectPush d c 2 v else
    let t := s.rackOffer d c v
    if t.1 = oOK then
      let y := t.2.ctx d c
      (t.2.done d y.part (wbits w 8 12) y.tag).accept d c 2 true
    else if t.1 = oFULL then t.2.rejectPush d c 0x14 v
    else if t.1 = oPOISON then t.2.ctxTo d c { t.2.ctx d c with state := cSTOPPED, fcode := 0, fopc := 0x9C }
    else t.2.rejectPush d c t.1 v
  | _ => s

/-- A KPUSH is presented once the word after it is fetched. -/
def execKpush (d c : Nat) (s : State) : Host.Outcome State Fault Refusal :=
  if (s.ctx d c).ibuf.length < 2 then (if s.hasCtx d c then .next s else .fault .absentUnit) else
  ketRow 0x9C d c s noPsn noLate (fun x w => wbit w 87 && (x.sc (kJ w 64)).2) (fun x w => s.kpush d c x w)

/-! ## Completion of transfers (12 R514) -/

/-- The completion of a group: its outcome is the registers to write, or the address of a sack whose poison it consumes. -/
structure KDone where
  zw : List (Nat × Word32 × Bool) := []
  jw : List (Nat × Word64 × Bool) := []
  psn : Option Nat := none

/-- LD: the lanes, with zeros from NL upwards in the last register. -/
def State.kLd (s : State) (d : Nat) (p : KPend) : KDone × State :=
  let w := p.word
  let f := kMFMT w
  let n := kLanes w
  if n = 0 then ({}, s) else
  let t := s.readZ (s.rawRuns d p.addr (memBytes f n))
  let bs := t.1.map (fun b => b.toNat)
  let e := sx 8 (p.args.getD 0 0)
  let z := memConverts f && decide (p.args.getD 1 0 = 1)
  let ls := (List.range n).map (fun i =>
    let js := laneBytes f i
    (loadLane f i (js.map (fun j => bs.getD j 0)) e, z || js.any (fun j => t.2.1.getD j false)))
  let lanes := (List.range (64 * kNR w)).map (fun i =>
    let l : (Nat × Cnt) × Bool := ls.getD i ((0, {}), false)
    (kD w * 64 + i, BitVec.ofNat 32 l.1.1, l.2))
  let s := if memConverts f ∧ wbit w 123 then
      t.2.2.count d p.part (wbits w 117 6) (sumCnt (ls.map (fun l => (l.1.2, l.2)))) else t.2.2
  ({ zw := lanes }, s)

/-- Lanes whose values byte j of a store holds. -/
def byteLanes (f j : Nat) : List Nat :=
  if f = 0 then [2 * j, 2 * j + 1]
  else if f = 1 ∨ f = 3 then [j]
  else if f = 4 ∨ f = 6 then [j / 2]
  else if f = 5 then (if j % 33 = 0 then [32 * (j / 33)] else [32 * (j / 33) + j % 33 - 1])
  else if f = 8 then [j / 256 * 128 + j % 128]
  else if f = 9 then [j / 384 * 128 + j % 128]
  else [j / 4]

/-- ST. -/
def State.kSt (s : State) (d k : Nat) (p : KPend) : KDone × State :=
  let w := p.word
  let f := kMFMT w
  let n := kLanes w
  let x := s.kcore d k
  let e := sx 8 (p.args.getD 0 0)
  let z := memConverts f && decide (p.args.getD 1 0 = 1)
  let src := (List.range n).map (fun i => x.lane (kA w + i / 64) (i % 64))
  let cs := src.map (fun (t : Nat × Bool) => (storeLane f t.1 e, t.2 || z))
  let codes := cs.map (fun t => t.1.1)
  let bs := (List.range (storeBytes f n)).map (fun j => BitVec.ofNat 8 (storeByte f codes j))
  let zs := (List.range (storeBytes f n)).map (fun j => (byteLanes f j).any (fun i => ((cs.getD i ((0, {}), false)).2)))
  let s := s.writeZ (s.rawRuns d p.addr (storeBytes f n)) bs zs
  ({}, if memConverts f ∧ wbit w 123 then s.count d p.part (wbits w 117 6) (sumCnt (cs.map (fun t => (t.1.2, t.2)))) else s)

/-- LDC. -/
def State.kLdc (s : State) (d k : Nat) (p : KPend) : KDone × State :=
  let n := kSZ p.word
  match s.decodeAddr d none p.addr with
  | .reg e o => match regAt e o n with
    | none => ({}, s)
    | some (r, i, j, q) =>
      let t := s.regRead (.kettle d k) e r i j q
      ({ jw := [(kJ p.word 91, BitVec.ofNat 64 t.1, false)] }, t.2)
  | _ =>
    let t := s.readZ (s.rawRuns d p.addr n)
    ({ jw := [(kJ p.word 91, BitVec.ofNat 64 (ofBytes t.1), t.2.1.any id)] }, t.2.2)

/-- STC. -/
def State.kStc (s : State) (d k : Nat) (p : KPend) : KDone × State :=
  let n := kSZ p.word
  let v := p.args.getD 0 0
  match s.decodeAddr d none p.addr with
  | .reg e o => match regAt e o n with
    | none => ({}, s)
    | some (r, i, j, q) => ({}, s.regDo (.kettle d k) e r i j q v)
  | _ => ({}, s.writeZ (s.rawRuns d p.addr n) (toBytes n v) (List.replicate n (decide (p.args.getD 1 0 = 1))))

/-- Code of a kept value in format 0, 1 or 3. -/
def packCode (f x : Nat) (e : Int) : Nat × Cnt := storeLane f x e

/-- One column of PACK24: for each group its two lanes and four masked positions as (code, counts, poison), and the index nibbles.
`base` is the first register, `sh` the place of the mask. -/
def packCol (x : KCore) (f base breg sh : Nat) (e : Int) (z : Bool) : List ((List (Nat × Cnt × Bool)) × (Nat × Nat) × List (Nat × Cnt × Bool)) :=
  (List.range 64).map (fun g =>
    let m := x.lane breg g
    let gl := groupLanes (m.1 / 2 ^ sh % 16)
    let val (q : Nat) : Nat × Cnt × Bool :=
      let v := x.lane (base + q) g
      let t := packCode f v.1 e
      (t.1, t.2, v.2 || m.2 || z)
    let none_ : Nat × Cnt × Bool := (0, {}, m.2)
    ([if gl.1.2 then val gl.1.1 else none_, if gl.2.2 then val gl.2.1 else none_], (gl.1.1, gl.2.1),
     (List.range 4).map (fun q => if (m.1 / 2 ^ sh).testBit q then val q else none_)))

/-- PACK24 (12 R528, 07 R263, R269). -/
def State.kPack (s : State) (d k : Nat) (p : KPend) : KDone × State :=
  let w := p.word
  let f := kMFMT w
  let x := s.kcore d k
  let e := sx 8 (p.args.getD 0 0)
  let z := decide (p.args.getD 1 0 = 1)
  let c0 := packCol x f (kA w) (kB w) 0 e z
  let c1 := if f = 0 then packCol x f (kA w + 4) (kB w) 4 e z else []
  let n0_ : Nat × Cnt × Bool := (0, {}, false)
  let lane0 := c0.flatMap (fun t => t.1)
  let lane1 := c1.flatMap (fun t => t.1)
  let bytes : List (Nat × Bool) :=
    if wbit w 104 then
      let d0 := c0.flatMap (fun t => t.2.2)
      let d1 := c1.flatMap (fun t => t.2.2)
      if f = 0 then
        (List.range 256).map (fun j =>
          let l := if j < 128 then d0 else d1
          let a := l.getD (2 * (j % 128)) n0_
          let b := l.getD (2 * (j % 128) + 1) n0_
          (a.1 % 16 + 16 * (b.1 % 16), a.2.2 || b.2.2))
      else d0.map (fun a => (a.1 % 256, a.2.2))
    else
      (List.range 128).map (fun i =>
        let a := lane0.getD i n0_
        let b := lane1.getD i n0_
        if f = 0 then (a.1 % 16 + 16 * (b.1 % 16), a.2.2 || b.2.2) else (a.1 % 256, a.2.2)) ++
      (List.range 64).map (fun g =>
        let i0 := ((c0.getD g ([], (0, 0), [])).2.1)
        let i1 := ((c1.getD g ([], (0, 0), [])).2.1)
        (i0.1 + 4 * i1.1 + 16 * (i0.2 + 4 * i1.2), (x.lane (kB w) g).2))
  let s := s.writeZ (s.rawRuns d p.addr (packSize w)) (bytes.map (fun t => BitVec.ofNat 8 t.1)) (bytes.map (fun t => t.2))
  let n := sumCnt ((lane0 ++ lane1).map (fun t => (t.2.1, t.2.2)))
  ({}, if wbit w 111 then s.count d p.part (wbits w 105 6) n else s)

/-- Scores of one token: the experts' codes, whether poison was met and where, the state. -/
def State.kScores (s : State) (d a e : Nat) : List (Nat × Nat) × Bool × State :=
  let t := s.readZ (s.rawRuns d a (4 * e))
  ((List.range e).map (fun i => (i, ofBytes ((t.1.drop (4 * i)).take 4))), t.2.1.any id, t.2.2)

/-- Tokens from t on. -/
def State.kTokens (s : State) (d : Nat) (x : KCore) (w : InstrWord) : Nat → Nat → List (List (Nat × Nat) × Nat) × Option Nat × State
  | 0, _ => ([], none, s)
  | n + 1, t =>
    let r := s.kScores d (topAddr x w t) (kTopE w)
    if r.2.1 then ([], some (topAddr x w t), r.2.2) else
    let u := State.kTokens r.2.2 d x w n (t + 1)
    ((topK (kTopK w) r.1, (r.1.filter (fun y => isNan32 y.2)).length) :: u.1, u.2.1, u.2.2)

/-- TOPK (12 R529). -/
def State.kTop (s : State) (d k : Nat) (p : KPend) : KDone × State :=
  let w := p.word
  let r := s.kTokens d (s.kcore d k) w (kTopN w) 0
  match r.2.1 with
  | some a => ({ psn := some a }, r.2.2)
  | none =>
    let col (g : Nat × Nat → Nat) (i : Nat) : List (Nat × Bool) := (List.range 64).map (fun t =>
      (g ((((r.1.getD t ([], 0)).1).getD i (0, 0))), false))
    let zw := (List.range (kTopK w)).flatMap (fun i => zWrite (kD w + i) (col (fun y => y.1) i)) ++
      (List.range (kTopK w)).flatMap (fun i => zWrite (kC w + i) (col (fun y => y.2) i))
    let s := r.2.2
    ({ zw := zw }, if wbit w 116 then s.count d p.part (wbits w 110 6) { nonf := sumBy (fun t => t.2) r.1 } else s)

/-- The new SX of a row (05 R199). `es` are the entries of the window, the newest first, as (max, sx). -/
def newSx (ctl : Nat) (es : List (Nat × Nat)) (nf skip cal : Bool) : Int :=
  let sxv := sx 8 (bits ctl 0 8)
  if bits ctl 26 2 = 2 then sxv else
  let ers := (es.filter (fun e => decide (e.1 ≠ 0x80000000))).map (fun e => sx 16 (e.1 / 65536) - sx 8 e.2)
  let cand : Int := match ers with
    | [] => sxv
    | e :: l => sx 8 (bits ctl 8 8) - l.foldl (fun a b => if a < b then b else a) e
  let low (a b : Int) : Int := if a < b then a else b
  let new : Int :=
    if cal then cand
    else if nf then low (sxv - ((bits ctl 20 3 : Nat) + 1)) cand
    else if skip then low sxv cand
    else low (sxv + (bits ctl 23 3 : Nat)) cand
  clampI (sx 8 (bits ctl 37 8)) (sx 8 (bits ctl 45 8)) new

/-- A history entry (05 R195). -/
def scEntry (m sxv : Nat) (skip nf cal : Bool) (step : Nat) : Nat :=
  m % 2 ^ 32 + sxv % 256 * 2 ^ 32 + (if skip then 2 ^ 40 else 0) + (if nf then 2 ^ 41 else 0) + (if cal then 2 ^ 42 else 0) + step % 65536 * 2 ^ 48

/-- SCUPD (12 R525, 05 R196, R199). CAL and the skip decision are those of the issue; the history entry takes BARM_STEP as it stands
when the access is made (DESIGN CHOICE, log entry 92). While NENT is below WIN + 1 the window is the NENT entries there are (DEDUCED, log
entry 121). -/
def State.kScupd (s : State) (d : Nat) (p : KPend) : KDone × State :=
  let w := p.word
  let o := scOff p.part (kROW w)
  let t := s.readZ (s.rawRuns d p.addr 64)
  let s := t.2.2.readCheck (.ctx d) o 136
  if t.2.1.any id then ({ psn := some p.addr }, s)
  else if s.poisoned (.ctx d) o 136 then ({ psn := some (gaddr (.ctx d) (o / 64 * 64)) }, s)
  else
    let word (i : Nat) : Nat := ofBytes ((t.1.drop (4 * i)).take 4)
    let lng (i : Nat) : Int := sx 64 (word (2 * i) + 2 ^ 32 * word (2 * i + 1))
    let nf := decide (lng 4 + 2 ^ 24 * lng 5 ≠ 0)
    let m := word 12
    let skip := decide (p.args.getD 0 0 = 1)
    let cal := decide (p.args.getD 1 0 = 1)
    let ctl := s.peekN (.ctx d) o 8
    let ptr := bits ctl 28 4
    let ne := if bits ctl 32 5 < 16 then bits ctl 32 5 + 1 else 16
    let step := s.rf d (oBarmStep p.tag) barmStepStep
    let s := s.write (.ctx d) (o + 8 + 8 * ptr) (toBytes 8 (scEntry m (bits ctl 0 8) skip nf cal step))
    let win := min (bits ctl 16 4 + 1) ne
    let es := (List.range win).map (fun i =>
      let e := s.peekN (.ctx d) (o + 8 + 8 * ((ptr + 16 - i) % 16)) 8
      (bits e 0 32, bits e 32 8))
    let sxn := newSx ctl es nf skip cal
    let ctl' := bits ctl 8 20 * 2 ^ 8 + bits ctl 37 27 * 2 ^ 37 + tc 8 sxn + (ptr + 1) % 16 * 2 ^ 28 + ne * 2 ^ 32
    ({ jw := [(kJ w 94, BitVec.ofNat 64 (tc 64 sxn), false)] }, s.write (.ctx d) o (toBytes 8 ctl'))

/-- The group of a list that is due first, the oldest of those due together, and the rest (12 R512, R513). -/
def dueFirst : List KPend → Option (KPend × List KPend)
  | [] => none
  | p :: ps => match dueFirst ps with
    | none => some (p, [])
    | some (q, qs) => if p.due ≤ q.due then some (p, ps) else some (q, p :: qs)

/-- What a group of a core does when it completes. -/
def State.ketDone (s : State) (d k : Nat) (p : KPend) : KDone × State :=
  match wbits p.word 0 8 with
  | 0x98 => s.kLd d p
  | 0x99 => s.kSt d k p
  | 0x9A => s.kLdc d k p
  | 0x9B => s.kStc d k p
  | 0x9D => s.kPack d k p
  | 0x9E => s.kTop d k p
  | 0x9F => s.kScupd d p
  | _ => ({ zw := p.zw, jw := p.jw }, s)

/-- A group that consumes poison when it completes: its context stops at it, nothing is written and no token posted. -/
def State.ketStop (s : State) (d : Nat) (p : KPend) (a : Nat) : State :=
  let x := s.ctx d p.c
  let s := s.consumed d p.tag p.part (ctxIsland p.c) a
  if x.state = cFREE ∨ x.tag ≠ p.tag then s
  else s.ctxTo d p.c { x with state := cSTOPPED, fopc := wbits p.word 0 8, heldus := 0 }

/-- KETTLE_GROUP_COMPLETE: the group of the core that is due first completes, and the core's cycle is at least the one it was due in
(12 R513; DEDUCED, log entry 43). -/
def State.ketComplete (s : State) (d k : Nat) : State :=
  match dueFirst (s.kcore d k).pend with
  | none => s
  | some (p, rest) =>
    let t := s.ketDone d k p
    let s := t.2
    let x : KCore := { s.kcore d k with pend := rest, cycle := max (s.kcore d k).cycle p.due }
    match t.1.psn with
    | some a => (s.putKcore d k x).ketStop d p a
    | none =>
      let s := s.putKcore d k ((x.putZ t.1.zw).putJ t.1.jw)
      (s.done d p.part (wbits p.word 8 12) p.tag).ctxRetire d p.c

def execKettleGroupComplete (d k : Nat) (s : State) : Host.Outcome State Fault Refusal :=
  if s.hasDie d && decide (k < 4) then .next (s.ketComplete d k) else .fault .absentUnit

end Sys2Proof.Machine
end

