-- ==== Sys2Proof/Machine/HostCore.lean ====
section
/-!
DEFINITION. Sys2Proof/Machine/HostCore.lean: command packets as firmware takes and checks them, the start of a command, status words
and the end of long commands (14_host_and_commands.md R588–R600, R617–R620).
-/
namespace Sys2Proof.Machine

/-! ## Packets (14 R594–R596, R602–R604, 16 R701) -/

/-- What R602, R603, R604 and R701 say of an opcode: inline bytes, extended block, long, whom PART names (0 module, 1 either, 2 a
partition), PF only, and the inline fields: first byte, bytes, bits used. -/
structure CmdInfo where
  len : Nat
  used : List (Nat × Nat × Nat)
  scope : Nat := 2
  ext : Bool := false
  long : Bool := false
  pf : Bool := false
  deriving DecidableEq, Repr

/-- n whole bytes from byte b of the packet. -/
def wholeB (b n : Nat) : Nat × Nat × Nat := (b, n, 2 ^ (8 * n) - 1)

/-- The opcodes; none is reserved. -/
def cmdInfo (o : Nat) : Option CmdInfo := match o with
  | 0x1 => some { len := 0, used := [], scope := 0 }
  | 0x2 => some { len := 0, used := [], scope := 1 }
  | 0x3 => some { len := 0, used := [], scope := 1 }
  | 0x4 => some { len := 2, used := [wholeB 16 2], scope := 0, pf := true }
  | 0x5 => some { len := 4, used := [wholeB 16 4], scope := 0 }
  | 0x6 => some { len := 24, used := [wholeB 16 24], scope := 1, long := true }
  | 0x10 => some { len := 21, used := [wholeB 16 1, wholeB 24 12, (36, 1, 3)] }
  | 0x11 => some { len := 1, used := [wholeB 16 1] }
  | 0x20 => some { len := 32, used := [wholeB 16 21, wholeB 40 8], long := true }
  | 0x21 => some { len := 4, used := [wholeB 16 4] }
  | 0x30 => some { len := 48, used := [wholeB 16 12], ext := true }
  | 0x31 => some { len := 1, used := [wholeB 16 1] }
  | 0x32 => some { len := 24, used := [wholeB 16 1, wholeB 24 16], long := true }
  | 0x33 => some { len := 24, used := [wholeB 16 1, wholeB 24 16], long := true }
  | 0x34 => some { len := 6, used := [wholeB 16 3, (19, 1, 1), wholeB 20 2] }
  | 0x35 => some { len := 3, used := [wholeB 16 3] }
  | 0x40 => some { len := 48, used := [wholeB 16 12, wholeB 32 8, (40, 1, 3)], scope := 0, ext := true, long := true, pf := true }
  | 0x41 => some { len := 2, used := [wholeB 16 1, (17, 1, 1)] }
  | 0x100 => some { len := 0, used := [], pf := true }
  | 0x101 => some { len := 48, used := [wholeB 16 12], ext := true, pf := true }
  | 0x102 => some { len := 48, used := [wholeB 16 12], ext := true, pf := true }
  | 0x103 => some { len := 0, used := [], pf := true }
  | 0x104 => some { len := 4, used := [wholeB 16 3, (19, 1, 1)], pf := true }
  | 0x105 => some { len := 1, used := [(16, 1, 1)], pf := true }
  | 0x106 => some { len := 24, used := [wholeB 24 16], long := true, pf := true }
  | _ => none

/-- k bytes from byte o (16 to 63) of a packet, as a number. -/
def Pkt.n (p : Pkt) (o k : Nat) : Nat := ofBytes ((p.params.drop (o - 16)).take k)
/-- The extended block. -/
def Pkt.block (p : Pkt) : List Byte := p.params.drop 48
def Pkt.xaddr (p : Pkt) : Nat := p.n 16 8
def Pkt.xlen (p : Pkt) : Nat := p.n 24 4

/-- OVERLAY in mode 3. -/
def Pkt.mode3 (p : Pkt) : Bool := p.opc = 0x41 && p.n 16 1 = 3

/-- The bits of the inline bytes that fields use. -/
def usedBits (fs : List (Nat × Nat × Nat)) : Nat := sumBy (fun t => t.2.2 * 2 ^ (8 * (t.1 - 16))) fs

/-- A reserved inline bit is set, or a field that its case reserves (14 R604, 00 R777). -/
def Pkt.inlineRsvd (p : Pkt) (i : CmdInfo) : Bool :=
  let v := p.n 16 i.len
  decide (Nat.land v (usedBits i.used) ≠ v) ||
  (p.opc = 5 && (! [2, 3, 4].contains (p.n 16 1) || (decide (p.n 16 1 ≠ 3) && decide (p.n 17 1 ≠ 0)))) ||
  (p.opc = 0x41 && decide (p.n 16 1 < 3) && decide (p.n 17 1 ≠ 0))

/-- n bits from bit lo of v are used; the rest of its w bits are reserved and set. -/
def bitsRsvd (v w : Nat) (used : List (Nat × Nat)) : Bool :=
  let m := sumBy (fun t => (2 ^ t.2 - 1) * 2 ^ t.1) used
  decide (Nat.land (v % 2 ^ w) m ≠ v % 2 ^ w)

/-- k bytes from byte o of a block, as a number. -/
def blk (b : List Byte) (o k : Nat) : Nat := ofBytes ((b.drop o).take k)

/-! ### The JOB_START block (14 R609, R610) -/

def jobMask (b : List Byte) : Nat := blk b 4 1
/-- Dies of the footprint, ascending. -/
def jobDies (b : List Byte) : List Nat := (List.range 8).filter (fun d => bit (jobMask b) d)
/-- Each die with its record. -/
def jobRecs (b : List Byte) : List (Nat × Nat) := (jobDies b).zipIdx.map (fun t => (t.1, blk b (256 + 64 * t.2) 64))
/-- Lists of a die record: count, offset, entry bytes. -/
def recEnts (r : Nat) : Nat × Nat × Nat := (bits r 96 16, bits r 160 32, 16)
def recGrts (r : Nat) : Nat × Nat × Nat := (bits r 112 16, bits r 192 32, 8)
def recRegs (r : Nat) : Nat × Nat × Nat := (bits r 128 16, bits r 224 32, 48)
/-- Entries of a list. -/
def listOf (b : List Byte) (l : Nat × Nat × Nat) : List Nat := (List.range l.1).map (fun k => blk b (l.2.1 + l.2.2 * k) l.2.2)
/-- A list lies in the block. -/
def listFits (b : List Byte) (l : Nat × Nat × Nat) : Bool := l.1 = 0 || (l.2.1 % 16 = 0 && decide (l.2.1 + l.1 * l.2.2 ≤ b.length))

/-- The block's Layout row fails: DETAIL of the reply. -/
def jobLayout (b : List Byte) : Option Nat :=
  if b.length < 256 + 64 * (jobDies b).length then some 0 else
  ((jobRecs b).find? (fun t => ! (listFits b (recEnts t.2) && listFits b (recGrts t.2) && listFits b (recRegs t.2)))).map (fun t => t.1)

/-- Bits of the fields of a register. -/
def fldBits (fs : List Fld) : List (Nat × Nat) := fs.map (fun f => (f.lo, f.w))

/-- A reserved field of the block is nonzero. -/
def jobRsvd (b : List Byte) : Bool :=
  bitsRsvd (blk b 0 64) 512 [(0, 54), (64, 96)] ||
  (List.range 6).any (fun a => bitsRsvd (blk b (64 + 32 * a) 32) 256 (fldBits rgTunAxis.flds)) ||
  (jobRecs b).any (fun t =>
    bitsRsvd t.2 512 [(0, 37), (64, 80), (160, 96)] ||
    (listOf b (recEnts t.2)).any (fun e => bitsRsvd e 128 [(0, 18), (32, 32)] || (decide (2 ≤ bits e 0 2) && decide (bits e 2 4 ≠ 0))) ||
    (listOf b (recGrts t.2)).any (fun g => bitsRsvd g 64 [(0, 3), (4, 12), (16, 7), (24, 8)] ||
      (bits g 17 2 = 1 && decide (bits g 19 4 ≠ 0))) ||
    (listOf b (recRegs t.2)).any (fun g => bitsRsvd g 384 [(0, 23), (24, 2), (64, 256)]))

/-- Grant entries of a PART_ASSIGN or PART_REVOKE block (16 R684). -/
def grantEnts (b : List Byte) : List Nat := (List.range (b.length / 16)).map (fun k => blk b (16 * k) 16)

/-- Entries of a recipe block (14 R621). -/
def recipeEnts (b : List Byte) : List Nat := (List.range ((b.length - 64) / 32)).map (fun k => blk b (64 + 32 * k) 32)

/-- The layout of an extended block fails (14 R595 check 6): DETAIL. A recipe's length is R622's. -/
def Pkt.blockBad (p : Pkt) : Option Nat :=
  if p.opc = 0x30 then jobLayout p.block
  else if p.opc = 0x101 ∨ p.opc = 0x102 then (if p.block.length % 16 ≠ 0 ∨ 65536 < p.block.length then some 0 else none)
  else none

/-- A reserved field of an extended block is nonzero. -/
def Pkt.blockRsvd (p : Pkt) : Bool :=
  if p.opc = 0x30 then jobRsvd p.block
  else if p.opc = 0x101 ∨ p.opc = 0x102 then (grantEnts p.block).any (fun g => bitsRsvd g 128 [(0, 11), (32, 64)])
  else if p.opc = 0x40 then
    bitsRsvd (blk p.block 0 64) 512 [(0, 176)] || (recipeEnts p.block).any (fun e => bitsRsvd e 256 [(0, 25), (32, 8), (64, 128)])
  else false

/-! ## Checks (14 R595) -/

/-- The function is not permitted the opcode (14 R602, R603). -/
def Pkt.priv (p : Pkt) (f : Nat) (i : CmdInfo) : Bool :=
  decide (f ≠ 0) && (i.pf || p.mode3 || (p.opc = 5 && decide (p.n 16 1 ≠ 3)))

/-- PART is one the function cannot name (14 R603; 16 R683: the PF acts for a partition that has no owner). -/
def State.partBad (s : State) (f : Nat) (p : Pkt) (i : CmdInfo) : Bool :=
  let vfReset := decide (f ≠ 0) && decide (p.opc = 5)
  let scope := if vfReset then 2 else if p.mode3 then 0 else i.scope
  (decide (7 < p.part) && decide (p.part ≠ 0xFF)) || (scope = 0 && decide (p.part ≠ 0xFF)) || (scope = 2 && p.part = 0xFF) ||
  (decide (f ≠ 0) && decide (p.part < 8) && decide (p.part + 1 ≠ f)) || (vfReset && decide (p.n 17 1 ≠ p.part)) ||
  (f = 0 && scope = 2 && ! i.pf && decide (p.opc ≠ 0x21) && decide (p.part < 8) && s.owned p.part)

/-- Checks 1 to 7 of a packet whose header is h: status and DETAIL of the first that fails. `noblk`: its block cannot be read. -/
def State.pktFail (s : State) (f h : Nat) (p : Pkt) (noblk : Bool) : Option (Nat × Nat) :=
  if bits h 19 5 ≠ 0 ∨ bits h 70 58 ≠ 0 then some (0x10, 0) else
  match cmdInfo p.opc with
  | none => some (0x11, 0)
  | some i =>
    if p.priv f i then some (0x14, 0)
    else if s.partBad f p i then some (0x13, 0)
    else if p.ext ≠ i.ext ∨ p.len ≠ i.len then some (0x12, 0)
    else if i.ext ∧ (p.xlen = 0 ∨ 2 ^ 24 < p.xlen) then some (0x12, 0)
    else if i.ext ∧ noblk then some (0x18, 0)
    else match (if i.ext then p.blockBad else none) with
      | some d => some (0x12, d)
      | none => if p.inlineRsvd i || (i.ext && p.blockRsvd) then some (0x10, 0) else none

/-! ## Taking a packet (14 R590–R592, R599) -/

/-- Replies that wait for room (14 R591). -/
def Fn.held (x : Fn) : Nat := (x.outq.filter (fun o => ! o.event)).length

/-- Firmware takes the next packet of the ring. In the failed state the VFs are not there (01 R46). -/
def State.mayTake (s : State) (f : Nat) : Bool :=
  let x := s.fn f
  x.cur.isNone && s.ringEn f && s.serving && (f = 0 || ! s.failed) && s.rf 0 (oHiRingst f) hiRingstHalted = 0 && decide (x.held < 16) &&
    decide (s.rf 0 (oHiRingst f) hiRingstCmdhead ≠ x.cmdtail)

/-- Bus address of packet i. -/
def State.pktAddr (s : State) (f i : Nat) : Nat :=
  s.rf 0 (oHiRingcfg f) hiRingcfgCbase + 64 * (i % 2 ^ s.rf 0 (oHiRingcfg f) hiRingcfgClog)

/-- The expected SEQ: after EN or RESTART, that of the next packet. -/
def State.wantSeq (s : State) (f : Nat) : Nat :=
  ((s.fn f).expSeq).getD (s.peekN .host (s.pktAddr f (s.rf 0 (oHiRingst f) hiRingstCmdhead) + 4) 4)

/-- The packet at bus address a; with EXT = 1 of an opcode that has a block, and a length in range, its block follows the inline bytes. -/
def State.readPkt (s : State) (a : Nat) : Nat × Pkt :=
  let h := s.peekN .host a 16
  let ps := s.peeks .host (a + 16) 48
  let ext := bit h 18
  let opc := bits h 0 16
  let n := blk ps 8 4
  let b := if ext ∧ ((cmdInfo opc).any (fun i => i.ext)) ∧ n ≤ 2 ^ 24 then s.peeks .host (blk ps 0 8) n else []
  (h, { opc := opc, barrier := bit h 16, irq := bit h 17, ext := ext, part := bits h 24 8, seq := bits h 32 32, len := bits h 64 6,
        params := ps ++ b })

/-- Take a packet, with the outcome of the reads: 0 good, 1 the packet fails, 2 its extended block fails. -/
def State.take (s : State) (f rd : Nat) : State :=
  if ! s.mayTake f then s else
  let st := oHiRingst f
  let i := s.rf 0 st hiRingstCmdhead
  if rd = 1 ∨ ! s.linkOk f then (s.haltRing f 3).reply f { seq := s.wantSeq f, opc := 0, status := 0x18, detail := i } else
  let t := s.readPkt (s.pktAddr f i)
  let p := t.2
  let want := s.wantSeq f
  let s := s.wf 0 st hiRingstCmdhead ((i + 1) % 2 ^ 32)
  let r : Out := { seq := p.seq, opc := p.opc, part := p.part, irq := p.irq }
  if p.seq ≠ want then (s.haltRing f 1).reply f { r with status := 0x16, detail := want } else
  let s := s.putFn f { s.fn f with expSeq := some ((p.seq + 1) % 2 ^ 32) }
  match s.pktFail f t.1 p (rd = 2) with
  | some e => s.reply f { r with status := e.1, detail := e.2 }
  | none => s.putFn f { s.fn f with cur := some p, stage := 0 }

/-- CMDTAIL: the doorbell; packets beyond the ring halt it, else firmware takes the next. While EN = 0, or through the blocked window of
a TDI in ERROR, it is ignored (14 R632, 16 R686). -/
def State.doorbell (s : State) (f v rd : Nat) : State :=
  if ! s.ringEn f ∨ ! s.fnOpen f then s else
  let v := v % 2 ^ 32
  let s := s.putFn f { s.fn f with cmdtail := v }
  let head := s.rf 0 (oHiRingst f) hiRingstCmdhead
  if 2 ^ s.rf 0 (oHiRingcfg f) hiRingcfgClog < (v + 2 ^ 32 - head) % 2 ^ 32 then
    (s.haltRing f 2).reply f { seq := s.wantSeq f, opc := 0, status := 0x17, detail := v }
  else s.take f rd

def execCmdtail (f v rd : Nat) (s : State) : Host.Outcome State Fault Refusal :=
  if f < 9 then .next (s.doorbell f v rd) else .fault .absentUnit

/-- CPLHEAD: replies consumed; those that waited for room are written. -/
def State.consumeReplies (s : State) (f v : Nat) : State :=
  if ! s.ringEn f ∨ ! s.fnOpen f then s
  else (s.putFn f { s.fn f with cplhead := v % 2 ^ 32 }).flush f

def execCplhead (f v : Nat) (s : State) : Host.Outcome State Fault Refusal :=
  if f < 9 then .next (s.consumeReplies f v) else .fault .absentUnit

/-! ## Starting a command (14 R595 checks 8 and 9, R599, R605) -/

/-- Commands the failed state accepts (14 R605). -/
def Pkt.failedOk (p : Pkt) : Bool := [1, 2, 3, 5, 6].contains p.opc || p.mode3

/-- Commands that take effect only between other functions' short commands (14 R599). -/
def Pkt.exclusive (p : Pkt) : Bool := p.opc = 4 || p.opc = 5 || p.opc = 0x40 || p.mode3

/-- State of a partition (16 R683, R705). -/
def State.partState (s : State) (p : Nat) : Nat := s.rf 0 (oPartStat p) partStatState

/-- The command waits, and holds those behind it: a barrier, 64 long commands, another function's short command, or the module is not
served. -/
def State.mustWait (s : State) (f : Nat) (p : Pkt) : Bool :=
  let x := s.fn f
  ! s.serving || (p.barrier && decide (x.longs ≠ [])) || ((cmdInfo p.opc).any (fun i => i.long) && decide (64 ≤ x.longs.length)) ||
    (p.exclusive && s.fns.any (fun (e : Nat × Fn) => decide (e.1 ≠ f) && decide (e.2.stage = 1)))

/-- Commands that use a partition's dies: the module is not in operation for one that holds units of a lost die (01 R47; DEDUCED, log
entry 99). -/
def Pkt.usesDies (p : Pkt) : Bool := [0x10, 0x11, 0x20, 0x21, 0x30, 0x32, 0x33, 0x34, 0x35, 0x41].contains p.opc && ! p.mode3

/-- Check 8, and the alignment of XADDR: status. -/
def State.stateFail (s : State) (p : Pkt) : Option Nat :=
  if s.failed ∧ ! p.failedOk then some 0x15
  else if p.part < 8 ∧ p.usesDies ∧ (List.range s.nDies).any (fun d => bit s.lostDies d && s.partUses p.part d) then some 0x15
  else if p.part < 8 ∧ p.opc ≠ 0x100 ∧ s.partState p.part = 0 then some 0x15
  else if p.ext ∧ p.xaddr % 64 ≠ 0 then some 0x19
  else none

/-- A row of the host's commands: firmware takes the next packet when it has none, and starts it when it is this row's and need not wait. -/
def hostRow (opc f : Nat) (s : State) (body : Pkt → State → State) : Host.Outcome State Fault Refusal :=
  if 9 ≤ f then .fault .absentUnit else
  let s := s.take f 0
  match (s.fn f).cur with
  | none => .next s
  | some p =>
    if p.opc ≠ opc ∨ 0 < (s.fn f).stage ∨ s.mustWait f p then .next s else
    match s.stateFail p with
    | some e => .next (s.endCmd f e 0 0)
    | none => .next (body p s)

/-- The command goes on until a later event ends it. -/
def State.hold_ (s : State) (f : Nat) : State := s.putFn f { s.fn f with stage := 1 }

/-! ## Long commands and status words (14 R599, R617–R620) -/

/-- PROG of a long command. -/
def Long.prog (l : Long) : Nat :=
  let n := if l.total = 0 then 2 ^ 24 - 1 else l.done * (2 ^ 24 - 1) / l.total
  if 0x80 ≤ l.state then min n (2 ^ 24 - 1) else min n (2 ^ 24 - 2)

/-- The status word. -/
def Long.word (l : Long) : Nat := l.valid % 2 ^ 32 + l.prog * 2 ^ 32 + l.state % 256 * 2 ^ 56

/-- Write a status word; one that cannot be sent is logged (14 R618; DEDUCED, log entry 54). -/
def State.writeSw (s : State) (f : Nat) (l : Long) : State :=
  if s.linkOk f then s.poke .host l.swaddr (toBytes 8 l.word) else s.logErr { cls := 0x0D, island := 31, addr := 0, detail := 0x18 }

/-- The command is accepted: its status word reads ACCEPTED, and the next command may start. -/
def State.acceptLong (s : State) (f : Nat) (p : Pkt) (sw total : Nat) : State :=
  let l : Long := { pkt := p, swaddr := sw, state := 1, total := total }
  let x := s.fn f
  (s.putFn f { x with cur := none, stage := 0, longs := enq x.longs l }).writeSw f l

/-- The command is accepted and starts at once: its status word reads ACCEPTED, then RUNNING (14 R618; DESIGN CHOICE, log entry 114).
`valid` units of its result are there already. -/
def State.runLong (s : State) (f : Nat) (p : Pkt) (sw total valid : Nat) : State :=
  let s := s.acceptLong f p sw total
  let l : Long := { pkt := p, swaddr := sw, state := 2, total := total, valid := valid }
  let x := s.fn f
  (s.putFn f { x with longs := x.longs.map (fun k => if k.pkt.seq = p.seq then l else k) }).writeSw f l

/-- Replace a long command, found by its SEQ. -/
def State.putLong (s : State) (f : Nat) (l : Long) : State :=
  let x := s.fn f
  s.putFn f { x with longs := x.longs.map (fun k => if k.pkt.seq = l.pkt.seq then l else k) }

/-- A long command ends: its final status word, then its reply. -/
def State.endLong (s : State) (f : Nat) (l : Long) : State :=
  let s := s.writeSw f l
  let x := s.fn f
  let s := s.putFn f { x with longs := x.longs.filter (fun k => decide (k.pkt.seq ≠ l.pkt.seq)) }
  if l.pkt.mute then s else
  s.reply f
    { seq := l.pkt.seq, opc := l.pkt.opc, part := l.pkt.part, status := l.status, detail := l.detail, result := l.result, irq := l.pkt.irq }

/-- A long command as it ends with status e, all done when it is not a failure. -/
def Long.finish (l : Long) (e detail valid : Nat) : Long :=
  if e < 0x10 then { l with state := if e = 2 then 0x82 else 0x80, status := e, detail := detail, valid := valid,
                            done := if e = 2 then l.done else l.total }
  else { l with state := 0x81, status := e, detail := detail }

/-- An empty command is accepted and ends at once (14 R629). -/
def State.emptyLong (s : State) (f : Nat) (p : Pkt) (sw : Nat) : State :=
  let s := s.acceptLong f p sw 0
  s.endLong f (({ pkt := p, swaddr := sw } : Long).finish 1 0 0)

/-! ## COPY's transfer -/

/-- The command queue that runs a function's COPY, by its SEQ. -/
def State.copyAt (s : State) (f seq : Nat) : Option (Nat × RInstr) :=
  (List.range s.nDies).findSome? (fun d =>
    ((s.rackq d 256).ins.find? (fun i => i.opc = 0x100 && i.fn = f && i.hseq = seq)).map (fun i => (d, i)))

/-- Requests of an instruction that have not completed. -/
def State.copyOuts (s : State) (d : Nat) (i : RInstr) : List Req := (s.rackq d 256).outs.filter (fun q => q.seq = i.seq)

/-- Bytes of the longest prefix of DST fully written; a copy to the host stops before its first poisoned sack (14 R608, R619). -/
def State.copyPrefix (s : State) (d : Nat) (i : RInstr) : Nat :=
  let cap (n k : Nat) : Nat := if k = 0 then n else min n (k - 1)
  cap (cap ((s.copyOuts d i).foldl (fun n q => min n q.ord) i.cur) (mget n0 i.cnt 2)) (mget n0 i.cnt 3)

/-- A long command with the progress of its transfer. -/
def State.copyView (s : State) (f : Nat) (l : Long) : Long :=
  match s.copyAt f l.pkt.seq with
  | none => l
  | some (d, i) => { l with done := mget n0 i.cnt 1, valid := s.copyPrefix d i / 256 }

/-- A COPY leaves its queue. -/
def State.copyGone (s : State) (f seq : Nat) : State :=
  match s.copyAt f seq with
  | none => s
  | some (d, i) =>
    let x := s.rackq d 256
    s.putRackq d 256 { x with ins := x.ins.filter (fun j => decide (j.seq ≠ i.seq)) }

/-- Running commands report their progress (14 R618). -/
def updateLongs (f : Nat) : State → List Long → State
  | s, [] => s
  | s, l :: ls =>
    if 0x80 ≤ l.state then updateLongs f s ls else
    let l := s.copyView f { l with state := 2 }
    updateLongs f ((s.putLong f l).writeSw f l) ls

/-- STATUS_WORD_UPDATE. -/
def execStatusWordUpdate (f : Nat) (s : State) : Host.Outcome State Fault Refusal :=
  if f < 9 then .next (if s.serving then updateLongs f s (s.fn f).longs else s) else .fault .absentUnit

/-- Issued requests of die d's command queue complete. -/
def finishOuts (d : Nat) : Nat → State → State
  | 0, s => s
  | n + 1, s =>
    match (s.rackq d 256).outs with
    | [] => s
    | q :: _ =>
      let s := if q.src.any (fun p => p.wait = 1) then s.hostReadEnd d 256 true else s
      finishOuts d n (s.rackComplete d 256 0)

/-- The long commands of function f for which k holds end CANCELLED (14 R600); `now` is false when the final status word and reply must
wait (17 R719). -/
def cancelLongs (f : Nat) (k : Pkt → Bool) (now : Bool) : State → List Long → State
  | s, [] => s
  | s, l :: ls =>
    if ! k l.pkt then cancelLongs f k now s ls else
    let s := match s.copyAt f l.pkt.seq with
      | none => s
      | some (d, i) => finishOuts d (2 * (s.copyOuts d i).length + 2 * (s.rackq d 256).outs.length)
          (s.putRackq d 256 ((s.rackq d 256).setIns { i with full := true, stopped := true }))
    let l := s.copyView f l
    let l := if 0x80 ≤ l.state then l else { l with state := 0x82, status := 2 }
    let s := s.copyGone f l.pkt.seq
    cancelLongs f k now (if now then s.endLong f l else s.putLong f l) ls

/-- Every function's. -/
def State.cancelAll (s : State) (k : Pkt → Bool) (now : Bool) : State :=
  (List.range 9).foldl (fun s f => cancelLongs f k now s (s.fn f).longs) s

end Sys2Proof.Machine
end

