-- ==== Sys2Proof/Machine/HostCmds.lean ====
section
/-!
DEFINITION. Sys2Proof/Machine/HostCmds.lean: the host's commands but for resets, recipes and protection (14_host_and_commands.md
R602–R616, R629).
-/
namespace Sys2Proof.Machine

/-! ## Module commands -/

/-- NOP. -/
def execNop (f : Nat) (s : State) : Host.Outcome State Fault Refusal := hostRow 1 f s (fun _ s => s.endCmd f 0 0 0)

/-- Recipe id in force; 0 when none (14 R605, R623). -/
def State.rid (s : State) : Nat := blk s.recipeNow 4 4

/-- RESULT of IDENTIFY (14 R605). -/
def State.identity (s : State) (f part : Nat) : Nat :=
  s.nDies + (if s.failed then 1 else 0) * 2 ^ 8 + s.modNum * 2 ^ 16 + Config.fwVersion.toNat * 2 ^ 32 + s.rid * 2 ^ 64 +
    (if part < 8 then (s.partRec part).mode else 0xFF) * 2 ^ 96 + f * 2 ^ 104

def execIdentify (f : Nat) (s : State) : Host.Outcome State Fault Refusal :=
  hostRow 2 f s (fun p s => s.endCmd f 0 0 (s.identity f p.part))

/-- Jobs that have started and not ended, of the partitions for which k holds. -/
def State.jobsOf (s : State) (k : Nat → Bool) : List (Nat × JobRec) := s.jobs.filter (fun e => decide (e.2.phase ≠ 0) && k e.2.part)

/-- RESULT of STATUS (14 R605). -/
def State.statusWord (s : State) (f part : Nat) : Nat :=
  let mask (k : Nat → Bool) : Nat := sumBy (fun i => if k i then 2 ^ i else 0) (List.range 8)
  mask (fun k => decide (s.partState k ≠ 0)) + mask (fun k => ! (s.jobsOf (fun q => decide (q = k))).isEmpty) * 2 ^ 8 +
    (if part < 8 then (s.jobsOf (fun q => decide (q = part))).length % 256 else 0) * 2 ^ 16 + s.healthMask * 2 ^ 24 +
    s.errLog.length * 2 ^ 32 + (s.fn f).evSerial % 2 ^ 32 * 2 ^ 64

def execStatus (f : Nat) (s : State) : Host.Outcome State Fault Refusal :=
  hostRow 3 f s (fun p s => s.endCmd f 0 0 (s.statusWord f p.part))

/-- Ports in service resend IDENT, and DUPID is judged again (13 R550, R553). -/
def State.resendIdent (s : State) : State :=
  let s := s.allPorts.foldl (fun s t => if (s.port t.1 t.2).svc then s.pushCtl t.1 t.2 (s.identPl t.1 t.2) else s) s
  dupids s s.allPorts

/-- SET_MODNUM (01 R42). -/
def execSetModnum (f : Nat) (s : State) : Host.Outcome State Fault Refusal :=
  hostRow 4 f s (fun p s =>
    let n := p.n 16 2
    if n = 0xFFFF then s.endCmd f 0x20 0 0
    else if ! (s.jobsOf (fun _ => true)).isEmpty then s.endCmd f 0x34 0 0
    else ({ s with modNum := n }.resendIdent).endCmd f 0 0 0)

/-- LOG_READ is accepted. -/
def execLogRead (f : Nat) (s : State) : Host.Outcome State Fault Refusal :=
  hostRow 6 f s (fun p s =>
    if p.n 16 8 % 64 ≠ 0 ∨ p.n 32 8 % 8 ≠ 0 then s.endCmd f 0x19 0 0
    else if p.n 24 4 = 0 then s.emptyLong f p (p.n 32 8)
    else s.runLong f p (p.n 32 8) (p.n 24 4) 0)

/-- The 64 bytes of an error-log record (15 R655). -/
def errBytes (r : ErrRec) : List Byte :=
  toBytes 64 (r.index % 2 ^ 32 + r.time % 2 ^ 64 * 2 ^ 32 + r.cls % 256 * 2 ^ 96 + r.sev % 4 * 2 ^ 104 + (if r.sec then 2 ^ 106 else 0) +
    (if r.tagv then 2 ^ 107 else 0) + r.part % 8 * 2 ^ 108 + (if r.inoc then 2 ^ 111 else 0) + r.tag % 256 * 2 ^ 112 + r.die % 8 * 2 ^ 120 +
    r.island % 256 * 2 ^ 128 + r.sub % 256 * 2 ^ 136 + r.step % 2 ^ 32 * 2 ^ 144 + r.pjid % 2 ^ 32 * 2 ^ 176 + r.named % 2 ^ 16 * 2 ^ 208 +
    r.count % 2 ^ 32 * 2 ^ 224 + r.addr % 2 ^ 64 * 2 ^ 256 + r.synd % 2 ^ 32 * 2 ^ 320 + r.detail % 2 ^ 32 * 2 ^ 352)

/-- Record n as function f reads it: zeros when it is not held, or is not of a VF's partition (15 R654). -/
def State.logRec (s : State) (f n : Nat) : List Byte :=
  match s.errLog.find? (fun r => r.index = n && (f = 0 || (r.tagv && decide (r.part + 1 = f)))) with
  | some r => errBytes r
  | none => List.replicate 64 0

/-- Result bytes of a long command are written to the host, and the command is done; a write that cannot be sent fails it (log entry
54). -/
def State.longOut (s : State) (f : Nat) (l : Long) (buf : Nat) (bs : List Byte) (valid : Nat) : State :=
  if s.linkOk f then (s.poke .host buf bs).endLong f (l.finish 0 0 valid) else s.endLong f (l.finish 0x23 0x18 0)

/-- The records a LOG_READ copies. -/
def State.logReadEnd (s : State) (f : Nat) (l : Long) : State :=
  let n := l.pkt.n 24 4
  s.longOut f l (l.pkt.n 16 8) ((List.range n).flatMap (fun k => s.logRec f (l.pkt.n 28 4 + k))) n

/-! ## Windows (14 R606) -/

/-- A request translated through window w of partition p has not completed. -/
def State.winBusy (s : State) (p w : Nat) : Bool := s.rackqs.any (fun (e : Nat × RackQ) => e.2.outs.any (fun q => q.wins.contains (64 * p + w + 1)))

/-- Write an entry of a host window table, once the window is not in use, and end the command. -/
def State.winWrite (s : State) (f : Nat) (p : Pkt) (entry status : Nat) : State :=
  let w := p.n 16 1
  if s.winBusy p.part w then s else (s.write (.ctx 0) (winOff p.part w) (toBytes 16 entry)).endCmd f status 0 0

def execWinSet (f : Nat) (s : State) : Host.Outcome State Fault Refusal :=
  hostRow 0x10 f s (fun p s =>
    let size := p.n 32 4
    if 63 < p.n 16 1 ∨ 2 ^ 26 ≤ size then s.endCmd f 0x20 0 0
    else if p.n 24 8 % 4096 ≠ 0 then s.endCmd f 0x19 0 0
    else s.winWrite f p (p.n 24 8 + size * 2 ^ 64 + 2 ^ 90 + p.n 36 1 % 4 * 2 ^ 91) (if size = 0 then 1 else 0))

def execWinClear (f : Nat) (s : State) : Host.Outcome State Fault Refusal :=
  hostRow 0x11 f s (fun p s => if 63 < p.n 16 1 then s.endCmd f 0x20 0 0 else s.winWrite f p 0 0)

/-! ## COPY and CANCEL (14 R607, R608, R620) -/

/-- Locations of n bytes at a global address a COPY names for partition p, or its status. -/
def State.copyRuns (s : State) (p a n : Nat) (write : Bool) : Except Nat (List (Nat × Nat)) :=
  if ! s.isLocal (bits a 48 16) ∨ 4 < bits a 44 4 then .error 0x20 else
  match s.rackReach 0 p a n true with
  | .err c => .error (if c = 9 then 0x21 else 0x20)
  | .remote _ _ _ => .error 0x20
  | .host w o m => match s.hostWindow p w o m write with
    | .error c => .error (if c = 9 then 0x21 else 0x20)
    | .ok b => .ok [(Region.host.loc b.1, n)]
  | .ok rs => .ok (rs.map (fun t => (t.1.loc t.2.1, t.2.2)))

/-- A COPY that names bytes outside the partition's window is reported to the bond island (08 R305). -/
def State.copyOutside (s : State) (p a n : Nat) : State :=
  if s.reach 0 none p a n = .err 9 then s.bondReport { tagv := false, part := p, cls := 0x12, detail := 9, island := 22 } else s

/-- Two lists of runs share a byte. -/
def runsMeet (xs ys : List (Nat × Nat)) : Bool := xs.any (fun x => ys.any (fun y => meets x.1 x.2 y.1 y.2))

/-- Die whose command queue runs a COPY: the holder of DST, D0 for host memory; the interleaved cellar's first stack. -/
def State.copyDie (s : State) (a : Nat) : Nat :=
  if bits a 44 4 = 3 then 0 else if bits a 44 4 = 2 ∧ ! bit a 43 then (s.interleave (bits a 0 40)).1 else dieOfAddr 0 a

def execCopy (f : Nat) (s : State) : Host.Outcome State Fault Refusal :=
  hostRow 0x20 f s (fun p s =>
    let src := p.n 16 8
    let dst := p.n 24 8
    let n := p.n 32 5
    let sw := p.n 40 8
    match s.copyRuns p.part src n false, s.copyRuns p.part dst n true with
    | .error e, _ => (s.copyOutside p.part src n).endCmd f e 0 0
    | .ok _, .error e => (s.copyOutside p.part dst n).endCmd f e 0 0
    | .ok xs, .ok ys =>
      if sw % 8 ≠ 0 then s.endCmd f 0x19 0 0
      else if runsMeet xs ys then s.endCmd f 0x22 0 0
      else if n = 0 then s.emptyLong f p sw
      else
        let s := s.runLong f p sw n 0
        let d := s.copyDie dst
        let i : RInstr := { opc := 0x100, part := p.part, seq := s.rackSeq, len := n, src := src, dst := dst, fn := f, hseq := p.seq }
        let x := s.rackq d 256
        { (s.unrest d 22).putRackq d 256 { x with ins := enq x.ins i } with rackSeq := s.rackSeq + 1 })

/-- A COPY whose transfer has ended, stopped or been cancelled, and has no request left, ends (14 R608). -/
def State.copyFinish (s : State) (f : Nat) (l : Long) : Option State :=
  if l.state < 0x80 then none else
  match s.copyAt f l.pkt.seq with
  | none => some (s.endLong f l)
  | some (d, i) => if s.copyOuts d i = [] then some ((s.copyGone f l.pkt.seq).endLong f (s.copyView f l)) else none

/-- CANCEL: OUTCOME 1 for a command it stops, 2 for one that runs on, 0 for none. -/
def execCancel (f : Nat) (s : State) : Host.Outcome State Fault Refusal :=
  hostRow 0x21 f s (fun p s =>
    match (s.fn f).longs.find? (fun l => l.pkt.seq = p.n 16 4 && decide (l.state < 0x80)) with
    | none => s.endCmd f 0 0 0
    | some l =>
      if l.pkt.opc = 0x33 ∨ l.pkt.opc = 0x40 then s.endCmd f 0 0 2 else
      let s := match s.copyAt f l.pkt.seq with
        | none => s
        | some (d, i) => s.putRackq d 256 ((s.rackq d 256).setIns { i with full := true, stopped := true })
      (s.putLong f { l with state := 0x82, status := 2 }).endCmd f 0 0 1)

/-! ## Counters (14 R615) -/

/-- CTR and DIE are in range. -/
def State.ctrOk (s : State) (p : Pkt) : Bool := decide (p.n 16 2 < 0xFFF) && s.hasDie (p.n 18 1)

def execCtrPost (f : Nat) (s : State) : Host.Outcome State Fault Refusal :=
  hostRow 0x34 f s (fun p s =>
    if ! s.ctrOk p then s.endCmd f 0x20 0 0 else
    let clr := bit (p.n 19 1) 0
    if p.n 20 2 = 0 ∧ ! clr then s.endCmd f 1 0 0
    else (s.postFor (p.n 18 1) p.part (p.n 16 2) (p.n 20 2) clr (s.partTag (p.n 18 1) p.part)).endCmd f 0 0 0)

def execCtrRead (f : Nat) (s : State) : Host.Outcome State Fault Refusal :=
  hostRow 0x35 f s (fun p s =>
    if ! s.ctrOk p then s.endCmd f 0x20 0 0 else
    let d := p.n 18 1
    let o := ctrOff p.part (p.n 16 2)
    let s := s.readCheck (.ctx d) o 8
    s.endCmd f 0 0 (s.peekN (.ctx d) o 8))

/-! ## JOB_START (14 R609–R611, 10 R431, R440) -/

/-- Die context number of an entry (10 R401). -/
def entTarget (e : Nat) : Option Nat :=
  let inst := bits e 2 4
  let c := bits e 6 12
  match bits e 0 2 with
  | 0 => if c < 1024 then some (1024 * inst + c) else none
  | 1 => if inst < 4 ∧ c < 1024 then some (16384 + 1024 * inst + c) else none
  | 2 => if inst = 0 ∧ c < 4096 then some (20480 + c) else none
  | _ => if inst = 0 ∧ c < 1024 then some (24576 + c) else none

/-- The entry's context is the partition's, FREE, and not named before. -/
def State.entOk (s : State) (d p : Nat) (seen : List (Option Nat)) (e : Nat) : Bool :=
  match entTarget e with
  | none => false
  | some c => s.ctxGranted d p c && decide ((s.ctx d c).state = cFREE) && ! seen.contains (some c)

/-- Index of the first element of a list for which f fails, given those before it. -/
def firstBad {α : Type} (f : List α → α → Bool) : List α → List α → Option Nat
  | _, [] => none
  | seen, x :: xs => if f seen x then (firstBad f (x :: seen) xs).map (· + 1) else some 0

/-- Fields of RK_QCFG an image may set. -/
def imgQFlds : List Fld := [rkQcfgQdepth, rkQcfgVc, rkQcfgRate, rkQcfgBurst]

/-- Register, instance and value of an image, when it is in the permitted set (14 R610). A value that sets a bit its register reserves is
outside it, though R9 lets a register ignore such a bit (DESIGN CHOICE, log entry 115). -/
def State.imgReg (s : State) (d p g : Nat) : Option (RegInfo × Nat × RegWord) :=
  let v := bits g 64 256
  match regOf (bits g 0 23) with
  | none => none
  | some (r, i, j) =>
    let ok := r.at i j = bits g 0 23 && r.bytes = 4 * 2 ^ bits g 24 2
    if ok && (r.off = 0x54000 || r.off = 0x110000) && i = p && ! bitsRsvd v 256 (fldBits r.flds) then
      some (r, r.at i j, BitVec.ofNat 256 v)
    else if ok && r.off = 0x50000 && s.granted d p 9 d i i && ! bitsRsvd v 256 (fldBits imgQFlds) then
      some (r, r.at i j, setFs (s.reg d (r.at i j)) (imgQFlds.map (fun f => (f, getF (BitVec.ofNat 256 v) f))))
    else none

/-- A slot grant conflicts (10 R431): misplaced, reserved class or channel, or its entry is claimed already. -/
def State.grantBad (s : State) (d : Nat) (seen : List Nat) (g : Nat) : Bool :=
  let t := bits g 0 3
  let e := bits g 4 12
  let v := bits g 16 16
  decide (4 < t) ||
  (bit v 0 &&
    (decide (1 < bits v 1 2) || (bits v 1 2 = 1 && decide (t ≠ 3)) || (bits v 1 2 = 0 && (bits v 3 4 = 0 || decide (13 < bits v 3 4))) ||
      bit (bits (((s.nextWords d t).find? (fun w => w.1 = e / 2)).elim 0 (fun w => w.2.toNat)) (16 * (e % 2)) 16) 0 ||
      seen.any (fun h => bits h 0 16 = bits g 0 16 && bit h 16)))

/-- T3 would have three entries in a row without ring liquor, while long mode is set or asked for (02 R84). -/
def State.liquorShort (s : State) (d : Nat) (gs : List Nat) : Bool :=
  ((s.ring d).long || s.rf d oSpineMode spineModeLong = 1) && s.noLiquor d gs

/-- DETAIL of a die and an entry. -/
def jobDetail (d k : Nat) : Nat := d + k * 256

/-- The first die of the block for which f answers a DETAIL index. -/
def firstDie (b : List Byte) (f : Nat → Nat → Option Nat) : Option Nat :=
  (jobRecs b).findSome? (fun t => (f t.1 t.2).map (jobDetail t.1))

/-- Tags a partition may use now. -/
def State.freeTags (s : State) (p : Nat) : List Nat :=
  (List.range 256).filter (fun t => s.granted 0 p 0xE 0 t t && decide ((s.job t).phase = 0))

/-- The cases of R611, in their order, and those of R720 and R47 before them: status and DETAIL. -/
def State.jobFail (s : State) (f p : Nat) (b : List Byte) : Option (Nat × Nat) :=
  let dies := jobDies b
  if dies = [] ∨ dies.any (fun d => ! s.hasDie d) then some (0x20, (dies.find? (fun d => ! s.hasDie d)).getD 0)
  else if dies.any (fun d => s.dormant d || bit (s.rf 0 oPwrCtl pwrCtlDormreq) d || bit s.lostDies d) ∨
      (List.range s.nDies).any (fun d => bit s.lostDies d && s.partUses p d) then some (0x15, 0)
  else
  match firstDie b (fun _ r => if bits r 0 37 % 4096 ≠ 0 then some 0
      else firstBad (fun _ e => decide (bits e 32 4 = 0)) [] (listOf b (recEnts r))) with
  | some d => some (0x19, d)
  | none =>
  match firstDie b (fun _ r => if bits r 64 32 % 4096 ≠ 0 ∨ stackBytes < bits r 0 37 + bits r 64 32 then some 0 else none) with
  | some d => some (0x20, d)
  | none =>
  match firstDie b (fun d r => if s.memWindow d p (.cellar d) (bits r 0 37) (bits r 64 32) then none else some 0) with
  | some d => some (0x21, d)
  | none =>
  match firstDie b (fun d r => firstBad (fun seen e => s.entOk d p (seen.map entTarget) e) [] (listOf b (recEnts r))) with
  | some d => some (0x32, d)
  | none =>
  match firstDie b (fun d r => firstBad (fun _ g => (s.imgReg d p g).isSome) [] (listOf b (recRegs r))) with
  | some d => some (0x21, d)
  | none =>
  match firstDie b (fun d r =>
      match firstBad (fun seen g => ! s.grantBad d seen g) [] (listOf b (recGrts r)) with
      | some k => some k
      | none => if s.liquorShort d (listOf b (recGrts r)) then some 0 else none) with
  | some d => some (0x30, d)
  | none => if s.freeTags p = [] then some (0x31, 0) else if f ≠ 0 ∧ s.diag then some (0x15, 0) else none

/-- Zero the declared counters of the job on die d. -/
def State.zeroCtrs (s : State) (d p : Nat) (b : List Byte) : State :=
  (List.range 4095).foldl (fun s i => if Config.declaredCounter b i then s.write (.ctx d) (ctrOff p i) (List.replicate 8 0) else s) s

/-- The registers of a job on die d with record r. The queues the partition holds are put in service (DEDUCED, log entry 59). -/
def State.jobRegs (s : State) (b : List Byte) (p tag d r : Nat) : State :=
  let h := blk b 0 64
  let s := s.setReg d (oBarmKey tag) (BitVec.ofNat 256 (bits h 64 64))
  let s := s.wf d (oBarmStep tag) barmStepStep (bits h 128 32)
  let s := s.wf d (oKscCtrl p) kscCtrlSkiplim (bits h 46 8)
  let s := (List.range 6).foldl (fun s a => s.setReg d (oTunAxis tag a) (BitVec.ofNat 256 (blk b (64 + 32 * a) 32))) s
  let s := (List.range 256).foldl (fun s q =>
    if s.granted d p 9 d q q then s.wfs d (oRkQcfg q) [(rkQcfgEn, 1), (rkQcfgPart, p)] else s) s
  let s := (listOf b (recRegs r)).foldl (fun s g => match s.imgReg d p g with
    | some (_, o, v) => s.setReg d o v
    | none => s) s
  s.wfs d (oThrJob tag) [(thrJobEn, 1), (thrJobStrict, bits h 40 1), (thrJobPart, p), (thrJobCbase, bits r 0 37), (thrJobClim, bits r 64 32)]

/-- A job starts on die d with record r (10 R440). -/
def State.jobDie (s : State) (b : List Byte) (p tag d r : Nat) : State :=
  let s := (s.jobRegs b p tag d r).zeroCtrs d p b
  let gs := listOf b (recGrts r)
  let s := if gs = [] then s else s.slotEdit d (withGrants gs tag)
  (listOf b (recEnts r)).foldl (fun s e => match entTarget e with
    | some c => s.startThread d c tag p (bits e 32 32)
    | none => s) s

/-- THLOG of every vat of partition p (05 R215). -/
def State.setThlog (s : State) (p v : Nat) : State :=
  (List.range s.nDies).foldl (fun s d =>
    if s.granted d p 1 d 0 0 then (List.range 16).foldl (fun s k => s.wf d (oVatSrctl k) vatSrctlThlog v) s else s) s

/-- JOB_START. Which free tag firmware assigns is a free value (DESIGN CHOICE, log entry 50). -/
def execJobStart (f : Nat) (s : State) : Host.Outcome State Fault Refusal :=
  hostRow 0x30 f s (fun p s =>
    let b := p.block
    match s.jobFail f p.part b with
    | some e => s.endCmd f e.1 e.2 0
    | none =>
      let ts := s.freeTags p.part
      let tag := ts.getD (s.free 8 % ts.length) 0
      let s := (s.tick.putJob tag { phase := 1, part := p.part, pjid := blk b 0 4, mask := jobMask b }).setThlog p.part (bits (blk b 0 64) 41 5)
      let s := (jobRecs b).foldl (fun s t => s.jobDie b p.part tag t.1 t.2) s
      (s.pmrExtend p.part b).endCmd f 0 0 tag)

/-! ## JOB_ABORT (14 R614) -/

/-- The tag is active and of the partition. -/
def State.jobIs (s : State) (tag p : Nat) : Bool := decide ((s.job tag).phase ≠ 0) && (s.job tag).part = p

def execJobAbort (f : Nat) (s : State) : Host.Outcome State Fault Refusal :=
  hostRow 0x31 f s (fun p s =>
    let tag := p.n 16 1
    if s.jobIs tag p.part then (s.hold_ f).beginEnd 0 tag 1 0 0 none s.modNum 0 0 else s.endCmd f 0x33 0 0)

/-! ## State records (14 R616) -/

/-- Dies of a footprint. -/
def maskDies (m : Nat) : List Nat := (List.range 8).filter (fun d => bit m d)

/-- STATE_SAVE and STATE_LOAD are accepted. -/
def stateRow (opc f : Nat) (s : State) : Host.Outcome State Fault Refusal :=
  hostRow opc f s (fun p s =>
    if ! s.jobIs (p.n 16 1) p.part then s.endCmd f 0x33 0 0
    else if p.n 24 8 % 64 ≠ 0 ∨ p.n 32 8 % 8 ≠ 0 then s.endCmd f 0x19 0 0
    else s.runLong f p (p.n 32 8) (64 * (1 + (maskDies (s.job (p.n 16 1)).mask).length)) 0)

def execStateSave (f : Nat) (s : State) : Host.Outcome State Fault Refusal := stateRow 0x32 f s
def execStateLoad (f : Nat) (s : State) : Host.Outcome State Fault Refusal := stateRow 0x33 f s

/-- The header of a job's state record. -/
def stateHead (j : JobRec) : Nat := 1 + j.mask % 256 * 2 ^ 16 + j.pjid % 2 ^ 32 * 2 ^ 32

/-- The block of die d. -/
def State.stateBlock (s : State) (d tag p : Nat) : Nat :=
  s.rf d (oBarmKey tag) barmKeyKey + s.rf d (oBarmStep tag) barmStepStep * 2 ^ 64 + s.rf d (oKetOpt p) ketOptNapp * 2 ^ 96 +
    s.rf d (oKscCtrl p) kscCtrlSkipcnt * 2 ^ 128 + s.rf d (oKscCtrl p) kscCtrlSkiplim * 2 ^ 136

/-- A STATE_SAVE ends: the record is written. -/
def State.stateSaveEnd (s : State) (f : Nat) (l : Long) : State :=
  let tag := l.pkt.n 16 1
  let j := s.job tag
  if ! s.jobIs tag l.pkt.part then s.endLong f (l.finish 0x33 0 0) else
  s.longOut f l (l.pkt.n 24 8)
    (toBytes 64 (stateHead j) ++ (maskDies j.mask).flatMap (fun d => toBytes 64 (s.stateBlock d tag j.part))) l.total

/-- Write a die block into the registers of a job. -/
def State.stateWrite (s : State) (tag p d b : Nat) : State :=
  let s := (s.wf d (oBarmKey tag) barmKeyKey (bits b 0 64)).wf d (oBarmStep tag) barmStepStep (bits b 64 32)
  (s.wf d (oKetOpt p) ketOptNapp (bits b 96 32)).wfs d (oKscCtrl p) [(kscCtrlSkipcnt, bits b 128 8), (kscCtrlSkiplim, bits b 136 8)]

/-- A STATE_LOAD ends: the record is read, checked and written. A bit that R616 says is zero and is not makes the record fail, as its
version and its die mask do (DESIGN CHOICE, log entry 115). -/
def State.stateLoadEnd (s : State) (f : Nat) (l : Long) : State :=
  let tag := l.pkt.n 16 1
  let j := s.job tag
  if ! s.jobIs tag l.pkt.part then s.endLong f (l.finish 0x33 0 0) else
  if ! s.linkOk f then s.endLong f (l.finish 0x18 0 0) else
  let ds := maskDies j.mask
  let r (k : Nat) : Nat := s.peekN .host (l.pkt.n 24 8 + 64 * k) 64
  let bad := decide (bits (r 0) 0 16 ≠ 1) || decide (bits (r 0) 16 8 ≠ j.mask % 256) || bitsRsvd (r 0) 512 [(0, 24), (32, 32)] ||
    (List.range ds.length).any (fun k => bitsRsvd (r (k + 1)) 512 [(0, 144)])
  if bad then s.endLong f (l.finish 0x35 0 0) else
  (ds.zipIdx.foldl (fun s t => s.stateWrite tag j.part t.1 (r (t.2 + 1))) s).endLong f (l.finish 0 0 l.total)

end Sys2Proof.Machine
end

