-- ==== Sys2Proof/Machine/Recipe.lean ====
section
/-!
DEFINITION. Sys2Proof/Machine/Recipe.lean: recipes and overlays, with RECIPE_LOAD and OVERLAY (14_host_and_commands.md R621–R627,
19 R775).
-/
namespace Sys2Proof.Machine

/-! ## The lists of a recipe (14 R621) -/

/-- Entries in list k: 0 base, m + 1 mode m. -/
def recipeCount (b : List Byte) (k : Nat) : Nat := blk b (8 + 2 * k) 2

/-- First entry of list k. -/
def recipeFirst (b : List Byte) (k : Nat) : Nat := sumBy (recipeCount b) (List.range k)

/-- List k. -/
def recipeList (b : List Byte) (k : Nat) : List Nat :=
  (List.range (recipeCount b k)).map (fun i => blk b (64 + 32 * (recipeFirst b k + i)) 32)

def eOFF (e : Nat) : Nat := bits e 0 23
def ePERPART (e : Nat) : Bool := bit e 23
def eWIDE (e : Nat) : Bool := bit e 24
def eDIEMASK (e : Nat) : Nat := bits e 32 8
def eMASK (e : Nat) : Nat := bits e 64 64
def eVALUE (e : Nat) : Nat := bits e 128 64

/-- Bit of `Fld.recipe` for list k. -/
def listBit (k : Nat) : Nat := if k = 0 then 0 else if k < 4 then 1 else 2

/-- Fields of r that list k may name. -/
def recipeFlds (r : RegInfo) (k : Nat) : List Fld := r.flds.filter (fun f => bit f.recipe (listBit k))

/-- Registers whose entries carry PERPART = 1. -/
def perPart (r : RegInfo) : Bool := r.off = 0x40300 || r.off = 0x33000

/-- Why an entry of list k breaks R622 and R775: PROT or RECORD. -/
def entFail (k e : Nat) : Option Nat :=
  match regOf (eOFF e) with
  | none => some 0x21
  | some (r, i, j) =>
    if r.at i j ≠ eOFF e ∨ recipeFlds r k = [] ∨ (perPart r ∧ i ≠ 0) ∨ ePERPART e ≠ perPart r ∨ (0 < k ∧ k < 4 ∧ ! ePERPART e) then some 0x21
    else if eWIDE e ≠ decide (r.bytes = 8) then some 0x35
    else if bitsRsvd (eMASK e) 64 (fldBits (recipeFlds r k)) then some 0x21
    else none

/-- Why a recipe is rejected (14 R622). -/
def recipeFail (b : List Byte) : Option Nat :=
  if b.length < 64 ∨ blk b 0 4 ≠ 0x0051B1E0 ∨ blk b 4 4 = 0 ∨ b.length ≠ 64 + 32 * recipeFirst b 5 ∨ crc32c (b.drop 64) ≠ blk b 18 4 then
    some 0x35
  else (List.range 5).findSome? (fun k => (recipeList b k).findSome? (entFail k))

/-! ## Applying entries (14 R621, R623, R625) -/

/-- Firmware writes value v over the bits of mask m of a register; fields that are not read-write take part only where m covers them. -/
def State.maskWrite (s : State) (d o m v : Nat) : State :=
  match regOf o with
  | none => s
  | some (r, i, j) =>
    let old := r.flds.foldl (fun w f => if f.acc = .rw then w else setF w f 0) (s.reg d o)
    let n := BitVec.ofNat 256 (Nat.land v m)
    s.regDo (.firmware 0) d r i j 0 ((old &&& ~~~ BitVec.ofNat 256 m) ||| n).toNat

/-- Dies an entry writes: present ones, and D0 alone where only D0 has the register. -/
def State.entDies (s : State) (e : Nat) : List Nat :=
  (List.range s.nDies).filter (fun d => bit (eDIEMASK e) d && (d = 0 || ! (regOf (eOFF e)).any (fun r => r.1.d0)))

/-- Offsets an entry names for the partitions of ps. -/
def entOffs (e : Nat) (ps : List Nat) : List Nat :=
  if ePERPART e then ps.map (fun p => eOFF e + ((regOf (eOFF e)).elim 0 (fun r => r.1.s1)) * p) else [eOFF e]

/-- Apply an entry for the partitions of ps. -/
def State.applyEnt (s : State) (ps : List Nat) (e : Nat) : State :=
  (s.entDies e).foldl (fun s d => (entOffs e ps).foldl (fun s o => s.maskWrite d o (eMASK e) (eVALUE e)) s) s

/-- Apply a list of entries. -/
def State.applyEnts (s : State) (ps : List Nat) (es : List Nat) : State := es.foldl (fun s e => s.applyEnt ps e) s

/-- The value the base list gives a register word that starts at its reset value. -/
def baseWord (base : List Nat) (d o p : Nat) (r0 : Nat) : Nat :=
  base.foldl (fun w e => if bit (eDIEMASK e) d ∧ (entOffs e [p]).contains o then w - Nat.land w (eMASK e) + Nat.land (eVALUE e) (eMASK e) else w) r0

/-- The fields of a register that a write of its whole value sets. -/
def writtenMask (fs : List Fld) : Nat := sumBy (fun f => if f.acc = .rw then (2 ^ f.w - 1) * 2 ^ f.lo else 0) fs

/-- Each register that an overlay names takes, whole, the value that the base list, or reset, gives it (14 R625; DEDUCED, log entry 60).
INOC_CTL, whose reset value has no point armed, is disarmed. -/
def State.restoreEnts (s : State) (ps : List Nat) (es : List Nat) : State :=
  es.foldl (fun s e => (s.entDies e).foldl (fun s d => ps.foldl (fun s p => (entOffs e [p]).foldl (fun s o =>
    match regOf o with
    | none => s
    | some r =>
      let s := if o = oInocCtl then s.inocDisarm d else s
      s.maskWrite d o (writtenMask r.1.flds) (baseWord (recipeList s.recipeNow 0) d o p (resetWord r.1.flds).toNat)) s) s) s) s

/-- Entries of mode m of the recipe in force. -/
def State.modeList (s : State) (m : Nat) : List Nat := recipeList s.recipeNow (m + 1)

/-- Partition p's overlay becomes mode m (14 R625). -/
def State.setMode (s : State) (p m : Nat) : State :=
  let s := s.restoreEnts [p] (s.modeList (s.partRec p).mode)
  let s := s.applyEnts [p] (s.modeList m)
  s.putPart p { s.partRec p with mode := m }

def allParts : List Nat := List.range 8

/-- The stored recipe is in force when it passes its checks (14 R623). -/
def State.loadStored (s : State) : State := { s with recipeNow := if recipeFail s.recipe = none then s.recipe else [] }

/-- At POR, MOD and WRM: the base list to every die, then the training overlay to every partition; the base list alone in the failed
state (14 R623). -/
def State.applyStored (s : State) : State :=
  let s := s.loadStored
  let s := s.applyEnts allParts (recipeList s.recipeNow 0)
  if s.failed then s else s.applyEnts allParts (s.modeList 0)

/-- At a PRT of partition p: the stored recipe's base entries with PERPART = 1, then its training overlay (14 R623, 17 R726). -/
def State.applyPrt (s : State) (p : Nat) : State :=
  let b := if recipeFail s.recipe = none then s.recipe else []
  let s := s.applyEnts [p] ((recipeList b 0).filter ePERPART)
  let s := if s.failed then s else s.applyEnts [p] (recipeList b 1)
  s.putPart p { s.partRec p with mode := 0 }

/-! ## OVERLAY (14 R625, R626) -/

/-- Points that nothing permits any more are disarmed (15 R659). -/
def State.disarmCovered (s : State) : State :=
  (List.range s.nDies).foldl (fun s d =>
    if s.rf d oInocCtl inocCtlArm = 1 ∧ ! s.inocMay d (s.rf d oInocCtl inocCtlPoint) (s.rf d oInocCtl inocCtlInst) then s.inocDisarm d else s) s

/-- The diagnostic overlay is applied, or removed. -/
def State.setDiag (s : State) (off : Bool) : State :=
  let s := if s.diag then { s.restoreEnts [0] (s.modeList 3) with diag := false } else s
  if off then s.disarmCovered else ({ s with diag := true }.applyEnts [0] (s.modeList 3))

/-- OVERLAY. -/
def execOverlay (f : Nat) (s : State) : Host.Outcome State Fault Refusal :=
  hostRow 0x41 f s (fun p s =>
    let m := p.n 16 1
    if 3 < m then s.endCmd f 0x20 0 0
    else if m < 3 then (s.setMode p.part m).endCmd f 0 0 0
    else if ! (s.jobsOf (fun _ => true)).isEmpty then s.endCmd f 0x34 0 0
    else (s.setDiag (bit (p.n 17 1) 0)).endCmd f 0 0 0)

/-! ## RECIPE_LOAD (14 R624) -/

def rlPersist (p : Pkt) : Bool := bit (p.n 40 1) 0
def rlApply (p : Pkt) : Bool := bit (p.n 40 1) 1

/-- RECIPE_LOAD is checked and accepted. -/
def execRecipeLoad (f : Nat) (s : State) : Host.Outcome State Fault Refusal :=
  hostRow 0x40 f s (fun p s =>
    match recipeFail p.block with
    | some e => s.endCmd f e 0 0
    | none =>
      if p.n 32 8 % 8 ≠ 0 then s.endCmd f 0x19 0 0
      else if rlApply p ∧ ! (s.jobsOf (fun _ => true)).isEmpty then s.endCmd f 0x34 0 0
      else s.runLong f p (p.n 32 8) (recipeFirst p.block 5) (if rlApply p then 0 else recipeFirst p.block 5))

/-- The recipe of a block comes into force: the base list to every die, then each partition's current overlay. -/
def State.applyLoaded (s : State) (b : List Byte) : State :=
  let s := { s with recipeNow := b }
  let s := s.applyEnts allParts (recipeList b 0)
  allParts.foldl (fun s p => s.applyEnts [p] (s.modeList (s.partRec p).mode)) s

/-- How far a RECIPE_LOAD has come is kept in the first byte of `buf`: 0 not begun, 1 its store waits or runs, 2 deferred, 3 stored. -/
def Long.stage (l : Long) : Nat := (l.buf.headD 0).toNat

/-- Another function's short command is in progress (14 R599). -/
def State.othersBusy (s : State) (f : Nat) : Bool := s.fns.any (fun (e : Nat × Fn) => decide (e.1 ≠ f) && decide (e.2.stage = 1))

/-- A RECIPE_LOAD goes on: between other functions' short commands it applies and asks for the store, and it ends once the store has ended
or been deferred. -/
def State.recipeEnd (s : State) (f : Nat) (l : Long) : State :=
  let p := l.pkt
  let fin (s : State) (e : Nat) : State := s.endLong f (l.finish e 0 l.total)
  match l.stage with
  | 0 =>
    if s.othersBusy f then s else
    if rlApply p ∧ ! (s.jobsOf (fun _ => true)).isEmpty then fin s 0x34 else
    let s := if rlApply p then s.applyLoaded p.block else s
    if rlPersist p then
      { s.putLong f { l with state := 2, buf := [1], valid := l.total } with
        commitWait := enq s.commitWait { kind := 1, data := p.block, fn := f, seq := p.seq } }
    else fin s 0
  | 1 => s
  | 2 => fin s 4
  | _ => fin s 0

/-- The store of function f's RECIPE_LOAD reaches stage n. -/
def State.recipeStage (s : State) (f seq n : Nat) : State :=
  let x := s.fn f
  s.putFn f { x with longs := x.longs.map (fun l => if l.pkt.opc = 0x40 ∧ l.pkt.seq = seq ∧ l.stage = 1 then { l with buf := [BitVec.ofNat 8 n] } else l) }

end Sys2Proof.Machine
end

