-- ==== Sys2Proof/Machine/Resets.lean ====
section
/-!
DEFINITION. Sys2Proof/Machine/Resets.lean: the five reset kinds, function-level resets and the start of the module
(17_reset_power_clocks.md R720–R726, 16_security.md R675, R676, R696, R697, 14 R585, R600, 02 R101, R102).
-/
namespace Sys2Proof.Machine

/-! ## Units give up what they hold of a partition -/

/-- The data that a request waits for arrives: of the host's memory as it stands; of another module free bytes (DESIGN CHOICE, log entry
113). -/
def arrivePieces : State → List Piece → List Piece × State
  | s, [] => ([], s)
  | s, p :: ps =>
    let n := if p.wait = 2 then p.n else 0
    let data := if p.wait = 1 then s.peeks .host p.addr p.n else freeBytes s.freeCtr p.n
    let t := arrivePieces { s with freeCtr := s.freeCtr + n } ps
    ((if p.wait = 1 ∨ p.wait = 2 then { p with wait := 3, data := data, pz := List.replicate p.n false } else p) :: t.1, t.2)

/-- Its remote destinations acknowledge. -/
def Req.acked (q : Req) : Req := { q with dst := q.dst.map (fun x => if x.kind = 2 then { x with sent := 2 } else x) }

/-- The issued request of an id gets what it waits for, and completes. -/
def State.drainReq (s : State) (d qu id : Nat) : State :=
  match (s.rackq d qu).outs.find? (fun q => q.id = id) with
  | none => s
  | some q =>
    let t := arrivePieces s q.src
    let q := { q with src := t.1 }
    let s := (t.2.putRackq d qu ((t.2.rackq d qu).setOut q)).pushRemote d qu q
    let s := if q.what = 2 then s.sumUnit d qu q.unit else s
    match (s.rackq d qu).outs.find? (fun q => q.id = id) with
    | none => s
    | some q =>
      let s := s.putRackq d qu ((s.rackq d qu).setOut q.acked)
      match (s.rackq d qu).outs.findIdx? (fun q => q.id = id) with
      | none => s
      | some k => s.rackComplete d qu k

/-- Issued requests of partition p in a queue complete, oldest first; `n` rounds, since a unit's sum and a turning block wait for all of
their requests (09 R390, R391). -/
def drainQ (d qu p : Nat) : Nat → State → State
  | 0, s => s
  | n + 1, s =>
    let ids := ((s.rackq d qu).outs.filter (fun q => q.part = p)).map (fun q => q.id)
    if ids = [] then s else drainQ d qu p n (ids.foldl (fun s id => s.drainReq d qu id) s)

/-- Nothing of partition p is left in a queue. -/
def State.purgeQ (s : State) (d qu p : Nat) : State :=
  let s := drainQ d qu p 3 s
  let x := s.rackq d qu
  s.putRackq d qu { x with
    ins := x.ins.filter (fun i => decide (i.part ≠ p)), tins := x.tins.filter (fun i => decide (i.part ≠ p)),
    twr := x.twr.filter (fun q => decide (q.part ≠ p)), outs := x.outs.filter (fun q => decide (q.part ≠ p)),
    trkWait := if x.trkPart = p then 0 else x.trkWait,
    budget := if qu ≠ 256 ∧ s.rf d (oRkQcfg qu) rkQcfgPart = p then 0 else x.budget }

/-- The racking engine, the tun and the kettle of every die hold nothing of partition p (09 R390, 11 R495). -/
def State.purgePart (s : State) (p : Nat) : State :=
  let s := (s.jobsOf (fun q => decide (q = p))).foldl (fun s (e : Nat × JobRec) =>
    (List.range s.nDies).foldl (fun s d => s.rackAbort d e.1) s) s
  let s := (List.range s.nDies).foldl (fun s d => (s.rackqsOf d).foldl (fun s (e : Nat × RackQ) => s.purgeQ d e.1 p) s) s
  { s with
    tslots := s.tslots.filter (fun (e : Nat × TSlot) => decide (e.1 / 64 % 8 ≠ p)),
    tunq := s.tunq.filter (fun x => decide (x.part ≠ p)),
    tunOwn := s.tunOwn.filter (fun (e : Nat × Nat) => decide ((e.2 - 1) / 64 ≠ p)),
    accq := s.accq.filterMap (fun (e : Nat × List (Nat × Nat)) =>
      let l := e.2.filter (fun t => (s.rackq (e.1 / 4) t.1).outs.any (fun q => q.unit = t.2))
      if l = [] then none else some (e.1, l)),
    kcores := s.kcores.filterMap (fun (e : Nat × KCore) =>
      let x : KCore := { e.2 with pend := e.2.pend.filter (fun g => decide (g.part ≠ p)) }
      if x = kcoreDefault e.1 then none else some (e.1, x)) }

/-- Every job of the partitions for which k holds ends with a cause (14 R613), the units first giving up what they hold. -/
def State.stopJobs (s : State) (k : Nat → Bool) (cause : Nat) : State :=
  let tags := (s.jobsOf k).map (fun (e : Nat × JobRec) => e.1)
  let s := tags.foldl (fun s t => s.beginEnd 0 t cause 0 0 none s.modNum 0 0) s
  let s := ((List.range 8).filter k).foldl (fun s p => s.purgePart p) s
  tags.foldl (fun s t => s.finishJob t) s

/-! ## Partition reset (16 R696) -/

/-- Byte o of region number n belongs to partition p (16 R684, R685). -/
def State.ofPart (s : State) (p n o : Nat) : Bool :=
  if n = 0 then false
  else if n < 16 then s.granted 0 p 3 (n - 1) (o / 2 ^ 21) (o / 2 ^ 21)
  else if n < 32 then
    let d := n - 16
    let a := (o / 4096 * s.nDies + d) * 4096
    s.granted 0 p 5 d (o / 2 ^ 30) (o / 2 ^ 30) || s.granted 0 p 4 0 (a / 2 ^ 30) (a / 2 ^ 30)
  else if n < 48 then s.ctxWindow (n - 32) p o 1
  else if n < 64 then s.granted 0 p 8 (n - 48) (o / 2048) (o / 2048)
  else
    let d := if n < 320 then (n - 64) / 16 else if n < 576 then (n - 320) / 16 else (n - 576) / 32
    s.granted 0 p 1 d 0 0

/-- Register instances that belong to partition p (19 R771, 16 R696); of a queue and of THR_JOB it is the partition in PART (09 "Registers",
10 R446). -/
def State.regOfPart (s : State) (p d : Nat) (r : RegInfo) (i j : Nat) : Bool := match r.cls with
  | .secret => s.granted 0 p 0xE 0 i i
  | .module =>
    if r.off = 0x20000 then s.granted 0 p 1 d 0 0
    else if r.off = 0x140200 then s.granted 0 p 0xC 0 (16 * (3 * d + i) + j) (16 * (3 * d + i) + j)
    else false
  | .ident => false
  | .function => false
  | _ =>
    if r.off = 0x50000 ∨ r.off = 0x51000 then s.rf d (oRkQcfg i) rkQcfgPart = p
    else if r.off = 0x30000 then s.rf d (oThrJob i) thrJobPart = p
    else s.classWindow 0 p d r i

/-- Partition p holds the sparge ring of die d. -/
def State.ringOf (s : State) (p d : Nat) : Bool := s.granted 0 p 1 d 0 0

/-- Memories, rings, contexts, ledgers, slots, cores and hydrometers of partition p are as after a scrub (16 R696, 02 R102). -/
def State.scrubPart (s : State) (p : Nat) : State :=
  let s0 := s
  let led (k : Nat) : Bool := s0.granted 0 p 0xA (k / 256) (k % 256) (k % 256)
  let s := s.zeroWhere (fun n o => s0.ofPart p n o)
  let s := { s with
    vats := s.vats.filter (fun (e : Nat × Vat) => ! s0.ringOf p (e.1 / 16)),
    rings := s.rings.filter (fun (e : Nat × Ring) => ! s0.ringOf p e.1),
    ctxs := s.ctxs.filter (fun (e : Nat × Ctx) => ! s0.ctxGranted (e.1 / 25600) p (e.1 % 25600)),
    nextInjDie := if (List.range s.nDies).any (s0.ringOf p) then none else s.nextInjDie,
    ledNew := s.ledNew.filter (fun (e : Nat × Bool) => ! led e.1),
    specRows := s.specRows.filter (fun (e : Nat × List (Nat × Nat)) => ! led e.1),
    hyd := s.hyd.filter (fun (e : Nat × HydSet) => decide (e.1 / 64 % 8 ≠ p)) }
  (List.range (4 * s.nDies)).foldl (fun s k => if s0.granted 0 p 2 (k / 4) (k % 4) (k % 4) then s.zeroCore (k / 4) (k % 4) else s) s

/-- Registers of partition p are reset (19 R759, R763). -/
def State.resetPartRegs (s : State) (p : Nat) : State := s.restore kPRT (fun d r i j => s.regOfPart p d r i j)

/-- A new cellar key for partition p (16 R695). -/
def State.newCellarKey (s : State) (p : Nat) : State :=
  ({ s with keyCtr := s.keyCtr + 1 }).putPart p { s.partRec p with cellar := s.keyCtr + 1 }

/-- Number of the cellar key that byte o of die d's stack is encrypted under: of the partition that holds it, else the firmware's (16 R695). -/
def State.cellarKey (s : State) (d o : Nat) : Nat :=
  match (List.range 8).find? (fun p => s.ofPart p (16 + d) o) with
  | some p => (s.partRec p).cellar
  | none => s.fwKey

/-- The XTS tweak of a sack: stack number, then byte [36:6] of the stack (16 R695). -/
def xtsTweak (d o : Nat) : BitVec 128 := BitVec.ofNat 128 (d % 8 + bits o 6 31 * 8)

/-- What the stack bus of die d carries of the sack at o: ciphertext (16 R695). The memory of the model holds the plaintext, which a
partial write merges, and every range is zero-written when its key changes. -/
def State.stackBus (s : State) (d o : Nat) : List Byte :=
  Config.xts (Config.drbg (s.cellarKey d o)) (xtsTweak d o) (s.peeks (.cellar d) (o / 64 * 64) 64)

/-- Messages of partition p that wait for a new key are dropped. -/
def State.dropStoppedPart (s : State) (p : Nat) : State :=
  { s with ports := s.ports.map (fun (e : Nat × Port) =>
      (e.1, { e.2 with stopped := e.2.stopped.filter (fun w => ! s.granted 0 p 0xC 0 (16 * e.1 + w.1) (16 * e.1 + w.1)) })) }

/-- Key slots of partition p are zeroed, and its channel groups send in plaintext. -/
def State.dropKeys (s : State) (p : Nat) : State :=
  { s with keys := s.keys.filter (fun (e : Nat × Option (BitVec 256)) => ! s.granted 0 p 0xD 0 e.1 e.1) }

/-- PRT of partition p, whatever its state (16 R696, 17 R724, R726; DEDUCED, log entry 52). -/
def State.prt (s : State) (p : Nat) : State :=
  let s := s.cancelAll (fun k => decide (k.part = p)) true
  let s := s.stopJobs (fun q => decide (q = p)) 0xB
  let s := (s.releaseSlots (fun t => s.granted 0 p 0xE 0 t t)).dropStoppedPart p
  let s := ((s.scrubPart p).dropKeys p).resetPartRegs p
  let s := s.wf 0 (oPartStat p) partStatState 1
  let s := (s.putPart p { mode := (s.partRec p).mode, cellar := (s.partRec p).cellar }).newCellarKey p
  (s.applyPrt p).disarmCovered

/-! ## Warm reset (17 R723, 16 R697) -/

/-- PWR_CTL.PLIM of the variant (18 R735). -/
def State.plimReset (s : State) : State := s.wf 0 oPwrCtl pwrCtlPlim s.plimBounds.2

/-- Byte o of region number n is zero-written by WRM: all but the host's memory and the granary ranges no partition holds. -/
def State.wrmZero (s : State) (n o : Nat) : Bool :=
  decide (n ≠ 0) && (decide (16 ≤ n) || (List.range 8).any (fun p => s.ofPart p n o))

/-- Short commands that wait for a fence end CANCELLED, and mailbox requests are dropped (DEDUCED, log entry 61). -/
def State.dropWaiting (s : State) : State :=
  let s := (List.range 9).foldl (fun s f =>
    if (s.fn f).stage = 1 then s.endCmd f 2 0 0 else s) s
  (List.range 9).foldl (fun s f => s.putFn f { s.fn f with doe := none }) s

/-- The units of every die as a reset of the whole module leaves them; withdrawn kettle cores stay so when `keep` holds. -/
def State.clearUnits (s : State) (keep : Bool) : State :=
  { s with
    ctxs := [], vats := [], rings := [], hyd := [], reports := [], bondReports := [], inocLeft := [], backs := [], rackqs := [],
    tunOwn := [], ledNew := [], specRows := [], abortRk := [], abortTun := [], drainRk := [], drainTun := [], accq := [], tslots := [],
    tunq := [], jobs := [], slotOwn := [], slotHeld := [], longTag := none, nextInjDie := none, ceSeen := [],
    kcores := s.kcores.filterMap (fun (e : Nat × KCore) => if keep ∧ e.2.out then some (e.1, { out := true }) else none),
    grants := [], grantsNew := [], changes := [], fenceRun := [], fenceOld := [], keys := [], parts := [], sessions := [], diag := false }

/-- WRM (17 R723). -/
def State.wrm (s : State) : State :=
  let s := s.cancelAll (fun _ => true) true
  let s := s.stopJobs (fun _ => true) 0xB
  let s := s.dropWaiting
  let s0 := s
  let s := s.zeroWhere (fun n o => s0.wrmZero n o)
  let s := { s.clearUnits true with ports := s.ports.map (fun (e : Nat × Port) => (e.1, { e.2 with stopped := [] })) }
  let s := { s.restore kWRM (fun _ _ _ _ => true) with keyCtr := s.keyCtr + 1, fwKey := s.keyCtr + 1 }.plimReset
  let s := (List.range s.nDies).foldl (fun s d => (List.range 5).foldl (fun s t => s.wf d (oSlotCtl t) slotCtlSwap 1) s) s
  s.applyStored.levelSet

/-- A reset absorbs the RESET commands of the kinds lo and above that other functions have taken and not yet run: they end with no reply
(00 R19, 14 R600). f is the function whose command it is, 9 for none. -/
def State.absorb (s : State) (lo f : Nat) : State :=
  (List.range 9).foldl (fun s g =>
    match (s.fn g).cur with
    | none => s
    | some p => if g ≠ f ∧ p.opc = 5 ∧ (s.fn g).stage = 0 ∧ lo ≤ p.n 16 1 then s.putFn g { s.fn g with cur := none } else s) s

/-- The module takes resets. -/
def State.awake (s : State) : Bool := s.phase = 0

def execWarmReset (s : State) : Host.Outcome State Fault Refusal := .next (if s.awake then (s.absorb 2 9).wrm else s)

/-- A reset of kind k, of function f or of none (9), is absorbed: another function has taken a RESET of an earlier kind that it has not yet run (00
R19). -/
def State.outranked (s : State) (k f : Nat) : Bool :=
  (List.range 9).any (fun g => decide (g ≠ f) && (match (s.fn g).cur with
    | none => false
    | some p => p.opc = 5 && (s.fn g).stage = 0 && decide (p.n 16 1 < k) && (p.n 16 1 = 2 || (p.n 16 1 = 3 && decide (p.n 17 1 < 8)))))

def execPartitionReset (p : Nat) (s : State) : Host.Outcome State Fault Refusal :=
  if p < 8 then .next (if s.awake ∧ ! s.outranked 3 9 then (s.absorb 4 9).prt p else s) else .fault .absentUnit

/-! ## Island reset (17 R725, 02 R101) -/

/-- Contexts lo .. lo + n − 1 of die d are written FREE. -/
def State.freeCtxs (s : State) (d lo n : Nat) : State :=
  freeAll s ((s.ctxs.filter (fun (e : Nat × Ctx) => decide (e.1 / 25600 = d) && decide (lo ≤ e.1 % 25600) && decide (e.1 % 25600 < lo + n))).map
    (fun e => (d, e.1 % 25600)))

/-- The links of the ring spine around vat v of die d start afresh (02 R101). -/
def State.islLinks (s : State) (d v : Nat) : State :=
  let long := (s.ring d).long
  let s := if v = 0 then s.putRing d { s.ring d with inj := none, injNext := 0, injCred := 32, injTransit := 0 }
    else s.putVat d (v - 1) { s.vat d (v - 1) with outCred := 32, credTransit := 0 }
  let s := if v < 15 then s.putVat d (v + 1) { s.vat d (v + 1) with inq := [] } else s
  if ! long ∨ (v ≠ 0 ∧ v ≠ 15) then s else
  -- the link that leaves V15 of die e: its send buffer, the bridge, and the landing buffer of the die after it
  let e := if v = 15 then d else s.prevDie d
  let n := s.nextDie e
  let s := s.putRing e { s.ring e with send := [], sendCred := 512, sendTransit := 0, wire := [], landCred := 256, landTransit := 0 }
  let s := s.putRing n { s.ring n with landing := [], injCred := 32, injTransit := 0 }
  s.putVat n 0 { s.vat n 0 with inq := [] }

/-- ISL of vat v of die d. -/
def State.islVat (s : State) (d v : Nat) : State :=
  let s := s.islLinks d v
  let x := s.vat d v
  let s := s.putVat d v { tallyEnt := x.tallyEnt, undef0 := x.undef0, undef1 := x.undef1, wrote0 := x.wrote0, wrote1 := x.wrote1,
                          seq := x.seq }
  let s := s.freeCtxs d (1024 * v) 1024
  s.restore kISL (fun e r i _ => decide (e = d) && decide (r.isl = Isl.vat) && decide (i = v))

/-- ISL of kettle core k of die d. -/
def State.islKettle (s : State) (d k : Nat) : State :=
  let s := (s.zeroCore d k).putAcc d k []
  let s := s.freeCtxs d (16384 + 1024 * k) 1024
  s.restore kISL (fun e r i _ => e = d && r.off = 0x40000 && i = k)

/-- ISL of the link island of port i of die d. -/
def State.islLink (s : State) (d i : Nat) : State :=
  let s := (s.bothTo d i lDOWN).portDown d i
  (s.restore kISL (fun e r k _ => decide (e = d) && decide (r.isl = Isl.link) && decide (k = i))).startTrain d i

/-- Island i of die d may be reset by ISL (17 R707). -/
def islOk (i : Nat) : Bool := decide (i < 16) || (decide (18 ≤ i) && decide (i < 22)) || (decide (23 ≤ i) && decide (i < 26))

/-- ISL. A resting island wakes first; a dormant die's powered-off islands are fresh already (17 R720). -/
def State.isl (s : State) (d i : Nat) : State :=
  let s := s.unrest d i
  if i < 16 then s.islVat d i else if i < 22 then s.islKettle d (i - 18) else s.islLink d (i - 23)

def execIslandReset (d i : Nat) (s : State) : Host.Outcome State Fault Refusal :=
  if ! s.hasDie d then .fault .absentUnit else .next (if s.awake ∧ islOk i ∧ ! s.outranked 4 9 then s.isl d i else s)

/-! ## RESET (14 R602–R604, 17 R725) -/

/-- A job's footprint holds die d. -/
def State.dieInJob (s : State) (d : Nat) : Bool := (s.jobsOf (fun _ => true)).any (fun (e : Nat × JobRec) => bit e.2.mask d)

def execReset (f : Nat) (s : State) : Host.Outcome State Fault Refusal :=
  hostRow 5 f s (fun p s =>
    let k := p.n 16 1
    if k = 2 then (s.absorb 2 f).wrm.endCmd f 0 0 0
    else if k = 3 then (if 7 < p.n 17 1 then s.endCmd f 0x20 0 0 else if s.outranked 3 f then s.putFn f { s.fn f with cur := none } else ((s.absorb 4 f).prt (p.n 17 1)).endCmd f 0 0 0)
    else
      let d := p.n 18 1
      let i := p.n 19 1
      if ! s.hasDie d ∨ ! islOk i then s.endCmd f 0x20 0 0
      else if s.dieInJob d then s.endCmd f 0x34 0 0
      else if s.outranked 4 f then s.putFn f { s.fn f with cur := none }
      else (s.isl d i).endCmd f 0 0 0)

/-! ## PCIe resets (14 R585, R600) -/

/-- The ring of function f is cleared, with its event queue. -/
def State.flrRing (s : State) (f : Nat) : State :=
  let s := s.putFn f {}
  s.restore kFLR (fun _ r i _ => r.cls = .function && i = f)

def execPcieHotReset (s : State) : Host.Outcome State Fault Refusal := .next (if s.awake then (s.absorb 2 9).wrm else s)

def execFlrPf (s : State) : Host.Outcome State Fault Refusal := .next (if s.awake then (s.absorb 2 9).wrm.flrRing 0 else s)

def execFlrVf (p : Nat) (s : State) : Host.Outcome State Fault Refusal :=
  if p < 8 then .next (if s.awake ∧ s.exposed (p + 1) then
    (if s.outranked 3 (p + 1) then s else (s.absorb 4 9).prt p).flrRing (p + 1) else s) else .fault .absentUnit

/-! ## MOD and POR (17 R721, R722, R726) -/

/-- What the sensors measure is not reset: input, hold-up, die telemetry (16 R706, 17 R732, R733). -/
def State.keepMeasured (s t : State) : State :=
  let t := t.wfs 0 oHuStat [(huStatEnergy, s.rf 0 oHuStat huStatEnergy), (huStatPgood, s.rf 0 oHuStat huStatPgood)]
  let t := t.wfs 0 oPwrIn [(pwrInVin, s.rf 0 oPwrIn pwrInVin), (pwrInIin, s.rf 0 oPwrIn pwrInIin), (pwrInPin, s.rf 0 oPwrIn pwrInPin)]
  (List.range s.nDies).foldl (fun t d => t.wfs d oPwrTel ([pwrTelPdie, pwrTelPstk, pwrTelTj, pwrTelTstk].map (fun f => (f, s.rf d oPwrTel f)))) t

/-- Ports after MOD: nothing but the cables and what their trainings taught is left. -/
def modPorts (m : SMap Port) : SMap Port :=
  m.filterMap (fun (e : Nat × Port) => if e.2.cable then some (e.1, { cable := true }) else none)

/-- The module held in MOD reset: every register and memory as MOD leaves it (17 R722, R726). A recipe commit that it cuts short leaves data
whose CRC is not yet there (16 R698). -/
def State.modHeld (s : State) (kind : Nat) : State :=
  let t := s.zeroWhere (fun n _ => decide (n ≠ 0))
  let t := t.clearUnits false
  let t := { t with regs := resetRegs kind (fun _ _ _ _ => true) s.regs, caps := [], stages := [], marks := [], keyCtr := s.keyCtr + 1, fwKey := s.keyCtr + 1 }
  let t := { t with
    recipes := match s.commitRun with
      | none => s.recipes
      | some c => if c.kind = 1 then (c.data, Config.freeValue s.freeCtr % 2 ^ 32) :: s.recipes else s.recipes,
    fns := [], errLog := [], errIndex := 0, ceSeen := [], commitWait := [], commitRun := none, deferred := [], pcieUp := false,
    aliasKey := 0, certs := [], modNum := 0xFFFF, ports := modPorts s.ports, seen := [], abortSerial := 0, dieHbAge := [], lostDies := 0, failed := false,
    cplValue := 0, bmrs := [], recipeNow := [], levels := [], calm := [], dieLevel := [], phase := 2, answered := 0, rackSeq := 0,
    nextRid := 1, nextSess := 1, flashExt := false, flashWait := false }
  s.keepMeasured t.plimReset

/-- BMR := SHA-384(BMR || digest) (16 R676). -/
def State.bmrExtend (s : State) (k : Nat) (dg : List Byte) : State :=
  let z (_ : Nat) : BitVec 384 := 0
  { s with bmrs := mset z s.bmrs k (measured (mget z s.bmrs k) dg) }

/-- The ROM derives the alias key from the identity key and BMR0 to BMR3, and its certificate (16 R679). -/
def State.dice (s : State) : State :=
  let k := aliasOf ((List.range 4).map (mget (fun _ => 0) s.bmrs))
  { s with aliasKey := k, certs := certsOf k }

/-- The newest recipe commit whose CRC is good (16 R698); of a flash with none, the recipe it came with. -/
def State.bootRecipe (s : State) : List Byte :=
  match s.recipes.find? (fun t => decide (crc32c t.1 = t.2)) with
  | some t => t.1
  | none => if s.flashGen = 0 then shippedRecipe else Config.flashRecipe s.flashGen

/-- The image that the dies run of image k, with the flash and the fuses as they are. -/
def State.image (s : State) (k : Nat) : Option (List Byte) := bootImage s.flashGen s.fuseSvn k

/-- The boot ROMs run: copies, dies that answer, measurements, fuses (16 R675, R676, R678, R700). Every die reads the same flash through D0;
one without a valid copy of an image fails its self-test. The unlock token counts at POR alone. -/
def State.boot (s : State) : State :=
  let n := s.freeCtr
  let s := s.tick
  let life := s.rf 0 oBondStat bondStatLife
  let fsvn := s.fuseSvn
  let img := s.image
  let ks := List.replicate s.nDies 1 ++ [2, 3]
  let b := [1, 2, 3].any (fun k => decide (bootCopy s.flashGen fsvn k = some 1))
  let s := s.wfs 0 oBondStat [(bondStatFsvn, fsvn), (bondStatImgsel, if b then 2 ^ s.nDies - 1 else 0)]
  let s := s.bmrExtend 0 (romMeasure fsvn life)
  let s := (imageMeasures s.nDies (img 1)).foldl (fun s dg => s.bmrExtend 1 dg) s
  let s := (imageMeasures 1 (img 2)).foldl (fun s dg => s.bmrExtend 2 dg) s
  let s := ((imageMeasures 1 (img 3)).foldl (fun s dg => s.bmrExtend 3 dg) s).dice
  let s := if life = 1 then s.bmrExtend 5 (digBytes (Config.tokenDigest n)) else s
  let ask := (((ks.filterMap img).filter Config.asksSvn).map (fun b => Config.imageSvn b % 256)).foldl max 0
  let s := if fsvn < ask then { s with commitWait := enq s.commitWait { kind := 2, seq := ask, data := List.replicate (ask - fsvn) 0 } } else s
  { s with phase := 1, imgSvns := (ks.filterMap img).map (fun b => Config.imageSvn b % 256), recipe := s.bootRecipe,
           answered := sumBy (fun d => if Config.selfTest n d && [1, 2, 3].all (fun k => (img k).isSome) then 2 ^ d else 0)
             (List.range s.nDies) }

/-- POWER_ON_RESET: the input rises within its limits; the module is then held in MOD reset. A latched trip waits for the input to be
removed (17 R715, 18 R740). -/
def State.por (s : State) : State :=
  if s.trip then s else
  let t := s.modHeld kPOR
  let t := t.wfs 0 oHuStat [(huStatEnergy, 9000), (huStatPgood, 1)]
  let t := t.wf 0 oBondStat bondStatLife (if Config.debugToken s.freeCtr then 1 else 0)
  { t.tick with time := 0, taps := [], porSeq := true }

def execPowerOnReset (s : State) : Host.Outcome State Fault Refusal := .next s.por

/-- PERST# or MODRST# is asserted, or both are released (18 R738, R745). -/
def State.modReset (s : State) (held : Bool) : State :=
  if s.phase = 3 then s else
  let life := s.rf 0 oBondStat bondStatLife
  let s := if s.phase = 2 then s else (s.modHeld kMOD).wf 0 oBondStat bondStatLife life
  if held then { s with flashWait := false } else
  if s.flashExt then { s with flashWait := true } else s.boot

def execModuleReset (held : Bool) (s : State) : Host.Outcome State Fault Refusal := .next (s.modReset held)

/-- SELF_TEST_DEADLINE: 78 ms after the release; a die that has not reported fails the module. Then the stored recipe is applied and
measured, and the endpoint leaves its hold (01 R46, 17 R722). -/
def State.startEnd (s : State) : State :=
  if s.phase ≠ 1 then s else
  let bad := decide (s.answered ≠ 2 ^ s.nDies - 1)
  let s := { s with phase := 0, porSeq := false, failed := bad, pcieUp := true, smbAlert := s.smbAlert || bad, lostDies := 2 ^ s.nDies - 1 - s.answered }
  let s := (if bad then s.moduleState else s).applyStored
  s.bmrExtend 4 (if s.recipeNow = [] then List.replicate 48 0 else digest s.recipeNow)

def execSelfTestDeadline (s : State) : Host.Outcome State Fault Refusal := .next s.startEnd

end Sys2Proof.Machine
end

