-- ==== Sys2Proof/Machine/Mgmt.lean ====
section
/-!
DEFINITION. Sys2Proof/Machine/Mgmt.lean: SMBus block reads, the firmware flash port and the test access port (18_module_hardware.md
R743–R746).
-/
namespace Sys2Proof.Machine

/-! ## SMBus (18 R740, R743, R744) -/

/-- The management interfaces answer: the module has power and no trip is latched. -/
def State.managed (s : State) : Bool := decide (s.phase ≠ 3) && ! s.trip

/-- CRC-8 step of the packet error code: x⁸ + x² + x + 1, most significant bit first (PRESUMED: System Management Bus Specification, log entry 126). -/
def pecByte (c : Nat) (b : Byte) : Nat :=
  (List.range 8).foldl (fun c _ => if 128 ≤ c then (c * 2 % 256) ^^^ 7 else c * 2 % 256) (c ^^^ b.toNat)

/-- Packet error code of a block read of a command code, at the address 0x60 + SMADDR: address and write bit, code, address and read bit,
count, data. -/
def smbPecOf (code : Nat) (bs : List Byte) : Nat :=
  let a := 2 * (0x60 + Config.smAddr.toNat)
  ((toBytes 1 a ++ toBytes 1 code ++ toBytes 1 (a + 1) ++ toBytes 1 bs.length) ++ bs).foldl pecByte 0

/-- A block read of a code: the bytes returned; nothing while the interface does not answer. -/
def State.smbRead (s : State) (code : Nat) (bs : List Byte) : State :=
  if s.managed then { s with smb := bs, smbPec := smbPecOf code bs } else s

/-- ASCII of the ordering code (00 R1), padded to 16 bytes. -/
def orderCode (v : Variant) : List Byte :=
  let t : String := match v with
    | .qbm2 => "QBM2-160-LC"
    | .qbm4 => "QBM4-320-LC"
    | .qbm8 => "QBM8-640-LC"
  let b := t.toList.map (fun c => BitVec.ofNat 8 c.toNat)
  b ++ List.replicate (16 - b.length) 0

/-- Bytes of a register as a read finds them; SMBus clears nothing. -/
def State.liveBytes (s : State) (d o : Nat) : List Byte :=
  match regOf o with
  | none => []
  | some (r, i, j) => toBytes r.bytes (s.regLive d r i j).toNat

/-- Code 0x01. -/
def execSmbusIdentityRead (s : State) : Host.Outcome State Fault Refusal :=
  .next (s.smbRead 1 (orderCode s.variant ++ (List.range 16).map Config.serial ++ toBytes 4 Config.fwVersion.toNat ++ toBytes 4 s.rid))

/-- Module state: 0 starting, 1 normal, 2 failed. -/
def State.moduleCode (s : State) : Nat := if s.phase ≠ 0 then 0 else if s.failed then 2 else 1

/-- Code 0x02, which releases SMBALERT#. -/
def execSmbusStateRead (s : State) : Host.Outcome State Fault Refusal :=
  let b := toBytes 1 s.moduleCode ++ toBytes 2 s.modNum ++ toBytes 1 s.healthMask ++
    toBytes 1 (bits (s.reg 0 oPwrStat).toNat 8 8) ++ toBytes 1 (s.rf 0 oPwrStat pwrStatDorm) ++ toBytes 1 (s.rf 0 oPwrStat pwrStatSleep) ++ [0]
  .next (if s.managed then { s.smbRead 2 b with smbAlert := false } else s)

/-- Code 0x03. -/
def execSmbusPowerRead (s : State) : Host.Outcome State Fault Refusal := .next (s.smbRead 3 (s.liveBytes 0 oPwrIn))

/-- Code 0x04. -/
def execSmbusTelemetryRead (s : State) : Host.Outcome State Fault Refusal :=
  .next (s.smbRead 4 ((List.range s.nDies).flatMap (fun d => s.liveBytes d oPwrTel)))

/-- Code 0x05. -/
def execSmbusHoldupRead (s : State) : Host.Outcome State Fault Refusal := .next (s.smbRead 5 (s.liveBytes 0 oHuStat))

/-! ## The flash port (18 R745) -/

/-- The dies release the flash: what it holds from now on, images and recipe, is what the outside wrote (DESIGN CHOICE, log entry 58). -/
def State.flashOut (s : State) : State := { s with flashExt := true, flashGen := s.flashGen + 1, recipes := [] }

/-- FLASH_EXT: the pin is sampled while the module is held in MOD reset; its rise ends a release that waited. -/
def execFlashExt (low : Bool) (s : State) : Host.Outcome State Fault Refusal :=
  .next (if s.phase ≠ 2 then s
    else if low then s.flashOut
    else if s.flashWait then { s with flashExt := false, flashWait := false }.boot
    else { s with flashExt := false })

/-! ## The test access port (18 R740, R746) -/

/-- A port holds IDCODE until an instruction is loaded (DESIGN CHOICE, log entry 3). -/
def tapDefault (_ : Nat) : Nat × Nat := (0x02, 0)

/-- Instruction code and boundary register of die d's port. -/
def State.tap (s : State) (d : Nat) : Nat × Nat := mget tapDefault s.taps d

/-- The instruction that is in effect: one that drives pins acts as BYPASS unless the module is held in MOD reset, and so does a reserved code. -/
def State.tapCode (s : State) (d : Nat) : Nat :=
  let c := (s.tap d).1
  if c = 1 ∨ c = 2 then c else if c ≤ 6 ∧ s.phase = 2 then c else 0xFF

/-- Boundary pins of die d are driven from its boundary register (EXTEST, CLAMP and the two AC tests), and they float (HIGHZ). -/
def State.pinsDriven (s : State) (d : Nat) : Bool := [0x00, 0x03, 0x05, 0x06].contains (s.tapCode d)
def State.pinsFloat (s : State) (d : Nat) : Bool := s.tapCode d = 0x04

/-- The data register that the instruction in effect selects: the identification code, the boundary register, or the one bit of BYPASS. -/
def State.tapData (s : State) (d : Nat) : Nat :=
  match s.tapCode d with
  | 0x02 => idcode d
  | 0x00 => (s.tap d).2
  | 0x01 => (s.tap d).2
  | 0x05 => (s.tap d).2
  | 0x06 => (s.tap d).2
  | _ => 0

/-- An instruction takes effect in die d's port. -/
def State.tapSet (s : State) (d code v : Nat) : State :=
  if s.managed then { s with taps := mset tapDefault s.taps d (code, v) } else s

/-- A row of the port. -/
def tapRow (d : Nat) (s : State) (code v : Nat) : Host.Outcome State Fault Refusal :=
  if s.hasDie d then .next (s.tapSet d code v) else .fault .absentUnit

/-- The data registers from TDI to TDO: D0's first, each die's TDO feeding the next (18 R746). -/
def State.tapChain (s : State) : List Nat := (List.range s.nDies).map s.tapData

def execExtest (d : Nat) (s : State) : Host.Outcome State Fault Refusal := tapRow d s 0x00 (s.tap d).2

/-- SAMPLE/PRELOAD with the value that the boundary register then holds. -/
def execSamplePreload (d v : Nat) (s : State) : Host.Outcome State Fault Refusal := tapRow d s 0x01 v

def execIdcode (d : Nat) (s : State) : Host.Outcome State Fault Refusal := tapRow d s 0x02 (s.tap d).2

def execClamp (d : Nat) (s : State) : Host.Outcome State Fault Refusal := tapRow d s 0x03 (s.tap d).2

def execHighz (d : Nat) (s : State) : Host.Outcome State Fault Refusal := tapRow d s 0x04 (s.tap d).2

def execExtestPulse (d : Nat) (s : State) : Host.Outcome State Fault Refusal := tapRow d s 0x05 (s.tap d).2

def execExtestTrain (d : Nat) (s : State) : Host.Outcome State Fault Refusal := tapRow d s 0x06 (s.tap d).2

def execBypass (d : Nat) (s : State) : Host.Outcome State Fault Refusal := tapRow d s 0xFF (s.tap d).2

end Sys2Proof.Machine
end

