-- ==== Sys2Proof/Machine/Power.lean ====
section
/-!
DEFINITION. Sys2Proof/Machine/Power.lean: non-volatile commits, telemetry, throttling, trips, the input, rest, dormancy and module sleep
(16_security.md R698–R700, 17_reset_power_clocks.md R711–R720, R728, 18_module_hardware.md R735, R739–R742).
-/
namespace Sys2Proof.Machine

/-! ## Commits (16 R698–R700) -/

/-- Bytes a commit writes, or fuses it blows. -/
def Commit.size (c : Commit) : Nat := if c.kind = 0 then 64 else c.data.length

/-- Bytes of flash that a commit takes, with the CRC-32C that ends it; none of an advance of the fuses (16 R698). -/
def Commit.bytes (c : Commit) : Nat := if c.kind = 2 then 0 else c.size + 4

/-- Energy a commit needs, in mJ (16 R699). -/
def Commit.need (c : Commit) : Nat := if c.kind = 2 then 75 * (10 * c.size + 2) else 75 * ((c.size + 255) / 256 + 2)

/-- Energy of the hold-up bank. -/
def State.energy (s : State) : Nat := s.rf 0 oHuStat huStatEnergy

/-- The commit may start. -/
def State.mayCommit (s : State) (c : Commit) : Bool :=
  s.rf 0 oHuStat huStatPgood = 1 && s.commitRun.isNone && decide (c.need ≤ s.energy)

/-- COMMIT_DEFERRED (16 R700). -/
def State.deferEvent (s : State) (c : Commit) : State :=
  s.raise 0 0x8004 0xFF (c.kind + 1 + c.size % 2 ^ 24 * 2 ^ 8 + s.energy * 2 ^ 32 + c.need % 2 ^ 32 * 2 ^ 64 + c.tries % 2 ^ 32 * 2 ^ 96)

/-- Keep a deferred record or SVN advance; a 65th record displaces the oldest. -/
def State.keepDeferred (s : State) (c : Commit) : State :=
  let recs := s.deferred.filter (fun x => x.kind = 0)
  if c.kind = 0 ∧ 64 ≤ recs.length then
    let n := s.rf 0 oHuStat huStatDropped
    { s with deferred := enq (s.deferred.eraseP (fun x => x.kind = 0)) c }.wf 0 oHuStat huStatDropped (if n < 65535 then n + 1 else n)
  else { s with deferred := enq s.deferred c }

/-- A commit cannot start: a recipe store ends its command DEFERRED, the others wait. -/
def State.deferCommit (s : State) (c : Commit) : State :=
  (if c.kind = 1 then s.recipeStage c.fn c.seq 2 else s.keepDeferred c).deferEvent c

/-- Firmware runs: the module is starting or in operation. -/
def State.running (s : State) : Bool := decide (s.phase < 2)

/-- Firmware erases sectors while the input is good: what commit c needs, and 256 KiB beside it (16 R698; DESIGN CHOICE, log entry 117). -/
def State.eraseFor (s : State) (c : Commit) : State :=
  if s.rf 0 oHuStat huStatPgood = 1 then { s with erased := max s.erased (c.bytes + 262144) } else s

/-- A commit starts, into erased flash. -/
def State.commitRuns (s : State) (c : Commit) : State := { s with commitRun := some c, erased := s.erased - c.bytes }

/-- COMMIT_START: the oldest commit asked for starts, or is deferred. -/
def State.commitBegin (s : State) : State :=
  match s.commitWait with
  | [] => s
  | c :: cs =>
    if ! s.running then s else
    let s := { s with commitWait := cs }
    if s.mayCommit c then (s.eraseFor c).commitRuns c else s.deferCommit c

def execCommitStart (s : State) : Host.Outcome State Fault Refusal := .next s.commitBegin

/-- The deferred commits are tried in their order: the first that may start does, and each other is deferred once more. -/
def retryAll : State → List Commit → State
  | s, [] => s
  | s, c :: cs =>
    if s.mayCommit c then retryAll ((s.eraseFor c).commitRuns c) cs
    else
      let c := { c with tries := c.tries + 1 }
      retryAll (State.deferEvent { s with deferred := enq s.deferred c } c) cs

/-- COMMIT_RETRY: every deferred commit is tried again (16 R700; DEDUCED, log entry 65). -/
def State.commitAgain (s : State) : State := if s.running then retryAll { s with deferred := [] } s.deferred else s

def execCommitRetry (s : State) : Host.Outcome State Fault Refusal := .next s.commitAgain

/-- COMMIT_END: what was committed is stored. Flash holds the 1,024 most recent records (15 R654). -/
def State.commitDone (s : State) : State :=
  match s.commitRun with
  | none => s
  | some c =>
    let s := { s with commitRun := none }
    if c.kind = 0 then { s with flashLog := lastN 1024 (enq s.flashLog c.erec) }
    else if c.kind = 1 then { s with recipe := c.data, recipes := (c.data, crc32c c.data) :: s.recipes }.recipeStage c.fn c.seq 3
    else { s with fuseSvn := c.seq }

def execCommitEnd (s : State) : Host.Outcome State Fault Refusal := .next s.commitDone

/-! ## Telemetry and throttling (17 R711–R714, R728, R732, R733; 18 R735) -/

/-- Input current that throttles and that trips, in mA. -/
def State.iinBounds (s : State) : Nat × Nat := match s.variant with
  | .qbm2 => (22000, 28000)
  | .qbm4 => (42000, 53000)
  | .qbm8 => (80000, 100000)

/-- A reading of a die, from the four the sample gives it. -/
def telOf (tel : List Nat) (d k : Nat) : Nat := tel.getD (4 * d + k) 0

/-- The sample of a die; TJPK keeps the largest. -/
def State.sampleDie (s : State) (tel : List Nat) (d : Nat) : State :=
  let tj := telOf tel d 2 % 256
  s.wfs d oPwrTel [(pwrTelPdie, telOf tel d 0), (pwrTelPstk, telOf tel d 1), (pwrTelTj, tj), (pwrTelTstk, telOf tel d 3),
    (pwrTelTjpk, max tj (s.rf d oPwrTel pwrTelTjpk))]

/-- TELEMETRY_SAMPLE: input voltage, current and power, hold-up energy, and PDIE, PSTK, TJ, TSTK of each die, in the units of their
fields (DESIGN CHOICE, log entry 21). -/
def execTelemetrySample (vin iin pin energy : Nat) (tel : List Nat) (s : State) : Host.Outcome State Fault Refusal :=
  .next (if s.phase = 3 then s else
    let s := s.wfs 0 oPwrIn [(pwrInVin, vin), (pwrInIin, iin), (pwrInPin, pin), (pwrInPpk, max (pin % 2 ^ 16) (s.rf 0 oPwrIn pwrInPpk))]
    let s := s.wf 0 oHuStat huStatEnergy energy
    (List.range s.nDies).foldl (fun s d => s.sampleDie tel d) s)

/-- A reading of every die. -/
def State.anyDie (s : State) (f : Fld) (k : Nat → Bool) : Bool := (List.range s.nDies).any (fun d => k (s.rf d oPwrTel f))

/-- Causes 0 to 3 at an evaluation: raised, and releasing. Hardware raises the input current's (17 R714). -/
def State.causeNow (s : State) (c : Nat) : Bool × Bool :=
  let pin := s.rf 0 oPwrIn pwrInPin
  let plim := s.rf 0 oPwrCtl pwrCtlPlim
  match c with
  | 0 => (decide (plim < pin), decide (20 * pin < 19 * plim))
  | 1 => (false, decide (s.rf 0 oPwrIn pwrInIin < 7000))
  | 2 => (s.anyDie pwrTelTj (fun t => decide (100 ≤ t)), ! s.anyDie pwrTelTj (fun t => decide (97 < t)))
  | _ => (s.anyDie pwrTelTstk (fun t => decide (95 ≤ t)), ! s.anyDie pwrTelTstk (fun t => decide (92 < t)))

/-- A cause's level after an evaluation: up by 1, or down by 1 for each 100 evaluations in a row, 10 ms, of release. -/
def State.evalCause (s : State) (c : Nat) : State :=
  let l := mget n0 s.levels c
  let k := mget n0 s.calm c
  let e := s.causeNow c
  if e.1 then { s with levels := mset n0 s.levels c (min 7 (l + 1)), calm := mset n0 s.calm c 0 }
  else if ! e.2 then { s with calm := mset n0 s.calm c 0 }
  else if k + 1 < 100 then { s with calm := mset n0 s.calm c (k + 1) }
  else { s with levels := mset n0 s.levels c (l - 1), calm := mset n0 s.calm c 0 }

/-- THROTTLE_EVALUATION. -/
def execThrottleEvaluation (s : State) : Host.Outcome State Fault Refusal :=
  .next (if s.running then ((List.range 4).foldl (fun s c => s.evalCause c) s).levelSet else s)

/-- INPUT_CURRENT_THROTTLE: ma mA for us µs. -/
def execInputCurrentThrottle (ma us : Nat) (s : State) : Host.Outcome State Fault Refusal :=
  .next (if ! s.running ∨ ma ≤ s.iinBounds.1 ∨ us < 20 then s else
    { s with levels := mset n0 s.levels 1 (max 4 (mget n0 s.levels 1)), calm := mset n0 s.calm 1 0 }.levelSet)

/-- THROTTLE_APPLY: a die runs at the level in force. -/
def execThrottleApply (d : Nat) (s : State) : Host.Outcome State Fault Refusal :=
  if s.hasDie d then
    .next (if s.running then { s with dieLevel := mset n0 s.dieLevel d (s.rf 0 oPwrStat pwrStatLevel) }.levelPend else s)
  else .fault .absentUnit

/-! ## Trip and input (17 R715, R720; 18 R739, R740, R742) -/

/-- Dies and stacks lose power; a commit that has started runs on. -/
def State.powerOff (s : State) : State := { s.modHeld kPOR with phase := 3, commitRun := s.commitRun, recipes := s.recipes }

/-- TRIP: hottest junction and stack, and input current, held for us µs. -/
def execTrip (tj tst ma us : Nat) (s : State) : Host.Outcome State Fault Refusal :=
  .next (if s.phase = 3 ∨ us < 100 ∨ (tj < 115 ∧ tst < 105 ∧ ma < s.iinBounds.2) then s else { s.powerOff with trip := true })

/-- PGOOD_FALL. -/
def execPgoodFall (s : State) : Host.Outcome State Fault Refusal :=
  .next (if s.rf 0 oHuStat huStatPgood = 0 then s else { s with smbAlert := true }.wf 0 oHuStat huStatPgood 0)

/-- PGOOD_RISE: after a dip that stayed above the cut-off. -/
def execPgoodRise (s : State) : Host.Outcome State Fault Refusal :=
  .next (if s.phase = 3 ∧ ! s.trip then s else s.wf 0 oHuStat huStatPgood 1)

/-- CONVERTER_CUT_OFF: every converter stops, and TRIP# is released. -/
def execConverterCutOff (s : State) : Host.Outcome State Fault Refusal :=
  .next ({ s.powerOff with trip := false, smbAlert := false, taps := [] }.wf 0 oHuStat huStatPgood 0)

/-! ## Rest and dormancy (17 R716–R718, R720) -/

/-- ISLAND_REST_ENTER: an island that may rest, and has been idle for 1,024 cycles. -/
def State.restEnter (s : State) (d i : Nat) : State :=
  let m := s.rf d oIslRest islRestRested
  if s.phase ≠ 0 ∨ bit m i ∨ ! bit (s.rf d oIslRest islRestResten) i ∨ ! s.islandIdle d i then s
  else s.wf d oIslRest islRestRested (m + 2 ^ i)

def execIslandRestEnter (d i : Nat) (s : State) : Host.Outcome State Fault Refusal :=
  if s.hasDie d then .next (s.restEnter d i) else .fault .absentUnit

/-- ISLAND_WAKE. -/
def execIslandWake (d i : Nat) (s : State) : Host.Outcome State Fault Refusal :=
  if s.hasDie d then .next (s.unrest d i) else .fault .absentUnit

/-- A job tag is active on die d. -/
def State.tagOn (s : State) (d : Nat) : Bool := (List.range 256).any (fun t => s.jobEn d t)

/-- Die d goes dormant. -/
def State.sleepDie (s : State) (d : Nat) : State :=
  if s.dormant d then s else s.wf 0 oPwrStat pwrStatDorm (s.rf 0 oPwrStat pwrStatDorm + 2 ^ d)

/-- DIE_DORMANT_ENTER. -/
def execDieDormantEnter (d : Nat) (s : State) : Host.Outcome State Fault Refusal :=
  if s.hasDie d then
    .next (if s.phase = 0 ∧ bit (s.rf 0 oPwrCtl pwrCtlDormreq) d ∧ ! s.tagOn d then s.sleepDie d else s)
  else .fault .absentUnit

/-- DIE_WAKE, for a DORMREQ bit that is clear. An access wakes a die by itself. No recipe names a register of the islands that were
off (19 R775), so none is applied. -/
def execDieWake (d : Nat) (s : State) : Host.Outcome State Fault Refusal :=
  if s.hasDie d then
    .next (if s.serving ∧ ! bit (s.rf 0 oPwrCtl pwrCtlDormreq) d then s.wakeDie d false else s)
  else .fault .absentUnit

/-! ## Module sleep (17 R719) -/

/-- In module sleep the racking engine and the cellar controller of die d are at rest (17 R716). -/
def State.deepRest (s : State) (d : Nat) : State := s.wf d oIslRest islRestRested (s.rf d oIslRest islRestRested ||| (2 ^ 22 + 2 ^ 27))

/-- The stacks refresh themselves, which keeps what they hold (17 R716). -/
def State.selfRefresh (s : State) : Bool := s.rf 0 oPwrStat pwrStatSleep = 1

/-- MODULE_SLEEP: long commands end CANCELLED, jobs end HOSTABORT, every die is dormant. -/
def State.sleep (s : State) : State :=
  if ! s.serving then s else
  let s := s.cancelAll (fun _ => true) false
  let s := (s.wf 0 oPwrStat pwrStatSleep 1).stopJobs (fun _ => true) 1
  (List.range s.nDies).foldl (fun s d => ((s.freshIslands d).sleepDie d).deepRest d) s

def execModuleSleep (s : State) : Host.Outcome State Fault Refusal := .next s.sleep

/-- The commands that sleep ended write their final status words and replies, ahead of what else waits. -/
def State.lateReplies (s : State) (f : Nat) : State :=
  let held := (s.fn f).outq
  let ls := (s.fn f).longs.filter (fun l => decide (0x80 ≤ l.state))
  let s := s.putFn f { s.fn f with outq := [] }
  let s := ls.foldl (fun s l => s.endLong f l) s
  (s.putFn f { s.fn f with outq := (s.fn f).outq ++ held }).flush f

/-- MODULE_WAKE: dies that are not asked to be dormant wake. -/
def State.wakeAll (s : State) : State :=
  if s.phase ≠ 0 ∨ s.rf 0 oPwrStat pwrStatSleep = 0 then s else
  let s := (List.range s.nDies).foldl (fun s d => (s.unrest d 22).unrest d 27) (s.wf 0 oPwrStat pwrStatSleep 0)
  let s := (List.range s.nDies).foldl (fun s d => if bit (s.rf 0 oPwrCtl pwrCtlDormreq) d then s else s.wakeDie d false) s
  (List.range 9).foldl (fun s f => s.lateReplies f) s

def execModuleWake (s : State) : Host.Outcome State Fault Refusal := .next s.wakeAll

/-! ## Atomics (14 R583) -/

/-- PCIE_ATOMIC_REQUEST: completes with Unsupported Request, and nothing changes. -/
def execPcieAtomicRequest (f : Nat) (s : State) : Host.Outcome State Fault Refusal :=
  if f < 9 then .next (if s.pcieUp then { s with unsupported := s.unsupported + 1 } else s) else .fault .absentUnit

end Sys2Proof.Machine
end

