-- ==== Sys2Proof/Machine/Protection.lean ====
section
/-!
DEFINITION. Sys2Proof/Machine/Protection.lean: grants, the checks of the protection commands, the protection fence and the end of long
commands (16_security.md R683–R694, R697, R701, R702).
-/
namespace Sys2Proof.Machine

/-! ## Grant entries (16 R684, R685) -/

def gKind (g : Nat) : Nat := bits g 0 8
def gDie (g : Nat) : Nat := bits g 8 3
def gFirst (g : Nat) : Nat := bits g 32 32
def gCount (g : Nat) : Nat := bits g 64 32

/-- The grant an entry makes to partition p: DIE is ignored for the kinds that name none, FIRST for a quota. -/
def toGrant (p g : Nat) : Grant :=
  { part := p, kind := gKind g, die := if dieless (gKind g) then 0 else gDie g, first := if gKind g = 0xB then 0 else gFirst g,
    count := gCount g }

/-- An entry that changes nothing (16 R702). -/
def gEmpty (g : Nat) : Bool := gCount g = 0 && decide (gKind g ≠ 0xB)

/-- Units first .. first + count − 1 of a kind exist. -/
def State.unitsOk (s : State) (k first count : Nat) : Bool := match k with
  | 1 => first = 0 && count = 1
  | 2 => decide (first + count ≤ 4)
  | 3 => decide (first + count ≤ 512)
  | 4 => decide (first + count ≤ 80 * s.nDies)
  | 5 => decide (first + count ≤ 80)
  | 6 => decide (first + count ≤ 4096)
  | 7 => decide (first + count ≤ 1024)
  | 8 => decide (first + count ≤ 1024)
  | 9 => decide (first + count ≤ 256)
  | 0xA => decide (first + count ≤ 256)
  | 0xB => true
  | 0xC => decide (first + count ≤ 48 * s.nDies) && (List.range count).all (fun k => let v := (first + k) % 16
      decide (1 ≤ v) && decide (v ≤ 13))
  | 0xD => decide (first + count ≤ 128)
  | 0xE => decide (first + count ≤ 256)
  | _ => false

/-- An entry beyond R685, or one of an absent die. -/
def State.entryBad (s : State) (g : Nat) : Bool :=
  gKind g = 0 || decide (0xE < gKind g) || (! dieless (gKind g) && ! s.hasDie (gDie g)) ||
  (! gEmpty g && ! s.unitsOk (gKind g) (gFirst g) (gCount g))

/-- An interleaved cellar range and a die-local one share stack bytes (08 R311, R312). -/
def State.cellarMeets (s : State) (i l : Grant) : Bool :=
  decide (l.first * s.nDies < i.first + i.count) && decide (i.first < (l.first + l.count) * s.nDies)

/-- Two grants share a resource. -/
def State.shares (s : State) (g h : Grant) : Bool :=
  (g.same h && decide (g.kind ≠ 0xB) && g.meets h) || (g.kind = 4 && h.kind = 5 && s.cellarMeets g h) ||
  (g.kind = 5 && h.kind = 4 && s.cellarMeets h g)

/-- QUOTA of partition p on die d once they are. -/
def State.planQuota (s : State) (p d : Nat) : Nat :=
  s.waiting.foldl (fun q c =>
    if c.part ≠ p then q else
    match c.kind with
    | 0 => (c.list.filter (fun g => g.kind = 0xB && decide (g.die = d))).foldl (fun _ g => g.count) q
    | 1 => if c.list.any (fun g => g.kind = 0xB && decide (g.die = d)) then 0 else q
    | 2 => if (s.grants ++ s.plan).any (fun g => decide (g.part = p) && decide (g.kind = 0xB) && decide (g.die = d)) then 0 else q
    | _ => q) (s.rf d (oRkTrkq p) rkTrkqQuota)

/-- The quotas of a die pass 131,072 with the entries of a PART_ASSIGN (09 R368). -/
def State.quotaOver (s : State) (p : Nat) (gs : List Grant) (d : Nat) : Bool :=
  match (gs.filter (fun g => g.kind = 0xB && decide (g.die = d))).getLast? with
  | none => false
  | some g => decide (131072 < sumBy (fun k => if k = p then g.count else s.planQuota k d) (List.range 8))

/-- More than 16 grants of a kind on a die. -/
def tooMany (gs : List Grant) (p : Nat) (g : Grant) : Bool :=
  decide (16 < (gs.filter (fun h => decide (h.part = p) && h.same g)).length)

/-- A job of partition p uses units of a revocation (16 R687). -/
def State.inUse (s : State) (p : Nat) (g : Grant) : Bool :=
  let held := (s.grants.filter (fun h => decide (h.part = p))).flatMap (fun h => h.inter g)
  if g.kind = 0xE then
    held.any (fun h => (List.range h.count).any (fun k => (List.range s.nDies).any (fun d => s.jobEn d (h.first + k))))
  else ([1, 2, 6, 7, 0xA].contains g.kind) && decide (held ≠ []) &&
    (s.jobsOf (fun q => decide (q = p))).any (fun (e : Nat × JobRec) => bit e.2.mask g.die)

/-! ## PART_ASSIGN, PART_REVOKE, KEY_GROUP, INOC_GRANT (16 R686, R687, R694, R701) -/

/-- The status that rejects the entries of a grant command (`rev`: a revocation), from the PF or from the owner (`doe`). -/
def State.grantFail (s : State) (p : Nat) (doe rev : Bool) (es : List Nat) : Option Nat :=
  let st := s.partState p
  let gs := (es.filter (fun g => ! gEmpty g)).map (toGrant p)
  let after := applyChange s.plan { kind := if rev then 1 else 0, part := p, list := gs }
  if st = 0 then some 0x15
  else if 2 ≤ st ∧ ! doe then some 0x15
  else if es.any s.entryBad || gs.any (tooMany after p) then some 0x20
  else if gs.any (fun g => (s.grants ++ s.plan).any (fun h => decide (h.part ≠ p) && s.shares g h)) ||
      (! rev && (List.range s.nDies).any (s.quotaOver p gs)) then some 0x32
  else if rev && gs.any (s.inUse p) then some 0x34
  else none

/-- A session. -/
def State.session (s : State) (id : Nat) : Option Session := s.sessions.find? (fun x => x.id = id)

/-- A session changes. -/
def State.onSession (s : State) (id : Nat) (g : Session → Session) : State :=
  { s with sessions := s.sessions.map (fun x => if x.id = id then g x else x) }

/-- The key and message number of the next request of a session; none outside one (16 R680). -/
def State.reqKey (s : State) (sess : Nat) : Option (BitVec 256 × Nat) :=
  (s.session sess).map (fun x => (Config.sessionKey x.id false x.genReq, x.seqReq))

/-- The answer of function f's mailbox; in a session it is sealed with AES-256-GCM under the key of the answers and its message number (16 R680). -/
def State.sealFor (s : State) (f sess : Nat) (bs : List Byte) : State :=
  match s.session sess with
  | none => s.putFn f { s.fn f with resp := bs }
  | some x =>
    (s.putFn f { s.fn f with resp := Config.gcmSeal (Config.sessionKey x.id true x.genRsp) x.seqRsp [] bs }).onSession sess
      (fun x => { x with seqRsp := x.seqRsp + 1 })

/-- An answer of D0's bond island, whose bytes the root of trust makes: how it is laid out is the implementation's (16 R674, R680; DESIGN CHOICE,
log entry 62). -/
def State.mail (s : State) (f sess : Nat) (msg : List Byte) : State :=
  { s.sealFor f sess (Config.spdmReply s.freeCtr msg) with freeCtr := s.freeCtr + 1 }

/-- A request that a mailbox holds is answered. -/
def State.mailEnd (s : State) (f status : Nat) : State :=
  (s.putFn f { s.fn f with doe := none }).mail f (s.fn f).doeSess (toBytes 2 status)

/-- A protection command is answered where it came from; a change of no function (9) has no answer. -/
def State.protEnd (s : State) (f : Nat) (doe : Bool) (status : Nat) : State :=
  if f = 9 then s else if doe then s.mailEnd f status else s.endCmd f status 0 0

/-- It is accepted, which PMR records in this order, and waits for the fence that its change takes effect at (16 R677). -/
def State.protWait (s : State) (f : Nat) (doe : Bool) (p : Pkt) (c : Change) : State :=
  let s := if c.kind = 2 then s else s.pmrExtend p.part c.data
  let s := { s with changes := enq s.changes { c with fn := f, doe := doe, part := p.part } }
  if doe then s.putFn f { s.fn f with doe := some p } else s.hold_ f

/-- A grant command: checked whole, then planned; one with no effective entry is EMPTY. -/
def State.grantCmd (s : State) (f : Nat) (doe rev : Bool) (p : Pkt) : State :=
  let es := grantEnts p.block
  match s.grantFail p.part doe rev es with
  | some e => s.protEnd f doe e
  | none =>
    let gs := (es.filter (fun g => ! gEmpty g)).map (toGrant p.part)
    if gs = [] then s.protEnd f doe 1
    else s.protWait f doe p { kind := if rev then 1 else 0, list := gs, data := p.block }

/-- Channels of a group (13 R568). -/
def groupChans (g : Nat) : List Nat := if g = 0 then [0, 14] else [g]

/-- The status that rejects a KEY_GROUP. A group 0 named by a VF is turned away first (DEDUCED, log entry 63). -/
def State.keyFail (s : State) (f : Nat) (doe : Bool) (p : Pkt) : Option Nat :=
  let port := p.n 16 1
  let g := p.n 17 1
  let slot := p.n 18 1
  let st := s.partState p.part
  if st = 0 ∨ (st = 2 ∧ ! doe) then some 0x15
  else if 3 * s.nDies ≤ port ∨ 13 < g ∨ 127 < slot then some 0x20
  else if g = 0 ∧ f ≠ 0 then some 0x14
  else if ! (groupChans g).all (fun v => s.granted 0 p.part 0xC 0 (16 * port + v) (16 * port + v)) ∨ ! s.granted 0 p.part 0xD 0 slot slot then
    some 0x21
  else if mget keyDefault s.keys slot = none ∨ s.rf 0 oBondStat bondStatLife = 1 then some 0x15
  else none

def State.keyCmd (s : State) (f : Nat) (doe : Bool) (p : Pkt) : State :=
  match s.keyFail f doe p with
  | some e => s.protEnd f doe e
  | none =>
    s.protWait f doe p { kind := 3, port := p.n 16 1, grp := p.n 17 1, slot := p.n 18 1, en := bit (p.n 19 1) 0, data := p.params.take 4 }

/-- INOC_GRANT: by the PF only while no owner is bound; by the owner it is recorded in PMR (15 R659, 16 R701). -/
def State.inocCmd (s : State) (f : Nat) (doe : Bool) (p : Pkt) : State :=
  let st := s.partState p.part
  if st = 0 ∨ (! doe ∧ (st = 2 ∨ s.owned p.part)) then s.protEnd f doe 0x15 else
  let on := bit (p.n 16 1) 0
  let s := s.wf 0 (oPartStat p.part) partStatInocg (if on then 1 else 0)
  let s := if on then s else s.disarmCovered
  (if doe then s.pmrExtend p.part (p.params.take 1) else s).protEnd f doe 0

def execPartAssign (f : Nat) (s : State) : Host.Outcome State Fault Refusal :=
  hostRow 0x101 f s (fun p s => s.grantCmd f false false p)

def execPartRevoke (f : Nat) (s : State) : Host.Outcome State Fault Refusal :=
  hostRow 0x102 f s (fun p s => s.grantCmd f false true p)

def execKeyGroup (f : Nat) (s : State) : Host.Outcome State Fault Refusal := hostRow 0x104 f s (fun p s => s.keyCmd f false p)

def execInocGrant (f : Nat) (s : State) : Host.Outcome State Fault Refusal := hostRow 0x105 f s (fun p s => s.inocCmd f false p)

/-- PART_CREATE: NONE to OPEN, with a new cellar key, no owner and PMR zero (16 R677, R683). -/
def execPartCreate (f : Nat) (s : State) : Host.Outcome State Fault Refusal :=
  hostRow 0x100 f s (fun p s =>
    if s.partState p.part ≠ 0 then s.endCmd f 0x15 0 0 else
    let s := s.wfs 0 (oPartStat p.part)
      [(partStatState, 1), (partStatTdi, 0), (partStatOwned, 0), (partStatInocg, 0), (partStatIdeok, 0)]
    let x := s.partRec p.part
    ((s.putPart p.part { x with owner := none, pmr := 0, ide := none }).newCellarKey p.part).endCmd f 0 0 0)

/-- PART_DESTROY: a PRT, then every grant is revoked at one fence (16 R697). -/
def execPartDestroy (f : Nat) (s : State) : Host.Outcome State Fault Refusal :=
  hostRow 0x103 f s (fun p s => (s.prt p.part).protWait f false p { kind := 2 })

/-! ## PROT_READ, and the end of long commands (14 R599, 16 R701) -/

def execProtRead (f : Nat) (s : State) : Host.Outcome State Fault Refusal :=
  hostRow 0x106 f s (fun p s => if p.n 32 8 % 8 ≠ 0 then s.endCmd f 0x19 0 0 else s.runLong f p (p.n 32 8) 1 0)

/-- PROT_READ writes state, GEN, PMR and grants, as the implementation lays them out; VALID is free (DESIGN CHOICE, log entry 62). -/
def State.protReadEnd (s : State) (f : Nat) (l : Long) : State :=
  let p := l.pkt.part
  let b := toBytes 1 (s.partState p) ++ toBytes 4 (s.rf 0 oBondFence bondFenceGen) ++ (toBytes 48 (s.partRec p).pmr.toNat).reverse ++
    (s.grants.filter (fun g => decide (g.part = p))).flatMap grantBytes
  s.tick.longOut f l (l.pkt.n 24 8) (Config.protRecord b) (s.free 32)

/-- A long command whose work is done ends. -/
def State.longEnd (s : State) (f : Nat) (l : Long) : Option State :=
  if l.pkt.opc = 0x20 then s.copyFinish f l
  else if 0x80 ≤ l.state then some (s.endLong f l)
  else match l.pkt.opc with
    | 0x6 => some (s.logReadEnd f l)
    | 0x32 => some (s.stateSaveEnd f l)
    | 0x33 => some (s.stateLoadEnd f l)
    | 0x40 => if l.stage = 1 ∨ (l.stage = 0 ∧ s.othersBusy f) then none else some (s.recipeEnd f l)
    | _ => some (s.protReadEnd f l)

/-- LONG_COMMAND_END: of the commands that run, the first that can end does; order among them is free (14 R599). -/
def execLongCommandEnd (f : Nat) (s : State) : Host.Outcome State Fault Refusal :=
  if 9 ≤ f then .fault .absentUnit
  else if ! s.serving then .next s
  else .next (((s.fn f).longs.findSome? (s.longEnd f)).getD s)

/-! ## The fence (16 R689–R691) -/

/-- PROTECTION_FENCE: the bond monitor writes the inactive tables and raises GEN. -/
def State.fenceStart (s : State) : State :=
  if s.rf 0 oBondFence bondFenceBusy = 1 ∨ s.changes = [] ∨ s.phase ≠ 0 then s else
  let g := s.rf 0 oBondFence bondFenceGen
  let s := { s with grantsNew := s.changes.foldl applyChange s.grants, fenceRun := s.changes, changes := [], fenceOld := [] }
  s.wfs 0 oBondFence [(bondFenceGen, (g + 1) % 2 ^ 32), (bondFenceBusy, 1), (bondFenceSwitched, 0)]

def execProtectionFence (s : State) : Host.Outcome State Fault Refusal := .next s.fenceStart

/-- Accepted vat instructions that have not completed. -/
def Vat.running (x : Vat) : List VInstr :=
  x.steepQ ++ x.mashQ ++ x.drawQ ++ x.done ++ (x.passes.filter (fun p => ! p.fin)).map (fun p => p.instr)

/-- Accesses of die d that have been checked and have not completed: vat instructions, racking requests, kettle groups. -/
def State.accesses (s : State) (d : Nat) : List (Nat × Nat × Nat × Nat × Nat) :=
  (List.range 16).flatMap (fun v => (s.vat d v).running.map (fun i => (0, d, v, i.seq, i.tag))) ++
  (s.rackqsOf d).flatMap (fun (e : Nat × RackQ) => e.2.outs.map (fun q => (1, d, e.1, q.id, q.tag))) ++
  (List.range 4).flatMap (fun k => (s.kcore d k).pend.map (fun p => (2, d, k, p.id, p.tag)))

/-- DIE_TABLE_SWITCH: the die's check points go over to the new tables. -/
def State.tableSwitch (s : State) (d : Nat) : State :=
  let sw := s.rf 0 oBondFence bondFenceSwitched
  if s.rf 0 oBondFence bondFenceBusy = 0 ∨ bit sw d then s else
  { s with fenceOld := s.fenceOld ++ s.accesses d }.wf 0 oBondFence bondFenceSwitched (sw + 2 ^ d)

def execDieTableSwitch (d : Nat) (s : State) : Host.Outcome State Fault Refusal :=
  if s.hasDie d then .next (s.tableSwitch d) else .fault .absentUnit

/-- The old-generation accesses that have not completed. -/
def State.oldLive (s : State) : List (Nat × Nat × Nat × Nat × Nat) :=
  s.fenceOld.filter (fun a => (s.accesses a.2.1).any (fun b => decide (b.1 = a.1 % 8) && decide (b.2 = a.2)))

/-- Zero a range of a memory. -/
def State.zeroRange (s : State) (r : Region) (lo n : Nat) : State :=
  s.zeroWhere (fun m o => m = r.num && decide (lo ≤ o) && decide (o < lo + n))

/-- Kettle register files of a core are zeroed. -/
def State.zeroFiles (s : State) (d k : Nat) : State := s.putKcore d k { s.kcore d k with z := [], zp := [], j := [], jp := [] }

/-- Ledger l of die d is IDLE with a zeroed record. -/
def State.zeroLedger (s : State) (d l : Nat) : State :=
  let s := s.write (.ctx d) (ledOff l) (List.replicate 64 0)
  { s with ledNew := mset (fun _ => false) s.ledNew (d * 256 + l) false, specRows := mset (fun _ => []) s.specRows (d * 256 + l) [] }

/-- The memories of the vats of die d, and their tally entries, are zeroed. -/
def State.zeroVats (s : State) (d : Nat) : State :=
  (List.range 16).foldl (fun s v =>
    let s := s.zeroWhere (fun n _ => vatRegion d v n)
    s.putVat d v { s.vat d v with tallyEnt := [], undef0 := none, undef1 := none, wrote0 := [], wrote1 := [] }) s

/-- The port and channel group of a channel code: its QL_CGRP is cleared. -/
def State.clearGroup (s : State) (code : Nat) : State :=
  let p := code / 16
  (s.wfs (p / 3) (oQlCgrp (p % 3) (groupOf (code % 16))) [(qlCgrpEn, 0), (qlCgrpKslot, 0), (qlCgrpCstop, 0)]).dropStopped
    (p / 3) (p % 3) (code % 16)

/-- A resource that has left its partition is cleared (16 R690; a queue leaves service, log entry 59). -/
def State.scrubGrant (s : State) (g : Grant) : State :=
  let d := g.die
  let us := (List.range g.count).map (fun k => g.first + k)
  match g.kind with
  | 1 => (clearTallies d 16 ((s.zeroVats d).putRing d { s.ring d with ringTag := none })).freeCtxs d 0 16384
  | 2 => us.foldl (fun s k => (s.zeroFiles d k).freeCtxs d (16384 + 1024 * k) 1024) s
  | 3 => s.zeroRange (.granary d) (g.first * 2 ^ 21) (g.count * 2 ^ 21)
  | 6 => s.freeCtxs d (20480 + g.first) g.count
  | 7 => s.freeCtxs d (24576 + g.first) g.count
  | 8 => s.zeroRange (.tunBuf d) (g.first * 2048) (g.count * 2048)
  | 9 => us.foldl (fun s q => s.wf d (oRkQcfg q) rkQcfgEn 0) s
  | 0xA => us.foldl (fun s l => s.zeroLedger d l) s
  | 0xB => s.wf d (oRkTrkq g.part) rkTrkqQuota 0
  | 0xC => us.foldl (fun s c => s.clearGroup c) s
  | 0xD => { s with keys := s.keys.filter (fun (e : Nat × Option (BitVec 256)) => ! (decide (g.first ≤ e.1) && decide (e.1 < g.first + g.count))) }
  | _ => s

/-- A resource enters a partition: cellar ranges are zero-written under its key, a quota and a queue's owner are
written, and a key slot is empty until it is programmed (16 R690, R694). -/
def State.enterGrant (s : State) (g : Grant) : State :=
  let n := s.nDies
  match g.kind with
  | 4 => (List.range n).foldl (fun s d => s.zeroRange (.cellar d) (g.first * 2 ^ 30 / n) (g.count * 2 ^ 30 / n)) s
  | 5 => s.zeroRange (.cellar g.die) (g.first * 2 ^ 30) (g.count * 2 ^ 30)
  | 9 => (List.range g.count).foldl (fun s k => s.wf g.die (oRkQcfg (g.first + k)) rkQcfgPart g.part) s
  | 0xB => s.wf g.die (oRkTrkq g.part) rkTrkqQuota g.count
  | 0xD => { s with keys := s.keys.filter (fun (e : Nat × Option (BitVec 256)) => ! (decide (g.first ≤ e.1) && decide (e.1 < g.first + g.count))) }
  | _ => s

/-- KEY_GROUP's group is written, and both ends of its channels count from the start (13 R570, R571). -/
def State.writeGroup (s : State) (c : Change) : State :=
  let d := c.port / 3
  let i := c.port % 3
  let s := s.wfs d (oQlCgrp i c.grp) [(qlCgrpEn, if c.en then 1 else 0), (qlCgrpKslot, c.slot), (qlCgrpCstop, 0)]
  (groupChans c.grp).foldl (fun s v =>
    let x := s.port d i
    (s.putPort d i { x with gcmTx := mset n0 x.gcmTx v 0, gcmRx := mset (fun _ => none) x.gcmRx v none }).sendStopped d i v) s

/-- A change the monitor makes on its own initiative puts a LOCKED partition and its TDI into ERROR (16 R686). -/
def State.lockedError (s : State) (p : Nat) : State :=
  if s.partState p = 2 then s.wfs 0 (oPartStat p) [(partStatState, 3), (partStatTdi, 3)] else s

/-- A change takes effect at the end of its fence: clears, grants, reply. -/
def State.changeDone (s : State) (c : Change) : State :=
  let gs := s.grants
  let s := (List.range 8).foldl (fun s p => (leaving gs c p).foldl (fun s g => s.scrubGrant g) s) s
  let s := { s with grants := applyChange gs c }
  match c.kind with
  | 0 => (c.list.foldl (fun s g => s.enterGrant g) s).protEnd c.fn c.doe 0
  | 1 =>
    let s := c.list.foldl (fun s g => if g.kind = 0xB then s.wf g.die (oRkTrkq g.part) rkTrkqQuota 0 else s) s
    s.protEnd c.fn c.doe 0
  | 2 =>
    let s := s.wfs 0 (oPartStat c.part)
      [(partStatState, 0), (partStatTdi, 0), (partStatOwned, 0), (partStatInocg, 0), (partStatIdeok, 0)]
    (s.putPart c.part {}).protEnd c.fn c.doe 0
  | 3 => (s.writeGroup c).protEnd c.fn c.doe 0
  | _ =>
    (List.range 8).foldl (fun s p => if leaving gs c p = [] then s else s.lockedError p) s

/-- Rings that the changes of a fence take from a partition or give to one are drained (02 R81); a lost die's does not count. -/
def State.ringsDrained (s : State) (cs : List Change) : Bool :=
  cs.all (fun c => (c.list ++ (List.range 8).flatMap (leaving s.grants c)).all (fun g =>
    decide (g.kind ≠ 1) || s.drained g.die || bit s.lostDies g.die))

/-- FENCE_COMPLETE: every die has switched, no access of the old generation is left, and the rings that change hands are drained. A lost
die switches no more. -/
def State.fenceEnd (s : State) : State :=
  let sw := s.rf 0 oBondFence bondFenceSwitched
  if s.rf 0 oBondFence bondFenceBusy = 0 ∨ ! (List.range s.nDies).all (fun d => bit sw d || bit s.lostDies d) ∨ s.oldLive ≠ [] ∨
    ! s.ringsDrained s.fenceRun then s else
  let cs := s.fenceRun
  let s := { s with fenceRun := [], fenceOld := [] }.wf 0 oBondFence bondFenceBusy 0
  { cs.foldl (fun s c => s.changeDone c) s with grantsNew := [] }

def execFenceComplete (s : State) : Host.Outcome State Fault Refusal := .next s.fenceEnd

/-- FENCE_ACCESS_TIMEOUT: ms milliseconds after the raise (DESIGN CHOICE, log entry 21), the jobs of accesses that are left end; each is reported
once. -/
def execFenceAccessTimeout (ms : Nat) (s : State) : Host.Outcome State Fault Refusal :=
  let late := s.oldLive.filter (fun a => decide (a.1 < 8))
  .next (if s.rf 0 oBondFence bondFenceBusy = 0 ∨ ms < 100 then s else
    let s := late.foldl (fun s a =>
      s.report { die := a.2.1, tag := a.2.2.2.2, part := s.jobPart a.2.1 a.2.2.2.2, cls := 0x12, detail := 9, island := 29 }) s
    { s with fenceOld := s.fenceOld.map (fun a => if late.contains a then (a.1 + 8, a.2) else a) })

end Sys2Proof.Machine
end

