-- ==== Sys2Proof/Machine/Spdm.lean ====
section
/-!
DEFINITION. Sys2Proof/Machine/Spdm.lean: the DOE mailboxes: SPDM sessions, measurements, TDISP, keys, and Rhaone requests of an owner
(16_security.md R678–R683, R686, R692, R693, R701).
-/
namespace Sys2Proof.Machine


/-- A row of a mailbox. While the module is not served, or the function is not exposed, nothing answers. -/
def mailRow (f : Nat) (s : State) (body : State → State) : Host.Outcome State Fault Refusal :=
  if 9 ≤ f then .fault .absentUnit else if s.serving && s.exposed f then .next (body s) else .next s

/-- Debug is unlocked (16 R678). -/
def State.debugOn (s : State) : Bool := s.rf 0 oBondStat bondStatLife = 1

/-- The session may make owner-only requests for partition p: an established one of the owner on the VF, or, with no owner bound, of the PF
(16 R683). -/
def State.ownerOk (s : State) (p sess : Nat) : Bool :=
  match s.session sess with
  | none => false
  | some x => x.up && if s.owned p then x.fn = p + 1 && decide (x.auth = (s.partRec p).owner) && x.auth.isSome else x.fn = 0

/-! ## Measurements (16 R676, R677, R681, R682) -/

/-- Contents of measurement block i for partition p. -/
def State.measBlock (s : State) (p i : Nat) : List Byte :=
  if 1 ≤ i ∧ i ≤ 6 then digBytes (mget (fun _ => 0) s.bmrs (i - 1))
  else if i = 7 then digBytes (s.partRec p).pmr
  else if i = 8 then
    s.imgSvns.flatMap (toBytes 1) ++ toBytes 4 Config.fwVersion.toNat ++ toBytes 1 (s.rf 0 oBondStat bondStatLife) ++
      toBytes 1 s.healthMask
  else toBytes 1 (s.partState p + s.rf 0 (oPartStat p) partStatTdi * 4) ++ digBytes ((s.partRec p).owner.getD 0)

/-- Blocks a function reads: every one of its own partition for a VF, 1 to 6 and 8 for the PF. -/
def measIdx (f : Nat) : List Nat := if f = 0 then [1, 2, 3, 4, 5, 6, 8] else [1, 2, 3, 4, 5, 6, 7, 8, 9]

/-- The blocks of one response, each with its index and length before it (DESIGN CHOICE, log entry 62). -/
def State.measurements (s : State) (f : Nat) : List Byte :=
  (measIdx f).flatMap (fun i => let b := s.measBlock (f - 1) i
    toBytes 1 i ++ toBytes 2 b.length ++ b)

/-- GET_MEASUREMENTS: the blocks, read together, and their signature. -/
def execGetMeasurements (f : Nat) (s : State) : Host.Outcome State Fault Refusal :=
  mailRow f s (fun s =>
    let b := s.measurements f
    s.putFn f { s.fn f with resp := b ++ Config.ecdsa s.aliasKey b })

/-! ## Sessions (16 R680, R683) -/

/-- Sessions of a function. -/
def State.sessionsOf (s : State) (f : Nat) : Nat := (s.sessions.filter (fun x => x.fn = f)).length

/-- KEY_EXCHANGE: a session opens, at most 4 of a function; the first of a VF in which the requester authenticates binds the partition's
owner. `key` is the digest of the requester's public key. -/
def execKeyExchange (f : Nat) (auth : Bool) (key : Nat) (s : State) : Host.Outcome State Fault Refusal :=
  mailRow f s (fun s =>
    if 4 ≤ s.sessionsOf f then s.mail f 0 (toBytes 2 0x32) else
    let k : Option (BitVec 384) := if auth then some (BitVec.ofNat 384 key) else none
    let s := { s with sessions := enq s.sessions { id := s.nextSess, fn := f, auth := k }, nextSess := s.nextSess + 1 }
    let s := if auth ∧ f ≠ 0 ∧ ! s.owned (f - 1) then
        (s.putPart (f - 1) { s.partRec (f - 1) with owner := k }).wf 0 (oPartStat (f - 1)) partStatOwned 1
      else s
    s.mail f 0 (toBytes 2 0 ++ toBytes 4 (s.nextSess - 1)))

/-- Request codes of SPDM 1.3 (PRESUMED, log entry 64). -/
def spdmCodes : List Nat := [0x84, 0xE1, 0xE3, 0x81, 0x82, 0x83, 0xE5, 0xE8, 0xE9, 0xEC, 0xFE]

/-- A Rhaone packet in a vendor-defined request: a command packet of 64 bytes and its block (PRESUMED, log entry 64). -/
def vendorPkt (msg : List Byte) : Pkt :=
  let h := blk msg 0 16
  { opc := bits h 0 16, part := bits h 24 8, seq := bits h 32 32, ext := bit h 18, len := bits h 64 6,
    params := (msg.drop 16).take 48 ++ (if bit h 18 then msg.drop 64 else []) }

/-- The status that turns a Rhaone packet away before its command's own cases. -/
def State.vendorFail (s : State) (f sess : Nat) (p : Pkt) : Option Nat :=
  match cmdInfo p.opc with
  | none => some 0x11
  | some i =>
    if ! [0x101, 0x102, 0x104, 0x105].contains p.opc then some 0x14
    else if 7 < p.part then some 0x13
    else if ! s.ownerOk p.part sess ∨ (s.session sess).any (fun x => decide (x.fn ≠ f)) then some 0x14
    else if p.ext ≠ i.ext ∨ p.len ≠ i.len ∨ (i.ext ∧ p.block = []) then some 0x12
    else match (if i.ext then p.blockBad else none) with
      | some _ => some 0x12
      | none => if p.inlineRsvd i || (i.ext && p.blockRsvd) then some 0x10 else none

/-- A Rhaone request of the owner (16 R686, R701). One waits in a mailbox at a time. -/
def State.vendorReq (s : State) (f sess : Nat) (p : Pkt) : State :=
  if (s.fn f).doe.isSome then s else
  let s := s.putFn f { s.fn f with doeSess := sess }
  match s.vendorFail f sess p with
  | some e => s.mailEnd f e
  | none =>
    if p.opc = 0x101 then s.grantCmd f true false p
    else if p.opc = 0x102 then s.grantCmd f true true p
    else if p.opc = 0x104 then s.keyCmd f true p
    else s.inocCmd f true p

/-- The answer to a request about the certificates of slot 0: their digest, the chain, or a signature with the alias key (16 R679, R680; its
layout DESIGN CHOICE, log entry 62). -/
def State.certReply (s : State) (code : Nat) (msg : List Byte) : List Byte :=
  let b := s.certs.flatten
  if code = 0x82 then b
  else if code = 0x81 then digest b
  else digest b ++ Config.ecdsa s.aliasKey msg

/-- KEY_UPDATE (PRESUMED: operation codes of SPDM 1.3, log entry 64): 1 gives the requester's direction a new key, 2 both. -/
def Session.keyUpdate (x : Session) (op : Nat) : Session :=
  let x := if op = 1 ∨ op = 2 then { x with genReq := x.genReq + 1, seqReq := 0 } else x
  if op = 2 then { x with genRsp := x.genRsp + 1, seqRsp := 0 } else x

/-- SPDM_REQUEST: another request, in session `sess` (0: none), which its message number and key authenticate. Before FINISH a session takes FINISH
alone; END_SESSION ends it (16 R680). -/
def execSpdmRequest (f sess code : Nat) (msg : List Byte) (s : State) : Host.Outcome State Fault Refusal :=
  mailRow f s (fun s =>
    let mine := (s.session sess).any (fun x => x.fn = f)
    let up := (s.session sess).any (fun x => x.up && x.fn = f)
    if ! spdmCodes.contains code ∨ (sess ≠ 0 ∧ ! mine) ∨ (s.reqKey sess).any (fun k => ! Config.spdmOk k msg) then s.mail f 0 (toBytes 2 0x15) else
    let s := s.onSession sess (fun x => { x with seqReq := x.seqReq + 1 })
    if (mine ∧ ! up ∧ code ≠ 0xE5) ∨ (! mine ∧ [0xE5, 0xE8, 0xE9, 0xEC].contains code) then s.mail f sess (toBytes 2 0x15)
    else if code = 0xE5 then (s.onSession sess (fun x => { x with up := true })).mail f sess (toBytes 2 0)
    else if code = 0xE9 then (s.onSession sess (fun x => x.keyUpdate (blk msg 0 1))).mail f sess (toBytes 2 0)
    else if code = 0xEC then
      let t := s.mail f sess (toBytes 2 0)
      { t with sessions := t.sessions.filter (fun x => decide (x.id ≠ sess)) }
    else if code = 0xFE ∧ mine then s.vendorReq f sess (vendorPkt msg)
    else if code = 0x81 ∨ code = 0x82 ∨ code = 0x83 then s.sealFor f sess (s.certReply code msg)
    else s.mail f sess (toBytes 2 code ++ msg))

/-! ## TDISP (16 R678, R686) -/

/-- LOCK_INTERFACE of the TDI of function f, in session `sess`. -/
def execLockInterface (f sess : Nat) (s : State) : Host.Outcome State Fault Refusal :=
  mailRow f s (fun s =>
    if f = 0 ∨ ! s.ownerOk (f - 1) sess then s.mail f sess (toBytes 2 0x14)
    else if s.debugOn ∨ s.partState (f - 1) ≠ 1 then s.mail f sess (toBytes 2 0x15)
    else (s.wfs 0 (oPartStat (f - 1)) [(partStatState, 2), (partStatTdi, 1)]).mail f sess (toBytes 2 0))

/-- START_INTERFACE. -/
def execStartInterface (f sess : Nat) (s : State) : Host.Outcome State Fault Refusal :=
  mailRow f s (fun s =>
    if f = 0 ∨ ! s.ownerOk (f - 1) sess then s.mail f sess (toBytes 2 0x14)
    else if s.rf 0 (oPartStat (f - 1)) partStatTdi ≠ 1 then s.mail f sess (toBytes 2 0x15)
    else (s.wf 0 (oPartStat (f - 1)) partStatTdi 2).mail f sess (toBytes 2 0))

/-- STOP_INTERFACE: back to OPEN and CONFIG_UNLOCKED. -/
def execStopInterface (f sess : Nat) (s : State) : Host.Outcome State Fault Refusal :=
  mailRow f s (fun s =>
    if f = 0 ∨ ! s.ownerOk (f - 1) sess then s.mail f sess (toBytes 2 0x14)
    else if s.partState (f - 1) < 2 then s.mail f sess (toBytes 2 0x15)
    else (s.wfs 0 (oPartStat (f - 1)) [(partStatState, 1), (partStatTdi, 0)]).mail f sess (toBytes 2 0))

/-! ## Keys (16 R678, R692, R693) -/

/-- Partition that holds key slot k, if one does. -/
def State.slotPart (s : State) (k : Nat) : Option Nat := (List.range 8).find? (fun p => s.granted 0 p 0xD 0 k k)

/-- KEY_PROG: a key enters a slot, through a session of its partition's VF, or of the PF when no partition holds the slot. -/
def execKeyProg (f sess slot key : Nat) (s : State) : Host.Outcome State Fault Refusal :=
  mailRow f s (fun s =>
    let holder : Nat := match s.slotPart slot with
      | some p => p + 1
      | none => 0
    if 127 < slot then s.mail f sess (toBytes 2 0x20)
    else if s.debugOn then s.mail f sess (toBytes 2 0x15)
    else if ! (s.session sess).any (fun x => x.up && x.fn = f) ∨ holder ≠ f then s.mail f sess (toBytes 2 0x21)
    else ({ s with keys := mset keyDefault s.keys slot (some (BitVec.ofNat 256 key)) }).mail f sess (toBytes 2 0))

/-- IDE_KM: the key of the function's selective stream: a VF's by its partition's owner, the PF's in a session of the PF. -/
def execIdeKm (f sess key : Nat) (s : State) : Host.Outcome State Fault Refusal :=
  mailRow f s (fun s =>
    if s.debugOn then s.mail f sess (toBytes 2 0x15)
    else if f = 0 then
      (if ! (s.session sess).any (fun x => x.up && x.fn = 0) then s.mail f sess (toBytes 2 0x14)
       else (s.putPart 8 { s.partRec 8 with ide := some (BitVec.ofNat 256 key) }).mail f sess (toBytes 2 0))
    else if ! s.ownerOk (f - 1) sess then s.mail f sess (toBytes 2 0x14)
    else
      ((s.putPart (f - 1) { s.partRec (f - 1) with ide := some (BitVec.ofNat 256 key) }).wf 0 (oPartStat (f - 1)) partStatIdeok 1).mail f sess
        (toBytes 2 0))

end Sys2Proof.Machine
end

