-- ==== Sys2Proof/Machine/Dispatch.lean ====
section
/-!
DEFINITION. Sys2Proof/Machine/Dispatch.lean: one arm per command, each a direct call of its meaning.
-/
namespace Sys2Proof.Machine

def exec (i : Instr) (s : State) : Host.Outcome State Fault Refusal :=
  match i with
  | .steep d c => Sys2Proof.Machine.execSteep d c s
  | .mash d c => Sys2Proof.Machine.execMash d c s
  | .draw d c => Sys2Proof.Machine.execDraw d c s
  | .skip d c => Sys2Proof.Machine.execSkip d c s
  | .tallyReport d c => Sys2Proof.Machine.execTallyReport d c s
  | .tallyRescan d c => Sys2Proof.Machine.execTallyRescan d c s
  | .steepRowCommit d v => Sys2Proof.Machine.execSteepRowCommit d v s
  | .tallyEntryCommit d v => Sys2Proof.Machine.execTallyEntryCommit d v s
  | .gristRowRelease d v r => Sys2Proof.Machine.execGristRowRelease d v r s
  | .tallyEntryRelease d v => Sys2Proof.Machine.execTallyEntryRelease d v s
  | .passBind d v => Sys2Proof.Machine.execPassBind d v s
  | .injectBeat d => Sys2Proof.Machine.execInjectBeat d s
  | .beatEnterVat d v => Sys2Proof.Machine.execBeatEnterVat d v s
  | .beatSend d v => Sys2Proof.Machine.execBeatSend d v s
  | .creditReturnArrive d l => Sys2Proof.Machine.execCreditReturnArrive d l s
  | .bridgeBeatSend d => Sys2Proof.Machine.execBridgeBeatSend d s
  | .bridgeBeatLand d => Sys2Proof.Machine.execBridgeBeatLand d s
  | .wortWrite d v r => Sys2Proof.Machine.execWortWrite d v r s
  | .tallyCheck d v => Sys2Proof.Machine.execTallyCheck d v s
  | .drawRowRead d v => Sys2Proof.Machine.execDrawRowRead d v s
  | .vatInstructionComplete d v => Sys2Proof.Machine.execVatInstructionComplete d v s
  | .vatAbortNotice d v tag => Sys2Proof.Machine.execVatAbortNotice d v tag s
  | .vatAbortDrainEnd d v => Sys2Proof.Machine.execVatAbortDrainEnd d v s
  | .longModeSwitch => Sys2Proof.Machine.execLongModeSwitch s
  | .hydSnap q d p set => Sys2Proof.Machine.execHydSnap q d p set s
  | .kscApplied q d p => Sys2Proof.Machine.execKscApplied q d p s
  | .kscSkipped q d p => Sys2Proof.Machine.execKscSkipped q d p s
  | .fadd d c => Sys2Proof.Machine.execFadd d c s
  | .fmul d c => Sys2Proof.Machine.execFmul d c s
  | .ffma d c => Sys2Proof.Machine.execFfma d c s
  | .fmax d c => Sys2Proof.Machine.execFmax d c s
  | .fmin d c => Sys2Proof.Machine.execFmin d c s
  | .fsel d c => Sys2Proof.Machine.execFsel d c s
  | .fcmp d c => Sys2Proof.Machine.execFcmp d c s
  | .fspec d c => Sys2Proof.Machine.execFspec d c s
  | .fred d c => Sys2Proof.Machine.execFred d c s
  | .iadd d c => Sys2Proof.Machine.execIadd d c s
  | .isub d c => Sys2Proof.Machine.execIsub d c s
  | .imul d c => Sys2Proof.Machine.execImul d c s
  | .ilog d c => Sys2Proof.Machine.execIlog d c s
  | .mov d c => Sys2Proof.Machine.execMov d c s
  | .cvt d c => Sys2Proof.Machine.execCvt d c s
  | .drop d c => Sys2Proof.Machine.execDrop d c s
  | .rand d c => Sys2Proof.Machine.execRand d c s
  | .mupd d c => Sys2Proof.Machine.execMupd d c s
  | .ld d c => Sys2Proof.Machine.execLd d c s
  | .st d c => Sys2Proof.Machine.execSt d c s
  | .ldc d c => Sys2Proof.Machine.execLdc d c s
  | .stc d c => Sys2Proof.Machine.execStc d c s
  | .kpush d c => Sys2Proof.Machine.execKpush d c s
  | .pack24 d c => Sys2Proof.Machine.execPack24 d c s
  | .topk d c => Sys2Proof.Machine.execTopk d c s
  | .scupd d c => Sys2Proof.Machine.execScupd d c s
  | .salu d c => Sys2Proof.Machine.execSalu d c s
  | .sli d c => Sys2Proof.Machine.execSli d c s
  | .br d c => Sys2Proof.Machine.execBr d c s
  | .loop d c => Sys2Proof.Machine.execLoop d c s
  | .kettleGroupComplete d k => Sys2Proof.Machine.execKettleGroupComplete d k s
  | .accumulateUnit d k => Sys2Proof.Machine.execAccumulateUnit d k s
  | .post d c => Sys2Proof.Machine.execPost d c s
  | .wait d c => Sys2Proof.Machine.execWait d c s
  | .waitRelease d c => Sys2Proof.Machine.execWaitRelease d c s
  | .fence d c => Sys2Proof.Machine.execFence d c s
  | .fenceSatisfied d c => Sys2Proof.Machine.execFenceSatisfied d c s
  | .spawn d c => Sys2Proof.Machine.execSpawn d c s
  | .yield d c => Sys2Proof.Machine.execYield d c s
  | .end_ d c => Sys2Proof.Machine.execEnd d c s
  | .instructionFetch d c => Sys2Proof.Machine.execInstructionFetch d c s
  | .contextImageUpdate d c us => Sys2Proof.Machine.execContextImageUpdate d c us s
  | .watchdogFire d kind x ms => Sys2Proof.Machine.execWatchdogFire d kind x ms s
  | .rack d c => Sys2Proof.Machine.execRack d c s
  | .turn d c => Sys2Proof.Machine.execTurn d c s
  | .gather d c => Sys2Proof.Machine.execGather d c s
  | .scatter d c => Sys2Proof.Machine.execScatter d c s
  | .scatterAdd d c => Sys2Proof.Machine.execScatterAdd d c s
  | .scatterDispatch d c => Sys2Proof.Machine.execScatterDispatch d c s
  | .scatterSlotMap d c => Sys2Proof.Machine.execScatterSlotMap d c s
  | .stash d c => Sys2Proof.Machine.execStash d c s
  | .unstash d c => Sys2Proof.Machine.execUnstash d c s
  | .rackRequestIssue d qu => Sys2Proof.Machine.execRackRequestIssue d qu s
  | .rackRequestComplete d qu n => Sys2Proof.Machine.execRackRequestComplete d qu n s
  | .rackInstructionComplete d qu n => Sys2Proof.Machine.execRackInstructionComplete d qu n s
  | .streamTileReady d qu => Sys2Proof.Machine.execStreamTileReady d qu s
  | .streamGateOpen d qu => Sys2Proof.Machine.execStreamGateOpen d qu s
  | .regulatorRefill d => Sys2Proof.Machine.execRegulatorRefill d s
  | .trackerEntryWaitEnd d qu => Sys2Proof.Machine.execTrackerEntryWaitEnd d qu s
  | .rackingAbortNotice d tag => Sys2Proof.Machine.execRackingAbortNotice d tag s
  | .rackingDrainReport d tag => Sys2Proof.Machine.execRackingDrainReport d tag s
  | .hostCompletion d qu ok => Sys2Proof.Machine.execHostCompletion d qu ok s
  | .hostCompletionTimeout d qu us => Sys2Proof.Machine.execHostCompletionTimeout d qu us s
  | .ledgerArm d port => Sys2Proof.Machine.execLedgerArm d port s
  | .ledgerCommitting d port => Sys2Proof.Machine.execLedgerCommitting d port s
  | .ledgerClose d port => Sys2Proof.Machine.execLedgerClose d port s
  | .pour d c => Sys2Proof.Machine.execPour d c s
  | .pourRegister d src => Sys2Proof.Machine.execPourRegister d src s
  | .pourComplete d p sl n => Sys2Proof.Machine.execPourComplete d p sl n s
  | .collect d c => Sys2Proof.Machine.execCollect d c s
  | .chunkSend d p sl => Sys2Proof.Machine.execChunkSend d p sl s
  | .chunkRelease d p sl => Sys2Proof.Machine.execChunkRelease d p sl s
  | .collectComplete d p sl => Sys2Proof.Machine.execCollectComplete d p sl s
  | .tunAbortNotice d tag => Sys2Proof.Machine.execTunAbortNotice d tag s
  | .tunDrainReport d tag => Sys2Proof.Machine.execTunDrainReport d tag s
  | .slotStart d t use => Sys2Proof.Machine.execSlotStart d t use s
  | .epochBoundary d => Sys2Proof.Machine.execEpochBoundary d s
  | .slotSwap d t => Sys2Proof.Machine.execSlotSwap d t s
  | .jobFault => Sys2Proof.Machine.execJobFault s
  | .jobDrainComplete tag => Sys2Proof.Machine.execJobDrainComplete tag s
  | .jobNormalEnd tag => Sys2Proof.Machine.execJobNormalEnd tag s
  | .poisonConsumed => Sys2Proof.Machine.execPoisonConsumed s
  | .patrolScrub d cw => Sys2Proof.Machine.execPatrolScrub d cw s
  | .inocArm q d => Sys2Proof.Machine.execInocArm q d s
  | .inocDisarm q d => Sys2Proof.Machine.execInocDisarm q d s
  | .inocFire d => Sys2Proof.Machine.execInocFire d s
  | .flitSend d port => Sys2Proof.Machine.execFlitSend d port s
  | .flitReceive d port fl dataErrs parErrs => Sys2Proof.Machine.execFlitReceive d port fl dataErrs parErrs s
  | .idle d port fl => Sys2Proof.Machine.execIdle d port fl s
  | .nak d port fl => Sys2Proof.Machine.execNak d port fl s
  | .nakResend d port us => Sys2Proof.Machine.execNakResend d port us s
  | .retryLimit d port us => Sys2Proof.Machine.execRetryLimit d port us s
  | .ident d port fl => Sys2Proof.Machine.execIdent d port fl s
  | .lanestat d port fl => Sys2Proof.Machine.execLanestat d port fl s
  | .trainComplete d port gt gr => Sys2Proof.Machine.execTrainComplete d port gt gr s
  | .trainTimeout d port us => Sys2Proof.Machine.execTrainTimeout d port us s
  | .downRetrainTimer d port us => Sys2Proof.Machine.execDownRetrainTimer d port us s
  | .laneErrorRetrain d port tx lane fault => Sys2Proof.Machine.execLaneErrorRetrain d port tx lane fault s
  | .retrainResult d port tx ok good us => Sys2Proof.Machine.execRetrainResult d port tx ok good us s
  | .portDown d port => Sys2Proof.Machine.execPortDown d port s
  | .qlinkCableMate d port => Sys2Proof.Machine.execQlinkCableMate d port s
  | .qlinkCableUnmate d port => Sys2Proof.Machine.execQlinkCableUnmate d port s
  | .qlTrainWrite d port v => Sys2Proof.Machine.execQlTrainWrite d port v s
  | .qlRetrainWrite d port => Sys2Proof.Machine.execQlRetrainWrite d port s
  | .messageReceive d port ch => Sys2Proof.Machine.execMessageReceive d port ch s
  | .wreq d port ch => Sys2Proof.Machine.execWreq d port ch s
  | .rreq d port ch => Sys2Proof.Machine.execRreq d port ch s
  | .rdata d port ch => Sys2Proof.Machine.execRdata d port ch s
  | .wack d port ch => Sys2Proof.Machine.execWack d port ch s
  | .postMessage d port ch => Sys2Proof.Machine.execPostMessage d port ch s
  | .disp d port ch => Sys2Proof.Machine.execDisp d port ch s
  | .notice d port ch => Sys2Proof.Machine.execNotice d port ch s
  | .chunk d port ch => Sys2Proof.Machine.execChunk d port ch s
  | .abort d port ch => Sys2Proof.Machine.execAbort d port ch s
  | .hb d port ch => Sys2Proof.Machine.execHb d port ch s
  | .hbr d port ch => Sys2Proof.Machine.execHbr d port ch s
  | .pnot d port ch => Sys2Proof.Machine.execPnot d port ch s
  | .mgmt d port ch => Sys2Proof.Machine.execMgmt d port ch s
  | .hbSend d => Sys2Proof.Machine.execHbSend d s
  | .hbLoss d port us => Sys2Proof.Machine.execHbLoss d port us s
  | .dieHeartbeatTimeout d => Sys2Proof.Machine.execDieHeartbeatTimeout d s
  | .cmdtail f v rd => Sys2Proof.Machine.execCmdtail f v rd s
  | .cplhead f v => Sys2Proof.Machine.execCplhead f v s
  | .ringEnable f v => Sys2Proof.Machine.execRingEnable f v s
  | .ringRestart f => Sys2Proof.Machine.execRingRestart f s
  | .statusWordUpdate f => Sys2Proof.Machine.execStatusWordUpdate f s
  | .longCommandEnd f => Sys2Proof.Machine.execLongCommandEnd f s
  | .nop f => Sys2Proof.Machine.execNop f s
  | .identify f => Sys2Proof.Machine.execIdentify f s
  | .status f => Sys2Proof.Machine.execStatus f s
  | .setModnum f => Sys2Proof.Machine.execSetModnum f s
  | .reset f => Sys2Proof.Machine.execReset f s
  | .logRead f => Sys2Proof.Machine.execLogRead f s
  | .winSet f => Sys2Proof.Machine.execWinSet f s
  | .winClear f => Sys2Proof.Machine.execWinClear f s
  | .copy f => Sys2Proof.Machine.execCopy f s
  | .cancel f => Sys2Proof.Machine.execCancel f s
  | .jobStart f => Sys2Proof.Machine.execJobStart f s
  | .jobAbort f => Sys2Proof.Machine.execJobAbort f s
  | .stateSave f => Sys2Proof.Machine.execStateSave f s
  | .stateLoad f => Sys2Proof.Machine.execStateLoad f s
  | .ctrPost f => Sys2Proof.Machine.execCtrPost f s
  | .ctrRead f => Sys2Proof.Machine.execCtrRead f s
  | .recipeLoad f => Sys2Proof.Machine.execRecipeLoad f s
  | .overlay f => Sys2Proof.Machine.execOverlay f s
  | .partCreate f => Sys2Proof.Machine.execPartCreate f s
  | .partAssign f => Sys2Proof.Machine.execPartAssign f s
  | .partRevoke f => Sys2Proof.Machine.execPartRevoke f s
  | .partDestroy f => Sys2Proof.Machine.execPartDestroy f s
  | .keyGroup f => Sys2Proof.Machine.execKeyGroup f s
  | .inocGrant f => Sys2Proof.Machine.execInocGrant f s
  | .protRead f => Sys2Proof.Machine.execProtRead f s
  | .getMeasurements f => Sys2Proof.Machine.execGetMeasurements f s
  | .keyExchange f auth key => Sys2Proof.Machine.execKeyExchange f auth key s
  | .spdmRequest f sess code msg => Sys2Proof.Machine.execSpdmRequest f sess code msg s
  | .lockInterface f sess => Sys2Proof.Machine.execLockInterface f sess s
  | .startInterface f sess => Sys2Proof.Machine.execStartInterface f sess s
  | .stopInterface f sess => Sys2Proof.Machine.execStopInterface f sess s
  | .keyProg f sess slot key => Sys2Proof.Machine.execKeyProg f sess slot key s
  | .ideKm f sess key => Sys2Proof.Machine.execIdeKm f sess key s
  | .protectionFence => Sys2Proof.Machine.execProtectionFence s
  | .dieTableSwitch d => Sys2Proof.Machine.execDieTableSwitch d s
  | .fenceComplete => Sys2Proof.Machine.execFenceComplete s
  | .fenceAccessTimeout ms => Sys2Proof.Machine.execFenceAccessTimeout ms s
  | .commitStart => Sys2Proof.Machine.execCommitStart s
  | .commitRetry => Sys2Proof.Machine.execCommitRetry s
  | .powerOnReset => Sys2Proof.Machine.execPowerOnReset s
  | .moduleReset held => Sys2Proof.Machine.execModuleReset held s
  | .selfTestDeadline => Sys2Proof.Machine.execSelfTestDeadline s
  | .warmReset => Sys2Proof.Machine.execWarmReset s
  | .partitionReset p => Sys2Proof.Machine.execPartitionReset p s
  | .islandReset d port => Sys2Proof.Machine.execIslandReset d port s
  | .pcieHotReset => Sys2Proof.Machine.execPcieHotReset s
  | .flrPf => Sys2Proof.Machine.execFlrPf s
  | .flrVf p => Sys2Proof.Machine.execFlrVf p s
  | .throttleEvaluation => Sys2Proof.Machine.execThrottleEvaluation s
  | .inputCurrentThrottle ma us => Sys2Proof.Machine.execInputCurrentThrottle ma us s
  | .throttleApply d => Sys2Proof.Machine.execThrottleApply d s
  | .trip tj tst ma us => Sys2Proof.Machine.execTrip tj tst ma us s
  | .telemetrySample vin iin pin energy tel => Sys2Proof.Machine.execTelemetrySample vin iin pin energy tel s
  | .pgoodFall => Sys2Proof.Machine.execPgoodFall s
  | .islandRestEnter d port => Sys2Proof.Machine.execIslandRestEnter d port s
  | .islandWake d port => Sys2Proof.Machine.execIslandWake d port s
  | .dieDormantEnter d => Sys2Proof.Machine.execDieDormantEnter d s
  | .dieWake d => Sys2Proof.Machine.execDieWake d s
  | .moduleSleep => Sys2Proof.Machine.execModuleSleep s
  | .moduleWake => Sys2Proof.Machine.execModuleWake s
  | .pcieAtomicRequest f => Sys2Proof.Machine.execPcieAtomicRequest f s
  | .registerWrite q d off width v => Sys2Proof.Machine.execRegisterWrite q d off width v s
  | .registerClearingRead q d off => Sys2Proof.Machine.execRegisterClearingRead q d off s
  | .smbusIdentityRead => Sys2Proof.Machine.execSmbusIdentityRead s
  | .smbusStateRead => Sys2Proof.Machine.execSmbusStateRead s
  | .smbusPowerRead => Sys2Proof.Machine.execSmbusPowerRead s
  | .smbusTelemetryRead => Sys2Proof.Machine.execSmbusTelemetryRead s
  | .smbusHoldupRead => Sys2Proof.Machine.execSmbusHoldupRead s
  | .flashExt low => Sys2Proof.Machine.execFlashExt low s
  | .extest d => Sys2Proof.Machine.execExtest d s
  | .samplePreload d v => Sys2Proof.Machine.execSamplePreload d v s
  | .idcode d => Sys2Proof.Machine.execIdcode d s
  | .clamp d => Sys2Proof.Machine.execClamp d s
  | .highz d => Sys2Proof.Machine.execHighz d s
  | .extestPulse d => Sys2Proof.Machine.execExtestPulse d s
  | .extestTrain d => Sys2Proof.Machine.execExtestTrain d s
  | .bypass d => Sys2Proof.Machine.execBypass d s
  | .pgoodRise => Sys2Proof.Machine.execPgoodRise s
  | .converterCutOff => Sys2Proof.Machine.execConverterCutOff s
  | .commitEnd => Sys2Proof.Machine.execCommitEnd s
  | .dieHeartbeatExchange silent => Sys2Proof.Machine.execDieHeartbeatExchange silent s

end Sys2Proof.Machine
end

