-- ==== Sys2Proof/Safety.lean ====
section
/-!
DEFINITION. Sys2Proof/Safety.lean: what a safe state of the module is, and the words the statements use.
-/
namespace Sys2Proof.Machine

/-- The byte store is in its canonical form. -/
def State.memOk (s : State) : Bool := mwf memDefault s.mem

/-- The codeword marks are in their canonical form. -/
def State.marksOk (s : State) : Bool := mwf markDefault s.marks

/-- The register file is in its canonical form: a listed register differs from its reset value. -/
def State.regsOk (s : State) : Bool := mwf regDefault s.regs

/-- Every sparse part of the state is listed by rising keys. -/
def State.sorted (s : State) : Bool :=
  mrising s.ctxs && mrising s.vats && mrising s.rings && mrising s.hyd && mrising s.fns && mrising s.ceSeen &&
  mrising s.slotOwn && mrising s.ports && mrising s.seen && mrising s.keys && mrising s.rackqs && mrising s.tunOwn &&
  mrising s.ledNew && mrising s.specRows && mrising s.abortRk && mrising s.abortTun && mrising s.drainRk && mrising s.drainTun &&
  mrising s.accq && mrising s.tslots && mrising s.dieHbAge && mrising s.jobs && mrising s.inocLeft && mrising s.kcores &&
  mrising s.rkLast && mrising s.turnTile && mrising s.parts && mrising s.bmrs && mrising s.levels && mrising s.calm && mrising s.dieLevel && mrising s.taps

/-- The state is in its canonical form: equal machines are equal data. -/
def State.canon (s : State) : Bool := s.memOk && s.marksOk && s.regsOk && s.sorted

/-- A step that goes on. -/
def stepsTo (s t : State) : Prop := step s = .next t

/-- The outcome goes on, in a state of which P holds. -/
def goesOn (o : Host.Outcome State Fault Refusal) (P : State → Prop) : Prop := ∃ t, o = .next t ∧ P t

/-- Context c of die d presents the word w (10 R403, R407). -/
def State.presents (s : State) (d c : Nat) (w : InstrWord) : Prop := s.hasCtx d c = true ∧ s.front d c = some w

/-- A kettle context presents a group of opcode opc with word w, the core can take it, and no check of the word fails (12 R511, R512,
R522). -/
def State.ketTakes (s : State) (opc d c : Nat) (w : InstrWord) : Prop :=
  s.presents d c w ∧ ctxEng c = 1 ∧ wbits w 0 8 = opc ∧ s.coreBusy d c = false ∧
    (s.kcore d (ctxInst c)).hazard (kForm w) = false ∧ ((kForm w).xfer = true → (s.kcore d (ctxInst c)).pend = []) ∧
    wordRsvd w (kForm w).used = false ∧ (kForm w).mode = false ∧ (kForm w).count = false

/-- A context presents a synchronisation instruction of opcode opc with word w that its engine can take (10 R417, 12 R509). -/
def State.syncTakes (s : State) (opc d c : Nat) (w : InstrWord) : Prop :=
  s.presents d c w ∧ wbits w 0 8 = opc ∧ (ctxEng c = 1 → s.coreBusy d c = false)

/-- What a synchronisation instruction leaves: in a kettle core it also counts as a compute group (12 R509, R507). -/
def syncLeaves (d c : Nat) (t : State) : State := if ctxEng c = 1 then t.ketGroup d c else t

/-- Function f's ring holds the packet p of opcode opc, checked and not begun, and it need not wait (14 R595, R599). -/
def State.hostRuns (s : State) (f opc : Nat) (p : Pkt) : Prop :=
  f < 9 ∧ (s.fn f).cur = some p ∧ p.opc = opc ∧ (s.fn f).stage = 0 ∧ s.mustWait f p = false ∧ s.stateFail p = none

end Sys2Proof.Machine
end

