-- ==== Sys2Proof/WellFormed.lean ====
section
/-!
DEFINITION. Sys2Proof/WellFormed.lean: the commands a module of n dies can be sent: every unit that a command names is one the module
has (00 R3, R5, R17).
-/
namespace Sys2Proof

/-- A register access reaches the module: its requester exists, and its die does, or it comes through BAR0, which spans eight dies
(14 R584). -/
def regArrives (n : Nat) (q : Requester) (d : Nat) : Bool :=
  (match q with
    | .kettle e k => decide (e < n) && decide (k < 4)
    | .vf p => decide (p < 8)
    | .firmware k => decide (k / 4 < n)
    | _ => true) &&
  (decide (d < n) || (decide (d < 8) && (match q with
    | .pf => true
    | .vf _ => true
    | _ => false)))

/-- Object x of a kind that the watchdog watches (10 R434): 0 context, 1 vat, 2 ledger, 3 rack queue, 4 rack queue or tun slot. -/
def watched (kind x : Nat) : Bool := match kind with
  | 0 => decide (x < 25600)
  | 1 => decide (x < 16)
  | 2 => decide (x < 256)
  | 3 => decide (x < 256)
  | 4 => decide (x < 769) && decide (x ≠ 256)
  | _ => false

/-- The command names units of a module of n dies. -/
def wellFormed (n : Nat) (i : Instr) : Bool := match i with
  | .steep d c | .mash d c | .draw d c | .skip d c | .tallyReport d c | .tallyRescan d c | .fadd d c | .fmul d c
  | .ffma d c | .fmax d c | .fmin d c | .fsel d c | .fcmp d c | .fspec d c | .fred d c | .iadd d c | .isub d c
  | .imul d c | .ilog d c | .mov d c | .cvt d c | .drop d c | .rand d c | .mupd d c | .ld d c | .st d c | .ldc d c
  | .stc d c | .kpush d c | .pack24 d c | .topk d c | .scupd d c | .salu d c | .sli d c | .br d c | .loop d c
  | .post d c | .wait d c | .waitRelease d c | .fence d c | .fenceSatisfied d c | .spawn d c | .yield d c | .end_ d c
  | .instructionFetch d c | .contextImageUpdate d c _ | .rack d c | .turn d c | .gather d c | .scatter d c
  | .scatterAdd d c | .scatterDispatch d c | .scatterSlotMap d c | .stash d c | .unstash d c | .pour d c | .collect d c => decide (d < n) && decide (c < 25600)
  | .steepRowCommit d v | .tallyEntryCommit d v | .tallyEntryRelease d v | .passBind d v | .beatEnterVat d v
  | .beatSend d v | .tallyCheck d v | .drawRowRead d v | .vatInstructionComplete d v | .vatAbortNotice d v _
  | .vatAbortDrainEnd d v => decide (d < n) && decide (v < 16)
  | .gristRowRelease d v r | .wortWrite d v r => decide (d < n) && decide (v < 16) && decide (r < 128)
  | .injectBeat d | .bridgeBeatSend d | .bridgeBeatLand d | .regulatorRefill d | .epochBoundary d | .inocFire d
  | .hbSend d | .dieHeartbeatTimeout d | .dieTableSwitch d | .islandReset d _ | .throttleApply d | .islandRestEnter d _
  | .islandWake d _ | .dieDormantEnter d | .dieWake d | .extest d | .samplePreload d _ | .idcode d | .clamp d
  | .highz d | .extestPulse d | .extestTrain d | .bypass d => decide (d < n)
  | .creditReturnArrive d l => decide (d < n) && decide (l < 19)
  | .longModeSwitch | .jobFault | .jobDrainComplete _ | .jobNormalEnd _ | .poisonConsumed | .protectionFence
  | .fenceComplete | .fenceAccessTimeout _ | .commitStart | .commitRetry | .powerOnReset | .moduleReset _
  | .selfTestDeadline | .warmReset | .pcieHotReset | .flrPf | .throttleEvaluation | .inputCurrentThrottle _ _
  | .trip _ _ _ _ | .telemetrySample _ _ _ _ _ | .pgoodFall | .moduleSleep | .moduleWake | .smbusIdentityRead
  | .smbusStateRead | .smbusPowerRead | .smbusTelemetryRead | .smbusHoldupRead | .flashExt _ | .pgoodRise
  | .converterCutOff | .commitEnd | .dieHeartbeatExchange _ => true
  | .hydSnap q d p _ | .kscApplied q d p | .kscSkipped q d p => decide (p < 8) && regArrives n q d
  | .kettleGroupComplete d k | .accumulateUnit d k => decide (d < n) && decide (k < 4)
  | .watchdogFire d kind x _ => decide (d < n) && watched kind x
  | .rackRequestIssue d qu | .rackRequestComplete d qu _ | .rackInstructionComplete d qu _ | .trackerEntryWaitEnd d qu
  | .hostCompletion d qu _ | .hostCompletionTimeout d qu _ => decide (d < n) && decide (qu < 257)
  | .streamTileReady d qu | .streamGateOpen d qu => decide (d < n) && decide (qu < 256)
  | .rackingAbortNotice d tag | .rackingDrainReport d tag | .tunAbortNotice d tag | .tunDrainReport d tag => decide (d < n) && decide (tag < 256)
  | .ledgerArm d i | .ledgerCommitting d i | .ledgerClose d i => decide (d < n) && decide (i < 256)
  | .pourRegister d src => decide (d < n) && decide (src < n)
  | .pourComplete d p sl _ | .chunkSend d p sl | .chunkRelease d p sl | .collectComplete d p sl => decide (d < n) && decide (p < 8) && decide (sl < 64)
  | .slotStart d t _ | .slotSwap d t => decide (d < n) && decide (t < 5)
  | .patrolScrub d cw => decide (d < n) && decide (cw < 2 ^ 25 + 2 ^ 21 + 5 * 2 ^ 29)
  | .inocArm q d | .inocDisarm q d | .registerWrite q d _ _ _ | .registerClearingRead q d _ => regArrives n q d
  | .laneErrorRetrain d i _ lane _ => decide (d < n) && decide (i < 3) && decide (lane < 8)
  | .flitSend d i | .flitReceive d i _ _ _ | .idle d i _ | .nak d i _ | .nakResend d i _ | .retryLimit d i _
  | .ident d i _ | .lanestat d i _ | .trainComplete d i _ _ | .trainTimeout d i _ | .downRetrainTimer d i _
  | .retrainResult d i _ _ _ _ | .portDown d i | .qlinkCableMate d i
  | .qlinkCableUnmate d i | .qlTrainWrite d i _ | .qlRetrainWrite d i | .hbLoss d i _ => decide (d < n) && decide (i < 3)
  | .messageReceive d i ch | .wreq d i ch | .rreq d i ch | .rdata d i ch | .wack d i ch | .postMessage d i ch
  | .disp d i ch | .notice d i ch | .chunk d i ch | .abort d i ch | .hb d i ch | .hbr d i ch | .pnot d i ch
  | .mgmt d i ch => decide (d < n) && decide (i < 3) && decide (ch < 15)
  | .cmdtail f _ _ | .cplhead f _ | .ringEnable f _ | .ringRestart f | .statusWordUpdate f | .longCommandEnd f | .nop f
  | .identify f | .status f | .setModnum f | .reset f | .logRead f | .winSet f | .winClear f | .copy f | .cancel f
  | .jobStart f | .jobAbort f | .stateSave f | .stateLoad f | .ctrPost f | .ctrRead f | .recipeLoad f | .overlay f
  | .partCreate f | .partAssign f | .partRevoke f | .partDestroy f | .keyGroup f | .inocGrant f | .protRead f
  | .getMeasurements f | .keyExchange f _ _ | .spdmRequest f _ _ _ | .lockInterface f _ | .startInterface f _
  | .stopInterface f _ | .keyProg f _ _ _ | .ideKm f _ _ | .pcieAtomicRequest f => decide (f < 9)
  | .partitionReset p | .flrVf p => decide (p < 8)

end Sys2Proof
end

