-- ==== Sys2Proof/Certificates/Slice0/Obligations.lean ====
section
/-! DEFINITION. The statements for the provers: what each family of commands does to the module, and what every step keeps. The
docstrings name the chapter and rule of the specification that a clause follows (02 R65 is rule R65 of 02_sparge_ring.md). -/

open Sys2Proof Sys2Proof.Machine

/-- 03 R105: an instruction that a vat context presents, that no check rejects and whose queue has room enters its unit's queue, with the
next number of acceptance, and its context goes on to the next word. A MASH makes its half's rows ACCUM (02 R91), and a STEEP makes a
RELEASED bank STEEPING (02 R65). 03 R138: one with no rows, columns or passes completes at once.

03 R107: a vat instruction that a check rejects is not accepted and stops its context with the code of the first check that fails;
03 R106: one whose queue is full holds its context. -/
def Obligations.VatInstructionsEnterTheirQueuesOrAreTurnedAway : Prop :=
  (
  ∀ (s : State) (d c : Nat) (w : InstrWord), s.presents d c w → ctxEng c = 0 →
    let v := ctxInst c
    let x := s.vat d v
    let i := s.vinstr d c w
    (wbits w 0 8 = 0x40 → firstFail (steepChecks s d c w) = none → x.steepQ.length < 8 →
      let y : Vat := { x with steepQ := x.steepQ ++ [i], seq := x.seq + 1 }
      exec (.steep d c) s = .next (steepAdvance d v 9
        ((s.putVat d v (if x.bank (stBANK w) = bRELEASED then y.setBank (stBANK w) bSTEEPING else y)).accept d c 1 true))) ∧
    (wbits w 0 8 = 0x41 → firstFail (mashChecks s d c w) = none → s.rf d oSpineMode spineModePend ≠ 1 → x.mashQ.length < 8 →
      0 < maNCOL w →
      exec (.mash d c) s = .next ((s.putVat d v (({ x with mashQ := x.mashQ ++ [i], seq := x.seq + 1 } : Vat).setAccum (maHALF w)
        (BitVec.allOnes 128))).accept d c 1 true)) ∧
    (wbits w 0 8 = 0x42 → firstFail (drawChecks s d c w) = none → x.drawQ.length < 8 → 0 < drROWS w → 0 < drNCOL w →
      exec (.draw d c) s = .next ((s.putVat d v { x with drawQ := x.drawQ ++ [i], seq := x.seq + 1 }).accept d c 1 true)) ∧
    (wbits w 0 8 = 0x43 → wbits w 36 92 = 0 → x.mashQ.length < 8 → 0 < skNPASS w →
      exec (.skip d c) s = .next ((s.putVat d v { x with mashQ := x.mashQ ++ [i], seq := x.seq + 1 }).accept d c 1 true)) ∧
    (wbits w 0 8 = 0x44 → firstFail (tallyChecks s d c w) = none → x.steepQ.length < 8 →
      let t := (s.putVat d v { x with steepQ := x.steepQ ++ [i], seq := x.seq + 1 }).accept d c 1 true
      let u := if x.steepQ = [] then steepAdvance d v 9 t else t
      (taOP w = 0 → exec (.tallyReport d c) s = .next u) ∧ (taOP w = 1 → exec (.tallyRescan d c) s = .next u)) ∧
    (let t := (s.putVat d v { x with done := x.done ++ [i], seq := x.seq + 1 }).accept d c 1 true
     (wbits w 0 8 = 0x41 → firstFail (mashChecks s d c w) = none → s.rf d oSpineMode spineModePend ≠ 1 → x.mashQ.length < 8 →
        maNCOL w = 0 → exec (.mash d c) s = .next t) ∧
     (wbits w 0 8 = 0x42 → firstFail (drawChecks s d c w) = none → x.drawQ.length < 8 → drROWS w = 0 ∨ drNCOL w = 0 →
        exec (.draw d c) s = .next t) ∧
     (wbits w 0 8 = 0x43 → wbits w 36 92 = 0 → x.mashQ.length < 8 → skNPASS w = 0 → exec (.skip d c) s = .next t))) ∧ (
  ∀ (s : State) (d c : Nat) (w : InstrWord), s.presents d c w → ctxEng c = 0 →
    let x := s.vat d (ctxInst c)
    (∀ k, wbits w 0 8 = 0x40 → firstFail (steepChecks s d c w) = some k → exec (.steep d c) s = .next (s.reject d c k 0)) ∧
    (∀ k, wbits w 0 8 = 0x41 → firstFail (mashChecks s d c w) = some k → exec (.mash d c) s = .next (s.reject d c k 1)) ∧
    (∀ k, wbits w 0 8 = 0x42 → firstFail (drawChecks s d c w) = some k → exec (.draw d c) s = .next (s.reject d c k 2)) ∧
    (wbits w 0 8 = 0x43 → wbits w 36 92 ≠ 0 → exec (.skip d c) s = .next (s.reject d c 1 1)) ∧
    (wbits w 0 8 = 0x40 → firstFail (steepChecks s d c w) = none → 8 ≤ x.steepQ.length → exec (.steep d c) s = .next (s.hold d c)) ∧
    (wbits w 0 8 = 0x41 → firstFail (mashChecks s d c w) = none → 8 ≤ x.mashQ.length → exec (.mash d c) s = .next (s.hold d c)) ∧
    (wbits w 0 8 = 0x42 → firstFail (drawChecks s d c w) = none → 8 ≤ x.drawQ.length → exec (.draw d c) s = .next (s.hold d c)) ∧
    (wbits w 0 8 = 0x43 → wbits w 36 92 = 0 → 8 ≤ x.mashQ.length → exec (.skip d c) s = .next (s.hold d c)) ∧
    (∀ k, wbits w 0 8 = 0x44 → firstFail (tallyChecks s d c w) = some k →
      (taOP w ≠ 1 → exec (.tallyReport d c) s = .next (s.reject d c k 0)) ∧
      (taOP w ≠ 0 → exec (.tallyRescan d c) s = .next (s.reject d c k 0))) ∧
    (wbits w 0 8 = 0x44 → firstFail (tallyChecks s d c w) = none → 8 ≤ x.steepQ.length →
      (taOP w = 0 → exec (.tallyReport d c) s = .next (s.hold d c)) ∧ (taOP w = 1 → exec (.tallyRescan d c) s = .next (s.hold d c))))

/-- 10 R410, R420: acceptance advances the context over n words and counts what it owes; a context that was READY changes in nothing
else, and no other part of the module changes. 10 R405: one that held also writes STATE READY into its image; 17 R708, R717: and its engine's
island leaves rest. -/
def Obligations.AcceptedInstructionAdvancesItsContext : Prop :=
  ∀ (s : State) (d c n : Nat) (out : Bool), s.canon = true → c < 25600 → (s.ctx d c).state = cREADY ∨ (s.ctx d c).state = cHOLD →
    let x := s.ctx d c
    let t := s.accept d c n out
    t.ctx d c = { x with state := cREADY, pc := (x.pc + 16 * n) % 2 ^ 32, ibuf := x.ibuf.drop n, yieldCyc := 0, yielded := false,
                         outst := x.outst + (if out then 1 else 0), heldus := 0, wctr := 0, wthr := 0 } ∧
    (∀ d' c', c' < 25600 → (d', c') ≠ (d, c) → t.ctx d' c' = s.ctx d' c') ∧
    ((s.ctx d c).state = cREADY → t = { s with ctxs := t.ctxs }) ∧
    ((s.ctx d c).state = cHOLD → s.mark (.ctx d) (c * 64) = .clean →
      t = { s.unrest d (ctxIsland c) with ctxs := t.ctxs, mem := t.mem } ∧
      (t.peek (.ctx d) (c * 64)).toNat = (s.peek (.ctx d) (c * 64)).toNat / 8 * 8 + cREADY ∧
      (∀ r o, r.loc o ≠ (Region.ctx d).loc (c * 64) → t.peek r o = s.peek r o))

/-- 02 R70: a row commit writes the entries in use of the row's 128 cells, their other entries as zero, and the row's flags, and
nothing else: the other grist, the other memories, the other vats and every codeword stay. 02 R71: it waits for the rows of earlier
grist. This is the case in which every row has been read.

02 R69–R72: with the rows that fit in the staging buffer read, a row commit takes the first of them, writes its cells and flags, adds
it to the residues of the tally entries and reads on, and keeps the address of a poisoned sack it was read from (15 R640); 02 R71: it waits
for the rows of earlier grist.

02 R72, R65, 03 R109, R115: the commit of the tally entries, once those of earlier grist are released, stores the residues of the bank's
rows, makes a STEEPING bank READY (a LIVE one stays so), keeps the record, completes the STEEP and goes on with the instruction that
follows. -/
def Obligations.SteepWritesItsRowsAndThenReadiesItsBank : Prop :=
  (
  ∀ (s : State) (d v : Nat) (i : VInstr) (q : List VInstr) (g : Staged) (rest : List Staged), s.canon = true → s.hasVat d v = true →
    (s.vat d v).steepQ = i :: q → i.opc = 0x40 → (s.vat d v).steepRead = 128 → (s.vat d v).staging = g :: rest →
    (s.vat d v).steepRow < 128 → (s.vat d v).rowFree i (s.vat d v).steepRow = true →
    let r := (s.vat d v).steepRow
    let b := stBANK i.word
    goesOn (exec (.steepRowCommit d v) s) (fun t =>
      (∀ k e, k < 128 → e < 4 → t.peek (.grist d v) ((r * 128 + k) * 8 + 4 * b + e) = (cellBytes i.word g.bytes k).getD e 0) ∧
      (∀ o, o < 2 ^ 17 → ¬ (r * 1024 ≤ o ∧ o < (r + 1) * 1024 ∧ o / 4 % 2 = b) → t.peek (.grist d v) o = s.peek (.grist d v) o) ∧
      (∀ g o, g.num ≠ (Region.grist d v).num → t.peek g o = s.peek g o) ∧
      (∀ n, n < 128 → ((t.vat d v).mask b).getLsbD n = (if n = r then g.mask else ((s.vat d v).mask b).getLsbD n)) ∧
      (t.vat d v).steepRow = r + 1 ∧ (t.vat d v).staging = rest ∧ (t.vat d v).steepQ = i :: q ∧
      t = { s with mem := t.mem, vats := t.vats })) ∧ (
  ∀ (s : State) (d v : Nat) (i : VInstr) (q : List VInstr) (g : Staged) (rest : List Staged), s.hasVat d v = true →
    let u := steepFill d v 4 s
    let x := u.vat d v
    let r := x.steepRow
    let b := stBANK i.word
    let w := commitCells d v b r i.word g.bytes 128 0 u
    let y : Vat := { x with staging := rest, steepRow := r + 1,
                            tallyNew := if (tallyRows (steepRec i.word)).contains r
                              then tallyAddRow b (steepRec i.word) g.bytes i.word 128 0 x.tallyNew else x.tallyNew }
    let m : Vat := if b = 0 then { y with mask0 := setRow y.mask0 r g.mask, psn0 := setRow y.psn0 r g.psn }
                   else { y with mask1 := setRow y.mask1 r g.mask, psn1 := setRow y.psn1 r g.psn }
    let z : Vat := { m with psnSrc := mset (fun _ => 0) m.psnSrc (b * 128 + r) g.src }
    (s.vat d v).steepQ = i :: q → i.opc = 0x40 → x.staging = g :: rest → r < 128 →
    (x.rowFree i r = true → exec (.steepRowCommit d v) s = .next (steepFill d v 4 (w.putVat d v z))) ∧
    (x.rowFree i r = false → exec (.steepRowCommit d v) s = .next u)) ∧ (
  ∀ (s : State) (d v : Nat) (i : VInstr) (rest : List VInstr), s.hasVat d v = true →
    let x := s.vat d v
    let q := stBANK i.word
    x.steepQ = i :: rest → i.opc = 0x40 → 128 ≤ x.steepRow →
    ((x.gensBefore q i.seq).all (fun g => g.trel) = true →
      let y : Vat := { x with tallyEnt := storeTally q x.tallyEnt x.tallyNew, tallyNew := [], steepQ := rest, steepRow := 0, steepRead := 0,
                              staging := [], done := x.done ++ [i] }
      let z := (y.setLive q (some (steepRec i.word))).setStruck q false
      exec (.tallyEntryCommit d v) s = .next (steepAdvance d v 9
        (s.putVat d v (if z.bank q = bSTEEPING then z.setBank q bREADY else z))) ∧
      (rest = [] → s.canon = true → goesOn (exec (.tallyEntryCommit d v) s) (fun t =>
        (x.bank q = bSTEEPING → (t.vat d v).bank q = bREADY) ∧ (x.bank q ≠ bSTEEPING → (t.vat d v).bank q = x.bank q) ∧
        (t.vat d v).live q = some (steepRec i.word) ∧
        (t.vat d v).steepQ = [] ∧ (t.vat d v).steepRow = 0 ∧ (t.vat d v).done = x.done ++ [i] ∧ t = { s with vats := t.vats }))) ∧
    ((x.gensBefore q i.seq).all (fun g => g.trel) = false → exec (.tallyEntryCommit d v) s = .next s))

/-- 02 R89: a returned credit that is on its way reaches its sender, which may place one more beat: the injection point
takes it for a landed beat first (02 R82). Nothing arrives where no credit is on its way.

02 R79, R82: with a credit, and no beat of the previous die before it, the injection point places the next beat of its MASH in V0's
incoming buffer, and a rest of V0's island ends (17 R708); the last beat frees it, and in long sparge chooses the die that injects next (03 R121). Without one it waits. 02 R81, 03
R118: with no injection active, that of the oldest MASH that waits starts when the ring is its job's or can be given to it. -/
def Obligations.CreditsReturnAndInjectionPlacesBeats : Prop :=
  (
  ∀ (s : State) (d : Nat), s.canon = true → s.hasDie d = true →
    let g := s.ring d
    (∀ l, l < 16 → 0 < (s.vat d l).credTransit → (s.vat d l).outCred < 32 →
      goesOn (exec (.creditReturnArrive d l) s) (fun t =>
        t.vat d l = { s.vat d l with credTransit := (s.vat d l).credTransit - 1, outCred := (s.vat d l).outCred + 1 } ∧
        (∀ e u, e * 16 + u ≠ d * 16 + l → t.vat e u = s.vat e u) ∧ t = { s with vats := t.vats })) ∧
    (0 < g.injTransit → g.injCred < 32 →
      exec (.creditReturnArrive d 16) s =
        .next (pumpLanding d 32 (s.putRing d { g with injTransit := g.injTransit - 1, injCred := g.injCred + 1 })) ∧
      (g.landing = [] → goesOn (exec (.creditReturnArrive d 16) s) (fun t =>
        t.ring d = { g with injTransit := g.injTransit - 1, injCred := g.injCred + 1 } ∧ t = { s with rings := t.rings }))) ∧
    (0 < g.sendTransit → g.sendCred < 512 →
      goesOn (exec (.creditReturnArrive d 17) s) (fun t =>
        t.ring d = { g with sendTransit := g.sendTransit - 1, sendCred := g.sendCred + 1 } ∧ t = { s with rings := t.rings })) ∧
    (0 < g.landTransit → g.landCred < 256 →
      goesOn (exec (.creditReturnArrive d 18) s) (fun t =>
        t.ring d = { g with landTransit := g.landTransit - 1, landCred := g.landCred + 1 } ∧ t = { s with rings := t.rings })) ∧
    (∀ l, l < 16 → (s.vat d l).credTransit = 0 → exec (.creditReturnArrive d l) s = .next s) ∧
    (g.injTransit = 0 → exec (.creditReturnArrive d 16) s = .next s)) ∧ (
  ∀ (s : State) (d : Nat) (i : VInstr), s.hasDie d = true →
    let g := s.ring d
    (g.inj = some i → g.injCred ≠ 0 → (g.long = true → g.landing = []) →
      let c := stagesOf (maLVL i.word)
      let u := s.injLanes d i.word (g.injNext / c) (g.injNext % c)
      let b : Beat := { lanes := u.1, tag := i.tag, hops := if g.long then 16 * u.2.2.nDies else 16, stages := c, src := u.2.1 }
      let x := u.2.2.vat d 0
      let last := decide (g.injNext + 1 = c * maNCOL i.word)
      let t := ((u.2.2.unrest d 0).putVat d 0 { x with inq := x.inq ++ [b] }).putRing d
        { g with injCred := g.injCred - 1, injNext := if last then 0 else g.injNext + 1, inj := if last then none else some i }
      exec (.injectBeat d) s = .next (if last = true ∧ g.long = true then { t with nextInjDie := t.nextInj } else t)) ∧
    (g.inj = some i → (g.injCred = 0 ∨ (g.long = true ∧ g.landing ≠ [])) → exec (.injectBeat d) s = .next s) ∧
    (s.canon = true → g.inj = none → s.injWaiting d = some i → s.ringFor d i.tag = true →
      (g.long = true → s.injActive = false ∧ s.injTurn = some d) →
      let u := s.injStart d
      (u.ring d).inj = some i ∧ (u.ring d).injNext = 0 ∧ (u.ring d).ringTag = some i.tag ∧ (u.ring d).injCred = g.injCred ∧
      exec (.injectBeat d) s = exec (.injectBeat d) u) ∧
    (g.inj = none → s.injWaiting d = none → exec (.injectBeat d) s = .next s))

/-- 02 R83, R89, 10 R429: a die in long sparge sends a beat across its bridge in a slot that ring liquor holds, or in capacity it has as a
carried owner, while it holds a landing credit, and returns a credit of its send buffer; an inoculation of point 0x15, at the sending die's
bridge with instance 0 or at the receiving one's with instance 1, breaks its CRC. Else it waits. The beat lands at the next die in order, or
with every lane poisoned and the error recorded when its CRC fails (15 R644, R646), and enters V0's buffer when V0 has a credit.

02 R87: a beat that enters row 0 leaves the incoming buffer, and its credit goes back to its sender; 02 R77, R78: a beat with a hop
left takes one credit of the outgoing link, in order, ending a rest of the next vat's island (17 R708), and the beat at its last hop leaves no
trace on it.
BRIDGE_BEAT_SEND and BRIDGE_BEAT_LAND complete in every state of a die the module has: each answers the next state written here. -/
def Obligations.BeatsCrossTheBridgeAndTheVatsInOrder : Prop :=
  (
  ∀ (s : State) (d : Nat) (b : Beat) (bs : List Beat), s.canon = true → s.hasDie d = true →
    (∀ g, s.ring d = g → g.send = b :: bs → g.long = true → 0 < g.landCred → s.liquorTakes d b.tag = true →
      let e := s.nextDie d
      let near := decide ((s.inoc d).point = 0x15) && decide ((s.inoc d).inst = 0)
      let far := ! near && decide ((s.inoc e).point = 0x15) && decide ((s.inoc e).inst = 1)
      let u := if near then s.inocClear d else if far then s.inocClear e else s
      let r : Ring := { g with send := bs, landCred := g.landCred - 1, wire := g.wire ++ [{ b with crcBad := near || far }] }
      exec (.bridgeBeatSend d) s = .next (u.putRing d
        (if g.sendTransit < 4 then { r with sendTransit := g.sendTransit + 1 } else { r with sendCred := g.sendCred + 1 })) ∧
      ((near || far) = false → g.sendTransit < 4 → goesOn (exec (.bridgeBeatSend d) s) (fun t =>
        t.ring d = { g with send := bs, sendTransit := g.sendTransit + 1, landCred := g.landCred - 1,
                            wire := g.wire ++ [{ b with crcBad := false }] } ∧
        (∀ e, e ≠ d → t.ring e = s.ring e) ∧ t = { s with rings := t.rings }))) ∧
    ((s.ring d).send = b :: bs → ((s.ring d).long = false ∨ (s.ring d).landCred = 0 ∨ s.liquorTakes d b.tag = false) →
      exec (.bridgeBeatSend d) s = .next s) ∧
    ((s.ring d).send = [] → exec (.bridgeBeatSend d) s = .next s) ∧
    (∀ g, s.ring (s.prevDie d) = g → g.wire = b :: bs →
      let w := s.putRing (s.prevDie d) { g with wire := bs }
      let u := fun b' => w.putRing d { w.ring d with landing := (w.ring d).landing ++ [b'] }
      (b.crcBad = false → exec (.bridgeBeatLand d) s = .next (pumpLanding d 1 (u b))) ∧
      (b.crcBad = true → exec (.bridgeBeatLand d) s = .next (pumpLanding d 1
        ((u { b with lanes := b.lanes.map (fun e => e ||| 0x8000#16), parBad := [], crcBad := false }).logErr
          { cls := 0x07, die := d, island := 30, inoc := true }))) ∧
      (b.crcBad = false → d ≠ s.prevDie d → (s.ring d).injCred = 0 → goesOn (exec (.bridgeBeatLand d) s) (fun t =>
        t.ring (s.prevDie d) = { g with wire := bs } ∧ t.ring d = { s.ring d with landing := (s.ring d).landing ++ [b] } ∧
        (∀ e, e ≠ d → e ≠ s.prevDie d → t.ring e = s.ring e) ∧ t = { s with rings := t.rings }))) ∧
    ((s.ring (s.prevDie d)).wire = [] → exec (.bridgeBeatLand d) s = .next s)) ∧ (
  ∀ (s : State) (d v : Nat), s.canon = true → s.hasVat d v = true →
    let x := s.vat d v
    (∀ p b rest, x.passes.getLast? = some p → p.ended = false → p.kind ≠ .mash → p.draught = false → x.inq = b :: rest →
      x.hasRoom = true →
      goesOn (exec (.beatEnterVat d v) s) (fun t =>
        (v = 0 → (s.ring d).injTransit < 4 →
          (t.vat d v).inq = rest ∧ (t.ring d).injTransit = (s.ring d).injTransit + 1 ∧ t = { s with vats := t.vats, rings := t.rings }) ∧
        (v ≠ 0 → (t.vat d v).inq = rest ∧ t = { s with vats := t.vats } ∧
          ((s.vat d (v - 1)).credTransit < 4 → (t.vat d (v - 1)).credTransit = (s.vat d (v - 1)).credTransit + 1) ∧
          (4 ≤ (s.vat d (v - 1)).credTransit → (t.vat d (v - 1)).outCred = (s.vat d (v - 1)).outCred + 1)))) ∧
    (∀ p c, x.passes = [p] → p.cols = [c] → c.sent < c.lanes.length → x.mayLeave 0 0 = true → c.bads.getD c.sent [] = [] →
      let b : Beat := { lanes := parityCheck (c.lanesAt c.sent 128) [], tag := p.tag, hops := c.hops - 1,
                        stages := c.lanes.length + c.more, src := c.src }
      (1 < c.hops → v < 15 → 0 < x.outCred →
        goesOn (exec (.beatSend d v) s) (fun t =>
          (t.vat d v).outCred = x.outCred - 1 ∧
          (t.vat d (v + 1)).inq = (s.vat d (v + 1)).inq ++ [b] ∧ t = { s.unrest d (v + 1) with vats := t.vats })) ∧
      (1 < c.hops → v = 15 → 0 < (s.ring d).sendCred →
        goesOn (exec (.beatSend d v) s) (fun t =>
          (t.ring d).sendCred = (s.ring d).sendCred - 1 ∧
          (t.ring d).send = (s.ring d).send ++ [b] ∧ t = { s with vats := t.vats, rings := t.rings })) ∧
      (c.hops ≤ 1 → goesOn (exec (.beatSend d v) s) (fun t =>
          (t.vat d v).outCred = x.outCred ∧ (∀ u, u < 16 → (t.vat d u).inq = (s.vat d u).inq) ∧ t = { s with vats := t.vats }))))

/-- 02 R87, R90: while the array has room, the next beat of the pass that is entering leaves the incoming buffer into row 0, and its credit
goes back to its sender; a pass of a wrong length is reported (03 R124). Nothing enters an array that is filled, nor without a pass or a
beat. 03 R143: a draught pass takes its next column from the granary instead.

02 R77, R78, R90: the oldest stage still in the array leaves the tally row when no row holds it: with a hop left it takes one credit of the
outgoing link and goes to the next vat, or from V15 to the send buffer; without a credit it waits; at its last hop it is dropped. 15 R644: a
lane whose parity fails leaves poisoned; where the column forms no products, and so has no tally comparison, it is reported here. -/
def Obligations.BeatsEnterAndLeaveTheArray : Prop :=
  (
  ∀ (s : State) (d v : Nat) (p : Pass), s.hasVat d v = true →
    let x := s.vat d v
    (∀ b rest, x.passes.getLast? = some p → p.ended = false → p.draught = false → x.inq = b :: rest → x.hasRoom = true →
      let cols := p.addBeat b
      let c := cols.getLast?.getD {}
      let whole := decide (c.more = 0)
      let n := if whole then p.entered + 1 else p.entered
      let short := whole && c.last && decide (p.kind = .mash) && ! p.injected v && decide (p.entered + 1 ≠ maNCOL p.instr.word)
      let p' : Pass := { p with cols := cols, entered := n, ended := whole && c.last, lenBad := short }
      let u := (s.putVat d v { x with inq := rest, passes := x.passes.dropLast ++ [p'] }).returnCredit d v
      exec (.beatEnterVat d v) s = .next (if short then u.gristFault d v p.instr.tag p.instr.part else u)) ∧
    (x.passes.getLast? = some p → p.ended = false → p.draught = true → x.hasQuads = true →
      let u := s.draughtLanes d p.instr.word p.entered 4
      let last := decide (p.entered + 1 = maNCOL p.instr.word)
      let p' : Pass := { p with entered := p.entered + 1, ended := last,
                                cols := p.cols ++ [p.column p.entered u.2.1 0 [[], [], [], []] last 0 u.2.2] }
      exec (.beatEnterVat d v) s = .next (u.1.putVat d v { u.1.vat d v with passes := (u.1.vat d v).passes.dropLast ++ [p'] })) ∧
    (x.passes = [] ∨ (x.passes.getLast? = some p ∧ (p.ended = true ∨ (p.draught = true ∧ x.hasQuads = false) ∨
        (p.draught = false ∧ (x.inq = [] ∨ x.hasRoom = false)))) →
      exec (.beatEnterVat d v) s = .next s)) ∧ (
  ∀ (s : State) (d v i j : Nat) (p : Pass) (c : Col), s.hasVat d v = true →
    let x := s.vat d v
    findIdxFrom (fun p => p.cols.any (fun c => decide (c.sent < c.lanes.length))) 0 x.passes = some i → x.passes.getD i {} = p →
    findIdxFrom (fun c => decide (c.sent < c.lanes.length)) 0 p.cols = some j → p.cols.getD j {} = c →
    let bad := c.bads.getD c.sent []
    let b : Beat := { lanes := parityCheck (c.lanesAt c.sent 128) bad, tag := p.tag, hops := c.hops - 1,
                      stages := c.lanes.length + c.more, src := c.src }
    let u := s.putVat d v (x.setCol i j { c with sent := c.sent + 1 })
    (x.mayLeave i j = true → (1 < c.hops → s.creditsOf d v ≠ 0) →
      let w := if 1 < c.hops then u.placeBeat d v b else u
      let z := if bad = [] ∨ p.forms c.n = true then w
        else w.report { die := d, tag := p.tag, part := p.instr.part, cls := 0x06, island := v, sub := bad.getD 0 0, inoc := c.ino }
      exec (.beatSend d v) s = .next (z.putSettled d v (z.vat d v))) ∧
    (x.mayLeave i j = false ∨ (1 < c.hops ∧ s.creditsOf d v = 0) → exec (.beatSend d v) s = .next s))

/-- 02 R86: a change of LONG waits with PEND reading 1 until DRAINED reads 1 on every die, and then takes effect on every die together; while
PEND reads 1 no die accepts a MASH. A write of LONG reaches every die; long sparge is refused unless one job holds every vat (01 R35) and
every die's T3 has the liquor slots it needs (10 R431). -/
def Obligations.LongModeSwitchesWhenEveryDieIsDrained : Prop :=
  ∀ (s : State), s.canon = true →
    ((∃ d, d < s.nDies ∧ s.rf d oSpineMode spineModePend = 1) → (∀ d, d < s.nDies → s.drained d = true) →
      goesOn (exec .longModeSwitch s) (fun t =>
        (∀ d, d < s.nDies → (t.ring d).long = decide (s.rf d oSpineMode spineModeLong = 1) ∧ t.rf d oSpineMode spineModePend = 0) ∧
        (s.longTag = none → t = { s with rings := t.rings, regs := t.regs }) ∧
        t = { s with rings := t.rings, regs := t.regs, vats := t.vats })) ∧
    ((∃ d, d < s.nDies ∧ s.drained d = false) → exec .longModeSwitch s = .next s) ∧
    (∀ d n v, d < s.nDies → s.hasReq (.firmware n) = true → s.reachable (.firmware n) = true →
      bit (s.rf d oIslRest islRestRested) 30 = false →
      goesOn (exec (.registerWrite (.firmware n) d oSpineMode 4 v) s) (fun t =>
        (∀ e, (t.ring e).long = (s.ring e).long) ∧
        (v % 2 = 0 ∨ (s.longJob ≠ none ∧ ∀ e, e < s.nDies → s.noLiquor e [] = false) → ∀ e, e < s.nDies →
          t.rf e oSpineMode spineModeLong = v % 2 ∧
          t.rf e oSpineMode spineModePend = if decide (v % 2 = 1) = (s.ring e).long then 0 else 1) ∧
        (v % 2 = 1 → s.longJob = none → ∀ e, e < s.nDies →
          t.rf e oSpineMode spineModePend = s.rf e oSpineMode spineModePend ∧
          (e ≠ d → t.rf e oSpineMode spineModeLong = s.rf e oSpineMode spineModeLong)))) ∧
    (∀ d c w, s.presents d c w → ctxEng c = 0 → wbits w 0 8 = 0x41 → firstFail (mashChecks s d c w) = none →
      s.rf d oSpineMode spineModePend = 1 → exec (.mash d c) s = .next (s.hold d c))

/-- 02 R67, R65, 03 R115, R146: a ring pass whose parity and tag are its MASH's, or the next draught pass, in a case R67 allows (a LIVE bank
with a STEEP accepted counts as STEEPING, log entry 9) and of the recorded mode, is bound to the MASH at the head of the queue, with the step
number latched and the K-block its wort half takes (log entry 88); its queue entry frees (log entry 87); a bank it does not continue becomes
LIVE. 02 R68: any other fails, sets GPMM and is reported, for the MASH's job (log entry 105). 03 R135: a draught pass of a job whose ring no
job holds begins the tally set of its job.

02 R66, R80, 03 R131: with a SKIP at the head of the queue the next ring pass is bound to it, its tag alone checked; it leaves the queue
with its last pass. 02 R66: no pass is bound while one is still entering, or while its beat or its MASH is still to come. 15 R664: in an
abort drain a beat of the aborted tag that has neither passes as under a SKIP.
PASS_BIND completes in every state of a vat the module has: it answers the next state written here. Log entries 9, 87, 88 and 105 are the model's choices. -/
def Obligations.PassesBindByTheGristState : Prop :=
  (
  ∀ (s : State) (d v : Nat) (i : VInstr) (rest : List VInstr) (q tag : Nat), s.canon = true → s.hasVat d v = true →
    let x := s.vat d v
    let w := i.word
    let draught := isDraught (maSHAPE w)
    x.entryFree = true → x.mashQ = i :: rest → i.opc = 0x41 →
    (if draught then q = maPAR w ∧ tag = i.tag
     else ∃ b bs, x.inq = b :: bs ∧ q = elPar (b.lanes.getD 0 0) ∧ tag = b.tag) →
    exec (.passBind d v) s =
      .next ((if draught && ! s.ringHeld d then s.giveRing d i.tag else s).bindMash d v i rest q tag) ∧
    (draught = false ∨ s.ringHeld d = true →
      let m : VInstr := { i with step := s.rf d (oBarmStep i.tag) barmStepStep }
      (∀ cont r, x.bindCase q = some cont → x.recFor q cont = some r → q = maPAR w → tag = i.tag → recMatches w r = true →
        let kb := if maINIT w then r.kblk else if maHALF w = 0 then x.initKb0 else x.initKb1
        let p : Pass := { kind := .mash, instr := m, par := q, keep := maKEEP w, tag := tag, brec := r, kb0 := kb,
                          gen := if cont then ((x.gens q).getLast?.map (fun g => g.seq)).getD 0 else x.seq }
        goesOn (exec (.passBind d v) s) (fun t =>
          let y := t.vat d v
          y.mashQ = rest ∧ y.hasPrev = true ∧ y.lastPar = q ∧ y.lastKeep = maKEEP w ∧ y.inq = x.inq ∧ y.passes = x.passes ++ [p] ∧
          (if maHALF w = 0 then y.initKb0 = kb ∧ y.initKb1 = x.initKb1 else y.initKb1 = kb ∧ y.initKb0 = x.initKb0) ∧
          (cont = false → y.bank q = bLIVE) ∧ (cont = true → y.bank q = x.bank q) ∧ (q < 2 → y.bank (1 - q) = x.bank (1 - q)) ∧
          (∀ e u, e * 16 + u ≠ d * 16 + v → t.vat e u = s.vat e u) ∧ t = { s with vats := t.vats })) ∧
      (x.bindCase q = none ∨ q ≠ maPAR w ∨ tag ≠ i.tag ∨
          (∀ cont r, x.bindCase q = some cont → x.recFor q cont = some r → recMatches w r = false) →
        goesOn (exec (.passBind d v) s) (fun t =>
          let y := t.vat d v
          y.mashQ = rest ∧
          y.passes = x.passes ++ [{ kind := .failed, instr := m, par := q, tag := tag, brec := { shape := maSHAPE w } }] ∧
          y.bank0 = x.bank0 ∧ y.bank1 = x.bank1 ∧ y.inq = x.inq ∧ t.rf d (oVatRstat v) vatRstatGpmm = 1 ∧
          (∀ e u, e * 16 + u ≠ d * 16 + v → t.vat e u = s.vat e u) ∧
          t.reports = s.reports ++ [{ die := d, tag := i.tag, part := i.part, cls := 0x15, island := v }] ∧
          t = { s with vats := t.vats, regs := t.regs, reports := t.reports })))) ∧ (
  ∀ (s : State) (d v : Nat) (i : VInstr) (rest : List VInstr) (b : Beat) (bs : List Beat), s.canon = true → s.hasVat d v = true →
    let x := s.vat d v
    (x.entryFree = true → x.mashQ = i :: rest → i.opc = 0x43 → x.inq = b :: bs →
      let left := if x.skipLeft = 0 then skNPASS i.word else x.skipLeft
      goesOn (exec (.passBind d v) s) (fun t =>
        let y := t.vat d v
        y.skipLeft = left - 1 ∧ y.mashQ = (if left ≤ 1 then rest else i :: rest) ∧ y.inq = x.inq ∧
        (∃ p, y.passes = x.passes ++ [p] ∧ p.kind = .skip ∧ p.tag = b.tag ∧ p.cols = [] ∧ p.ended = false) ∧
        t.rf d (oVatRstat v) vatRstatGpmm = (if b.tag = i.tag then s.rf d (oVatRstat v) vatRstatGpmm else 1) ∧
        t.reports = s.reports ∧ t = { s with vats := t.vats, regs := t.regs })) ∧
    (x.entryFree = true → x.mashQ = [] → x.inq = b :: bs → x.abortDrn = true → b.tag ∈ x.abortTags →
      goesOn (exec (.passBind d v) s) (fun t =>
        (t.vat d v).inq = x.inq ∧ (∃ p, (t.vat d v).passes = x.passes ++ [p] ∧ p.kind = .skip ∧ p.tag = b.tag) ∧
        t = { s with vats := t.vats })) ∧
    (x.entryFree = false ∨ (x.mashQ = [] ∧ x.inq = []) ∨ (x.mashQ = [] ∧ x.abortDrn = false) ∨
        (x.mashQ = i :: rest ∧ x.inq = [] ∧ (i.opc ≠ 0x41 ∨ isDraught (maSHAPE i.word) = false)) →
      exec (.passBind d v) s = .next s))

/-- 02 R92, R94, R95, R98: the resolver of row r writes the block sums of the oldest column that owes the row into their wort entries, in
column order, once the column's elements have passed over committed grist into the row (or their sums are held) and no older DRAW still
has to read the row; it adds their residues to the column's. The first poisoned sum of a column written is reported, with the address of the
poisoned sack its liquor was read from, or the row's grist (15 R640).

02 R92, R95, 04 R174: a block sum enters its wort entry by the update of its format, from zero at an initialising contribution, and
changes no other entry, no other memory and no register; the entry's codeword is clean. -/
def Obligations.BlockSumsReachTheirWort : Prop :=
  (
  ∀ (s : State) (d v r i j : Nat), s.hasVat d v = true → r < 128 →
    let x := s.vat d v
    let p := x.passes.getD i {}
    let c := p.cols.getD j {}
    let h := maHALF p.instr.word
    x.nextCol r = some (i, j) →
    (∀ (u : State) (bs : List BSum) (k : Col), x.drawAhead h p.instr.seq r = false →
      ((mfind c.held r = some bs ∧ u = s ∧ k = c) ∨
        (mfind c.held r = none ∧ x.rowReady p r = true ∧ x.reached i j r = true ∧
          (bs, u) = s.inocSum d v r (s.blockSums d v p c r) ∧ k = { c.addSums p r bs with ino := c.ino || s.sumHit d v r })) →
      let first := bs.any (fun b => decide (b = .poisoned)) && ! c.told
      let w := wortAdds d v p r c.n 0
        (u.putVat d v (x.setCol i j { k with wr := setRow c.wr r true, held := mdel c.held r, told := c.told || first }))
        ((wortCols p.instr.word c.n).zip bs)
      let z := if first then w.report
          { poison := true, die := d, tag := p.instr.tag, part := p.instr.part, cls := 0x04, island := v, sub := r, cause := 4,
            addr := if c.src = 0 then mget (fun _ => 0) x.psnSrc (p.par * 128 + r) else c.src }
        else w
      exec (.wortWrite d v r) s = .next (z.putSettled d v (z.vat d v))) ∧
    (x.drawAhead h p.instr.seq r = true ∨ (mfind c.held r = none ∧ (x.rowReady p r = false ∨ x.reached i j r = false)) →
      exec (.wortWrite d v r) s = .next s)) ∧ (
  ∀ (s : State) (d v : Nat) (p : Pass) (r n sub c : Nat) (b : BSum), s.canon = true → r < 128 → c < 512 → d < 8 → v < 16 →
    let h := maHALF p.instr.word
    b ≠ .poisoned → (∀ o, s.mark (.wort d v h) o = .clean) → (s.inoc d).point ≠ 3 → (s.inoc d).point ≠ 0x14 →
    (s.vat d v).undef0 = none → (s.vat d v).undef1 = none →
    let t := s.wortAdd d v p r n sub c b
    t.wortAt d v h r c = wortUpdate (decide (maFMT p.instr.word = 1)) (maINIT p.instr.word && firstOfEntry p.instr.word n) (bsUnit p)
      (s.wortAt d v h r c) b (s.wortRnd d v p r n sub) ∧
    (∀ g o, ¬ (g.num = (Region.wort d v h).num ∧ wortOff r c ≤ o % 2 ^ 64 ∧ o % 2 ^ 64 < wortOff r c + 4) → t.peek g o = s.peek g o) ∧
    t = { s with mem := t.mem })

/-- 04 R174: in a pass whose wort format is INT32 the vat writes wort := sat(bs) when INIT applies and wort := sat(old + bs) otherwise, where sat
clamps to [−2^31, 2^31 − 1]; so a saturated entry stays at its bound until a block sum moves it back. -/
def Obligations.Int32WortSaturates : Prop :=
  ∀ (s : State) (d v : Nat) (p : Pass) (r n sub c : Nat) (bs : Int), s.canon = true → r < 128 → c < 512 → d < 8 → v < 16 →
    let h := maHALF p.instr.word
    maFMT p.instr.word ≠ 1 → (∀ o, s.mark (.wort d v h) o = .clean) → (s.inoc d).point ≠ 3 → (s.inoc d).point ≠ 0x14 →
    (s.vat d v).undef0 = none → (s.vat d v).undef1 = none →
    let old := sx 32 (s.wortAt d v h r c).toNat
    let new := sx 32 ((s.wortAdd d v p r n sub c (.sum bs)).wortAt d v h r c).toNat
    let sat := fun x : Int => if x < -(2 ^ 31) then -(2 ^ 31) else if 2 ^ 31 - 1 < x then 2 ^ 31 - 1 else x
    new = sat ((if maINIT p.instr.word && firstOfEntry p.instr.word n then 0 else old) + bs) ∧
    ((maINIT p.instr.word && firstOfEntry p.instr.word n) = false → old = 2 ^ 31 - 1 → 0 ≤ bs → new = old) ∧
    ((maINIT p.instr.word && firstOfEntry p.instr.word n) = false → old = -(2 ^ 31) → bs ≤ 0 → new = old)

/-- 02 R98, 15 R646, 03 R135: the tally row compares a column's residues once all its rows are formed: equal residues count as checked,
different ones also poison the column's wort in every row, count a mismatch and are reported with both residues; poisoned and NaN columns are
skipped and counted apart. No element of the column has bad parity here.

02 R98: the tally row takes the oldest column not compared yet, with the tally entries of its grist committed, or as they were captured
at their release; it waits until all the column's sums are formed. A column with poison and a NaN counts as poisoned (log entry 107). 15
R644, R646: an element of the column whose parity fails is a mismatch of every wort column of it. -/
def Obligations.TallyCheckComparesOneColumn : Prop :=
  (
  ∀ (s : State) (d v a : Nat) (p : Pass) (c : Col), s.canon = true → s.hasVat d v = true →
    (s.vat d v).passes = [p] → p.kind = .mash → p.cols = [c] → c.checked = false → c.allFormed = true → c.tally = some [a] →
    c.bads.flatten = [] →
    let x := s.vat d v
    (c.psn = true → goesOn (exec (.tallyCheck d v) s) (fun t =>
      (t.vat d v).psnskip = stopAt 32 (x.psnskip + 1) ∧ (t.vat d v).checked = x.checked ∧ t = { s with vats := t.vats })) ∧
    (c.psn = false → c.nan = true → goesOn (exec (.tallyCheck d v) s) (fun t =>
      (t.vat d v).nanskip = stopAt 32 (x.nanskip + 1) ∧ (t.vat d v).checked = x.checked ∧ t = { s with vats := t.vats })) ∧
    (c.psn = false → c.nan = false → a = c.res0 → goesOn (exec (.tallyCheck d v) s) (fun t =>
      (t.vat d v).checked = stopAt 32 (x.checked + 1) ∧ (t.vat d v).mismatch = x.mismatch ∧ t = { s with vats := t.vats })) ∧
    (c.psn = false → c.nan = false → a ≠ c.res0 → goesOn (exec (.tallyCheck d v) s) (fun t =>
      (t.vat d v).checked = stopAt 32 (x.checked + 1) ∧ (t.vat d v).mismatch = stopAt 16 (x.mismatch + 1) ∧
      (∀ r, r < 128 → t.mark (.wort d v (maHALF p.instr.word)) (wortOff r ((wortCols p.instr.word c.n).getD 0 0)) = .poison) ∧
      t.reports = s.reports ++ [{ die := d, tag := p.instr.tag, part := p.instr.part, cls := 0x05, island := v,
                                   synd := a + c.res0 * 2 ^ 16, inoc := c.ino || x.struck p.par }] ∧
      t = { s with vats := t.vats, marks := t.marks, reports := t.reports }))) ∧ (
  ∀ (s : State) (d v i j : Nat) (ts : List Nat), s.hasVat d v = true →
    let x := s.vat d v
    let p := x.passes.getD i {}
    let c := p.cols.getD j {}
    findIdxFrom (fun p => p.kind = .mash && p.cols.any (fun c => ! c.checked)) 0 x.passes = some i →
    findIdxFrom (fun c => ! c.checked) 0 p.cols = some j →
    (c.allFormed = true → (c.tally = some ts ∨ (c.tally = none ∧ x.tallyReady p = true ∧ ts = x.tallyProds p c)) →
      let y := x.setCol i j { c with checked := true }
      let u := if c.psn then s.putVat d v { y with psnskip := stopAt 32 (x.psnskip + ts.length) }
        else if c.nan then s.putVat d v { y with nanskip := stopAt 32 (x.nanskip + ts.length) }
        else tallyCompare d v p c (s.putVat d v y) ((wortCols p.instr.word c.n).zip (ts.zip [c.res0, c.res1]))
      let z := u.parityMismatch d v p c
      exec (.tallyCheck d v) s = .next (z.putSettled d v (z.vat d v))) ∧
    (c.allFormed = false ∨ (c.tally = none ∧ x.tallyReady p = false) → exec (.tallyCheck d v) s = .next s))

/-- 02 R65, R71, 03 R146: the END of a releasing pass frees row r of its grist as it leaves cell (r,127), from the top, the sums of the
columns that have not written the row being held; then, as it leaves the tally row, the tally entries, and a bank that no other pass uses
is RELEASED, or STEEPING where a STEEP to it is accepted. Else the release waits.

03 R126, R147, 02 R93, R94, R100: a draw reads its wort rows in order, each once the writes it waits for are in, and the first once the
tally results are; without FOLD it writes the converted row at once, with FOLD it sums the quadrants and writes a row with the last. A DRAW
whose MASH an abort drain discarded reads free values.

03 R109, R110, 10 R413, R420: the oldest instruction of a vat whose completion event has happened completes: its context owes one
less, and its DONE counter of its job's partition rises by one; during the vat's abort drain no token is posted.

02 R100: a job-abort notice for the job that holds the ring, or for a tag of which the vat holds work, puts the vat in abort drain for its
tag, and any other changes nothing. Of the tags being aborted, the vat discards the accepted MASHes and SKIPs that have no pass once no beat of
their tag is upstream, each paid back to its context, and the output of a DRAW that waited on such a MASH is undefined; a bank its last pass
kept LIVE is released, or STEEPING where a STEEP is accepted. When its units are idle and it holds nothing, ABORTDRN clears, the previous pass
is forgotten and the wort rows are FREE with contents undefined. Other vats stay.
GRIST_ROW_RELEASE, TALLY_ENTRY_RELEASE, DRAW_ROW_READ, VAT_INSTRUCTION_COMPLETE, VAT_ABORT_NOTICE and VAT_ABORT_DRAIN_END complete: each answers the next state written here. -/
def Obligations.PassesEndDrawsReadAndTheVatDrains : Prop :=
  (
  ∀ (s : State) (d v i : Nat) (p : Pass), s.hasVat d v = true →
    let x := s.vat d v
    let g := x.genOf p
    (∀ r, r < 128 → x.oldestReleasing (fun g => ! g.rel.getLsbD r) = some (i, p) →
      let first := if isDraught p.brec.shape then r % 32 = 0 else r = 0
      (x.rowReady p r = true → x.endPassed i r = true → first ∨ g.rel.getLsbD (r - 1) = true →
        let u := s.holdSums d v p.par p.gen r
        exec (.gristRowRelease d v r) s = .next (u.putSettled d v
          (((u.vat d v).mapGen p.par p.gen (fun g => { g with rel := setRow g.rel r true })).tidyGens p.par))) ∧
      (x.rowReady p r = false ∨ x.endPassed i r = false ∨ (¬ first ∧ g.rel.getLsbD (r - 1) = false) →
        exec (.gristRowRelease d v r) s = .next s)) ∧
    (x.oldestReleasing (fun g => ! g.trel) = some (i, p) →
      let rows := (relRows p.brec).all (fun r => g.rel.getLsbD r)
      (rows = true → x.tallyReady p = true → s.endAtTally d v i = true →
        let keep := fun (o : Pass) => if o.kind = .mash ∧ o.par = p.par ∧ o.gen = p.gen then
          { o with cols := o.cols.map (fun (c : Col) =>
              if c.checked || c.tally.isSome then c else { c with tally := some (x.tallyProds o c) }) } else o
        let y := ({ x with passes := x.passes.map keep } : Vat).mapGen p.par p.gen (fun g => { g with trel := true })
        exec (.tallyEntryRelease d v) s = .next (s.putSettled d v ((y.bankAfterRelease p.par).tidyGens p.par)) ∧
        ((x.gens p.par).map (fun g => g.seq) = [p.gen] → p.par < 2 → s.canon = true →
          goesOn (exec (.tallyEntryRelease d v) s) (fun t =>
            (t.vat d v).bank p.par = (if x.steeping p.par then bSTEEPING else bRELEASED) ∧ t = { s with vats := t.vats }))) ∧
      (rows = false ∨ x.tallyReady p = false ∨ s.endAtTally d v i = false → exec (.tallyEntryRelease d v) s = .next s))) ∧ (
  ∀ (s : State) (d v : Nat) (i : VInstr) (rest : List VInstr), s.hasVat d v = true → (s.vat d v).drawQ = i :: rest →
    let x := s.vat d v
    let w := i.word
    let h := drHALF w
    let n := x.drawPtr
    let r := drRow w n
    (x.owesRow h i.seq r = false → (n = 0 → x.talliesKnown h i.seq = true) →
      let u := s.wortDecode d v w r
      let e := x.drawExp.getD (sx 8 (u.rf d (oVatScale v (wbits w 53 4)) vatScaleExp))
      let lost := x.lostDraws.contains i.seq
      let z := if lost then { u with freeCtr := u.freeCtr + 512 } else u
      let row := if lost then u.lostRow (u.wortRow d v w r) else u.wortRow d v w r
      let y := (u.vat d v).setAccum h (setRow (x.accum h) r (x.accumAfter h i.seq))
      let y := if n + 1 = drSteps w then { y with drawQ := rest, drawPtr := 0, drawExp := none, done := y.done ++ [i] }
        else { y with drawPtr := n + 1, drawExp := some e }
      let o := n % drROWS w
      let sum := if n / drROWS w = 0 then row
        else ((x.foldRow o (drNCOL w)).zip row).map (fun p => (foldAdd (drWFMT w) p.1.1 p.2.1, p.1.2 || p.2.2))
      (drFOLD w = false → exec (.drawRowRead d v) s = .next ((z.putVat d v y).drawOut d v i r e row)) ∧
      (drFOLD w = true → n / drROWS w ≠ 3 → exec (.drawRowRead d v) s = .next (z.putVat d v (y.putFold o sum))) ∧
      (drFOLD w = true → n / drROWS w = 3 → exec (.drawRowRead d v) s =
        .next ((z.putVat d v (y.putFold o (List.replicate (drNCOL w) (0, false)))).drawOut d v i o e sum))) ∧
    (x.owesRow h i.seq r = true ∨ (n = 0 ∧ x.talliesKnown h i.seq = false) → exec (.drawRowRead d v) s = .next s)) ∧ (
  ∀ (s : State) (d v : Nat) (i : VInstr) (rest : List VInstr), s.hasVat d v = true →
    let t := (s.putVat d v { s.vat d v with done := rest }).ctxRetire d i.ctx
    ((s.vat d v).done = i :: rest → (s.vat d v).abortDrn = false →
      exec (.vatInstructionComplete d v) s = .next (t.postCtr d i.part (wbits i.word 8 12) 1 false i.tag)) ∧
    ((s.vat d v).done = i :: rest → (s.vat d v).abortDrn = true → exec (.vatInstructionComplete d v) s = .next t) ∧
    ((s.vat d v).done = [] → exec (.vatInstructionComplete d v) s = .next s)) ∧ (
  ∀ (s : State) (d v tag : Nat), s.canon = true → s.hasVat d v = true →
    let x := s.vat d v
    let tags := if tag ∈ x.abortTags then x.abortTags else x.abortTags ++ [tag]
    ((s.ring d).ringTag ≠ some tag → x.holdsTag tag = false → exec (.vatAbortNotice d v tag) s = .next s) ∧
    ((s.ring d).ringTag = some tag ∨ x.holdsTag tag = true → goesOn (exec (.vatAbortNotice d v tag) s) (fun t =>
      let y := t.vat d v
      let dead := fun (i : VInstr) => decide (i.tag ∈ tags) && s.noUpstream d v i.tag
      y.abortDrn = true ∧ y.abortTags = tags ∧ y.mashQ = x.mashQ.filter (fun i => ! dead i) ∧
      (y.skipLeft = if (x.mashQ.head?).any dead then 0 else x.skipLeft) ∧
      y.lostDraws = x.lostDraws ++ (x.drawQ.filter (fun j => x.mashQ.any (fun i => dead i && decide (i.opc = 0x41) &&
        decide (i.seq < j.seq) && decide (maHALF i.word = drHALF j.word)))).map (fun j => j.seq) ∧
      y.passes = x.passes ∧ y.inq = x.inq ∧ y.drawQ = x.drawQ ∧ y.steepQ = x.steepQ ∧
      (x.hasPrev = true → x.lastKeep = true → x.bank x.lastPar = bLIVE → (∀ p, p ∈ x.passes → p.tag ∉ tags) →
        y.bank x.lastPar = (if x.steeping x.lastPar then bSTEEPING else bRELEASED)) ∧
      (x.hasPrev = false ∨ x.lastKeep = false ∨ x.bank x.lastPar ≠ bLIVE ∨ (∃ p, p ∈ x.passes ∧ p.tag ∈ tags) →
        y.bank0 = x.bank0 ∧ y.bank1 = x.bank1) ∧
      ((∀ i, i ∈ x.mashQ → dead i = false) → t = { s with vats := t.vats }) ∧
      (∀ i, x.mashQ.filter dead = [i] → t.ctxs = (s.ctxRetire d i.ctx).ctxs) ∧
      (∀ e u, e * 16 + u ≠ d * 16 + v → t.vat e u = s.vat e u))) ∧
    (x.abortDrn = true → x.mashQ = [] → x.steepQ = [] → x.drawQ = [] → x.done = [] → x.passes = [] → x.inq = [] →
      goesOn (exec (.vatAbortDrainEnd d v) s) (fun t =>
        let y := t.vat d v
        y.abortDrn = false ∧ y.abortTags = [] ∧ y.hasPrev = false ∧ y.accum0 = 0 ∧ y.accum1 = 0 ∧
        y.undef0 = some s.freeCtr ∧ y.undef1 = some (s.freeCtr + 65536) ∧ y.lostDraws = [] ∧
        (∀ e u, e * 16 + u ≠ d * 16 + v → t.vat e u = s.vat e u) ∧ t = { s with vats := t.vats, freeCtr := t.freeCtr })) ∧
    (x.abortDrn = false → exec (.vatAbortDrainEnd d v) s = .next s))

/-- 12 R519, R508, R511, R420: an arithmetic group of a kettle core is accepted: its results, one per lane with the poison of its
operands, pass the check lanes and pend until it completes, and its context goes on; with no inoculation of the check lanes they pend as they
are.

The same for the integer groups, MOV, CVT, DROP, RAND and MUPD (12 R519, R520, R524, R526, R527): the counts of CVT and MUPD go to
their hydrometer set where HEN asks for it (04 R185). -/
def Obligations.ArithmeticGroupsPendTheirResults : Prop :=
  (
  ∀ (s : State) (d c : Nat) (w : InstrWord),
    let x := s.kcore d (ctxInst c)
    let pends (l : List (Nat × Word32 × Bool)) : Host.Outcome State Fault Refusal := .next (s.ketCompute d c w l [])
    ((s.inoc d).point ≠ 0x20 → ∀ l m, s.ketCompute d c w l m = (s.ketGroup d c).ketPend d c { word := w, zw := l, jw := m }) ∧
    (s.ketTakes 0x80 d c w → exec (.fadd d c) s = pends (lanes2 fAdd x w)) ∧
    (s.ketTakes 0x81 d c w → exec (.fmul d c) s = pends (lanes2 fMul x w)) ∧
    (s.ketTakes 0x82 d c w → exec (.ffma d c) s = pends (lanes3 fFma x w)) ∧
    (s.ketTakes 0x83 d c w → exec (.fmax d c) s = pends (lanes2 fMax x w)) ∧
    (s.ketTakes 0x84 d c w → exec (.fmin d c) s = pends (lanes2 fMin x w)) ∧
    (s.ketTakes 0x85 d c w → exec (.fsel d c) s = pends (lanes3 (fun a b k => if k % 2 = 1 then a else b) x w)) ∧
    (s.ketTakes 0x86 d c w → exec (.fcmp d c) s = pends (lanes2 (fun a b => if fCmp (wbits w 64 2) a b then 1 else 0) x w)) ∧
    (s.ketTakes 0x87 d c w →
      exec (.fspec d c) s = pends (zWrite (kD w) ((x.reg (kA w)).map (fun t => (fSpec (wbits w 64 3) t.1, t.2))))) ∧
    (s.ketTakes 0x88 d c w → exec (.fred d c) s = pends (fred x w))) ∧ (
  ∀ (s : State) (d c : Nat) (w : InstrWord),
    let x := s.kcore d (ctxInst c)
    let pends (t : State) (l : List (Nat × Word32 × Bool)) (m : List (Nat × Word64 × Bool)) : Host.Outcome State Fault Refusal :=
      .next (t.ketCompute d c w l m)
    (s.ketTakes 0x89 d c w → exec (.iadd d c) s = pends s (lanes2 iAdd x w) []) ∧
    (s.ketTakes 0x8A d c w → exec (.isub d c) s = pends s (lanes2 iSub x w) []) ∧
    (s.ketTakes 0x8B d c w → exec (.imul d c) s = pends s (lanes2 iMul x w) []) ∧
    (s.ketTakes 0x8C d c w → exec (.ilog d c) s = pends s (lanes2 (iLog (wbits w 64 3)) x w) []) ∧
    (s.ketTakes 0x8D d c w → wbit w 74 = false →
      exec (.mov d c) s = pends s (zWrite (kD w) (List.replicate 64 ((x.sc (kJ w 64)).1 % 2 ^ 32, (x.sc (kJ w 64)).2))) []) ∧
    (s.ketTakes 0x8D d c w → wbit w 74 = true →
      exec (.mov d c) s = pends s [] [(kJ w 64, BitVec.ofNat 64 (tc 64 (sx 32 (x.lane (kA w) 0).1)), (x.lane (kA w) 0).2)]) ∧
    (s.ketTakes 0x90 d c w →
      let sr := wbit w 80
      let z := (x.sc (kJ w 70)).2 || (sr && (x.sc (kJ w 112)).2)
      let xs := (x.reg (kA w)).map (fun (t : Nat × Bool) => (t.1, t.2 || z))
      let rs := (List.range 64).map (fun i =>
        if sr then Rnd.sr (s.ketRand d c 2 (wbits w 88 24) ((x.sc (kJ w 112)).1 + i)) else Rnd.rne)
      let r := cvtLanes (wbits w 64 3) (wbits w 67 3) xs (sx 8 (x.sc (kJ w 70)).1) rs
      exec (.cvt d c) s =
        pends (s.ketCount d c (wbit w 87) (wbits w 81 6) r.2) (zWrite (kD w) (r.1.zip (xs.map (fun t => t.2)))) []) ∧
    (s.ketTakes 0x91 d c w →
      exec (.drop d c) s = pends s (zWrite (kD w) ((x.reg (kA w)).zipIdx.map (fun (a : (Nat × Bool) × Nat) =>
        let u := s.ketRand d c 3 (wbits w 74 24) ((x.sc (kJ w 98)).1 + a.2 * wbits w 108 16)
        (if bits (x.sc (kJ w 64)).1 0 32 ≤ u then fMul a.1.1 (bits (x.sc (kJ w 64)).1 32 32) else 0,
          a.1.2 || ((x.sc (kJ w 64)).2 || (x.sc (kJ w 98)).2))))) []) ∧
    (s.ketTakes 0x92 d c w →
      exec (.rand d c) s = pends s (zWrite (kD w) ((List.range 64).map (fun i =>
        (s.ketRand d c (wbits w 64 8) (wbits w 72 24) ((x.sc (kJ w 96)).1 + i * wbits w 106 16), (x.sc (kJ w 96)).2)))) []) ∧
    (s.ketTakes 0x93 d c w →
      let sr := wbit w 72
      let out := ((x.reg (kD w)).zip (x.reg (kA w))).zipIdx.map (fun (t : ((Nat × Bool) × (Nat × Bool)) × Nat) =>
        let r := if sr then Rnd.sr (s.ketRand d c 5 (wbits w 80 24) ((x.sc (kJ w 104)).1 + t.2)) else Rnd.rne
        (masterUpdate (t.1.1.1 % 65536) (sx 16 (t.1.1.1 / 65536)) t.1.2.1 (wbits w 64 8) r,
          t.1.1.2 || t.1.2.2 || (sr && (x.sc (kJ w 104)).2)))
      exec (.mupd d c) s =
        pends (s.ketCount d c (wbit w 79) (wbits w 73 6) (sumCnt (out.map (fun (t : (Nat × Int × Cnt) × Bool) => (t.1.2.2, t.2)))))
          (zWrite (kD w) (out.map (fun (t : (Nat × Int × Cnt) × Bool) => (t.1.1 + 65536 * tc 16 t.1.2.1, t.2))) ++
            zWrite (kC w) (out.map (fun (t : (Nat × Int × Cnt) × Bool) => (pairReal t.1.1 t.1.2.1 (wbits w 64 8), t.2)))) []))

/-- 12 R519, R520, R508: SALU and SLI write a scalar register; a branch taken goes on at its target, fetched anew, and one not taken at
the next word; LOOP counts down. A poisoned condition is consumed.

12 R512, R514, R521, R522: a transfer group is accepted when no group pends: its address and operands are read at issue, and it pends
alone; a KPUSH, once the next word is fetched, puts the racking word that follows it, after its addition, into its rack queue and posts its own DONE.

12 R511, R512, R522, R508: a core takes no group while it is busy or a register of the group has a write pending; a group whose
reserved bits, format or counts fail is rejected with RSVD, MODE or COUNT in that order (10 R778). A transfer whose address is poisoned
consumes the poison; else the first failing check of its address rejects it. -/
def Obligations.ScalarBranchAndTransferGroupsAreAcceptedOrRejected : Prop :=
  (
  ∀ (s : State) (d c : Nat) (w : InstrWord),
    let x := s.kcore d (ctxInst c)
    let pends (m : List (Nat × Word64 × Bool)) : State := s.ketCompute d c w [] m
    let v := (x.sc (kJ w 64)).1
    (s.ketTakes 0xA0 d c w → wbit w 98 = false →
      exec (.salu d c) s = .next (pends [(kJ w 68, BitVec.ofNat 64 (salu (wbits w 64 4) (x.sc (kJ w 78)).1 (x.sc (kJ w 88)).1),
        (x.sc (kJ w 78)).2 || (x.sc (kJ w 88)).2)])) ∧
    (s.ketTakes 0xA0 d c w → wbit w 98 = true →
      exec (.salu d c) s = .next (pends [(kJ w 68,
        BitVec.ofNat 64 (salu (wbits w 64 4) (x.sc (kJ w 78)).1 (tc 64 (sx 29 (wbits w 99 29)))), (x.sc (kJ w 78)).2)])) ∧
    (s.ketTakes 0xA1 d c w → exec (.sli d c) s = .next (pends [(kJ w 20, BitVec.ofNat 64 (wbits w 64 64), false)])) ∧
    (s.ketTakes 0xA2 d c w → (x.sc (kJ w 64)).2 = false →
      let taken := (wbits w 74 2 = 0 ∧ v = 0) ∨ (wbits w 74 2 = 1 ∧ v ≠ 0) ∨ (wbits w 74 2 = 2 ∧ bit v 63 = true) ∨
        (wbits w 74 2 = 3 ∧ bit v 63 = false)
      (taken → exec (.br d c) s = .next ((pends []).jump d c w)) ∧ (¬ taken → exec (.br d c) s = .next (pends []))) ∧
    (s.ketTakes 0xA3 d c w → (x.sc (kJ w 64)).2 = false →
      (v = 0 → exec (.loop d c) s = .next (pends [])) ∧
      (v = 1 → exec (.loop d c) s = .next (pends [(kJ w 64, 0, false)])) ∧
      (2 ≤ v → exec (.loop d c) s = .next ((pends [(kJ w 64, BitVec.ofNat 64 (v - 1), false)]).jump d c w))) ∧
    (s.ketTakes 0xA2 d c w → (x.sc (kJ w 64)).2 = true → exec (.br d c) s = .next (s.ketPoison d c 0)) ∧
    (s.ketTakes 0xA3 d c w → (x.sc (kJ w 64)).2 = true → exec (.loop d c) s = .next (s.ketPoison d c 0))) ∧ (
  ∀ (s : State) (d c : Nat) (w : InstrWord),
    let x := s.kcore d (ctxInst c)
    (s.ketTakes 0x98 d c w → firstFail (s.loadChecks d c x w) = none → addrPsn x w = false →
      exec (.ld d c) s = .next (s.ketXfer d c w (kAddr x w) (scaleArgs x (kJ w 107)))) ∧
    (s.ketTakes 0x99 d c w → firstFail (s.storeChecks d c x w) = none → addrPsn x w = false →
      exec (.st d c) s = .next (s.ketXfer d c w (kAddr x w) (scaleArgs x (kJ w 107)))) ∧
    (s.ketTakes 0x9A d c w → firstFail (s.ldcChecks d c false x w) = none → addrPsn x w = false →
      exec (.ldc d c) s = .next (s.ketXfer d c w (kAddr x w) [])) ∧
    (s.ketTakes 0x9B d c w → firstFail (s.ldcChecks d c true x w) = none → addrPsn x w = false →
        (s.isReg d (kAddr x w) && (x.sc (kJ w 91)).2) = false →
      exec (.stc d c) s = .next (s.ketXfer d c w (kAddr x w)
        [(x.sc (kJ w 91)).1 % 2 ^ (8 * kSZ w), if (x.sc (kJ w 91)).2 then 1 else 0])) ∧
    (s.ketTakes 0x9D d c w → firstFail (s.packChecks d c x w) = none → addrPsn x w = false →
      exec (.pack24 d c) s = .next (s.ketXfer d c w (kAddr x w) (scaleArgs x (kJ w 94)))) ∧
    (s.ketTakes 0x9E d c w → firstFail (s.topChecks d c x w) = none → kTopN w = 0 ∨ addrPsn x w = false →
      exec (.topk d c) s = .next (s.ketXfer d c w (topAddr x w 0) [])) ∧
    (s.ketTakes 0x9F d c w → firstFail (s.scChecks d c x w) = none → addrPsn x w = false → (x.sc (kJ w 84)).2 = false →
      exec (.scupd d c) s = .next (s.ketXfer d c w (x.sc (kJ w 64)).1
        [(x.sc (kJ w 84)).1 % 2, s.rf d (oKscCtrl (s.ctx d c).part) kscCtrlCal])) ∧
    (∀ v0 rest, s.ketTakes 0x9C d c w → (s.ctx d c).ibuf = w :: v0 :: rest → (wbit w 87 = true → (x.sc (kJ w 64)).2 = false) →
      let v := pushWord x w v0
      0x50 ≤ wbits v 0 8 → wbits v 0 8 ≤ 0x55 → (s.rackOffer d c v).1 = oOK →
      let t := (s.rackOffer d c v).2
      exec (.kpush d c) s = .next ((t.done d (t.ctx d c).part (wbits w 8 12) (t.ctx d c).tag).accept d c 2 true)) ∧
    (s.hasCtx d c = true → (s.ctx d c).ibuf.length < 2 → exec (.kpush d c) s = .next s)) ∧ (
  ∀ (s : State) (d c : Nat) (w : InstrWord), s.presents d c w → ctxEng c = 1 →
    let x := s.kcore d (ctxInst c)
    let f := kForm w
    let waits := s.coreBusy d c = true ∨ x.hazard f = true ∨ (f.xfer = true ∧ x.pend ≠ [])
    (∀ e : Instr × Nat, e ∈ [(Instr.fadd d c, 0x80), (.fmul d c, 0x81), (.ffma d c, 0x82), (.fmax d c, 0x83), (.fmin d c, 0x84),
        (.fsel d c, 0x85), (.fcmp d c, 0x86), (.fspec d c, 0x87), (.fred d c, 0x88), (.iadd d c, 0x89), (.isub d c, 0x8A), (.imul d c, 0x8B),
        (.ilog d c, 0x8C), (.mov d c, 0x8D), (.cvt d c, 0x90), (.drop d c, 0x91), (.rand d c, 0x92), (.mupd d c, 0x93), (.ld d c, 0x98),
        (.st d c, 0x99), (.ldc d c, 0x9A), (.stc d c, 0x9B), (.pack24 d c, 0x9D), (.topk d c, 0x9E), (.scupd d c, 0x9F), (.salu d c, 0xA0),
        (.sli d c, 0xA1), (.br d c, 0xA2), (.loop d c, 0xA3)] → wbits w 0 8 = e.2 →
      (waits → exec e.1 s = .next s) ∧
      (¬ waits → (wordRsvd w f.used = true → exec e.1 s = .next (s.reject d c 1 0)) ∧
        (wordRsvd w f.used = false → f.mode = true → exec e.1 s = .next (s.reject d c 4 0)) ∧
        (wordRsvd w f.used = false → f.mode = false → f.count = true → exec e.1 s = .next (s.reject d c 7 0)))) ∧
    (∀ e : Instr × Nat × List (Bool × Nat), e ∈ [(Instr.ld d c, 0x98, s.loadChecks d c x w), (.st d c, 0x99, s.storeChecks d c x w),
        (.ldc d c, 0x9A, s.ldcChecks d c false x w), (.stc d c, 0x9B, s.ldcChecks d c true x w), (.pack24 d c, 0x9D, s.packChecks d c x w),
        (.scupd d c, 0x9F, s.scChecks d c x w)] → s.ketTakes e.2.1 d c w →
      (addrPsn x w = true → exec e.1 s = .next (s.ketPoison d c 0)) ∧
      (∀ k, addrPsn x w = false → firstFail e.2.2 = some k → exec e.1 s = .next (s.reject d c k 0))))

/-- 12 R512–R514, R413, R420: the group of a core that is due first, the oldest of those due together, completes: a compute group writes its
results, a transfer group makes its access first; its DONE is posted and its context owes one less. A TOPK or SCUPD that meets poison writes
nothing, posts nothing and stops its context (R508).

12 R508, R519: lane i of a two-source operation holds the operation's value of lanes i of A and B, and carries poison when either
does; when the group completes, exactly the lanes of D change. -/
def Obligations.OldestKettleGroupCompletesIntoItsLanes : Prop :=
  (
  ∀ (s : State) (d k : Nat) (p : KPend) (rest : List KPend), s.hasDie d = true → k < 4 →
    dueFirst (s.kcore d k).pend = some (p, rest) →
    let r := s.ketDone d k p
    let t := r.2
    let x : KCore := { t.kcore d k with pend := rest, cycle := max (t.kcore d k).cycle p.due }
    (r.1.psn = none → exec (.kettleGroupComplete d k) s =
      .next (((t.putKcore d k ((x.putZ r.1.zw).putJ r.1.jw)).done d p.part (wbits p.word 8 12) p.tag).ctxRetire d p.c)) ∧
    (∀ a, r.1.psn = some a → exec (.kettleGroupComplete d k) s = .next ((t.putKcore d k x).ketStop d p a)) ∧
    (wbits p.word 0 8 < 0x98 → r = ({ zw := p.zw, jw := p.jw }, s)) ∧
    p ∈ (s.kcore d k).pend ∧ (∀ q, q ∈ (s.kcore d k).pend → p.due ≤ q.due) ∧ rest.length + 1 = (s.kcore d k).pend.length) ∧ (
  ∀ (f : Nat → Nat → Nat) (x : KCore) (w : InstrWord), mrising x.z = true → mrising x.zp = true →
    let y := x.putZ (lanes2 f x w)
    (∀ i, i < 64 → y.lane (kD w) i = ((f (x.lane (kA w) i).1 (x.lane (kB w) i).1) % 2 ^ 32,
      (x.lane (kA w) i).2 || (x.lane (kB w) i).2)) ∧
    (∀ r i, r ≠ kD w → i < 64 → y.lane r i = x.lane r i) ∧ y.j = x.j ∧ y.jp = x.jp ∧ y.pend = x.pend)

/-- 12 R519: I32 addition, subtraction and multiplication saturate to [−2^31, 2^31 − 1]. 12 R523: FMAX and FMIN answer the NaN when
either operand is a NaN, and else the larger and the smaller operand in the order of the binary32 numbers, in which, from their encodings, a
negative number of magnitude m comes at −m − 1 and another at its magnitude: so −0 is below +0, whichever operand holds it. -/
def Obligations.LaneArithmeticSaturatesAndKeepsNaN : Prop :=
  (∀ a b : Nat,
    let sat (i : Int) : Int := max (-2147483648) (min 2147483647 i)
    sx 32 (iAdd a b) = sat (sx 32 a + sx 32 b) ∧ sx 32 (iSub a b) = sat (sx 32 a - sx 32 b) ∧
    sx 32 (iMul a b) = sat (sx 32 a * sx 32 b)) ∧
  (∀ a b : Nat, isNan32 a = true ∨ isNan32 b = true → fMax a b = nan32 ∧ fMin a b = nan32) ∧
  (∀ a b : Nat, a < 2 ^ 32 → b < 2 ^ 32 → isNan32 a = false → isNan32 b = false →
    let at_ (x : Nat) : Int := if 2 ^ 31 ≤ x then -((x - 2 ^ 31 : Nat) : Int) - 1 else (x : Int)
    fMax a b = (if at_ a ≤ at_ b then b else a) ∧ fMin a b = (if at_ a ≤ at_ b then a else b)) ∧
  fMax 0x80000000 0 = 0 ∧ fMax 0 0x80000000 = 0 ∧ fMin 0 0x80000000 = 0x80000000 ∧ fMin 0x80000000 0 = 0x80000000

/-- 10 R418, R411, R420, R422: a local POST adds to or sets its counter in the cycle, and a remote
one is offered to its rack queue; a YIELD, and a FENCE or END with no earlier
instruction left, go on at once, FENCE and END posting DONE and END freeing its context; else FENCE and END hold the context at the
instruction. A WAIT on a poisoned counter stops its context and consumes the poison (the model's choice, log entry 119). -/
def Obligations.SynchronisationInstructionsTakeEffect : Prop :=
  ∀ (s : State) (d c : Nat) (w : InstrWord), s.canon = true →
    let x := s.ctx d c
    (s.syncTakes 0x60 d c w → pREM w = false → firstFail (postChecks w) = none →
      exec (.post d c) s =
        .next (syncLeaves d c ((s.postCtr d x.part (wbits w 8 12) (pADD w) (pCLR w) x.tag).accept d c 1 false))) ∧
    (s.syncTakes 0x60 d c w → pREM w = true → ctxEng c = 2 → exec (.post d c) s = .next (s.rackIssueThread d c w)) ∧
    (s.syncTakes 0x60 d c w → pREM w = true → ctxEng c ≠ 2 → (s.rackOffer d c w).1 = oOK →
      exec (.post d c) s = .next (syncLeaves d c ((s.rackOffer d c w).2.accept d c 1 true))) ∧
    (s.syncTakes 0x64 d c w → wbits w 24 104 = 0 →
      exec (.yield d c) s = .next (syncLeaves d c ((s.accept d c 1 false).putCtx d c
        { (s.accept d c 1 false).ctx d c with yieldCyc := wbits w 8 16, yielded := true }))) ∧
    (s.syncTakes 0x62 d c w → wbits w 20 108 = 0 →
      (x.outst = 0 → exec (.fence d c) s = .next (syncLeaves d c ((s.done d x.part (wbits w 8 12) x.tag).accept d c 1 false))) ∧
      (x.outst ≠ 0 → exec (.fence d c) s =
        .next (syncLeaves d c (s.ctxTo d c { x with state := cFENCE, ending := false, heldus := 0 })))) ∧
    (s.syncTakes 0x65 d c w → wbits w 20 108 = 0 →
      (x.outst = 0 → exec (.end_ d c) s = .next (syncLeaves d c ((s.done d x.part (wbits w 8 12) x.tag).ctxTo d c {}))) ∧
      (x.outst ≠ 0 → exec (.end_ d c) s =
        .next (syncLeaves d c (s.ctxTo d c { x with state := cFENCE, ending := true, heldus := 0 })))) ∧
    (s.syncTakes 0x61 d c w → wbits w 76 52 = 0 → wCTR w ≠ 0xFFF →
      let u := s.readCheck (.ctx d) (ctrOff x.part (wCTR w)) 8
      u.poisoned (.ctx d) (ctrOff x.part (wCTR w)) 8 = true →
      exec (.wait d c) s = .next ((u.ctxTo d c { x with state := cSTOPPED, fopc := 0x61, heldus := 0, wctr := 0, wthr := 0 }).consumed
        d x.tag x.part (ctxIsland c) (gaddr (.ctx d) (ctrOff x.part (wCTR w) / 64 * 64))))

/-- 10 R419: a WAIT whose counter's COUNT is at least THR completes when it is carried out; otherwise the context enters WAIT with the
counter and the threshold, and it leaves WAIT when the COUNT has reached THR, not before (R414). The counter is one of the context's own
partition on its own die; its codeword is decoded as it is read (15 R634) and holds no poison. -/
def Obligations.WaitCompletesOrHoldsItsContext : Prop :=
  ∀ (s : State) (d c : Nat) (w : InstrWord), s.canon = true →
    let x := s.ctx d c
    (s.syncTakes 0x61 d c w → wbits w 76 52 = 0 → wCTR w ≠ 0xFFF →
      let u := s.readCheck (.ctx d) (ctrOff x.part (wCTR w)) 8
      u.poisoned (.ctx d) (ctrOff x.part (wCTR w)) 8 = false →
      (wTHR w ≤ u.ctrCount d x.part (wCTR w) → exec (.wait d c) s = .next (syncLeaves d c (u.accept d c 1 false))) ∧
      (u.ctrCount d x.part (wCTR w) < wTHR w → exec (.wait d c) s = .next (syncLeaves d c
        (u.ctxTo d c { x with state := cWAIT, wctr := wCTR w, wthr := wTHR w, heldus := 0 })))) ∧
    (s.hasCtx d c = true → x.state = cWAIT →
      let u := s.readCheck (.ctx d) (ctrOff x.part x.wctr) 8
      u.poisoned (.ctx d) (ctrOff x.part x.wctr) 8 = false →
      (x.wthr ≤ u.ctrCount d x.part x.wctr → exec (.waitRelease d c) s = .next (u.accept d c 1 false)) ∧
      (u.ctrCount d x.part x.wctr < x.wthr → exec (.waitRelease d c) s = .next u)) ∧
    (s.hasCtx d c = true → x.state ≠ cWAIT → exec (.waitRelease d c) s = .next s)

/-- 10 R421, R423: a SPAWN whose target context is FREE starts a thread there, READY at its PC with the issuer's tag and partition, and
posts DONE; one whose target is not FREE holds. With PRED the predicate word is read first: one that fails starts nothing and
posts DONE, and a poisoned one stops the context (10 R423).

10 R420, R422: a context in FENCE is released, or freed if it holds an END, when its last earlier instruction has completed, posting
DONE. -/
def Obligations.SpawnStartsAThreadAndHeldContextsAreReleased : Prop :=
  (
  ∀ (s : State) (d c : Nat) (w : InstrWord), s.canon = true → s.syncTakes 0x63 d c w → firstFail (s.spawnChecks d c w) = none →
    let x := s.ctx d c
    let start : State := s.startThread d (sTarget w) x.tag x.part (sPC w)
    (sPRED w = false → (s.ctx d (sTarget w)).state = cFREE →
      exec (.spawn d c) s = .next (syncLeaves d c (start.spawnEnd d c w)) ∧
      start.ctx d (sTarget w) = { state := cREADY, tag := x.tag, part := x.part, pc := sPC w }) ∧
    (sPRED w = false → (s.ctx d (sTarget w)).state ≠ cFREE → exec (.spawn d c) s = .next (s.hold d c)) ∧
    (let u := s.readCheck (.ctx d) (sPADDR w) 16
     let f := bits (u.peekN (.ctx d) (sPADDR w) 16) (sPLO w) (sPWID w + 1)
     sPRED w = true → u.poisoned (.ctx d) (sPADDR w) 16 = false → decide (f ≠ 0) = sNEG w →
      exec (.spawn d c) s = .next (syncLeaves d c (u.spawnEnd d c w))) ∧
    (let u := s.readCheck (.ctx d) (sPADDR w) 16
     let f := bits (u.peekN (.ctx d) (sPADDR w) 16) (sPLO w) (sPWID w + 1)
     sPRED w = true → u.poisoned (.ctx d) (sPADDR w) 16 = false → decide (f ≠ 0) ≠ sNEG w → (u.ctx d (sTarget w)).state = cFREE →
      exec (.spawn d c) s = .next (syncLeaves d c ((u.startThread d (sTarget w) x.tag x.part (sPC w)).spawnEnd d c w))) ∧
    (let u := s.readCheck (.ctx d) (sPADDR w) 16
     sPRED w = true → u.poisoned (.ctx d) (sPADDR w) 16 = true →
      exec (.spawn d c) s = .next ((u.ctxTo d c { x with state := cSTOPPED, fopc := 0x63 }).consumed d x.tag x.part (ctxIsland c)
        (gaddr (.ctx d) (sPADDR w))))) ∧ (
  ∀ (s : State) (d c : Nat) (w : InstrWord) (q : List InstrWord), s.hasCtx d c = true →
    let x := s.ctx d c
    (x.state = cFENCE → x.outst = 0 → x.ibuf = w :: q →
      exec (.fenceSatisfied d c) s = .next ((s.putCtx d c { x with ending := false }).fenceDone d c w)) ∧
    (x.state = cFENCE → x.outst ≠ 0 → exec (.fenceSatisfied d c) s = .next s))

/-- 10 R413, R412: a post adds to the COUNT of its counter, or with CLR sets COUNT to ADD and clears OVF; index 0xFFF posts nothing. This
is the case of clean codewords and of a sum that the counter holds; nothing else changes. -/
def Obligations.PostsAddToTheirCounter : Prop :=
  ∀ (s : State) (d p i add tag : Nat) (clr : Bool), s.canon = true → p < 8 →
    (s.postCtr d p 0xFFF add clr tag = s) ∧
    (i < 0xFFF → (∀ o, s.mark (.ctx d) o = .clean) → add < 2 ^ 56 →
      let w := s.peekN (.ctx d) (ctrOff p i) 8
      let n := if clr then add else bits w 0 56 + add
      let t := s.postCtr d p i add clr tag
      (∀ r o, ¬ (r.num = (Region.ctx d).num ∧ ctrOff p i ≤ o % 2 ^ 64 ∧ o % 2 ^ 64 < ctrOff p i + 8) → t.peek r o = s.peek r o) ∧
      (n < 2 ^ 56 → t.ctrCount d p i = n ∧
        bits (t.peekN (.ctx d) (ctrOff p i) 8) 63 1 = (if clr then 0 else bits w 63 1) ∧ t = { s with mem := t.mem }))

/-- 10 R415: a post that would take COUNT above 2^56 − 1 leaves COUNT at 2^56 − 1 and sets OVF, and reports a counter-overflow fault of the
posting tag to firmware. -/
def Obligations.CounterOverflowSticksAndIsReported : Prop :=
  ∀ (s : State) (d p i add tag : Nat) (clr : Bool), s.canon = true → p < 8 → i < 0xFFF → (∀ o, s.mark (.ctx d) o = .clean) →
    let w := s.peekN (.ctx d) (ctrOff p i) 8
    let t := s.postCtr d p i add clr tag
    add < 2 ^ 56 → 2 ^ 56 - 1 < (if clr then add else bits w 0 56 + add) →
      t.ctrCount d p i = 2 ^ 56 - 1 ∧ bits (t.peekN (.ctx d) (ctrOff p i) 8) 63 1 = 1 ∧
      t.reports = s.reports ++ [{ die := d, tag := tag, part := p, cls := 0x16, addr := gaddr (.ctx d) (ctrOff p i) }] ∧
      t = { s with mem := t.mem, reports := t.reports }

/-- 10 R407, R409: the fetch unit appends the words of the next sack of a READY context's code, at CBASE plus its position, up to 4 sacks
ahead and further while the buffer has room; a sack at or
beyond CLIM is not fetched, and stops the context with RANGE when it has no word left. 10 R405: the image of a held context is written
whole with how long the hold has lasted.

10 R434, R435: the watchdog of a partition fires when a hold of one of its jobs has lasted its time: the first hold is recorded with
its context, kind and tag, and every one is reported; with no time set, or before it, nothing happens. The holds are a context's, a beat
without its MASH at a vat, a ledger's (which faults), a rack queue's wait for a tracker entry, and an acknowledgement's. That the context
named is the lowest that waits on the held work is log entry 98. -/
def Obligations.FetchImagesAndTheWatchdog : Prop :=
  (
  ∀ (s : State) (d c us : Nat), s.hasCtx d c = true →
    let x := s.ctx d c
    let a := x.pc + 16 * x.ibuf.length
    let o := s.rf d (oThrJob x.tag) thrJobCbase + a
    let u := s.readCheck (.cellar d) o 16
    (x.state = cREADY → x.ibuf.length < 16 ∨ s.bufUsed d c + 4 ≤ bufWords c → a < s.clim d x.tag → u.poisoned (.cellar d) o 16 = false →
      exec (.instructionFetch d c) s =
        .next (u.putCtx d c { u.ctx d c with ibuf := x.ibuf ++ u.codeWords d o ((64 - a % 64) / 16) })) ∧
    (x.state = cREADY → x.ibuf = [] → s.clim d x.tag ≤ x.pc →
      exec (.instructionFetch d c) s = .next (s.reject d c 6 (if ctxEng c = 0 then 3 else 0))) ∧
    (x.state = cWAIT ∨ x.state = cHOLD ∨ x.state = cFENCE →
      exec (.contextImageUpdate d c us) s = .next (s.ctxFull d c { x with heldus := min us (2 ^ 32 - 1) })) ∧
    (x.state = cSTOPPED → exec (.contextImageUpdate d c us) s = .next (s.ctxFull d c x))) ∧ (
  ∀ (s : State) (d ms : Nat), s.canon = true → s.hasDie d = true →
    (∀ (kind tag c : Nat) (body : State → State), kind < 5 → tag < 256 → c < 25600 → (s.inoc d).point ≠ 0x50 →
      let p := s.jobPart d tag
      let o := oThrWdog p
      (s.rf d o thrWdogTmo ≠ 0 → s.rf d o thrWdogTmo ≤ ms → ∃ u : State, s.wdog d kind tag c ms body = body u ∧
        (s.rf d o thrWdogFired = 0 → u.rf d o thrWdogFired = 1 ∧ u.rf d o thrWdogCtx = c ∧ u.rf d o thrWdogKind = kind ∧
          u.rf d o thrWdogTag = tag ∧ u.rf d o thrWdogTmo = s.rf d o thrWdogTmo) ∧
        (s.rf d o thrWdogFired = 1 → u.regs = s.regs) ∧ (∀ e k, regKey e k ≠ regKey d o → u.reg e k = s.reg e k) ∧
        u.reports = s.reports ++ [{ die := d, tag := tag, part := p, cls := 0x11, cause := 5, island := ctxIsland c,
                                    sub := ctxInst c, detail := kind }] ∧
        u = { s with regs := u.regs, reports := u.reports }) ∧
      (s.rf d o thrWdogTmo = 0 ∨ ms < s.rf d o thrWdogTmo → s.wdog d kind tag c ms body = s)) ∧
    (∀ c, c < 25600 → (s.ctx d c).state = cWAIT ∨ (s.ctx d c).state = cHOLD ∨ (s.ctx d c).state = cFENCE →
      exec (.watchdogFire d 0 c ms) s = .next (s.wdog d 0 (s.ctx d c).tag c ms id)) ∧
    (∀ v b bs, v < 16 → (s.vat d v).inq = b :: bs → (s.vat d v).mashQ = [] → (s.vat d v).entryFree = true →
      exec (.watchdogFire d 1 v ms) s = .next (s.wdog d 1 b.tag (s.waitingOn d b.tag (fun c _ => decide (c / 1024 = v))) ms id)) ∧
    (∀ l, l < 256 → s.ledState d l = 1 ∨ s.ledState d l = 2 ∨ s.ledState d l = 3 →
      let t := bits (s.led d l) 48 8
      exec (.watchdogFire d 2 l ms) s = .next (s.wdog d 2 t
        (s.waitingOn d t (fun _ y => y.state = cWAIT && y.wctr = bits (s.led d l) 144 12)) ms (fun s => s.ledFault d l))) ∧
    (∀ qu, qu < 256 → (s.rackq d qu).trkWait = 1 →
      let t := (s.rackq d qu).trkTag
      exec (.watchdogFire d 3 qu ms) s = .next (s.wdog d 3 t
        (s.waitingOn d t (waitsOn (s.queueWork d qu (fun i => i.tag = t)))) ms id)) ∧
    (∀ x t l, x < 769 → x ≠ 256 → s.remoteWait d x = some (t, l) →
      exec (.watchdogFire d 4 x ms) s = .next (s.wdog d 4 t (s.waitingOn d t (waitsOn l)) ms id)))

/-- 09 R351, R352: a racking instruction that a racking thread presents, and whose rack queue takes it, is accepted and its context goes on;
with the queue full its context holds, a failing check stops the context with its code, and poison in a descriptor stops it. 10 R403: of the four SCATTER forms each row is
the instruction of its FORM. -/
def Obligations.RackingInstructionsAreOffered : Prop :=
  ∀ (s : State) (d c : Nat) (w : InstrWord), s.presents d c w → ctxEng c = 2 →
    let r := s.rackOffer d c w
    let row (o : Host.Outcome State Fault Refusal) : Prop :=
      (r.1 = oOK → o = .next (r.2.accept d c 1 true)) ∧ (r.1 = oFULL → o = .next (r.2.hold d c)) ∧
      (r.1 ≠ oOK → r.1 ≠ oFULL → r.1 ≠ oPOISON → o = .next (r.2.reject d c r.1 (queueOf w))) ∧
      (r.1 = oPOISON → o = .next (r.2.ctxTo d c { r.2.ctx d c with state := cSTOPPED, fcode := 0, fopc := wbits w 0 8 }))
    (wbits w 0 8 = 0x50 → row (exec (.rack d c) s)) ∧ (wbits w 0 8 = 0x51 → row (exec (.turn d c) s)) ∧
    (wbits w 0 8 = 0x52 → row (exec (.gather d c) s)) ∧ (wbits w 0 8 = 0x53 → rkFORM w = 0 → row (exec (.scatter d c) s)) ∧
    (wbits w 0 8 = 0x53 → rkFORM w = 1 → row (exec (.scatterAdd d c) s)) ∧
    (wbits w 0 8 = 0x53 → rkFORM w = 2 → row (exec (.scatterDispatch d c) s)) ∧
    (wbits w 0 8 = 0x53 → rkFORM w = 3 → row (exec (.scatterSlotMap d c) s)) ∧
    (wbits w 0 8 = 0x54 → row (exec (.stash d c) s)) ∧ (wbits w 0 8 = 0x55 → row (exec (.unstash d c) s))

/-- 09 R350, R351, R352: an offer decodes the descriptors the word names and runs its checks: the first that fails answers its code, and a
queue that is not enabled, or is of another partition, answers 9 (PROT); a queue that holds QDEPTH + 1 instructions is full; else the
instruction is the last of its queue, with its descriptors and the next number of acceptance, a rest of island 22 ends, and no other queue
changes. Poison in a descriptor, or in the ledger of a slot-map return (log entry 112), is consumed. What is not accepted enters no queue. A
POUR, COLLECT or COPY is served from the queue too, beside its instructions (log entry 25).

09 R353, R364: in its turn (no queue served longer ago can issue) a queue issues the requests of its first instruction that is not issued
whole, in order, behind the gate of a consuming stream, and was then served last; an instruction with no request left is issued whole. A
queue whose turn it is not, or whose head waits for a tracker entry, issues nothing, nor does a lost die's (01 R47); the requests of the
queue's tun come first (log entry 25). A slot-map return reads its ledger first, and poison there stops it and is consumed (15 R639, log entry
112).
RACK_REQUEST_ISSUE completes in every state of a die the module has: it answers the next state written here. Log entries 25 and 112 are the model's choices. -/
def Obligations.RackQueuesTakeAndIssueInOrder : Prop :=
  (
  ∀ (s : State) (d c : Nat) (w : InstrWord), s.canon = true → d < 8 →
    let x := s.ctx d c
    let qu := queueOf w
    let o := wbits w 0 8
    let l := s.loadDescs d x.part (descIdx w)
    let m := if o = 0x53 ∧ rkFORM w = 3 then l.2.2.ledPoison d (smLEDGER w) 0 else (none, l.2.2)
    let u := m.2
    let cfg := fun f => u.rf d (oRkQcfg qu) f
    let i0 : RInstr := { word := w, opc := o, c := c, ket := isKet c, tag := x.tag, part := x.part, seq := s.rackSeq, descs := l.1 }
    ((0x50 ≤ o ∧ o ≤ 0x55) ∨ o = 0x60 →
      (l.2.1 = true → s.rackOffer d c w =
        (oPOISON, l.2.2.consumed d x.tag x.part 22 (gaddr (.ctx d) (descOff x.part ((descIdx w).headD 0))))) ∧
      (∀ a, l.2.1 = false → m.1 = some a → s.rackOffer d c w = (oPOISON, u.consumed d x.tag x.part 22 a)) ∧
      (l.2.1 = false → m.1 = none →
        (∀ k, u.makeR d x.tag x.part i0 = .rej k → s.rackOffer d c w = (k, u)) ∧
        (∀ i prot, u.makeR d x.tag x.part i0 = .ok i prot →
          (prot = true ∨ cfg rkQcfgEn = 0 ∨ cfg rkQcfgPart ≠ x.part → s.rackOffer d c w = (9, u)) ∧
          (prot = false → cfg rkQcfgEn ≠ 0 → cfg rkQcfgPart = x.part → cfg rkQcfgQdepth < (u.rackq d qu).ins.length →
            s.rackOffer d c w = (oFULL, u)) ∧
          (prot = false → cfg rkQcfgEn ≠ 0 → cfg rkQcfgPart = x.part → (u.rackq d qu).ins.length ≤ cfg rkQcfgQdepth →
            let a := u.acceptR d c i
            let v := a.2.unrest d 22
            let j := v.startR d a.1
            s.rackOffer d c w =
              (oOK, { v.putRackq d qu { v.rackq d qu with ins := (v.rackq d qu).ins ++ [j] } with rackSeq := v.rackSeq + 1 }) ∧
            (s.rackOffer d c w).2.rackSeq = s.rackSeq + 1 ∧
            ((s.rackOffer d c w).2.rackq d qu).ins = (s.rackq d qu).ins ++ [j] ∧
            (∀ e q, q < 257 → (e, q) ≠ (d, qu) → (s.rackOffer d c w).2.rackq e q = s.rackq e q))))) ∧
    ((s.rackOffer d c w).1 ≠ oOK → (s.rackOffer d c w).2.rackqs = s.rackqs ∧ (s.rackOffer d c w).2.rackSeq = s.rackSeq)) ∧ (
  ∀ (s : State) (d qu : Nat), s.hasDie d = true → qu < 257 →
    let x := s.rackq d qu
    let served (t : State) : State := { t with rkLast := mset n0 t.rkLast d (qu + 1) }
    let tried (t : State × Bool) : State := if t.2 then served t.1 else t.1
    (s.rackTurn d qu = false ∨ x.trkWait = 1 ∨ bit s.lostDies d = true → exec (.rackRequestIssue d qu) s = .next s) ∧
    (s.rackTurn d qu = true → x.trkWait ≠ 1 → bit s.lostDies d = false →
      (∀ q i, s.tunNext d qu = some (q, i) →
        (s.rkAborting d q.tag = true → exec (.rackRequestIssue d qu) s = .next s) ∧
        (s.rkAborting d q.tag = false →
          let t := s.issueReq d qu q i
          exec (.rackRequestIssue d qu) s =
            .next (if x.outs.length < (t.1.rackq d qu).outs.length then served (t.1.tunIssued d qu q) else tried t))) ∧
      (s.tunNext d qu = none →
        (x.ins.find? (fun i => ! i.full) = none → exec (.rackRequestIssue d qu) s = .next s) ∧
        (∀ i, x.ins.find? (fun i => ! i.full) = some i →
          let l := smLEDGER i.word
          let m := if i.opc = 0x53 ∧ rkFORM i.word = 3 then s.ledPoison d l (4096 + 8 * (s.ledS d l * s.ledQ d l)) else (none, s)
          let u := m.2
          (s.rkAborting d i.tag = true → qu ≠ 256 → exec (.rackRequestIssue d qu) s = .next s) ∧
          (s.rkAborting d i.tag = false ∨ qu = 256 →
            (∀ a, m.1 = some a → exec (.rackRequestIssue d qu) s = .next (served (u.rackPoison d qu i.seq a))) ∧
            (m.1 = none →
              (∀ q i', u.nextReq d qu i = .req q i' →
                (¬ ((i.opc = 0x50 ∨ i.opc = 0x51) ∧ rkMODE i.word = 1 ∧ i.gates ≤ q.tile) →
                  exec (.rackRequestIssue d qu) s = .next (tried (u.issueReq d qu q i'))) ∧
                ((i.opc = 0x50 ∨ i.opc = 0x51) → rkMODE i.word = 1 → i.gates ≤ q.tile →
                  exec (.rackRequestIssue d qu) s = .next u)) ∧
              (u.nextReq d qu i = .wait → exec (.rackRequestIssue d qu) s = .next u) ∧
              (u.nextReq d qu i = .fin → exec (.rackRequestIssue d qu) s =
                .next (u.putRackq d qu ((u.rackq d qu).setIns { i with full := true }))) ∧
              (∀ k, u.nextReq d qu i = .stop k → exec (.rackRequestIssue d qu) s = .next (served (u.rackStop d qu i.seq k 0)))))))))

/-- 09 R354: a request whose data is in hand, whose remote destinations have acknowledged, and whose older requests do not write its
bytes, completes with its effect; any other does not. 09 R371: a turning one first passes, with its block, through the turning tile. A part of an accumulate unit that its instruction has left leaves its queue without
one. 09 R354, 10 R413: an instruction issued whole, with no request left, completes, leaves its queue, and posts DONE. 09 R387, 14 R587: a
host read ends with the host's bytes, or as an error when none came in time.

09 R387, 14 R587: a host read of a queue that ends well holds the host's bytes; one that ends badly holds zeros, all poisoned, and is
recorded with class 0x0D. A turning request then goes on with its block (09 R371). -/
def Obligations.RackingRequestsAndHostReadsComplete : Prop :=
  (
  ∀ (s : State) (d qu n : Nat), s.hasDie d = true → qu < 257 →
    let x := s.rackq d qu
    (∀ q, x.outs[n]? = some q →
      (q.pos = 0 ∨ q.turned = true → exec (.rackRequestComplete d qu n) s = .next (s.completeReq d qu q)) ∧
      (q.pos ≠ 0 → q.turned = false →
        let u := s.pushHeld d qu q.seq
        (∀ r, (u.rackq d qu).outs.find? (fun r => r.id = q.id) = some r →
          exec (.rackRequestComplete d qu n) s = .next (u.completeReq d qu r)) ∧
        ((u.rackq d qu).outs.find? (fun r => r.id = q.id) = none → exec (.rackRequestComplete d qu n) s = .next u))) ∧
    (x.outs[n]? = none → exec (.rackRequestComplete d qu n) s = .next s) ∧
    (∀ q : Req,
      let may := q.ready = true ∧ (q.pos ≠ 0 → q.turned = true) ∧ (∀ y, y ∈ q.dst → y.kind = 2 → 2 ≤ y.sent) ∧
        (q.what = 2 → q.summed = true) ∧ olderMeets x.outs q = false
      let t := s.takeReq d qu q
      (s.unitDead d qu q = false → may → s.completeReq d qu q = t.2.2.reqEffect d qu q t.1 t.2.1) ∧
      (s.unitDead d qu q = false → ¬ may → s.completeReq d qu q = s) ∧
      (s.unitDead d qu q = true → q.ready = true →
        s.completeReq d qu q = (s.dropReq d qu q.id q.seq).pushHeld d qu q.seq) ∧
      (s.unitDead d qu q = true → q.ready = false → s.completeReq d qu q = s)) ∧
    (∀ i, x.ins[n]? = some i →
      let ends := i.full = true ∧ i.stopped = false ∧ (∀ q, q ∈ x.outs → q.seq ≠ i.seq) ∧ i.tiles ≤ i.posted
      (ends → qu ≠ 256 → s.rkAborting d i.tag = false → exec (.rackInstructionComplete d qu n) s =
        .next (((s.putRackq d qu { x with ins := x.ins.filter (fun j => j.seq ≠ i.seq) }).done d i.part
          (if i.opc = 0x60 then 0xFFF else wbits i.word 8 12) i.tag).ctxRetire d i.c)) ∧
      (ends → qu = 256 → exec (.rackInstructionComplete d qu n) s =
        .next ((s.putRackq d qu { x with ins := x.ins.filter (fun j => j.seq ≠ i.seq) }).copyEnd i)) ∧
      (¬ ends ∨ (qu ≠ 256 ∧ s.rkAborting d i.tag = true) → exec (.rackInstructionComplete d qu n) s = .next s)) ∧
    (∀ ok, exec (.hostCompletion d qu ok) s = .next (s.hostReadEnd d qu ok)) ∧
    (∀ us, s.cplTimeout ≤ us → exec (.hostCompletionTimeout d qu us) s = .next (s.hostReadEnd d qu false)) ∧
    (∀ us, us < s.cplTimeout → exec (.hostCompletionTimeout d qu us) s = .next s)) ∧ (
  ∀ (s : State) (d qu : Nat) (q : Req) (p : Piece), s.canon = true →
    (s.rackq d qu).outs = [q] → q.src = [p] → p.wait = 1 → q.what = 0 → (∀ y, y ∈ q.dst → y.kind ≠ 2) →
    let on := fun (t : State) => if q.pos = 0 then t else t.pushHeld d qu q.seq
    (s.hostOk q.part = true → s.hostReadEnd d qu true = on (s.putRackq d qu ((s.rackq d qu).setOut
      { q with src := [{ p with wait := 3, data := s.peeks .host p.addr p.n, pz := List.replicate p.n false }] }))) ∧
    (s.hostReadEnd d qu false = on ((s.putRackq d qu ((s.rackq d qu).setOut
      { q with src := [{ p with wait := 3, data := List.replicate p.n 0, pz := List.replicate p.n true }] })).logErr
        { cls := 0x0D, die := d, island := 22, tagv := qu ≠ 256, tag := q.tag, part := q.part, addr := p.addr })))

/-- 09 R361, R364: the next tile of the oldest stream whose requests of it are done posts its RDY counter; the next gate of the issuing
stream opens when the consumer has posted enough, and not before; a poisoned counter stops the instruction (log entry 119). 09 R367, R368: the wait of a queue's head for a tracker entry ends when
its partition uses fewer than its quota.

09 R366: the regulator adds 64 times its rate to the budget of every queue that has one, up to the queue's burst, and to no other.

09 R390: an abort notice discards the tag's instructions of every queue of the die that have no request outstanding; those started stay
in their queue, in their order, issue no more, and keep their requests; writes of the tag's tun transfers that wait are dropped, and a queue's
wait for a tracker entry ends when it is the tag's. Other tags, other dies' queues and the host's queue stay. 07 R290: ledgers of the tag
become ABORTED; where there is none, nothing but the queues changes. The drain is reported once no tracker entry of the tag is left.
STREAM_TILE_READY, STREAM_GATE_OPEN, REGULATOR_REFILL, TRACKER_ENTRY_WAIT_END, RACKING_ABORT_NOTICE and RACKING_DRAIN_REPORT complete: each answers the next state written here. -/
def Obligations.StreamsRegulatorsAndAborts : Prop :=
  (
  ∀ (s : State) (d qu : Nat), s.hasDie d = true → qu < 256 →
    let x := s.rackq d qu
    let ripe := fun (i : RInstr) => decide (i.posted < i.tiles) && ! i.stopped && ! s.rkAborting d i.tag &&
      (decide (rkMODE i.word ≠ 1) || decide (i.posted < i.gates)) && s.tileDone d qu i i.posted
    (∀ i, x.ins.find? ripe = some i → exec (.streamTileReady d qu) s =
      .next ((s.putRackq d qu (x.setIns { i with posted := i.posted + 1 })).postCtr d i.part (wbits i.word 56 12) 1 false i.tag)) ∧
    (x.ins.find? ripe = none → exec (.streamTileReady d qu) s = .next s) ∧
    (∀ i, x.ins.find? (fun i => (i.opc = 0x50 || i.opc = 0x51) && rkMODE i.word = 1 && ! i.stopped && decide (i.gates < i.tiles)) = some i →
      let k := wbits i.word 68 12
      let u := s.readCheck (.ctx d) (ctrOff i.part k) 8
      let n := rkDEPTH i.word + (u.ctrCount d i.part k - i.c0)
      (u.poisoned (.ctx d) (ctrOff i.part k) 8 = false →
        (i.gates + 1 ≤ n → exec (.streamGateOpen d qu) s = .next (u.putRackq d qu (x.setIns { i with gates := i.gates + 1 }))) ∧
        (n < i.gates + 1 → exec (.streamGateOpen d qu) s = .next u)) ∧
      (u.poisoned (.ctx d) (ctrOff i.part k) 8 = true →
        exec (.streamGateOpen d qu) s = .next ((u.putRackq d qu (x.setIns { i with full := true, stopped := true })).consumed d i.tag i.part
          22 (gaddr (.ctx d) (ctrOff i.part k / 64 * 64))))) ∧
    (x.trkWait = 1 → s.trkUsed d x.trkPart < s.rf d (oRkTrkq x.trkPart) rkTrkqQuota →
      exec (.trackerEntryWaitEnd d qu) s = .next (s.putRackq d qu { x with trkWait := 0 })) ∧
    (x.trkWait ≠ 1 ∨ s.rf d (oRkTrkq x.trkPart) rkTrkqQuota ≤ s.trkUsed d x.trkPart →
      exec (.trackerEntryWaitEnd d qu) s = .next s)) ∧ (
  ∀ (s : State) (d : Nat), s.canon = true → s.hasDie d = true →
    goesOn (exec (.regulatorRefill d) s) (fun t =>
      (∀ qu, qu < 256 →
        let r := s.rf d (oRkQcfg qu) rkQcfgRate
        t.rackq d qu = (if r = 0 then s.rackq d qu else
          { s.rackq d qu with budget := min ((s.rackCap d qu : Nat) : Int) ((s.rackq d qu).budget + ((r * 64 : Nat) : Int)) })) ∧
      t.rackq d 256 = s.rackq d 256 ∧ (∀ e, e ≠ d → ∀ q, q < 257 → t.rackq e q = s.rackq e q) ∧ t = { s with rackqs := t.rackqs })) ∧ (
  ∀ (s : State) (d tag : Nat), s.canon = true → s.hasDie d = true → tag < 256 →
    goesOn (exec (.rackingAbortNotice d tag) s) (fun t =>
      t.rkAborting d tag = true ∧ (∀ e g, g < 256 → (e, g) ≠ (d, tag) → t.rkAborting e g = s.rkAborting e g) ∧
      (∀ qu, qu < 256 →
        let x := s.rackq d qu
        let started := fun (i : RInstr) => x.outs.any (fun q => q.seq = i.seq)
        t.rackq d qu = { x with
          ins := (x.ins.filter (fun i => decide (i.tag ≠ tag) || started i)).map (fun i => if i.tag = tag then { i with full := true } else i),
          trkWait := if x.trkTag = tag then 0 else x.trkWait, twr := x.twr.filter (fun q => q.tag ≠ tag) } ∧
        (∀ i, i ∈ x.ins → i.tag = tag → started i = true → { i with full := true } ∈ (t.rackq d qu).ins)) ∧
      t.rackq d 256 = s.rackq d 256 ∧ (∀ e qu, e ≠ d → qu < 257 → t.rackq e qu = s.rackq e qu) ∧
      ((∀ l, l < 256 → bits (s.led d l) 48 8 ≠ tag ∨ s.ledState d l = 0 ∨ s.ledState d l = 7) →
        t = { s with abortRk := t.abortRk, rackqs := t.rackqs }) ∧
      ((∀ o, s.mark (.ctx d) o = .clean) →
        t = { s with abortRk := t.abortRk, rackqs := t.rackqs, specRows := t.specRows, mem := t.mem } ∧
        (∀ r o, ¬ (r.num = (Region.ctx d).num ∧ ∃ l, l < 256 ∧ bits (s.led d l) 48 8 = tag ∧ ledOff l ≤ o % 2 ^ 64 ∧
            o % 2 ^ 64 < ledOff l + 64) → t.peek r o = s.peek r o) ∧
        (∀ l, l < 256 → bits (s.led d l) 48 8 = tag → s.ledState d l ≠ 0 → s.ledState d l ≠ 7 →
          t.ledState d l = 5 ∧ t.ledF24 d l lHELD = 0))) ∧
    (s.rkAborting d tag = true → s.tagTracked d tag = false →
      goesOn (exec (.rackingDrainReport d tag) s) (fun t =>
        mget (fun _ => false) t.drainRk (d * 256 + tag) = true ∧ t = { s with drainRk := t.drainRk })) ∧
    (s.rkAborting d tag = false ∨ s.tagTracked d tag = true → exec (.rackingDrainReport d tag) s = .next s))

/-- 12 R517, 07 R300: between its groups a kettle core sums the oldest waiting unit whose rows are in hand, and the unit leaves the core's
queue: the destination row's requests hold the row with every source row added in order, and send what goes elsewhere. Until then the unit
waits.

07 R283, R287: arming zeroes the ledger's counters and its count table and forgets its speculative rows; COUNTED becomes COMMITTING when
every sender's firm and kept rows have landed, and not before. 07 R288: the close of a COMMITTING ledger copies kept speculative rows into
empty slots, writes its slot map and mask sacks, gives the shadow rows back undefined, is DONE and posts; 07 R287: one whose arrivals were
inconsistent faults after the copy (log entry 122). 15 R634, R639: the record and the part of the map it reads are decoded first; poison in
them is consumed, for the partition that holds the ledger (log entry 112), and nothing else happens.

07 R289: a ledger that faults is in FAULT, holds no tracker entry and posts nothing, and the fault is reported with class 0x18. This is
the case of clean codewords. -/
def Obligations.AccumulationAndLedgers : Prop :=
  (
  ∀ (s : State) (d k qu u : Nat) (rest : List (Nat × Nat)), s.hasDie d = true → k < 4 → s.accOf d k = (qu, u) :: rest →
    (s.accReady d k = true → (s.kcore d k).pend = [] →
      exec (.accumulateUnit d k) s = .next ((s.sumUnit d qu u).putAcc d k rest)) ∧
    (s.accReady d k = false ∨ (s.kcore d k).pend ≠ [] → exec (.accumulateUnit d k) s = .next s) ∧
    (∀ q i, let rs := (s.rackq d qu).unitOuts u
      rs.find? (fun r => r.ulast) = some q → (s.rackq d qu).getIns q.seq = some i → rs.all Req.ready = true →
      let a := takeAll d qu s (rs.filter (fun r => decide (r.dst ≠ [])))
      let b := takeAll d qu a.2.2 (rs.filter (fun r => r.dst = []))
      let r := foldRows i.table.fmt a.1.length q.aux a.1 a.2.1 b.1 b.2.1
      let t := b.2.2.countSat d i r.2.2
      let summed := sumInto rs r.1 r.2.1
      s.sumUnit d qu u =
        summed.foldl (fun s q => s.pushRemote d qu q) (t.putRackq d qu (summed.foldl RackQ.setOut (t.rackq d qu))))) ∧ (
  ∀ (s : State) (d l : Nat), s.hasDie d = true → l < 256 →
    let psn (n : Nat) (o : Host.Outcome State Fault Refusal) : Prop := ∀ a, (s.ledPoison d l n).1 = some a →
      let u := (s.ledPoison d l n).2
      let p := ((List.range 8).find? (fun p => s.granted d p 0xA d l l)).getD 8
      o = .next (u.report { poison := true, die := d, tagv := false, part := p, cls := 4, cause := 4, island := 22, addr := a })
    (mget (fun _ => false) s.ledNew (d * 256 + l) = true →
      psn 0 (exec (.ledgerArm d l) s) ∧
      ((s.ledPoison d l 0).1 = none →
        let v := (s.ledPoison d l 0).2
        let t := { v with ledNew := mset (fun _ => false) v.ledNew (d * 256 + l) false }
        (v.ledState d l = 1 → exec (.ledgerArm d l) s = .next (let u := (t.ledSet d l [(256, 153, 0), (432, 17, 0)]).putSpec d l []
          u.writeZ (u.rawRuns d (bits (u.led d l) 192 64) 4096) (List.replicate 4096 0) (List.replicate 4096 false))) ∧
        (v.ledState d l ≠ 1 → exec (.ledgerArm d l) s = .next t))) ∧
    (mget (fun _ => false) s.ledNew (d * 256 + l) = false → exec (.ledgerArm d l) s = .next s) ∧
    psn 4096 (exec (.ledgerCommitting d l) s) ∧
    ((s.ledPoison d l 4096).1 = none →
      let v := (s.ledPoison d l 4096).2
      let all := (List.range (v.ledS d l)).all (fun k =>
        decide (v.ledFarr d l k = v.ledF d l k) && decide (v.ledShld d l k = (v.ledKeeps d l).getD k 0))
      (v.ledState d l = 2 → all = true → exec (.ledgerCommitting d l) s = .next (v.ledSet d l [(40, 3, 3)])) ∧
      (v.ledState d l ≠ 2 ∨ all = false → exec (.ledgerCommitting d l) s = .next v)) ∧
    (s.ledState d l = 3 → psn 4096 (exec (.ledgerClose d l) s) ∧
      ((s.ledPoison d l 4096).1 = none →
        let v := (s.ledPoison d l 4096).2
        let empty := v.emptySlots d l
        let kept := v.keptTokens d l
        let c := commitCopy d l v (empty.zip kept)
        (c.ledF24 d l lBAD ≠ 0 → exec (.ledgerClose d l) s = .next (c.ledFault d l)) ∧
        (c.ledF24 d l lBAD = 0 →
          let q := c.ledQ d l
          let left := empty.drop kept.length
          let firm := (List.range (c.ledS d l)).flatMap (fun k =>
            (List.range (c.ledF d l k)).map (fun j => (k * q + j, slotEntry j k false)))
          let spec := (empty.zip kept).map (fun t => (t.1, slotEntry t.2.2 t.2.1 true))
          let m := maskSacks d l (firm.length + kept.length = 0) left ((c.ledS d l * q + 127) / 128)
            (slotMapPut d l c (firm ++ spec ++ left.map (fun u => (u, 0))))
          let r := m.led d l
          let n := undefRows d l (bits r 86 22) (m.ledRow d l) (m.ledS d l * m.ledP d l) m
          let z := (n.ledSet d l [(40, 3, 4), (lKEPT, 24, kept.length), (lHELD, 24, 0), (432, 17, firm.length + kept.length)]).putSpec d l []
          exec (.ledgerClose d l) s = .next (z.postCtr d (z.jobPart d (bits r 48 8)) (bits r 144 12) 1 false (bits r 48 8))))) ∧
    (s.ledState d l ≠ 3 → exec (.ledgerClose d l) s = .next s) ∧
    (s.ledState d l = 3 → (∀ r o, s.mark r o = .clean) → (∀ e, s.inoc e = {}) → s.emptySlots d l = [] → s.ledF24 d l lBAD ≠ 0 →
      exec (.ledgerClose d l) s = .next (s.ledFault d l))) ∧ (
  ∀ (s : State) (d l : Nat), s.canon = true → l < 256 → (∀ o, s.mark (.ctx d) o = .clean) →
    let t := s.ledFault d l
    t.ledState d l = 6 ∧ t.ledF24 d l lHELD = 0 ∧ t.specOf d l = [] ∧
    (∀ r o, ¬ (r.num = (Region.ctx d).num ∧ ledOff l ≤ o % 2 ^ 64 ∧ o % 2 ^ 64 < ledOff l + 64) → t.peek r o = s.peek r o) ∧
    t.reports = s.reports ++ [{ die := d, tag := bits (s.led d l) 48 8, part := s.jobPart d (bits (s.led d l) 48 8), cls := 0x18,
                                island := 22, sub := l, addr := gaddr (.ctx d) (ledOff l) }])

/-- 13 R555, R556, R548, 10 R429: what a port in service puts on the line, in this order: a control flit that waits, the next flit of a
replay, a new flit of the channel whose turn it is, an IDLE. In TRAIN it sends IDENTs once its lanes are aligned (13 R550); in DOWN and
RETRAIN nothing. 13 R553: with DUPID set only channel 0 sends, and no message for the duplicated number.

13 R546, R555, R565: a new flit takes the next SEQ, is held until it is acknowledged, carries up to 248 bytes of its channel, and
takes one credit: a dedicated one while the channel has any, else a shared one.

13 R542, R544, R545: flit bytes gather into codewords of 544 symbols, 640 bytes to each, counted by CWI; symbol c of a codeword goes to
lane c mod n of the n active lanes, which are the lowest aligned group of good lanes of the width. -/
def Obligations.FlitsLeaveInOrderWithSeqAndCredit : Prop :=
  (
  ∀ (s : State) (d i : Nat), s.hasPort d i = true →
    let x := s.port d i
    let st := s.txst d i
    (st = lACTIVE ∨ st = lRETRY →
      (∀ pl rest, x.ctl = pl :: rest →
        exec (.flitSend d i) s = .next ((s.putPort d i { x with ctl := rest }).putLine d i 15 0 0 pl)) ∧
      (∀ q k e, x.ctl = [] → x.resend = some q → x.replay.findIdx? (fun e => e.1 = q) = some k → x.replay[k]? = some e →
        exec (.flitSend d i) s = .next ((s.putPort d i { x with resend := (x.replay[k + 1]?).map (fun e => e.1) }).putLine d i
          (e.2.1 % 16) e.1 (e.2.1 / 16) e.2.2.2)) ∧
      (∀ ch, x.ctl = [] → x.resend = none → s.nextCh d i = some ch → exec (.flitSend d i) s = .next (s.newFlit d i ch)) ∧
      (x.ctl = [] → x.resend = none → s.nextCh d i = none → exec (.flitSend d i) s = .next (s.putLine d i 15 0 0 [0]))) ∧
    (st = lTRAIN → x.aligned = true → exec (.flitSend d i) s = .next (s.putLine d i 15 0 0 (s.identPl d i))) ∧
    (st = lTRAIN → x.aligned = false → exec (.flitSend d i) s = .next s) ∧
    (∀ ch, s.pst d i qlPstatDupid ≠ 0 → s.nextCh d i = some ch → ch = 0 ∧ s.headMod d i 0 ≠ some (s.pst d i qlPstatFarmod)) ∧
    (st = lDOWN ∨ st = lRETRAIN → exec (.flitSend d i) s = .next s)) ∧ (
  ∀ (s : State) (d i ch : Nat), s.canon = true → s.hasPort d i = true → ch < 15 → (s.inoc d).point ≠ 0x40 →
    let x := s.port d i
    let b := mget nilB x.tx ch
    let dc := s.rf d (oQlVcstat i ch) qlVcstatDcred
    let t := s.newFlit d i ch
    mrising x.tx = true →
    (t.port d i).seq = (x.seq + 1) % 2048 ∧ mget nilB (t.port d i).tx ch = b.drop 248 ∧
    (t.port d i).replay = x.replay ++ [(x.seq, ch + 16 * (if 0 < dc then 0 else 1), (b.take 248).length, b.take 248)] ∧
    (0 < dc → t.rf d (oQlVcstat i ch) qlVcstatDcred = dc - 1 ∧ t.pst d i qlPstatScred = s.pst d i qlPstatScred) ∧
    (dc = 0 → t.pst d i qlPstatScred = s.pst d i qlPstatScred - 1 ∧ t.rf d (oQlVcstat i ch) qlVcstatDcred = 0) ∧
    t = { s with ports := t.ports, regs := t.regs }) ∧ (
  ∀ (x : Port) (w : Nat) (bs : List Byte), w ≤ 2 →
    let b := x.cwBytes ++ bs
    let y := x.frame w bs
    (b.length < 640 → y = { x with cwBytes := b }) ∧
    (640 ≤ b.length → y = { x with cwBytes := b.drop 640, cwi := (x.cwi + 1) % 1024, laneOut := y.laneOut }) ∧
    (∀ ls, 640 ≤ b.length → lanesOf x.goodTx w = some ls → ls.length = laneCount w ∧
      y.laneOut = ls.zipIdx.map (fun t => (t.1, laneSyms (laneCount w) t.2 (codeword x.cwi w (b.take 640))))) ∧
    (codeword x.cwi w bs).length = 544 ∧
    (∀ k j, k < laneCount w → laneCount w * j + k < 544 → ∀ cw : List Nat, cw.length = 544 →
      (laneSyms (laneCount w) k cw)[j]? = cw[laneCount w * j + k]?))

/-- 13 R544, R547, R555, R556: more than 15 symbol errors in a codeword, or a wrong CRC, spoil a flit. A receiver accepts the flit it expects,
ignores one it has had, and enters its side of RETRY, sending one NAK with the expected SEQ, at a flit it cannot use or one that is ahead.

13 R548, R556, R550, R552: a control flit that holds acts through its piggyback and then by its kind: an IDLE and a LANESTAT do no
more; a NAK makes the sender resend from the SEQ it names; an IDENT gives the far end's identity, in TRAIN as well. A damaged one starts
a retry.

13 R556: in RETRY the receiver repeats its NAK after 1 µs, up to three for one SEQ; a retry that lasts 4 µs, or whose third NAK is out,
takes its direction into RETRAIN. -/
def Obligations.FlitsAreAcceptedOnceAndRetried : Prop :=
  (
  ∀ (s : State) (d i de pe : Nat) (fl : List Byte), s.canon = true → s.hasPort d i = true →
    (s.rxLive d i = true →
      let r := s.lineCheck d i fl (de + pe)
      let t := r.2
      let x := t.port d i
      let n := de + pe + (if (s.inoc d).point = 0x41 ∧ (s.inoc d).inst = i ∧ (s.port d i).startsCw = true then (s.inoc d).nsym else 0)
      r.1 = ((s.port d i).flitBad n || ! flOk fl) ∧
      ((s.port d i).rxPos = 0 → r.1 = (decide (15 < n) || ! flOk fl)) ∧
      (r.1 = false → flVc fl = 15 → exec (.flitReceive d i fl de pe) s = .next t) ∧
      (r.1 = false → flVc fl ≠ 15 → flSeq fl = x.rxSeq → exec (.flitReceive d i fl de pe) s = .next (t.acceptFlit d i fl)) ∧
      (r.1 = false → flVc fl ≠ 15 → flSeq fl ≠ x.rxSeq → (x.rxSeq + 2047 - flSeq fl) % 2048 < 1024 →
        exec (.flitReceive d i fl de pe) s = .next t) ∧
      (r.1 = false → flVc fl ≠ 15 → flSeq fl ≠ x.rxSeq → 1024 ≤ (x.rxSeq + 2047 - flSeq fl) % 2048 →
        exec (.flitReceive d i fl de pe) s = .next (t.rxRetry d i)) ∧
      (r.1 = true → exec (.flitReceive d i fl de pe) s = .next (t.rxRetry d i))) ∧
    (s.rxLive d i = false → exec (.flitReceive d i fl de pe) s = .next s) ∧
    (s.rxst d i = lACTIVE → (s.rxRetry d i).rxst d i = lRETRY ∧ ((s.rxRetry d i).port d i).naks = 1 ∧
      ((s.rxRetry d i).port d i).ctl = (s.port d i).ctl ++ [nakPl (s.port d i).rxSeq]) ∧
    (s.rxst d i = lRETRY → s.rxRetry d i = s)) ∧ (
  ∀ (s : State) (d i de pe : Nat) (fl : List Byte), s.hasPort d i = true →
    let kind := ((flPayload fl).headD 0).toNat
    let r := s.lineCheck d i fl (de + pe)
    let t := r.2
    (flOk fl = true → flVc fl = 15 → r.1 = false → s.rxLive d i = true →
      (kind = 0 → exec (.idle d i ⟨fl, de, pe⟩) s = .next (t.applyPiggy d i fl)) ∧
      (kind = 3 → exec (.lanestat d i ⟨fl, de, pe⟩) s = .next (t.applyPiggy d i fl)) ∧
      (kind = 1 → exec (.nak d i ⟨fl, de, pe⟩) s =
        .next ((t.applyPiggy d i fl).nakRx d i (bits (ofBytes ((flPayload fl).drop 1 |>.take 2)) 0 11))) ∧
      (kind = 2 → exec (.ident d i ⟨fl, de, pe⟩) s = .next ((t.applyPiggy d i fl).identRx d i (flPayload fl)))) ∧
    (flOk fl = true → flVc fl = 15 → r.1 = false → s.rxLive d i = false → s.rxst d i = lTRAIN → kind = 2 →
      exec (.ident d i ⟨fl, de, pe⟩) s = .next (t.identRx d i (flPayload fl))) ∧
    (flOk fl = false → s.rxLive d i = true →
      exec (.idle d i ⟨fl, de, pe⟩) s = .next (t.rxRetry d i) ∧ exec (.lanestat d i ⟨fl, de, pe⟩) s = .next (t.rxRetry d i) ∧
      exec (.nak d i ⟨fl, de, pe⟩) s = .next (t.rxRetry d i) ∧ exec (.ident d i ⟨fl, de, pe⟩) s = .next (t.rxRetry d i)) ∧
    (∀ q, s.canon = true → s.txst d i = lACTIVE ∨ s.txst d i = lRETRY → (∃ e, e ∈ (s.port d i).replay ∧ e.1 = q) →
      ((s.nakRx d i q).port d i).resend = some q ∧ ((s.nakRx d i q).port d i).retryAt = some q)) ∧ (
  ∀ (s : State) (d i us : Nat), s.canon = true → s.hasPort d i = true →
    let x := s.port d i
    (s.rxst d i = lRETRY → 1 ≤ us → x.naks < 3 →
      goesOn (exec (.nakResend d i us) s) (fun t =>
        (t.port d i).naks = x.naks + 1 ∧ (t.port d i).ctl = x.ctl ++ [nakPl x.rxSeq] ∧ t = { s with ports := t.ports })) ∧
    (s.rxst d i ≠ lRETRY ∨ us = 0 ∨ 3 ≤ x.naks → exec (.nakResend d i us) s = .next s) ∧
    (s.rxst d i = lRETRY → s.txst d i ≠ lRETRY → 4 ≤ us ∨ 3 ≤ x.naks →
      goesOn (exec (.retryLimit d i us) s) (fun t =>
        t.rxst d i = lRETRAIN ∧ t.txst d i = s.txst d i ∧ (t.port d i).naks = 0 ∧ t = { s with ports := t.ports, regs := t.regs })) ∧
    (s.txst d i = lRETRY → s.rxst d i ≠ lRETRY → 4 ≤ us ∨ 3 ≤ x.naksTx →
      exec (.retryLimit d i us) s = .next ((s.putPort d i { x with naksTx := 0 }).toRetrain d i true)) ∧
    (s.txst d i = lRETRY → s.rxst d i = lRETRY → 4 ≤ us →
      let u := (s.putPort d i { x with naks := 0 }).toRetrain d i false
      exec (.retryLimit d i us) s = .next ((u.putPort d i { u.port d i with naksTx := 0 }).toRetrain d i true)))

/-- 13 R542, R551, R578: a direction enters RETRAIN when a lane it uses loses lock or has more than 800 corrected symbols in 1 ms, or when
firmware sets RETRAIN; it returns to ACTIVE at the widest width of good lanes, no wider than before, or goes to TRAIN when that is below
MINW or no width is left, or when the second retrain fails.

13 R549, R550, 18 R752: a port trains when firmware sets TRAIN, its cable is mated, or it has been DOWN for 100 ms; its lanes are
aligned at the widest good widths, if MINW allows them, with fresh books and every credit, and it is ACTIVE once the far identity has come; it is DOWN when it trains for 100 ms, TRAIN is cleared or the cable is
unmated.

13 R554, 15 R671, R672: a port that leaves service drops what it holds, its remote requests end, every job with an axis on it ends with
class 0x17, and its C14 messages go out on another port. A port whose heartbeats went unanswered ends those jobs with class 0x0F. -/
def Obligations.PortsTrainRetrainAndLeaveService : Prop :=
  (
  ∀ (s : State) (d i l g us : Nat) (tx : Bool) (c : LaneFault), s.canon = true → s.hasPort d i = true →
    let st (t : State) := if tx then t.txst d i else t.rxst d i
    let fst := if tx then qlPstatTxst else qlPstatRxst
    let fw := if tx then qlPstatTxw else qlPstatRxw
    let x := s.port d i
    let good := (if tx then x.goodTx else x.goodRx) &&& g
    let fails := if tx then x.failsTx else x.failsRx
    let low (w : Nat) := laneCount w < minLanes (s.rf d (oQlPctl i) qlPctlMinw)
    (l < 8 → st s = lACTIVE → l ∈ s.activeLanes d i tx → (c = .lostLock ∨ ∃ n, c = .corrected n ∧ 800 < n) →
      exec (.laneErrorRetrain d i tx l c) s = .next (s.toRetrain d i tx)) ∧
    (l < 8 → st s = lACTIVE → l ∈ s.activeLanes d i tx → (c = .lostLock ∨ ∃ n, c = .corrected n ∧ 800 < n) → tx = false →
      goesOn (exec (.laneErrorRetrain d i tx l c) s) (fun t =>
        t.rxst d i = lRETRAIN ∧ t.txst d i = s.txst d i ∧ t = { s with regs := t.regs })) ∧
    (inService (s.txst d i) = true → inService (s.rxst d i) = true → s.txst d i ≠ lRETRAIN → s.rxst d i ≠ lRETRAIN →
      exec (.qlRetrainWrite d i) s = .next (((s.wf d (oQlPctl i) qlPctlRetrain 1).toRetrain d i true).toRetrain d i false)) ∧
    (s.rxst d i = lACTIVE → s.txst d i = lACTIVE → x.c14 = [] →
      goesOn (exec (.qlRetrainWrite d i) s) (fun t =>
        t.rxst d i = lRETRAIN ∧ t.txst d i = lRETRAIN ∧ t.rf d (oQlPctl i) qlPctlRetrain = 1 ∧ t = { s with regs := t.regs })) ∧
    (∀ w, st s = lRETRAIN → us ≤ 500 → widthFrom good (s.pst d i fw) = some w → ¬ low w →
      let y := (if tx then { x with failsTx := 0, goodTx := good } else { x with failsRx := 0, goodRx := good }).relock tx
      let u := ((s.putPort d i y).setPst d i [(fst, lACTIVE), (fw, w)]).retrainDone d i
      exec (.retrainResult d i tx true g us) s = .next (if w = s.pst d i fw then u else u.linkWidth d i (! tx))) ∧
    (st s = lRETRAIN → us ≤ 500 → (∀ w, widthFrom good (s.pst d i fw) = some w → low w) →
      goesOn (exec (.retrainResult d i tx true g us) s) (fun t => st t = lTRAIN)) ∧
    (∀ ok, ok = false ∨ 500 < us → st s = lRETRAIN → fails = 0 →
      goesOn (exec (.retrainResult d i tx ok g us) s) (fun t => st t = lRETRAIN ∧
        (if tx then (t.port d i).failsTx else (t.port d i).failsRx) = 1 ∧ t = { s with ports := t.ports })) ∧
    (∀ ok, ok = false ∨ 500 < us → st s = lRETRAIN → 1 ≤ fails →
      goesOn (exec (.retrainResult d i tx ok g us) s) (fun t => st t = lTRAIN ∧
        (if tx then (t.port d i).failsTx else (t.port d i).failsRx) = 0))) ∧ (
  ∀ (s : State) (d i us : Nat), s.canon = true → s.hasPort d i = true →
    let both (t : State) (st : Nat) : Prop := t.txst d i = st ∧ t.rxst d i = st
    (s.txst d i = lDOWN → s.rf d (oQlPctl i) qlPctlTrain = 1 →
      (100000 ≤ us → goesOn (exec (.downRetrainTimer d i us) s) (fun t => both t lTRAIN ∧ t = { s with ports := t.ports, regs := t.regs })) ∧
      ((s.port d i).cable = false → goesOn (exec (.qlinkCableMate d i) s) (fun t =>
        both t lTRAIN ∧ (t.port d i).cable = true ∧ t = { s with ports := t.ports, regs := t.regs }))) ∧
    (s.txst d i = lDOWN → goesOn (exec (.qlTrainWrite d i true) s) (fun t =>
      both t lTRAIN ∧ t.rf d (oQlPctl i) qlPctlTrain = 1 ∧ t = { s with ports := t.ports, regs := t.regs })) ∧
    goesOn (exec (.qlTrainWrite d i false) s) (fun t =>
      both t lDOWN ∧ t.rf d (oQlPctl i) qlPctlTrain = 0 ∧ t = { s with ports := t.ports, regs := t.regs }) ∧
    goesOn (exec (.qlinkCableUnmate d i) s) (fun t =>
      both t lDOWN ∧ (t.port d i).cable = false ∧ t = { s with ports := t.ports, regs := t.regs }) ∧
    (s.txst d i = lTRAIN → 100000 ≤ us → goesOn (exec (.trainTimeout d i us) s) (fun t =>
      both t lDOWN ∧ t = { s with ports := t.ports, regs := t.regs })) ∧
    (∀ gt gr wt wr, widthFrom gt 0 = some wt → widthFrom gr 0 = some wr →
      let x := s.port d i
      let m := minLanes (s.rf d (oQlPctl i) qlPctlMinw)
      x.aligned = false → m ≤ laneCount wt → m ≤ laneCount wr → s.align d i gt gr = (
        let t := (fullCredits d i 15 (s.putPort d i { x.books with aligned := true, goodTx := gt % 256, goodRx := gr % 256 })).setPst d i
          [(qlPstatTxw, wt), (qlPstatRxw, wr), (qlPstatScred, 672)]
        let t := if wt = s.pst d i qlPstatTxw then t else t.linkWidth d i false
        if wr = s.pst d i qlPstatRxw then t else t.linkWidth d i true)) ∧
    (∀ gt gr, (s.port d i).aligned = true ∨ widthFrom gt 0 = none ∨ widthFrom gr 0 = none ∨
        (∃ w, (widthFrom gt 0 = some w ∨ widthFrom gr 0 = some w) ∧ laneCount w < minLanes (s.rf d (oQlPctl i) qlPctlMinw)) →
      s.align d i gt gr = s) ∧
    (∀ gt gr, s.txst d i = lTRAIN → s.rxst d i = lTRAIN → (s.port d i).svc = false →
      let u := s.align d i gt gr
      let x := u.port d i
      (x.ident = true → x.aligned = true → exec (.trainComplete d i gt gr) s = .next (
        let t := (u.putPort d i { x with svc := true }).setPst d i [(qlPstatTxst, lACTIVE), (qlPstatRxst, lACTIVE)]
        dupids t t.allPorts)) ∧
      (x.ident = false ∨ x.aligned = false → exec (.trainComplete d i gt gr) s = .next u)) ∧
    (∀ gt gr, s.txst d i ≠ lTRAIN ∨ s.rxst d i ≠ lTRAIN ∨ (s.port d i).svc = true → exec (.trainComplete d i gt gr) s = .next s)) ∧ (
  ∀ (s : State) (d i us : Nat), s.hasPort d i = true →
    let far := s.pst d i qlPstatFarmod
    let js := s.jobsOnPort d i
    let j := js.headD (0, 0)
    ((s.port d i).svc = true → inService (s.txst d i) = false →
      let u := (s.bothTo d i (s.txst d i)).resend14 d i
      let v := u.putPort d i { (u.port d i).books with
        tx := [], txTags := [], stopped := [], svc := false, c14 := [], put14 := 0, ack14 := 0, hbWait := [], hbMiss := 0 }
      let w := loseAcks (3 * d + i) (loseQueues (3 * d + i) v v.rackqs)
      let e := w.logErr { cls := 0x17, die := d, island := 23 + i, sub := i, named := far, tagv := ! js.isEmpty, tag := j.2,
                          part := w.jobPart j.1 j.2 }
      exec (.portDown d i) s = .next (e.endJobs js 0x17 7 far (23 + i) i (e.recIdx 0x17 0))) ∧
    ((s.port d i).svc = false ∨ (inService (s.txst d i) = true ∧ inService (s.rxst d i) = true) → exec (.portDown d i) s = .next s) ∧
    (s.rf d oHbCtl hbCtlHbmiss ≠ 0 → s.rf d oHbCtl hbCtlHbper ≠ 0 → s.rf d oHbCtl hbCtlHbmiss ≤ (s.port d i).hbWait.length →
      1500 ≤ us →
      let v := s.putPort d i { s.port d i with hbWait := [], hbMiss := 0 }
      let e := v.logErr { cls := 0x0F, die := d, island := 23 + i, sub := i, named := far, tagv := ! js.isEmpty, tag := j.2,
                          part := s.jobPart j.1 j.2 }
      exec (.hbLoss d i us) s = .next (e.endJobs js 0x0F 7 far (23 + i) i (e.recIdx 0x0F 0))))

/-- 13 R558, R563: a whole message at the front of a channel that holds no delivered one leaves the byte stream, and without encryption on
its group is routed: refused or discarded by the first test of R563 it fails, else delivered. An encrypted message on a group without a
key, a clear one on a group with one, and one that does not open under the group's key and counter fail authentication (R571).

13 R563, R560, R577: the tests of routing in their order: a wrong type, channel or length is discarded and counted in PROTO, another
module's message in MISRT; a die that is not there refuses with RANGE, a tag that is not active, or not of the partition that holds the channel (16 R685), with PROT;
what is left is delivered, and wakes the racking complex or the tun it is for (17 R708).
MESSAGE_RECEIVE completes: it answers the next state written here. That a message shorter than its body is a PROTO discard is the reading of log entry 19. -/
def Obligations.MessagesAreRoutedByTheFirstTestTheyFail : Prop :=
  (
  ∀ (s : State) (d i ch : Nat), s.hasPort d i = true → ch < 15 →
    let r := s.rxch d i ch
    let h := ofBytes (r.bytes.take 16)
    let len := bits h 64 17
    let enc := bit h 55
    let raw := 16 + len + (if enc then 16 else 0)
    let n := raw + (8 - raw % 8) % 8
    let t := s.putRxch d i ch { r with bytes := r.bytes.drop n }
    r.msg = none → (r.bytes.headD 0) ≠ 0 → 16 ≤ r.bytes.length → n ≤ r.bytes.length →
    (enc = false → s.groupKey d i (groupOf ch) = none →
      let bl := (bodyLen (bits h 0 8)).getD 0
      let dl := dataLen (bit h 54) (len - bl)
      exec (.messageReceive d i ch) s = .next (t.route d i ch n len (parseMsg h bl (((r.bytes.take raw).drop 16).take (bl + dl))
        (((r.bytes.take raw).drop (16 + bl + dl)).take (len - bl - dl))))) ∧
    (enc = true → s.groupKey d i (groupOf ch) = none → exec (.messageReceive d i ch) s = .next (t.authFail d i ch n)) ∧
    (∀ k, enc = false → s.groupKey d i (groupOf ch) = some k → exec (.messageReceive d i ch) s = .next (t.authFail d i ch n)) ∧
    (∀ k, enc = true → t.groupKey d i (groupOf ch) = some k →
      let bl := (bodyLen (bits h 0 8)).getD 0
      let dl := dataLen (bit h 54) (len - bl)
      let mp := ((r.bytes.take raw).drop (16 + bl + dl)).take (len - bl - dl)
      let c := ((mget (fun _ => none) (t.port d i).gcmRx ch).map (· + 1)).getD 0
      let o := Config.gcmOpen k (gcmIv (bits h 24 16) (t.pst d i qlPstatFarport) ch c) ((r.bytes.take raw).take 16 ++ mp)
        (((r.bytes.take raw).drop 16).take (bl + dl) ++ (r.bytes.take raw).drop (16 + len))
      (o = none → exec (.messageReceive d i ch) s = .next (t.authFail d i ch n)) ∧
      (∀ pt, o = some pt → exec (.messageReceive d i ch) s = .next
        ((t.putPort d i { t.port d i with gcmRx := mset (fun _ => none) (t.port d i).gcmRx ch (some c) }).route d i ch n len
          (parseMsg h bl pt mp))))) ∧ (
  ∀ (s : State) (d i ch n len : Nat) (m : Msg), s.canon = true → mrising (s.port d i).rx = true →
    let wrong := typeOnCh m.typ ch = false ∨ (s.modNum = 0xFFFF ∧ ch ≠ 0) ∨ bodyLen m.typ = none ∨
      (∃ b, bodyLen m.typ = some b ∧ len < b) ∨ (len = 0 ∧ m.typ ≠ mWACK ∧ ¬ (m.typ = mRDATA ∧ m.stat ≠ 0))
    (wrong → s.route d i ch n len m = s.discard d i ch n qlEcntProto) ∧
    (¬ wrong → m.dmod ≠ s.modNum → s.route d i ch n len m = s.discard d i ch n qlEcntMisrt) ∧
    (¬ wrong → m.dmod = s.modNum → s.nDies ≤ m.ddie → s.route d i ch n len m = (s.freeBytes d i ch n).refuse d i ch m 6) ∧
    (¬ wrong → m.dmod = s.modNum → m.ddie < s.nDies → m.typ ≤ 0xA →
        s.jobEn m.ddie m.tag = false ∨ s.chanHeld d (3 * d + i) ch (s.jobPart m.ddie m.tag) = true →
      s.route d i ch n len m = (s.freeBytes d i ch n).refuse d i ch m 9) ∧
    (¬ wrong → m.dmod = s.modNum → m.ddie < s.nDies → (m.typ ≤ 0xA → s.jobEn m.ddie m.tag = true ∧
        s.chanHeld d (3 * d + i) ch (s.jobPart m.ddie m.tag) = false) →
      let u := if m.typ ≤ 0xA then s.unrest m.ddie (if m.typ = mCHUNK then 26 else 22) else s
      s.route d i ch n len m = u.putRxch d i ch { u.rxch d i ch with held := n, msg := some m }))

/-- 09 R388, R389, R390, 08 R305, 13 R560: a delivered write stores its data in the partition's window and is acknowledged; a read is
answered with the bytes; a request of a tag in abort, or outside the window, is refused; a reply fills the request that waits for it; a
status other than 0 stops the transfer. Every one leaves the receive buffer. 01 R24: a message waits while the bridges to its die do not
take it.

10 R418, 07 R284, R286, 11 R475: a delivered POST adds to its counter; a dispatched row, a count notice and a chunk land at their ledger
or slot: they are acknowledged when landed, refused with a status, discarded, or stay in the buffer until they can land. A tag in abort
refuses them (09 R390). 01 R24: any message of these types waits while the bridges to its die do not take it.

15 R665, R671, R672, R642, 14 R628: a heartbeat is answered and a reply clears the misses; a poison notice makes a record; an identity
report is kept, and an echo request is answered through the port 13 R573 gives. A numbered module's die sends heartbeats on its ACTIVE ports; a die that does not answer firmware's exchange ages by
one. -/
def Obligations.DeliveredMessagesAct : Prop :=
  (
  ∀ (s : State) (d i ch : Nat) (m : Msg), s.hasPort d i = true → ch < 15 → (s.rxch d i ch).msg = some m → s.crosses d ch m = true →
    let t := s.consume d i ch
    (m.typ = mWREQ →
      (t.rkAborting m.ddie m.tag = true → exec (.wreq d i ch) s = .next (t.refuse d i ch m 9)) ∧
      (∀ runs, t.rkAborting m.ddie m.tag = false → t.remoteReach m m.data.length = .ok runs →
        exec (.wreq d i ch) s = .next (((t.writeZ runs m.data m.zs).ledTouched runs).answer d i ch m mWACK 0 [] [])) ∧
      (∀ k, t.rkAborting m.ddie m.tag = false → t.remoteReach m m.data.length = .err k →
        exec (.wreq d i ch) s = .next (t.refuseReach d i ch m k))) ∧
    (m.typ = mRREQ →
      let n := ofBytes ((m.body.drop 8).take 4)
      (t.rkAborting m.ddie m.tag = true → exec (.rreq d i ch) s = .next (t.refuse d i ch m 9)) ∧
      (∀ runs, t.rkAborting m.ddie m.tag = false → 0 < n → n ≤ 512 → t.remoteReach m n = .ok runs →
        exec (.rreq d i ch) s = .next ((t.readZ runs).2.2.answer d i ch m mRDATA 0 (t.readZ runs).1 (pmapOf (t.readZ runs).2.1))) ∧
      (∀ k, t.rkAborting m.ddie m.tag = false → 0 < n → n ≤ 512 → t.remoteReach m n = .err k →
        exec (.rreq d i ch) s = .next (t.refuseReach d i ch m k)) ∧
      (t.rkAborting m.ddie m.tag = false → n = 0 ∨ 512 < n → exec (.rreq d i ch) s = .next (t.refuse d i ch m 7))) ∧
    (∀ k, k ≠ 9 → t.refuseReach d i ch m k = t.refuse d i ch m k) ∧
    (m.typ = mRDATA → t.reqOf m.ddie m.rid = none → exec (.rdata d i ch) s = .next t) ∧
    (m.typ = mRDATA → ∀ qu q, t.reqOf m.ddie m.rid = some (qu, q) →
      (m.stat ≠ 0 →
        exec (.rdata d i ch) s = .next ((t.rackStop m.ddie qu q.seq 0x19 m.stat).dropReq m.ddie qu q.id q.seq)) ∧
      (∀ a p b, m.stat = 0 → q.src = a ++ p :: b → (∀ y, y ∈ a → ¬ (y.wait = 2 ∧ y.rid = m.rid)) → p.wait = 2 → p.rid = m.rid →
        m.data.length = p.n →
        let q' := { q with src := a ++ { p with wait := 3, data := m.data, pz := m.zs } :: b }
        exec (.rdata d i ch) s = .next (((t.putRackq m.ddie qu ((t.rackq m.ddie qu).setOut q')).pushRemote m.ddie qu q').pushBody
          m.ddie qu q'))) ∧
    (m.typ = mWACK → ∀ qu q, t.reqOf m.ddie m.rid = some (qu, q) →
      let u := t.putRackq m.ddie qu ((t.rackq m.ddie qu).setOut { q with
        dst := q.dst.map (fun x => if x.kind = 2 ∧ x.sent = 1 ∧ x.rid = m.rid then { x with sent := 2 } else x) })
      (m.stat = 0 → exec (.wack d i ch) s = .next u) ∧
      (m.stat ≠ 0 → exec (.wack d i ch) s = .next (u.rackStop m.ddie qu q.seq 0x19 m.stat))) ∧
    (m.typ = mWACK → t.reqOf m.ddie m.rid = none → exec (.wack d i ch) s = .next (t.chunkAck m.rid m.stat))) ∧ (
  ∀ (s : State) (d i ch : Nat) (m : Msg), s.hasPort d i = true → ch < 15 → (s.rxch d i ch).msg = some m →
    let t := s.consume d i ch
    let lands (o : Host.Outcome State Fault Refusal) (l : Landed) : Prop :=
      (l = .hold → o = .next s) ∧ (∀ k, l = .refused k → o = .next (t.refuse d i ch m k)) ∧ (l = .dropped → o = .next t) ∧
      (∀ u, l = .done u → o = .next ((u.consume d i ch).answer d i ch m mWACK 0 [] []))
    (s.crosses d ch m = true →
      (m.typ = mPOST → t.rkAborting m.ddie m.tag = false →
        exec (.postMessage d i ch) s = .next ((t.postCtr m.ddie (t.jobPart m.ddie m.tag) (bits (ofBytes m.body) 0 12)
          (bits (ofBytes m.body) 13 16) (bit (ofBytes m.body) 12) m.tag).answer d i ch m mWACK 0 [] [])) ∧
      (m.typ = mPOST → t.rkAborting m.ddie m.tag = true → exec (.postMessage d i ch) s = .next (t.refuse d i ch m 9)) ∧
      (m.typ = mDISP → s.rkAborting m.ddie m.tag = false →
        lands (exec (.disp d i ch) s) (s.landDisp m.ddie m.tag (ofBytes m.body) m.data m.zs)) ∧
      (m.typ = mDISP → s.rkAborting m.ddie m.tag = true → exec (.disp d i ch) s = .next (t.refuse d i ch m 9)) ∧
      (m.typ = mNOTICE → s.rkAborting m.ddie m.tag = false →
        lands (exec (.notice d i ch) s) (.done (s.landNotice m.ddie m.tag (ofBytes m.body)))) ∧
      (m.typ = mNOTICE → s.rkAborting m.ddie m.tag = true → exec (.notice d i ch) s = .next (t.refuse d i ch m 9)) ∧
      (m.typ = mCHUNK → lands (exec (.chunk d i ch) s) (s.landChunk m.ddie m))) ∧
    (s.crosses d ch m = false → ∀ c, c ∈ [Instr.wreq d i ch, .rreq d i ch, .rdata d i ch, .wack d i ch, .postMessage d i ch, .disp d i ch,
      .notice d i ch, .chunk d i ch] → exec c s = .next s)) ∧ (
  ∀ (s : State) (d i ch silent : Nat) (m : Msg), s.hasPort d i = true → ch < 15 → (s.rxch d i ch).msg = some m →
    let t := s.consume d i ch
    let b := ofBytes m.body
    (m.typ = mHB → ¬ ((t.inoc d).point = 0x51 ∧ (t.inoc d).inst = i) → exec (.hb d i ch) s = .next (t.enqueueMsg d i 14
      { typ := mHBR, dmod := m.smod, smod := t.modNum, ddie := m.sdie, sdie := d, tag := m.tag, body := m.body })) ∧
    (m.typ = mHB → (t.inoc d).point = 0x51 → (t.inoc d).inst = i → exec (.hb d i ch) s = .next (t.inocClear d)) ∧
    (m.typ = mHBR → exec (.hbr d i ch) s = .next (t.putPort d i { t.port d i with
      hbWait := (t.port d i).hbWait.filter (fun n => decide (b < n)), hbMiss := 0 })) ∧
    (m.typ = mPNOT → exec (.pnot d i ch) s = .next (t.logErr
      { cls := 0x13, die := d, island := 23 + i, sub := ch,
        named := bits b 32 16, addr := bits b 64 64, detail := bits b 128 8 })) ∧
    (let k := bits b 0 16
     let bad := bits b 16 48 ≠ 0 ∨ k = 0 ∨ 3 < k ∨ 4096 < m.data.length ∨ (k = 1 ∧ m.data.length ≠ 10)
     let reply : Msg := { typ := mMGMT, dmod := m.smod, ddie := m.sdie, tag := m.tag, body := toBytes 8 3, data := m.data, pmap := m.pmap }
     let sent := t.sendMsg m.ddie 0 0 reply
     (m.typ = mMGMT → ¬ bad → k = 1 → exec (.mgmt d i ch) s = .next (t.putPort d i { t.port d i with
       farId := some (bits (ofBytes m.data) 0 16, bits (ofBytes m.data) 16 32, bits (ofBytes m.data) 48 32) })) ∧
     (m.typ = mMGMT → ¬ bad → k = 2 → ∀ u, sent = .ok u → exec (.mgmt d i ch) s = .next u.2) ∧
     (m.typ = mMGMT → ¬ bad → k = 2 → ∀ e, sent = .error e → exec (.mgmt d i ch) s = .next t) ∧
     (m.typ = mMGMT → ¬ bad → k = 3 → exec (.mgmt d i ch) s = .next t) ∧
     (m.typ = mMGMT → bad → exec (.mgmt d i ch) s = .next (t.logErr
       { cls := 0x14, die := d, island := 23 + i, sub := ch,
         named := m.smod, detail := k }))) ∧
    (s.rf d oHbCtl hbCtlHbper = 0 ∨ s.modNum = 0xFFFF → exec (.hbSend d) s = .next s) ∧
    (s.canon = true → s.rf d oHbCtl hbCtlHbper ≠ 0 → s.modNum ≠ 0xFFFF →
      goesOn (exec (.hbSend d) s) (fun t => ∀ j, j < 3 →
        if s.txst d j = lACTIVE then
          (t.port d j).hbSerial = ((s.port d j).hbSerial + 1) % 2 ^ 64 ∧
          (t.port d j).hbWait = (s.port d j).hbWait ++ [(s.port d j).hbSerial]
        else t.port d j = s.port d j)) ∧
    (s.canon = true → goesOn (exec (.dieHeartbeatExchange silent) s) (fun t =>
      (∀ e, e < s.nDies →
        let hit := (s.inoc e).point = 0x52
        mget n0 t.dieHbAge e = (if bit silent e = true ∨ hit then mget n0 s.dieHbAge e + 1 else 0) ∧
        (hit → s.rf e oInocStat inocStatFired < 65535 →
          t.rf e oInocStat inocStatFired = s.rf e oInocStat inocStatFired + 1 ∧
          mget n0 t.inocLeft e = mget n0 s.inocLeft e - 1 ∧
          (mget n0 s.inocLeft e = 1 → (t.inoc e).point = 0)) ∧
        (¬ hit → t.inoc e = s.inoc e ∧ mget n0 t.inocLeft e = mget n0 s.inocLeft e)) ∧
      (∀ e o f, o ≠ oInocCtl → o ≠ oInocStat → t.rf e o f = s.rf e o f) ∧
      t = { s with dieHbAge := t.dieHbAge, regs := t.regs, inocLeft := t.inocLeft })))

/-- 11 R450, R462, R463, R466, R468, 10 R778: a POUR or a COLLECT that no check rejects enters the tun: the POUR waits to be registered
with its home slot, and the COLLECT arms its slot and takes the slot's window; one that is not chained, and one that writes, also enters
its rack queue, which it wakes (17 R708); a COLLECT's overlap is recorded (08 R344). A check that fails rejects it with that check's code, poison in its descriptor stops it, and a full
instruction queue holds the context. -/
def Obligations.TunInstructionsEnterTheTun : Prop :=
  ∀ (s : State) (d c : Nat) (w : InstrWord), s.presents d c w → ctxEng c = 3 →
    let x := s.ctx d c
    let sl := coSLOT w
    let p : Pour := { id := s.rackSeq, d := d, c := c, tag := x.tag, part := x.part, word := w, desc := {} }
    let a : TSlot := { state := 1, rec_ := (s.reg d (oTunColl x.part sl)).toNat, word := w, tag := x.tag, part := x.part, c := c,
                       id := s.rackSeq, step := s.rf d (oBarmStep x.tag) barmStepStep }
    (wbits w 0 8 = 0x70 → s.tunqLen d < 16 → poCHAIN w = true →
      (firstFail (s.pourChecks d x.tag x.part w {} (0, false)) = none →
        exec (.pour d c) s = .next (({ s with tunq := enq s.tunq p, rackSeq := s.rackSeq + 1 } : State).accept d c 1 true)) ∧
      (∀ k, firstFail (s.pourChecks d x.tag x.part w {} (0, false)) = some k → exec (.pour d c) s = .next (s.reject d c k (poSLOT w)))) ∧
    (∀ y u, wbits w 0 8 = 0x70 → s.tunqLen d < 16 → poCHAIN w = false → s.loadDesc d x.part (poSDESC w) = (y, false, u) →
      let r := firstFail (u.pourChecks d x.tag x.part w y (u.descCheck d x.tag x.part (u.selHere d x.tag y) y))
      (∀ k, r = some k → exec (.pour d c) s = .next (u.reject d c k (poSLOT w))) ∧
      (r = none →
      let q := u.rackq d (poQUEUE w)
      let i : RInstr := { word := w, opc := 0x70, c := c, tag := x.tag, part := x.part, seq := u.rackSeq }
      let v := (u.unrest d 22).putRackq d (poQUEUE w) { q with tins := enq q.tins i }
      exec (.pour d c) s = .next
        (({ v with tunq := enq v.tunq { p with id := u.rackSeq, desc := y }, rackSeq := v.rackSeq + 1 } : State).accept d c 1 true))) ∧
    (∀ y u, s.tunqLen d < 16 →
      (wbits w 0 8 = 0x70 → poCHAIN w = false → s.loadDesc d x.part (poSDESC w) = (y, true, u) →
        exec (.pour d c) s = .next (u.tunDescPoison d c (poSDESC w))) ∧
      (wbits w 0 8 = 0x71 → a.fx = false → s.loadDesc d x.part (coDDESC w) = (y, true, u) →
        exec (.collect d c) s = .next (u.tunDescPoison d c (coDDESC w)))) ∧
    (∀ y u dc, wbits w 0 8 = 0x71 → s.tunqLen d < 16 →
      (a.fx = true → y = {} ∧ u = s ∧ dc = (0, false)) →
      (a.fx = false → s.loadDesc d x.part (coDDESC w) = (y, false, u) ∧ dc = u.descCheck d x.tag x.part (u.collectSel d a y) y) →
      (firstFail (u.collectChecks d x.tag x.part w a y dc) = none →
        let b := TSlot.join 1024 { a with desc := y, waiting := (u.tslot d x.part sl).waiting }
        let own := (List.range b.nbuf).foldl (fun m n => mset n0 m (d * 1024 + b.f tunCollCbuf + n) (1 + 64 * (x.part % 8) + sl)) u.tunOwn
        let ov := if b.fx then [] else u.overlaps d x.tag [{ desc := y, idx := u.collectWrites d b y }]
        let v := u.overlapMark d c x.part x.tag ov
        let q := u.rackq d (poQUEUE w)
        let i : RInstr := { word := w, opc := 0x71, c := c, tag := x.tag, part := x.part, seq := v.rackSeq, ov := decide (ov ≠ []) }
        let z := if b.fx then v else (v.unrest d 22).putRackq d (poQUEUE w) { q with tins := enq q.tins i }
        exec (.collect d c) s = .next (((({ z with tunOwn := own, rackSeq := z.rackSeq + 1 } : State).putTslot d x.part sl b).pump
          d x.part sl).accept d c 1 true)) ∧
      (∀ k, firstFail (u.collectChecks d x.tag x.part w a y dc) = some k → exec (.collect d c) s = .next (u.reject d c k sl))) ∧
    (16 ≤ s.tunqLen d → (wbits w 0 8 = 0x70 → exec (.pour d c) s = .next (s.hold d c)) ∧
      (wbits w 0 8 = 0x71 → exec (.collect d c) s = .next (s.hold d c)))

/-- 11 R463, R465, R470, R469, R495: the oldest registration of a die for a home die reaches its slot; a POUR read whole completes, and
when chained returns its source slot to IDLE; a COLLECT whose events have all happened posts its DONE, and its slot becomes IDLE, or
RETAINED with a retained output. After an abort notice no POUR of the tag waits, its slots are IDLE, its transfers have left the rack
queues and its chunk messages the receive buffers, a later registration or DONE of it is dropped, and every other slot, queue and message
stays; a die drained of the tag is reported.
POUR_REGISTER, POUR_COMPLETE, COLLECT_COMPLETE, TUN_ABORT_NOTICE and TUN_DRAIN_REPORT complete: each answers the next state written here. That registration is an event of its own is the reading of log entry 27. -/
def Obligations.TunInstructionsComplete : Prop :=
  ∀ (s : State) (d p sl n src tag : Nat), s.hasDie d = true → s.hasDie src = true → p < 8 → sl < 64 → tag < 256 →
    let x := s.tslot d p sl
    (∀ r, s.tunq.find? (fun q => decide (q.d = src) && poHDIE q.word = d) = some r →
      let u : State := { s with tunq := s.tunq.filter (fun q => q.id ≠ r.id) }
      let z := u.tslot d r.part (poSLOT r.word)
      let ab := s.tunAborting d r.tag = true ∨ s.tunAborting src r.tag = true
      (ab → exec (.pourRegister d src) s = .next u) ∧
      (¬ ab → exec (.pourRegister d src) s = .next (((u.unrest d 26).putTslot d r.part (poSLOT r.word)
        (TSlot.join 1024 { z with waiting := z.waiting ++ [r] })).pump d r.part (poSLOT r.word))) ∧
      (¬ ab → r.part = p → poSLOT r.word = sl → x.waiting = [] → x.state = 1 → x.pours.length < x.f tunCollNloc →
        exec (.pourRegister d src) s =
          .next (((u.unrest d 26).putTslot d p sl { x with pours := x.pours ++ [r], nreg := x.nreg + 1 }).pump d p sl)) ∧
      (¬ ab → r.part = p → poSLOT r.word = sl → s.canon = true → x.state ≠ 1 →
        exec (.pourRegister d src) s = .next ((u.unrest d 26).putTslot d p sl { x with waiting := x.waiting ++ [r] }))) ∧
    (s.tunq.find? (fun q => decide (q.d = src) && poHDIE q.word = d) = none → exec (.pourRegister d src) s = .next s) ∧
    (∀ q, x.pours[n]? = some q →
      let v := (s.onPour q.id (fun r => { r with fin := true })).dropTin q.d (poQUEUE q.word) q.id
      let u := (if s.tunAborting q.d q.tag then v else v.done q.d q.part (wbits q.word 8 12) q.tag).ctxRetire q.d q.c
      let may := x.state = 1 ∧ q.fin = false ∧ s.pourAll d x q = true
      (may → exec (.pourComplete d p sl n) s = .next (if poCHAIN q.word then u.slotIdle q.d q.part (poSSLOT q.word) else u)) ∧
      (¬ may → exec (.pourComplete d p sl n) s = .next s)) ∧
    (s.collectReady d x = true →
      let u := ((s.dropTin d (poQUEUE x.word) x.id).done d p (wbits x.word 8 12) x.tag).ctxRetire d x.c
      exec (.collectComplete d p sl) s =
        .next (if x.fx then u.putTslot d p sl { x with state := 2, pours := [], chunks := [] } else u.slotIdle d p sl)) ∧
    (s.canon = true → goesOn (exec (.tunAbortNotice d tag) s) (fun t =>
      t.tunAborting d tag = true ∧ t.tunq = s.tunq.filter (fun q => decide (q.tag ≠ tag) || decide (q.d ≠ d)) ∧
      (∀ e a b, a < 8 → b < 64 →
        let y := s.tslot e a b
        let w := y.waiting.filter (fun q => q.tag ≠ tag)
        t.tslot e a b = if e ≠ d then y else if y.state ≠ 0 ∧ y.tag = tag then { waiting := w, nreg := y.nreg, step := y.step }
          else { y with waiting := w, pours := y.pours.filter (fun q => q.tag ≠ tag) }) ∧
      (∀ n, mget n0 t.tunOwn n = mget n0 s.tunOwn n ∨ mget n0 t.tunOwn n = 0 ∧
        ∃ a b, a < 8 ∧ b < 64 ∧ (s.tslot d a b).state ≠ 0 ∧ (s.tslot d a b).tag = tag ∧ mget n0 s.tunOwn n = 1 + 64 * a + b) ∧
      (∀ e qu, qu < 257 → t.rackq e qu = if e ≠ d then s.rackq e qu else
        { s.rackq e qu with tins := (s.rackq e qu).tins.filter (fun i => i.tag ≠ tag),
                            twr := (s.rackq e qu).twr.filter (fun q => q.tag ≠ tag) }) ∧
      (∀ e i ch, i < 3 → ch < 14 → (t.rxch e i ch).msg = (s.rxch e i ch).msg.filter (fun m =>
        decide (m.typ ≠ mCHUNK) || decide (m.tag ≠ tag) || decide (m.ddie ≠ d))) ∧
      t = { s with abortTun := t.abortTun, tunq := t.tunq, tslots := t.tslots, tunOwn := t.tunOwn, rackqs := t.rackqs,
                   ports := t.ports })) ∧
    (s.canon = true → s.tunAborting d tag = true → s.tagTracked d tag = false →
      goesOn (exec (.tunDrainReport d tag) s) (fun t =>
        mget (fun _ => false) t.drainTun (d * 256 + tag) = true ∧ t = { s with drainTun := t.drainTun })) ∧
    (s.collectReady d x = false → exec (.collectComplete d p sl) s = .next s) ∧
    (s.tunAborting d tag = false ∨ s.tagTracked d tag = true → exec (.tunDrainReport d tag) s = .next s)

/-- 11 R458, R472, R475, R476, R482: a tun sends a result-phase message that waits, or else the next complete partial sum of a segment it
does not own, read from its buffer (15 R634), packed with its gauge, and stores it; a sum that fails its gauge is recorded and goes poisoned. 01 R24: it waits while the
bridges to the port do not take the message.

11 R456, R469, R474, R480, R482: the owner releases its next complete final sum, read from its buffer: it checks the contributor count and the gauge, passes
the result on to the members that the topology gives, converts or retains it, and has it written; a check that fails is recorded in
TUN_MM, and the chunk goes on poisoned, as a poisoned one does.
The order of messages within a slot, and that the gauge a contribution carries is the one its arithmetic gives, are readings of log entries 28 and 29. -/
def Obligations.TunSendsAndReleasesChunks : Prop :=
  (
  ∀ (s : State) (d p sl : Nat), s.hasDie d = true → p < 8 → sl < 64 →
    let x := s.tslot d p sl
    let may := (s.chunkDest d x).all (fun m =>
      s.bridgesTake (s.rf d (oTunAxis x.tag (x.f tunCollAxis)) tunAxisVc) x.tag (s.chunkPath d x m)) = true
    (x.state ≠ 1 ∨ ¬ may → exec (.chunkSend d p sl) s = .next s) ∧
    (x.state = 1 → may →
      (∀ o os, x.outs = o :: os →
        exec (.chunkSend d p sl) s = .next ((s.putTslot d p sl { x with outs := os }).chunkMsg d p sl o).2) ∧
      (x.outs = [] → s.readyChunk d x false = none → exec (.chunkSend d p sl) s = .next s) ∧
      (∀ k, x.outs = [] → s.readyChunk d x false = some k →
        let r := s.readSum d p sl k
        let x := r.tslot d p sl
        let c := x.chunk k
        let e := r.partialOf d x k
        let t := r.inocPartial d e.1
        let ends (u : State) (vs : List (Int × Nat)) (psn : Bool) : Prop :=
          let pk := packed vs
          let o : TOut := { dest := u.partialTo d x k, data := if psn then [] else pk.2.2.2,
                            head := chunkHead x d k 0 (c.ncon + 1) (if psn then 0 else pk.1) (if psn then 0 else pk.2.1) (! psn && pk.2.2.1)
                              psn e.2 }
          let v := u.chunkMsg d p sl o
          let b := v.2.bufStore d x k vs psn
          (v.1 = true → exec (.chunkSend d p sl) s = .next ((b.putTslot d p sl ((b.tslot d p sl).leave k false)).pump d p sl)) ∧
          (v.1 = false → exec (.chunkSend d p sl) s = .next v.2)
        (c.psn = true → ends r e.1 true) ∧
        (c.psn = false → t.2.2.slotGauge d x k (fun _ => true) t.1 = e.2 → ends t.2.2 t.1 false) ∧
        (c.psn = false → t.2.2.slotGauge d x k (fun _ => true) t.1 ≠ e.2 →
          ends (t.2.2.mismatch d p sl x k 1 t.2.2.modNum false 0x0A t.2.1) t.1 true) ∧
        ((r.inoc d).point ≠ 0x30 → t = (e.1, false, r))))) ∧ (
  ∀ (s : State) (d p sl : Nat), s.hasDie d = true → p < 8 → sl < 64 →
    let x := s.tslot d p sl
    (x.state ≠ 1 ∨ s.readyChunk d x true = none → exec (.chunkRelease d p sl) s = .next s) ∧
    (∀ k, x.state = 1 → s.readyChunk d x true = some k →
      let r := s.readSum d p sl k
      let x := r.tslot d p sl
      let c := x.chunk k
      let e := r.partialOf d x k
      let np := r.slotP d x
      let out := e.1.map x.convert
      let cs := if x.native then out.map (fun o => o.1) else []
      let ok := r.slotGauge d x k (fun _ => true) e.1 = e.2 ∧ c.ncon + 1 = np
      let ends (u : State) (psn : Bool) (g : Nat) : Prop :=
        let tos := if x.kind = 0 ∨ np ≤ 1 then [] else if u.slotA2A d x then (List.range np).filter (· ≠ u.slotC d x)
          else [ringStep np (u.slotC d x) 1 (x.f tunCollDir = 1)]
        let y := u.tslot d p sl
        exec (.chunkRelease d p sl) s = .next (((u.putTslot d p sl { y with
          outs := y.outs ++ u.resultOuts d x k cs e.1 psn g tos }).deliver d p sl k cs e.1 psn).pump d p sl)
      (c.psn = true → ends r true 0) ∧
      (c.psn = false → ok → x.native = false → ends r false (r.slotGauge d x k (fun _ => true) e.1)) ∧
      (c.psn = false → ok → x.native = true → (r.inoc d).point ≠ 0x31 →
        let u := if x.f tunCollHen = 1 then (out.take (min 128 (x.nelem - 128 * k))).foldl (fun s o => s.count d p (x.f tunCollHset) o.2) r
          else r
        ends u false (u.slotGauge d x k (fun _ => true) (x.codeVals cs))) ∧
      (c.psn = false → ok → x.native = true → (r.inoc d).point = 0x31 →
        ends ((r.inocClear d).mismatch d p sl x k 2 r.modNum false 0x0C true) true 0) ∧
      (c.psn = false → ¬ ok →
        ends (r.mismatch d p sl x k 2 r.modNum (decide (c.ncon + 1 ≠ np)) 0x0A false) true 0)))

/-- 10 R427 to R431: a table's next slot belongs to the owner its active half gives it, when that owner's job is active and has traffic of its
channel and tag; a slot without such an owner goes to the ready traffic with the highest carry count, which falls by one, or to none. A
slot cut short, that carried less than half its capacity, raises the carry count of the owner who held it. 10 R449: with SWAP set, the last
slot runs until the epoch boundary, where the tables change halves together; words written
while SWAP read 1 are then in the half that is inactive (19 R769). Answers that wait for the bridges cross in the slot that lets them
(01 R24; log 96). -/
def Obligations.SlotTablesRunAndSwap : Prop :=
  ∀ (s : State) (d n sent : Nat), s.canon = true → s.hasDie d = true → n < 5 →
    let e := s.rf d (oSlotCtl n) slotCtlEpos
    let u := s.wf d (oSlotCtl n) slotCtlEpos ((e + 1) % 4096)
    let ent := u.slotEnt d n (u.slotAct d n) ((e + 1) % 4096)
    let w := u.slotTraffic d n
    let tag := bits ent 8 8
    let has := fun k => entOwner ent = some k ∧ u.jobEn d tag = true ∧ (k, tag) ∈ w
    let carried := (List.range 14).filter (fun v => w.any (fun x => carryOf x.1 = v && decide (x.1 ≠ 1)))
    let holder := fun (k : Nat) => mset n0 s.slotOwn (d * 5 + n) k
    let starts := fun (z : State) => exec (.slotStart d n ⟨sent, false⟩) s = .next (z.sendBacks [] z.backs)
    (e = 4095 → s.slotSwapping d n = true → ∀ cut, exec (.slotStart d n ⟨sent, cut⟩) s = .next (s.sendBacks [] s.backs)) ∧
    (e ≠ 4095 ∨ s.slotSwapping d n = false →
      (∀ k, has k → starts { u with slotOwn := holder (k + 32 * (tag + 1)) }) ∧
      ((∀ k, ¬ has k) → bestCarry (u.carry d n) carried = none → starts { u with slotOwn := holder 0 }) ∧
      (∀ v, (∀ k, ¬ has k) → bestCarry (u.carry d n) carried = some v →
        let z := u.setCarry d n v (u.carry d n v - 1)
        let k := z.rf d (oSlotStat n) slotStatCarried
        starts { z.wf d (oSlotStat n) slotStatCarried (if k < 2 ^ 32 - 1 then k + 1 else k) with
          slotOwn := holder (if v = 0 then 17 else v + 1) }) ∧
      (2 * sent < s.slotCap d n → exec (.slotStart d n ⟨sent, true⟩) s = exec (.slotStart d n ⟨sent, false⟩) (s.slotLess d n)) ∧
      (s.slotCap d n ≤ 2 * sent → exec (.slotStart d n ⟨sent, true⟩) s = exec (.slotStart d n ⟨sent, false⟩) s)) ∧
    (let h := s.slotHolder d n
     (h.2 = none → s.slotLess d n = s) ∧
     (∀ g, h.2 = some g → s.carry d n (carryOf h.1) < 15 →
       s.slotLess d n = s.setCarry d n (carryOf h.1) (s.carry d n (carryOf h.1) + 1))) ∧
    ((∀ k, k < 5 → s.rf d (oSlotCtl k) slotCtlEpos = 4095) → (∃ k, k < 5 ∧ s.slotSwapping d k = true) →
      goesOn (exec (.epochBoundary d) s) (fun t =>
        ((∀ w, w ∈ s.slotHeld → w.2.1 < 5 ∧ w.2.2.1 < 2048) →
          (∀ k, k < 5 → t.slotSwapping d k = false ∧
            t.slotAct d k = (if s.slotSwapping d k = true then 1 - s.slotAct d k else s.slotAct d k) ∧
            (∀ i, i < 2048 → t.reg d (oSlotEnt k (1 - t.slotAct d k) i) =
              (((s.heldWords d k).reverse.find? (fun w => w.1 = i)).map (fun w => w.2)).getD
                (s.reg d (oSlotEnt k (1 - t.slotAct d k) i)))) ∧
          t.slotHeld = s.slotHeld.filter (fun w => decide (w.1 ≠ d))) ∧
        t = { s with regs := t.regs, slotHeld := t.slotHeld })) ∧
    ((∃ k, k < 5 ∧ s.rf d (oSlotCtl k) slotCtlEpos ≠ 4095) ∨ (∀ k, k < 5 → s.slotSwapping d k = false) →
      exec (.epochBoundary d) s = .next s) ∧
    exec (.slotSwap d n) s = .next (s.wf d (oSlotCtl n) slotCtlSwap 1)

/-- 10 R436, 14 R612, 15 R640, R655, R665, 01 R47, 13 R575: firmware takes the oldest report of its kind, if there is one: a fault, a consumed poison or a peer's abort
ends its job; poison of no tag ends the jobs of its partition, or loses the die; a die that misses ten exchanges is lost. An abort
message is flooded once.

10 R436: the end of a running job keeps its first cause and stops every context of its tag at its head
instruction (R404), and nothing of a job that is not running
changes. 14 R612, 10 R436: a job whose contexts are all FREE ends, and so does an ending job once every unit has drained: its tag is
free. -/
def Obligations.JobsEndStopAndDrain : Prop :=
  (
  ∀ (s : State) (r : Report) (rs : List Report) (d i ch : Nat) (m : Msg),
    let u : State := { s with reports := rs }
    let t := u.reportRec r (r.tagv && decide ((s.job r.tag).phase = 2))
    let k := u.poisonCls r.addr
    (takeFirst (fun r => ! r.poison) s.reports = some (r, rs) →
      (r.cause = 2 → exec .jobFault s = .next (u.beginEnd r.die r.tag 2 0 0 none r.named 0 0)) ∧
      (r.cause ≠ 2 → r.tagv = false → exec .jobFault s = .next t.2) ∧
      (r.cause ≠ 2 → r.tagv = true → exec .jobFault s = .next (t.2.beginEnd r.die r.tag r.cause (if r.unit then 0 else 1)
        (if r.unit then r.detail else r.cls) (some t.1) s.modNum 0 0))) ∧
    (takeFirst (fun r => r.poison) s.reports = some (r, rs) →
      (r.tagv = true → exec .poisonConsumed s = .next (t.2.beginEnd r.die r.tag 4 1 4 (some t.1) s.modNum r.addr k)) ∧
      (r.tagv = false → r.part < 8 → exec .poisonConsumed s = .next (t.2.jobs.foldl (fun z e =>
        if e.2.part = r.part then z.beginEnd r.die e.1 4 1 4 (some t.1) s.modNum r.addr k else z) t.2)) ∧
      (r.tagv = false → 8 ≤ r.part → exec .poisonConsumed s = .next (t.2.dieLost r.die))) ∧
    (takeFirst (fun r => ! r.poison) s.reports = none → exec .jobFault s = .next s) ∧
    (takeFirst (fun r => r.poison) s.reports = none → exec .poisonConsumed s = .next s) ∧
    (s.hasDie d = true → (10 ≤ mget n0 s.dieHbAge d → exec (.dieHeartbeatTimeout d) s = .next (s.dieLost d)) ∧
      (mget n0 s.dieHbAge d < 10 → exec (.dieHeartbeatTimeout d) s = .next s)) ∧
    (s.hasPort d i = true → ch < 15 → (s.rxch d i ch).msg = some m → m.typ = mABORT →
      let c := s.consume d i ch
      let v : State := { c.tick with time := c.now }
      let b := ofBytes m.body
      let seen := (v.seenAt d).any (fun e => e.1 = bits b 32 16 && e.2.1 = bits b 48 16)
      let w := v.flood (bits b 32 16) (bits b 48 16) m.body m.tag (some (d, i))
      (seen = true → exec (.abort d i ch) s = .next v) ∧
      (seen = false → w.jobs.find? (fun e => e.2.phase = 1 && e.2.pjid = bits b 0 32) = none → exec (.abort d i ch) s = .next w) ∧
      (∀ e, seen = false → w.jobs.find? (fun e => e.2.phase = 1 && e.2.pjid = bits b 0 32) = some e →
        exec (.abort d i ch) s = .next (w.report { die := d, tag := e.1, part := e.2.part, cause := 2, cls := 0,
                                                    named := bits b 32 16, detail := bits b 64 8 })))) ∧ (
  ∀ (s : State) (tag d cause fbit fcode org addr pcls : Nat) (idx : Option Nat), s.canon = true →
    let j := s.job tag
    let t := s.beginEnd d tag cause fbit fcode idx org addr pcls
    (j.phase ≠ 1 → t = s) ∧
    (j.phase = 1 → t.job tag = { j with phase := 2, cause := cause, fdie := d, fbit := fbit, fcode := fcode, idx := idx, org := org } ∧
      (∀ g, g ≠ tag → t.job g = s.job g) ∧
      (∀ e c, c < 25600 → (s.ctx e c).tag = tag → (s.ctx e c).state ≠ cFREE →
        (t.ctx e c).state = cSTOPPED ∧ (t.ctx e c).pc = (s.ctx e c).pc ∧
        ((s.ctx e c).state ≠ cSTOPPED → (t.ctx e c).fopc = (s.ctx e c).headOp)) ∧
      (∀ e c, c < 25600 → (s.ctx e c).tag ≠ tag → t.ctx e c = s.ctx e c)) ∧
    (j.phase = 1 → s.tagCtxs tag = [] → goesOn (exec (.jobNormalEnd tag) s) (fun z => z = s.finishJob tag ∧ (z.job tag).phase = 0)) ∧
    (j.phase = 1 → s.tagCtxs tag ≠ [] → exec (.jobNormalEnd tag) s = .next s) ∧
    (j.phase = 2 → s.drainedAll tag = true →
      goesOn (exec (.jobDrainComplete tag) s) (fun z => z = s.finishJob tag ∧ (z.job tag).phase = 0)) ∧
    (j.phase ≠ 2 ∨ s.drainedAll tag = false → exec (.jobDrainComplete tag) s = .next s))

/-- 19 R757, R759, R760, R765, R768, R769, R773, 14 R586, 01 R46: a write that reaches no register in its form, that is outside the
requester's window, or that would change a field closed to a driver, changes nothing (and is logged when it came through BAR0). A write of
word j > 0 of a wide register is staged; a write of word 0 commits what is staged. A write gives every field open
to the requester what its access code says and leaves every other field and register as it was, but that a resting island, or a dormant
die whose powered-off island it reaches, wakes. A reserved bit or code is not stored (00 R9). The
registers whose write starts an action have statements of their own.

19 R757, R758, R765, R766: a read gives the word it names, of a wide register the captured one; a read of word 0 clears the read-to-clear
fields and no other (TUN_MM's only when a kettle core reads it; RK_TRK.PEAK goes on from what is in use, 09 R396), and captures a wide
register for the requester. A read in another form or outside the requester's window changes nothing (14 R586 logs one through BAR0); one of
an absent die is zero (14 R584). A resting island wakes, and of a powered-off one the reset value is read and nothing cleared. -/
def Obligations.RegisterAccessFollowsItsFields : Prop :=
  (
  ∀ (s : State) (q : Requester) (d o w v : Nat), s.canon = true → s.hasReq q = true →
    let refused : State := if isBar q then { s with aer := s.aer + 1 } else s
    (s.hasDie d = false → isBar q = true → d < 8 → exec (.registerWrite q d o w v) s = .next s) ∧
    (s.hasDie d = true → s.reachable q = false → exec (.registerWrite q d o w v) s = .next s) ∧
    (s.hasDie d = true → s.reachable q = true →
      (regAt d (barOff q d o) w = none → exec (.registerWrite q d o w v) s = .next refused) ∧
      (∀ r i j k, regAt d (barOff q d o) w = some (r, i, j, k) →
        (s.regWindow q (s.qPart q) d r i true = false → exec (.registerWrite q d o w v) s = .next refused) ∧
        (s.regWindow q (s.qPart q) d r i true = true →
          let c := s.commitWords q d r (r.at i j) v
          let old := s.rf d (r.at i j)
          let woke := s.unrest d (r.island i)
          let awake := s.dormant d = false ∨ r.isl.poweredOff = false
          let quiet := r.off ∉ [0x7F0000, 0x140000, 0x140200, 0x20000, 0x20100, 0x40300, 0x150020, 0x170000, 0x170100]
          (isBar q = true → s.regClosed q d r i j k v = true → exec (.registerWrite q d o w v) s = .next refused) ∧
          (32 < r.bytes → s.regClosed q d r i j k v = false →
            exec (.registerWrite q d o w v) s = .next (if isFw q then s.slotWord d r i k v else s)) ∧
          (awake → 0 < k → r.bytes ≤ 32 →
            goesOn (exec (.registerWrite q d o w v) s) (fun t =>
              (∃ h, h ∈ t.stages ∧ h.q = q ∧ h.d = d ∧ h.off = r.at i j ∧ bits h.v.toNat (64 * k) 64 = v % 2 ^ 64 ∧ bit h.mask k = true) ∧
              t = { woke with stages := t.stages })) ∧
          (¬ awake → quiet → r.bytes ≤ 32 → s.regClosed q d r i j k v = false →
            goesOn (exec (.registerWrite q d o w v) s) (fun t => t.dormant d = false)) ∧
          (awake → quiet → k = 0 → r.bytes ≤ 32 → s.regClosed q d r i j 0 v = false →
            goesOn (exec (.registerWrite q d o w v) s) (fun t =>
              (∀ f, f ∈ r.flds → t.rf d (r.at i j) f = if fieldOpen q r f = true then fieldWrite f (old f)
                (if f.acc = .rw then getF (mergeWords (s.reg d (r.at i j)) c.1 c.2) f else writtenF c.1 c.2 f) else old f) ∧
              (r.bytes ≤ 8 → ∀ f, f ∈ r.flds → t.rf d (r.at i j) f =
                if fieldOpen q r f = true then fieldWrite f (old f) (bits (v % 2 ^ 64) f.lo f.w) else old f) ∧
              (∀ e o', o' < 2 ^ 23 → (e, o') ≠ (d, r.at i j) → (e, o') ≠ (d, oIslRest) → t.reg e o' = s.reg e o') ∧
              bit (t.rf d oIslRest islRestRested) (r.island i) = false ∧
              t.stages = s.stages.filter (fun h => ! (sameHold q d h && decide (h.off = r.at i j))) ∧ t = { s with regs := t.regs, stages := t.stages })))))) ∧ (
  ∀ (s : State) (q : Requester) (d o w : Nat), s.canon = true → s.hasReq q = true → s.reachable q = true →
    let refused : State := if isBar q then { s with aer := s.aer + 1 } else s
    let c := Instr.registerClearingRead q d ⟨o, w⟩
    let ket := match q with
      | .kettle _ _ => true
      | _ => false
    (s.hasDie d = false → isBar q = true → d < 8 → exec c s = .next { s with rdata := 0 }) ∧
    (s.hasDie d = true → regAt d (barOff q d o) w = none → exec c s = .next refused) ∧
    (∀ r i j k, s.hasDie d = true → regAt d (barOff q d o) w = some (r, i, j, k) →
      (s.regWindow q (s.qPart q) d r i false = false → exec c s = .next refused) ∧
      (s.regWindow q (s.qPart q) d r i false = true →
        let off := s.dormant d && r.isl.poweredOff
        let woke := if off then s else s.unrest d (r.island i)
        let live := if off then resetWord r.flds else woke.regLive d r i j
        (32 < r.bytes → exec c s = .next { s with rdata := (s.reg d (r.at i j + 4 * k)).toNat }) ∧
        (0 < k → r.bytes ≤ 32 →
          let held := match s.caps.find? (sameHold q d) with
            | some h => if h.off = r.at i j then h.v else live
            | none => live
          exec c s = .next { woke with rdata := bits held.toNat (64 * k) 64 }) ∧
        (k = 0 → r.bytes ≤ 32 → goesOn (exec c s) (fun t =>
          t.rdata = bits live.toNat 0 64 ∧
          (∀ f, f ∈ r.flds → r.off ≠ 0x170000 → t.rf d (r.at i j) f =
            if f.acc = .rc ∧ (r.off ≠ 0x120000 ∨ ket = true) ∧ off = false then (if f = rkTrkPeak then s.trkInuse d % 2 ^ f.w else 0)
            else s.rf d (r.at i j) f) ∧
          (∀ e o', o' < 2 ^ 23 → (e, o') ≠ (d, r.at i j) → (e, o') ≠ (d, oIslRest) → t.reg e o' = s.reg e o') ∧
          (off = false → bit (t.rf d oIslRest islRestRested) (r.island i) = false) ∧
          t.caps = (if r.bytes ≤ 8 then s.caps
            else { q := q, d := d, off := r.at i j, v := live } :: s.caps.filter (fun h => ! sameHold q d h)) ∧
          t = { s with regs := t.regs, caps := t.caps, rdata := t.rdata })))))

/-- 04 R188, 05 R205, R228, R534: a write of HYD_SNAP copies the live set it names to the snapshot registers and clears it; APPLIED clears
SKIPCNT, and SKIPPED counts up to 255 and, when the count reaches a nonzero limit, reports the partition's job.
That the two commands write no other field of KSC_CTRL is the model's reading (log entry 40). -/
def Obligations.SnapshotAndScaleRegistersAct : Prop :=
  ∀ (s : State) (q : Requester) (d p n : Nat), s.canon = true → s.hasReq q = true → s.hasDie d = true → s.reachable q = true →
    p < 8 → n < 64 →
    (s.regWindow q (s.qPart q) d rgHydSnap p true = true → fieldOpen q rgHydSnap hydSnapSet = true →
      let h := s.hydSet d p n
      goesOn (exec (.hydSnap q d p n) s) (fun t =>
        t.hydSet d p n = {} ∧ t.rf d (oHydSzero p) hydSzeroCount = h.zero % 2 ^ 40 ∧ t.rf d (oHydSsat p) hydSsatCount = h.sat % 2 ^ 40 ∧
        t.rf d (oHydSnonf p) hydSnonfCount = h.nonf % 2 ^ 40 ∧ t.rf d (oHydSmax p) hydSmaxFrac = tc 32 h.max % 2 ^ 16 ∧
        t.rf d (oHydSmax p) hydSmaxExp = tc 32 h.max / 2 ^ 16 ∧
        t.rf d (oHydSinfo p) hydSinfoSet = n ∧ t.rf d (oHydSinfo p) hydSinfoValid = 1 ∧
        (∀ e u m, u < 8 → m < 64 → (e, u, m) ≠ (d, p, n) → t.hydSet e u m = s.hydSet e u m) ∧ t = { s with hyd := t.hyd, regs := t.regs })) ∧
    (s.regWindow q (s.qPart q) d rgKscCtrl p true = true → fieldOpen q rgKscCtrl kscCtrlApplied = true →
      s.rf d (oKscCtrl p) kscCtrlApplied = 0 → s.rf d (oKscCtrl p) kscCtrlSkipped = 0 →
      let c := s.rf d (oKscCtrl p) kscCtrlSkipcnt
      let c' := if c < 255 then c + 1 else c
      goesOn (exec (.kscApplied q d p) s) (fun t => t.rf d (oKscCtrl p) kscCtrlSkipcnt = 0 ∧
        t.rf d (oKscCtrl p) kscCtrlSkiplim = s.rf d (oKscCtrl p) kscCtrlSkiplim ∧
        t.rf d (oKscCtrl p) kscCtrlCal = s.rf d (oKscCtrl p) kscCtrlCal ∧ t = { s with regs := t.regs }) ∧
      goesOn (exec (.kscSkipped q d p) s) (fun t => t.rf d (oKscCtrl p) kscCtrlSkipcnt = c' ∧
        t.rf d (oKscCtrl p) kscCtrlSkiplim = s.rf d (oKscCtrl p) kscCtrlSkiplim ∧
        t.rf d (oKscCtrl p) kscCtrlCal = s.rf d (oKscCtrl p) kscCtrlCal ∧
        (c' ≠ s.rf d (oKscCtrl p) kscCtrlSkiplim ∨ s.rf d (oKscCtrl p) kscCtrlSkiplim = 0 → t = { s with regs := t.regs }) ∧
        (∀ g, c' = s.rf d (oKscCtrl p) kscCtrlSkiplim → s.rf d (oKscCtrl p) kscCtrlSkiplim ≠ 0 → s.partTag d p = some g →
          t.reports = s.reports ++ [{ die := d, tag := g, part := p, cls := 0x19, cause := 6, island := 30 }])))

/-- 15 R659, R660, R661, R669, R670: arming a point that may be armed makes it pend for COUNT injections; one that may not be armed is
refused, and one that is armed stays armed while it may be (log 103); a write of DISARM ends it. The armed point of a die is what its
INOC_CTL names while ARM reads 1. A point on a stored value injects while its target is there: the injection counts, and the last one
disarms; while there is no target it waits. -/
def Obligations.InoculationsArmFireAndDisarm : Prop :=
  ∀ (s : State) (q : Requester) (d : Nat), s.canon = true → s.hasReq q = true → s.hasDie d = true →
    let f := fun x => s.rf d oInocCtl x
    let may := s.inocMay d (f inocCtlPoint) (f inocCtlInst)
    (s.reachable q = true → s.regWindow q (s.qPart q) d rgInocCtl 0 true = true → fieldOpen q rgInocCtl inocCtlArm = true →
      f inocCtlPoint ≠ 0 →
      (f inocCtlArm = 0 → may = true → goesOn (exec (.inocArm q d) s) (fun t =>
        t.rf d oInocCtl inocCtlArm = 1 ∧ t.rf d oInocStat inocStatPend = 1 ∧ mget n0 t.inocLeft d = f inocCtlCount ∧
        t.rf d oInocCtl inocCtlPoint = f inocCtlPoint ∧ t = { s with regs := t.regs, inocLeft := t.inocLeft })) ∧
      (f inocCtlArm = 1 → may = true → goesOn (exec (.inocArm q d) s) (fun t => t.inoc d = s.inoc d ∧ t = { s with regs := t.regs })) ∧
      (may = false → goesOn (exec (.inocArm q d) s) (fun t =>
        t.rf d oInocCtl inocCtlArm = 0 ∧ t.rf d oInocStat inocStatRefused = 1 ∧
        t = { s with regs := t.regs, inocLeft := t.inocLeft }))) ∧
    (s.reachable q = true → s.regWindow q (s.qPart q) d rgInocCtl 0 true = true → fieldOpen q rgInocCtl inocCtlDisarm = true →
      goesOn (exec (.inocDisarm q d) s) (fun t =>
        t.rf d oInocCtl inocCtlArm = 0 ∧ t.rf d oInocStat inocStatPend = 0 ∧ mget n0 t.inocLeft d = 0 ∧
        t = { s with regs := t.regs, inocLeft := t.inocLeft })) ∧
    (f inocCtlArm = 0 → s.inoc d = {}) ∧
    (f inocCtlArm ≠ 0 → s.inoc d = { point := f inocCtlPoint, inst := f inocCtlInst, pos := f inocCtlPos, sub := f inocCtlSub,
                                      bit := f inocCtlBit, nsym := f inocCtlNsym }) ∧
    (let x := s.inoc d
     let n := s.rf d oInocStat inocStatFired
     let left := mget n0 s.inocLeft d
     (s.inocStrike d x = none → exec (.inocFire d) s = .next s) ∧
     (∀ u, s.inocStrike d x = some u → exec (.inocFire d) s = .next (u.inocClear d)) ∧
     (x.point ∉ [0x11, 0x12, 0x13] → exec (.inocFire d) s = .next s) ∧
     (x.point = 0x11 → (s.vat d x.inst).liveBank = none → exec (.inocFire d) s = .next s) ∧
     (∀ b, x.point = 0x11 → x.inst < 16 → (s.vat d x.inst).liveBank = some b →
      goesOn (exec (.inocFire d) s) (fun t =>
        t.rf d oInocStat inocStatFired = (if n < 65535 then n + 1 else n) ∧ mget n0 t.inocLeft d = left - 1 ∧
        t.rf d oInocStat inocStatPend = (if left = 1 then 0 else s.rf d oInocStat inocStatPend) ∧
        t.rf d oInocCtl inocCtlArm = (if left = 1 then 0 else f inocCtlArm) ∧
        (let o := (x.pos * 128 + x.sub) * 8 + 4 * b
         t.peek (.grist d x.inst) o = s.peek (.grist d x.inst) o ^^^ BitVec.ofNat 8 (2 ^ (x.bit % 8)) ∧
         ∀ r a, r.loc a ≠ (Region.grist d x.inst).loc o → t.peek r a = s.peek r a) ∧
        t.vat d x.inst = (s.vat d x.inst).setStruck b true ∧ (∀ e v, v < 16 → (e, v) ≠ (d, x.inst) → t.vat e v = s.vat e v) ∧
        t = { s with regs := t.regs, inocLeft := t.inocLeft, mem := t.mem, vats := t.vats })))

/-- 14 R588, R589, R592: the driver's EN puts a ring in service when its sizes and bases are legal, with its indices and its halt cleared;
taking it out discards the replies that wait, not the events; RESTART goes on from the tail. 15 R636: the patrol scrub reads one codeword:
a correctable one is corrected, an uncorrectable one is poisoned. -/
def Obligations.RingsStartStopAndScrubsDecode : Prop :=
  ∀ (s : State) (f d cw : Nat), s.canon = true → f < 9 →
    let old := s.reg 0 (oHiRingcfg f)
    let ok := fun n => 6 ≤ n ∧ n ≤ 16
    let good := ok (getF old hiRingcfgClog) ∧ ok (getF old hiRingcfgPlog) ∧ getF old hiRingcfgCbase % 4096 = 0 ∧
      getF old hiRingcfgPbase % 4096 = 0
    let off := fun g => setFs (setF old hiRingcfgEn 1) [(hiRingcfgRestart, 0), (hiRingcfgEn, g)]
    (s.fnOpen f = true → getF old hiRingcfgEn = 0 →
      (good → exec (.ringEnable f true) s = .next ((s.setReg 0 (oHiRingcfg f) (off 1)).ringOn f)) ∧
      (¬ good → exec (.ringEnable f true) s = .next (s.setReg 0 (oHiRingcfg f) (off 0)))) ∧
    (s.fnOpen f = true → getF old hiRingcfgEn = 1 → goesOn (exec (.ringEnable f false) s) (fun t =>
      t.rf 0 (oHiRingcfg f) hiRingcfgEn = 0 ∧ (t.fn f).outq = (s.fn f).outq.filter (fun o => o.event) ∧
      (∀ g, g ≠ f → t.fn g = s.fn g) ∧ t = { s with regs := t.regs, fns := t.fns })) ∧
    (s.fnOpen f = true → goesOn (exec (.ringRestart f) s) (fun t =>
      t.rf 0 (oHiRingst f) hiRingstCmdhead = (s.fn f).cmdtail % 2 ^ 32 ∧ t.rf 0 (oHiRingst f) hiRingstHalted = 0 ∧
      t.rf 0 (oHiRingst f) hiRingstHcause = 0 ∧ t.fn f = { s.fn f with expSeq := none } ∧ t = { s with regs := t.regs, fns := t.fns })) ∧
    (s.fnOpen f = false → exec (.ringRestart f) s = .next s ∧ ∀ b, exec (.ringEnable f b) s = .next s) ∧
    (∀ r o, s.hasDie d = true → scrubPlace d cw = some (r, o) → exec (.patrolScrub d cw) s = .next (s.decodeCw r o)) ∧
    (∀ r o, s.hasDie d = true → scrubPlace d cw = some (r, o) → s.inocReads r o = false →
      (s.mark r o = .clean ∨ s.mark r o = .poison → exec (.patrolScrub d cw) s = .next s) ∧
      (s.mark r o = .one → exec (.patrolScrub d cw) s = .next ((s.setMark r o .clean).corrected r o false)) ∧
      (s.mark r o = .bad → exec (.patrolScrub d cw) s = .next ((s.setMark r o .poison).logErr
        { cls := 0x02, die := r.die, island := islandOf r o, addr := gaddr r (o / 32 * 32), count := 1, synd := s.free 32 })))

/-- 14 R588 to R592, R595, R599, 19 R760: a write of CMDTAIL gives the ring its tail; a tail beyond the ring halts it. Firmware then takes
the next packet, moves CMDHEAD, halts the ring at a wrong SEQ, answers a packet that a check fails with that check's status, and keeps a
good one; a packet that must wait stays, and one that its state forbids is answered with that status. A ring out of service ignores both
of its doorbells.
That CMDHEAD moves at a wrong SEQ as well is log entry 53. -/
def Obligations.CommandPacketsAreTakenAndChecked : Prop :=
  ∀ (s : State) (f v opc : Nat) (body : Pkt → State → State), f < 9 →
    let n := v % 2 ^ 32
    let u := s.putFn f { s.fn f with cmdtail := n }
    let head := s.rf 0 (oHiRingst f) hiRingstCmdhead
    let pk := u.readPkt (u.pktAddr f head)
    let p := pk.2
    let r : Out := { seq := p.seq, opc := p.opc, part := p.part, irq := p.irq }
    let w := u.wf 0 (oHiRingst f) hiRingstCmdhead ((head + 1) % 2 ^ 32)
    let x := w.putFn f { w.fn f with expSeq := some ((p.seq + 1) % 2 ^ 32) }
    let inRing := (n + 2 ^ 32 - head) % 2 ^ 32 ≤ 2 ^ s.rf 0 (oHiRingcfg f) hiRingcfgClog
    (s.ringEn f = false ∨ s.fnOpen f = false → exec (.cmdtail f v 0) s = .next s ∧ exec (.cplhead f v) s = .next s) ∧
    (s.ringEn f = true → s.fnOpen f = true →
      (¬ inRing → exec (.cmdtail f v 0) s =
        .next ((u.haltRing f 2).reply f { seq := u.wantSeq f, opc := 0, status := 0x17, detail := n })) ∧
      (inRing → u.mayTake f = false → exec (.cmdtail f v 0) s = .next u) ∧
      (inRing → u.mayTake f = true → u.linkOk f = true → p.seq ≠ u.wantSeq f →
        exec (.cmdtail f v 0) s = .next ((w.haltRing f 1).reply f { r with status := 0x16, detail := u.wantSeq f })) ∧
      (∀ e, inRing → u.mayTake f = true → u.linkOk f = true → p.seq = u.wantSeq f → x.pktFail f pk.1 p false = some e →
        exec (.cmdtail f v 0) s = .next (x.reply f { r with status := e.1, detail := e.2 })) ∧
      (inRing → u.mayTake f = true → u.linkOk f = true → p.seq = u.wantSeq f → x.pktFail f pk.1 p false = none →
        exec (.cmdtail f v 0) s = .next (x.putFn f { x.fn f with cur := some p, stage := 0 })) ∧
      exec (.cplhead f v) s = .next ((s.putFn f { s.fn f with cplhead := n }).flush f)) ∧
    (∀ q, (s.fn f).cur = some q → q.opc = opc → (s.fn f).stage = 0 →
      (s.mustWait f q = true → hostRow opc f s body = .next s) ∧
      (∀ e, s.mustWait f q = false → s.stateFail q = some e → hostRow opc f s body = .next (s.endCmd f e 0 0)))

/-- 14 R591, R597, R599: the end of a short command frees the ring and queues its reply; a reply that finds room, with nothing before it,
is written to the next place of the completion ring with the phase of its turn, and counted; no other byte of memory changes. -/
def Obligations.RepliesAreWrittenInOrder : Prop :=
  ∀ (s : State) (f : Nat) (o : Out), s.canon = true → f < 9 →
    (∀ p e d r, (s.fn f).cur = some p → p.mute = false → s.endCmd f e d r =
      (s.putFn f { s.fn f with cur := none, stage := 0 }).reply f
        { seq := p.seq, opc := p.opc, part := p.part, status := e, detail := d, result := r, irq := p.irq }) ∧
    (s.ringEn f = true → s.serving = true → s.linkOk f = true → (s.fn f).outq = [] → (s.fn f).evLost = 0 →
      let x := s.fn f
      let g := fun k => s.rf 0 (oHiRingcfg f) k
      let a := g hiRingcfgPbase + 32 * (x.replies % 2 ^ g hiRingcfgPlog)
      (x.replies + 2 ^ 32 - x.cplhead) % 2 ^ 32 < 2 ^ g hiRingcfgPlog → a + 32 ≤ 2 ^ 64 →
      let t := s.reply f o
      (∀ k, k < 32 → t.peek .host (a + k) =
        (outBytes o x.replies (g hiRingcfgPlog) (s.rf 0 (oHiRingst f) hiRingstCmdhead)).getD k 0) ∧
      (∀ r b, r.loc b < Region.host.loc a ∨ Region.host.loc a + 32 ≤ r.loc b → t.peek r b = s.peek r b) ∧
      (t.fn f).replies = (x.replies + 1) % 2 ^ 32 ∧ (t.fn f).outq = [] ∧
      (t.fn f).msix = x.msix + (if (o.irq || o.event) && decide (g hiRingcfgIrqen = 1) then 1 else 0) ∧
      t = { s with mem := t.mem, fns := t.fns })

/-- 14 R605, R606, R615, 01 R42: NOP, IDENTIFY, STATUS and CTR_READ answer at once and change nothing else; SET_MODNUM gives the module its
number when no job runs, WIN_SET and WIN_CLEAR write an entry of the partition's window table once no request is using it, and CTR_POST
posts a counter, an overflow being reported for the partition's tag if there is one; one out of range or misaligned is answered so and changes nothing. -/
def Obligations.ShortCommandsAnswer : Prop :=
  ∀ (s : State) (f : Nat) (p : Pkt),
    (s.hostRuns f 1 p → exec (.nop f) s = .next (s.endCmd f 0 0 0)) ∧
    (s.hostRuns f 2 p → exec (.identify f) s = .next (s.endCmd f 0 0 (s.identity f p.part))) ∧
    (s.hostRuns f 3 p → exec (.status f) s = .next (s.endCmd f 0 0 (s.statusWord f p.part))) ∧
    (s.hostRuns f 4 p → p.n 16 2 ≠ 0xFFFF →
      (s.jobsOf (fun _ => true) = [] →
        exec (.setModnum f) s = .next (({ s with modNum := p.n 16 2 } : State).resendIdent.endCmd f 0 0 0)) ∧
      (s.jobsOf (fun _ => true) ≠ [] → exec (.setModnum f) s = .next (s.endCmd f 0x34 0 0))) ∧
    (s.hostRuns f 4 p → p.n 16 2 = 0xFFFF → exec (.setModnum f) s = .next (s.endCmd f 0x20 0 0)) ∧
    (s.hostRuns f 0x10 p → p.n 16 1 ≤ 63 → p.n 32 4 < 2 ^ 26 → p.n 24 8 % 4096 = 0 → s.winBusy p.part (p.n 16 1) = false →
      exec (.winSet f) s = .next ((s.write (.ctx 0) (winOff p.part (p.n 16 1))
        (toBytes 16 (p.n 24 8 + p.n 32 4 * 2 ^ 64 + 2 ^ 90 + p.n 36 1 % 4 * 2 ^ 91))).endCmd f (if p.n 32 4 = 0 then 1 else 0) 0 0)) ∧
    (s.hostRuns f 0x11 p → p.n 16 1 ≤ 63 → s.winBusy p.part (p.n 16 1) = false →
      exec (.winClear f) s = .next ((s.write (.ctx 0) (winOff p.part (p.n 16 1)) (toBytes 16 0)).endCmd f 0 0 0)) ∧
    (s.hostRuns f 0x10 p → p.n 16 1 ≤ 63 → p.n 32 4 < 2 ^ 26 → p.n 24 8 % 4096 = 0 → s.winBusy p.part (p.n 16 1) = true →
      exec (.winSet f) s = .next s) ∧
    (s.hostRuns f 0x11 p → p.n 16 1 ≤ 63 → s.winBusy p.part (p.n 16 1) = true → exec (.winClear f) s = .next s) ∧
    (s.hostRuns f 0x10 p → 63 < p.n 16 1 ∨ 2 ^ 26 ≤ p.n 32 4 → exec (.winSet f) s = .next (s.endCmd f 0x20 0 0)) ∧
    (s.hostRuns f 0x10 p → p.n 16 1 ≤ 63 → p.n 32 4 < 2 ^ 26 → p.n 24 8 % 4096 ≠ 0 → exec (.winSet f) s = .next (s.endCmd f 0x19 0 0)) ∧
    (s.hostRuns f 0x11 p → 63 < p.n 16 1 → exec (.winClear f) s = .next (s.endCmd f 0x20 0 0)) ∧
    (s.hostRuns f 0x34 p → p.n 16 2 < 0xFFF → s.hasDie (p.n 18 1) = true → p.n 20 2 = 0 → bit (p.n 19 1) 0 = false →
      exec (.ctrPost f) s = .next (s.endCmd f 1 0 0)) ∧
    (s.hostRuns f 0x34 p → p.n 16 2 < 0xFFF → s.hasDie (p.n 18 1) = true → p.n 20 2 ≠ 0 ∨ bit (p.n 19 1) 0 = true →
      exec (.ctrPost f) s = .next ((s.postFor (p.n 18 1) p.part (p.n 16 2) (p.n 20 2) (bit (p.n 19 1) 0)
        (s.partTag (p.n 18 1) p.part)).endCmd f 0 0 0)) ∧
    (s.hostRuns f 0x35 p → p.n 16 2 < 0xFFF → s.hasDie (p.n 18 1) = true →
      let u := s.readCheck (.ctx (p.n 18 1)) (ctrOff p.part (p.n 16 2)) 8
      exec (.ctrRead f) s = .next (u.endCmd f 0 0 (u.peekN (.ctx (p.n 18 1)) (ctrOff p.part (p.n 16 2)) 8))) ∧
    (s.hostRuns f 0x34 p ∨ s.hostRuns f 0x35 p → ¬ (p.n 16 2 < 0xFFF ∧ s.hasDie (p.n 18 1) = true) →
      (s.hostRuns f 0x34 p → exec (.ctrPost f) s = .next (s.endCmd f 0x20 0 0)) ∧
      (s.hostRuns f 0x35 p → exec (.ctrRead f) s = .next (s.endCmd f 0x20 0 0)))

/-- 14 R599, R600, R607, R608, R616 to R620, R624, R629, 16 R701: a long command whose operands are good is accepted and starts, with its status word (log 114):
LOG_READ, COPY (which enters the command queue of its destination's die), STATE_SAVE and STATE_LOAD of a job of the partition,
RECIPE_LOAD and PROT_READ; an empty one ends at once. A COPY of bytes outside the partition's window is reported too. CANCEL answers 2 for a command it may not stop, 1 for one it stops, 0 for none.

14 R599, R608, R616 to R619, R624, 15 R654, 16 R701: a running long command reports its progress in its status word, and ends with its
result: the log's records, the state record, the restored registers, or the partition's record. A RECIPE_LOAD waits
for other functions' short commands before it applies. -/
def Obligations.LongCommandsRunReportAndEnd : Prop :=
  (
  ∀ (s : State) (f : Nat) (p : Pkt),
    (s.hostRuns f 6 p → p.n 16 8 % 64 = 0 → p.n 32 8 % 8 = 0 →
      (p.n 24 4 ≠ 0 → exec (.logRead f) s = .next (s.runLong f p (p.n 32 8) (p.n 24 4) 0)) ∧
      (p.n 24 4 = 0 → exec (.logRead f) s = .next (s.emptyLong f p (p.n 32 8)))) ∧
    (∀ xs ys, s.hostRuns f 0x20 p → s.copyRuns p.part (p.n 16 8) (p.n 32 5) false = .ok xs →
      s.copyRuns p.part (p.n 24 8) (p.n 32 5) true = .ok ys → p.n 40 8 % 8 = 0 → 
      (runsMeet xs ys = true → exec (.copy f) s = .next (s.endCmd f 0x22 0 0)) ∧
      (runsMeet xs ys = false → p.n 32 5 = 0 → exec (.copy f) s = .next (s.emptyLong f p (p.n 40 8))) ∧
      (runsMeet xs ys = false → p.n 32 5 ≠ 0 →
        let u := s.runLong f p (p.n 40 8) (p.n 32 5) 0
        let d := u.copyDie (p.n 24 8)
        let q := u.rackq d 256
        let i : RInstr := { opc := 0x100, part := p.part, seq := u.rackSeq, len := p.n 32 5, src := p.n 16 8, dst := p.n 24 8, fn := f,
                            hseq := p.seq }
        exec (.copy f) s = .next { (u.unrest d 22).putRackq d 256 { q with ins := enq q.ins i } with rackSeq := u.rackSeq + 1 })) ∧
    (∀ e, s.hostRuns f 0x20 p → s.copyRuns p.part (p.n 16 8) (p.n 32 5) false = .error e →
      exec (.copy f) s = .next ((s.copyOutside p.part (p.n 16 8) (p.n 32 5)).endCmd f e 0 0)) ∧
    (∀ xs e, s.hostRuns f 0x20 p → s.copyRuns p.part (p.n 16 8) (p.n 32 5) false = .ok xs →
      s.copyRuns p.part (p.n 24 8) (p.n 32 5) true = .error e →
      exec (.copy f) s = .next ((s.copyOutside p.part (p.n 24 8) (p.n 32 5)).endCmd f e 0 0)) ∧
    (let n := 64 * (1 + (maskDies (s.job (p.n 16 1)).mask).length)
     s.jobIs (p.n 16 1) p.part = true → p.n 24 8 % 64 = 0 → p.n 32 8 % 8 = 0 →
      (s.hostRuns f 0x32 p → exec (.stateSave f) s = .next (s.runLong f p (p.n 32 8) n 0)) ∧
      (s.hostRuns f 0x33 p → exec (.stateLoad f) s = .next (s.runLong f p (p.n 32 8) n 0))) ∧
    (s.jobIs (p.n 16 1) p.part = false →
      (s.hostRuns f 0x32 p → exec (.stateSave f) s = .next (s.endCmd f 0x33 0 0)) ∧
      (s.hostRuns f 0x33 p → exec (.stateLoad f) s = .next (s.endCmd f 0x33 0 0))) ∧
    (s.hostRuns f 0x40 p → recipeFail p.block = none → p.n 32 8 % 8 = 0 → rlApply p = false ∨ s.jobsOf (fun _ => true) = [] →
      exec (.recipeLoad f) s = .next (s.runLong f p (p.n 32 8) (recipeFirst p.block 5) (if rlApply p then 0 else recipeFirst p.block 5))) ∧
    (∀ e, s.hostRuns f 0x40 p → recipeFail p.block = some e → exec (.recipeLoad f) s = .next (s.endCmd f e 0 0)) ∧
    (s.hostRuns f 0x106 p → p.n 32 8 % 8 = 0 → exec (.protRead f) s = .next (s.runLong f p (p.n 32 8) 1 0)) ∧
    (let l := (s.fn f).longs.find? (fun l => l.pkt.seq = p.n 16 4 && decide (l.state < 0x80))
     s.hostRuns f 0x21 p → (l = none → exec (.cancel f) s = .next (s.endCmd f 0 0 0)) ∧
      (∀ k, l = some k → k.pkt.opc = 0x33 ∨ k.pkt.opc = 0x40 → exec (.cancel f) s = .next (s.endCmd f 0 0 2)) ∧
      (∀ k, l = some k → k.pkt.opc ≠ 0x33 → k.pkt.opc ≠ 0x40 → s.copyAt f k.pkt.seq = none →
        exec (.cancel f) s = .next ((s.putLong f { k with state := 0x82, status := 2 }).endCmd f 0 0 1)) ∧
      (∀ k d i, l = some k → k.pkt.opc ≠ 0x33 → k.pkt.opc ≠ 0x40 → s.copyAt f k.pkt.seq = some (d, i) →
        exec (.cancel f) s = .next (((s.putRackq d 256 ((s.rackq d 256).setIns { i with full := true, stopped := true })).putLong f
          { k with state := 0x82, status := 2 }).endCmd f 0 0 1)))) ∧ (
  ∀ (s : State) (f : Nat) (l : Long) (ls : List Long), f < 9 → s.serving = true → (s.fn f).longs = l :: ls →
    (exec (.statusWordUpdate f) s = .next (updateLongs f s (l :: ls))) ∧
    (ls = [] → l.state < 0x80 → s.copyAt f l.pkt.seq = none →
      exec (.statusWordUpdate f) s = .next ((s.putLong f { l with state := 2 }).writeSw f { l with state := 2 })) ∧
    (l.state < 0x80 →
      (l.pkt.opc = 6 → s.linkOk f = true → exec (.longCommandEnd f) s = .next ((s.poke .host (l.pkt.n 16 8)
        ((List.range (l.pkt.n 24 4)).flatMap (fun k => s.logRec f (l.pkt.n 28 4 + k)))).endLong f (l.finish 0 0 (l.pkt.n 24 4)))) ∧
      (l.pkt.opc = 0x32 → s.jobIs (l.pkt.n 16 1) l.pkt.part = true → s.linkOk f = true →
        let j := s.job (l.pkt.n 16 1)
        exec (.longCommandEnd f) s = .next ((s.poke .host (l.pkt.n 24 8) (toBytes 64 (stateHead j) ++
          (maskDies j.mask).flatMap (fun d => toBytes 64 (s.stateBlock d (l.pkt.n 16 1) j.part)))).endLong f (l.finish 0 0 l.total))) ∧
      (l.pkt.opc = 6 ∨ l.pkt.opc = 0x32 ∧ s.jobIs (l.pkt.n 16 1) l.pkt.part = true → s.linkOk f = false →
        exec (.longCommandEnd f) s = .next (s.endLong f (l.finish 0x23 0x18 0))) ∧
      (l.pkt.opc = 0x33 → exec (.longCommandEnd f) s = .next (s.stateLoadEnd f l)) ∧
      (l.pkt.opc = 0x33 → s.jobIs (l.pkt.n 16 1) l.pkt.part = false →
        exec (.longCommandEnd f) s = .next (s.endLong f (l.finish 0x33 0 0))) ∧
      (l.pkt.opc = 0x40 → l.stage = 0 → ls = [] → s.othersBusy f = true → exec (.longCommandEnd f) s = .next s) ∧
      (l.pkt.opc = 0x40 → l.stage = 0 → s.othersBusy f = false → rlApply l.pkt = true → s.jobsOf (fun _ => true) = [] → rlPersist l.pkt = false →
        exec (.longCommandEnd f) s = .next ((s.applyLoaded l.pkt.block).endLong f (l.finish 0 0 l.total))) ∧
      (l.pkt.opc = 0x40 → l.stage = 0 → s.othersBusy f = false → rlApply l.pkt = false → rlPersist l.pkt = true →
        exec (.longCommandEnd f) s = .next { s.putLong f { l with state := 2, buf := [1], valid := l.total } with
          commitWait := enq s.commitWait { kind := 1, data := l.pkt.block, fn := f, seq := l.pkt.seq } }) ∧
      (l.pkt.opc = 0x40 → l.stage = 2 → exec (.longCommandEnd f) s = .next (s.endLong f (l.finish 4 0 l.total))) ∧
      (l.pkt.opc = 0x40 → l.stage = 3 → exec (.longCommandEnd f) s = .next (s.endLong f (l.finish 0 0 l.total))) ∧
      (l.pkt.opc = 0x106 → exec (.longCommandEnd f) s = .next (s.protReadEnd f l))) ∧
    (0x80 ≤ l.state → s.copyAt f l.pkt.seq = none → exec (.longCommandEnd f) s = .next (s.endLong f l)) ∧
    (∀ d i, l.pkt.opc = 0x20 → 0x80 ≤ l.state → s.copyAt f l.pkt.seq = some (d, i) → s.copyOuts d i = [] →
      exec (.longCommandEnd f) s = .next ((s.copyGone f l.pkt.seq).endLong f (s.copyView f l))))

/-- 14 R609 to R614, 10 R440: JOB_START whose block no check fails gives the job a free tag of the partition (which of them is a free
value), writes THLOG to every vat of the partition and its registers on every die of its footprint, starts its threads, extends the partition's measurement, and answers with the
tag; a check that fails answers with its status and changes nothing else. JOB_ABORT begins the end of a job of the partition.
Which free tag the job gets is a free value (log entry 50). -/
def Obligations.JobsStartAndAbort : Prop :=
  ∀ (s : State) (f : Nat) (p : Pkt),
    (s.hostRuns f 0x30 p → s.jobFail f p.part p.block = none →
      let ts := s.freeTags p.part
      let tag := ts.getD (s.free 8 % ts.length) 0
      let u := (s.tick.putJob tag { phase := 1, part := p.part, pjid := blk p.block 0 4, mask := jobMask p.block }).setThlog p.part
        (bits (blk p.block 0 64) 41 5)
      let w := (jobRecs p.block).foldl (fun s t => s.jobDie p.block p.part tag t.1 t.2) u
      tag ∈ ts ∧ exec (.jobStart f) s = .next ((w.pmrExtend p.part p.block).endCmd f 0 0 tag)) ∧
    (∀ e, s.hostRuns f 0x30 p → s.jobFail f p.part p.block = some e → exec (.jobStart f) s = .next (s.endCmd f e.1 e.2 0)) ∧
    (s.hostRuns f 0x31 p → s.jobIs (p.n 16 1) p.part = true →
      exec (.jobAbort f) s = .next ((s.hold_ f).beginEnd 0 (p.n 16 1) 1 0 0 none s.modNum 0 0)) ∧
    (s.hostRuns f 0x31 p → s.jobIs (p.n 16 1) p.part = false → exec (.jobAbort f) s = .next (s.endCmd f 0x33 0 0))

/-- 17 R722, R726, R720, 18 R738, R740: a power-on reset leaves the module held in MOD reset, with no job, grant, session, key, ring or
error record, no alias key or PCIe link, and its partitions NONE; MOD keeps the debug life cycle; the release of MOD runs the boot ROMs,
which derive the alias key from what they measured and issue its certificates, and the self-test deadline starts the module, failed when a die has not answered. A latched trip waits for the input; the cut-off and a trip power
the module off, and a commit that has started runs on.
That a trip and a cut-off leave the module as a power-on reset does, in a phase of its own, is the model's choice (log entry 76); so is PGOOD at 1 after one (log entry 3). -/
def Obligations.ModuleResetsHoldAndStartTheModule : Prop :=
  ∀ (s : State) (held : Bool) (tj tst ma us : Nat), s.canon = true →
    let empty := fun t : State => t.jobs = [] ∧ t.grants = [] ∧ t.sessions = [] ∧ t.keys = [] ∧ t.fns = [] ∧ t.errLog = [] ∧ t.ctxs = [] ∧
      t.vats = [] ∧ t.marks = [] ∧ t.backs = [] ∧ t.pcieUp = false ∧ t.modNum = 0xFFFF ∧ t.commitWait = [] ∧
      t.aliasKey = 0 ∧ t.certs = [] ∧ (∀ r o, r.num ≠ 0 → t.peek r o = 0) ∧ (∀ p, p < 8 → t.rf 0 (oPartStat p) partStatState = 0) ∧
      t.pending = s.pending ∧ t.flashLog = s.flashLog ∧ t.recipe = s.recipe ∧ t.fuseSvn = s.fuseSvn
    (s.trip = false → goesOn (exec .powerOnReset s) (fun t => empty t ∧ t.phase = 2 ∧ t.commitRun = none ∧ t.time = 0 ∧ t.taps = [] ∧ t.porSeq = true ∧
      t.rf 0 oHuStat huStatPgood = 1)) ∧
    (s.trip = true → exec .powerOnReset s = .next s) ∧
    (s.phase < 2 → goesOn (exec (.moduleReset true) s) (fun t => empty t ∧ t.phase = 2 ∧
      t.rf 0 oBondStat bondStatLife = s.rf 0 oBondStat bondStatLife ∧ t.flashWait = false)) ∧
    (s.phase = 2 → s.flashExt = false → exec (.moduleReset false) s = .next s.boot) ∧
    (s.phase = 2 → s.flashExt = true → exec (.moduleReset false) s = .next { s with flashWait := true }) ∧
    (s.boot.aliasKey = aliasOf ((List.range 4).map (mget (fun _ => 0) s.boot.bmrs)) ∧ s.boot.certs = certsOf s.boot.aliasKey ∧
      s.boot.phase = 1) ∧
    (s.phase = 3 → exec (.moduleReset held) s = .next s) ∧
    (s.phase = 1 →
      let bad := decide (s.answered ≠ 2 ^ s.nDies - 1)
      let u : State := { s with phase := 0, porSeq := false, failed := bad, pcieUp := true, smbAlert := s.smbAlert || bad,
                                lostDies := 2 ^ s.nDies - 1 - s.answered }
      let w := (if bad then u.moduleState else u).applyStored
      exec .selfTestDeadline s = .next (w.bmrExtend 4 (if w.recipeNow = [] then List.replicate 48 0 else digest w.recipeNow))) ∧
    (s.phase ≠ 1 → exec .selfTestDeadline s = .next s) ∧
    goesOn (exec .converterCutOff s) (fun t => empty t ∧ t.phase = 3 ∧ t.trip = false ∧ t.commitRun = s.commitRun ∧
      t.rf 0 oHuStat huStatPgood = 0) ∧
    (s.phase ≠ 3 → 100 ≤ us → 115 ≤ tj ∨ 105 ≤ tst ∨ s.iinBounds.2 ≤ ma →
      goesOn (exec (.trip tj tst ma us) s) (fun t => empty t ∧ t.phase = 3 ∧ t.trip = true ∧ t.commitRun = s.commitRun)) ∧
    (us < 100 ∨ (tj < 115 ∧ tst < 105 ∧ ma < s.iinBounds.2) → exec (.trip tj tst ma us) s = .next s)

/-- 17 R723, R724, R725, 16 R696, 14 R585, R600, R602 to R604: in operation a warm reset, a PCIe hot reset and a function-level reset of the
PF reset the module's partitions, units and rings; a partition reset and a VF's function-level reset reset one partition, and the VF's
ring with it; an island reset one vat, kettle core or link. A reset absorbs the RESETs of its kind and lesser ones that other functions have
waiting, which end with no reply, and is itself absorbed by a RESET of an earlier kind that another function has waiting (00 R19). The RESET command does the same for its kinds, an island that a job uses
excepted. The reset of the module ends every job, takes every grant, and zeroes the memories of its dies. -/
def Obligations.WarmPartitionAndIslandResetsAct : Prop :=
  ∀ (s : State) (p d i f : Nat) (k : Pkt), s.phase = 0 → p < 8 → s.hasDie d = true → islOk i = true →
    exec .warmReset s = .next (s.absorb 2 9).wrm ∧ exec .pcieHotReset s = .next (s.absorb 2 9).wrm ∧
    exec .flrPf s = .next ((s.absorb 2 9).wrm.flrRing 0) ∧ (s.outranked 3 9 = false → exec (.partitionReset p) s = .next ((s.absorb 4 9).prt p)) ∧
    (s.outranked 3 9 = true → exec (.partitionReset p) s = .next s) ∧
    (s.exposed (p + 1) = true → s.outranked 3 (p + 1) = false → exec (.flrVf p) s = .next (((s.absorb 4 9).prt p).flrRing (p + 1))) ∧
    (s.exposed (p + 1) = true → s.outranked 3 (p + 1) = true → exec (.flrVf p) s = .next (s.flrRing (p + 1))) ∧
    (s.exposed (p + 1) = false → exec (.flrVf p) s = .next s) ∧
    (s.outranked 4 9 = false → exec (.islandReset d i) s = .next (s.isl d i)) ∧
    (s.outranked 4 9 = true → exec (.islandReset d i) s = .next s) ∧
    (s.hostRuns f 5 k →
      (k.n 16 1 = 2 → exec (.reset f) s = .next ((s.absorb 2 f).wrm.endCmd f 0 0 0)) ∧
      (k.n 16 1 = 3 → k.n 17 1 = p → s.outranked 3 f = false → exec (.reset f) s = .next (((s.absorb 4 f).prt p).endCmd f 0 0 0)) ∧
      (k.n 16 1 = 3 → k.n 17 1 = p → s.outranked 3 f = true → exec (.reset f) s = .next (s.putFn f { s.fn f with cur := none })) ∧
      (k.n 16 1 = 3 → 7 < k.n 17 1 → exec (.reset f) s = .next (s.endCmd f 0x20 0 0)) ∧
      (k.n 16 1 = 4 → k.n 18 1 = d → k.n 19 1 = i → s.dieInJob d = true → exec (.reset f) s = .next (s.endCmd f 0x34 0 0)) ∧
      (k.n 16 1 = 4 → k.n 18 1 = d → k.n 19 1 = i → s.dieInJob d = false → s.outranked 4 f = false →
        exec (.reset f) s = .next ((s.isl d i).endCmd f 0 0 0)) ∧
      (k.n 16 1 = 4 → k.n 18 1 = d → k.n 19 1 = i → s.dieInJob d = false → s.outranked 4 f = true →
        exec (.reset f) s = .next (s.putFn f { s.fn f with cur := none }))) ∧
    (∀ lo g, s.canon = true → g < 9 →
      let t := s.absorb lo f
      let x := s.fn g
      (∀ q, x.cur = some q → g ≠ f → q.opc = 5 → x.stage = 0 → lo ≤ q.n 16 1 → t.fn g = { x with cur := none }) ∧
      (x.cur = none ∨ (∃ q, x.cur = some q ∧ (q.opc ≠ 5 ∨ x.stage ≠ 0 ∨ q.n 16 1 < lo)) ∨ g = f → t.fn g = x) ∧
      t = { s with fns := t.fns }) ∧
    (∃ u : State, s.wrm = u.applyStored.levelSet ∧ u.jobs = [] ∧ u.ctxs = [] ∧ u.vats = [] ∧ u.grants = [] ∧ u.keys = [] ∧
      u.sessions = [] ∧ u.tslots = [] ∧ u.rackqs = [] ∧ (∀ r o, 16 ≤ r.num → u.peek r o = 0) ∧ u.modNum = s.modNum ∧
      u.keyCtr = s.keyCtr + 1 ∧ u.fwKey = u.keyCtr ∧ u.backs = []) ∧
    (s.canon = true → (i < 16 → ((s.isl d i).vat d i).mashQ = [] ∧ ((s.isl d i).vat d i).passes = [] ∧
      ((s.isl d i).vat d i).bank0 = bRELEASED ∧ ∀ c, c < 1024 → ((s.isl d i).ctx d (1024 * i + c)).state = cFREE)) ∧
    (s.canon = true → (s.flrRing f).fn f = {} ∧ ∀ g, g ≠ f → (s.flrRing f).fn g = s.fn g)

/-- 16 R698 to R700, 15 R654: the oldest commit asked for starts when the input is good, no commit runs and the energy suffices; else it is
deferred with an event, and a recipe store ends its command DEFERRED. A retry tries every deferred commit in its order: one that may
start does, and of another the attempt is counted. A commit takes erased flash (log 117); one that ends is stored, a recipe with its CRC-32C.
That a retry takes the oldest deferred commit is log entry 65. -/
def Obligations.CommitsStartDeferAndEnd : Prop :=
  ∀ (s : State) (c : Commit) (cs : List Commit), s.phase < 2 →
    let u : State := { s with commitWait := cs }
    let k : Commit := { c with tries := c.tries + 1 }
    let left (t : State) : Nat := (if t.rf 0 oHuStat huStatPgood = 1 then max t.erased (c.bytes + 262144) else t.erased) - c.bytes
    let starts (t : State) : State := { t with commitRun := some c, erased := left t }
    (s.commitWait = c :: cs → s.mayCommit c = true → exec .commitStart s = .next (starts u)) ∧
    (s.commitWait = c :: cs → s.mayCommit c = false → c.kind = 1 →
      exec .commitStart s = .next ((u.recipeStage c.fn c.seq 2).deferEvent c)) ∧
    (s.commitWait = c :: cs → s.mayCommit c = false → c.kind ≠ 1 → (s.deferred.filter (fun x => x.kind = 0)).length < 64 →
      exec .commitStart s = .next (({ u with deferred := enq s.deferred c } : State).deferEvent c)) ∧
    exec .commitRetry s = .next (retryAll { s with deferred := [] } s.deferred) ∧
    (∀ t : State, retryAll t [] = t ∧ (t.mayCommit c = true → retryAll t (c :: cs) = retryAll (starts t) cs) ∧
      (t.mayCommit c = false →
        retryAll t (c :: cs) = retryAll (({ t with deferred := enq t.deferred k } : State).deferEvent k) cs)) ∧
    (s.commitRun = some c →
      (c.kind = 0 → exec .commitEnd s = .next { s with commitRun := none, flashLog := lastN 1024 (enq s.flashLog c.erec) }) ∧
      (c.kind = 1 → exec .commitEnd s =
        .next (({ s with commitRun := none, recipe := c.data, recipes := (c.data, crc32c c.data) :: s.recipes } : State).recipeStage
          c.fn c.seq 3)) ∧
      (c.kind = 2 → exec .commitEnd s = .next { s with commitRun := none, fuseSvn := c.seq }))

/-- 17 R711 to R714, R730, R733, 18 R735, R739: a telemetry sample stores its readings and keeps the peaks; an evaluation raises or releases
each cause's level and the level in force becomes the largest that a cause demands; an input current held over its bound demands level
4 at once; a die applies the level in force. The fall of the input clears PGOOD and alerts the host, and its rise sets it.
The release current of 70 A in every variant, and the top level 7, are the model's choices (log entries 77 and 78). -/
def Obligations.TelemetryThrottlesTheModule : Prop :=
  ∀ (s : State) (vin iin pin energy d ma us : Nat) (tel : List Nat), s.canon = true → s.phase < 2 → s.hasDie d = true →
    goesOn (exec (.telemetrySample vin iin pin energy tel) s) (fun t =>
      t.rf 0 oPwrIn pwrInPin = pin % 2 ^ 16 ∧ t.rf 0 oPwrIn pwrInPpk = max (pin % 2 ^ 16) (s.rf 0 oPwrIn pwrInPpk) ∧
      t.rf d oPwrTel pwrTelTj = telOf tel d 2 % 256 ∧ t.rf d oPwrTel pwrTelTjpk = max (telOf tel d 2 % 256) (s.rf d oPwrTel pwrTelTjpk) ∧
      t = { s with regs := t.regs }) ∧
    exec .throttleEvaluation s = .next ((List.range 4).foldl (fun s c => s.evalCause c) s).levelSet ∧
    (∀ c, c < 4 →
      let t := s.evalCause c
      ((s.causeNow c).1 = true → mget n0 t.levels c = min 7 (mget n0 s.levels c + 1) ∧ mget n0 t.calm c = 0) ∧
      ((s.causeNow c).1 = false → (s.causeNow c).2 = false → mget n0 t.levels c = mget n0 s.levels c ∧ mget n0 t.calm c = 0) ∧
      ((s.causeNow c).1 = false → (s.causeNow c).2 = true → mget n0 s.calm c = 99 → mget n0 t.levels c = mget n0 s.levels c - 1) ∧
      t = { s with levels := t.levels, calm := t.calm }) ∧
    ((∀ c, c < 5 → s.levelOf c < 8) → (∀ c, c < 5 → s.levelOf c ≤ s.levelSet.rf 0 oPwrStat pwrStatLevel) ∧
      (∃ c, c < 5 ∧ s.levelSet.rf 0 oPwrStat pwrStatLevel = s.levelOf c)) ∧
    (s.iinBounds.1 < ma → 20 ≤ us → exec (.inputCurrentThrottle ma us) s = .next ({ s with
      levels := mset n0 s.levels 1 (max 4 (mget n0 s.levels 1)), calm := mset n0 s.calm 1 0 } : State).levelSet) ∧
    (ma ≤ s.iinBounds.1 ∨ us < 20 → exec (.inputCurrentThrottle ma us) s = .next s) ∧
    goesOn (exec (.throttleApply d) s) (fun t =>
      mget n0 t.dieLevel d = s.rf 0 oPwrStat pwrStatLevel ∧ (∀ e, e ≠ d → mget n0 t.dieLevel e = mget n0 s.dieLevel e) ∧
      t = { s with dieLevel := t.dieLevel, regs := t.regs }) ∧
    (s.rf 0 oHuStat huStatPgood = 1 → goesOn (exec .pgoodFall s) (fun t =>
      t.rf 0 oHuStat huStatPgood = 0 ∧ t.smbAlert = true ∧ t = { s with smbAlert := true, regs := t.regs })) ∧
    goesOn (exec .pgoodRise s) (fun t => t.rf 0 oHuStat huStatPgood = 1 ∧ t = { s with regs := t.regs })

/-- 17 R716 to R720: an idle island that may rest comes to rest, and a wake ends it; a die asked to be dormant and without a job goes
dormant, and a wake restores its islands. Module sleep ends every command and job and makes the dies dormant, their racking
engines and cellar controllers at rest; the wake writes the replies that waited. -/
def Obligations.IslandsDiesAndTheModuleRest : Prop :=
  ∀ (s : State) (d i : Nat), s.canon = true → s.hasDie d = true → s.phase = 0 → i < 31 →
    let m := s.rf d oIslRest islRestRested
    (bit m i = false → bit (s.rf d oIslRest islRestResten) i = true → s.islandIdle d i = true →
      goesOn (exec (.islandRestEnter d i) s) (fun t =>
        t.rf d oIslRest islRestRested = m + 2 ^ i ∧ t.rf d oIslRest islRestResten = s.rf d oIslRest islRestResten ∧
        t = { s with regs := t.regs })) ∧
    (bit m i = true → goesOn (exec (.islandWake d i) s) (fun t =>
      t.rf d oIslRest islRestRested = m - 2 ^ i ∧ t = { s with regs := t.regs })) ∧
    (bit m i = false → exec (.islandWake d i) s = .next s) ∧
    (bit (s.rf 0 oPwrCtl pwrCtlDormreq) d = true → s.tagOn d = false → s.dormant d = false →
      goesOn (exec (.dieDormantEnter d) s) (fun t =>
        t.dormant d = true ∧ (∀ e, e < 8 → e ≠ d → t.dormant e = s.dormant e) ∧ t = { s with regs := t.regs })) ∧
    (s.tagOn d = true → exec (.dieDormantEnter d) s = .next s) ∧
    (s.serving = true → bit (s.rf 0 oPwrCtl pwrCtlDormreq) d = false → s.dormant d = true →
      goesOn (exec (.dieWake d) s) (fun t =>
        t = (s.freshIslands d).wf 0 oPwrStat pwrStatDorm ((s.freshIslands d).rf 0 oPwrStat pwrStatDorm - 2 ^ d) ∧
        t.dormant d = false ∧ (∀ r o, wakeZero d r.num = true → t.peek r o = 0))) ∧
    (s.serving = true → exec .moduleSleep s = .next s.sleep ∧ s.sleep =
      (List.range s.nDies).foldl (fun t e => ((t.freshIslands e).sleepDie e).deepRest e)
        (((s.cancelAll (fun _ => true) false).wf 0 oPwrStat pwrStatSleep 1).stopJobs (fun _ => true) 1)) ∧
    (s.serving = false → exec .moduleSleep s = .next s) ∧
    (s.rf 0 oPwrStat pwrStatSleep = 1 → exec .moduleWake s = .next ((List.range 9).foldl (fun t f => t.lateReplies f)
      ((List.range s.nDies).foldl (fun t e => if bit (t.rf 0 oPwrCtl pwrCtlDormreq) e then t else t.wakeDie e false)
        ((List.range s.nDies).foldl (fun t e => (t.unrest e 22).unrest e 27) (s.wf 0 oPwrStat pwrStatSleep 0)))))

/-- 18 R743 to R747, 14 R583: while the module has power and no trip is latched the management port answers each block read with the bytes
of its code and changes no register, and the read of code 2 releases the alert; each answer has its
packet error code (log 4). A test-port instruction is loaded on its die alone, and one that drives pins acts as BYPASS unless the module is
held in MOD reset. FLASH_EXT is sampled in MOD reset; what it releases the flash for is written outside the model (log 58). A PCIe atomic completes
with Unsupported Request and changes nothing else. -/
def Obligations.ManagementInterfacesAnswer : Prop :=
  ∀ (s : State) (d v f : Nat), s.canon = true → s.hasDie d = true → f < 9 →
    let reads : Nat → List Byte → Host.Outcome State Fault Refusal := fun code bs => .next { s with smb := bs, smbPec := smbPecOf code bs }
    (s.managed = true →
      exec .smbusIdentityRead s =
        reads 1 (orderCode s.variant ++ (List.range 16).map Config.serial ++ toBytes 4 Config.fwVersion.toNat ++ toBytes 4 s.rid) ∧
      goesOn (exec .smbusStateRead s) (fun t => t.smb.length = 8 ∧ t.smb.take 4 =
        toBytes 1 (if s.phase ≠ 0 then 0 else if s.failed then 2 else 1) ++ toBytes 2 s.modNum ++ toBytes 1 s.healthMask ∧
        t = { s with smb := t.smb, smbPec := smbPecOf 2 t.smb, smbAlert := false }) ∧
      exec .smbusPowerRead s = reads 3 (s.liveBytes 0 oPwrIn) ∧
      exec .smbusTelemetryRead s = reads 4 ((List.range s.nDies).flatMap (fun e => s.liveBytes e oPwrTel)) ∧
      exec .smbusHoldupRead s = reads 5 (s.liveBytes 0 oHuStat)) ∧
    (s.managed = false → exec .smbusIdentityRead s = .next s ∧ exec .smbusStateRead s = .next s ∧ exec .smbusPowerRead s = .next s ∧
      exec .smbusTelemetryRead s = .next s ∧ exec .smbusHoldupRead s = .next s) ∧
    (s.managed = true →
      let takes := fun (o : Host.Outcome State Fault Refusal) code b => goesOn o (fun t =>
        t.tap d = (code, b) ∧ (∀ e, e ≠ d → t.tap e = s.tap e) ∧ t = { s with taps := t.taps })
      takes (exec (.extest d) s) 0 (s.tap d).2 ∧ takes (exec (.samplePreload d v) s) 1 v ∧
      takes (exec (.idcode d) s) 2 (s.tap d).2 ∧ takes (exec (.clamp d) s) 3 (s.tap d).2 ∧
      takes (exec (.highz d) s) 4 (s.tap d).2 ∧ takes (exec (.extestPulse d) s) 5 (s.tap d).2 ∧
      takes (exec (.extestTrain d) s) 6 (s.tap d).2 ∧ takes (exec (.bypass d) s) 0xFF (s.tap d).2) ∧
    (let c := (s.tap d).1
     (c = 1 ∨ c = 2 → s.tapCode d = c) ∧ (c = 0 ∨ 3 ≤ c ∧ c ≤ 6 → s.tapCode d = if s.phase = 2 then c else 0xFF) ∧
     (6 < c → s.tapCode d = 0xFF) ∧ (s.tapCode d = 2 → s.tapData d = idcode d) ∧
     (s.tapCode d ∈ [0, 1, 5, 6] → s.tapData d = (s.tap d).2)) ∧
    (s.phase = 2 →
      exec (.flashExt true) s = .next { s with flashExt := true, flashGen := s.flashGen + 1, recipes := [] } ∧
      (s.flashWait = true → exec (.flashExt false) s = .next ({ s with flashExt := false, flashWait := false } : State).boot) ∧
      (s.flashWait = false → exec (.flashExt false) s = .next { s with flashExt := false })) ∧
    (∀ b, s.phase ≠ 2 → exec (.flashExt b) s = .next s) ∧
    (s.pcieUp = true → exec (.pcieAtomicRequest f) s = .next { s with unsupported := s.unsupported + 1 })

/-- 16 R683, R686, R687, R694, R697, R701, R702, 15 R659, 14 R625, R626: PART_CREATE makes a NONE partition OPEN with a new cellar key;
PART_ASSIGN, PART_REVOKE and KEY_GROUP are checked whole, recorded in PMR as they are accepted (R677) and then wait for the next fence, one with no effective entry is EMPTY, and
PART_DESTROY resets the partition and waits for its fence; INOC_GRANT takes effect at once while no owner is bound; OVERLAY changes the
partition's overlay, or the diagnostic one while no job runs.
That INOC_GRANT acts at once is log entry 74. -/
def Obligations.PartitionCommandsAct : Prop :=
  ∀ (s : State) (f : Nat) (p : Pkt), s.canon = true →
    (s.hostRuns f 0x100 p → s.partState p.part = 0 → p.part < 8 →
      let o := oPartStat p.part
      let u := s.wfs 0 o [(partStatState, 1), (partStatTdi, 0), (partStatOwned, 0), (partStatInocg, 0), (partStatIdeok, 0)]
      let t := (u.putPart p.part { u.partRec p.part with owner := none, pmr := 0, ide := none }).newCellarKey p.part
      exec (.partCreate f) s = .next (t.endCmd f 0 0 0) ∧ t.partState p.part = 1 ∧ t.owned p.part = false ∧
      (t.partRec p.part).cellar = s.keyCtr + 1 ∧ (t.partRec p.part).pmr = 0 ∧ (t.partRec p.part).owner = none) ∧
    (s.hostRuns f 0x100 p → s.partState p.part ≠ 0 → exec (.partCreate f) s = .next (s.endCmd f 0x15 0 0)) ∧
    (let gs := ((grantEnts p.block).filter (fun g => ! gEmpty g)).map (toGrant p.part)
     let r := s.pmrExtend p.part p.block
     let waits := fun (k : Nat) => ({ r with
        changes := enq r.changes { kind := k, fn := f, part := p.part, list := gs, data := p.block } } : State).hold_ f
     (s.hostRuns f 0x101 p → s.grantFail p.part false false (grantEnts p.block) = none →
       exec (.partAssign f) s = .next (if gs = [] then s.endCmd f 1 0 0 else waits 0)) ∧
     (s.hostRuns f 0x102 p → s.grantFail p.part false true (grantEnts p.block) = none →
       exec (.partRevoke f) s = .next (if gs = [] then s.endCmd f 1 0 0 else waits 1))) ∧
    (∀ e, s.hostRuns f 0x101 p → s.grantFail p.part false false (grantEnts p.block) = some e →
      exec (.partAssign f) s = .next (s.endCmd f e 0 0)) ∧
    (∀ e, s.hostRuns f 0x102 p → s.grantFail p.part false true (grantEnts p.block) = some e →
      exec (.partRevoke f) s = .next (s.endCmd f e 0 0)) ∧
    (s.hostRuns f 0x103 p → exec (.partDestroy f) s = .next (({ s.prt p.part with
      changes := enq (s.prt p.part).changes { kind := 2, fn := f, part := p.part } } : State).hold_ f)) ∧
    (s.hostRuns f 0x104 p → s.keyFail f false p = none → exec (.keyGroup f) s = .next 
      (let r := s.pmrExtend p.part (p.params.take 4)
       let c : Change := { kind := 3, fn := f, part := p.part, port := p.n 16 1, grp := p.n 17 1, slot := p.n 18 1,
                           en := bit (p.n 19 1) 0, data := p.params.take 4 }
       ({ r with changes := enq r.changes c } : State).hold_ f)) ∧
    (∀ e, s.hostRuns f 0x104 p → s.keyFail f false p = some e → exec (.keyGroup f) s = .next (s.endCmd f e 0 0)) ∧
    (s.hostRuns f 0x105 p → s.partState p.part = 1 ∨ s.partState p.part = 3 → s.owned p.part = false →
      (bit (p.n 16 1) 0 = true → exec (.inocGrant f) s = .next ((s.wf 0 (oPartStat p.part) partStatInocg 1).endCmd f 0 0 0)) ∧
      (bit (p.n 16 1) 0 = false →
        exec (.inocGrant f) s = .next ((s.wf 0 (oPartStat p.part) partStatInocg 0).disarmCovered.endCmd f 0 0 0))) ∧
    (s.hostRuns f 0x41 p → p.n 16 1 < 3 → exec (.overlay f) s = .next ((s.setMode p.part (p.n 16 1)).endCmd f 0 0 0)) ∧
    (s.hostRuns f 0x41 p → p.n 16 1 = 3 →
      (s.jobsOf (fun _ => true) = [] → exec (.overlay f) s = .next ((s.setDiag (bit (p.n 17 1) 0)).endCmd f 0 0 0)) ∧
      (s.jobsOf (fun _ => true) ≠ [] → exec (.overlay f) s = .next (s.endCmd f 0x34 0 0))) ∧
    (s.hostRuns f 0x41 p → 3 < p.n 16 1 → exec (.overlay f) s = .next (s.endCmd f 0x20 0 0))

/-- 16 R689 to R691: with changes that wait and no fence under way, the fence writes the inactive tables with all of them and raises GEN;
each die then goes over to the new tables, and the fence ends, putting each change into effect, only when every die that is not lost has
switched, no access checked under the old tables is left and every ring that changes hands is drained; what is left after 100 ms is reported, once. -/
def Obligations.FencePutsChangesIntoEffect : Prop :=
  ∀ (s : State) (d ms : Nat), s.canon = true →
    (s.rf 0 oBondFence bondFenceBusy = 0 → s.changes ≠ [] → s.phase = 0 → goesOn (exec .protectionFence s) (fun t =>
      t.rf 0 oBondFence bondFenceGen = (s.rf 0 oBondFence bondFenceGen + 1) % 2 ^ 32 ∧ t.rf 0 oBondFence bondFenceBusy = 1 ∧
      t.rf 0 oBondFence bondFenceSwitched = 0 ∧ t.grants = s.grants ∧ t.grantsNew = s.changes.foldl applyChange s.grants ∧
      t.fenceRun = s.changes ∧ t.changes = [] ∧ t.fenceOld = [] ∧
      t = { s with regs := t.regs, grantsNew := t.grantsNew, fenceRun := t.fenceRun, changes := [], fenceOld := [] })) ∧
    (s.rf 0 oBondFence bondFenceBusy = 1 ∨ s.changes = [] → exec .protectionFence s = .next s) ∧
    (s.hasDie d = true → s.rf 0 oBondFence bondFenceBusy = 1 → bit (s.rf 0 oBondFence bondFenceSwitched) d = false →
      goesOn (exec (.dieTableSwitch d) s) (fun t =>
        bit (t.rf 0 oBondFence bondFenceSwitched) d = true ∧ t.fenceOld = s.fenceOld ++ s.accesses d ∧
        (∀ e, e < 8 → e ≠ d → bit (t.rf 0 oBondFence bondFenceSwitched) e = bit (s.rf 0 oBondFence bondFenceSwitched) e) ∧
        t = { s with fenceOld := t.fenceOld, regs := t.regs })) ∧
    (let all := ∀ e, e < s.nDies → bit (s.rf 0 oBondFence bondFenceSwitched) e = true ∨ bit s.lostDies e = true
     (s.rf 0 oBondFence bondFenceBusy = 1 → all → s.oldLive = [] → s.ringsDrained s.fenceRun = true →
      let u := ({ s with fenceRun := [], fenceOld := [] } : State).wf 0 oBondFence bondFenceBusy 0
      exec .fenceComplete s = .next { s.fenceRun.foldl (fun t c => t.changeDone c) u with grantsNew := [] }) ∧
     (¬ all ∨ s.oldLive ≠ [] ∨ s.ringsDrained s.fenceRun = false → exec .fenceComplete s = .next s)) ∧
    (∀ (c : Change), c.kind = 0 → c.doe = false → c.fn ≠ 9 → s.changeDone c =
      (c.list.foldl (fun t g => t.enterGrant g) ({ s with grants := c.list.foldl addGrant s.grants } : State)).endCmd c.fn 0 0 0) ∧
    (s.rf 0 oBondFence bondFenceBusy = 1 → 100 ≤ ms → goesOn (exec (.fenceAccessTimeout ms) s) (fun t =>
      (∀ a, a ∈ s.oldLive → a.1 < 8 → ∃ r, r ∈ t.reports ∧ r.die = a.2.1 ∧ r.tag = a.2.2.2.2 ∧ r.cls = 0x12 ∧ r.detail = 9) ∧
      t.oldLive.filter (fun a => decide (a.1 < 8)) = [] ∧ t = { s with reports := t.reports, fenceOld := t.fenceOld })) ∧
    (s.rf 0 oBondFence bondFenceBusy = 0 ∨ ms < 100 → exec (.fenceAccessTimeout ms) s = .next s)

/-- 16 R678 to R683, R686, R692, R693: the mailboxes of the functions that are exposed answer in operation: measurements and challenges with a signature of the alias key,
certificates with its chain; a session, four to a
function, whose first authenticated requester becomes the owner; FINISH establishes it and END_SESSION ends it, its requests and answers
counted under its keys (codes: log 64); a request a session may not make is refused; the owner locks, starts and
stops the interface of its partition, which debug forbids to lock; and a key enters a slot, or a selective stream, through the session that
may program it.
The numbers of the requests and answers are those of DMTF's protocol (log entry 64). -/
def Obligations.MailboxesServeTheirSessions : Prop :=
  ∀ (s : State) (f sess code slot key : Nat) (auth : Bool) (msg : List Byte), s.serving = true → f < 9 →
   (s.exposed f = false → exec (.getMeasurements f) s = .next s ∧ exec (.keyExchange f auth key) s = .next s ∧
    exec (.spdmRequest f sess code msg) s = .next s ∧ exec (.lockInterface f sess) s = .next s ∧ exec (.startInterface f sess) s = .next s ∧
    exec (.stopInterface f sess) s = .next s ∧ exec (.keyProg f sess slot key) s = .next s ∧ exec (.ideKm f sess key) s = .next s) ∧
   (s.exposed f = true →
    (let b := s.measurements f
     exec (.getMeasurements f) s = .next (s.putFn f { s.fn f with resp := b ++ Config.ecdsa s.aliasKey b })) ∧
    (4 ≤ s.sessionsOf f → exec (.keyExchange f auth key) s = .next (s.mail f 0 (toBytes 2 0x32))) ∧
    (s.sessionsOf f < 4 →
      let k := if auth then some (BitVec.ofNat 384 key) else none
      let u : State := { s with sessions := enq s.sessions { id := s.nextSess, fn := f, auth := k }, nextSess := s.nextSess + 1 }
      let w := (u.putPart (f - 1) { u.partRec (f - 1) with owner := k }).wf 0 (oPartStat (f - 1)) partStatOwned 1
      (auth = true → f ≠ 0 → u.owned (f - 1) = false →
        exec (.keyExchange f auth key) s = .next (w.mail f 0 (toBytes 2 0 ++ toBytes 4 s.nextSess))) ∧
      (auth = false ∨ f = 0 ∨ u.owned (f - 1) = true →
        exec (.keyExchange f auth key) s = .next (u.mail f 0 (toBytes 2 0 ++ toBytes 4 s.nextSess)))) ∧
    (let mine := ∃ x, s.session sess = some x ∧ x.fn = f
     let up := ∃ x, s.session sess = some x ∧ x.up = true ∧ x.fn = f
     let ok := code ∈ spdmCodes ∧ (sess = 0 ∨ mine)
     let genuine := (s.reqKey sess).all (fun k => Config.spdmOk k msg) = true
     let t := s.onSession sess (fun x => { x with seqReq := x.seqReq + 1 })
     let runs := fun (u : State) => exec (.spdmRequest f sess code msg) s = .next (if genuine then u else s.mail f 0 (toBytes 2 0x15))
     (¬ ok → runs (s.mail f 0 (toBytes 2 0x15))) ∧
     (ok → (mine ∧ ¬ up ∧ code ≠ 0xE5) ∨ (¬ mine ∧ code ∈ [0xE5, 0xE8, 0xE9, 0xEC]) → runs (t.mail f sess (toBytes 2 0x15))) ∧
     (ok → mine → code = 0xE5 → runs ((t.onSession sess (fun x => { x with up := true })).mail f sess (toBytes 2 0))) ∧
     (ok → up → code = 0xE9 → runs ((t.onSession sess (fun x => x.keyUpdate (blk msg 0 1))).mail f sess (toBytes 2 0))) ∧
     (ok → up → code = 0xEC →
       let z := t.mail f sess (toBytes 2 0)
       runs { z with sessions := z.sessions.filter (fun x => decide (x.id ≠ sess)) }) ∧
     (ok → up → code = 0xFE → runs (t.vendorReq f sess (vendorPkt msg))) ∧
     (ok → ¬ mine ∨ up →
       (code = 0x82 → runs (t.sealFor f sess s.certs.flatten)) ∧ (code = 0x81 → runs (t.sealFor f sess (digest s.certs.flatten))) ∧
       (code = 0x83 → runs (t.sealFor f sess (digest s.certs.flatten ++ Config.ecdsa s.aliasKey msg))) ∧
       (code ∉ [0xE5, 0xE9, 0xEC, 0x81, 0x82, 0x83] → code ≠ 0xFE ∨ ¬ mine → code ≠ 0xE8 ∨ mine →
         runs (t.mail f sess (toBytes 2 code ++ msg))))) ∧
    (f = 0 ∨ s.ownerOk (f - 1) sess = false → exec (.lockInterface f sess) s = .next (s.mail f sess (toBytes 2 0x14)) ∧
      exec (.startInterface f sess) s = .next (s.mail f sess (toBytes 2 0x14)) ∧
      exec (.stopInterface f sess) s = .next (s.mail f sess (toBytes 2 0x14))) ∧
    (f ≠ 0 → s.ownerOk (f - 1) sess = true →
      let o := oPartStat (f - 1)
      let st := s.partState (f - 1)
      let tdi := s.rf 0 o partStatTdi
      (s.debugOn = false → st = 1 →
        exec (.lockInterface f sess) s = .next ((s.wfs 0 o [(partStatState, 2), (partStatTdi, 1)]).mail f sess (toBytes 2 0))) ∧
      (s.debugOn = true ∨ st ≠ 1 → exec (.lockInterface f sess) s = .next (s.mail f sess (toBytes 2 0x15))) ∧
      (tdi = 1 → exec (.startInterface f sess) s = .next ((s.wf 0 o partStatTdi 2).mail f sess (toBytes 2 0))) ∧
      (tdi ≠ 1 → exec (.startInterface f sess) s = .next (s.mail f sess (toBytes 2 0x15))) ∧
      (2 ≤ st → exec (.stopInterface f sess) s = .next ((s.wfs 0 o [(partStatState, 1), (partStatTdi, 0)]).mail f sess (toBytes 2 0))) ∧
      (st < 2 → exec (.stopInterface f sess) s = .next (s.mail f sess (toBytes 2 0x15)))) ∧
    (let mine := ∃ x, s.session sess = some x ∧ x.up = true ∧ x.fn = f
     let holder := match s.slotPart slot with
       | some p => p + 1
       | none => 0
     (127 < slot → exec (.keyProg f sess slot key) s = .next (s.mail f sess (toBytes 2 0x20))) ∧
     (slot ≤ 127 → s.debugOn = true → exec (.keyProg f sess slot key) s = .next (s.mail f sess (toBytes 2 0x15))) ∧
     (slot ≤ 127 → s.debugOn = false →
      (mine → holder = f → exec (.keyProg f sess slot key) s =
        .next (({ s with keys := mset keyDefault s.keys slot (some (BitVec.ofNat 256 key)) } : State).mail f sess (toBytes 2 0))) ∧
      (¬ mine ∨ holder ≠ f → exec (.keyProg f sess slot key) s = .next (s.mail f sess (toBytes 2 0x21))))) ∧
    (s.debugOn = true → exec (.ideKm f sess key) s = .next (s.mail f sess (toBytes 2 0x15))) ∧
    (s.debugOn = false → f ≠ 0 →
      (s.ownerOk (f - 1) sess = true → exec (.ideKm f sess key) s = .next (((s.putPart (f - 1) { s.partRec (f - 1) with
        ide := some (BitVec.ofNat 256 key) }).wf 0 (oPartStat (f - 1)) partStatIdeok 1).mail f sess (toBytes 2 0))) ∧
      (s.ownerOk (f - 1) sess = false → exec (.ideKm f sess key) s = .next (s.mail f sess (toBytes 2 0x14)))) ∧
    (s.debugOn = false → f = 0 →
      ((∃ x, s.session sess = some x ∧ x.up = true ∧ x.fn = 0) → exec (.ideKm f sess key) s =
        .next ((s.putPart 8 { s.partRec 8 with ide := some (BitVec.ofNat 256 key) }).mail f sess (toBytes 2 0))) ∧
      (¬ (∃ x, s.session sess = some x ∧ x.up = true ∧ x.fn = 0) → exec (.ideKm f sess key) s = .next (s.mail f sess (toBytes 2 0x14)))))

/-- A step takes the command at the front of the queue and runs it on the state with the rest of the queue; with no command the block
idles (log entry 1). -/
def Obligations.StepRunsTheFrontCommand : Prop :=
  ∀ (s : State) (c : Instr) (cs : List Instr),
    (s.pending = c :: cs → step s = exec c { s with pending := cs }) ∧ (s.pending = [] → step s = .next s)

/-- 00 R3, R5: every command that names units the module has runs to a next state, in every state; one that names a unit the module does
not have stops as a fault of an absent unit; none is refused. -/
def Obligations.EveryCommandOfAPresentUnitGoesOn : Prop :=
  ∀ (s : State) (c : Instr),
    (wellFormed s.nDies c = true → ∃ t, exec c s = .next t) ∧ (wellFormed s.nDies c = false → exec c s = .fault .absentUnit)

/-- The state of the module right after reset is in canonical form, its queue is empty, and it holds the values the spec gives: partitions
NONE (16 R683), job tags and rings out of service (10 R446, 14 R630), every context FREE (10 R403), every bank RELEASED and every wort
row FREE (02 R65, R91), every kettle register 0 (12 R540), the credits of every link full (02 R89), the module without a number (01 R42),
the recipe's step counters at their reset values, and memory zero (17 R726). The variant, QBM8-640, is the model's choice (log entry 3). -/
def Obligations.ResetHoldsTheValuesOfTheSpec : Prop :=
  let s := State.reset
  s.canon = true ∧ s.pending = [] ∧ s.variant = .qbm8 ∧ s.nDies = 8 ∧
  (∀ p, p < 8 → s.partState p = 0 ∧ s.owned p = false ∧ s.rf 0 (oPartStat p) partStatTdi = 0) ∧
  (∀ d tag, d < 8 → tag < 256 → s.jobEn d tag = false) ∧ (∀ f, f < 9 → s.ringEn f = false) ∧
  (∀ d c, (s.ctx d c).state = cFREE) ∧
  (∀ d v, (s.vat d v).bank0 = bRELEASED ∧ (s.vat d v).bank1 = bRELEASED ∧ (s.vat d v).accum0 = 0 ∧ (s.vat d v).accum1 = 0 ∧
    (s.vat d v).outCred = 32 ∧ (s.vat d v).inq = [] ∧ (s.vat d v).mashQ = []) ∧
  (∀ d, (s.ring d).injCred = 32 ∧ (s.ring d).sendCred = 512 ∧ (s.ring d).landCred = 256 ∧ (s.ring d).long = false) ∧
  (∀ d k, (s.kcore d k).z = [] ∧ (s.kcore d k).j = [] ∧ (s.kcore d k).pend = []) ∧
  (∀ r o, s.peek r o = 0 ∧ s.mark r o = .clean) ∧ s.modNum = 0xFFFF ∧ s.errLog = [] ∧ s.grants = [] ∧ s.jobs = [] ∧
  (∀ p, p < 8 → s.rf 0 (oKscCtrl p) kscCtrlSkiplim = 16 ∧ s.rf 0 (oKscCtrl p) kscCtrlSkipcnt = 0) ∧
  s.rf 0 oErrCecfg errCecfgCethr = 1024 ∧ s.rf 0 oPwrStat pwrStatLevel = 0

/-- Every step from a state in canonical form leaves one in canonical form: bytes, marks and registers that read as their unlisted value are
not listed, and every table's keys rise, so that equal machines are equal data. -/
def Obligations.StepKeepsTheCanonicalForm : Prop :=
  ∀ (s t : State), s.canon = true → stepsTo s t → t.canon = true

/-- A step takes at most the one command it runs from the queue, never changes which variant the module is (00 R3), and never takes a number
of a cellar key back (16 R695). -/
def Obligations.StepKeepsTheModuleAndConsumesOneCommand : Prop :=
  ∀ (s t : State), stepsTo s t → t.pending = s.pending.tail ∧ t.variant = s.variant ∧ s.keyCtr ≤ t.keyCtr
end

