-- ==== Sys2Proof/Laws/Maps.lean ====
section
/-!
SUPPORT. Sys2Proof/Laws/Maps.lean: what the operations of a sparse map do: the value read back, the other values, the canonical form.
-/
namespace Sys2Proof.Machine

variable {α β : Type}

/-! ## Keys below -/

theorem mlow_trans {j k : Nat} {m : SMap α} (h : j ≤ k) (hl : mlow k m = true) : mlow j m = true := by
  cases m with
  | nil => rfl
  | cons e m => simp only [mlow, decide_eq_true_eq] at *; omega

theorem mfind_of_low {k : Nat} {m : SMap α} (h : mlow k m = true) : mfind m k = none := by
  cases m with
  | nil => rfl
  | cons e m =>
    obtain ⟨j, x⟩ := e
    simp only [mlow, decide_eq_true_eq] at h
    simp only [mfind]
    rw [if_neg (by omega), if_pos h]

theorem mlow_mput {k j : Nat} {x : α} {m : SMap α} (hk : j < k) (h : mlow j m = true) : mlow j (mput m k x) = true := by
  cases m with
  | nil => simpa [mput, mlow] using hk
  | cons e m =>
    obtain ⟨i, y⟩ := e
    simp only [mlow, decide_eq_true_eq] at h
    simp only [mput]
    split
    · simpa [mlow] using hk
    · split <;> simp only [mlow, decide_eq_true_eq] <;> omega

theorem mlow_mdel {k j : Nat} {m : SMap α} (hm : mrising m = true) (h : mlow j m = true) : mlow j (mdel m k) = true := by
  cases m with
  | nil => rfl
  | cons e m =>
    obtain ⟨i, y⟩ := e
    simp only [mrising, Bool.and_eq_true] at hm
    simp only [mlow, decide_eq_true_eq] at h
    simp only [mdel]
    split
    · exact mlow_trans (by omega) hm.1
    · split <;> simpa [mlow] using h

/-! ## The keys stay rising -/

theorem mrising_mput {m : SMap α} (k : Nat) (x : α) (h : mrising m = true) : mrising (mput m k x) = true := by
  induction m with
  | nil => rfl
  | cons e m ih =>
    obtain ⟨j, y⟩ := e
    simp only [mrising, Bool.and_eq_true] at h
    simp only [mput]
    split
    · subst_vars; simp only [mrising, h.1, h.2, Bool.and_self]
    · split
      · rename_i hjk; simp only [mrising, Bool.and_eq_true]; exact ⟨decide_eq_true hjk, h.1, h.2⟩
      · simp only [mrising, Bool.and_eq_true]
        exact ⟨mlow_mput (by omega) h.1, ih h.2⟩

theorem mrising_mdel {m : SMap α} (k : Nat) (h : mrising m = true) : mrising (mdel m k) = true := by
  induction m with
  | nil => rfl
  | cons e m ih =>
    obtain ⟨j, y⟩ := e
    have h' := h
    simp only [mrising, Bool.and_eq_true] at h
    simp only [mdel]
    split
    · exact h.2
    · split
      · exact h'
      · simp only [mrising, Bool.and_eq_true]
        exact ⟨mlow_mdel h.2 h.1, ih h.2⟩

/-- Setting a key lists it or drops its entry. -/
theorem mset_eq [DecidableEq α] (d : Nat → α) (m : SMap α) (k : Nat) (x : α) :
    mset d m k x = if x = d k then mdel m k else mput m k x := by
  induction m with
  | nil => simp only [mset, mdel, mput]
  | cons e m ih =>
    obtain ⟨j, y⟩ := e
    simp only [mset, mdel, mput, ih]
    split <;> split <;> (try split) <;> rfl

theorem mrising_mset [DecidableEq α] {d : Nat → α} {m : SMap α} (k : Nat) (x : α) (h : mrising m = true) :
    mrising (mset d m k x) = true := by
  rw [mset_eq]
  split
  · exact mrising_mdel k h
  · exact mrising_mput k x h

/-- A map stays rising when some of its entries are dropped and others given another value under the same key. -/
theorem mrising_filterMap {m : SMap α} {f : Nat × α → Option (Nat × β)} (hf : ∀ e e', f e = some e' → e'.1 = e.1)
    (h : mrising m = true) : mrising (m.filterMap f) = true := by
  have low : ∀ (m : SMap α) (j : Nat), mrising m = true → mlow j m = true → mlow j (m.filterMap f) = true := by
    intro m
    induction m with
    | nil => intros; rfl
    | cons e m ih =>
      intro j hm hl
      simp only [mrising, Bool.and_eq_true] at hm
      simp only [mlow, decide_eq_true_eq] at hl
      cases hfe : f e with
      | none => rw [List.filterMap_cons_none hfe]; exact ih j hm.2 (mlow_trans (by omega) hm.1)
      | some e' =>
        rw [List.filterMap_cons_some hfe]
        simp only [mlow, decide_eq_true_eq, hf e e' hfe]; exact hl
  induction m with
  | nil => rfl
  | cons e m ih =>
    simp only [mrising, Bool.and_eq_true] at h
    cases hfe : f e with
    | none => rw [List.filterMap_cons_none hfe]; exact ih h.2
    | some e' =>
      rw [List.filterMap_cons_some hfe]
      simp only [mrising, Bool.and_eq_true, hf e e' hfe]
      exact ⟨low m _ h.2 h.1, ih h.2⟩

theorem mrising_filter {m : SMap α} (p : Nat × α → Bool) (h : mrising m = true) : mrising (m.filter p) = true := by
  rw [← List.filterMap_eq_filter]
  refine mrising_filterMap ?_ h
  intro e e' he
  simp only [Option.guard] at he
  split at he <;> simp_all

theorem mrising_map {m : SMap α} {f : Nat × α → Nat × β} (hf : ∀ e, (f e).1 = e.1) (h : mrising m = true) :
    mrising (m.map f) = true := by
  rw [← List.filterMap_eq_map]
  refine mrising_filterMap ?_ h
  intro e e' he
  simp only [Function.comp, Option.some.injEq] at he
  rw [← he, hf]

/-! ## Values read back -/

theorem mfind_mput_same (m : SMap α) (k : Nat) (x : α) : mfind (mput m k x) k = some x := by
  induction m with
  | nil => simp [mput, mfind]
  | cons e m ih =>
    obtain ⟨j, y⟩ := e
    simp only [mput]
    split
    · simp [mfind]
    · split
      · simp [mfind]
      · simp only [mfind]
        rw [if_neg (by omega), if_neg (by omega), ih]

theorem mfind_mput_ne (m : SMap α) {k k' : Nat} (x : α) (h : k' ≠ k) : mfind (mput m k x) k' = mfind m k' := by
  induction m with
  | nil =>
    simp only [mput, mfind]
    rw [if_neg (by omega)]; split <;> rfl
  | cons e m ih =>
    obtain ⟨j, y⟩ := e
    simp only [mput]
    split
    · subst_vars
      simp only [mfind]
      simp only [if_neg (Ne.symm h)]
    · split
      · simp only [mfind]
        rw [if_neg (by omega : ¬ k = k')]
        split
        · rw [if_neg (by omega), if_pos (by omega)]
        · rfl
      · simp only [mfind, ih]

theorem mfind_mdel_same {m : SMap α} (k : Nat) (h : mrising m = true) : mfind (mdel m k) k = none := by
  induction m with
  | nil => rfl
  | cons e m ih =>
    obtain ⟨j, y⟩ := e
    simp only [mrising, Bool.and_eq_true] at h
    simp only [mdel]
    split
    · subst_vars; exact mfind_of_low h.1
    · split
      · simp only [mfind]; rw [if_neg (by omega), if_pos (by omega)]
      · simp only [mfind]; rw [if_neg (by omega), if_neg (by omega), ih h.2]

theorem mfind_mdel_ne {m : SMap α} {k k' : Nat} (hm : mrising m = true) (h : k' ≠ k) : mfind (mdel m k) k' = mfind m k' := by
  induction m with
  | nil => rfl
  | cons e m ih =>
    obtain ⟨j, y⟩ := e
    simp only [mrising, Bool.and_eq_true] at hm
    simp only [mdel]
    split
    · subst_vars
      simp only [mfind]
      rw [if_neg (by omega)]
      split
      · exact mfind_of_low (mlow_trans (by omega) hm.1)
      · rfl
    · split
      · rfl
      · simp only [mfind, ih hm.2]

/-- What a key holds after it is set. -/
theorem mget_mset_same [DecidableEq α] {d : Nat → α} {m : SMap α} (k : Nat) (x : α) (h : mrising m = true) :
    mget d (mset d m k x) k = x := by
  unfold mget; rw [mset_eq]
  split
  · rw [mfind_mdel_same k h]; simp_all
  · rw [mfind_mput_same]; rfl

/-- Setting a key leaves every other key alone. -/
theorem mget_mset_ne [DecidableEq α] {d : Nat → α} {m : SMap α} {k k' : Nat} (x : α) (hm : mrising m = true) (h : k' ≠ k) :
    mget d (mset d m k x) k' = mget d m k' := by
  unfold mget; rw [mset_eq]
  split
  · rw [mfind_mdel_ne hm h]
  · rw [mfind_mput_ne _ _ h]

/-! ## The canonical form -/

theorem mwf_mrising [DecidableEq α] {d : Nat → α} {m : SMap α} (h : mwf d m = true) : mrising m = true := by
  simp only [mwf, Bool.and_eq_true] at h; exact h.1

theorem mem_mput {m : SMap α} {k : Nat} {x : α} {e : Nat × α} (h : e ∈ mput m k x) : e = (k, x) ∨ e ∈ m := by
  induction m with
  | nil => simp only [mput, List.mem_singleton] at h; exact .inl h
  | cons f m ih =>
    obtain ⟨j, y⟩ := f
    simp only [mput] at h
    split at h
    · rcases List.mem_cons.mp h with h | h
      · exact .inl h
      · exact .inr (List.mem_cons_of_mem _ h)
    · split at h
      · rcases List.mem_cons.mp h with h | h
        · exact .inl h
        · exact .inr h
      · rcases List.mem_cons.mp h with h | h
        · exact .inr (h ▸ List.mem_cons_self ..)
        · rcases ih h with h | h
          · exact .inl h
          · exact .inr (List.mem_cons_of_mem _ h)

theorem mem_mdel {m : SMap α} {k : Nat} {e : Nat × α} (h : e ∈ mdel m k) : e ∈ m := by
  induction m with
  | nil => exact h
  | cons f m ih =>
    obtain ⟨j, y⟩ := f
    simp only [mdel] at h
    split at h
    · exact List.mem_cons_of_mem _ h
    · split at h
      · exact h
      · rcases List.mem_cons.mp h with h | h
        · exact h ▸ List.mem_cons_self ..
        · exact List.mem_cons_of_mem _ (ih h)

/-- Setting a key keeps the canonical form. -/
theorem mwf_mset [DecidableEq α] {d : Nat → α} {m : SMap α} (k : Nat) (x : α) (h : mwf d m = true) :
    mwf d (mset d m k x) = true := by
  have hr := mwf_mrising h
  simp only [mwf, Bool.and_eq_true, List.all_eq_true, decide_eq_true_eq] at h ⊢
  refine ⟨mrising_mset k x hr, ?_⟩
  intro e he
  rw [mset_eq] at he
  split at he
  · exact h.2 e (mem_mdel he)
  · rcases mem_mput he with rfl | he
    · assumption
    · exact h.2 e he

/-- Dropping entries keeps the canonical form. -/
theorem mwf_filter [DecidableEq α] {d : Nat → α} {m : SMap α} (p : Nat × α → Bool) (h : mwf d m = true) :
    mwf d (m.filter p) = true := by
  have hr := mwf_mrising h
  simp only [mwf, Bool.and_eq_true, List.all_eq_true, decide_eq_true_eq] at h ⊢
  exact ⟨mrising_filter p hr, fun e he => h.2 e (List.mem_filter.mp he).1⟩

end Sys2Proof.Machine
end

