-- ==== Sys2Proof/Laws/Canon.lean ====
section
/-!
SUPPORT. Sys2Proof/Laws/Canon.lean: what the canonical form of a state says of each of its sparse parts.
-/
namespace Sys2Proof.Machine

section
variable {s : State} (h : s.canon = true)
include h

theorem State.canon_mem : mwf memDefault s.mem = true := by
  simp only [State.canon, Bool.and_eq_true] at h; exact h.1.1.1

theorem State.canon_marks : mwf markDefault s.marks = true := by
  simp only [State.canon, Bool.and_eq_true] at h; exact h.1.1.2

theorem State.canon_regs : mwf regDefault s.regs = true := by
  simp only [State.canon, Bool.and_eq_true] at h; exact h.1.2

theorem State.canon_mem_rising : mrising s.mem = true := mwf_mrising (State.canon_mem h)
theorem State.canon_marks_rising : mrising s.marks = true := mwf_mrising (State.canon_marks h)
theorem State.canon_regs_rising : mrising s.regs = true := mwf_mrising (State.canon_regs h)

theorem State.canon_sorted : s.sorted = true := by
  simp only [State.canon, Bool.and_eq_true] at h; exact h.2

theorem State.canon_ctxs : mrising s.ctxs = true := by
  have := State.canon_sorted h; simp only [State.sorted, Bool.and_eq_true] at this; simp only [this]
theorem State.canon_vats : mrising s.vats = true := by
  have := State.canon_sorted h; simp only [State.sorted, Bool.and_eq_true] at this; simp only [this]
theorem State.canon_rings : mrising s.rings = true := by
  have := State.canon_sorted h; simp only [State.sorted, Bool.and_eq_true] at this; simp only [this]
theorem State.canon_hyd : mrising s.hyd = true := by
  have := State.canon_sorted h; simp only [State.sorted, Bool.and_eq_true] at this; simp only [this]
theorem State.canon_fns : mrising s.fns = true := by
  have := State.canon_sorted h; simp only [State.sorted, Bool.and_eq_true] at this; simp only [this]
theorem State.canon_ceSeen : mrising s.ceSeen = true := by
  have := State.canon_sorted h; simp only [State.sorted, Bool.and_eq_true] at this; simp only [this]
theorem State.canon_slotOwn : mrising s.slotOwn = true := by
  have := State.canon_sorted h; simp only [State.sorted, Bool.and_eq_true] at this; simp only [this]
theorem State.canon_ports : mrising s.ports = true := by
  have := State.canon_sorted h; simp only [State.sorted, Bool.and_eq_true] at this; simp only [this]
theorem State.canon_seen : mrising s.seen = true := by
  have := State.canon_sorted h; simp only [State.sorted, Bool.and_eq_true] at this; simp only [this]
theorem State.canon_keys : mrising s.keys = true := by
  have := State.canon_sorted h; simp only [State.sorted, Bool.and_eq_true] at this; simp only [this]
theorem State.canon_rackqs : mrising s.rackqs = true := by
  have := State.canon_sorted h; simp only [State.sorted, Bool.and_eq_true] at this; simp only [this]
theorem State.canon_tunOwn : mrising s.tunOwn = true := by
  have := State.canon_sorted h; simp only [State.sorted, Bool.and_eq_true] at this; simp only [this]
theorem State.canon_ledNew : mrising s.ledNew = true := by
  have := State.canon_sorted h; simp only [State.sorted, Bool.and_eq_true] at this; simp only [this]
theorem State.canon_specRows : mrising s.specRows = true := by
  have := State.canon_sorted h; simp only [State.sorted, Bool.and_eq_true] at this; simp only [this]
theorem State.canon_abortRk : mrising s.abortRk = true := by
  have := State.canon_sorted h; simp only [State.sorted, Bool.and_eq_true] at this; simp only [this]
theorem State.canon_abortTun : mrising s.abortTun = true := by
  have := State.canon_sorted h; simp only [State.sorted, Bool.and_eq_true] at this; simp only [this]
theorem State.canon_drainRk : mrising s.drainRk = true := by
  have := State.canon_sorted h; simp only [State.sorted, Bool.and_eq_true] at this; simp only [this]
theorem State.canon_drainTun : mrising s.drainTun = true := by
  have := State.canon_sorted h; simp only [State.sorted, Bool.and_eq_true] at this; simp only [this]
theorem State.canon_accq : mrising s.accq = true := by
  have := State.canon_sorted h; simp only [State.sorted, Bool.and_eq_true] at this; simp only [this]
theorem State.canon_tslots : mrising s.tslots = true := by
  have := State.canon_sorted h; simp only [State.sorted, Bool.and_eq_true] at this; simp only [this]
theorem State.canon_dieHbAge : mrising s.dieHbAge = true := by
  have := State.canon_sorted h; simp only [State.sorted, Bool.and_eq_true] at this; simp only [this]
theorem State.canon_jobs : mrising s.jobs = true := by
  have := State.canon_sorted h; simp only [State.sorted, Bool.and_eq_true] at this; simp only [this]
theorem State.canon_inocLeft : mrising s.inocLeft = true := by
  have := State.canon_sorted h; simp only [State.sorted, Bool.and_eq_true] at this; simp only [this]
theorem State.canon_kcores : mrising s.kcores = true := by
  have := State.canon_sorted h; simp only [State.sorted, Bool.and_eq_true] at this; simp only [this]
theorem State.canon_rkLast : mrising s.rkLast = true := by
  have := State.canon_sorted h; simp only [State.sorted, Bool.and_eq_true] at this; simp only [this]
theorem State.canon_turnTile : mrising s.turnTile = true := by
  have := State.canon_sorted h; simp only [State.sorted, Bool.and_eq_true] at this; simp only [this]
theorem State.canon_parts : mrising s.parts = true := by
  have := State.canon_sorted h; simp only [State.sorted, Bool.and_eq_true] at this; simp only [this]
theorem State.canon_bmrs : mrising s.bmrs = true := by
  have := State.canon_sorted h; simp only [State.sorted, Bool.and_eq_true] at this; simp only [this]
theorem State.canon_levels : mrising s.levels = true := by
  have := State.canon_sorted h; simp only [State.sorted, Bool.and_eq_true] at this; simp only [this]
theorem State.canon_calm : mrising s.calm = true := by
  have := State.canon_sorted h; simp only [State.sorted, Bool.and_eq_true] at this; simp only [this]
theorem State.canon_dieLevel : mrising s.dieLevel = true := by
  have := State.canon_sorted h; simp only [State.sorted, Bool.and_eq_true] at this; simp only [this]
theorem State.canon_taps : mrising s.taps = true := by
  have := State.canon_sorted h; simp only [State.sorted, Bool.and_eq_true] at this; simp only [this]

end

end Sys2Proof.Machine
end

