-- ==== Sys2Proof/Laws/Rows.lean ====
section
/-!
SUPPORT. Sys2Proof/Laws/Rows.lean: what the shared shapes of commands answer: an instruction a context presents, a kettle group, a
synchronisation instruction.
-/
namespace Sys2Proof.Machine

/-- An instruction of the row's opcode that a context of the row's engine presents: the row's body answers. -/
theorem issue_presents {eng opc : Nat → Bool} {aux d c : Nat} {s : State} {w : InstrWord} {body : InstrWord → State}
    (h : s.presents d c w) (he : eng (ctxEng c) = true) (ho : opc (wbits w 0 8) = true) :
    issue eng opc aux d c s body = .next (body w) := by
  simp [issue, h.1, h.2, he, ho]

/-- A kettle group that the core can take: poison of its address, its late checks, other poison, its body. -/
theorem ketRow_takes {opc d c : Nat} {s : State} {w : InstrWord} {addr psn : KCore → InstrWord → Bool}
    {late : KCore → InstrWord → List (Bool × Nat)} {body : KCore → InstrWord → State} (h : s.ketTakes opc d c w) :
    ketRow opc d c s addr late psn body = .next (if addr (s.kcore d (ctxInst c)) w then s.ketPoison d c 0 else
      match firstFail (late (s.kcore d (ctxInst c)) w) with
      | some k => s.reject d c k 0
      | none => if psn (s.kcore d (ctxInst c)) w then s.ketPoison d c 0 else body (s.kcore d (ctxInst c)) w) := by
  obtain ⟨hp, he, ho, hb, hz, hx, hr, hm, hn⟩ := h
  have hx' : ¬ ((kForm w).xfer = true ∧ (s.kcore d (ctxInst c)).pend ≠ []) := fun h => h.2 (hx h.1)
  unfold ketRow
  rw [issue_presents hp (by simp [he]) (by simp [ho])]
  simp only [hb, hz, hr, hm, hn, firstFail, hx', or_self, if_false, Bool.false_eq_true] <;> rfl

/-- A lane operation that the core can take pends its results. -/
theorem laneRow_takes {opc d c : Nat} {s : State} {w : InstrWord} {f : KCore → InstrWord → List (Nat × Word32 × Bool)}
    (h : s.ketTakes opc d c w) :
    laneRow opc d c s f = .next (s.ketCompute d c w (f (s.kcore d (ctxInst c)) w) []) := by
  unfold laneRow; rw [ketRow_takes h]; simp [noLate, noPsn, firstFail]

/-- Without an inoculation of the check lanes the results pend as they are. -/
theorem ketCompute_plain {s : State} {d c : Nat} (h : (s.inoc d).point ≠ 0x20) (w : InstrWord) (zw : List (Nat × Word32 × Bool))
    (jw : List (Nat × Word64 × Bool)) :
    s.ketCompute d c w zw jw = (s.ketGroup d c).ketPend d c { word := w, zw := zw, jw := jw } := by
  simp [State.ketCompute, State.checkLanes, h]

/-- A synchronisation instruction that the engine can take and no check rejects: its body, and the count of a kettle core. -/
theorem syncRow_takes {opc d c : Nat} {s : State} {w : InstrWord} {checks : InstrWord → List (Bool × Nat)} {body : InstrWord → State}
    (h : s.syncTakes opc d c w) (hk : firstFail (checks w) = none) (h1 : ((body w).ctx d c).state ≠ cHOLD)
    (h2 : ((body w).ctx d c).state ≠ cSTOPPED) :
    syncRow opc d c s checks body = .next (syncLeaves d c (body w)) := by
  obtain ⟨hp, ho, hb⟩ := h
  unfold syncRow
  rw [issue_presents hp rfl (by simp [ho])]
  have hb' : ¬ (ctxEng c = 1 ∧ s.coreBusy d c = true) := fun h => by simp [hb h.1] at h
  simp [hb', hk, h1, h2, syncLeaves]

/-- A message of the row's type that is delivered on the channel and can cross to its die: the row's body answers. -/
theorem msgRow_delivers {typ d i ch : Nat} {s : State} {m : Msg} {body : Msg → State} (hp : s.hasPort d i = true) (hc : ch < 15)
    (hm : (s.rxch d i ch).msg = some m) (ht : m.typ = typ)
    (hx : s.crosses d ch m = true) : msgRow typ d i ch s body = .next (body m) := by
  have hc' : ¬ 15 ≤ ch := by omega
  simp [msgRow, hp, hc', hm, ht, hx]

/-- A ring that holds a packet takes no other. -/
theorem take_held {s : State} {f rd : Nat} {p : Pkt} (h : (s.fn f).cur = some p) : s.take f rd = s := by
  have h' : s.mayTake f = false := by simp [State.mayTake, h]
  unfold State.take; rw [h']; rfl

/-- The packet that a ring holds and may begin: the row's body answers. -/
theorem hostRow_runs {opc f : Nat} {s : State} {p : Pkt} {body : Pkt → State → State} (h : s.hostRuns f opc p) :
    hostRow opc f s body = .next (body p s) := by
  obtain ⟨h1, h2, h3, h4, h5, h6⟩ := h
  have h1' : ¬ 9 ≤ f := by omega
  unfold hostRow; rw [if_neg h1', take_held h2]; simp [h2, h3, h4, h5, h6]

end Sys2Proof.Machine
end

