-- ==== Sys2Proof/Laws/State.lean ====
section
/-!
SUPPORT. Sys2Proof/Laws/State.lean: what each named update of the state leaves in each field, and what each named read sees after it,
so that no proof unfolds a record update.
-/
namespace Sys2Proof.Machine

/-! ## putCtx -/

section
variable (s : State) (d c : Nat) (x : Ctx)

@[simp] theorem State.putCtx_pending : (s.putCtx d c x).pending = s.pending := rfl
@[simp] theorem State.putCtx_freeCtr : (s.putCtx d c x).freeCtr = s.freeCtr := rfl
@[simp] theorem State.putCtx_variant : (s.putCtx d c x).variant = s.variant := rfl
@[simp] theorem State.putCtx_regs : (s.putCtx d c x).regs = s.regs := rfl
@[simp] theorem State.putCtx_mem : (s.putCtx d c x).mem = s.mem := rfl
@[simp] theorem State.putCtx_marks : (s.putCtx d c x).marks = s.marks := rfl
@[simp] theorem State.putCtx_vats : (s.putCtx d c x).vats = s.vats := rfl
@[simp] theorem State.putCtx_rings : (s.putCtx d c x).rings = s.rings := rfl
@[simp] theorem State.putCtx_hyd : (s.putCtx d c x).hyd = s.hyd := rfl
@[simp] theorem State.putCtx_fns : (s.putCtx d c x).fns = s.fns := rfl
@[simp] theorem State.putCtx_reports : (s.putCtx d c x).reports = s.reports := rfl
@[simp] theorem State.putCtx_errLog : (s.putCtx d c x).errLog = s.errLog := rfl
@[simp] theorem State.putCtx_errIndex : (s.putCtx d c x).errIndex = s.errIndex := rfl
@[simp] theorem State.putCtx_flashLog : (s.putCtx d c x).flashLog = s.flashLog := rfl
@[simp] theorem State.putCtx_ceSeen : (s.putCtx d c x).ceSeen = s.ceSeen := rfl
@[simp] theorem State.putCtx_time : (s.putCtx d c x).time = s.time := rfl
@[simp] theorem State.putCtx_commitWait : (s.putCtx d c x).commitWait = s.commitWait := rfl
@[simp] theorem State.putCtx_commitRun : (s.putCtx d c x).commitRun = s.commitRun := rfl
@[simp] theorem State.putCtx_deferred : (s.putCtx d c x).deferred = s.deferred := rfl
@[simp] theorem State.putCtx_pcieUp : (s.putCtx d c x).pcieUp = s.pcieUp := rfl
@[simp] theorem State.putCtx_bondReports : (s.putCtx d c x).bondReports = s.bondReports := rfl
@[simp] theorem State.putCtx_modNum : (s.putCtx d c x).modNum = s.modNum := rfl
@[simp] theorem State.putCtx_grants : (s.putCtx d c x).grants = s.grants := rfl
@[simp] theorem State.putCtx_grantsNew : (s.putCtx d c x).grantsNew = s.grantsNew := rfl
@[simp] theorem State.putCtx_slotOwn : (s.putCtx d c x).slotOwn = s.slotOwn := rfl
@[simp] theorem State.putCtx_ports : (s.putCtx d c x).ports = s.ports := rfl
@[simp] theorem State.putCtx_seen : (s.putCtx d c x).seen = s.seen := rfl
@[simp] theorem State.putCtx_keys : (s.putCtx d c x).keys = s.keys := rfl
@[simp] theorem State.putCtx_nextInjDie : (s.putCtx d c x).nextInjDie = s.nextInjDie := rfl
@[simp] theorem State.putCtx_longTag : (s.putCtx d c x).longTag = s.longTag := rfl
@[simp] theorem State.putCtx_nextRid : (s.putCtx d c x).nextRid = s.nextRid := rfl
@[simp] theorem State.putCtx_rackqs : (s.putCtx d c x).rackqs = s.rackqs := rfl
@[simp] theorem State.putCtx_rackSeq : (s.putCtx d c x).rackSeq = s.rackSeq := rfl
@[simp] theorem State.putCtx_rkLast : (s.putCtx d c x).rkLast = s.rkLast := rfl
@[simp] theorem State.putCtx_turnTile : (s.putCtx d c x).turnTile = s.turnTile := rfl
@[simp] theorem State.putCtx_tunOwn : (s.putCtx d c x).tunOwn = s.tunOwn := rfl
@[simp] theorem State.putCtx_ledNew : (s.putCtx d c x).ledNew = s.ledNew := rfl
@[simp] theorem State.putCtx_specRows : (s.putCtx d c x).specRows = s.specRows := rfl
@[simp] theorem State.putCtx_abortRk : (s.putCtx d c x).abortRk = s.abortRk := rfl
@[simp] theorem State.putCtx_abortTun : (s.putCtx d c x).abortTun = s.abortTun := rfl
@[simp] theorem State.putCtx_drainRk : (s.putCtx d c x).drainRk = s.drainRk := rfl
@[simp] theorem State.putCtx_drainTun : (s.putCtx d c x).drainTun = s.drainTun := rfl
@[simp] theorem State.putCtx_accq : (s.putCtx d c x).accq = s.accq := rfl
@[simp] theorem State.putCtx_cplValue : (s.putCtx d c x).cplValue = s.cplValue := rfl
@[simp] theorem State.putCtx_backs : (s.putCtx d c x).backs = s.backs := rfl
@[simp] theorem State.putCtx_tslots : (s.putCtx d c x).tslots = s.tslots := rfl
@[simp] theorem State.putCtx_tunq : (s.putCtx d c x).tunq = s.tunq := rfl
@[simp] theorem State.putCtx_abortSerial : (s.putCtx d c x).abortSerial = s.abortSerial := rfl
@[simp] theorem State.putCtx_dieHbAge : (s.putCtx d c x).dieHbAge = s.dieHbAge := rfl
@[simp] theorem State.putCtx_jobs : (s.putCtx d c x).jobs = s.jobs := rfl
@[simp] theorem State.putCtx_lostDies : (s.putCtx d c x).lostDies = s.lostDies := rfl
@[simp] theorem State.putCtx_failed : (s.putCtx d c x).failed = s.failed := rfl
@[simp] theorem State.putCtx_slotHeld : (s.putCtx d c x).slotHeld = s.slotHeld := rfl
@[simp] theorem State.putCtx_caps : (s.putCtx d c x).caps = s.caps := rfl
@[simp] theorem State.putCtx_stages : (s.putCtx d c x).stages = s.stages := rfl
@[simp] theorem State.putCtx_inocLeft : (s.putCtx d c x).inocLeft = s.inocLeft := rfl
@[simp] theorem State.putCtx_kcores : (s.putCtx d c x).kcores = s.kcores := rfl
@[simp] theorem State.putCtx_parts : (s.putCtx d c x).parts = s.parts := rfl
@[simp] theorem State.putCtx_sessions : (s.putCtx d c x).sessions = s.sessions := rfl
@[simp] theorem State.putCtx_nextSess : (s.putCtx d c x).nextSess = s.nextSess := rfl
@[simp] theorem State.putCtx_changes : (s.putCtx d c x).changes = s.changes := rfl
@[simp] theorem State.putCtx_fenceRun : (s.putCtx d c x).fenceRun = s.fenceRun := rfl
@[simp] theorem State.putCtx_fenceOld : (s.putCtx d c x).fenceOld = s.fenceOld := rfl
@[simp] theorem State.putCtx_keyCtr : (s.putCtx d c x).keyCtr = s.keyCtr := rfl
@[simp] theorem State.putCtx_fwKey : (s.putCtx d c x).fwKey = s.fwKey := rfl
@[simp] theorem State.putCtx_bmrs : (s.putCtx d c x).bmrs = s.bmrs := rfl
@[simp] theorem State.putCtx_imgSvns : (s.putCtx d c x).imgSvns = s.imgSvns := rfl
@[simp] theorem State.putCtx_aliasKey : (s.putCtx d c x).aliasKey = s.aliasKey := rfl
@[simp] theorem State.putCtx_certs : (s.putCtx d c x).certs = s.certs := rfl
@[simp] theorem State.putCtx_flashGen : (s.putCtx d c x).flashGen = s.flashGen := rfl
@[simp] theorem State.putCtx_recipes : (s.putCtx d c x).recipes = s.recipes := rfl
@[simp] theorem State.putCtx_erased : (s.putCtx d c x).erased = s.erased := rfl
@[simp] theorem State.putCtx_recipe : (s.putCtx d c x).recipe = s.recipe := rfl
@[simp] theorem State.putCtx_recipeNow : (s.putCtx d c x).recipeNow = s.recipeNow := rfl
@[simp] theorem State.putCtx_levels : (s.putCtx d c x).levels = s.levels := rfl
@[simp] theorem State.putCtx_calm : (s.putCtx d c x).calm = s.calm := rfl
@[simp] theorem State.putCtx_dieLevel : (s.putCtx d c x).dieLevel = s.dieLevel := rfl
@[simp] theorem State.putCtx_phase : (s.putCtx d c x).phase = s.phase := rfl
@[simp] theorem State.putCtx_answered : (s.putCtx d c x).answered = s.answered := rfl
@[simp] theorem State.putCtx_trip : (s.putCtx d c x).trip = s.trip := rfl
@[simp] theorem State.putCtx_smbAlert : (s.putCtx d c x).smbAlert = s.smbAlert := rfl
@[simp] theorem State.putCtx_flashExt : (s.putCtx d c x).flashExt = s.flashExt := rfl
@[simp] theorem State.putCtx_flashWait : (s.putCtx d c x).flashWait = s.flashWait := rfl
@[simp] theorem State.putCtx_taps : (s.putCtx d c x).taps = s.taps := rfl
@[simp] theorem State.putCtx_porSeq : (s.putCtx d c x).porSeq = s.porSeq := rfl
@[simp] theorem State.putCtx_smb : (s.putCtx d c x).smb = s.smb := rfl
@[simp] theorem State.putCtx_smbPec : (s.putCtx d c x).smbPec = s.smbPec := rfl
@[simp] theorem State.putCtx_rdata : (s.putCtx d c x).rdata = s.rdata := rfl
@[simp] theorem State.putCtx_aer : (s.putCtx d c x).aer = s.aer := rfl
@[simp] theorem State.putCtx_unsupported : (s.putCtx d c x).unsupported = s.unsupported := rfl
@[simp] theorem State.putCtx_diag : (s.putCtx d c x).diag = s.diag := rfl
@[simp] theorem State.putCtx_fuseSvn : (s.putCtx d c x).fuseSvn = s.fuseSvn := rfl
@[simp] theorem State.putCtx_get_vat (e u : Nat) : (s.putCtx d c x).vat e u = s.vat e u := rfl
@[simp] theorem State.putCtx_get_ring (e : Nat) : (s.putCtx d c x).ring e = s.ring e := rfl
@[simp] theorem State.putCtx_get_fn (e : Nat) : (s.putCtx d c x).fn e = s.fn e := rfl
@[simp] theorem State.putCtx_get_reg (e u : Nat) : (s.putCtx d c x).reg e u = s.reg e u := rfl
@[simp] theorem State.putCtx_get_rf (e u : Nat) (g : Fld) : (s.putCtx d c x).rf e u g = s.rf e u g := rfl
@[simp] theorem State.putCtx_get_peek (rg : Region) (u : Nat) : (s.putCtx d c x).peek rg u = s.peek rg u := rfl
@[simp] theorem State.putCtx_get_mark (rg : Region) (u : Nat) : (s.putCtx d c x).mark rg u = s.mark rg u := rfl
@[simp] theorem State.putCtx_get_nDies : (s.putCtx d c x).nDies = s.nDies := rfl
@[simp] theorem State.putCtx_get_hasDie (e : Nat) : (s.putCtx d c x).hasDie e = s.hasDie e := rfl
@[simp] theorem State.putCtx_get_hasVat (e u : Nat) : (s.putCtx d c x).hasVat e u = s.hasVat e u := rfl
@[simp] theorem State.putCtx_get_hasCtx (e u : Nat) : (s.putCtx d c x).hasCtx e u = s.hasCtx e u := rfl
@[simp] theorem State.putCtx_get_port (e u : Nat) : (s.putCtx d c x).port e u = s.port e u := rfl
@[simp] theorem State.putCtx_get_rackq (e u : Nat) : (s.putCtx d c x).rackq e u = s.rackq e u := rfl
@[simp] theorem State.putCtx_get_kcore (e u : Nat) : (s.putCtx d c x).kcore e u = s.kcore e u := rfl
@[simp] theorem State.putCtx_get_tslot (e u w : Nat) : (s.putCtx d c x).tslot e u w = s.tslot e u w := rfl
@[simp] theorem State.putCtx_get_partRec (e : Nat) : (s.putCtx d c x).partRec e = s.partRec e := rfl
@[simp] theorem State.putCtx_get_job (e : Nat) : (s.putCtx d c x).job e = s.job e := rfl
@[simp] theorem State.putCtx_get_hydSet (e u w : Nat) : (s.putCtx d c x).hydSet e u w = s.hydSet e u w := rfl

end

/-! ## putVat -/

section
variable (s : State) (d v : Nat) (x : Vat)

@[simp] theorem State.putVat_pending : (s.putVat d v x).pending = s.pending := rfl
@[simp] theorem State.putVat_freeCtr : (s.putVat d v x).freeCtr = s.freeCtr := rfl
@[simp] theorem State.putVat_variant : (s.putVat d v x).variant = s.variant := rfl
@[simp] theorem State.putVat_regs : (s.putVat d v x).regs = s.regs := rfl
@[simp] theorem State.putVat_mem : (s.putVat d v x).mem = s.mem := rfl
@[simp] theorem State.putVat_marks : (s.putVat d v x).marks = s.marks := rfl
@[simp] theorem State.putVat_ctxs : (s.putVat d v x).ctxs = s.ctxs := rfl
@[simp] theorem State.putVat_rings : (s.putVat d v x).rings = s.rings := rfl
@[simp] theorem State.putVat_hyd : (s.putVat d v x).hyd = s.hyd := rfl
@[simp] theorem State.putVat_fns : (s.putVat d v x).fns = s.fns := rfl
@[simp] theorem State.putVat_reports : (s.putVat d v x).reports = s.reports := rfl
@[simp] theorem State.putVat_errLog : (s.putVat d v x).errLog = s.errLog := rfl
@[simp] theorem State.putVat_errIndex : (s.putVat d v x).errIndex = s.errIndex := rfl
@[simp] theorem State.putVat_flashLog : (s.putVat d v x).flashLog = s.flashLog := rfl
@[simp] theorem State.putVat_ceSeen : (s.putVat d v x).ceSeen = s.ceSeen := rfl
@[simp] theorem State.putVat_time : (s.putVat d v x).time = s.time := rfl
@[simp] theorem State.putVat_commitWait : (s.putVat d v x).commitWait = s.commitWait := rfl
@[simp] theorem State.putVat_commitRun : (s.putVat d v x).commitRun = s.commitRun := rfl
@[simp] theorem State.putVat_deferred : (s.putVat d v x).deferred = s.deferred := rfl
@[simp] theorem State.putVat_pcieUp : (s.putVat d v x).pcieUp = s.pcieUp := rfl
@[simp] theorem State.putVat_bondReports : (s.putVat d v x).bondReports = s.bondReports := rfl
@[simp] theorem State.putVat_modNum : (s.putVat d v x).modNum = s.modNum := rfl
@[simp] theorem State.putVat_grants : (s.putVat d v x).grants = s.grants := rfl
@[simp] theorem State.putVat_grantsNew : (s.putVat d v x).grantsNew = s.grantsNew := rfl
@[simp] theorem State.putVat_slotOwn : (s.putVat d v x).slotOwn = s.slotOwn := rfl
@[simp] theorem State.putVat_ports : (s.putVat d v x).ports = s.ports := rfl
@[simp] theorem State.putVat_seen : (s.putVat d v x).seen = s.seen := rfl
@[simp] theorem State.putVat_keys : (s.putVat d v x).keys = s.keys := rfl
@[simp] theorem State.putVat_nextInjDie : (s.putVat d v x).nextInjDie = s.nextInjDie := rfl
@[simp] theorem State.putVat_longTag : (s.putVat d v x).longTag = s.longTag := rfl
@[simp] theorem State.putVat_nextRid : (s.putVat d v x).nextRid = s.nextRid := rfl
@[simp] theorem State.putVat_rackqs : (s.putVat d v x).rackqs = s.rackqs := rfl
@[simp] theorem State.putVat_rackSeq : (s.putVat d v x).rackSeq = s.rackSeq := rfl
@[simp] theorem State.putVat_rkLast : (s.putVat d v x).rkLast = s.rkLast := rfl
@[simp] theorem State.putVat_turnTile : (s.putVat d v x).turnTile = s.turnTile := rfl
@[simp] theorem State.putVat_tunOwn : (s.putVat d v x).tunOwn = s.tunOwn := rfl
@[simp] theorem State.putVat_ledNew : (s.putVat d v x).ledNew = s.ledNew := rfl
@[simp] theorem State.putVat_specRows : (s.putVat d v x).specRows = s.specRows := rfl
@[simp] theorem State.putVat_abortRk : (s.putVat d v x).abortRk = s.abortRk := rfl
@[simp] theorem State.putVat_abortTun : (s.putVat d v x).abortTun = s.abortTun := rfl
@[simp] theorem State.putVat_drainRk : (s.putVat d v x).drainRk = s.drainRk := rfl
@[simp] theorem State.putVat_drainTun : (s.putVat d v x).drainTun = s.drainTun := rfl
@[simp] theorem State.putVat_accq : (s.putVat d v x).accq = s.accq := rfl
@[simp] theorem State.putVat_cplValue : (s.putVat d v x).cplValue = s.cplValue := rfl
@[simp] theorem State.putVat_backs : (s.putVat d v x).backs = s.backs := rfl
@[simp] theorem State.putVat_tslots : (s.putVat d v x).tslots = s.tslots := rfl
@[simp] theorem State.putVat_tunq : (s.putVat d v x).tunq = s.tunq := rfl
@[simp] theorem State.putVat_abortSerial : (s.putVat d v x).abortSerial = s.abortSerial := rfl
@[simp] theorem State.putVat_dieHbAge : (s.putVat d v x).dieHbAge = s.dieHbAge := rfl
@[simp] theorem State.putVat_jobs : (s.putVat d v x).jobs = s.jobs := rfl
@[simp] theorem State.putVat_lostDies : (s.putVat d v x).lostDies = s.lostDies := rfl
@[simp] theorem State.putVat_failed : (s.putVat d v x).failed = s.failed := rfl
@[simp] theorem State.putVat_slotHeld : (s.putVat d v x).slotHeld = s.slotHeld := rfl
@[simp] theorem State.putVat_caps : (s.putVat d v x).caps = s.caps := rfl
@[simp] theorem State.putVat_stages : (s.putVat d v x).stages = s.stages := rfl
@[simp] theorem State.putVat_inocLeft : (s.putVat d v x).inocLeft = s.inocLeft := rfl
@[simp] theorem State.putVat_kcores : (s.putVat d v x).kcores = s.kcores := rfl
@[simp] theorem State.putVat_parts : (s.putVat d v x).parts = s.parts := rfl
@[simp] theorem State.putVat_sessions : (s.putVat d v x).sessions = s.sessions := rfl
@[simp] theorem State.putVat_nextSess : (s.putVat d v x).nextSess = s.nextSess := rfl
@[simp] theorem State.putVat_changes : (s.putVat d v x).changes = s.changes := rfl
@[simp] theorem State.putVat_fenceRun : (s.putVat d v x).fenceRun = s.fenceRun := rfl
@[simp] theorem State.putVat_fenceOld : (s.putVat d v x).fenceOld = s.fenceOld := rfl
@[simp] theorem State.putVat_keyCtr : (s.putVat d v x).keyCtr = s.keyCtr := rfl
@[simp] theorem State.putVat_fwKey : (s.putVat d v x).fwKey = s.fwKey := rfl
@[simp] theorem State.putVat_bmrs : (s.putVat d v x).bmrs = s.bmrs := rfl
@[simp] theorem State.putVat_imgSvns : (s.putVat d v x).imgSvns = s.imgSvns := rfl
@[simp] theorem State.putVat_aliasKey : (s.putVat d v x).aliasKey = s.aliasKey := rfl
@[simp] theorem State.putVat_certs : (s.putVat d v x).certs = s.certs := rfl
@[simp] theorem State.putVat_flashGen : (s.putVat d v x).flashGen = s.flashGen := rfl
@[simp] theorem State.putVat_recipes : (s.putVat d v x).recipes = s.recipes := rfl
@[simp] theorem State.putVat_erased : (s.putVat d v x).erased = s.erased := rfl
@[simp] theorem State.putVat_recipe : (s.putVat d v x).recipe = s.recipe := rfl
@[simp] theorem State.putVat_recipeNow : (s.putVat d v x).recipeNow = s.recipeNow := rfl
@[simp] theorem State.putVat_levels : (s.putVat d v x).levels = s.levels := rfl
@[simp] theorem State.putVat_calm : (s.putVat d v x).calm = s.calm := rfl
@[simp] theorem State.putVat_dieLevel : (s.putVat d v x).dieLevel = s.dieLevel := rfl
@[simp] theorem State.putVat_phase : (s.putVat d v x).phase = s.phase := rfl
@[simp] theorem State.putVat_answered : (s.putVat d v x).answered = s.answered := rfl
@[simp] theorem State.putVat_trip : (s.putVat d v x).trip = s.trip := rfl
@[simp] theorem State.putVat_smbAlert : (s.putVat d v x).smbAlert = s.smbAlert := rfl
@[simp] theorem State.putVat_flashExt : (s.putVat d v x).flashExt = s.flashExt := rfl
@[simp] theorem State.putVat_flashWait : (s.putVat d v x).flashWait = s.flashWait := rfl
@[simp] theorem State.putVat_taps : (s.putVat d v x).taps = s.taps := rfl
@[simp] theorem State.putVat_porSeq : (s.putVat d v x).porSeq = s.porSeq := rfl
@[simp] theorem State.putVat_smb : (s.putVat d v x).smb = s.smb := rfl
@[simp] theorem State.putVat_smbPec : (s.putVat d v x).smbPec = s.smbPec := rfl
@[simp] theorem State.putVat_rdata : (s.putVat d v x).rdata = s.rdata := rfl
@[simp] theorem State.putVat_aer : (s.putVat d v x).aer = s.aer := rfl
@[simp] theorem State.putVat_unsupported : (s.putVat d v x).unsupported = s.unsupported := rfl
@[simp] theorem State.putVat_diag : (s.putVat d v x).diag = s.diag := rfl
@[simp] theorem State.putVat_fuseSvn : (s.putVat d v x).fuseSvn = s.fuseSvn := rfl
@[simp] theorem State.putVat_get_ctx (e u : Nat) : (s.putVat d v x).ctx e u = s.ctx e u := rfl
@[simp] theorem State.putVat_get_ring (e : Nat) : (s.putVat d v x).ring e = s.ring e := rfl
@[simp] theorem State.putVat_get_fn (e : Nat) : (s.putVat d v x).fn e = s.fn e := rfl
@[simp] theorem State.putVat_get_reg (e u : Nat) : (s.putVat d v x).reg e u = s.reg e u := rfl
@[simp] theorem State.putVat_get_rf (e u : Nat) (g : Fld) : (s.putVat d v x).rf e u g = s.rf e u g := rfl
@[simp] theorem State.putVat_get_peek (rg : Region) (u : Nat) : (s.putVat d v x).peek rg u = s.peek rg u := rfl
@[simp] theorem State.putVat_get_mark (rg : Region) (u : Nat) : (s.putVat d v x).mark rg u = s.mark rg u := rfl
@[simp] theorem State.putVat_get_nDies : (s.putVat d v x).nDies = s.nDies := rfl
@[simp] theorem State.putVat_get_hasDie (e : Nat) : (s.putVat d v x).hasDie e = s.hasDie e := rfl
@[simp] theorem State.putVat_get_hasVat (e u : Nat) : (s.putVat d v x).hasVat e u = s.hasVat e u := rfl
@[simp] theorem State.putVat_get_hasCtx (e u : Nat) : (s.putVat d v x).hasCtx e u = s.hasCtx e u := rfl
@[simp] theorem State.putVat_get_port (e u : Nat) : (s.putVat d v x).port e u = s.port e u := rfl
@[simp] theorem State.putVat_get_rackq (e u : Nat) : (s.putVat d v x).rackq e u = s.rackq e u := rfl
@[simp] theorem State.putVat_get_kcore (e u : Nat) : (s.putVat d v x).kcore e u = s.kcore e u := rfl
@[simp] theorem State.putVat_get_tslot (e u w : Nat) : (s.putVat d v x).tslot e u w = s.tslot e u w := rfl
@[simp] theorem State.putVat_get_partRec (e : Nat) : (s.putVat d v x).partRec e = s.partRec e := rfl
@[simp] theorem State.putVat_get_job (e : Nat) : (s.putVat d v x).job e = s.job e := rfl
@[simp] theorem State.putVat_get_hydSet (e u w : Nat) : (s.putVat d v x).hydSet e u w = s.hydSet e u w := rfl

end

/-! ## putRing -/

section
variable (s : State) (d : Nat) (x : Ring)

@[simp] theorem State.putRing_pending : (s.putRing d x).pending = s.pending := rfl
@[simp] theorem State.putRing_freeCtr : (s.putRing d x).freeCtr = s.freeCtr := rfl
@[simp] theorem State.putRing_variant : (s.putRing d x).variant = s.variant := rfl
@[simp] theorem State.putRing_regs : (s.putRing d x).regs = s.regs := rfl
@[simp] theorem State.putRing_mem : (s.putRing d x).mem = s.mem := rfl
@[simp] theorem State.putRing_marks : (s.putRing d x).marks = s.marks := rfl
@[simp] theorem State.putRing_ctxs : (s.putRing d x).ctxs = s.ctxs := rfl
@[simp] theorem State.putRing_vats : (s.putRing d x).vats = s.vats := rfl
@[simp] theorem State.putRing_hyd : (s.putRing d x).hyd = s.hyd := rfl
@[simp] theorem State.putRing_fns : (s.putRing d x).fns = s.fns := rfl
@[simp] theorem State.putRing_reports : (s.putRing d x).reports = s.reports := rfl
@[simp] theorem State.putRing_errLog : (s.putRing d x).errLog = s.errLog := rfl
@[simp] theorem State.putRing_errIndex : (s.putRing d x).errIndex = s.errIndex := rfl
@[simp] theorem State.putRing_flashLog : (s.putRing d x).flashLog = s.flashLog := rfl
@[simp] theorem State.putRing_ceSeen : (s.putRing d x).ceSeen = s.ceSeen := rfl
@[simp] theorem State.putRing_time : (s.putRing d x).time = s.time := rfl
@[simp] theorem State.putRing_commitWait : (s.putRing d x).commitWait = s.commitWait := rfl
@[simp] theorem State.putRing_commitRun : (s.putRing d x).commitRun = s.commitRun := rfl
@[simp] theorem State.putRing_deferred : (s.putRing d x).deferred = s.deferred := rfl
@[simp] theorem State.putRing_pcieUp : (s.putRing d x).pcieUp = s.pcieUp := rfl
@[simp] theorem State.putRing_bondReports : (s.putRing d x).bondReports = s.bondReports := rfl
@[simp] theorem State.putRing_modNum : (s.putRing d x).modNum = s.modNum := rfl
@[simp] theorem State.putRing_grants : (s.putRing d x).grants = s.grants := rfl
@[simp] theorem State.putRing_grantsNew : (s.putRing d x).grantsNew = s.grantsNew := rfl
@[simp] theorem State.putRing_slotOwn : (s.putRing d x).slotOwn = s.slotOwn := rfl
@[simp] theorem State.putRing_ports : (s.putRing d x).ports = s.ports := rfl
@[simp] theorem State.putRing_seen : (s.putRing d x).seen = s.seen := rfl
@[simp] theorem State.putRing_keys : (s.putRing d x).keys = s.keys := rfl
@[simp] theorem State.putRing_nextInjDie : (s.putRing d x).nextInjDie = s.nextInjDie := rfl
@[simp] theorem State.putRing_longTag : (s.putRing d x).longTag = s.longTag := rfl
@[simp] theorem State.putRing_nextRid : (s.putRing d x).nextRid = s.nextRid := rfl
@[simp] theorem State.putRing_rackqs : (s.putRing d x).rackqs = s.rackqs := rfl
@[simp] theorem State.putRing_rackSeq : (s.putRing d x).rackSeq = s.rackSeq := rfl
@[simp] theorem State.putRing_rkLast : (s.putRing d x).rkLast = s.rkLast := rfl
@[simp] theorem State.putRing_turnTile : (s.putRing d x).turnTile = s.turnTile := rfl
@[simp] theorem State.putRing_tunOwn : (s.putRing d x).tunOwn = s.tunOwn := rfl
@[simp] theorem State.putRing_ledNew : (s.putRing d x).ledNew = s.ledNew := rfl
@[simp] theorem State.putRing_specRows : (s.putRing d x).specRows = s.specRows := rfl
@[simp] theorem State.putRing_abortRk : (s.putRing d x).abortRk = s.abortRk := rfl
@[simp] theorem State.putRing_abortTun : (s.putRing d x).abortTun = s.abortTun := rfl
@[simp] theorem State.putRing_drainRk : (s.putRing d x).drainRk = s.drainRk := rfl
@[simp] theorem State.putRing_drainTun : (s.putRing d x).drainTun = s.drainTun := rfl
@[simp] theorem State.putRing_accq : (s.putRing d x).accq = s.accq := rfl
@[simp] theorem State.putRing_cplValue : (s.putRing d x).cplValue = s.cplValue := rfl
@[simp] theorem State.putRing_backs : (s.putRing d x).backs = s.backs := rfl
@[simp] theorem State.putRing_tslots : (s.putRing d x).tslots = s.tslots := rfl
@[simp] theorem State.putRing_tunq : (s.putRing d x).tunq = s.tunq := rfl
@[simp] theorem State.putRing_abortSerial : (s.putRing d x).abortSerial = s.abortSerial := rfl
@[simp] theorem State.putRing_dieHbAge : (s.putRing d x).dieHbAge = s.dieHbAge := rfl
@[simp] theorem State.putRing_jobs : (s.putRing d x).jobs = s.jobs := rfl
@[simp] theorem State.putRing_lostDies : (s.putRing d x).lostDies = s.lostDies := rfl
@[simp] theorem State.putRing_failed : (s.putRing d x).failed = s.failed := rfl
@[simp] theorem State.putRing_slotHeld : (s.putRing d x).slotHeld = s.slotHeld := rfl
@[simp] theorem State.putRing_caps : (s.putRing d x).caps = s.caps := rfl
@[simp] theorem State.putRing_stages : (s.putRing d x).stages = s.stages := rfl
@[simp] theorem State.putRing_inocLeft : (s.putRing d x).inocLeft = s.inocLeft := rfl
@[simp] theorem State.putRing_kcores : (s.putRing d x).kcores = s.kcores := rfl
@[simp] theorem State.putRing_parts : (s.putRing d x).parts = s.parts := rfl
@[simp] theorem State.putRing_sessions : (s.putRing d x).sessions = s.sessions := rfl
@[simp] theorem State.putRing_nextSess : (s.putRing d x).nextSess = s.nextSess := rfl
@[simp] theorem State.putRing_changes : (s.putRing d x).changes = s.changes := rfl
@[simp] theorem State.putRing_fenceRun : (s.putRing d x).fenceRun = s.fenceRun := rfl
@[simp] theorem State.putRing_fenceOld : (s.putRing d x).fenceOld = s.fenceOld := rfl
@[simp] theorem State.putRing_keyCtr : (s.putRing d x).keyCtr = s.keyCtr := rfl
@[simp] theorem State.putRing_fwKey : (s.putRing d x).fwKey = s.fwKey := rfl
@[simp] theorem State.putRing_bmrs : (s.putRing d x).bmrs = s.bmrs := rfl
@[simp] theorem State.putRing_imgSvns : (s.putRing d x).imgSvns = s.imgSvns := rfl
@[simp] theorem State.putRing_aliasKey : (s.putRing d x).aliasKey = s.aliasKey := rfl
@[simp] theorem State.putRing_certs : (s.putRing d x).certs = s.certs := rfl
@[simp] theorem State.putRing_flashGen : (s.putRing d x).flashGen = s.flashGen := rfl
@[simp] theorem State.putRing_recipes : (s.putRing d x).recipes = s.recipes := rfl
@[simp] theorem State.putRing_erased : (s.putRing d x).erased = s.erased := rfl
@[simp] theorem State.putRing_recipe : (s.putRing d x).recipe = s.recipe := rfl
@[simp] theorem State.putRing_recipeNow : (s.putRing d x).recipeNow = s.recipeNow := rfl
@[simp] theorem State.putRing_levels : (s.putRing d x).levels = s.levels := rfl
@[simp] theorem State.putRing_calm : (s.putRing d x).calm = s.calm := rfl
@[simp] theorem State.putRing_dieLevel : (s.putRing d x).dieLevel = s.dieLevel := rfl
@[simp] theorem State.putRing_phase : (s.putRing d x).phase = s.phase := rfl
@[simp] theorem State.putRing_answered : (s.putRing d x).answered = s.answered := rfl
@[simp] theorem State.putRing_trip : (s.putRing d x).trip = s.trip := rfl
@[simp] theorem State.putRing_smbAlert : (s.putRing d x).smbAlert = s.smbAlert := rfl
@[simp] theorem State.putRing_flashExt : (s.putRing d x).flashExt = s.flashExt := rfl
@[simp] theorem State.putRing_flashWait : (s.putRing d x).flashWait = s.flashWait := rfl
@[simp] theorem State.putRing_taps : (s.putRing d x).taps = s.taps := rfl
@[simp] theorem State.putRing_porSeq : (s.putRing d x).porSeq = s.porSeq := rfl
@[simp] theorem State.putRing_smb : (s.putRing d x).smb = s.smb := rfl
@[simp] theorem State.putRing_smbPec : (s.putRing d x).smbPec = s.smbPec := rfl
@[simp] theorem State.putRing_rdata : (s.putRing d x).rdata = s.rdata := rfl
@[simp] theorem State.putRing_aer : (s.putRing d x).aer = s.aer := rfl
@[simp] theorem State.putRing_unsupported : (s.putRing d x).unsupported = s.unsupported := rfl
@[simp] theorem State.putRing_diag : (s.putRing d x).diag = s.diag := rfl
@[simp] theorem State.putRing_fuseSvn : (s.putRing d x).fuseSvn = s.fuseSvn := rfl
@[simp] theorem State.putRing_get_vat (e u : Nat) : (s.putRing d x).vat e u = s.vat e u := rfl
@[simp] theorem State.putRing_get_ctx (e u : Nat) : (s.putRing d x).ctx e u = s.ctx e u := rfl
@[simp] theorem State.putRing_get_fn (e : Nat) : (s.putRing d x).fn e = s.fn e := rfl
@[simp] theorem State.putRing_get_reg (e u : Nat) : (s.putRing d x).reg e u = s.reg e u := rfl
@[simp] theorem State.putRing_get_rf (e u : Nat) (g : Fld) : (s.putRing d x).rf e u g = s.rf e u g := rfl
@[simp] theorem State.putRing_get_peek (rg : Region) (u : Nat) : (s.putRing d x).peek rg u = s.peek rg u := rfl
@[simp] theorem State.putRing_get_mark (rg : Region) (u : Nat) : (s.putRing d x).mark rg u = s.mark rg u := rfl
@[simp] theorem State.putRing_get_nDies : (s.putRing d x).nDies = s.nDies := rfl
@[simp] theorem State.putRing_get_hasDie (e : Nat) : (s.putRing d x).hasDie e = s.hasDie e := rfl
@[simp] theorem State.putRing_get_hasVat (e u : Nat) : (s.putRing d x).hasVat e u = s.hasVat e u := rfl
@[simp] theorem State.putRing_get_hasCtx (e u : Nat) : (s.putRing d x).hasCtx e u = s.hasCtx e u := rfl
@[simp] theorem State.putRing_get_port (e u : Nat) : (s.putRing d x).port e u = s.port e u := rfl
@[simp] theorem State.putRing_get_rackq (e u : Nat) : (s.putRing d x).rackq e u = s.rackq e u := rfl
@[simp] theorem State.putRing_get_kcore (e u : Nat) : (s.putRing d x).kcore e u = s.kcore e u := rfl
@[simp] theorem State.putRing_get_tslot (e u w : Nat) : (s.putRing d x).tslot e u w = s.tslot e u w := rfl
@[simp] theorem State.putRing_get_partRec (e : Nat) : (s.putRing d x).partRec e = s.partRec e := rfl
@[simp] theorem State.putRing_get_job (e : Nat) : (s.putRing d x).job e = s.job e := rfl
@[simp] theorem State.putRing_get_hydSet (e u w : Nat) : (s.putRing d x).hydSet e u w = s.hydSet e u w := rfl

end

/-! ## putFn -/

section
variable (s : State) (f : Nat) (x : Fn)

@[simp] theorem State.putFn_pending : (s.putFn f x).pending = s.pending := rfl
@[simp] theorem State.putFn_freeCtr : (s.putFn f x).freeCtr = s.freeCtr := rfl
@[simp] theorem State.putFn_variant : (s.putFn f x).variant = s.variant := rfl
@[simp] theorem State.putFn_regs : (s.putFn f x).regs = s.regs := rfl
@[simp] theorem State.putFn_mem : (s.putFn f x).mem = s.mem := rfl
@[simp] theorem State.putFn_marks : (s.putFn f x).marks = s.marks := rfl
@[simp] theorem State.putFn_ctxs : (s.putFn f x).ctxs = s.ctxs := rfl
@[simp] theorem State.putFn_vats : (s.putFn f x).vats = s.vats := rfl
@[simp] theorem State.putFn_rings : (s.putFn f x).rings = s.rings := rfl
@[simp] theorem State.putFn_hyd : (s.putFn f x).hyd = s.hyd := rfl
@[simp] theorem State.putFn_reports : (s.putFn f x).reports = s.reports := rfl
@[simp] theorem State.putFn_errLog : (s.putFn f x).errLog = s.errLog := rfl
@[simp] theorem State.putFn_errIndex : (s.putFn f x).errIndex = s.errIndex := rfl
@[simp] theorem State.putFn_flashLog : (s.putFn f x).flashLog = s.flashLog := rfl
@[simp] theorem State.putFn_ceSeen : (s.putFn f x).ceSeen = s.ceSeen := rfl
@[simp] theorem State.putFn_time : (s.putFn f x).time = s.time := rfl
@[simp] theorem State.putFn_commitWait : (s.putFn f x).commitWait = s.commitWait := rfl
@[simp] theorem State.putFn_commitRun : (s.putFn f x).commitRun = s.commitRun := rfl
@[simp] theorem State.putFn_deferred : (s.putFn f x).deferred = s.deferred := rfl
@[simp] theorem State.putFn_pcieUp : (s.putFn f x).pcieUp = s.pcieUp := rfl
@[simp] theorem State.putFn_bondReports : (s.putFn f x).bondReports = s.bondReports := rfl
@[simp] theorem State.putFn_modNum : (s.putFn f x).modNum = s.modNum := rfl
@[simp] theorem State.putFn_grants : (s.putFn f x).grants = s.grants := rfl
@[simp] theorem State.putFn_grantsNew : (s.putFn f x).grantsNew = s.grantsNew := rfl
@[simp] theorem State.putFn_slotOwn : (s.putFn f x).slotOwn = s.slotOwn := rfl
@[simp] theorem State.putFn_ports : (s.putFn f x).ports = s.ports := rfl
@[simp] theorem State.putFn_seen : (s.putFn f x).seen = s.seen := rfl
@[simp] theorem State.putFn_keys : (s.putFn f x).keys = s.keys := rfl
@[simp] theorem State.putFn_nextInjDie : (s.putFn f x).nextInjDie = s.nextInjDie := rfl
@[simp] theorem State.putFn_longTag : (s.putFn f x).longTag = s.longTag := rfl
@[simp] theorem State.putFn_nextRid : (s.putFn f x).nextRid = s.nextRid := rfl
@[simp] theorem State.putFn_rackqs : (s.putFn f x).rackqs = s.rackqs := rfl
@[simp] theorem State.putFn_rackSeq : (s.putFn f x).rackSeq = s.rackSeq := rfl
@[simp] theorem State.putFn_rkLast : (s.putFn f x).rkLast = s.rkLast := rfl
@[simp] theorem State.putFn_turnTile : (s.putFn f x).turnTile = s.turnTile := rfl
@[simp] theorem State.putFn_tunOwn : (s.putFn f x).tunOwn = s.tunOwn := rfl
@[simp] theorem State.putFn_ledNew : (s.putFn f x).ledNew = s.ledNew := rfl
@[simp] theorem State.putFn_specRows : (s.putFn f x).specRows = s.specRows := rfl
@[simp] theorem State.putFn_abortRk : (s.putFn f x).abortRk = s.abortRk := rfl
@[simp] theorem State.putFn_abortTun : (s.putFn f x).abortTun = s.abortTun := rfl
@[simp] theorem State.putFn_drainRk : (s.putFn f x).drainRk = s.drainRk := rfl
@[simp] theorem State.putFn_drainTun : (s.putFn f x).drainTun = s.drainTun := rfl
@[simp] theorem State.putFn_accq : (s.putFn f x).accq = s.accq := rfl
@[simp] theorem State.putFn_cplValue : (s.putFn f x).cplValue = s.cplValue := rfl
@[simp] theorem State.putFn_backs : (s.putFn f x).backs = s.backs := rfl
@[simp] theorem State.putFn_tslots : (s.putFn f x).tslots = s.tslots := rfl
@[simp] theorem State.putFn_tunq : (s.putFn f x).tunq = s.tunq := rfl
@[simp] theorem State.putFn_abortSerial : (s.putFn f x).abortSerial = s.abortSerial := rfl
@[simp] theorem State.putFn_dieHbAge : (s.putFn f x).dieHbAge = s.dieHbAge := rfl
@[simp] theorem State.putFn_jobs : (s.putFn f x).jobs = s.jobs := rfl
@[simp] theorem State.putFn_lostDies : (s.putFn f x).lostDies = s.lostDies := rfl
@[simp] theorem State.putFn_failed : (s.putFn f x).failed = s.failed := rfl
@[simp] theorem State.putFn_slotHeld : (s.putFn f x).slotHeld = s.slotHeld := rfl
@[simp] theorem State.putFn_caps : (s.putFn f x).caps = s.caps := rfl
@[simp] theorem State.putFn_stages : (s.putFn f x).stages = s.stages := rfl
@[simp] theorem State.putFn_inocLeft : (s.putFn f x).inocLeft = s.inocLeft := rfl
@[simp] theorem State.putFn_kcores : (s.putFn f x).kcores = s.kcores := rfl
@[simp] theorem State.putFn_parts : (s.putFn f x).parts = s.parts := rfl
@[simp] theorem State.putFn_sessions : (s.putFn f x).sessions = s.sessions := rfl
@[simp] theorem State.putFn_nextSess : (s.putFn f x).nextSess = s.nextSess := rfl
@[simp] theorem State.putFn_changes : (s.putFn f x).changes = s.changes := rfl
@[simp] theorem State.putFn_fenceRun : (s.putFn f x).fenceRun = s.fenceRun := rfl
@[simp] theorem State.putFn_fenceOld : (s.putFn f x).fenceOld = s.fenceOld := rfl
@[simp] theorem State.putFn_keyCtr : (s.putFn f x).keyCtr = s.keyCtr := rfl
@[simp] theorem State.putFn_fwKey : (s.putFn f x).fwKey = s.fwKey := rfl
@[simp] theorem State.putFn_bmrs : (s.putFn f x).bmrs = s.bmrs := rfl
@[simp] theorem State.putFn_imgSvns : (s.putFn f x).imgSvns = s.imgSvns := rfl
@[simp] theorem State.putFn_aliasKey : (s.putFn f x).aliasKey = s.aliasKey := rfl
@[simp] theorem State.putFn_certs : (s.putFn f x).certs = s.certs := rfl
@[simp] theorem State.putFn_flashGen : (s.putFn f x).flashGen = s.flashGen := rfl
@[simp] theorem State.putFn_recipes : (s.putFn f x).recipes = s.recipes := rfl
@[simp] theorem State.putFn_erased : (s.putFn f x).erased = s.erased := rfl
@[simp] theorem State.putFn_recipe : (s.putFn f x).recipe = s.recipe := rfl
@[simp] theorem State.putFn_recipeNow : (s.putFn f x).recipeNow = s.recipeNow := rfl
@[simp] theorem State.putFn_levels : (s.putFn f x).levels = s.levels := rfl
@[simp] theorem State.putFn_calm : (s.putFn f x).calm = s.calm := rfl
@[simp] theorem State.putFn_dieLevel : (s.putFn f x).dieLevel = s.dieLevel := rfl
@[simp] theorem State.putFn_phase : (s.putFn f x).phase = s.phase := rfl
@[simp] theorem State.putFn_answered : (s.putFn f x).answered = s.answered := rfl
@[simp] theorem State.putFn_trip : (s.putFn f x).trip = s.trip := rfl
@[simp] theorem State.putFn_smbAlert : (s.putFn f x).smbAlert = s.smbAlert := rfl
@[simp] theorem State.putFn_flashExt : (s.putFn f x).flashExt = s.flashExt := rfl
@[simp] theorem State.putFn_flashWait : (s.putFn f x).flashWait = s.flashWait := rfl
@[simp] theorem State.putFn_taps : (s.putFn f x).taps = s.taps := rfl
@[simp] theorem State.putFn_porSeq : (s.putFn f x).porSeq = s.porSeq := rfl
@[simp] theorem State.putFn_smb : (s.putFn f x).smb = s.smb := rfl
@[simp] theorem State.putFn_smbPec : (s.putFn f x).smbPec = s.smbPec := rfl
@[simp] theorem State.putFn_rdata : (s.putFn f x).rdata = s.rdata := rfl
@[simp] theorem State.putFn_aer : (s.putFn f x).aer = s.aer := rfl
@[simp] theorem State.putFn_unsupported : (s.putFn f x).unsupported = s.unsupported := rfl
@[simp] theorem State.putFn_diag : (s.putFn f x).diag = s.diag := rfl
@[simp] theorem State.putFn_fuseSvn : (s.putFn f x).fuseSvn = s.fuseSvn := rfl
@[simp] theorem State.putFn_get_vat (e u : Nat) : (s.putFn f x).vat e u = s.vat e u := rfl
@[simp] theorem State.putFn_get_ctx (e u : Nat) : (s.putFn f x).ctx e u = s.ctx e u := rfl
@[simp] theorem State.putFn_get_ring (e : Nat) : (s.putFn f x).ring e = s.ring e := rfl
@[simp] theorem State.putFn_get_reg (e u : Nat) : (s.putFn f x).reg e u = s.reg e u := rfl
@[simp] theorem State.putFn_get_rf (e u : Nat) (g : Fld) : (s.putFn f x).rf e u g = s.rf e u g := rfl
@[simp] theorem State.putFn_get_peek (rg : Region) (u : Nat) : (s.putFn f x).peek rg u = s.peek rg u := rfl
@[simp] theorem State.putFn_get_mark (rg : Region) (u : Nat) : (s.putFn f x).mark rg u = s.mark rg u := rfl
@[simp] theorem State.putFn_get_nDies : (s.putFn f x).nDies = s.nDies := rfl
@[simp] theorem State.putFn_get_hasDie (e : Nat) : (s.putFn f x).hasDie e = s.hasDie e := rfl
@[simp] theorem State.putFn_get_hasVat (e u : Nat) : (s.putFn f x).hasVat e u = s.hasVat e u := rfl
@[simp] theorem State.putFn_get_hasCtx (e u : Nat) : (s.putFn f x).hasCtx e u = s.hasCtx e u := rfl
@[simp] theorem State.putFn_get_port (e u : Nat) : (s.putFn f x).port e u = s.port e u := rfl
@[simp] theorem State.putFn_get_rackq (e u : Nat) : (s.putFn f x).rackq e u = s.rackq e u := rfl
@[simp] theorem State.putFn_get_kcore (e u : Nat) : (s.putFn f x).kcore e u = s.kcore e u := rfl
@[simp] theorem State.putFn_get_tslot (e u w : Nat) : (s.putFn f x).tslot e u w = s.tslot e u w := rfl
@[simp] theorem State.putFn_get_partRec (e : Nat) : (s.putFn f x).partRec e = s.partRec e := rfl
@[simp] theorem State.putFn_get_job (e : Nat) : (s.putFn f x).job e = s.job e := rfl
@[simp] theorem State.putFn_get_hydSet (e u w : Nat) : (s.putFn f x).hydSet e u w = s.hydSet e u w := rfl

end

/-! ## setReg -/

section
variable (s : State) (d o : Nat) (x : RegWord)

@[simp] theorem State.setReg_pending : (s.setReg d o x).pending = s.pending := rfl
@[simp] theorem State.setReg_freeCtr : (s.setReg d o x).freeCtr = s.freeCtr := rfl
@[simp] theorem State.setReg_variant : (s.setReg d o x).variant = s.variant := rfl
@[simp] theorem State.setReg_mem : (s.setReg d o x).mem = s.mem := rfl
@[simp] theorem State.setReg_marks : (s.setReg d o x).marks = s.marks := rfl
@[simp] theorem State.setReg_ctxs : (s.setReg d o x).ctxs = s.ctxs := rfl
@[simp] theorem State.setReg_vats : (s.setReg d o x).vats = s.vats := rfl
@[simp] theorem State.setReg_rings : (s.setReg d o x).rings = s.rings := rfl
@[simp] theorem State.setReg_hyd : (s.setReg d o x).hyd = s.hyd := rfl
@[simp] theorem State.setReg_fns : (s.setReg d o x).fns = s.fns := rfl
@[simp] theorem State.setReg_reports : (s.setReg d o x).reports = s.reports := rfl
@[simp] theorem State.setReg_errLog : (s.setReg d o x).errLog = s.errLog := rfl
@[simp] theorem State.setReg_errIndex : (s.setReg d o x).errIndex = s.errIndex := rfl
@[simp] theorem State.setReg_flashLog : (s.setReg d o x).flashLog = s.flashLog := rfl
@[simp] theorem State.setReg_ceSeen : (s.setReg d o x).ceSeen = s.ceSeen := rfl
@[simp] theorem State.setReg_time : (s.setReg d o x).time = s.time := rfl
@[simp] theorem State.setReg_commitWait : (s.setReg d o x).commitWait = s.commitWait := rfl
@[simp] theorem State.setReg_commitRun : (s.setReg d o x).commitRun = s.commitRun := rfl
@[simp] theorem State.setReg_deferred : (s.setReg d o x).deferred = s.deferred := rfl
@[simp] theorem State.setReg_pcieUp : (s.setReg d o x).pcieUp = s.pcieUp := rfl
@[simp] theorem State.setReg_bondReports : (s.setReg d o x).bondReports = s.bondReports := rfl
@[simp] theorem State.setReg_modNum : (s.setReg d o x).modNum = s.modNum := rfl
@[simp] theorem State.setReg_grants : (s.setReg d o x).grants = s.grants := rfl
@[simp] theorem State.setReg_grantsNew : (s.setReg d o x).grantsNew = s.grantsNew := rfl
@[simp] theorem State.setReg_slotOwn : (s.setReg d o x).slotOwn = s.slotOwn := rfl
@[simp] theorem State.setReg_ports : (s.setReg d o x).ports = s.ports := rfl
@[simp] theorem State.setReg_seen : (s.setReg d o x).seen = s.seen := rfl
@[simp] theorem State.setReg_keys : (s.setReg d o x).keys = s.keys := rfl
@[simp] theorem State.setReg_nextInjDie : (s.setReg d o x).nextInjDie = s.nextInjDie := rfl
@[simp] theorem State.setReg_longTag : (s.setReg d o x).longTag = s.longTag := rfl
@[simp] theorem State.setReg_nextRid : (s.setReg d o x).nextRid = s.nextRid := rfl
@[simp] theorem State.setReg_rackqs : (s.setReg d o x).rackqs = s.rackqs := rfl
@[simp] theorem State.setReg_rackSeq : (s.setReg d o x).rackSeq = s.rackSeq := rfl
@[simp] theorem State.setReg_rkLast : (s.setReg d o x).rkLast = s.rkLast := rfl
@[simp] theorem State.setReg_turnTile : (s.setReg d o x).turnTile = s.turnTile := rfl
@[simp] theorem State.setReg_tunOwn : (s.setReg d o x).tunOwn = s.tunOwn := rfl
@[simp] theorem State.setReg_ledNew : (s.setReg d o x).ledNew = s.ledNew := rfl
@[simp] theorem State.setReg_specRows : (s.setReg d o x).specRows = s.specRows := rfl
@[simp] theorem State.setReg_abortRk : (s.setReg d o x).abortRk = s.abortRk := rfl
@[simp] theorem State.setReg_abortTun : (s.setReg d o x).abortTun = s.abortTun := rfl
@[simp] theorem State.setReg_drainRk : (s.setReg d o x).drainRk = s.drainRk := rfl
@[simp] theorem State.setReg_drainTun : (s.setReg d o x).drainTun = s.drainTun := rfl
@[simp] theorem State.setReg_accq : (s.setReg d o x).accq = s.accq := rfl
@[simp] theorem State.setReg_cplValue : (s.setReg d o x).cplValue = s.cplValue := rfl
@[simp] theorem State.setReg_backs : (s.setReg d o x).backs = s.backs := rfl
@[simp] theorem State.setReg_tslots : (s.setReg d o x).tslots = s.tslots := rfl
@[simp] theorem State.setReg_tunq : (s.setReg d o x).tunq = s.tunq := rfl
@[simp] theorem State.setReg_abortSerial : (s.setReg d o x).abortSerial = s.abortSerial := rfl
@[simp] theorem State.setReg_dieHbAge : (s.setReg d o x).dieHbAge = s.dieHbAge := rfl
@[simp] theorem State.setReg_jobs : (s.setReg d o x).jobs = s.jobs := rfl
@[simp] theorem State.setReg_lostDies : (s.setReg d o x).lostDies = s.lostDies := rfl
@[simp] theorem State.setReg_failed : (s.setReg d o x).failed = s.failed := rfl
@[simp] theorem State.setReg_slotHeld : (s.setReg d o x).slotHeld = s.slotHeld := rfl
@[simp] theorem State.setReg_caps : (s.setReg d o x).caps = s.caps := rfl
@[simp] theorem State.setReg_stages : (s.setReg d o x).stages = s.stages := rfl
@[simp] theorem State.setReg_inocLeft : (s.setReg d o x).inocLeft = s.inocLeft := rfl
@[simp] theorem State.setReg_kcores : (s.setReg d o x).kcores = s.kcores := rfl
@[simp] theorem State.setReg_parts : (s.setReg d o x).parts = s.parts := rfl
@[simp] theorem State.setReg_sessions : (s.setReg d o x).sessions = s.sessions := rfl
@[simp] theorem State.setReg_nextSess : (s.setReg d o x).nextSess = s.nextSess := rfl
@[simp] theorem State.setReg_changes : (s.setReg d o x).changes = s.changes := rfl
@[simp] theorem State.setReg_fenceRun : (s.setReg d o x).fenceRun = s.fenceRun := rfl
@[simp] theorem State.setReg_fenceOld : (s.setReg d o x).fenceOld = s.fenceOld := rfl
@[simp] theorem State.setReg_keyCtr : (s.setReg d o x).keyCtr = s.keyCtr := rfl
@[simp] theorem State.setReg_fwKey : (s.setReg d o x).fwKey = s.fwKey := rfl
@[simp] theorem State.setReg_bmrs : (s.setReg d o x).bmrs = s.bmrs := rfl
@[simp] theorem State.setReg_imgSvns : (s.setReg d o x).imgSvns = s.imgSvns := rfl
@[simp] theorem State.setReg_aliasKey : (s.setReg d o x).aliasKey = s.aliasKey := rfl
@[simp] theorem State.setReg_certs : (s.setReg d o x).certs = s.certs := rfl
@[simp] theorem State.setReg_flashGen : (s.setReg d o x).flashGen = s.flashGen := rfl
@[simp] theorem State.setReg_recipes : (s.setReg d o x).recipes = s.recipes := rfl
@[simp] theorem State.setReg_erased : (s.setReg d o x).erased = s.erased := rfl
@[simp] theorem State.setReg_recipe : (s.setReg d o x).recipe = s.recipe := rfl
@[simp] theorem State.setReg_recipeNow : (s.setReg d o x).recipeNow = s.recipeNow := rfl
@[simp] theorem State.setReg_levels : (s.setReg d o x).levels = s.levels := rfl
@[simp] theorem State.setReg_calm : (s.setReg d o x).calm = s.calm := rfl
@[simp] theorem State.setReg_dieLevel : (s.setReg d o x).dieLevel = s.dieLevel := rfl
@[simp] theorem State.setReg_phase : (s.setReg d o x).phase = s.phase := rfl
@[simp] theorem State.setReg_answered : (s.setReg d o x).answered = s.answered := rfl
@[simp] theorem State.setReg_trip : (s.setReg d o x).trip = s.trip := rfl
@[simp] theorem State.setReg_smbAlert : (s.setReg d o x).smbAlert = s.smbAlert := rfl
@[simp] theorem State.setReg_flashExt : (s.setReg d o x).flashExt = s.flashExt := rfl
@[simp] theorem State.setReg_flashWait : (s.setReg d o x).flashWait = s.flashWait := rfl
@[simp] theorem State.setReg_taps : (s.setReg d o x).taps = s.taps := rfl
@[simp] theorem State.setReg_porSeq : (s.setReg d o x).porSeq = s.porSeq := rfl
@[simp] theorem State.setReg_smb : (s.setReg d o x).smb = s.smb := rfl
@[simp] theorem State.setReg_smbPec : (s.setReg d o x).smbPec = s.smbPec := rfl
@[simp] theorem State.setReg_rdata : (s.setReg d o x).rdata = s.rdata := rfl
@[simp] theorem State.setReg_aer : (s.setReg d o x).aer = s.aer := rfl
@[simp] theorem State.setReg_unsupported : (s.setReg d o x).unsupported = s.unsupported := rfl
@[simp] theorem State.setReg_diag : (s.setReg d o x).diag = s.diag := rfl
@[simp] theorem State.setReg_fuseSvn : (s.setReg d o x).fuseSvn = s.fuseSvn := rfl
@[simp] theorem State.setReg_get_vat (e u : Nat) : (s.setReg d o x).vat e u = s.vat e u := rfl
@[simp] theorem State.setReg_get_ctx (e u : Nat) : (s.setReg d o x).ctx e u = s.ctx e u := rfl
@[simp] theorem State.setReg_get_ring (e : Nat) : (s.setReg d o x).ring e = s.ring e := rfl
@[simp] theorem State.setReg_get_fn (e : Nat) : (s.setReg d o x).fn e = s.fn e := rfl
@[simp] theorem State.setReg_get_peek (rg : Region) (u : Nat) : (s.setReg d o x).peek rg u = s.peek rg u := rfl
@[simp] theorem State.setReg_get_mark (rg : Region) (u : Nat) : (s.setReg d o x).mark rg u = s.mark rg u := rfl
@[simp] theorem State.setReg_get_nDies : (s.setReg d o x).nDies = s.nDies := rfl
@[simp] theorem State.setReg_get_hasDie (e : Nat) : (s.setReg d o x).hasDie e = s.hasDie e := rfl
@[simp] theorem State.setReg_get_hasVat (e u : Nat) : (s.setReg d o x).hasVat e u = s.hasVat e u := rfl
@[simp] theorem State.setReg_get_hasCtx (e u : Nat) : (s.setReg d o x).hasCtx e u = s.hasCtx e u := rfl
@[simp] theorem State.setReg_get_port (e u : Nat) : (s.setReg d o x).port e u = s.port e u := rfl
@[simp] theorem State.setReg_get_rackq (e u : Nat) : (s.setReg d o x).rackq e u = s.rackq e u := rfl
@[simp] theorem State.setReg_get_kcore (e u : Nat) : (s.setReg d o x).kcore e u = s.kcore e u := rfl
@[simp] theorem State.setReg_get_tslot (e u w : Nat) : (s.setReg d o x).tslot e u w = s.tslot e u w := rfl
@[simp] theorem State.setReg_get_partRec (e : Nat) : (s.setReg d o x).partRec e = s.partRec e := rfl
@[simp] theorem State.setReg_get_job (e : Nat) : (s.setReg d o x).job e = s.job e := rfl
@[simp] theorem State.setReg_get_hydSet (e u w : Nat) : (s.setReg d o x).hydSet e u w = s.hydSet e u w := rfl

end

/-! ## wf -/

section
variable (s : State) (d o : Nat) (f : Fld) (x : Nat)

@[simp] theorem State.wf_pending : (s.wf d o f x).pending = s.pending := rfl
@[simp] theorem State.wf_freeCtr : (s.wf d o f x).freeCtr = s.freeCtr := rfl
@[simp] theorem State.wf_variant : (s.wf d o f x).variant = s.variant := rfl
@[simp] theorem State.wf_mem : (s.wf d o f x).mem = s.mem := rfl
@[simp] theorem State.wf_marks : (s.wf d o f x).marks = s.marks := rfl
@[simp] theorem State.wf_ctxs : (s.wf d o f x).ctxs = s.ctxs := rfl
@[simp] theorem State.wf_vats : (s.wf d o f x).vats = s.vats := rfl
@[simp] theorem State.wf_rings : (s.wf d o f x).rings = s.rings := rfl
@[simp] theorem State.wf_hyd : (s.wf d o f x).hyd = s.hyd := rfl
@[simp] theorem State.wf_fns : (s.wf d o f x).fns = s.fns := rfl
@[simp] theorem State.wf_reports : (s.wf d o f x).reports = s.reports := rfl
@[simp] theorem State.wf_errLog : (s.wf d o f x).errLog = s.errLog := rfl
@[simp] theorem State.wf_errIndex : (s.wf d o f x).errIndex = s.errIndex := rfl
@[simp] theorem State.wf_flashLog : (s.wf d o f x).flashLog = s.flashLog := rfl
@[simp] theorem State.wf_ceSeen : (s.wf d o f x).ceSeen = s.ceSeen := rfl
@[simp] theorem State.wf_time : (s.wf d o f x).time = s.time := rfl
@[simp] theorem State.wf_commitWait : (s.wf d o f x).commitWait = s.commitWait := rfl
@[simp] theorem State.wf_commitRun : (s.wf d o f x).commitRun = s.commitRun := rfl
@[simp] theorem State.wf_deferred : (s.wf d o f x).deferred = s.deferred := rfl
@[simp] theorem State.wf_pcieUp : (s.wf d o f x).pcieUp = s.pcieUp := rfl
@[simp] theorem State.wf_bondReports : (s.wf d o f x).bondReports = s.bondReports := rfl
@[simp] theorem State.wf_modNum : (s.wf d o f x).modNum = s.modNum := rfl
@[simp] theorem State.wf_grants : (s.wf d o f x).grants = s.grants := rfl
@[simp] theorem State.wf_grantsNew : (s.wf d o f x).grantsNew = s.grantsNew := rfl
@[simp] theorem State.wf_slotOwn : (s.wf d o f x).slotOwn = s.slotOwn := rfl
@[simp] theorem State.wf_ports : (s.wf d o f x).ports = s.ports := rfl
@[simp] theorem State.wf_seen : (s.wf d o f x).seen = s.seen := rfl
@[simp] theorem State.wf_keys : (s.wf d o f x).keys = s.keys := rfl
@[simp] theorem State.wf_nextInjDie : (s.wf d o f x).nextInjDie = s.nextInjDie := rfl
@[simp] theorem State.wf_longTag : (s.wf d o f x).longTag = s.longTag := rfl
@[simp] theorem State.wf_nextRid : (s.wf d o f x).nextRid = s.nextRid := rfl
@[simp] theorem State.wf_rackqs : (s.wf d o f x).rackqs = s.rackqs := rfl
@[simp] theorem State.wf_rackSeq : (s.wf d o f x).rackSeq = s.rackSeq := rfl
@[simp] theorem State.wf_rkLast : (s.wf d o f x).rkLast = s.rkLast := rfl
@[simp] theorem State.wf_turnTile : (s.wf d o f x).turnTile = s.turnTile := rfl
@[simp] theorem State.wf_tunOwn : (s.wf d o f x).tunOwn = s.tunOwn := rfl
@[simp] theorem State.wf_ledNew : (s.wf d o f x).ledNew = s.ledNew := rfl
@[simp] theorem State.wf_specRows : (s.wf d o f x).specRows = s.specRows := rfl
@[simp] theorem State.wf_abortRk : (s.wf d o f x).abortRk = s.abortRk := rfl
@[simp] theorem State.wf_abortTun : (s.wf d o f x).abortTun = s.abortTun := rfl
@[simp] theorem State.wf_drainRk : (s.wf d o f x).drainRk = s.drainRk := rfl
@[simp] theorem State.wf_drainTun : (s.wf d o f x).drainTun = s.drainTun := rfl
@[simp] theorem State.wf_accq : (s.wf d o f x).accq = s.accq := rfl
@[simp] theorem State.wf_cplValue : (s.wf d o f x).cplValue = s.cplValue := rfl
@[simp] theorem State.wf_backs : (s.wf d o f x).backs = s.backs := rfl
@[simp] theorem State.wf_tslots : (s.wf d o f x).tslots = s.tslots := rfl
@[simp] theorem State.wf_tunq : (s.wf d o f x).tunq = s.tunq := rfl
@[simp] theorem State.wf_abortSerial : (s.wf d o f x).abortSerial = s.abortSerial := rfl
@[simp] theorem State.wf_dieHbAge : (s.wf d o f x).dieHbAge = s.dieHbAge := rfl
@[simp] theorem State.wf_jobs : (s.wf d o f x).jobs = s.jobs := rfl
@[simp] theorem State.wf_lostDies : (s.wf d o f x).lostDies = s.lostDies := rfl
@[simp] theorem State.wf_failed : (s.wf d o f x).failed = s.failed := rfl
@[simp] theorem State.wf_slotHeld : (s.wf d o f x).slotHeld = s.slotHeld := rfl
@[simp] theorem State.wf_caps : (s.wf d o f x).caps = s.caps := rfl
@[simp] theorem State.wf_stages : (s.wf d o f x).stages = s.stages := rfl
@[simp] theorem State.wf_inocLeft : (s.wf d o f x).inocLeft = s.inocLeft := rfl
@[simp] theorem State.wf_kcores : (s.wf d o f x).kcores = s.kcores := rfl
@[simp] theorem State.wf_parts : (s.wf d o f x).parts = s.parts := rfl
@[simp] theorem State.wf_sessions : (s.wf d o f x).sessions = s.sessions := rfl
@[simp] theorem State.wf_nextSess : (s.wf d o f x).nextSess = s.nextSess := rfl
@[simp] theorem State.wf_changes : (s.wf d o f x).changes = s.changes := rfl
@[simp] theorem State.wf_fenceRun : (s.wf d o f x).fenceRun = s.fenceRun := rfl
@[simp] theorem State.wf_fenceOld : (s.wf d o f x).fenceOld = s.fenceOld := rfl
@[simp] theorem State.wf_keyCtr : (s.wf d o f x).keyCtr = s.keyCtr := rfl
@[simp] theorem State.wf_fwKey : (s.wf d o f x).fwKey = s.fwKey := rfl
@[simp] theorem State.wf_bmrs : (s.wf d o f x).bmrs = s.bmrs := rfl
@[simp] theorem State.wf_imgSvns : (s.wf d o f x).imgSvns = s.imgSvns := rfl
@[simp] theorem State.wf_aliasKey : (s.wf d o f x).aliasKey = s.aliasKey := rfl
@[simp] theorem State.wf_certs : (s.wf d o f x).certs = s.certs := rfl
@[simp] theorem State.wf_flashGen : (s.wf d o f x).flashGen = s.flashGen := rfl
@[simp] theorem State.wf_recipes : (s.wf d o f x).recipes = s.recipes := rfl
@[simp] theorem State.wf_erased : (s.wf d o f x).erased = s.erased := rfl
@[simp] theorem State.wf_recipe : (s.wf d o f x).recipe = s.recipe := rfl
@[simp] theorem State.wf_recipeNow : (s.wf d o f x).recipeNow = s.recipeNow := rfl
@[simp] theorem State.wf_levels : (s.wf d o f x).levels = s.levels := rfl
@[simp] theorem State.wf_calm : (s.wf d o f x).calm = s.calm := rfl
@[simp] theorem State.wf_dieLevel : (s.wf d o f x).dieLevel = s.dieLevel := rfl
@[simp] theorem State.wf_phase : (s.wf d o f x).phase = s.phase := rfl
@[simp] theorem State.wf_answered : (s.wf d o f x).answered = s.answered := rfl
@[simp] theorem State.wf_trip : (s.wf d o f x).trip = s.trip := rfl
@[simp] theorem State.wf_smbAlert : (s.wf d o f x).smbAlert = s.smbAlert := rfl
@[simp] theorem State.wf_flashExt : (s.wf d o f x).flashExt = s.flashExt := rfl
@[simp] theorem State.wf_flashWait : (s.wf d o f x).flashWait = s.flashWait := rfl
@[simp] theorem State.wf_taps : (s.wf d o f x).taps = s.taps := rfl
@[simp] theorem State.wf_porSeq : (s.wf d o f x).porSeq = s.porSeq := rfl
@[simp] theorem State.wf_smb : (s.wf d o f x).smb = s.smb := rfl
@[simp] theorem State.wf_smbPec : (s.wf d o f x).smbPec = s.smbPec := rfl
@[simp] theorem State.wf_rdata : (s.wf d o f x).rdata = s.rdata := rfl
@[simp] theorem State.wf_aer : (s.wf d o f x).aer = s.aer := rfl
@[simp] theorem State.wf_unsupported : (s.wf d o f x).unsupported = s.unsupported := rfl
@[simp] theorem State.wf_diag : (s.wf d o f x).diag = s.diag := rfl
@[simp] theorem State.wf_fuseSvn : (s.wf d o f x).fuseSvn = s.fuseSvn := rfl
@[simp] theorem State.wf_get_vat (e u : Nat) : (s.wf d o f x).vat e u = s.vat e u := rfl
@[simp] theorem State.wf_get_ctx (e u : Nat) : (s.wf d o f x).ctx e u = s.ctx e u := rfl
@[simp] theorem State.wf_get_ring (e : Nat) : (s.wf d o f x).ring e = s.ring e := rfl
@[simp] theorem State.wf_get_fn (e : Nat) : (s.wf d o f x).fn e = s.fn e := rfl
@[simp] theorem State.wf_get_peek (rg : Region) (u : Nat) : (s.wf d o f x).peek rg u = s.peek rg u := rfl
@[simp] theorem State.wf_get_mark (rg : Region) (u : Nat) : (s.wf d o f x).mark rg u = s.mark rg u := rfl
@[simp] theorem State.wf_get_nDies : (s.wf d o f x).nDies = s.nDies := rfl
@[simp] theorem State.wf_get_hasDie (e : Nat) : (s.wf d o f x).hasDie e = s.hasDie e := rfl
@[simp] theorem State.wf_get_hasVat (e u : Nat) : (s.wf d o f x).hasVat e u = s.hasVat e u := rfl
@[simp] theorem State.wf_get_hasCtx (e u : Nat) : (s.wf d o f x).hasCtx e u = s.hasCtx e u := rfl
@[simp] theorem State.wf_get_port (e u : Nat) : (s.wf d o f x).port e u = s.port e u := rfl
@[simp] theorem State.wf_get_rackq (e u : Nat) : (s.wf d o f x).rackq e u = s.rackq e u := rfl
@[simp] theorem State.wf_get_kcore (e u : Nat) : (s.wf d o f x).kcore e u = s.kcore e u := rfl
@[simp] theorem State.wf_get_tslot (e u w : Nat) : (s.wf d o f x).tslot e u w = s.tslot e u w := rfl
@[simp] theorem State.wf_get_partRec (e : Nat) : (s.wf d o f x).partRec e = s.partRec e := rfl
@[simp] theorem State.wf_get_job (e : Nat) : (s.wf d o f x).job e = s.job e := rfl
@[simp] theorem State.wf_get_hydSet (e u w : Nat) : (s.wf d o f x).hydSet e u w = s.hydSet e u w := rfl

end

/-! ## poke -/

section
variable (s : State) (r : Region) (o : Nat) (x : List Byte)

@[simp] theorem State.poke_pending : (s.poke r o x).pending = s.pending := rfl
@[simp] theorem State.poke_freeCtr : (s.poke r o x).freeCtr = s.freeCtr := rfl
@[simp] theorem State.poke_variant : (s.poke r o x).variant = s.variant := rfl
@[simp] theorem State.poke_regs : (s.poke r o x).regs = s.regs := rfl
@[simp] theorem State.poke_marks : (s.poke r o x).marks = s.marks := rfl
@[simp] theorem State.poke_ctxs : (s.poke r o x).ctxs = s.ctxs := rfl
@[simp] theorem State.poke_vats : (s.poke r o x).vats = s.vats := rfl
@[simp] theorem State.poke_rings : (s.poke r o x).rings = s.rings := rfl
@[simp] theorem State.poke_hyd : (s.poke r o x).hyd = s.hyd := rfl
@[simp] theorem State.poke_fns : (s.poke r o x).fns = s.fns := rfl
@[simp] theorem State.poke_reports : (s.poke r o x).reports = s.reports := rfl
@[simp] theorem State.poke_errLog : (s.poke r o x).errLog = s.errLog := rfl
@[simp] theorem State.poke_errIndex : (s.poke r o x).errIndex = s.errIndex := rfl
@[simp] theorem State.poke_flashLog : (s.poke r o x).flashLog = s.flashLog := rfl
@[simp] theorem State.poke_ceSeen : (s.poke r o x).ceSeen = s.ceSeen := rfl
@[simp] theorem State.poke_time : (s.poke r o x).time = s.time := rfl
@[simp] theorem State.poke_commitWait : (s.poke r o x).commitWait = s.commitWait := rfl
@[simp] theorem State.poke_commitRun : (s.poke r o x).commitRun = s.commitRun := rfl
@[simp] theorem State.poke_deferred : (s.poke r o x).deferred = s.deferred := rfl
@[simp] theorem State.poke_pcieUp : (s.poke r o x).pcieUp = s.pcieUp := rfl
@[simp] theorem State.poke_bondReports : (s.poke r o x).bondReports = s.bondReports := rfl
@[simp] theorem State.poke_modNum : (s.poke r o x).modNum = s.modNum := rfl
@[simp] theorem State.poke_grants : (s.poke r o x).grants = s.grants := rfl
@[simp] theorem State.poke_grantsNew : (s.poke r o x).grantsNew = s.grantsNew := rfl
@[simp] theorem State.poke_slotOwn : (s.poke r o x).slotOwn = s.slotOwn := rfl
@[simp] theorem State.poke_ports : (s.poke r o x).ports = s.ports := rfl
@[simp] theorem State.poke_seen : (s.poke r o x).seen = s.seen := rfl
@[simp] theorem State.poke_keys : (s.poke r o x).keys = s.keys := rfl
@[simp] theorem State.poke_nextInjDie : (s.poke r o x).nextInjDie = s.nextInjDie := rfl
@[simp] theorem State.poke_longTag : (s.poke r o x).longTag = s.longTag := rfl
@[simp] theorem State.poke_nextRid : (s.poke r o x).nextRid = s.nextRid := rfl
@[simp] theorem State.poke_rackqs : (s.poke r o x).rackqs = s.rackqs := rfl
@[simp] theorem State.poke_rackSeq : (s.poke r o x).rackSeq = s.rackSeq := rfl
@[simp] theorem State.poke_rkLast : (s.poke r o x).rkLast = s.rkLast := rfl
@[simp] theorem State.poke_turnTile : (s.poke r o x).turnTile = s.turnTile := rfl
@[simp] theorem State.poke_tunOwn : (s.poke r o x).tunOwn = s.tunOwn := rfl
@[simp] theorem State.poke_ledNew : (s.poke r o x).ledNew = s.ledNew := rfl
@[simp] theorem State.poke_specRows : (s.poke r o x).specRows = s.specRows := rfl
@[simp] theorem State.poke_abortRk : (s.poke r o x).abortRk = s.abortRk := rfl
@[simp] theorem State.poke_abortTun : (s.poke r o x).abortTun = s.abortTun := rfl
@[simp] theorem State.poke_drainRk : (s.poke r o x).drainRk = s.drainRk := rfl
@[simp] theorem State.poke_drainTun : (s.poke r o x).drainTun = s.drainTun := rfl
@[simp] theorem State.poke_accq : (s.poke r o x).accq = s.accq := rfl
@[simp] theorem State.poke_cplValue : (s.poke r o x).cplValue = s.cplValue := rfl
@[simp] theorem State.poke_backs : (s.poke r o x).backs = s.backs := rfl
@[simp] theorem State.poke_tslots : (s.poke r o x).tslots = s.tslots := rfl
@[simp] theorem State.poke_tunq : (s.poke r o x).tunq = s.tunq := rfl
@[simp] theorem State.poke_abortSerial : (s.poke r o x).abortSerial = s.abortSerial := rfl
@[simp] theorem State.poke_dieHbAge : (s.poke r o x).dieHbAge = s.dieHbAge := rfl
@[simp] theorem State.poke_jobs : (s.poke r o x).jobs = s.jobs := rfl
@[simp] theorem State.poke_lostDies : (s.poke r o x).lostDies = s.lostDies := rfl
@[simp] theorem State.poke_failed : (s.poke r o x).failed = s.failed := rfl
@[simp] theorem State.poke_slotHeld : (s.poke r o x).slotHeld = s.slotHeld := rfl
@[simp] theorem State.poke_caps : (s.poke r o x).caps = s.caps := rfl
@[simp] theorem State.poke_stages : (s.poke r o x).stages = s.stages := rfl
@[simp] theorem State.poke_inocLeft : (s.poke r o x).inocLeft = s.inocLeft := rfl
@[simp] theorem State.poke_kcores : (s.poke r o x).kcores = s.kcores := rfl
@[simp] theorem State.poke_parts : (s.poke r o x).parts = s.parts := rfl
@[simp] theorem State.poke_sessions : (s.poke r o x).sessions = s.sessions := rfl
@[simp] theorem State.poke_nextSess : (s.poke r o x).nextSess = s.nextSess := rfl
@[simp] theorem State.poke_changes : (s.poke r o x).changes = s.changes := rfl
@[simp] theorem State.poke_fenceRun : (s.poke r o x).fenceRun = s.fenceRun := rfl
@[simp] theorem State.poke_fenceOld : (s.poke r o x).fenceOld = s.fenceOld := rfl
@[simp] theorem State.poke_keyCtr : (s.poke r o x).keyCtr = s.keyCtr := rfl
@[simp] theorem State.poke_fwKey : (s.poke r o x).fwKey = s.fwKey := rfl
@[simp] theorem State.poke_bmrs : (s.poke r o x).bmrs = s.bmrs := rfl
@[simp] theorem State.poke_imgSvns : (s.poke r o x).imgSvns = s.imgSvns := rfl
@[simp] theorem State.poke_aliasKey : (s.poke r o x).aliasKey = s.aliasKey := rfl
@[simp] theorem State.poke_certs : (s.poke r o x).certs = s.certs := rfl
@[simp] theorem State.poke_flashGen : (s.poke r o x).flashGen = s.flashGen := rfl
@[simp] theorem State.poke_recipes : (s.poke r o x).recipes = s.recipes := rfl
@[simp] theorem State.poke_erased : (s.poke r o x).erased = s.erased := rfl
@[simp] theorem State.poke_recipe : (s.poke r o x).recipe = s.recipe := rfl
@[simp] theorem State.poke_recipeNow : (s.poke r o x).recipeNow = s.recipeNow := rfl
@[simp] theorem State.poke_levels : (s.poke r o x).levels = s.levels := rfl
@[simp] theorem State.poke_calm : (s.poke r o x).calm = s.calm := rfl
@[simp] theorem State.poke_dieLevel : (s.poke r o x).dieLevel = s.dieLevel := rfl
@[simp] theorem State.poke_phase : (s.poke r o x).phase = s.phase := rfl
@[simp] theorem State.poke_answered : (s.poke r o x).answered = s.answered := rfl
@[simp] theorem State.poke_trip : (s.poke r o x).trip = s.trip := rfl
@[simp] theorem State.poke_smbAlert : (s.poke r o x).smbAlert = s.smbAlert := rfl
@[simp] theorem State.poke_flashExt : (s.poke r o x).flashExt = s.flashExt := rfl
@[simp] theorem State.poke_flashWait : (s.poke r o x).flashWait = s.flashWait := rfl
@[simp] theorem State.poke_taps : (s.poke r o x).taps = s.taps := rfl
@[simp] theorem State.poke_porSeq : (s.poke r o x).porSeq = s.porSeq := rfl
@[simp] theorem State.poke_smb : (s.poke r o x).smb = s.smb := rfl
@[simp] theorem State.poke_smbPec : (s.poke r o x).smbPec = s.smbPec := rfl
@[simp] theorem State.poke_rdata : (s.poke r o x).rdata = s.rdata := rfl
@[simp] theorem State.poke_aer : (s.poke r o x).aer = s.aer := rfl
@[simp] theorem State.poke_unsupported : (s.poke r o x).unsupported = s.unsupported := rfl
@[simp] theorem State.poke_diag : (s.poke r o x).diag = s.diag := rfl
@[simp] theorem State.poke_fuseSvn : (s.poke r o x).fuseSvn = s.fuseSvn := rfl
@[simp] theorem State.poke_get_vat (e u : Nat) : (s.poke r o x).vat e u = s.vat e u := rfl
@[simp] theorem State.poke_get_ctx (e u : Nat) : (s.poke r o x).ctx e u = s.ctx e u := rfl
@[simp] theorem State.poke_get_ring (e : Nat) : (s.poke r o x).ring e = s.ring e := rfl
@[simp] theorem State.poke_get_fn (e : Nat) : (s.poke r o x).fn e = s.fn e := rfl
@[simp] theorem State.poke_get_reg (e u : Nat) : (s.poke r o x).reg e u = s.reg e u := rfl
@[simp] theorem State.poke_get_rf (e u : Nat) (g : Fld) : (s.poke r o x).rf e u g = s.rf e u g := rfl
@[simp] theorem State.poke_get_mark (rg : Region) (u : Nat) : (s.poke r o x).mark rg u = s.mark rg u := rfl
@[simp] theorem State.poke_get_nDies : (s.poke r o x).nDies = s.nDies := rfl
@[simp] theorem State.poke_get_hasDie (e : Nat) : (s.poke r o x).hasDie e = s.hasDie e := rfl
@[simp] theorem State.poke_get_hasVat (e u : Nat) : (s.poke r o x).hasVat e u = s.hasVat e u := rfl
@[simp] theorem State.poke_get_hasCtx (e u : Nat) : (s.poke r o x).hasCtx e u = s.hasCtx e u := rfl
@[simp] theorem State.poke_get_port (e u : Nat) : (s.poke r o x).port e u = s.port e u := rfl
@[simp] theorem State.poke_get_rackq (e u : Nat) : (s.poke r o x).rackq e u = s.rackq e u := rfl
@[simp] theorem State.poke_get_kcore (e u : Nat) : (s.poke r o x).kcore e u = s.kcore e u := rfl
@[simp] theorem State.poke_get_tslot (e u w : Nat) : (s.poke r o x).tslot e u w = s.tslot e u w := rfl
@[simp] theorem State.poke_get_partRec (e : Nat) : (s.poke r o x).partRec e = s.partRec e := rfl
@[simp] theorem State.poke_get_job (e : Nat) : (s.poke r o x).job e = s.job e := rfl
@[simp] theorem State.poke_get_hydSet (e u w : Nat) : (s.poke r o x).hydSet e u w = s.hydSet e u w := rfl

end

/-! ## setMark -/

section
variable (s : State) (r : Region) (o : Nat) (x : Mark)

@[simp] theorem State.setMark_pending : (s.setMark r o x).pending = s.pending := rfl
@[simp] theorem State.setMark_freeCtr : (s.setMark r o x).freeCtr = s.freeCtr := rfl
@[simp] theorem State.setMark_variant : (s.setMark r o x).variant = s.variant := rfl
@[simp] theorem State.setMark_regs : (s.setMark r o x).regs = s.regs := rfl
@[simp] theorem State.setMark_mem : (s.setMark r o x).mem = s.mem := rfl
@[simp] theorem State.setMark_ctxs : (s.setMark r o x).ctxs = s.ctxs := rfl
@[simp] theorem State.setMark_vats : (s.setMark r o x).vats = s.vats := rfl
@[simp] theorem State.setMark_rings : (s.setMark r o x).rings = s.rings := rfl
@[simp] theorem State.setMark_hyd : (s.setMark r o x).hyd = s.hyd := rfl
@[simp] theorem State.setMark_fns : (s.setMark r o x).fns = s.fns := rfl
@[simp] theorem State.setMark_reports : (s.setMark r o x).reports = s.reports := rfl
@[simp] theorem State.setMark_errLog : (s.setMark r o x).errLog = s.errLog := rfl
@[simp] theorem State.setMark_errIndex : (s.setMark r o x).errIndex = s.errIndex := rfl
@[simp] theorem State.setMark_flashLog : (s.setMark r o x).flashLog = s.flashLog := rfl
@[simp] theorem State.setMark_ceSeen : (s.setMark r o x).ceSeen = s.ceSeen := rfl
@[simp] theorem State.setMark_time : (s.setMark r o x).time = s.time := rfl
@[simp] theorem State.setMark_commitWait : (s.setMark r o x).commitWait = s.commitWait := rfl
@[simp] theorem State.setMark_commitRun : (s.setMark r o x).commitRun = s.commitRun := rfl
@[simp] theorem State.setMark_deferred : (s.setMark r o x).deferred = s.deferred := rfl
@[simp] theorem State.setMark_pcieUp : (s.setMark r o x).pcieUp = s.pcieUp := rfl
@[simp] theorem State.setMark_bondReports : (s.setMark r o x).bondReports = s.bondReports := rfl
@[simp] theorem State.setMark_modNum : (s.setMark r o x).modNum = s.modNum := rfl
@[simp] theorem State.setMark_grants : (s.setMark r o x).grants = s.grants := rfl
@[simp] theorem State.setMark_grantsNew : (s.setMark r o x).grantsNew = s.grantsNew := rfl
@[simp] theorem State.setMark_slotOwn : (s.setMark r o x).slotOwn = s.slotOwn := rfl
@[simp] theorem State.setMark_ports : (s.setMark r o x).ports = s.ports := rfl
@[simp] theorem State.setMark_seen : (s.setMark r o x).seen = s.seen := rfl
@[simp] theorem State.setMark_keys : (s.setMark r o x).keys = s.keys := rfl
@[simp] theorem State.setMark_nextInjDie : (s.setMark r o x).nextInjDie = s.nextInjDie := rfl
@[simp] theorem State.setMark_longTag : (s.setMark r o x).longTag = s.longTag := rfl
@[simp] theorem State.setMark_nextRid : (s.setMark r o x).nextRid = s.nextRid := rfl
@[simp] theorem State.setMark_rackqs : (s.setMark r o x).rackqs = s.rackqs := rfl
@[simp] theorem State.setMark_rackSeq : (s.setMark r o x).rackSeq = s.rackSeq := rfl
@[simp] theorem State.setMark_rkLast : (s.setMark r o x).rkLast = s.rkLast := rfl
@[simp] theorem State.setMark_turnTile : (s.setMark r o x).turnTile = s.turnTile := rfl
@[simp] theorem State.setMark_tunOwn : (s.setMark r o x).tunOwn = s.tunOwn := rfl
@[simp] theorem State.setMark_ledNew : (s.setMark r o x).ledNew = s.ledNew := rfl
@[simp] theorem State.setMark_specRows : (s.setMark r o x).specRows = s.specRows := rfl
@[simp] theorem State.setMark_abortRk : (s.setMark r o x).abortRk = s.abortRk := rfl
@[simp] theorem State.setMark_abortTun : (s.setMark r o x).abortTun = s.abortTun := rfl
@[simp] theorem State.setMark_drainRk : (s.setMark r o x).drainRk = s.drainRk := rfl
@[simp] theorem State.setMark_drainTun : (s.setMark r o x).drainTun = s.drainTun := rfl
@[simp] theorem State.setMark_accq : (s.setMark r o x).accq = s.accq := rfl
@[simp] theorem State.setMark_cplValue : (s.setMark r o x).cplValue = s.cplValue := rfl
@[simp] theorem State.setMark_backs : (s.setMark r o x).backs = s.backs := rfl
@[simp] theorem State.setMark_tslots : (s.setMark r o x).tslots = s.tslots := rfl
@[simp] theorem State.setMark_tunq : (s.setMark r o x).tunq = s.tunq := rfl
@[simp] theorem State.setMark_abortSerial : (s.setMark r o x).abortSerial = s.abortSerial := rfl
@[simp] theorem State.setMark_dieHbAge : (s.setMark r o x).dieHbAge = s.dieHbAge := rfl
@[simp] theorem State.setMark_jobs : (s.setMark r o x).jobs = s.jobs := rfl
@[simp] theorem State.setMark_lostDies : (s.setMark r o x).lostDies = s.lostDies := rfl
@[simp] theorem State.setMark_failed : (s.setMark r o x).failed = s.failed := rfl
@[simp] theorem State.setMark_slotHeld : (s.setMark r o x).slotHeld = s.slotHeld := rfl
@[simp] theorem State.setMark_caps : (s.setMark r o x).caps = s.caps := rfl
@[simp] theorem State.setMark_stages : (s.setMark r o x).stages = s.stages := rfl
@[simp] theorem State.setMark_inocLeft : (s.setMark r o x).inocLeft = s.inocLeft := rfl
@[simp] theorem State.setMark_kcores : (s.setMark r o x).kcores = s.kcores := rfl
@[simp] theorem State.setMark_parts : (s.setMark r o x).parts = s.parts := rfl
@[simp] theorem State.setMark_sessions : (s.setMark r o x).sessions = s.sessions := rfl
@[simp] theorem State.setMark_nextSess : (s.setMark r o x).nextSess = s.nextSess := rfl
@[simp] theorem State.setMark_changes : (s.setMark r o x).changes = s.changes := rfl
@[simp] theorem State.setMark_fenceRun : (s.setMark r o x).fenceRun = s.fenceRun := rfl
@[simp] theorem State.setMark_fenceOld : (s.setMark r o x).fenceOld = s.fenceOld := rfl
@[simp] theorem State.setMark_keyCtr : (s.setMark r o x).keyCtr = s.keyCtr := rfl
@[simp] theorem State.setMark_fwKey : (s.setMark r o x).fwKey = s.fwKey := rfl
@[simp] theorem State.setMark_bmrs : (s.setMark r o x).bmrs = s.bmrs := rfl
@[simp] theorem State.setMark_imgSvns : (s.setMark r o x).imgSvns = s.imgSvns := rfl
@[simp] theorem State.setMark_aliasKey : (s.setMark r o x).aliasKey = s.aliasKey := rfl
@[simp] theorem State.setMark_certs : (s.setMark r o x).certs = s.certs := rfl
@[simp] theorem State.setMark_flashGen : (s.setMark r o x).flashGen = s.flashGen := rfl
@[simp] theorem State.setMark_recipes : (s.setMark r o x).recipes = s.recipes := rfl
@[simp] theorem State.setMark_erased : (s.setMark r o x).erased = s.erased := rfl
@[simp] theorem State.setMark_recipe : (s.setMark r o x).recipe = s.recipe := rfl
@[simp] theorem State.setMark_recipeNow : (s.setMark r o x).recipeNow = s.recipeNow := rfl
@[simp] theorem State.setMark_levels : (s.setMark r o x).levels = s.levels := rfl
@[simp] theorem State.setMark_calm : (s.setMark r o x).calm = s.calm := rfl
@[simp] theorem State.setMark_dieLevel : (s.setMark r o x).dieLevel = s.dieLevel := rfl
@[simp] theorem State.setMark_phase : (s.setMark r o x).phase = s.phase := rfl
@[simp] theorem State.setMark_answered : (s.setMark r o x).answered = s.answered := rfl
@[simp] theorem State.setMark_trip : (s.setMark r o x).trip = s.trip := rfl
@[simp] theorem State.setMark_smbAlert : (s.setMark r o x).smbAlert = s.smbAlert := rfl
@[simp] theorem State.setMark_flashExt : (s.setMark r o x).flashExt = s.flashExt := rfl
@[simp] theorem State.setMark_flashWait : (s.setMark r o x).flashWait = s.flashWait := rfl
@[simp] theorem State.setMark_taps : (s.setMark r o x).taps = s.taps := rfl
@[simp] theorem State.setMark_porSeq : (s.setMark r o x).porSeq = s.porSeq := rfl
@[simp] theorem State.setMark_smb : (s.setMark r o x).smb = s.smb := rfl
@[simp] theorem State.setMark_smbPec : (s.setMark r o x).smbPec = s.smbPec := rfl
@[simp] theorem State.setMark_rdata : (s.setMark r o x).rdata = s.rdata := rfl
@[simp] theorem State.setMark_aer : (s.setMark r o x).aer = s.aer := rfl
@[simp] theorem State.setMark_unsupported : (s.setMark r o x).unsupported = s.unsupported := rfl
@[simp] theorem State.setMark_diag : (s.setMark r o x).diag = s.diag := rfl
@[simp] theorem State.setMark_fuseSvn : (s.setMark r o x).fuseSvn = s.fuseSvn := rfl
@[simp] theorem State.setMark_get_vat (e u : Nat) : (s.setMark r o x).vat e u = s.vat e u := rfl
@[simp] theorem State.setMark_get_ctx (e u : Nat) : (s.setMark r o x).ctx e u = s.ctx e u := rfl
@[simp] theorem State.setMark_get_ring (e : Nat) : (s.setMark r o x).ring e = s.ring e := rfl
@[simp] theorem State.setMark_get_fn (e : Nat) : (s.setMark r o x).fn e = s.fn e := rfl
@[simp] theorem State.setMark_get_reg (e u : Nat) : (s.setMark r o x).reg e u = s.reg e u := rfl
@[simp] theorem State.setMark_get_rf (e u : Nat) (g : Fld) : (s.setMark r o x).rf e u g = s.rf e u g := rfl
@[simp] theorem State.setMark_get_peek (rg : Region) (u : Nat) : (s.setMark r o x).peek rg u = s.peek rg u := rfl
@[simp] theorem State.setMark_get_nDies : (s.setMark r o x).nDies = s.nDies := rfl
@[simp] theorem State.setMark_get_hasDie (e : Nat) : (s.setMark r o x).hasDie e = s.hasDie e := rfl
@[simp] theorem State.setMark_get_hasVat (e u : Nat) : (s.setMark r o x).hasVat e u = s.hasVat e u := rfl
@[simp] theorem State.setMark_get_hasCtx (e u : Nat) : (s.setMark r o x).hasCtx e u = s.hasCtx e u := rfl
@[simp] theorem State.setMark_get_port (e u : Nat) : (s.setMark r o x).port e u = s.port e u := rfl
@[simp] theorem State.setMark_get_rackq (e u : Nat) : (s.setMark r o x).rackq e u = s.rackq e u := rfl
@[simp] theorem State.setMark_get_kcore (e u : Nat) : (s.setMark r o x).kcore e u = s.kcore e u := rfl
@[simp] theorem State.setMark_get_tslot (e u w : Nat) : (s.setMark r o x).tslot e u w = s.tslot e u w := rfl
@[simp] theorem State.setMark_get_partRec (e : Nat) : (s.setMark r o x).partRec e = s.partRec e := rfl
@[simp] theorem State.setMark_get_job (e : Nat) : (s.setMark r o x).job e = s.job e := rfl
@[simp] theorem State.setMark_get_hydSet (e u w : Nat) : (s.setMark r o x).hydSet e u w = s.hydSet e u w := rfl

end

/-! ## report -/

section
variable (s : State) (x : Report)

@[simp] theorem State.report_pending : (s.report x).pending = s.pending := rfl
@[simp] theorem State.report_freeCtr : (s.report x).freeCtr = s.freeCtr := rfl
@[simp] theorem State.report_variant : (s.report x).variant = s.variant := rfl
@[simp] theorem State.report_regs : (s.report x).regs = s.regs := rfl
@[simp] theorem State.report_mem : (s.report x).mem = s.mem := rfl
@[simp] theorem State.report_marks : (s.report x).marks = s.marks := rfl
@[simp] theorem State.report_ctxs : (s.report x).ctxs = s.ctxs := rfl
@[simp] theorem State.report_vats : (s.report x).vats = s.vats := rfl
@[simp] theorem State.report_rings : (s.report x).rings = s.rings := rfl
@[simp] theorem State.report_hyd : (s.report x).hyd = s.hyd := rfl
@[simp] theorem State.report_fns : (s.report x).fns = s.fns := rfl
@[simp] theorem State.report_errLog : (s.report x).errLog = s.errLog := rfl
@[simp] theorem State.report_errIndex : (s.report x).errIndex = s.errIndex := rfl
@[simp] theorem State.report_flashLog : (s.report x).flashLog = s.flashLog := rfl
@[simp] theorem State.report_ceSeen : (s.report x).ceSeen = s.ceSeen := rfl
@[simp] theorem State.report_time : (s.report x).time = s.time := rfl
@[simp] theorem State.report_commitWait : (s.report x).commitWait = s.commitWait := rfl
@[simp] theorem State.report_commitRun : (s.report x).commitRun = s.commitRun := rfl
@[simp] theorem State.report_deferred : (s.report x).deferred = s.deferred := rfl
@[simp] theorem State.report_pcieUp : (s.report x).pcieUp = s.pcieUp := rfl
@[simp] theorem State.report_bondReports : (s.report x).bondReports = s.bondReports := rfl
@[simp] theorem State.report_modNum : (s.report x).modNum = s.modNum := rfl
@[simp] theorem State.report_grants : (s.report x).grants = s.grants := rfl
@[simp] theorem State.report_grantsNew : (s.report x).grantsNew = s.grantsNew := rfl
@[simp] theorem State.report_slotOwn : (s.report x).slotOwn = s.slotOwn := rfl
@[simp] theorem State.report_ports : (s.report x).ports = s.ports := rfl
@[simp] theorem State.report_seen : (s.report x).seen = s.seen := rfl
@[simp] theorem State.report_keys : (s.report x).keys = s.keys := rfl
@[simp] theorem State.report_nextInjDie : (s.report x).nextInjDie = s.nextInjDie := rfl
@[simp] theorem State.report_longTag : (s.report x).longTag = s.longTag := rfl
@[simp] theorem State.report_nextRid : (s.report x).nextRid = s.nextRid := rfl
@[simp] theorem State.report_rackqs : (s.report x).rackqs = s.rackqs := rfl
@[simp] theorem State.report_rackSeq : (s.report x).rackSeq = s.rackSeq := rfl
@[simp] theorem State.report_rkLast : (s.report x).rkLast = s.rkLast := rfl
@[simp] theorem State.report_turnTile : (s.report x).turnTile = s.turnTile := rfl
@[simp] theorem State.report_tunOwn : (s.report x).tunOwn = s.tunOwn := rfl
@[simp] theorem State.report_ledNew : (s.report x).ledNew = s.ledNew := rfl
@[simp] theorem State.report_specRows : (s.report x).specRows = s.specRows := rfl
@[simp] theorem State.report_abortRk : (s.report x).abortRk = s.abortRk := rfl
@[simp] theorem State.report_abortTun : (s.report x).abortTun = s.abortTun := rfl
@[simp] theorem State.report_drainRk : (s.report x).drainRk = s.drainRk := rfl
@[simp] theorem State.report_drainTun : (s.report x).drainTun = s.drainTun := rfl
@[simp] theorem State.report_accq : (s.report x).accq = s.accq := rfl
@[simp] theorem State.report_cplValue : (s.report x).cplValue = s.cplValue := rfl
@[simp] theorem State.report_backs : (s.report x).backs = s.backs := rfl
@[simp] theorem State.report_tslots : (s.report x).tslots = s.tslots := rfl
@[simp] theorem State.report_tunq : (s.report x).tunq = s.tunq := rfl
@[simp] theorem State.report_abortSerial : (s.report x).abortSerial = s.abortSerial := rfl
@[simp] theorem State.report_dieHbAge : (s.report x).dieHbAge = s.dieHbAge := rfl
@[simp] theorem State.report_jobs : (s.report x).jobs = s.jobs := rfl
@[simp] theorem State.report_lostDies : (s.report x).lostDies = s.lostDies := rfl
@[simp] theorem State.report_failed : (s.report x).failed = s.failed := rfl
@[simp] theorem State.report_slotHeld : (s.report x).slotHeld = s.slotHeld := rfl
@[simp] theorem State.report_caps : (s.report x).caps = s.caps := rfl
@[simp] theorem State.report_stages : (s.report x).stages = s.stages := rfl
@[simp] theorem State.report_inocLeft : (s.report x).inocLeft = s.inocLeft := rfl
@[simp] theorem State.report_kcores : (s.report x).kcores = s.kcores := rfl
@[simp] theorem State.report_parts : (s.report x).parts = s.parts := rfl
@[simp] theorem State.report_sessions : (s.report x).sessions = s.sessions := rfl
@[simp] theorem State.report_nextSess : (s.report x).nextSess = s.nextSess := rfl
@[simp] theorem State.report_changes : (s.report x).changes = s.changes := rfl
@[simp] theorem State.report_fenceRun : (s.report x).fenceRun = s.fenceRun := rfl
@[simp] theorem State.report_fenceOld : (s.report x).fenceOld = s.fenceOld := rfl
@[simp] theorem State.report_keyCtr : (s.report x).keyCtr = s.keyCtr := rfl
@[simp] theorem State.report_fwKey : (s.report x).fwKey = s.fwKey := rfl
@[simp] theorem State.report_bmrs : (s.report x).bmrs = s.bmrs := rfl
@[simp] theorem State.report_imgSvns : (s.report x).imgSvns = s.imgSvns := rfl
@[simp] theorem State.report_aliasKey : (s.report x).aliasKey = s.aliasKey := rfl
@[simp] theorem State.report_certs : (s.report x).certs = s.certs := rfl
@[simp] theorem State.report_flashGen : (s.report x).flashGen = s.flashGen := rfl
@[simp] theorem State.report_recipes : (s.report x).recipes = s.recipes := rfl
@[simp] theorem State.report_erased : (s.report x).erased = s.erased := rfl
@[simp] theorem State.report_recipe : (s.report x).recipe = s.recipe := rfl
@[simp] theorem State.report_recipeNow : (s.report x).recipeNow = s.recipeNow := rfl
@[simp] theorem State.report_levels : (s.report x).levels = s.levels := rfl
@[simp] theorem State.report_calm : (s.report x).calm = s.calm := rfl
@[simp] theorem State.report_dieLevel : (s.report x).dieLevel = s.dieLevel := rfl
@[simp] theorem State.report_phase : (s.report x).phase = s.phase := rfl
@[simp] theorem State.report_answered : (s.report x).answered = s.answered := rfl
@[simp] theorem State.report_trip : (s.report x).trip = s.trip := rfl
@[simp] theorem State.report_smbAlert : (s.report x).smbAlert = s.smbAlert := rfl
@[simp] theorem State.report_flashExt : (s.report x).flashExt = s.flashExt := rfl
@[simp] theorem State.report_flashWait : (s.report x).flashWait = s.flashWait := rfl
@[simp] theorem State.report_taps : (s.report x).taps = s.taps := rfl
@[simp] theorem State.report_porSeq : (s.report x).porSeq = s.porSeq := rfl
@[simp] theorem State.report_smb : (s.report x).smb = s.smb := rfl
@[simp] theorem State.report_smbPec : (s.report x).smbPec = s.smbPec := rfl
@[simp] theorem State.report_rdata : (s.report x).rdata = s.rdata := rfl
@[simp] theorem State.report_aer : (s.report x).aer = s.aer := rfl
@[simp] theorem State.report_unsupported : (s.report x).unsupported = s.unsupported := rfl
@[simp] theorem State.report_diag : (s.report x).diag = s.diag := rfl
@[simp] theorem State.report_fuseSvn : (s.report x).fuseSvn = s.fuseSvn := rfl
@[simp] theorem State.report_get_vat (e u : Nat) : (s.report x).vat e u = s.vat e u := rfl
@[simp] theorem State.report_get_ctx (e u : Nat) : (s.report x).ctx e u = s.ctx e u := rfl
@[simp] theorem State.report_get_ring (e : Nat) : (s.report x).ring e = s.ring e := rfl
@[simp] theorem State.report_get_fn (e : Nat) : (s.report x).fn e = s.fn e := rfl
@[simp] theorem State.report_get_reg (e u : Nat) : (s.report x).reg e u = s.reg e u := rfl
@[simp] theorem State.report_get_rf (e u : Nat) (g : Fld) : (s.report x).rf e u g = s.rf e u g := rfl
@[simp] theorem State.report_get_peek (rg : Region) (u : Nat) : (s.report x).peek rg u = s.peek rg u := rfl
@[simp] theorem State.report_get_mark (rg : Region) (u : Nat) : (s.report x).mark rg u = s.mark rg u := rfl
@[simp] theorem State.report_get_nDies : (s.report x).nDies = s.nDies := rfl
@[simp] theorem State.report_get_hasDie (e : Nat) : (s.report x).hasDie e = s.hasDie e := rfl
@[simp] theorem State.report_get_hasVat (e u : Nat) : (s.report x).hasVat e u = s.hasVat e u := rfl
@[simp] theorem State.report_get_hasCtx (e u : Nat) : (s.report x).hasCtx e u = s.hasCtx e u := rfl
@[simp] theorem State.report_get_port (e u : Nat) : (s.report x).port e u = s.port e u := rfl
@[simp] theorem State.report_get_rackq (e u : Nat) : (s.report x).rackq e u = s.rackq e u := rfl
@[simp] theorem State.report_get_kcore (e u : Nat) : (s.report x).kcore e u = s.kcore e u := rfl
@[simp] theorem State.report_get_tslot (e u w : Nat) : (s.report x).tslot e u w = s.tslot e u w := rfl
@[simp] theorem State.report_get_partRec (e : Nat) : (s.report x).partRec e = s.partRec e := rfl
@[simp] theorem State.report_get_job (e : Nat) : (s.report x).job e = s.job e := rfl
@[simp] theorem State.report_get_hydSet (e u w : Nat) : (s.report x).hydSet e u w = s.hydSet e u w := rfl

end

/-! ## putPort -/

section
variable (s : State) (d i : Nat) (x : Port)

@[simp] theorem State.putPort_pending : (s.putPort d i x).pending = s.pending := rfl
@[simp] theorem State.putPort_freeCtr : (s.putPort d i x).freeCtr = s.freeCtr := rfl
@[simp] theorem State.putPort_variant : (s.putPort d i x).variant = s.variant := rfl
@[simp] theorem State.putPort_regs : (s.putPort d i x).regs = s.regs := rfl
@[simp] theorem State.putPort_mem : (s.putPort d i x).mem = s.mem := rfl
@[simp] theorem State.putPort_marks : (s.putPort d i x).marks = s.marks := rfl
@[simp] theorem State.putPort_ctxs : (s.putPort d i x).ctxs = s.ctxs := rfl
@[simp] theorem State.putPort_vats : (s.putPort d i x).vats = s.vats := rfl
@[simp] theorem State.putPort_rings : (s.putPort d i x).rings = s.rings := rfl
@[simp] theorem State.putPort_hyd : (s.putPort d i x).hyd = s.hyd := rfl
@[simp] theorem State.putPort_fns : (s.putPort d i x).fns = s.fns := rfl
@[simp] theorem State.putPort_reports : (s.putPort d i x).reports = s.reports := rfl
@[simp] theorem State.putPort_errLog : (s.putPort d i x).errLog = s.errLog := rfl
@[simp] theorem State.putPort_errIndex : (s.putPort d i x).errIndex = s.errIndex := rfl
@[simp] theorem State.putPort_flashLog : (s.putPort d i x).flashLog = s.flashLog := rfl
@[simp] theorem State.putPort_ceSeen : (s.putPort d i x).ceSeen = s.ceSeen := rfl
@[simp] theorem State.putPort_time : (s.putPort d i x).time = s.time := rfl
@[simp] theorem State.putPort_commitWait : (s.putPort d i x).commitWait = s.commitWait := rfl
@[simp] theorem State.putPort_commitRun : (s.putPort d i x).commitRun = s.commitRun := rfl
@[simp] theorem State.putPort_deferred : (s.putPort d i x).deferred = s.deferred := rfl
@[simp] theorem State.putPort_pcieUp : (s.putPort d i x).pcieUp = s.pcieUp := rfl
@[simp] theorem State.putPort_bondReports : (s.putPort d i x).bondReports = s.bondReports := rfl
@[simp] theorem State.putPort_modNum : (s.putPort d i x).modNum = s.modNum := rfl
@[simp] theorem State.putPort_grants : (s.putPort d i x).grants = s.grants := rfl
@[simp] theorem State.putPort_grantsNew : (s.putPort d i x).grantsNew = s.grantsNew := rfl
@[simp] theorem State.putPort_slotOwn : (s.putPort d i x).slotOwn = s.slotOwn := rfl
@[simp] theorem State.putPort_seen : (s.putPort d i x).seen = s.seen := rfl
@[simp] theorem State.putPort_keys : (s.putPort d i x).keys = s.keys := rfl
@[simp] theorem State.putPort_nextInjDie : (s.putPort d i x).nextInjDie = s.nextInjDie := rfl
@[simp] theorem State.putPort_longTag : (s.putPort d i x).longTag = s.longTag := rfl
@[simp] theorem State.putPort_nextRid : (s.putPort d i x).nextRid = s.nextRid := rfl
@[simp] theorem State.putPort_rackqs : (s.putPort d i x).rackqs = s.rackqs := rfl
@[simp] theorem State.putPort_rackSeq : (s.putPort d i x).rackSeq = s.rackSeq := rfl
@[simp] theorem State.putPort_rkLast : (s.putPort d i x).rkLast = s.rkLast := rfl
@[simp] theorem State.putPort_turnTile : (s.putPort d i x).turnTile = s.turnTile := rfl
@[simp] theorem State.putPort_tunOwn : (s.putPort d i x).tunOwn = s.tunOwn := rfl
@[simp] theorem State.putPort_ledNew : (s.putPort d i x).ledNew = s.ledNew := rfl
@[simp] theorem State.putPort_specRows : (s.putPort d i x).specRows = s.specRows := rfl
@[simp] theorem State.putPort_abortRk : (s.putPort d i x).abortRk = s.abortRk := rfl
@[simp] theorem State.putPort_abortTun : (s.putPort d i x).abortTun = s.abortTun := rfl
@[simp] theorem State.putPort_drainRk : (s.putPort d i x).drainRk = s.drainRk := rfl
@[simp] theorem State.putPort_drainTun : (s.putPort d i x).drainTun = s.drainTun := rfl
@[simp] theorem State.putPort_accq : (s.putPort d i x).accq = s.accq := rfl
@[simp] theorem State.putPort_cplValue : (s.putPort d i x).cplValue = s.cplValue := rfl
@[simp] theorem State.putPort_backs : (s.putPort d i x).backs = s.backs := rfl
@[simp] theorem State.putPort_tslots : (s.putPort d i x).tslots = s.tslots := rfl
@[simp] theorem State.putPort_tunq : (s.putPort d i x).tunq = s.tunq := rfl
@[simp] theorem State.putPort_abortSerial : (s.putPort d i x).abortSerial = s.abortSerial := rfl
@[simp] theorem State.putPort_dieHbAge : (s.putPort d i x).dieHbAge = s.dieHbAge := rfl
@[simp] theorem State.putPort_jobs : (s.putPort d i x).jobs = s.jobs := rfl
@[simp] theorem State.putPort_lostDies : (s.putPort d i x).lostDies = s.lostDies := rfl
@[simp] theorem State.putPort_failed : (s.putPort d i x).failed = s.failed := rfl
@[simp] theorem State.putPort_slotHeld : (s.putPort d i x).slotHeld = s.slotHeld := rfl
@[simp] theorem State.putPort_caps : (s.putPort d i x).caps = s.caps := rfl
@[simp] theorem State.putPort_stages : (s.putPort d i x).stages = s.stages := rfl
@[simp] theorem State.putPort_inocLeft : (s.putPort d i x).inocLeft = s.inocLeft := rfl
@[simp] theorem State.putPort_kcores : (s.putPort d i x).kcores = s.kcores := rfl
@[simp] theorem State.putPort_parts : (s.putPort d i x).parts = s.parts := rfl
@[simp] theorem State.putPort_sessions : (s.putPort d i x).sessions = s.sessions := rfl
@[simp] theorem State.putPort_nextSess : (s.putPort d i x).nextSess = s.nextSess := rfl
@[simp] theorem State.putPort_changes : (s.putPort d i x).changes = s.changes := rfl
@[simp] theorem State.putPort_fenceRun : (s.putPort d i x).fenceRun = s.fenceRun := rfl
@[simp] theorem State.putPort_fenceOld : (s.putPort d i x).fenceOld = s.fenceOld := rfl
@[simp] theorem State.putPort_keyCtr : (s.putPort d i x).keyCtr = s.keyCtr := rfl
@[simp] theorem State.putPort_fwKey : (s.putPort d i x).fwKey = s.fwKey := rfl
@[simp] theorem State.putPort_bmrs : (s.putPort d i x).bmrs = s.bmrs := rfl
@[simp] theorem State.putPort_imgSvns : (s.putPort d i x).imgSvns = s.imgSvns := rfl
@[simp] theorem State.putPort_aliasKey : (s.putPort d i x).aliasKey = s.aliasKey := rfl
@[simp] theorem State.putPort_certs : (s.putPort d i x).certs = s.certs := rfl
@[simp] theorem State.putPort_flashGen : (s.putPort d i x).flashGen = s.flashGen := rfl
@[simp] theorem State.putPort_recipes : (s.putPort d i x).recipes = s.recipes := rfl
@[simp] theorem State.putPort_erased : (s.putPort d i x).erased = s.erased := rfl
@[simp] theorem State.putPort_recipe : (s.putPort d i x).recipe = s.recipe := rfl
@[simp] theorem State.putPort_recipeNow : (s.putPort d i x).recipeNow = s.recipeNow := rfl
@[simp] theorem State.putPort_levels : (s.putPort d i x).levels = s.levels := rfl
@[simp] theorem State.putPort_calm : (s.putPort d i x).calm = s.calm := rfl
@[simp] theorem State.putPort_dieLevel : (s.putPort d i x).dieLevel = s.dieLevel := rfl
@[simp] theorem State.putPort_phase : (s.putPort d i x).phase = s.phase := rfl
@[simp] theorem State.putPort_answered : (s.putPort d i x).answered = s.answered := rfl
@[simp] theorem State.putPort_trip : (s.putPort d i x).trip = s.trip := rfl
@[simp] theorem State.putPort_smbAlert : (s.putPort d i x).smbAlert = s.smbAlert := rfl
@[simp] theorem State.putPort_flashExt : (s.putPort d i x).flashExt = s.flashExt := rfl
@[simp] theorem State.putPort_flashWait : (s.putPort d i x).flashWait = s.flashWait := rfl
@[simp] theorem State.putPort_taps : (s.putPort d i x).taps = s.taps := rfl
@[simp] theorem State.putPort_porSeq : (s.putPort d i x).porSeq = s.porSeq := rfl
@[simp] theorem State.putPort_smb : (s.putPort d i x).smb = s.smb := rfl
@[simp] theorem State.putPort_smbPec : (s.putPort d i x).smbPec = s.smbPec := rfl
@[simp] theorem State.putPort_rdata : (s.putPort d i x).rdata = s.rdata := rfl
@[simp] theorem State.putPort_aer : (s.putPort d i x).aer = s.aer := rfl
@[simp] theorem State.putPort_unsupported : (s.putPort d i x).unsupported = s.unsupported := rfl
@[simp] theorem State.putPort_diag : (s.putPort d i x).diag = s.diag := rfl
@[simp] theorem State.putPort_fuseSvn : (s.putPort d i x).fuseSvn = s.fuseSvn := rfl
@[simp] theorem State.putPort_get_vat (e u : Nat) : (s.putPort d i x).vat e u = s.vat e u := rfl
@[simp] theorem State.putPort_get_ctx (e u : Nat) : (s.putPort d i x).ctx e u = s.ctx e u := rfl
@[simp] theorem State.putPort_get_ring (e : Nat) : (s.putPort d i x).ring e = s.ring e := rfl
@[simp] theorem State.putPort_get_fn (e : Nat) : (s.putPort d i x).fn e = s.fn e := rfl
@[simp] theorem State.putPort_get_reg (e u : Nat) : (s.putPort d i x).reg e u = s.reg e u := rfl
@[simp] theorem State.putPort_get_rf (e u : Nat) (g : Fld) : (s.putPort d i x).rf e u g = s.rf e u g := rfl
@[simp] theorem State.putPort_get_peek (rg : Region) (u : Nat) : (s.putPort d i x).peek rg u = s.peek rg u := rfl
@[simp] theorem State.putPort_get_mark (rg : Region) (u : Nat) : (s.putPort d i x).mark rg u = s.mark rg u := rfl
@[simp] theorem State.putPort_get_nDies : (s.putPort d i x).nDies = s.nDies := rfl
@[simp] theorem State.putPort_get_hasDie (e : Nat) : (s.putPort d i x).hasDie e = s.hasDie e := rfl
@[simp] theorem State.putPort_get_hasVat (e u : Nat) : (s.putPort d i x).hasVat e u = s.hasVat e u := rfl
@[simp] theorem State.putPort_get_hasCtx (e u : Nat) : (s.putPort d i x).hasCtx e u = s.hasCtx e u := rfl
@[simp] theorem State.putPort_get_rackq (e u : Nat) : (s.putPort d i x).rackq e u = s.rackq e u := rfl
@[simp] theorem State.putPort_get_kcore (e u : Nat) : (s.putPort d i x).kcore e u = s.kcore e u := rfl
@[simp] theorem State.putPort_get_tslot (e u w : Nat) : (s.putPort d i x).tslot e u w = s.tslot e u w := rfl
@[simp] theorem State.putPort_get_partRec (e : Nat) : (s.putPort d i x).partRec e = s.partRec e := rfl
@[simp] theorem State.putPort_get_job (e : Nat) : (s.putPort d i x).job e = s.job e := rfl
@[simp] theorem State.putPort_get_hydSet (e u w : Nat) : (s.putPort d i x).hydSet e u w = s.hydSet e u w := rfl

end

/-! ## putRackq -/

section
variable (s : State) (d q : Nat) (x : RackQ)

@[simp] theorem State.putRackq_pending : (s.putRackq d q x).pending = s.pending := rfl
@[simp] theorem State.putRackq_freeCtr : (s.putRackq d q x).freeCtr = s.freeCtr := rfl
@[simp] theorem State.putRackq_variant : (s.putRackq d q x).variant = s.variant := rfl
@[simp] theorem State.putRackq_regs : (s.putRackq d q x).regs = s.regs := rfl
@[simp] theorem State.putRackq_mem : (s.putRackq d q x).mem = s.mem := rfl
@[simp] theorem State.putRackq_marks : (s.putRackq d q x).marks = s.marks := rfl
@[simp] theorem State.putRackq_ctxs : (s.putRackq d q x).ctxs = s.ctxs := rfl
@[simp] theorem State.putRackq_vats : (s.putRackq d q x).vats = s.vats := rfl
@[simp] theorem State.putRackq_rings : (s.putRackq d q x).rings = s.rings := rfl
@[simp] theorem State.putRackq_hyd : (s.putRackq d q x).hyd = s.hyd := rfl
@[simp] theorem State.putRackq_fns : (s.putRackq d q x).fns = s.fns := rfl
@[simp] theorem State.putRackq_reports : (s.putRackq d q x).reports = s.reports := rfl
@[simp] theorem State.putRackq_errLog : (s.putRackq d q x).errLog = s.errLog := rfl
@[simp] theorem State.putRackq_errIndex : (s.putRackq d q x).errIndex = s.errIndex := rfl
@[simp] theorem State.putRackq_flashLog : (s.putRackq d q x).flashLog = s.flashLog := rfl
@[simp] theorem State.putRackq_ceSeen : (s.putRackq d q x).ceSeen = s.ceSeen := rfl
@[simp] theorem State.putRackq_time : (s.putRackq d q x).time = s.time := rfl
@[simp] theorem State.putRackq_commitWait : (s.putRackq d q x).commitWait = s.commitWait := rfl
@[simp] theorem State.putRackq_commitRun : (s.putRackq d q x).commitRun = s.commitRun := rfl
@[simp] theorem State.putRackq_deferred : (s.putRackq d q x).deferred = s.deferred := rfl
@[simp] theorem State.putRackq_pcieUp : (s.putRackq d q x).pcieUp = s.pcieUp := rfl
@[simp] theorem State.putRackq_bondReports : (s.putRackq d q x).bondReports = s.bondReports := rfl
@[simp] theorem State.putRackq_modNum : (s.putRackq d q x).modNum = s.modNum := rfl
@[simp] theorem State.putRackq_grants : (s.putRackq d q x).grants = s.grants := rfl
@[simp] theorem State.putRackq_grantsNew : (s.putRackq d q x).grantsNew = s.grantsNew := rfl
@[simp] theorem State.putRackq_slotOwn : (s.putRackq d q x).slotOwn = s.slotOwn := rfl
@[simp] theorem State.putRackq_ports : (s.putRackq d q x).ports = s.ports := rfl
@[simp] theorem State.putRackq_seen : (s.putRackq d q x).seen = s.seen := rfl
@[simp] theorem State.putRackq_keys : (s.putRackq d q x).keys = s.keys := rfl
@[simp] theorem State.putRackq_nextInjDie : (s.putRackq d q x).nextInjDie = s.nextInjDie := rfl
@[simp] theorem State.putRackq_longTag : (s.putRackq d q x).longTag = s.longTag := rfl
@[simp] theorem State.putRackq_nextRid : (s.putRackq d q x).nextRid = s.nextRid := rfl
@[simp] theorem State.putRackq_rackSeq : (s.putRackq d q x).rackSeq = s.rackSeq := rfl
@[simp] theorem State.putRackq_rkLast : (s.putRackq d q x).rkLast = s.rkLast := rfl
@[simp] theorem State.putRackq_turnTile : (s.putRackq d q x).turnTile = s.turnTile := rfl
@[simp] theorem State.putRackq_tunOwn : (s.putRackq d q x).tunOwn = s.tunOwn := rfl
@[simp] theorem State.putRackq_ledNew : (s.putRackq d q x).ledNew = s.ledNew := rfl
@[simp] theorem State.putRackq_specRows : (s.putRackq d q x).specRows = s.specRows := rfl
@[simp] theorem State.putRackq_abortRk : (s.putRackq d q x).abortRk = s.abortRk := rfl
@[simp] theorem State.putRackq_abortTun : (s.putRackq d q x).abortTun = s.abortTun := rfl
@[simp] theorem State.putRackq_drainRk : (s.putRackq d q x).drainRk = s.drainRk := rfl
@[simp] theorem State.putRackq_drainTun : (s.putRackq d q x).drainTun = s.drainTun := rfl
@[simp] theorem State.putRackq_accq : (s.putRackq d q x).accq = s.accq := rfl
@[simp] theorem State.putRackq_cplValue : (s.putRackq d q x).cplValue = s.cplValue := rfl
@[simp] theorem State.putRackq_backs : (s.putRackq d q x).backs = s.backs := rfl
@[simp] theorem State.putRackq_tslots : (s.putRackq d q x).tslots = s.tslots := rfl
@[simp] theorem State.putRackq_tunq : (s.putRackq d q x).tunq = s.tunq := rfl
@[simp] theorem State.putRackq_abortSerial : (s.putRackq d q x).abortSerial = s.abortSerial := rfl
@[simp] theorem State.putRackq_dieHbAge : (s.putRackq d q x).dieHbAge = s.dieHbAge := rfl
@[simp] theorem State.putRackq_jobs : (s.putRackq d q x).jobs = s.jobs := rfl
@[simp] theorem State.putRackq_lostDies : (s.putRackq d q x).lostDies = s.lostDies := rfl
@[simp] theorem State.putRackq_failed : (s.putRackq d q x).failed = s.failed := rfl
@[simp] theorem State.putRackq_slotHeld : (s.putRackq d q x).slotHeld = s.slotHeld := rfl
@[simp] theorem State.putRackq_caps : (s.putRackq d q x).caps = s.caps := rfl
@[simp] theorem State.putRackq_stages : (s.putRackq d q x).stages = s.stages := rfl
@[simp] theorem State.putRackq_inocLeft : (s.putRackq d q x).inocLeft = s.inocLeft := rfl
@[simp] theorem State.putRackq_kcores : (s.putRackq d q x).kcores = s.kcores := rfl
@[simp] theorem State.putRackq_parts : (s.putRackq d q x).parts = s.parts := rfl
@[simp] theorem State.putRackq_sessions : (s.putRackq d q x).sessions = s.sessions := rfl
@[simp] theorem State.putRackq_nextSess : (s.putRackq d q x).nextSess = s.nextSess := rfl
@[simp] theorem State.putRackq_changes : (s.putRackq d q x).changes = s.changes := rfl
@[simp] theorem State.putRackq_fenceRun : (s.putRackq d q x).fenceRun = s.fenceRun := rfl
@[simp] theorem State.putRackq_fenceOld : (s.putRackq d q x).fenceOld = s.fenceOld := rfl
@[simp] theorem State.putRackq_keyCtr : (s.putRackq d q x).keyCtr = s.keyCtr := rfl
@[simp] theorem State.putRackq_fwKey : (s.putRackq d q x).fwKey = s.fwKey := rfl
@[simp] theorem State.putRackq_bmrs : (s.putRackq d q x).bmrs = s.bmrs := rfl
@[simp] theorem State.putRackq_imgSvns : (s.putRackq d q x).imgSvns = s.imgSvns := rfl
@[simp] theorem State.putRackq_aliasKey : (s.putRackq d q x).aliasKey = s.aliasKey := rfl
@[simp] theorem State.putRackq_certs : (s.putRackq d q x).certs = s.certs := rfl
@[simp] theorem State.putRackq_flashGen : (s.putRackq d q x).flashGen = s.flashGen := rfl
@[simp] theorem State.putRackq_recipes : (s.putRackq d q x).recipes = s.recipes := rfl
@[simp] theorem State.putRackq_erased : (s.putRackq d q x).erased = s.erased := rfl
@[simp] theorem State.putRackq_recipe : (s.putRackq d q x).recipe = s.recipe := rfl
@[simp] theorem State.putRackq_recipeNow : (s.putRackq d q x).recipeNow = s.recipeNow := rfl
@[simp] theorem State.putRackq_levels : (s.putRackq d q x).levels = s.levels := rfl
@[simp] theorem State.putRackq_calm : (s.putRackq d q x).calm = s.calm := rfl
@[simp] theorem State.putRackq_dieLevel : (s.putRackq d q x).dieLevel = s.dieLevel := rfl
@[simp] theorem State.putRackq_phase : (s.putRackq d q x).phase = s.phase := rfl
@[simp] theorem State.putRackq_answered : (s.putRackq d q x).answered = s.answered := rfl
@[simp] theorem State.putRackq_trip : (s.putRackq d q x).trip = s.trip := rfl
@[simp] theorem State.putRackq_smbAlert : (s.putRackq d q x).smbAlert = s.smbAlert := rfl
@[simp] theorem State.putRackq_flashExt : (s.putRackq d q x).flashExt = s.flashExt := rfl
@[simp] theorem State.putRackq_flashWait : (s.putRackq d q x).flashWait = s.flashWait := rfl
@[simp] theorem State.putRackq_taps : (s.putRackq d q x).taps = s.taps := rfl
@[simp] theorem State.putRackq_porSeq : (s.putRackq d q x).porSeq = s.porSeq := rfl
@[simp] theorem State.putRackq_smb : (s.putRackq d q x).smb = s.smb := rfl
@[simp] theorem State.putRackq_smbPec : (s.putRackq d q x).smbPec = s.smbPec := rfl
@[simp] theorem State.putRackq_rdata : (s.putRackq d q x).rdata = s.rdata := rfl
@[simp] theorem State.putRackq_aer : (s.putRackq d q x).aer = s.aer := rfl
@[simp] theorem State.putRackq_unsupported : (s.putRackq d q x).unsupported = s.unsupported := rfl
@[simp] theorem State.putRackq_diag : (s.putRackq d q x).diag = s.diag := rfl
@[simp] theorem State.putRackq_fuseSvn : (s.putRackq d q x).fuseSvn = s.fuseSvn := rfl
@[simp] theorem State.putRackq_get_vat (e u : Nat) : (s.putRackq d q x).vat e u = s.vat e u := rfl
@[simp] theorem State.putRackq_get_ctx (e u : Nat) : (s.putRackq d q x).ctx e u = s.ctx e u := rfl
@[simp] theorem State.putRackq_get_ring (e : Nat) : (s.putRackq d q x).ring e = s.ring e := rfl
@[simp] theorem State.putRackq_get_fn (e : Nat) : (s.putRackq d q x).fn e = s.fn e := rfl
@[simp] theorem State.putRackq_get_reg (e u : Nat) : (s.putRackq d q x).reg e u = s.reg e u := rfl
@[simp] theorem State.putRackq_get_rf (e u : Nat) (g : Fld) : (s.putRackq d q x).rf e u g = s.rf e u g := rfl
@[simp] theorem State.putRackq_get_peek (rg : Region) (u : Nat) : (s.putRackq d q x).peek rg u = s.peek rg u := rfl
@[simp] theorem State.putRackq_get_mark (rg : Region) (u : Nat) : (s.putRackq d q x).mark rg u = s.mark rg u := rfl
@[simp] theorem State.putRackq_get_nDies : (s.putRackq d q x).nDies = s.nDies := rfl
@[simp] theorem State.putRackq_get_hasDie (e : Nat) : (s.putRackq d q x).hasDie e = s.hasDie e := rfl
@[simp] theorem State.putRackq_get_hasVat (e u : Nat) : (s.putRackq d q x).hasVat e u = s.hasVat e u := rfl
@[simp] theorem State.putRackq_get_hasCtx (e u : Nat) : (s.putRackq d q x).hasCtx e u = s.hasCtx e u := rfl
@[simp] theorem State.putRackq_get_port (e u : Nat) : (s.putRackq d q x).port e u = s.port e u := rfl
@[simp] theorem State.putRackq_get_kcore (e u : Nat) : (s.putRackq d q x).kcore e u = s.kcore e u := rfl
@[simp] theorem State.putRackq_get_tslot (e u w : Nat) : (s.putRackq d q x).tslot e u w = s.tslot e u w := rfl
@[simp] theorem State.putRackq_get_partRec (e : Nat) : (s.putRackq d q x).partRec e = s.partRec e := rfl
@[simp] theorem State.putRackq_get_job (e : Nat) : (s.putRackq d q x).job e = s.job e := rfl
@[simp] theorem State.putRackq_get_hydSet (e u w : Nat) : (s.putRackq d q x).hydSet e u w = s.hydSet e u w := rfl

end

/-! ## putKcore -/

section
variable (s : State) (d k : Nat) (x : KCore)

@[simp] theorem State.putKcore_pending : (s.putKcore d k x).pending = s.pending := rfl
@[simp] theorem State.putKcore_freeCtr : (s.putKcore d k x).freeCtr = s.freeCtr := rfl
@[simp] theorem State.putKcore_variant : (s.putKcore d k x).variant = s.variant := rfl
@[simp] theorem State.putKcore_regs : (s.putKcore d k x).regs = s.regs := rfl
@[simp] theorem State.putKcore_mem : (s.putKcore d k x).mem = s.mem := rfl
@[simp] theorem State.putKcore_marks : (s.putKcore d k x).marks = s.marks := rfl
@[simp] theorem State.putKcore_ctxs : (s.putKcore d k x).ctxs = s.ctxs := rfl
@[simp] theorem State.putKcore_vats : (s.putKcore d k x).vats = s.vats := rfl
@[simp] theorem State.putKcore_rings : (s.putKcore d k x).rings = s.rings := rfl
@[simp] theorem State.putKcore_hyd : (s.putKcore d k x).hyd = s.hyd := rfl
@[simp] theorem State.putKcore_fns : (s.putKcore d k x).fns = s.fns := rfl
@[simp] theorem State.putKcore_reports : (s.putKcore d k x).reports = s.reports := rfl
@[simp] theorem State.putKcore_errLog : (s.putKcore d k x).errLog = s.errLog := rfl
@[simp] theorem State.putKcore_errIndex : (s.putKcore d k x).errIndex = s.errIndex := rfl
@[simp] theorem State.putKcore_flashLog : (s.putKcore d k x).flashLog = s.flashLog := rfl
@[simp] theorem State.putKcore_ceSeen : (s.putKcore d k x).ceSeen = s.ceSeen := rfl
@[simp] theorem State.putKcore_time : (s.putKcore d k x).time = s.time := rfl
@[simp] theorem State.putKcore_commitWait : (s.putKcore d k x).commitWait = s.commitWait := rfl
@[simp] theorem State.putKcore_commitRun : (s.putKcore d k x).commitRun = s.commitRun := rfl
@[simp] theorem State.putKcore_deferred : (s.putKcore d k x).deferred = s.deferred := rfl
@[simp] theorem State.putKcore_pcieUp : (s.putKcore d k x).pcieUp = s.pcieUp := rfl
@[simp] theorem State.putKcore_bondReports : (s.putKcore d k x).bondReports = s.bondReports := rfl
@[simp] theorem State.putKcore_modNum : (s.putKcore d k x).modNum = s.modNum := rfl
@[simp] theorem State.putKcore_grants : (s.putKcore d k x).grants = s.grants := rfl
@[simp] theorem State.putKcore_grantsNew : (s.putKcore d k x).grantsNew = s.grantsNew := rfl
@[simp] theorem State.putKcore_slotOwn : (s.putKcore d k x).slotOwn = s.slotOwn := rfl
@[simp] theorem State.putKcore_ports : (s.putKcore d k x).ports = s.ports := rfl
@[simp] theorem State.putKcore_seen : (s.putKcore d k x).seen = s.seen := rfl
@[simp] theorem State.putKcore_keys : (s.putKcore d k x).keys = s.keys := rfl
@[simp] theorem State.putKcore_nextInjDie : (s.putKcore d k x).nextInjDie = s.nextInjDie := rfl
@[simp] theorem State.putKcore_longTag : (s.putKcore d k x).longTag = s.longTag := rfl
@[simp] theorem State.putKcore_nextRid : (s.putKcore d k x).nextRid = s.nextRid := rfl
@[simp] theorem State.putKcore_rackqs : (s.putKcore d k x).rackqs = s.rackqs := rfl
@[simp] theorem State.putKcore_rackSeq : (s.putKcore d k x).rackSeq = s.rackSeq := rfl
@[simp] theorem State.putKcore_rkLast : (s.putKcore d k x).rkLast = s.rkLast := rfl
@[simp] theorem State.putKcore_turnTile : (s.putKcore d k x).turnTile = s.turnTile := rfl
@[simp] theorem State.putKcore_tunOwn : (s.putKcore d k x).tunOwn = s.tunOwn := rfl
@[simp] theorem State.putKcore_ledNew : (s.putKcore d k x).ledNew = s.ledNew := rfl
@[simp] theorem State.putKcore_specRows : (s.putKcore d k x).specRows = s.specRows := rfl
@[simp] theorem State.putKcore_abortRk : (s.putKcore d k x).abortRk = s.abortRk := rfl
@[simp] theorem State.putKcore_abortTun : (s.putKcore d k x).abortTun = s.abortTun := rfl
@[simp] theorem State.putKcore_drainRk : (s.putKcore d k x).drainRk = s.drainRk := rfl
@[simp] theorem State.putKcore_drainTun : (s.putKcore d k x).drainTun = s.drainTun := rfl
@[simp] theorem State.putKcore_accq : (s.putKcore d k x).accq = s.accq := rfl
@[simp] theorem State.putKcore_cplValue : (s.putKcore d k x).cplValue = s.cplValue := rfl
@[simp] theorem State.putKcore_backs : (s.putKcore d k x).backs = s.backs := rfl
@[simp] theorem State.putKcore_tslots : (s.putKcore d k x).tslots = s.tslots := rfl
@[simp] theorem State.putKcore_tunq : (s.putKcore d k x).tunq = s.tunq := rfl
@[simp] theorem State.putKcore_abortSerial : (s.putKcore d k x).abortSerial = s.abortSerial := rfl
@[simp] theorem State.putKcore_dieHbAge : (s.putKcore d k x).dieHbAge = s.dieHbAge := rfl
@[simp] theorem State.putKcore_jobs : (s.putKcore d k x).jobs = s.jobs := rfl
@[simp] theorem State.putKcore_lostDies : (s.putKcore d k x).lostDies = s.lostDies := rfl
@[simp] theorem State.putKcore_failed : (s.putKcore d k x).failed = s.failed := rfl
@[simp] theorem State.putKcore_slotHeld : (s.putKcore d k x).slotHeld = s.slotHeld := rfl
@[simp] theorem State.putKcore_caps : (s.putKcore d k x).caps = s.caps := rfl
@[simp] theorem State.putKcore_stages : (s.putKcore d k x).stages = s.stages := rfl
@[simp] theorem State.putKcore_inocLeft : (s.putKcore d k x).inocLeft = s.inocLeft := rfl
@[simp] theorem State.putKcore_parts : (s.putKcore d k x).parts = s.parts := rfl
@[simp] theorem State.putKcore_sessions : (s.putKcore d k x).sessions = s.sessions := rfl
@[simp] theorem State.putKcore_nextSess : (s.putKcore d k x).nextSess = s.nextSess := rfl
@[simp] theorem State.putKcore_changes : (s.putKcore d k x).changes = s.changes := rfl
@[simp] theorem State.putKcore_fenceRun : (s.putKcore d k x).fenceRun = s.fenceRun := rfl
@[simp] theorem State.putKcore_fenceOld : (s.putKcore d k x).fenceOld = s.fenceOld := rfl
@[simp] theorem State.putKcore_keyCtr : (s.putKcore d k x).keyCtr = s.keyCtr := rfl
@[simp] theorem State.putKcore_fwKey : (s.putKcore d k x).fwKey = s.fwKey := rfl
@[simp] theorem State.putKcore_bmrs : (s.putKcore d k x).bmrs = s.bmrs := rfl
@[simp] theorem State.putKcore_imgSvns : (s.putKcore d k x).imgSvns = s.imgSvns := rfl
@[simp] theorem State.putKcore_aliasKey : (s.putKcore d k x).aliasKey = s.aliasKey := rfl
@[simp] theorem State.putKcore_certs : (s.putKcore d k x).certs = s.certs := rfl
@[simp] theorem State.putKcore_flashGen : (s.putKcore d k x).flashGen = s.flashGen := rfl
@[simp] theorem State.putKcore_recipes : (s.putKcore d k x).recipes = s.recipes := rfl
@[simp] theorem State.putKcore_erased : (s.putKcore d k x).erased = s.erased := rfl
@[simp] theorem State.putKcore_recipe : (s.putKcore d k x).recipe = s.recipe := rfl
@[simp] theorem State.putKcore_recipeNow : (s.putKcore d k x).recipeNow = s.recipeNow := rfl
@[simp] theorem State.putKcore_levels : (s.putKcore d k x).levels = s.levels := rfl
@[simp] theorem State.putKcore_calm : (s.putKcore d k x).calm = s.calm := rfl
@[simp] theorem State.putKcore_dieLevel : (s.putKcore d k x).dieLevel = s.dieLevel := rfl
@[simp] theorem State.putKcore_phase : (s.putKcore d k x).phase = s.phase := rfl
@[simp] theorem State.putKcore_answered : (s.putKcore d k x).answered = s.answered := rfl
@[simp] theorem State.putKcore_trip : (s.putKcore d k x).trip = s.trip := rfl
@[simp] theorem State.putKcore_smbAlert : (s.putKcore d k x).smbAlert = s.smbAlert := rfl
@[simp] theorem State.putKcore_flashExt : (s.putKcore d k x).flashExt = s.flashExt := rfl
@[simp] theorem State.putKcore_flashWait : (s.putKcore d k x).flashWait = s.flashWait := rfl
@[simp] theorem State.putKcore_taps : (s.putKcore d k x).taps = s.taps := rfl
@[simp] theorem State.putKcore_porSeq : (s.putKcore d k x).porSeq = s.porSeq := rfl
@[simp] theorem State.putKcore_smb : (s.putKcore d k x).smb = s.smb := rfl
@[simp] theorem State.putKcore_smbPec : (s.putKcore d k x).smbPec = s.smbPec := rfl
@[simp] theorem State.putKcore_rdata : (s.putKcore d k x).rdata = s.rdata := rfl
@[simp] theorem State.putKcore_aer : (s.putKcore d k x).aer = s.aer := rfl
@[simp] theorem State.putKcore_unsupported : (s.putKcore d k x).unsupported = s.unsupported := rfl
@[simp] theorem State.putKcore_diag : (s.putKcore d k x).diag = s.diag := rfl
@[simp] theorem State.putKcore_fuseSvn : (s.putKcore d k x).fuseSvn = s.fuseSvn := rfl
@[simp] theorem State.putKcore_get_vat (e u : Nat) : (s.putKcore d k x).vat e u = s.vat e u := rfl
@[simp] theorem State.putKcore_get_ctx (e u : Nat) : (s.putKcore d k x).ctx e u = s.ctx e u := rfl
@[simp] theorem State.putKcore_get_ring (e : Nat) : (s.putKcore d k x).ring e = s.ring e := rfl
@[simp] theorem State.putKcore_get_fn (e : Nat) : (s.putKcore d k x).fn e = s.fn e := rfl
@[simp] theorem State.putKcore_get_reg (e u : Nat) : (s.putKcore d k x).reg e u = s.reg e u := rfl
@[simp] theorem State.putKcore_get_rf (e u : Nat) (g : Fld) : (s.putKcore d k x).rf e u g = s.rf e u g := rfl
@[simp] theorem State.putKcore_get_peek (rg : Region) (u : Nat) : (s.putKcore d k x).peek rg u = s.peek rg u := rfl
@[simp] theorem State.putKcore_get_mark (rg : Region) (u : Nat) : (s.putKcore d k x).mark rg u = s.mark rg u := rfl
@[simp] theorem State.putKcore_get_nDies : (s.putKcore d k x).nDies = s.nDies := rfl
@[simp] theorem State.putKcore_get_hasDie (e : Nat) : (s.putKcore d k x).hasDie e = s.hasDie e := rfl
@[simp] theorem State.putKcore_get_hasVat (e u : Nat) : (s.putKcore d k x).hasVat e u = s.hasVat e u := rfl
@[simp] theorem State.putKcore_get_hasCtx (e u : Nat) : (s.putKcore d k x).hasCtx e u = s.hasCtx e u := rfl
@[simp] theorem State.putKcore_get_port (e u : Nat) : (s.putKcore d k x).port e u = s.port e u := rfl
@[simp] theorem State.putKcore_get_rackq (e u : Nat) : (s.putKcore d k x).rackq e u = s.rackq e u := rfl
@[simp] theorem State.putKcore_get_tslot (e u w : Nat) : (s.putKcore d k x).tslot e u w = s.tslot e u w := rfl
@[simp] theorem State.putKcore_get_partRec (e : Nat) : (s.putKcore d k x).partRec e = s.partRec e := rfl
@[simp] theorem State.putKcore_get_job (e : Nat) : (s.putKcore d k x).job e = s.job e := rfl
@[simp] theorem State.putKcore_get_hydSet (e u w : Nat) : (s.putKcore d k x).hydSet e u w = s.hydSet e u w := rfl

end

/-! ## putTslot -/

section
variable (s : State) (d p sl : Nat) (x : TSlot)

@[simp] theorem State.putTslot_pending : (s.putTslot d p sl x).pending = s.pending := rfl
@[simp] theorem State.putTslot_freeCtr : (s.putTslot d p sl x).freeCtr = s.freeCtr := rfl
@[simp] theorem State.putTslot_variant : (s.putTslot d p sl x).variant = s.variant := rfl
@[simp] theorem State.putTslot_regs : (s.putTslot d p sl x).regs = s.regs := rfl
@[simp] theorem State.putTslot_mem : (s.putTslot d p sl x).mem = s.mem := rfl
@[simp] theorem State.putTslot_marks : (s.putTslot d p sl x).marks = s.marks := rfl
@[simp] theorem State.putTslot_ctxs : (s.putTslot d p sl x).ctxs = s.ctxs := rfl
@[simp] theorem State.putTslot_vats : (s.putTslot d p sl x).vats = s.vats := rfl
@[simp] theorem State.putTslot_rings : (s.putTslot d p sl x).rings = s.rings := rfl
@[simp] theorem State.putTslot_hyd : (s.putTslot d p sl x).hyd = s.hyd := rfl
@[simp] theorem State.putTslot_fns : (s.putTslot d p sl x).fns = s.fns := rfl
@[simp] theorem State.putTslot_reports : (s.putTslot d p sl x).reports = s.reports := rfl
@[simp] theorem State.putTslot_errLog : (s.putTslot d p sl x).errLog = s.errLog := rfl
@[simp] theorem State.putTslot_errIndex : (s.putTslot d p sl x).errIndex = s.errIndex := rfl
@[simp] theorem State.putTslot_flashLog : (s.putTslot d p sl x).flashLog = s.flashLog := rfl
@[simp] theorem State.putTslot_ceSeen : (s.putTslot d p sl x).ceSeen = s.ceSeen := rfl
@[simp] theorem State.putTslot_time : (s.putTslot d p sl x).time = s.time := rfl
@[simp] theorem State.putTslot_commitWait : (s.putTslot d p sl x).commitWait = s.commitWait := rfl
@[simp] theorem State.putTslot_commitRun : (s.putTslot d p sl x).commitRun = s.commitRun := rfl
@[simp] theorem State.putTslot_deferred : (s.putTslot d p sl x).deferred = s.deferred := rfl
@[simp] theorem State.putTslot_pcieUp : (s.putTslot d p sl x).pcieUp = s.pcieUp := rfl
@[simp] theorem State.putTslot_bondReports : (s.putTslot d p sl x).bondReports = s.bondReports := rfl
@[simp] theorem State.putTslot_modNum : (s.putTslot d p sl x).modNum = s.modNum := rfl
@[simp] theorem State.putTslot_grants : (s.putTslot d p sl x).grants = s.grants := rfl
@[simp] theorem State.putTslot_grantsNew : (s.putTslot d p sl x).grantsNew = s.grantsNew := rfl
@[simp] theorem State.putTslot_slotOwn : (s.putTslot d p sl x).slotOwn = s.slotOwn := rfl
@[simp] theorem State.putTslot_ports : (s.putTslot d p sl x).ports = s.ports := rfl
@[simp] theorem State.putTslot_seen : (s.putTslot d p sl x).seen = s.seen := rfl
@[simp] theorem State.putTslot_keys : (s.putTslot d p sl x).keys = s.keys := rfl
@[simp] theorem State.putTslot_nextInjDie : (s.putTslot d p sl x).nextInjDie = s.nextInjDie := rfl
@[simp] theorem State.putTslot_longTag : (s.putTslot d p sl x).longTag = s.longTag := rfl
@[simp] theorem State.putTslot_nextRid : (s.putTslot d p sl x).nextRid = s.nextRid := rfl
@[simp] theorem State.putTslot_rackqs : (s.putTslot d p sl x).rackqs = s.rackqs := rfl
@[simp] theorem State.putTslot_rackSeq : (s.putTslot d p sl x).rackSeq = s.rackSeq := rfl
@[simp] theorem State.putTslot_rkLast : (s.putTslot d p sl x).rkLast = s.rkLast := rfl
@[simp] theorem State.putTslot_turnTile : (s.putTslot d p sl x).turnTile = s.turnTile := rfl
@[simp] theorem State.putTslot_tunOwn : (s.putTslot d p sl x).tunOwn = s.tunOwn := rfl
@[simp] theorem State.putTslot_ledNew : (s.putTslot d p sl x).ledNew = s.ledNew := rfl
@[simp] theorem State.putTslot_specRows : (s.putTslot d p sl x).specRows = s.specRows := rfl
@[simp] theorem State.putTslot_abortRk : (s.putTslot d p sl x).abortRk = s.abortRk := rfl
@[simp] theorem State.putTslot_abortTun : (s.putTslot d p sl x).abortTun = s.abortTun := rfl
@[simp] theorem State.putTslot_drainRk : (s.putTslot d p sl x).drainRk = s.drainRk := rfl
@[simp] theorem State.putTslot_drainTun : (s.putTslot d p sl x).drainTun = s.drainTun := rfl
@[simp] theorem State.putTslot_accq : (s.putTslot d p sl x).accq = s.accq := rfl
@[simp] theorem State.putTslot_cplValue : (s.putTslot d p sl x).cplValue = s.cplValue := rfl
@[simp] theorem State.putTslot_backs : (s.putTslot d p sl x).backs = s.backs := rfl
@[simp] theorem State.putTslot_tunq : (s.putTslot d p sl x).tunq = s.tunq := rfl
@[simp] theorem State.putTslot_abortSerial : (s.putTslot d p sl x).abortSerial = s.abortSerial := rfl
@[simp] theorem State.putTslot_dieHbAge : (s.putTslot d p sl x).dieHbAge = s.dieHbAge := rfl
@[simp] theorem State.putTslot_jobs : (s.putTslot d p sl x).jobs = s.jobs := rfl
@[simp] theorem State.putTslot_lostDies : (s.putTslot d p sl x).lostDies = s.lostDies := rfl
@[simp] theorem State.putTslot_failed : (s.putTslot d p sl x).failed = s.failed := rfl
@[simp] theorem State.putTslot_slotHeld : (s.putTslot d p sl x).slotHeld = s.slotHeld := rfl
@[simp] theorem State.putTslot_caps : (s.putTslot d p sl x).caps = s.caps := rfl
@[simp] theorem State.putTslot_stages : (s.putTslot d p sl x).stages = s.stages := rfl
@[simp] theorem State.putTslot_inocLeft : (s.putTslot d p sl x).inocLeft = s.inocLeft := rfl
@[simp] theorem State.putTslot_kcores : (s.putTslot d p sl x).kcores = s.kcores := rfl
@[simp] theorem State.putTslot_parts : (s.putTslot d p sl x).parts = s.parts := rfl
@[simp] theorem State.putTslot_sessions : (s.putTslot d p sl x).sessions = s.sessions := rfl
@[simp] theorem State.putTslot_nextSess : (s.putTslot d p sl x).nextSess = s.nextSess := rfl
@[simp] theorem State.putTslot_changes : (s.putTslot d p sl x).changes = s.changes := rfl
@[simp] theorem State.putTslot_fenceRun : (s.putTslot d p sl x).fenceRun = s.fenceRun := rfl
@[simp] theorem State.putTslot_fenceOld : (s.putTslot d p sl x).fenceOld = s.fenceOld := rfl
@[simp] theorem State.putTslot_keyCtr : (s.putTslot d p sl x).keyCtr = s.keyCtr := rfl
@[simp] theorem State.putTslot_fwKey : (s.putTslot d p sl x).fwKey = s.fwKey := rfl
@[simp] theorem State.putTslot_bmrs : (s.putTslot d p sl x).bmrs = s.bmrs := rfl
@[simp] theorem State.putTslot_imgSvns : (s.putTslot d p sl x).imgSvns = s.imgSvns := rfl
@[simp] theorem State.putTslot_aliasKey : (s.putTslot d p sl x).aliasKey = s.aliasKey := rfl
@[simp] theorem State.putTslot_certs : (s.putTslot d p sl x).certs = s.certs := rfl
@[simp] theorem State.putTslot_flashGen : (s.putTslot d p sl x).flashGen = s.flashGen := rfl
@[simp] theorem State.putTslot_recipes : (s.putTslot d p sl x).recipes = s.recipes := rfl
@[simp] theorem State.putTslot_erased : (s.putTslot d p sl x).erased = s.erased := rfl
@[simp] theorem State.putTslot_recipe : (s.putTslot d p sl x).recipe = s.recipe := rfl
@[simp] theorem State.putTslot_recipeNow : (s.putTslot d p sl x).recipeNow = s.recipeNow := rfl
@[simp] theorem State.putTslot_levels : (s.putTslot d p sl x).levels = s.levels := rfl
@[simp] theorem State.putTslot_calm : (s.putTslot d p sl x).calm = s.calm := rfl
@[simp] theorem State.putTslot_dieLevel : (s.putTslot d p sl x).dieLevel = s.dieLevel := rfl
@[simp] theorem State.putTslot_phase : (s.putTslot d p sl x).phase = s.phase := rfl
@[simp] theorem State.putTslot_answered : (s.putTslot d p sl x).answered = s.answered := rfl
@[simp] theorem State.putTslot_trip : (s.putTslot d p sl x).trip = s.trip := rfl
@[simp] theorem State.putTslot_smbAlert : (s.putTslot d p sl x).smbAlert = s.smbAlert := rfl
@[simp] theorem State.putTslot_flashExt : (s.putTslot d p sl x).flashExt = s.flashExt := rfl
@[simp] theorem State.putTslot_flashWait : (s.putTslot d p sl x).flashWait = s.flashWait := rfl
@[simp] theorem State.putTslot_taps : (s.putTslot d p sl x).taps = s.taps := rfl
@[simp] theorem State.putTslot_porSeq : (s.putTslot d p sl x).porSeq = s.porSeq := rfl
@[simp] theorem State.putTslot_smb : (s.putTslot d p sl x).smb = s.smb := rfl
@[simp] theorem State.putTslot_smbPec : (s.putTslot d p sl x).smbPec = s.smbPec := rfl
@[simp] theorem State.putTslot_rdata : (s.putTslot d p sl x).rdata = s.rdata := rfl
@[simp] theorem State.putTslot_aer : (s.putTslot d p sl x).aer = s.aer := rfl
@[simp] theorem State.putTslot_unsupported : (s.putTslot d p sl x).unsupported = s.unsupported := rfl
@[simp] theorem State.putTslot_diag : (s.putTslot d p sl x).diag = s.diag := rfl
@[simp] theorem State.putTslot_fuseSvn : (s.putTslot d p sl x).fuseSvn = s.fuseSvn := rfl
@[simp] theorem State.putTslot_get_vat (e u : Nat) : (s.putTslot d p sl x).vat e u = s.vat e u := rfl
@[simp] theorem State.putTslot_get_ctx (e u : Nat) : (s.putTslot d p sl x).ctx e u = s.ctx e u := rfl
@[simp] theorem State.putTslot_get_ring (e : Nat) : (s.putTslot d p sl x).ring e = s.ring e := rfl
@[simp] theorem State.putTslot_get_fn (e : Nat) : (s.putTslot d p sl x).fn e = s.fn e := rfl
@[simp] theorem State.putTslot_get_reg (e u : Nat) : (s.putTslot d p sl x).reg e u = s.reg e u := rfl
@[simp] theorem State.putTslot_get_rf (e u : Nat) (g : Fld) : (s.putTslot d p sl x).rf e u g = s.rf e u g := rfl
@[simp] theorem State.putTslot_get_peek (rg : Region) (u : Nat) : (s.putTslot d p sl x).peek rg u = s.peek rg u := rfl
@[simp] theorem State.putTslot_get_mark (rg : Region) (u : Nat) : (s.putTslot d p sl x).mark rg u = s.mark rg u := rfl
@[simp] theorem State.putTslot_get_nDies : (s.putTslot d p sl x).nDies = s.nDies := rfl
@[simp] theorem State.putTslot_get_hasDie (e : Nat) : (s.putTslot d p sl x).hasDie e = s.hasDie e := rfl
@[simp] theorem State.putTslot_get_hasVat (e u : Nat) : (s.putTslot d p sl x).hasVat e u = s.hasVat e u := rfl
@[simp] theorem State.putTslot_get_hasCtx (e u : Nat) : (s.putTslot d p sl x).hasCtx e u = s.hasCtx e u := rfl
@[simp] theorem State.putTslot_get_port (e u : Nat) : (s.putTslot d p sl x).port e u = s.port e u := rfl
@[simp] theorem State.putTslot_get_rackq (e u : Nat) : (s.putTslot d p sl x).rackq e u = s.rackq e u := rfl
@[simp] theorem State.putTslot_get_kcore (e u : Nat) : (s.putTslot d p sl x).kcore e u = s.kcore e u := rfl
@[simp] theorem State.putTslot_get_partRec (e : Nat) : (s.putTslot d p sl x).partRec e = s.partRec e := rfl
@[simp] theorem State.putTslot_get_job (e : Nat) : (s.putTslot d p sl x).job e = s.job e := rfl
@[simp] theorem State.putTslot_get_hydSet (e u w : Nat) : (s.putTslot d p sl x).hydSet e u w = s.hydSet e u w := rfl

end

/-! ## putPart -/

section
variable (s : State) (p : Nat) (x : PartRec)

@[simp] theorem State.putPart_pending : (s.putPart p x).pending = s.pending := rfl
@[simp] theorem State.putPart_freeCtr : (s.putPart p x).freeCtr = s.freeCtr := rfl
@[simp] theorem State.putPart_variant : (s.putPart p x).variant = s.variant := rfl
@[simp] theorem State.putPart_regs : (s.putPart p x).regs = s.regs := rfl
@[simp] theorem State.putPart_mem : (s.putPart p x).mem = s.mem := rfl
@[simp] theorem State.putPart_marks : (s.putPart p x).marks = s.marks := rfl
@[simp] theorem State.putPart_ctxs : (s.putPart p x).ctxs = s.ctxs := rfl
@[simp] theorem State.putPart_vats : (s.putPart p x).vats = s.vats := rfl
@[simp] theorem State.putPart_rings : (s.putPart p x).rings = s.rings := rfl
@[simp] theorem State.putPart_hyd : (s.putPart p x).hyd = s.hyd := rfl
@[simp] theorem State.putPart_fns : (s.putPart p x).fns = s.fns := rfl
@[simp] theorem State.putPart_reports : (s.putPart p x).reports = s.reports := rfl
@[simp] theorem State.putPart_errLog : (s.putPart p x).errLog = s.errLog := rfl
@[simp] theorem State.putPart_errIndex : (s.putPart p x).errIndex = s.errIndex := rfl
@[simp] theorem State.putPart_flashLog : (s.putPart p x).flashLog = s.flashLog := rfl
@[simp] theorem State.putPart_ceSeen : (s.putPart p x).ceSeen = s.ceSeen := rfl
@[simp] theorem State.putPart_time : (s.putPart p x).time = s.time := rfl
@[simp] theorem State.putPart_commitWait : (s.putPart p x).commitWait = s.commitWait := rfl
@[simp] theorem State.putPart_commitRun : (s.putPart p x).commitRun = s.commitRun := rfl
@[simp] theorem State.putPart_deferred : (s.putPart p x).deferred = s.deferred := rfl
@[simp] theorem State.putPart_pcieUp : (s.putPart p x).pcieUp = s.pcieUp := rfl
@[simp] theorem State.putPart_bondReports : (s.putPart p x).bondReports = s.bondReports := rfl
@[simp] theorem State.putPart_modNum : (s.putPart p x).modNum = s.modNum := rfl
@[simp] theorem State.putPart_grants : (s.putPart p x).grants = s.grants := rfl
@[simp] theorem State.putPart_grantsNew : (s.putPart p x).grantsNew = s.grantsNew := rfl
@[simp] theorem State.putPart_slotOwn : (s.putPart p x).slotOwn = s.slotOwn := rfl
@[simp] theorem State.putPart_ports : (s.putPart p x).ports = s.ports := rfl
@[simp] theorem State.putPart_seen : (s.putPart p x).seen = s.seen := rfl
@[simp] theorem State.putPart_keys : (s.putPart p x).keys = s.keys := rfl
@[simp] theorem State.putPart_nextInjDie : (s.putPart p x).nextInjDie = s.nextInjDie := rfl
@[simp] theorem State.putPart_longTag : (s.putPart p x).longTag = s.longTag := rfl
@[simp] theorem State.putPart_nextRid : (s.putPart p x).nextRid = s.nextRid := rfl
@[simp] theorem State.putPart_rackqs : (s.putPart p x).rackqs = s.rackqs := rfl
@[simp] theorem State.putPart_rackSeq : (s.putPart p x).rackSeq = s.rackSeq := rfl
@[simp] theorem State.putPart_rkLast : (s.putPart p x).rkLast = s.rkLast := rfl
@[simp] theorem State.putPart_turnTile : (s.putPart p x).turnTile = s.turnTile := rfl
@[simp] theorem State.putPart_tunOwn : (s.putPart p x).tunOwn = s.tunOwn := rfl
@[simp] theorem State.putPart_ledNew : (s.putPart p x).ledNew = s.ledNew := rfl
@[simp] theorem State.putPart_specRows : (s.putPart p x).specRows = s.specRows := rfl
@[simp] theorem State.putPart_abortRk : (s.putPart p x).abortRk = s.abortRk := rfl
@[simp] theorem State.putPart_abortTun : (s.putPart p x).abortTun = s.abortTun := rfl
@[simp] theorem State.putPart_drainRk : (s.putPart p x).drainRk = s.drainRk := rfl
@[simp] theorem State.putPart_drainTun : (s.putPart p x).drainTun = s.drainTun := rfl
@[simp] theorem State.putPart_accq : (s.putPart p x).accq = s.accq := rfl
@[simp] theorem State.putPart_cplValue : (s.putPart p x).cplValue = s.cplValue := rfl
@[simp] theorem State.putPart_backs : (s.putPart p x).backs = s.backs := rfl
@[simp] theorem State.putPart_tslots : (s.putPart p x).tslots = s.tslots := rfl
@[simp] theorem State.putPart_tunq : (s.putPart p x).tunq = s.tunq := rfl
@[simp] theorem State.putPart_abortSerial : (s.putPart p x).abortSerial = s.abortSerial := rfl
@[simp] theorem State.putPart_dieHbAge : (s.putPart p x).dieHbAge = s.dieHbAge := rfl
@[simp] theorem State.putPart_jobs : (s.putPart p x).jobs = s.jobs := rfl
@[simp] theorem State.putPart_lostDies : (s.putPart p x).lostDies = s.lostDies := rfl
@[simp] theorem State.putPart_failed : (s.putPart p x).failed = s.failed := rfl
@[simp] theorem State.putPart_slotHeld : (s.putPart p x).slotHeld = s.slotHeld := rfl
@[simp] theorem State.putPart_caps : (s.putPart p x).caps = s.caps := rfl
@[simp] theorem State.putPart_stages : (s.putPart p x).stages = s.stages := rfl
@[simp] theorem State.putPart_inocLeft : (s.putPart p x).inocLeft = s.inocLeft := rfl
@[simp] theorem State.putPart_kcores : (s.putPart p x).kcores = s.kcores := rfl
@[simp] theorem State.putPart_sessions : (s.putPart p x).sessions = s.sessions := rfl
@[simp] theorem State.putPart_nextSess : (s.putPart p x).nextSess = s.nextSess := rfl
@[simp] theorem State.putPart_changes : (s.putPart p x).changes = s.changes := rfl
@[simp] theorem State.putPart_fenceRun : (s.putPart p x).fenceRun = s.fenceRun := rfl
@[simp] theorem State.putPart_fenceOld : (s.putPart p x).fenceOld = s.fenceOld := rfl
@[simp] theorem State.putPart_keyCtr : (s.putPart p x).keyCtr = s.keyCtr := rfl
@[simp] theorem State.putPart_fwKey : (s.putPart p x).fwKey = s.fwKey := rfl
@[simp] theorem State.putPart_bmrs : (s.putPart p x).bmrs = s.bmrs := rfl
@[simp] theorem State.putPart_imgSvns : (s.putPart p x).imgSvns = s.imgSvns := rfl
@[simp] theorem State.putPart_aliasKey : (s.putPart p x).aliasKey = s.aliasKey := rfl
@[simp] theorem State.putPart_certs : (s.putPart p x).certs = s.certs := rfl
@[simp] theorem State.putPart_flashGen : (s.putPart p x).flashGen = s.flashGen := rfl
@[simp] theorem State.putPart_recipes : (s.putPart p x).recipes = s.recipes := rfl
@[simp] theorem State.putPart_erased : (s.putPart p x).erased = s.erased := rfl
@[simp] theorem State.putPart_recipe : (s.putPart p x).recipe = s.recipe := rfl
@[simp] theorem State.putPart_recipeNow : (s.putPart p x).recipeNow = s.recipeNow := rfl
@[simp] theorem State.putPart_levels : (s.putPart p x).levels = s.levels := rfl
@[simp] theorem State.putPart_calm : (s.putPart p x).calm = s.calm := rfl
@[simp] theorem State.putPart_dieLevel : (s.putPart p x).dieLevel = s.dieLevel := rfl
@[simp] theorem State.putPart_phase : (s.putPart p x).phase = s.phase := rfl
@[simp] theorem State.putPart_answered : (s.putPart p x).answered = s.answered := rfl
@[simp] theorem State.putPart_trip : (s.putPart p x).trip = s.trip := rfl
@[simp] theorem State.putPart_smbAlert : (s.putPart p x).smbAlert = s.smbAlert := rfl
@[simp] theorem State.putPart_flashExt : (s.putPart p x).flashExt = s.flashExt := rfl
@[simp] theorem State.putPart_flashWait : (s.putPart p x).flashWait = s.flashWait := rfl
@[simp] theorem State.putPart_taps : (s.putPart p x).taps = s.taps := rfl
@[simp] theorem State.putPart_porSeq : (s.putPart p x).porSeq = s.porSeq := rfl
@[simp] theorem State.putPart_smb : (s.putPart p x).smb = s.smb := rfl
@[simp] theorem State.putPart_smbPec : (s.putPart p x).smbPec = s.smbPec := rfl
@[simp] theorem State.putPart_rdata : (s.putPart p x).rdata = s.rdata := rfl
@[simp] theorem State.putPart_aer : (s.putPart p x).aer = s.aer := rfl
@[simp] theorem State.putPart_unsupported : (s.putPart p x).unsupported = s.unsupported := rfl
@[simp] theorem State.putPart_diag : (s.putPart p x).diag = s.diag := rfl
@[simp] theorem State.putPart_fuseSvn : (s.putPart p x).fuseSvn = s.fuseSvn := rfl
@[simp] theorem State.putPart_get_vat (e u : Nat) : (s.putPart p x).vat e u = s.vat e u := rfl
@[simp] theorem State.putPart_get_ctx (e u : Nat) : (s.putPart p x).ctx e u = s.ctx e u := rfl
@[simp] theorem State.putPart_get_ring (e : Nat) : (s.putPart p x).ring e = s.ring e := rfl
@[simp] theorem State.putPart_get_fn (e : Nat) : (s.putPart p x).fn e = s.fn e := rfl
@[simp] theorem State.putPart_get_reg (e u : Nat) : (s.putPart p x).reg e u = s.reg e u := rfl
@[simp] theorem State.putPart_get_rf (e u : Nat) (g : Fld) : (s.putPart p x).rf e u g = s.rf e u g := rfl
@[simp] theorem State.putPart_get_peek (rg : Region) (u : Nat) : (s.putPart p x).peek rg u = s.peek rg u := rfl
@[simp] theorem State.putPart_get_mark (rg : Region) (u : Nat) : (s.putPart p x).mark rg u = s.mark rg u := rfl
@[simp] theorem State.putPart_get_nDies : (s.putPart p x).nDies = s.nDies := rfl
@[simp] theorem State.putPart_get_hasDie (e : Nat) : (s.putPart p x).hasDie e = s.hasDie e := rfl
@[simp] theorem State.putPart_get_hasVat (e u : Nat) : (s.putPart p x).hasVat e u = s.hasVat e u := rfl
@[simp] theorem State.putPart_get_hasCtx (e u : Nat) : (s.putPart p x).hasCtx e u = s.hasCtx e u := rfl
@[simp] theorem State.putPart_get_port (e u : Nat) : (s.putPart p x).port e u = s.port e u := rfl
@[simp] theorem State.putPart_get_rackq (e u : Nat) : (s.putPart p x).rackq e u = s.rackq e u := rfl
@[simp] theorem State.putPart_get_kcore (e u : Nat) : (s.putPart p x).kcore e u = s.kcore e u := rfl
@[simp] theorem State.putPart_get_tslot (e u w : Nat) : (s.putPart p x).tslot e u w = s.tslot e u w := rfl
@[simp] theorem State.putPart_get_job (e : Nat) : (s.putPart p x).job e = s.job e := rfl
@[simp] theorem State.putPart_get_hydSet (e u w : Nat) : (s.putPart p x).hydSet e u w = s.hydSet e u w := rfl

end

/-! ## putJob -/

section
variable (s : State) (t : Nat) (x : JobRec)

@[simp] theorem State.putJob_pending : (s.putJob t x).pending = s.pending := rfl
@[simp] theorem State.putJob_freeCtr : (s.putJob t x).freeCtr = s.freeCtr := rfl
@[simp] theorem State.putJob_variant : (s.putJob t x).variant = s.variant := rfl
@[simp] theorem State.putJob_regs : (s.putJob t x).regs = s.regs := rfl
@[simp] theorem State.putJob_mem : (s.putJob t x).mem = s.mem := rfl
@[simp] theorem State.putJob_marks : (s.putJob t x).marks = s.marks := rfl
@[simp] theorem State.putJob_ctxs : (s.putJob t x).ctxs = s.ctxs := rfl
@[simp] theorem State.putJob_vats : (s.putJob t x).vats = s.vats := rfl
@[simp] theorem State.putJob_rings : (s.putJob t x).rings = s.rings := rfl
@[simp] theorem State.putJob_hyd : (s.putJob t x).hyd = s.hyd := rfl
@[simp] theorem State.putJob_fns : (s.putJob t x).fns = s.fns := rfl
@[simp] theorem State.putJob_reports : (s.putJob t x).reports = s.reports := rfl
@[simp] theorem State.putJob_errLog : (s.putJob t x).errLog = s.errLog := rfl
@[simp] theorem State.putJob_errIndex : (s.putJob t x).errIndex = s.errIndex := rfl
@[simp] theorem State.putJob_flashLog : (s.putJob t x).flashLog = s.flashLog := rfl
@[simp] theorem State.putJob_ceSeen : (s.putJob t x).ceSeen = s.ceSeen := rfl
@[simp] theorem State.putJob_time : (s.putJob t x).time = s.time := rfl
@[simp] theorem State.putJob_commitWait : (s.putJob t x).commitWait = s.commitWait := rfl
@[simp] theorem State.putJob_commitRun : (s.putJob t x).commitRun = s.commitRun := rfl
@[simp] theorem State.putJob_deferred : (s.putJob t x).deferred = s.deferred := rfl
@[simp] theorem State.putJob_pcieUp : (s.putJob t x).pcieUp = s.pcieUp := rfl
@[simp] theorem State.putJob_bondReports : (s.putJob t x).bondReports = s.bondReports := rfl
@[simp] theorem State.putJob_modNum : (s.putJob t x).modNum = s.modNum := rfl
@[simp] theorem State.putJob_grants : (s.putJob t x).grants = s.grants := rfl
@[simp] theorem State.putJob_grantsNew : (s.putJob t x).grantsNew = s.grantsNew := rfl
@[simp] theorem State.putJob_slotOwn : (s.putJob t x).slotOwn = s.slotOwn := rfl
@[simp] theorem State.putJob_ports : (s.putJob t x).ports = s.ports := rfl
@[simp] theorem State.putJob_seen : (s.putJob t x).seen = s.seen := rfl
@[simp] theorem State.putJob_keys : (s.putJob t x).keys = s.keys := rfl
@[simp] theorem State.putJob_nextInjDie : (s.putJob t x).nextInjDie = s.nextInjDie := rfl
@[simp] theorem State.putJob_longTag : (s.putJob t x).longTag = s.longTag := rfl
@[simp] theorem State.putJob_nextRid : (s.putJob t x).nextRid = s.nextRid := rfl
@[simp] theorem State.putJob_rackqs : (s.putJob t x).rackqs = s.rackqs := rfl
@[simp] theorem State.putJob_rackSeq : (s.putJob t x).rackSeq = s.rackSeq := rfl
@[simp] theorem State.putJob_rkLast : (s.putJob t x).rkLast = s.rkLast := rfl
@[simp] theorem State.putJob_turnTile : (s.putJob t x).turnTile = s.turnTile := rfl
@[simp] theorem State.putJob_tunOwn : (s.putJob t x).tunOwn = s.tunOwn := rfl
@[simp] theorem State.putJob_ledNew : (s.putJob t x).ledNew = s.ledNew := rfl
@[simp] theorem State.putJob_specRows : (s.putJob t x).specRows = s.specRows := rfl
@[simp] theorem State.putJob_abortRk : (s.putJob t x).abortRk = s.abortRk := rfl
@[simp] theorem State.putJob_abortTun : (s.putJob t x).abortTun = s.abortTun := rfl
@[simp] theorem State.putJob_drainRk : (s.putJob t x).drainRk = s.drainRk := rfl
@[simp] theorem State.putJob_drainTun : (s.putJob t x).drainTun = s.drainTun := rfl
@[simp] theorem State.putJob_accq : (s.putJob t x).accq = s.accq := rfl
@[simp] theorem State.putJob_cplValue : (s.putJob t x).cplValue = s.cplValue := rfl
@[simp] theorem State.putJob_backs : (s.putJob t x).backs = s.backs := rfl
@[simp] theorem State.putJob_tslots : (s.putJob t x).tslots = s.tslots := rfl
@[simp] theorem State.putJob_tunq : (s.putJob t x).tunq = s.tunq := rfl
@[simp] theorem State.putJob_abortSerial : (s.putJob t x).abortSerial = s.abortSerial := rfl
@[simp] theorem State.putJob_dieHbAge : (s.putJob t x).dieHbAge = s.dieHbAge := rfl
@[simp] theorem State.putJob_lostDies : (s.putJob t x).lostDies = s.lostDies := rfl
@[simp] theorem State.putJob_failed : (s.putJob t x).failed = s.failed := rfl
@[simp] theorem State.putJob_slotHeld : (s.putJob t x).slotHeld = s.slotHeld := rfl
@[simp] theorem State.putJob_caps : (s.putJob t x).caps = s.caps := rfl
@[simp] theorem State.putJob_stages : (s.putJob t x).stages = s.stages := rfl
@[simp] theorem State.putJob_inocLeft : (s.putJob t x).inocLeft = s.inocLeft := rfl
@[simp] theorem State.putJob_kcores : (s.putJob t x).kcores = s.kcores := rfl
@[simp] theorem State.putJob_parts : (s.putJob t x).parts = s.parts := rfl
@[simp] theorem State.putJob_sessions : (s.putJob t x).sessions = s.sessions := rfl
@[simp] theorem State.putJob_nextSess : (s.putJob t x).nextSess = s.nextSess := rfl
@[simp] theorem State.putJob_changes : (s.putJob t x).changes = s.changes := rfl
@[simp] theorem State.putJob_fenceRun : (s.putJob t x).fenceRun = s.fenceRun := rfl
@[simp] theorem State.putJob_fenceOld : (s.putJob t x).fenceOld = s.fenceOld := rfl
@[simp] theorem State.putJob_keyCtr : (s.putJob t x).keyCtr = s.keyCtr := rfl
@[simp] theorem State.putJob_fwKey : (s.putJob t x).fwKey = s.fwKey := rfl
@[simp] theorem State.putJob_bmrs : (s.putJob t x).bmrs = s.bmrs := rfl
@[simp] theorem State.putJob_imgSvns : (s.putJob t x).imgSvns = s.imgSvns := rfl
@[simp] theorem State.putJob_aliasKey : (s.putJob t x).aliasKey = s.aliasKey := rfl
@[simp] theorem State.putJob_certs : (s.putJob t x).certs = s.certs := rfl
@[simp] theorem State.putJob_flashGen : (s.putJob t x).flashGen = s.flashGen := rfl
@[simp] theorem State.putJob_recipes : (s.putJob t x).recipes = s.recipes := rfl
@[simp] theorem State.putJob_erased : (s.putJob t x).erased = s.erased := rfl
@[simp] theorem State.putJob_recipe : (s.putJob t x).recipe = s.recipe := rfl
@[simp] theorem State.putJob_recipeNow : (s.putJob t x).recipeNow = s.recipeNow := rfl
@[simp] theorem State.putJob_levels : (s.putJob t x).levels = s.levels := rfl
@[simp] theorem State.putJob_calm : (s.putJob t x).calm = s.calm := rfl
@[simp] theorem State.putJob_dieLevel : (s.putJob t x).dieLevel = s.dieLevel := rfl
@[simp] theorem State.putJob_phase : (s.putJob t x).phase = s.phase := rfl
@[simp] theorem State.putJob_answered : (s.putJob t x).answered = s.answered := rfl
@[simp] theorem State.putJob_trip : (s.putJob t x).trip = s.trip := rfl
@[simp] theorem State.putJob_smbAlert : (s.putJob t x).smbAlert = s.smbAlert := rfl
@[simp] theorem State.putJob_flashExt : (s.putJob t x).flashExt = s.flashExt := rfl
@[simp] theorem State.putJob_flashWait : (s.putJob t x).flashWait = s.flashWait := rfl
@[simp] theorem State.putJob_taps : (s.putJob t x).taps = s.taps := rfl
@[simp] theorem State.putJob_porSeq : (s.putJob t x).porSeq = s.porSeq := rfl
@[simp] theorem State.putJob_smb : (s.putJob t x).smb = s.smb := rfl
@[simp] theorem State.putJob_smbPec : (s.putJob t x).smbPec = s.smbPec := rfl
@[simp] theorem State.putJob_rdata : (s.putJob t x).rdata = s.rdata := rfl
@[simp] theorem State.putJob_aer : (s.putJob t x).aer = s.aer := rfl
@[simp] theorem State.putJob_unsupported : (s.putJob t x).unsupported = s.unsupported := rfl
@[simp] theorem State.putJob_diag : (s.putJob t x).diag = s.diag := rfl
@[simp] theorem State.putJob_fuseSvn : (s.putJob t x).fuseSvn = s.fuseSvn := rfl
@[simp] theorem State.putJob_get_vat (e u : Nat) : (s.putJob t x).vat e u = s.vat e u := rfl
@[simp] theorem State.putJob_get_ctx (e u : Nat) : (s.putJob t x).ctx e u = s.ctx e u := rfl
@[simp] theorem State.putJob_get_ring (e : Nat) : (s.putJob t x).ring e = s.ring e := rfl
@[simp] theorem State.putJob_get_fn (e : Nat) : (s.putJob t x).fn e = s.fn e := rfl
@[simp] theorem State.putJob_get_reg (e u : Nat) : (s.putJob t x).reg e u = s.reg e u := rfl
@[simp] theorem State.putJob_get_rf (e u : Nat) (g : Fld) : (s.putJob t x).rf e u g = s.rf e u g := rfl
@[simp] theorem State.putJob_get_peek (rg : Region) (u : Nat) : (s.putJob t x).peek rg u = s.peek rg u := rfl
@[simp] theorem State.putJob_get_mark (rg : Region) (u : Nat) : (s.putJob t x).mark rg u = s.mark rg u := rfl
@[simp] theorem State.putJob_get_nDies : (s.putJob t x).nDies = s.nDies := rfl
@[simp] theorem State.putJob_get_hasDie (e : Nat) : (s.putJob t x).hasDie e = s.hasDie e := rfl
@[simp] theorem State.putJob_get_hasVat (e u : Nat) : (s.putJob t x).hasVat e u = s.hasVat e u := rfl
@[simp] theorem State.putJob_get_hasCtx (e u : Nat) : (s.putJob t x).hasCtx e u = s.hasCtx e u := rfl
@[simp] theorem State.putJob_get_port (e u : Nat) : (s.putJob t x).port e u = s.port e u := rfl
@[simp] theorem State.putJob_get_rackq (e u : Nat) : (s.putJob t x).rackq e u = s.rackq e u := rfl
@[simp] theorem State.putJob_get_kcore (e u : Nat) : (s.putJob t x).kcore e u = s.kcore e u := rfl
@[simp] theorem State.putJob_get_tslot (e u w : Nat) : (s.putJob t x).tslot e u w = s.tslot e u w := rfl
@[simp] theorem State.putJob_get_partRec (e : Nat) : (s.putJob t x).partRec e = s.partRec e := rfl
@[simp] theorem State.putJob_get_hydSet (e u w : Nat) : (s.putJob t x).hydSet e u w = s.hydSet e u w := rfl

end

/-! ## What is read back -/

section
variable {s : State}

@[simp] theorem State.vat_same (h : mrising s.vats = true) (d v : Nat) (x : Vat) : (s.putVat d v x).vat d v = x :=
  mget_mset_same _ _ h

@[simp] theorem State.ctx_same (h : mrising s.ctxs = true) (d c : Nat) (x : Ctx) : (s.putCtx d c x).ctx d c = x :=
  mget_mset_same _ _ h

@[simp] theorem State.ring_same (h : mrising s.rings = true) (d : Nat) (x : Ring) : (s.putRing d x).ring d = x :=
  mget_mset_same _ _ h

@[simp] theorem State.fn_same (h : mrising s.fns = true) (f : Nat) (x : Fn) : (s.putFn f x).fn f = x :=
  mget_mset_same _ _ h

@[simp] theorem State.reg_same (h : mrising s.regs = true) (d o : Nat) (x : RegWord) : (s.setReg d o x).reg d o = x :=
  mget_mset_same _ _ h

@[simp] theorem State.port_same (h : mrising s.ports = true) (d i : Nat) (x : Port) : (s.putPort d i x).port d i = x :=
  mget_mset_same _ _ h

@[simp] theorem State.rackq_same (h : mrising s.rackqs = true) (d q : Nat) (x : RackQ) : (s.putRackq d q x).rackq d q = x :=
  mget_mset_same _ _ h

@[simp] theorem State.kcore_same (h : mrising s.kcores = true) (d k : Nat) (x : KCore) : (s.putKcore d k x).kcore d k = x :=
  mget_mset_same _ _ h

@[simp] theorem State.tslot_same (h : mrising s.tslots = true) (d p sl : Nat) (x : TSlot) : (s.putTslot d p sl x).tslot d p sl = x :=
  mget_mset_same _ _ h

@[simp] theorem State.partRec_same (h : mrising s.parts = true) (p : Nat) (x : PartRec) : (s.putPart p x).partRec p = x :=
  mget_mset_same _ _ h

@[simp] theorem State.job_same (h : mrising s.jobs = true) (t : Nat) (x : JobRec) : (s.putJob t x).job t = x :=
  mget_mset_same _ _ h

theorem State.vat_ne (h : mrising s.vats = true) {d v e u : Nat} (x : Vat) (hk : e * 16 + u ≠ d * 16 + v) : (s.putVat d v x).vat e u = s.vat e u :=
  mget_mset_ne _ h hk

theorem State.ctx_ne (h : mrising s.ctxs = true) {d c e u : Nat} (x : Ctx) (hk : e * 25600 + u ≠ d * 25600 + c) : (s.putCtx d c x).ctx e u = s.ctx e u :=
  mget_mset_ne _ h hk

theorem State.ring_ne (h : mrising s.rings = true) {d e : Nat} (x : Ring) (hk : e ≠ d) : (s.putRing d x).ring e = s.ring e :=
  mget_mset_ne _ h hk

theorem State.fn_ne (h : mrising s.fns = true) {f g : Nat} (x : Fn) (hk : g ≠ f) : (s.putFn f x).fn g = s.fn g :=
  mget_mset_ne _ h hk

theorem State.reg_ne (h : mrising s.regs = true) {d o e u : Nat} (x : RegWord) (hk : regKey e u ≠ regKey d o) : (s.setReg d o x).reg e u = s.reg e u :=
  mget_mset_ne _ h hk

theorem State.port_ne (h : mrising s.ports = true) {d i e u : Nat} (x : Port) (hk : e * 3 + u ≠ d * 3 + i) : (s.putPort d i x).port e u = s.port e u :=
  mget_mset_ne _ h hk

theorem State.rackq_ne (h : mrising s.rackqs = true) {d q e u : Nat} (x : RackQ) (hk : e * 257 + u ≠ d * 257 + q) : (s.putRackq d q x).rackq e u = s.rackq e u :=
  mget_mset_ne _ h hk

theorem State.kcore_ne (h : mrising s.kcores = true) {d k e u : Nat} (x : KCore) (hk : e * 4 + u ≠ d * 4 + k) : (s.putKcore d k x).kcore e u = s.kcore e u :=
  mget_mset_ne _ h hk

theorem State.tslot_ne (h : mrising s.tslots = true) {d p sl e u w : Nat} (x : TSlot) (hk : (e * 8 + u % 8) * 64 + w % 64 ≠ (d * 8 + p % 8) * 64 + sl % 64) : (s.putTslot d p sl x).tslot e u w = s.tslot e u w :=
  mget_mset_ne _ h hk

theorem State.partRec_ne (h : mrising s.parts = true) {p q : Nat} (x : PartRec) (hk : q ≠ p) : (s.putPart p x).partRec q = s.partRec q :=
  mget_mset_ne _ h hk

theorem State.job_ne (h : mrising s.jobs = true) {t u : Nat} (x : JobRec) (hk : u ≠ t) : (s.putJob t x).job u = s.job u :=
  mget_mset_ne _ h hk

end

end Sys2Proof.Machine
end

