-- ==== Sys2Proof/Tests/Slice0.lean ====
section
/-! SUPPORT. Sys2Proof/Tests/Slice0.lean: the model's own tests. First the check of a command's units, then examples the spec works out,
then, for every statement of Certificates/Slice0/Obligations.lean that has hypotheses, a theorem witness_<part> for each of its parts: states
and operands that meet the hypotheses of each clause, at the bounds of their ranges where a clause has bounds. -/
namespace Sys2Proof.Tests
open Sys2Proof.Machine

set_option Elab.async false

/-- The state after reset. -/
abbrev s0 : State := State.reset

/-- Context c of die 0 is READY and presents the words of ws. -/
def presenting (s : State) (c : Nat) (ws : List Nat) : State :=
  s.putCtx 0 c { state := cREADY, ibuf := ws.map (BitVec.ofNat 128) }

/-- A vat instruction of word n in order of acceptance k. -/
def vin (n k : Nat) : VInstr := { word := BitVec.ofNat 128 n, seq := k }


/-! ## The check of a command's units refuses a term of each kind that names a unit the module does not have -/

/-- Dies, contexts and vats. -/
theorem test_wellFormed_contexts_vats :
    [wellFormed 8 (.steep 7 25599), wellFormed 8 (.steep 8 0), wellFormed 8 (.steep 0 25600), wellFormed 8 (.passBind 0 15),
      wellFormed 8 (.passBind 0 16), wellFormed 8 (.passBind 8 0), wellFormed 8 (.wortWrite 7 15 127), wellFormed 8 (.wortWrite 0 0 128),
      wellFormed 8 (.gristRowRelease 0 16 0)] = [true, false, false, true, false, false, true, false, false] := by decide

/-- Die units, links, cores and register requesters. -/
theorem test_wellFormed_dies_links_requesters :
    [wellFormed 8 (.injectBeat 8), wellFormed 8 (.creditReturnArrive 7 18), wellFormed 8 (.creditReturnArrive 0 19),
      wellFormed 8 (.kettleGroupComplete 0 4), wellFormed 8 (.hydSnap .bond 0 8 0), wellFormed 8 (.inocArm (.kettle 8 0) 0),
      wellFormed 8 (.inocArm (.kettle 0 4) 0), wellFormed 8 (.inocArm (.vf 8) 0), wellFormed 2 (.inocArm .pf 7),
      wellFormed 2 (.inocArm .pf 8), wellFormed 2 (.inocArm .bond 7), wellFormed 2 (.inocArm (.firmware 7) 0),
      wellFormed 2 (.inocArm (.firmware 8) 0)]
      = [false, true, false, false, false, false, false, false, true, false, false, true, false] := by decide

/-- What the watchdog watches, rack queues, tags, ledgers, slots, tables and codewords. -/
theorem test_wellFormed_engines :
    [wellFormed 8 (.watchdogFire 0 0 25600 0), wellFormed 8 (.watchdogFire 0 1 16 0), wellFormed 8 (.watchdogFire 0 2 256 0),
      wellFormed 8 (.watchdogFire 0 3 256 0), wellFormed 8 (.watchdogFire 0 4 256 0), wellFormed 8 (.watchdogFire 0 4 769 0),
      wellFormed 8 (.watchdogFire 0 5 0 0), wellFormed 8 (.rackRequestIssue 0 257), wellFormed 8 (.streamGateOpen 0 256),
      wellFormed 8 (.tunAbortNotice 0 256), wellFormed 8 (.ledgerArm 0 256), wellFormed 8 (.pourRegister 0 8),
      wellFormed 8 (.chunkSend 0 8 0), wellFormed 8 (.chunkSend 0 0 64), wellFormed 8 (.slotSwap 0 5),
      wellFormed 8 (.patrolScrub 0 (2 ^ 25 + 2 ^ 21 + 5 * 2 ^ 29))].any id = false := by decide

/-- Ports, channels, functions and partitions. -/
theorem test_wellFormed_ports_functions :
    [wellFormed 8 (.laneErrorRetrain 0 0 true 8 .lostLock), wellFormed 8 (.flitSend 0 3), wellFormed 8 (.flitSend 8 0), wellFormed 8 (.wreq 0 3 0), wellFormed 8 (.wreq 0 0 15),
      wellFormed 8 (.nop 9), wellFormed 8 (.flrVf 8)].any id = false ∧
    [wellFormed 8 (.flitSend 7 2), wellFormed 8 (.wreq 7 2 14), wellFormed 8 (.nop 8), wellFormed 8 (.flrVf 7),
      wellFormed 8 .commitStart].all id = true := by decide

/-- No row of the table gives bits, so no word spells a command and a placed word changes nothing. -/
theorem test_no_row_has_bits : decodeTableWord 32 0 = none ∧ s0.withFetchWord 32 0 = s0 := ⟨rfl, rfl⟩

/-! ## Worked examples of the spec

The expected values of these tests are the spec's own, from the example named in each docstring. -/

/-- 04, "a wort row into QF16 and a moment block into QB8": the five columns of the row. -/
theorem test_qf16_row :
    ([0x38000000, 0x3F806000, 0x4A989680, 0x26800000, 0x7FC00000].map (fun c => (convQF16 (decB32 c) 10 .rne).1)
      = [0x3400, 0x5202, 0x7E00, 0x0000, 0x7F00]) ∧
    (convQF16 (decB32 0x4A989680) 10 .rne).2 = { sat := 1, nonf := 1, max := some 0x20312D } ∧
    (convQF16 (decB32 0x26800000) 10 .rne).2.zero = 1 ∧ (convQF16 (decB32 0x7FC00000) 10 .rne).2.nonf = 1 := by decide +kernel

/-- The values of the moment block of the same example; −0.3 and 0.001 are the nearest binary32 values. -/
def momentBlock (e0 : Nat) : List Val :=
  [decB32 e0, decB32 0xBE99999A, decB32 0x3A83126F] ++ List.replicate 28 (.fin false 0 0) ++ [.inf false]

/-- The same example: the block's bytes and counts. -/
theorem test_qb8_block :
      (let c := convQB8 (momentBlock 0x3F400000) 0 (List.replicate 32 .rne)
      c.1 = 0x78 ∧ c.2.1 = [0x60, 0xDA] ++ List.replicate 29 0 ++ [0x80] ∧
        c.2.2 = { zero := 29, sat := 1, nonf := 1, max := some (0xFFFF8000 - 2 ^ 32) }) := by decide +kernel

/-- The same example with 0.998 in element 0: the mantissa 128 raises the exponent. -/
theorem test_qb8_raised_exponent :
      (let c := convQB8 (momentBlock 0x3F7F7CEE) 0 (List.replicate 32 .rne)
      c.1 = 121 ∧ c.2.1.take 3 = [64, 256 - 19, 0]) := by decide +kernel

/-- 05, "Test vector": the state after the injection that follows round 1, and the output. -/
theorem test_barm_vector :
    barmInject 0 1 (barmRound 19 3 (barmRound 7 13 (barmInject 0 0 ⟨1, 0, 0, 0⟩))) = ⟨0x46B80C67, 0xA6D6B3A9, 0xD41BCCCD, 0x6A11E669⟩ ∧
      barm 0 1 = 0x51FA9AD7 := by decide +kernel

/-- 05, "one output element in both orientations", and 06, "one dropout element": the counter words. -/
theorem test_barm_counters :
    wortElem 5000 700 = 0x01388002BC ∧ barmCtr 0x001234 0x01388002BC 0x01 0x05DC2CC8 = 0x00000005DC2CC80101388002BC001234 ∧
      barmCtr 0x000ABC (5000 * 6144 + 700) 0x03 77000 = 0x00000000012CC8030001D4C2BC000ABC := by decide +kernel

/-- 05, the same example: the entry 96.0 takes 3 × 2^−20 by SR on both sides of d, and by RNE. -/
theorem test_wort_rounds :
    ([Rnd.sr 0x5FFFFFFF, .sr 0x60000000, .rne].map (fun r => wortUpdate true false (-20) (0x42C00000 : Word32) (.sum 3) r)
      = [(0x42C00001 : Word32), 0x42C00000, 0x42C00000]) := by decide +kernel

/-- 04, "one level-2 product": planes, entries and weights of the three stages for the limbs of −300 and 1,000. -/
theorem test_level2_product :
    ((List.range 3).map (fun st => ([3, 232].getD (stagePlane 2 st) 0 : Int) * ([-2, 212].getD (stageEntry 2 st) 0 : Int) * 2 ^ stageWeight 2 st)
      = [-393216, -118784, 162816]) := by decide +kernel

/-- 08, "three addresses", in module 0x0012. -/
theorem test_three_addresses :
      (let s : State := { s0 with modNum := 0x12 }
      s.decodeAddr 0 none 0x0012000141234580 = .mem (.granary 5) 0x01234580 ∧ granaryBank 0x01234580 = 47 ∧
      s.decodeAddr 0 none 0xFFFF100031B00040 = .mem (.floor 3 12) 0x300040 ∧
      s.decodeAddr 0 none 0xFFFF201234567000 = .inter 0x1234567000 ∧ s.interleave 0x1234567000 = (7, 0x2468AC000) ∧
      s.decodeAddr 0 none 0xFFFF28E2468AC000 = .mem (.cellar 7) 0x2468AC000) := by decide +kernel

/-- 19, "three accesses on die D2 and D4". -/
theorem test_register_addresses :
    oVatScale 5 3 = 0x01504C ∧ oTunColl 2 5 = 0x1110A0 ∧ s0.decodeAddr 2 none 0xFFFF50000101504C = .reg 2 0x1504C ∧
      s0.decodeAddr 2 none 0xFFFFF5000001504C = .reg 2 0x1504C := by decide +kernel

/-- 07, "one ledger with overflow": the keeps of the four senders. -/
theorem test_ledger_keeps :
      (let s := (s0.ledSet 0 0 [(0, 16, 128), (16, 16, 64), (32, 8, 3), (192, 64, 0xFFFF000000000000)])
      let s := [(0, 260), (1, 120), (2, 150), (3, 100)].foldl (fun (s : State) t => s.ledMapPut 0 0 (16 * t.1) 4 t.2) s
      (List.range 4).map (s.ledF 0 0) = [128, 120, 128, 100] ∧ (List.range 4).map (s.ledX 0 0) = [64, 0, 22, 0] ∧
        s.ledKeeps 0 0 = [36, 0, 0, 0]) := by decide +kernel

/-- 11, "a checked sum and a failed adder": the release check of the two gauges modulo 2^61 − 1. -/
theorem test_gauge_sum : (64 + (gP - 67)) % gP = gP - 3 ∧ gP - 67 = 0x1FFFFFFFFFFFFFBC := by decide

/-- 14 R621, R622, R627: the entries of the shipped recipe's base list are permitted; its draught list clears CAL and sets TMO to 100. -/
theorem test_shipped_recipe :
    s0.rid = 1 ∧ (recipeList shippedRecipe 0).length = 7 ∧ (recipeList shippedRecipe 0).all (fun e => (entFail 0 e).isNone) = true ∧
      (recipeList shippedRecipe 2).map (fun e => (eOFF e, eMASK e, eVALUE e)) = [(0x40300, 1, 0), (0x33000, 0xFFFF, 100)] := by decide +kernel

/-- 16, "a log record and a recipe at low charge": a job-fatal record needs 225 mJ. -/
theorem test_commit_energy : ({ kind := 0 } : Commit).size = 64 ∧ ({ kind := 0 } : Commit).need = 225 := by decide

/-- 10, "a retry on port P7", slot 107: the carry counts tie, and the lower channel sends. -/
theorem test_carry_tie : bestCarry (fun v => if v = 2 ∨ v = 3 then 1 else 0) [2, 3] = some 2 := by decide

/-! ## Witnesses of the statements' hypotheses -/

/-- Words of the vat instructions: INT8, one column, one row. -/
abbrev steepN : Nat := 0x40 + 2 ^ 25
abbrev mashN : Nat := 0x41 + 2 ^ 27 + 2 ^ 42
abbrev drawN : Nat := 0x42 + 2 ^ 23 + 2 ^ 40
abbrev skipN : Nat := 0x43 + 2 ^ 20
abbrev tallyN (op : Nat) : Nat := 0x44 + 2 ^ 20 * op

/-- Vat 0 with n instructions in each of its queues, and a context of its engine that presents a word. -/
def vatWith (n w : Nat) : State :=
  presenting (s0.putVat 0 0 { steepQ := List.replicate n (vin steepN 0), mashQ := List.replicate n (vin mashN 0),
                              drawQ := List.replicate n (vin drawN 0) }) 0 [w]

/-- The hypotheses of Obligations.VatInstructionsEnterTheirQueuesOrAreTurnedAway, part VatInstructionsEnterTheirQueues, are met. -/
theorem witness_VatInstructionsEnterTheirQueues :
      ((vatWith 7 steepN).presents 0 0 (BitVec.ofNat 128 steepN) ∧ ctxEng 0 = 0 ∧ wbits (BitVec.ofNat 128 steepN) 0 8 = 0x40 ∧
    firstFail (steepChecks (vatWith 7 steepN) 0 0 (BitVec.ofNat 128 steepN)) = none ∧ ((vatWith 7 steepN).vat 0 0).steepQ.length < 8) ∧
      ((vatWith 7 mashN).presents 0 0 (BitVec.ofNat 128 mashN) ∧ wbits (BitVec.ofNat 128 mashN) 0 8 = 0x41 ∧
    firstFail (mashChecks (vatWith 7 mashN) 0 0 (BitVec.ofNat 128 mashN)) = none ∧
    (vatWith 7 mashN).rf 0 oSpineMode spineModePend ≠ 1 ∧ ((vatWith 7 mashN).vat 0 0).mashQ.length < 8 ∧ 0 < maNCOL (BitVec.ofNat 128 mashN)) ∧
      ((vatWith 7 drawN).presents 0 0 (BitVec.ofNat 128 drawN) ∧ wbits (BitVec.ofNat 128 drawN) 0 8 = 0x42 ∧
    firstFail (drawChecks (vatWith 7 drawN) 0 0 (BitVec.ofNat 128 drawN)) = none ∧ ((vatWith 7 drawN).vat 0 0).drawQ.length < 8 ∧
    0 < drROWS (BitVec.ofNat 128 drawN) ∧ 0 < drNCOL (BitVec.ofNat 128 drawN)) ∧
      ((vatWith 7 skipN).presents 0 0 (BitVec.ofNat 128 skipN) ∧ wbits (BitVec.ofNat 128 skipN) 0 8 = 0x43 ∧
    wbits (BitVec.ofNat 128 skipN) 36 92 = 0 ∧ ((vatWith 7 skipN).vat 0 0).mashQ.length < 8 ∧ 0 < skNPASS (BitVec.ofNat 128 skipN)) ∧
      ((∀ op, op < 2 → (vatWith 7 (tallyN op)).front 0 0 = some (BitVec.ofNat 128 (tallyN op)) ∧ wbits (BitVec.ofNat 128 (tallyN op)) 0 8 = 0x44 ∧
    firstFail (tallyChecks (vatWith 7 (tallyN op)) 0 0 (BitVec.ofNat 128 (tallyN op))) = none ∧ taOP (BitVec.ofNat 128 (tallyN op)) = op ∧
    ((vatWith 7 (tallyN op)).vat 0 0).steepQ.length < 8)) ∧
      ((let w := BitVec.ofNat 128 (0x41 + 2 ^ 27)
    let s := vatWith 7 (0x41 + 2 ^ 27)
    s.hasCtx 0 0 = true ∧ s.front 0 0 = some w ∧ firstFail (mashChecks s 0 0 w) = none ∧ s.rf 0 oSpineMode spineModePend ≠ 1 ∧
      (s.vat 0 0).mashQ.length < 8 ∧ maNCOL w = 0)) ∧
      ((∀ n, n = 0x42 ∨ n = 0x42 + 2 ^ 40 ∨ n = 0x42 + 2 ^ 23 → (let w := BitVec.ofNat 128 n
    let s := vatWith 7 n
    s.hasCtx 0 0 = true ∧ s.front 0 0 = some w ∧ firstFail (drawChecks s 0 0 w) = none ∧ (s.vat 0 0).drawQ.length < 8 ∧
      (drROWS w = 0 ∨ drNCOL w = 0)))) ∧
      ((let w := BitVec.ofNat 128 0x43
    let s := vatWith 7 0x43
    s.hasCtx 0 0 = true ∧ s.front 0 0 = some w ∧ wbits w 36 92 = 0 ∧ (s.vat 0 0).mashQ.length < 8 ∧ skNPASS w = 0)) :=
  ⟨by unfold State.presents; decide +kernel,
   by unfold State.presents; decide +kernel,
   by unfold State.presents; decide +kernel,
   by unfold State.presents; decide +kernel,
   by decide +kernel,
   by decide +kernel,
   by rintro n (rfl | rfl | rfl) <;> decide +kernel,
   by decide +kernel⟩

/-- The hypotheses of Obligations.VatInstructionsEnterTheirQueuesOrAreTurnedAway, part VatInstructionsAreRejectedOrHeld, are met. -/
theorem witness_VatInstructionsAreRejectedOrHeld :
      ((vatWith 0 0x40).presents 0 0 0x40 ∧ wbits 0x40 0 8 = 0x40 ∧ firstFail (steepChecks (vatWith 0 0x40) 0 0 0x40) = some 4) ∧
      ((vatWith 0 0x41).presents 0 0 0x41 ∧ wbits 0x41 0 8 = 0x41 ∧ firstFail (mashChecks (vatWith 0 0x41) 0 0 0x41) = some 4) ∧
      ((vatWith 0 (0x42 + 2 ^ 127)).presents 0 0 (BitVec.ofNat 128 (0x42 + 2 ^ 127)) ∧ wbits (BitVec.ofNat 128 (0x42 + 2 ^ 127)) 0 8 = 0x42 ∧
    firstFail (drawChecks (vatWith 0 (0x42 + 2 ^ 127)) 0 0 (BitVec.ofNat 128 (0x42 + 2 ^ 127))) = some 1) ∧
      ((vatWith 0 (0x43 + 2 ^ 36)).presents 0 0 (BitVec.ofNat 128 (0x43 + 2 ^ 36)) ∧ wbits (BitVec.ofNat 128 (0x43 + 2 ^ 36)) 0 8 = 0x43 ∧
    wbits (BitVec.ofNat 128 (0x43 + 2 ^ 36)) 36 92 ≠ 0) ∧
      ((vatWith 8 steepN).presents 0 0 (BitVec.ofNat 128 steepN) ∧ firstFail (steepChecks (vatWith 8 steepN) 0 0 (BitVec.ofNat 128 steepN)) = none ∧
    8 ≤ ((vatWith 8 steepN).vat 0 0).steepQ.length) ∧
      ((vatWith 8 mashN).presents 0 0 (BitVec.ofNat 128 mashN) ∧ firstFail (mashChecks (vatWith 8 mashN) 0 0 (BitVec.ofNat 128 mashN)) = none ∧
    8 ≤ ((vatWith 8 mashN).vat 0 0).mashQ.length) ∧
      ((vatWith 8 drawN).presents 0 0 (BitVec.ofNat 128 drawN) ∧ firstFail (drawChecks (vatWith 8 drawN) 0 0 (BitVec.ofNat 128 drawN)) = none ∧
    8 ≤ ((vatWith 8 drawN).vat 0 0).drawQ.length) ∧
      ((vatWith 8 skipN).presents 0 0 (BitVec.ofNat 128 skipN) ∧ wbits (BitVec.ofNat 128 skipN) 36 92 = 0 ∧
    8 ≤ ((vatWith 8 skipN).vat 0 0).mashQ.length) ∧
      ((∀ op, op < 4 → (let w := BitVec.ofNat 128 (tallyN op + 2 ^ 127)
    let s := vatWith 0 (tallyN op + 2 ^ 127)
    s.hasCtx 0 0 = true ∧ s.front 0 0 = some w ∧ wbits w 0 8 = 0x44 ∧ firstFail (tallyChecks s 0 0 w) = some 1))) ∧
      ((∀ op, op < 2 → (let w := BitVec.ofNat 128 (tallyN op)
    let s := vatWith 8 (tallyN op)
    s.hasCtx 0 0 = true ∧ s.front 0 0 = some w ∧ firstFail (tallyChecks s 0 0 w) = none ∧ 8 ≤ (s.vat 0 0).steepQ.length ∧ taOP w = op))) :=
  ⟨by unfold State.presents; decide +kernel,
   by unfold State.presents; decide +kernel,
   by unfold State.presents; decide +kernel,
   by unfold State.presents; decide +kernel,
   by unfold State.presents; decide +kernel,
   by unfold State.presents; decide +kernel,
   by unfold State.presents; decide +kernel,
   by unfold State.presents; decide +kernel,
   by decide +kernel,
   by decide +kernel⟩

/-- The hypotheses of Obligations.AcceptedInstructionAdvancesItsContext are met. -/
theorem witness_AcceptedInstructionAdvancesItsContext :
      ((presenting s0 25599 [0x40]).canon = true ∧ 25599 < 25600 ∧ ((presenting s0 25599 [0x40]).ctx 0 25599).state = cREADY) ∧
      ((s0.putCtx 0 0 { state := cHOLD }).canon = true ∧ ((s0.putCtx 0 0 { state := cHOLD }).ctx 0 0).state = cHOLD ∧
    (s0.putCtx 0 0 { state := cHOLD }).mark (.ctx 0) 0 = .clean) :=
  ⟨by decide +kernel,
   by decide +kernel⟩

/-- The hypotheses of Obligations.SteepWritesItsRowsAndThenReadiesItsBank, part RowCommitTakesTheNextStagedRow, are met. -/
theorem witness_RowCommitTakesTheNextStagedRow :
      ((∀ n, n = 0 ∨ n = 127 → (let i := vin (steepN + 128 * 2 ^ 27) 1
    let s := s0.putVat 7 15 { steepQ := [i], steepRead := n, steepRow := n }
    let x := (steepFill 7 15 4 s).vat 7 15
    s.hasVat 7 15 = true ∧ (s.vat 7 15).steepQ = i :: [] ∧ i.opc = 0x40 ∧ x.staging ≠ [] ∧ x.steepRow < 128 ∧ x.rowFree i x.steepRow = true))) ∧
      ((let i := vin steepN 1
    let s := s0.putVat 0 0 { steepQ := [i], gens0 := [{ rel := 1 }], steepRead := 1, steepRow := 1, staging := [{}] }
    let x := (steepFill 0 0 4 s).vat 0 0
    x.staging ≠ [] ∧ x.steepRow < 128 ∧ x.rowFree i x.steepRow = false)) :=
  ⟨by rintro n (rfl | rfl) <;> decide +kernel,
   by decide +kernel⟩

/-- The hypotheses of Obligations.SteepWritesItsRowsAndThenReadiesItsBank, part RowCommitWritesItsRowOfGrist, are met. -/
theorem witness_RowCommitWritesItsRowOfGrist :
      (let s := s0.putVat 0 15 { steepQ := [vin (steepN + 128 * 2 ^ 27) 1], steepRead := 128, steepRow := 127, staging := [{}] }
    s.canon = true ∧ s.hasVat 0 15 = true ∧ (s.vat 0 15).steepQ = vin (steepN + 128 * 2 ^ 27) 1 :: [] ∧ (vin (steepN + 128 * 2 ^ 27) 1).opc = 0x40 ∧
      (s.vat 0 15).steepRead = 128 ∧ (s.vat 0 15).staging = [{}] ∧ (s.vat 0 15).steepRow < 128 ∧
      (s.vat 0 15).rowFree (vin (steepN + 128 * 2 ^ 27) 1) (s.vat 0 15).steepRead = true) := by decide +kernel

/-- The hypotheses of Obligations.SteepWritesItsRowsAndThenReadiesItsBank, part TallyEntryCommitMakesTheBankReady, are met. -/
theorem witness_TallyEntryCommitMakesTheBankReady :
      ((∀ b, b = bSTEEPING ∨ b = bLIVE → (let i := vin steepN 1
    let s := s0.putVat 0 0 { steepQ := [i], steepRow := 128, bank0 := b, gens0 := [{ rel := BitVec.allOnes 128, trel := true }] }
    s.canon = true ∧ s.hasVat 0 0 = true ∧ (s.vat 0 0).steepQ = i :: [] ∧ i.opc = 0x40 ∧ 128 ≤ (s.vat 0 0).steepRow ∧
      ((s.vat 0 0).gensBefore (stBANK i.word) i.seq).all (fun g => g.trel) = true ∧ (s.vat 0 0).bank (stBANK i.word) = b))) ∧
      ((let i := vin steepN 1
    let s := s0.putVat 0 0 { steepQ := [i, i], steepRow := 128, bank0 := bLIVE, gens0 := [{ rel := BitVec.allOnes 128 }] }
    (s.vat 0 0).steepQ = i :: [i] ∧ 128 ≤ (s.vat 0 0).steepRow ∧ ((s.vat 0 0).gensBefore (stBANK i.word) i.seq).all (fun g => g.trel) = false)) :=
  ⟨by rintro b (rfl | rfl) <;> decide +kernel,
   by decide +kernel⟩

/-- Die d's inoculation point p is armed at instance i. -/
def inocAt (s : State) (d p i : Nat) : State := ((s.wf d oInocCtl inocCtlArm 1).wf d oInocCtl inocCtlPoint p).wf d oInocCtl inocCtlInst i

/-- Die 0's ring spine is g. -/
def ringIs (g : Ring) : State := s0.putRing 0 g

/-- A beat of parity q, tag t. -/
def beatOf (q t : Nat) : Beat := { lanes := List.replicate 128 (BitVec.ofNat 16 (q * 2 ^ 12)), tag := t, hops := 16 }

/-- A pass of MASH word n with one column. -/
def passOf (n : Nat) (c : Col) : Pass := { instr := vin n 1, cols := [c], brec := { lvl := 1 }, entered := 1, ended := true }

/-- The hypotheses of Obligations.CreditsReturnAndInjectionPlacesBeats, part ReturnedCreditsReachTheirSenders, are met. -/
theorem witness_ReturnedCreditsReachTheirSenders :
      ((let s := s0.putVat 7 15 { credTransit := 1, outCred := 31 }
    s.canon = true ∧ s.hasDie 7 = true ∧ 15 < 16 ∧ 0 < (s.vat 7 15).credTransit ∧ (s.vat 7 15).outCred < 32)) ∧
      ((let s := ringIs { injTransit := 1, injCred := 31, sendTransit := 1, sendCred := 511, landTransit := 1, landCred := 255 }
    s.canon = true ∧ s.hasDie 0 = true ∧ 0 < (s.ring 0).injTransit ∧ (s.ring 0).injCred < 32 ∧ (s.ring 0).landing = [] ∧
      0 < (s.ring 0).sendTransit ∧ (s.ring 0).sendCred < 512 ∧ 0 < (s.ring 0).landTransit ∧ (s.ring 0).landCred < 256)) ∧
      ((s0.vat 0 15).credTransit = 0 ∧ (s0.ring 0).injTransit = 0) :=
  ⟨by decide +kernel,
   by decide +kernel,
   by decide +kernel⟩

/-- The hypotheses of Obligations.CreditsReturnAndInjectionPlacesBeats, part InjectionPlacesTheNextBeat, are met. -/
theorem witness_InjectionPlacesTheNextBeat :
      ((∀ n, n = 0 ∨ n = 5 → (let i := vin (mashN + 2 * 2 ^ 27) 1
    let s := ringIs { inj := some i, injNext := n, injCred := 1, long := true }
    s.hasDie 0 = true ∧ (s.ring 0).inj = some i ∧ (s.ring 0).injCred ≠ 0 ∧ ((s.ring 0).long = true → (s.ring 0).landing = [])))) ∧
      ((let s := ringIs { inj := some (vin mashN 1), injCred := 0 }
    (s.ring 0).inj = some (vin mashN 1) ∧ (s.ring 0).injCred = 0)) ∧
      ((let s := ringIs { inj := some (vin mashN 1), long := true, landing := [beatOf 0 1] }
    (s.ring 0).inj = some (vin mashN 1) ∧ (s.ring 0).long = true ∧ (s.ring 0).landing ≠ [])) ∧
      ((∀ b, b = true ∨ b = false → (let i := vin (mashN + 2 ^ 30) 1
    let s := (s0.putRing 0 { long := b }).putVat 0 0 { mashQ := [i] }
    s.canon = true ∧ (s.ring 0).inj = none ∧ s.injWaiting 0 = some i ∧ s.ringFor 0 i.tag = true ∧ s.injActive = false ∧ s.injTurn = some 0))) ∧
      ((s0.ring 0).inj = none ∧ s0.injWaiting 0 = none) :=
  ⟨by rintro n (rfl | rfl) <;> decide +kernel,
   by decide +kernel,
   by decide +kernel,
   by rintro b (rfl | rfl) <;> decide +kernel,
   by decide +kernel⟩

/-- The hypotheses of Obligations.BeatsCrossTheBridgeAndTheVatsInOrder, part BeatsCrossTheBridgeInOrder, are met. -/
theorem witness_BeatsCrossTheBridgeInOrder :
      ((∀ t, t = 3 ∨ t = 4 → (let s : State := { ringIs { send := [beatOf 0 1], long := true, landCred := 1, sendTransit := t } with slotOwn := [(3, 17)] }
    s.canon = true ∧ s.hasDie 0 = true ∧ (s.ring 0).send = beatOf 0 1 :: [] ∧ (s.ring 0).long = true ∧ 0 < (s.ring 0).landCred ∧
      s.liquorTakes 0 (beatOf 0 1).tag = true ∧ (s.inoc 0).point ≠ 0x15 ∧ (s.inoc (s.nextDie 0)).point ≠ 0x15))) ∧
      ((∀ n, n = 0 ∨ n = 1 → (let u : State := { ringIs { send := [beatOf 0 1], long := true, landCred := 1 } with slotOwn := [(3, 17)] }
    let s := inocAt u n 0x15 n
    s.canon = true ∧ (s.ring 0).send = beatOf 0 1 :: [] ∧ s.liquorTakes 0 (beatOf 0 1).tag = true ∧ s.nextDie 0 = 1 ∧
      (s.inoc n).point = 0x15 ∧ (s.inoc n).inst = n))) ∧
      ((let s := ringIs { send := [beatOf 0 1], long := true, landCred := 1 }
    s.canon = true ∧ s.hasDie 0 = true ∧ (s.ring 0).send = beatOf 0 1 :: [] ∧ s.liquorTakes 0 (beatOf 0 1).tag = false)) ∧
      ((let s := ringIs { send := [beatOf 0 1], long := false }
    (s.ring 0).send = beatOf 0 1 :: [] ∧ (s.ring 0).long = false) ∧ (s0.ring 0).send = [] ∧ (s0.ring (s0.prevDie 0)).wire = []) ∧
      ((∀ c, c = true ∨ c = false → (let b : Beat := { beatOf 0 1 with crcBad := c }
    let s := (s0.putRing 7 { wire := [b] }).putRing 0 { injCred := 0 }
    s.canon = true ∧ s.hasDie 0 = true ∧ s.prevDie 0 = 7 ∧ 0 ≠ s.prevDie 0 ∧ (s.ring 7).wire = b :: [] ∧ b.crcBad = c ∧ (s.ring 0).injCred = 0))) :=
  ⟨by rintro t (rfl | rfl) <;> decide +kernel,
   by rintro n (rfl | rfl) <;> decide +kernel,
   by decide +kernel,
   by decide +kernel,
   by rintro c (rfl | rfl) <;> decide +kernel⟩

/-- The hypotheses of Obligations.LongModeSwitchesWhenEveryDieIsDrained are met. -/
theorem witness_LongModeSwitchesWhenEveryDieIsDrained :
      ((let s := s0.wf 7 oSpineMode spineModePend 1
    s.canon = true ∧ (7 < s.nDies ∧ s.rf 7 oSpineMode spineModePend = 1) ∧ ∀ d, d < s.nDies → s.drained d = true)) ∧
      ((let s := ringIs { send := [beatOf 0 1] }
    s.canon = true ∧ 0 < s.nDies ∧ s.drained 0 = false)) ∧
      (s0.canon = true ∧ 7 < s0.nDies ∧ s0.hasReq (.firmware 31) = true ∧ s0.reachable (.firmware 31) = true ∧
    bit (s0.rf 7 oIslRest islRestRested) 30 = false ∧ s0.longJob = none ∧ 0 % 2 = 0) ∧
      ((let s := (vatWith 0 mashN).wf 0 oSpineMode spineModePend 1
    s.canon = true ∧ s.hasCtx 0 0 = true ∧ s.front 0 0 = some (BitVec.ofNat 128 mashN) ∧ ctxEng 0 = 0 ∧ wbits (BitVec.ofNat 128 mashN) 0 8 = 0x41 ∧
      firstFail (mashChecks s 0 0 (BitVec.ofNat 128 mashN)) = none ∧ s.rf 0 oSpineMode spineModePend = 1)) :=
  ⟨by decide +kernel,
   by decide +kernel,
   by decide +kernel,
   by decide +kernel⟩

/-- The hypotheses of Obligations.PassesBindByTheGristState are met. -/
theorem witness_PassesBindByTheGristState :
      ((let s := s0.putVat 0 0 { mashQ := [vin mashN 1], inq := [beatOf 0 0], bank0 := bREADY, live0 := some { lvl := 1 } }
    let x := s.vat 0 0
    s.canon = true ∧ s.hasVat 0 0 = true ∧ x.entryFree = true ∧ x.mashQ = vin mashN 1 :: [] ∧ (vin mashN 1).opc = 0x41 ∧
      isDraught (maSHAPE (vin mashN 1).word) = false ∧ x.inq = beatOf 0 0 :: [] ∧ elPar ((beatOf 0 0).lanes.getD 0 0) = 0 ∧
      x.bindCase 0 = some false ∧ x.recFor 0 false = some { lvl := 1 } ∧ maPAR (vin mashN 1).word = 0 ∧ (beatOf 0 0).tag = (vin mashN 1).tag ∧
      recMatches (vin mashN 1).word { lvl := 1 } = true)) ∧
      ((let i := vin (mashN + 2 * 2 ^ 24 + 2 ^ 20) 1
    let s := ((s0.putRing 0 { ringTag := some 0 }).wf 0 (oThrJob 0) thrJobEn 1).putVat 0 0 { mashQ := [i], bank1 := bLIVE, hasPrev := true, lastPar := 1, lastKeep := true, live1 := some { shape := 2, lvl := 1 } }
    let x := s.vat 0 0
    s.canon = true ∧ s.hasVat 0 0 = true ∧ x.entryFree = true ∧ x.mashQ = i :: [] ∧ i.opc = 0x41 ∧ isDraught (maSHAPE i.word) = true ∧
      s.ringHeld 0 = true ∧ maPAR i.word = 1 ∧ x.bindCase 1 = some true ∧ x.recFor 1 true = some { shape := 2, lvl := 1 } ∧
      recMatches i.word { shape := 2, lvl := 1 } = true)) ∧
      ((let s := s0.putVat 0 0 { mashQ := [vin mashN 1], inq := [beatOf 1 0] }
    let x := s.vat 0 0
    s.canon = true ∧ s.hasVat 0 0 = true ∧ x.entryFree = true ∧ x.mashQ = vin mashN 1 :: [] ∧ (vin mashN 1).opc = 0x41 ∧
      isDraught (maSHAPE (vin mashN 1).word) = false ∧ x.inq = beatOf 1 0 :: [] ∧ elPar ((beatOf 1 0).lanes.getD 0 0) = 1 ∧
      (x.bindCase 1 = none ∧ 1 ≠ maPAR (vin mashN 1).word))) ∧
      ((let i := vin mashN 1
    let s := s0.putVat 0 0 { mashQ := [i], inq := [beatOf 0 0], bank0 := bREADY, live0 := some { lvl := 2 } }
    let x := s.vat 0 0
    x.mashQ = i :: [] ∧ x.inq = beatOf 0 0 :: [] ∧ x.bindCase 0 = some false ∧ x.recFor 0 false = some { lvl := 2 } ∧
      recMatches i.word { lvl := 2 } = false)) ∧
      ((let i := vin (mashN + 2 * 2 ^ 24 + 2 ^ 20) 1
    let s := s0.putVat 0 0 { mashQ := [i] }
    (s.vat 0 0).entryFree = true ∧ (s.vat 0 0).mashQ = i :: [] ∧ i.opc = 0x41 ∧ isDraught (maSHAPE i.word) = true ∧ s.ringHeld 0 = false)) :=
  ⟨by decide +kernel,
   by decide +kernel,
   by decide +kernel,
   by decide +kernel,
   by decide +kernel⟩

/-- The hypotheses of Obligations.PassesBindByTheGristState, part SkippedPassesBindOrWait, are met. -/
theorem witness_SkippedPassesBindOrWait :
      ((∀ n, n = 0 ∨ n = 2 → (let i := vin skipN 1
    let s := s0.putVat 0 0 { mashQ := [i], inq := [beatOf 0 0], skipLeft := n }
    let x := s.vat 0 0
    s.canon = true ∧ s.hasVat 0 0 = true ∧ x.entryFree = true ∧ x.mashQ = i :: [] ∧ i.opc = 0x43 ∧ x.inq = beatOf 0 0 :: []))) ∧
      ((let s := s0.putVat 0 0 { inq := [beatOf 0 7], abortDrn := true, abortTags := [7] }
    let x := s.vat 0 0
    s.canon = true ∧ s.hasVat 0 0 = true ∧ x.entryFree = true ∧ x.mashQ = [] ∧ x.inq = beatOf 0 7 :: [] ∧ x.abortDrn = true ∧
      (beatOf 0 7).tag ∈ x.abortTags)) ∧
      (((s0.putVat 0 0 { passes := [{}] }).vat 0 0).entryFree = false ∧ (s0.vat 0 0).mashQ = [] ∧ (s0.vat 0 0).inq = [] ∧ (s0.vat 0 0).abortDrn = false) ∧
      ((let i := vin mashN 1
    let x := (s0.putVat 0 0 { mashQ := [i] }).vat 0 0
    x.mashQ = i :: [] ∧ x.inq = [] ∧ isDraught (maSHAPE i.word) = false)) :=
  ⟨by rintro n (rfl | rfl) <;> decide +kernel,
   by decide +kernel,
   by decide +kernel,
   by decide +kernel⟩

/-- The hypotheses of Obligations.BeatsCrossTheBridgeAndTheVatsInOrder, part BeatsMoveThroughAVat, are met. -/
theorem witness_BeatsMoveThroughAVat :
      ((∀ v, v = 0 ∨ v = 15 → (let p : Pass := { kind := .skip }
    let s := s0.putVat 0 v { passes := [p], inq := [beatOf 0 0] }
    let x := s.vat 0 v
    s.canon = true ∧ s.hasVat 0 v = true ∧ x.passes.getLast? = some p ∧ p.ended = false ∧ p.kind ≠ .mash ∧ p.draught = false ∧
      x.inq = beatOf 0 0 :: [] ∧ x.hasRoom = true ∧ (s.ring 0).injTransit < 4))) ∧
      ((∀ v, v = 14 ∨ v = 15 → (let c : Col := { lanes := [(beatOf 0 0).lanes], hops := 2 }
    let p : Pass := { kind := .failed, cols := [c] }
    let s := s0.putVat 0 v { passes := [p], outCred := 1 }
    let x := s.vat 0 v
    s.canon = true ∧ s.hasVat 0 v = true ∧ x.passes = [p] ∧ p.cols = [c] ∧ c.sent < c.lanes.length ∧ x.mayLeave 0 0 = true ∧
      c.bads.getD c.sent [] = [] ∧ 1 < c.hops ∧ 0 < x.outCred ∧ 0 < (s.ring 0).sendCred))) ∧
      ((let c : Col := { lanes := [(beatOf 0 0).lanes], hops := 1 }
    let p : Pass := { kind := .failed, cols := [c] }
    let s := s0.putVat 0 0 { passes := [p] }
    s.canon = true ∧ (s.vat 0 0).passes = [p] ∧ p.cols = [c] ∧ c.sent < c.lanes.length ∧ (s.vat 0 0).mayLeave 0 0 = true ∧
      c.bads.getD c.sent [] = [] ∧ c.hops ≤ 1)) :=
  ⟨by rintro v (rfl | rfl) <;> decide +kernel,
   by rintro v (rfl | rfl) <;> decide +kernel,
   by decide +kernel⟩

/-- The hypotheses of Obligations.BeatsEnterAndLeaveTheArray, part BeatsEnterTheArray, are met. -/
theorem witness_BeatsEnterTheArray :
      ((∀ v, v = 0 ∨ v = 15 → (let p : Pass := { instr := vin (mashN + 2 ^ 27) 1, brec := { lvl := 2 } }
    let s := s0.putVat 0 v { passes := [p], inq := [beatOf 0 0, beatOf 0 0] }
    let x := s.vat 0 v
    s.hasVat 0 v = true ∧ x.passes.getLast? = some p ∧ p.ended = false ∧ p.draught = false ∧ x.inq = beatOf 0 0 :: [beatOf 0 0] ∧
      x.hasRoom = true))) ∧
      ((let p : Pass := { instr := vin (mashN + 2 * 2 ^ 24) 1, brec := { shape := 2, lvl := 1 } }
    let x := (s0.putVat 0 0 { passes := [p] }).vat 0 0
    x.passes.getLast? = some p ∧ p.ended = false ∧ p.draught = true ∧ x.hasQuads = true)) ∧
      ((let p : Pass := { ended := true }
    (s0.vat 0 0).passes = [] ∧ ((s0.putVat 0 0 { passes := [p] }).vat 0 0).passes.getLast? = some p ∧ p.ended = true)) ∧
      ((let c : Col := { lanes := [(beatOf 0 0).lanes] }
    let p : Pass := { instr := vin (mashN + 2 ^ 42) 1, gen := 5, cols := List.replicate 1 c }
    let x := (s0.putVat 0 0 { passes := [p], steepQ := [vin steepN 1], inq := [beatOf 0 0] }).vat 0 0
    x.passes.getLast? = some p ∧ p.ended = false ∧ p.draught = false ∧ x.hasRoom = false)) :=
  ⟨by rintro v (rfl | rfl) <;> decide +kernel,
   by decide +kernel,
   by decide +kernel,
   by decide +kernel⟩

/-- The hypotheses of Obligations.BeatsEnterAndLeaveTheArray, part BeatsLeaveTheTallyRow, are met. -/
theorem witness_BeatsLeaveTheTallyRow :
      ((∀ n, n = 0 ∨ n = 1 → (let c : Col := { lanes := [(beatOf 0 0).lanes, (beatOf 0 0).lanes], bads := [[], [127]], hops := 1, sent := n }
    let p : Pass := { kind := .failed, cols := [{}, c] }
    let s := s0.putVat 7 15 { passes := [{ kind := .failed }, p] }
    let x := s.vat 7 15
    s.hasVat 7 15 = true ∧ findIdxFrom (fun p => p.cols.any (fun c => decide (c.sent < c.lanes.length))) 0 x.passes = some 1 ∧
      x.passes.getD 1 {} = p ∧ findIdxFrom (fun c => decide (c.sent < c.lanes.length)) 0 p.cols = some 1 ∧ p.cols.getD 1 {} = c ∧
      x.mayLeave 1 1 = true ∧ ¬ 1 < c.hops ∧ (n = 1 → c.bads.getD c.sent [] ≠ [])))) ∧
      ((let c : Col := { lanes := [(beatOf 0 0).lanes], hops := 2 }
    let p : Pass := { kind := .failed, cols := [c] }
    let s := s0.putVat 0 0 { passes := [p], outCred := 0 }
    (s.vat 0 0).passes.getD 0 {} = p ∧ p.cols.getD 0 {} = c ∧ 1 < c.hops ∧ s.creditsOf 0 0 = 0)) :=
  ⟨by rintro n (rfl | rfl) <;> decide +kernel,
   by decide +kernel⟩

/-- The hypotheses of Obligations.BlockSumsReachTheirWort, part ResolverWritesTheOldestOwedSums, are met. -/
theorem witness_ResolverWritesTheOldestOwedSums :
      ((let p := passOf mashN { lanes := [(beatOf 0 0).lanes] }
    let s := s0.putVat 0 0 { passes := [p] }
    let x := s.vat 0 0
    s.hasVat 0 0 = true ∧ 127 < 128 ∧ x.nextCol 127 = some (0, 0) ∧ mfind (p.cols.getD 0 {}).held 127 = none ∧ x.rowReady p 127 = true ∧
      x.reached 0 0 127 = true ∧ x.drawAhead (maHALF p.instr.word) p.instr.seq 127 = false)) ∧
      ((let p := passOf mashN { lanes := [(beatOf 0 0).lanes], held := [(127, [.poisoned])] }
    let x := (s0.putVat 0 0 { passes := [p] }).vat 0 0
    x.nextCol 127 = some (0, 0) ∧ mfind (p.cols.getD 0 {}).held 127 = some [.poisoned] ∧ x.drawAhead (maHALF p.instr.word) p.instr.seq 127 = false)) ∧
      ((let p := passOf mashN { lanes := [(beatOf 0 0).lanes] }
    let x := (s0.putVat 0 0 { passes := [p], drawQ := [vin (0x42 + 128 * 2 ^ 23 + 2 ^ 40) 0] }).vat 0 0
    x.nextCol 127 = some (0, 0) ∧ x.drawAhead (maHALF p.instr.word) p.instr.seq 127 = true)) ∧
      ((let p : Pass := { passOf mashN { lanes := [(beatOf 0 0).lanes] } with gen := 5 }
    let x := (s0.putVat 0 0 { passes := [p], steepQ := [vin steepN 1], steepRow := 127 }).vat 0 0
    x.nextCol 127 = some (0, 0) ∧ mfind (p.cols.getD 0 {}).held 127 = none ∧ x.rowReady p 127 = false)) :=
  ⟨by decide +kernel,
   by decide +kernel,
   by decide +kernel,
   by decide +kernel⟩

/-- The hypotheses of Obligations.BlockSumsReachTheirWort, part WortEntryTakesItsBlockSum, are met. -/
theorem witness_WortEntryTakesItsBlockSum :
      (s0.canon = true ∧ 127 < 128 ∧ 511 < 512 ∧ 7 < 8 ∧ 15 < 16 ∧ (BSum.sum 5 : BSum) ≠ .poisoned ∧ (s0.inoc 7).point ≠ 3 ∧ (s0.inoc 7).point ≠ 0x14 ∧
    (s0.vat 7 15).undef0 = none ∧ (s0.vat 7 15).undef1 = none) ∧
      (∀ o, s0.mark (.wort 7 15 0) o = .clean) :=
  ⟨by decide +kernel,
   fun _ => rfl⟩

/-- The hypotheses of Obligations.Int32WortSaturates are met. -/
theorem witness_Int32WortSaturates :
      (s0.canon = true ∧ 127 < 128 ∧ 511 < 512 ∧ 7 < 8 ∧ 15 < 16 ∧ maFMT (passOf mashN {}).instr.word ≠ 1 ∧ (s0.inoc 7).point ≠ 3 ∧
    (s0.inoc 7).point ≠ 0x14 ∧ (s0.vat 7 15).undef0 = none ∧ (s0.vat 7 15).undef1 = none ∧
    (maINIT (passOf mashN {}).instr.word && firstOfEntry (passOf mashN {}).instr.word 0) = false) ∧
      (∀ o, s0.mark (.wort 7 15 0) o = .clean) ∧
      ((let s := s0.write (.wort 7 15 0) (wortOff 127 511) (toBytes 4 (2 ^ 31 - 1))
    s.canon = true ∧ sx 32 (s.wortAt 7 15 0 127 511).toNat = 2 ^ 31 - 1 ∧ (0 : Int) ≤ 1)) ∧
      ((let s := s0.write (.wort 7 15 0) (wortOff 127 511) (toBytes 4 (2 ^ 31))
    s.canon = true ∧ sx 32 (s.wortAt 7 15 0 127 511).toNat = -(2 ^ 31) ∧ (-1 : Int) ≤ 0)) :=
  ⟨by decide +kernel,
   fun _ => rfl,
   by decide +kernel,
   by decide +kernel⟩

/-- The hypotheses of Obligations.TallyCheckComparesOneColumn are met. -/
theorem witness_TallyCheckComparesOneColumn :
      ((∀ a, a = 0 ∨ a = 1 → (let c : Col := { wr := BitVec.allOnes 128, tally := some [a] }
    let p := passOf mashN c
    let s := s0.putVat 0 0 { passes := [p] }
    s.canon = true ∧ s.hasVat 0 0 = true ∧ (s.vat 0 0).passes = [p] ∧ p.kind = .mash ∧ p.cols = [c] ∧ c.checked = false ∧ c.allFormed = true ∧
      c.tally = some [a] ∧ c.bads.flatten = [] ∧ c.psn = false ∧ c.nan = false ∧
      (a = 0 → a = c.res0) ∧ (a = 1 → a ≠ c.res0)))) ∧
      ((∀ b, b = true ∨ b = false → (let c : Col := { wr := BitVec.allOnes 128, tally := some [8190], psn := b, nan := true }
    let p := passOf mashN c
    let s := s0.putVat 0 0 { passes := [p] }
    s.canon = true ∧ (s.vat 0 0).passes = [p] ∧ p.cols = [c] ∧ c.checked = false ∧ c.allFormed = true ∧ c.tally = some [8190] ∧
      c.bads.flatten = [] ∧ c.psn = b ∧ c.nan = true))) :=
  ⟨by rintro a (rfl | rfl) <;> decide +kernel,
   by rintro b (rfl | rfl) <;> decide +kernel⟩

/-- The hypotheses of Obligations.TallyCheckComparesOneColumn, part TallyCheckTakesTheOldestColumn, are met. -/
theorem witness_TallyCheckTakesTheOldestColumn :
      ((let c : Col := { wr := BitVec.allOnes 128, lanes := [(beatOf 0 0).lanes] }
    let p : Pass := { passOf mashN c with cols := [{ c with checked := true }, c] }
    let s := s0.putVat 0 0 { passes := [p] }
    let x := s.vat 0 0
    s.hasVat 0 0 = true ∧ findIdxFrom (fun p => p.kind = .mash && p.cols.any (fun c => ! c.checked)) 0 x.passes = some 0 ∧
      findIdxFrom (fun c => ! c.checked) 0 p.cols = some 1 ∧ c.allFormed = true ∧ c.tally = none ∧ x.tallyReady p = true)) ∧
      ((let c : Col := { wr := 1 }
    let p := passOf mashN c
    let x := (s0.putVat 0 0 { passes := [p] }).vat 0 0
    findIdxFrom (fun p => p.kind = .mash && p.cols.any (fun c => ! c.checked)) 0 x.passes = some 0 ∧ c.allFormed = false)) ∧
      ((let c : Col := { wr := BitVec.allOnes 128 }
    let p : Pass := { passOf mashN c with gen := 5 }
    let x := (s0.putVat 0 0 { passes := [p], steepQ := [vin steepN 1] }).vat 0 0
    c.tally = none ∧ x.tallyReady p = false)) :=
  ⟨by decide +kernel,
   by decide +kernel,
   by decide +kernel⟩

/-- The hypotheses of Obligations.PassesEndDrawsReadAndTheVatDrains, part EndReleasesGristAndThenTheBank, are met. -/
theorem witness_EndReleasesGristAndThenTheBank :
      ((let p := passOf mashN {}
    let s := s0.putVat 0 0 { passes := [p], gens0 := [{}], bank0 := bLIVE }
    let x := s.vat 0 0
    s.hasVat 0 0 = true ∧ x.oldestReleasing (fun g => ! g.rel.getLsbD 0) = some (0, p) ∧ x.oldestReleasing (fun g => ! g.rel.getLsbD 127) = some (0, p) ∧
      x.rowReady p 0 = true ∧ x.endPassed 0 0 = true ∧ isDraught p.brec.shape = false ∧ (x.genOf p).rel.getLsbD (127 - 1) = false)) ∧
      ((let p : Pass := { passOf (mashN + 2 * 2 ^ 24) {} with brec := { shape := 2, lvl := 1 } }
    let x := (s0.putVat 0 0 { passes := [p], gens0 := [{}], bank0 := bLIVE }).vat 0 0
    x.oldestReleasing (fun g => ! g.rel.getLsbD 96) = some (0, p) ∧ x.rowReady p 96 = true ∧ x.endPassed 0 96 = true ∧ isDraught p.brec.shape = true)) ∧
      ((let p := passOf mashN {}
    let s := s0.putVat 0 0 { passes := [p], gens0 := [{ rel := BitVec.allOnes 128 }], bank0 := bLIVE, steepQ := [vin steepN 1] }
    let x := s.vat 0 0
    s.canon = true ∧ x.oldestReleasing (fun g => ! g.trel) = some (0, p) ∧ (relRows p.brec).all (fun r => (x.genOf p).rel.getLsbD r) = true ∧
      x.tallyReady p = true ∧ s.endAtTally 0 0 0 = true ∧ (x.gens p.par).map (fun g => g.seq) = [p.gen] ∧ p.par < 2 ∧ x.steeping p.par = true)) ∧
      ((let p := passOf mashN {}
    let s := s0.putVat 0 0 { passes := [p], gens0 := [{}], bank0 := bLIVE }
    let x := s.vat 0 0
    x.oldestReleasing (fun g => ! g.trel) = some (0, p) ∧ (relRows p.brec).all (fun r => (x.genOf p).rel.getLsbD r) = false)) :=
  ⟨by decide +kernel,
   by decide +kernel,
   by decide +kernel,
   by decide +kernel⟩

/-- The hypotheses of Obligations.PassesEndDrawsReadAndTheVatDrains, part DrawReadsItsRowsInOrder, are met. -/
theorem witness_DrawReadsItsRowsInOrder :
      ((∀ n, n = 0 ∨ n = 2 → (let i := vin (0x42 + 3 * 2 ^ 23 + 2 ^ 40) 2
    let s := s0.putVat 0 0 { drawQ := [i], drawPtr := n, lostDraws := [n] }
    let x := s.vat 0 0
    s.hasVat 0 0 = true ∧ x.drawQ = i :: [] ∧ drFOLD i.word = false ∧ x.owesRow (drHALF i.word) i.seq (drRow i.word n) = false ∧
      x.talliesKnown (drHALF i.word) i.seq = true ∧ (n = 2 → x.lostDraws.contains i.seq = true) ∧ (n = 0 → x.lostDraws.contains i.seq = false)))) ∧
      ((∀ n, n = 0 ∨ n = 3 → (let i := vin (0x42 + 2 ^ 21 + 2 ^ 23 + 2 ^ 40) 2
    let x := (s0.putVat 0 0 { drawQ := [i], drawPtr := n, drawExp := some 0 }).vat 0 0
    x.drawQ = i :: [] ∧ drFOLD i.word = true ∧ x.owesRow (drHALF i.word) i.seq (drRow i.word n) = false ∧
      x.talliesKnown (drHALF i.word) i.seq = true ∧ (n = 0 → n / drROWS i.word ≠ 3) ∧ (n = 3 → n / drROWS i.word = 3)))) ∧
      ((let i := vin (0x42 + 3 * 2 ^ 23 + 2 ^ 40) 2
    let s := s0.putVat 0 0 { drawQ := [i], drawPtr := 1, drawExp := some 0, mashQ := [vin mashN 1] }
    (s.vat 0 0).drawQ = i :: [] ∧ (s.vat 0 0).owesRow (drHALF i.word) i.seq 1 = true)) :=
  ⟨by rintro n (rfl | rfl) <;> decide +kernel,
   by rintro n (rfl | rfl) <;> decide +kernel,
   by decide +kernel⟩

/-- The hypotheses of Obligations.PassesEndDrawsReadAndTheVatDrains, part VatCompletionPostsDone, are met. -/
theorem witness_VatCompletionPostsDone :
      ((∀ b, b = true ∨ b = false → (let s := s0.putVat 7 15 { done := [vin mashN 1], abortDrn := b }
    s.hasVat 7 15 = true ∧ (s.vat 7 15).done = vin mashN 1 :: [] ∧ (s.vat 7 15).abortDrn = b))) ∧
      ((s0.vat 7 15).done = []) :=
  ⟨by rintro b (rfl | rfl) <;> decide +kernel,
   by decide +kernel⟩

/-- The hypotheses of Obligations.PassesEndDrawsReadAndTheVatDrains, part VatAbortDrainStartsAndEnds, are met. -/
theorem witness_VatAbortDrainStartsAndEnds :
      ((let s := ringIs { ringTag := some 255 }
    s.canon = true ∧ s.hasVat 0 0 = true ∧ (s.ring 0).ringTag = some 255 ∧ (s.ring 0).ringTag ≠ some 254 ∧ (s.vat 0 0).holdsTag 254 = false)) ∧
      ((∀ n, n = 0 ∨ n = 1 → (let i : VInstr := { vin mashN 1 with tag := 255 }
    let s := s0.putVat 0 0 { mashQ := [i], drawQ := [vin drawN 2], bank1 := bLIVE, hasPrev := true, lastPar := 1, lastKeep := true,
                             steepQ := List.replicate n { vin (steepN + 2 ^ 20) 3 with tag := 254 } }
    let x := s.vat 0 0
    s.canon = true ∧ x.holdsTag 255 = true ∧ x.mashQ.filter (fun i => decide (i.tag ∈ [255]) && s.noUpstream 0 0 i.tag) = [i] ∧
      x.hasPrev = true ∧ x.lastKeep = true ∧ x.bank x.lastPar = bLIVE ∧ x.passes = []))) ∧
      ((let s := s0.putVat 0 0 { abortDrn := true, abortTags := [255] }
    let x := s.vat 0 0
    s.canon = true ∧ s.hasVat 0 0 = true ∧ x.abortDrn = true ∧ x.mashQ = [] ∧ x.steepQ = [] ∧ x.drawQ = [] ∧ x.done = [] ∧ x.passes = [] ∧ x.inq = [])) :=
  ⟨by decide +kernel,
   by rintro n (rfl | rfl) <;> decide +kernel,
   by decide +kernel⟩

/-- Partition 0 holds everything of die 0, job tag 0 of it runs there, and rack queue 0 is its. -/
def rig : State :=
  let s : State := { s0 with grants := [{ kind := 1, count := 16 }, { kind := 2, count := 4 }, { kind := 3, count := 512 },
    { kind := 5, count := 80 }, { kind := 6, count := 4096 }, { kind := 7, count := 1024 }, { kind := 8, count := 1024 },
    { kind := 10, count := 256 }] }
  (s.wfs 0 (oThrJob 0) [(thrJobEn, 1), (thrJobPart, 0), (thrJobClim, 1024)]).wfs 0 (oRkQcfg 0) [(rkQcfgEn, 1), (rkQcfgPart, 0)]

/-- Kettle core 0 of the rig, whose first context presents words; J1 holds the address a. -/
def kettleAt (a : Nat) (ws : List Nat) : State :=
  (presenting rig 16384 ws).putKcore 0 0 { j := if a = 0 then [] else [(1, BitVec.ofNat 64 a)] }

/-- A floor address of vat 0. -/
abbrev floorA : Nat := gaddr (.floor 0 0) 64

/-- The hypotheses of Obligations.ArithmeticGroupsPendTheirResults, part FloatGroupsPendTheirResults, are met. -/
theorem witness_FloatGroupsPendTheirResults :
      (∀ opc, opc ∈ [0x80, 0x81, 0x82, 0x83, 0x84, 0x85, 0x86, 0x87, 0x88] →
      ((kettleAt 0 [opc]).inoc 0).point ≠ 0x20 ∧ (kettleAt 0 [opc]).ketTakes opc 0 16384 (BitVec.ofNat 128 opc)) := by unfold State.ketTakes State.presents; decide +kernel

/-- The hypotheses of Obligations.ArithmeticGroupsPendTheirResults, part IntegerAndTrainingGroupsPendTheirResults, are met. -/
theorem witness_IntegerAndTrainingGroupsPendTheirResults :
      ((∀ opc, opc ∈ [0x89, 0x8A, 0x8B, 0x8C, 0x8D, 0x90, 0x91, 0x93] →
      ((kettleAt 0 [opc]).inoc 0).point ≠ 0x20 ∧ (kettleAt 0 [opc]).ketTakes opc 0 16384 (BitVec.ofNat 128 opc))) ∧
      ((kettleAt 0 [0x92 + 0x80 * 2 ^ 64]).ketTakes 0x92 0 16384 (BitVec.ofNat 128 (0x92 + 0x80 * 2 ^ 64))) ∧
      (wbit (BitVec.ofNat 128 0x8D) 74 = false) ∧
      ((kettleAt 0 [0x8D + 2 ^ 74]).ketTakes 0x8D 0 16384 (BitVec.ofNat 128 (0x8D + 2 ^ 74)) ∧ wbit (BitVec.ofNat 128 (0x8D + 2 ^ 74)) 74 = true) :=
  ⟨by unfold State.ketTakes State.presents; decide +kernel,
   by unfold State.ketTakes State.presents; decide +kernel,
   by decide +kernel,
   by unfold State.ketTakes State.presents; decide +kernel⟩

/-- The hypotheses of Obligations.ScalarBranchAndTransferGroupsAreAcceptedOrRejected, part ScalarGroupsAndBranches, are met. -/
theorem witness_ScalarGroupsAndBranches :
      ((∀ opc, opc ∈ [0xA0, 0xA1, 0xA2, 0xA3] →
      ((kettleAt 0 [opc]).inoc 0).point ≠ 0x20 ∧ (kettleAt 0 [opc]).ketTakes opc 0 16384 (BitVec.ofNat 128 opc) ∧
        wbit (BitVec.ofNat 128 0xA0) 98 = false ∧ (((kettleAt 0 [opc]).kcore 0 0).sc (kJ (BitVec.ofNat 128 opc) 64)) = (0, false))) ∧
      ((kettleAt 0 [0xA0 + 2 ^ 98]).ketTakes 0xA0 0 16384 (BitVec.ofNat 128 (0xA0 + 2 ^ 98)) ∧ wbit (BitVec.ofNat 128 (0xA0 + 2 ^ 98)) 98 = true) ∧
      ((∀ v, v ∈ [1, 2] → (kettleAt v [0xA3 + 2 ^ 64]).ketTakes 0xA3 0 16384 (BitVec.ofNat 128 (0xA3 + 2 ^ 64)) ∧
      (((kettleAt v [0xA3 + 2 ^ 64]).kcore 0 0).sc (kJ (BitVec.ofNat 128 (0xA3 + 2 ^ 64)) 64)) = (v, false))) ∧
      ((kettleAt 1 [0xA2 + 2 ^ 64]).ketTakes 0xA2 0 16384 (BitVec.ofNat 128 (0xA2 + 2 ^ 64)) ∧
      (((kettleAt 1 [0xA2 + 2 ^ 64]).kcore 0 0).sc (kJ (BitVec.ofNat 128 (0xA2 + 2 ^ 64)) 64)) = (1, false)) ∧
      ((∀ opc, opc ∈ [0xA2, 0xA3] → (let s := (kettleAt 0 [opc]).putKcore 0 0 { jp := [(0, true)] }
      s.ketTakes opc 0 16384 (BitVec.ofNat 128 opc) ∧ ((s.kcore 0 0).sc (kJ (BitVec.ofNat 128 opc) 64)).2 = true))) :=
  ⟨by unfold State.ketTakes State.presents; decide +kernel,
   by unfold State.ketTakes State.presents; decide +kernel,
   by unfold State.ketTakes State.presents; decide +kernel,
   by unfold State.ketTakes State.presents; decide +kernel,
   by unfold State.ketTakes State.presents; decide +kernel⟩

/-- The hypotheses of Obligations.ScalarBranchAndTransferGroupsAreAcceptedOrRejected, part TransferGroupsAreAccepted, are met. -/
theorem witness_TransferGroupsAreAccepted :
      ((∀ opc, opc ∈ [0x98, 0x99] → (let w := opc + 2 ^ 64 + 2 * 2 ^ 90 + 64 * 2 ^ 100
      let s := kettleAt floorA [w]
      s.ketTakes opc 0 16384 (BitVec.ofNat 128 w) ∧ firstFail (s.loadChecks 0 16384 (s.kcore 0 0) (BitVec.ofNat 128 w)) = none ∧
        firstFail (s.storeChecks 0 16384 (s.kcore 0 0) (BitVec.ofNat 128 w)) = none ∧ addrPsn (s.kcore 0 0) (BitVec.ofNat 128 w) = false))) ∧
      ((∀ opc, opc ∈ [0x9A, 0x9B] → (let w := opc + 2 ^ 64 + 2 ^ 90
      let s := kettleAt floorA [w]
      s.ketTakes opc 0 16384 (BitVec.ofNat 128 w) ∧ firstFail (s.ldcChecks 0 16384 (opc = 0x9B) (s.kcore 0 0) (BitVec.ofNat 128 w)) = none ∧
        addrPsn (s.kcore 0 0) (BitVec.ofNat 128 w) = false ∧ (s.isReg 0 (kAddr (s.kcore 0 0) (BitVec.ofNat 128 w)) && ((s.kcore 0 0).sc (kJ (BitVec.ofNat 128 w) 91)).2) = false))) ∧
      ((let w := 0x9D + 2 ^ 64 + 2 ^ 90 + 64 * 2 ^ 31
      let s := (kettleAt floorA [w]).putKcore 0 0 { j := [(1, BitVec.ofNat 64 floorA)], z := (List.range 64).map (fun i => (i, 3)) }
      s.ketTakes 0x9D 0 16384 (BitVec.ofNat 128 w) ∧ firstFail (s.packChecks 0 16384 (s.kcore 0 0) (BitVec.ofNat 128 w)) = none ∧
        addrPsn (s.kcore 0 0) (BitVec.ofNat 128 w) = false)) ∧
      ((let w := 0x9E + 2 ^ 64 + 2 ^ 103
      let s := kettleAt floorA [w]
      s.ketTakes 0x9E 0 16384 (BitVec.ofNat 128 w) ∧ firstFail (s.topChecks 0 16384 (s.kcore 0 0) (BitVec.ofNat 128 w)) = none ∧
        addrPsn (s.kcore 0 0) (BitVec.ofNat 128 w) = false)) ∧
      ((let w := 0x9F + 2 ^ 64
      let s := kettleAt floorA [w]
      s.ketTakes 0x9F 0 16384 (BitVec.ofNat 128 w) ∧ firstFail (s.scChecks 0 16384 (s.kcore 0 0) (BitVec.ofNat 128 w)) = none ∧
        addrPsn (s.kcore 0 0) (BitVec.ofNat 128 w) = false ∧ ((s.kcore 0 0).sc (kJ (BitVec.ofNat 128 w) 84)).2 = false)) ∧
      ((kettleAt 0 [0x9C]).hasCtx 0 16384 = true ∧ ((kettleAt 0 [0x9C]).ctx 0 16384).ibuf.length < 2) ∧
      ((∀ k, k ∈ [0x9C, 0x9C + 2 ^ 87 + 2 ^ 64 + 100 * 2 ^ 74] → (let s := (kettleAt 0 [k, 0x50 + 0xFFF * 2 ^ 56 + 2 ^ 28 * 1 + 2 ^ 38]).write (.ctx 0) (descOff 0 1) (toBytes 128 floorA)
      let w := BitVec.ofNat 128 k
      let v := BitVec.ofNat 128 (0x50 + 0xFFF * 2 ^ 56 + 2 ^ 28 * 1 + 2 ^ 38)
      s.ketTakes 0x9C 0 16384 w ∧ (s.ctx 0 16384).ibuf = w :: v :: [] ∧ (wbit w 87 = true → ((s.kcore 0 0).sc (kJ w 64)).2 = false) ∧
        0x50 ≤ wbits (pushWord (s.kcore 0 0) w v) 0 8 ∧ wbits (pushWord (s.kcore 0 0) w v) 0 8 ≤ 0x55 ∧
        (s.rackOffer 0 16384 (pushWord (s.kcore 0 0) w v)).1 = oOK))) :=
  ⟨by unfold State.ketTakes State.presents; decide +kernel,
   by unfold State.ketTakes State.presents; decide +kernel,
   by unfold State.ketTakes State.presents; decide +kernel,
   by unfold State.ketTakes State.presents; decide +kernel,
   by unfold State.ketTakes State.presents; decide +kernel,
   by decide +kernel,
   by unfold State.ketTakes State.presents; decide +kernel⟩

/-- The hypotheses of Obligations.ScalarBranchAndTransferGroupsAreAcceptedOrRejected, part KettleGroupsWaitOrAreRejected, are met. -/
theorem witness_KettleGroupsWaitOrAreRejected :
      ((let s := (kettleAt 0 [0x80]).putKcore 0 0 { pend := [{ zw := [(0, 0, false)] }] }
      s.hasCtx 0 16384 = true ∧ s.front 0 16384 = some 0x80 ∧ ctxEng 16384 = 1 ∧ (s.kcore 0 0).hazard (kForm 0x80) = true)) ∧
      ((let s := presenting ((kettleAt 0 [0x80]).putKcore 0 0 { last := 1 }) 16385 [0x80]
      s.front 0 16384 = some 0x80 ∧ s.coreBusy 0 16384 = true)) ∧
      ((let s := (kettleAt 0 [0x98]).putKcore 0 0 { pend := [{}] }
      s.front 0 16384 = some 0x98 ∧ (kForm 0x98).xfer = true ∧ (s.kcore 0 0).pend ≠ [])) ∧
      ((let s := kettleAt 0 [0x80 + 2 ^ 127]
      s.front 0 16384 = some (BitVec.ofNat 128 (0x80 + 2 ^ 127)) ∧ s.coreBusy 0 16384 = false ∧
        wordRsvd (BitVec.ofNat 128 (0x80 + 2 ^ 127)) (kForm (BitVec.ofNat 128 (0x80 + 2 ^ 127))).used = true)) ∧
      ((let w := BitVec.ofNat 128 (0x90 + 5 * 2 ^ 64)
      (kettleAt 0 [0x90 + 5 * 2 ^ 64]).front 0 16384 = some w ∧ wordRsvd w (kForm w).used = false ∧ (kForm w).mode = true)) ∧
      ((let w := BitVec.ofNat 128 (0x98 + 65 * 2 ^ 100)
      (kettleAt 0 [0x98 + 65 * 2 ^ 100]).front 0 16384 = some w ∧ wordRsvd w (kForm w).used = false ∧ (kForm w).mode = false ∧ (kForm w).count = true)) ∧
      ((let w := 0x98 + 2 ^ 64 + 2 * 2 ^ 90 + 64 * 2 ^ 100
      let s := (kettleAt floorA [w]).putKcore 0 0 { j := [(1, BitVec.ofNat 64 floorA)], jp := [(1, true)] }
      s.ketTakes 0x98 0 16384 (BitVec.ofNat 128 w) ∧ addrPsn (s.kcore 0 0) (BitVec.ofNat 128 w) = true)) ∧
      ((let w := 0x98 + 2 ^ 64 + 2 * 2 ^ 90 + 64 * 2 ^ 100
      let s := kettleAt (floorA + 1) [w]
      s.ketTakes 0x98 0 16384 (BitVec.ofNat 128 w) ∧ addrPsn (s.kcore 0 0) (BitVec.ofNat 128 w) = false ∧
        firstFail (s.loadChecks 0 16384 (s.kcore 0 0) (BitVec.ofNat 128 w)) = some 8)) :=
  ⟨by decide +kernel,
   by decide +kernel,
   by decide +kernel,
   by decide +kernel,
   by decide +kernel,
   by decide +kernel,
   by unfold State.ketTakes State.presents; decide +kernel,
   by unfold State.ketTakes State.presents; decide +kernel⟩

/-- The hypotheses of Obligations.OldestKettleGroupCompletesIntoItsLanes, part OldestKettleGroupCompletes, are met. -/
theorem witness_OldestKettleGroupCompletes :
      ((let s := s0.putKcore 7 3 { pend := [{ word := 0x80 }] }
      s.hasDie 7 = true ∧ 3 < 4 ∧ dueFirst (s.kcore 7 3).pend = some ({ word := 0x80 }, []) ∧ (s.ketDone 7 3 { word := 0x80 }).1.psn = none ∧
        wbits (0x80 : InstrWord) 0 8 < 0x98)) ∧
      ((let p : KPend := { word := BitVec.ofNat 128 (0x9E + 2 ^ 103), xfer := true, addr := floorA }
      let s := (rig.putKcore 0 0 { pend := [p], j := [(0, BitVec.ofNat 64 floorA)] }).setMark (.floor 0 0) 64 .poison
      s.hasDie 0 = true ∧ dueFirst (s.kcore 0 0).pend = some (p, []) ∧ (s.ketDone 0 0 p).1.psn ≠ none)) ∧
      ((let p : KPend := { word := 0x87, due := 13 }
      let q : KPend := { word := 0x80, due := 6 }
      dueFirst [p, q, q] = some (q, [p, q]))) :=
  ⟨by decide +kernel,
   by decide +kernel,
   by decide +kernel⟩

/-- The hypotheses of Obligations.OldestKettleGroupCompletesIntoItsLanes, part LaneResultsReachTheDestination, are met. -/
theorem witness_LaneResultsReachTheDestination :
      mrising ({} : KCore).z = true ∧ mrising ({} : KCore).zp = true ∧ 63 < 64 ∧ (1 : Nat) ≠ kD (BitVec.ofNat 128 0x80) := by decide +kernel

/-- The hypotheses of Obligations.LaneArithmeticSaturatesAndKeepsNaN are met. -/
theorem witness_LaneArithmeticSaturatesAndKeepsNaN :
      (isNan32 0x7FC00000 = true ∧ isNan32 0x7F800001 = true) ∧
      (isNan32 0 = false ∧ isNan32 0x80000000 = false ∧ isNan32 0x7F800000 = false ∧ isNan32 0xFF800000 = false) :=
  ⟨by decide +kernel,
   by decide +kernel⟩

/-- The rig with counter i of partition 0 of die 0 at the 8-byte word v. -/
def counterAt (s : State) (i v : Nat) : State := s.write (.ctx 0) (ctrOff 0 i) (toBytes 8 v)

/-- The hypotheses of Obligations.SynchronisationInstructionsTakeEffect are met. -/
theorem witness_SynchronisationInstructionsTakeEffect :
      ((∀ c, c ∈ [1023, 16384, 20480, 24576] → (presenting rig c [0x60]).canon = true ∧ (presenting rig c [0x60]).syncTakes 0x60 0 c 0x60 ∧
      pREM 0x60 = false ∧ firstFail (postChecks 0x60) = none)) ∧
      ((∀ c, c ∈ [0, 20480] → (let w := BitVec.ofNat 128 (0x60 + 2 ^ 20)
      let s := presenting rig c [0x60 + 2 ^ 20]
      s.syncTakes 0x60 0 c w ∧ pREM w = true ∧ (c = 20480 → ctxEng c = 2) ∧ (c = 0 → ctxEng c ≠ 2 ∧ (s.rackOffer 0 c w).1 = oOK)))) ∧
      ((∀ c, c ∈ [0, 16384] → (presenting rig c [0x64]).syncTakes 0x64 0 c 0x64 ∧ wbits 0x64 24 104 = 0)) ∧
      ((∀ o, o ∈ [0, 1] → ∀ k, k ∈ [0x62, 0x65] → (let s := rig.putCtx 0 0 { state := cREADY, ibuf := [BitVec.ofNat 128 k], outst := o }
      s.canon = true ∧ s.syncTakes k 0 0 (BitVec.ofNat 128 k) ∧ wbits (BitVec.ofNat 128 k) 20 108 = 0 ∧ (s.ctx 0 0).outst = o))) ∧
      ((let w := BitVec.ofNat 128 (0x61 + 4094 * 2 ^ 8 + 5 * 2 ^ 20)
      let s := (presenting rig 0 [0x61 + 4094 * 2 ^ 8 + 5 * 2 ^ 20]).setMark (.ctx 0) (ctrOff 0 4094) .poison
      s.canon = true ∧ s.syncTakes 0x61 0 0 w ∧ wbits w 76 52 = 0 ∧ wCTR w ≠ 0xFFF ∧ (s.ctx 0 0).part = 0 ∧
        (s.readCheck (.ctx 0) (ctrOff 0 (wCTR w)) 8).poisoned (.ctx 0) (ctrOff 0 (wCTR w)) 8 = true)) :=
  ⟨by unfold State.syncTakes State.presents; decide +kernel,
   by unfold State.syncTakes State.presents; decide +kernel,
   by unfold State.syncTakes State.presents; decide +kernel,
   by unfold State.syncTakes State.presents; decide +kernel,
   by unfold State.syncTakes State.presents; decide +kernel⟩

/-- The hypotheses of Obligations.WaitCompletesOrHoldsItsContext are met. -/
theorem witness_WaitCompletesOrHoldsItsContext :
      ((∀ n, n ∈ [4, 5] → (let w := BitVec.ofNat 128 (0x61 + 4094 * 2 ^ 8 + 5 * 2 ^ 20)
      let s := presenting (counterAt rig 4094 n) 0 [0x61 + 4094 * 2 ^ 8 + 5 * 2 ^ 20]
      let u := s.readCheck (.ctx 0) (ctrOff (s.ctx 0 0).part (wCTR w)) 8
      s.canon = true ∧ s.syncTakes 0x61 0 0 w ∧ wbits w 76 52 = 0 ∧ wCTR w ≠ 0xFFF ∧ wTHR w = 5 ∧
        u.poisoned (.ctx 0) (ctrOff (s.ctx 0 0).part (wCTR w)) 8 = false ∧ u.ctrCount 0 (s.ctx 0 0).part (wCTR w) = n))) ∧
      ((∀ n, n ∈ [4, 5] → (let s := (counterAt rig 4094 n).putCtx 0 0 { state := cWAIT, wctr := 4094, wthr := 5 }
      let u := s.readCheck (.ctx 0) (ctrOff (s.ctx 0 0).part (s.ctx 0 0).wctr) 8
      s.canon = true ∧ s.hasCtx 0 0 = true ∧ (s.ctx 0 0).state = cWAIT ∧ (s.ctx 0 0).wthr = 5 ∧
        u.poisoned (.ctx 0) (ctrOff (s.ctx 0 0).part (s.ctx 0 0).wctr) 8 = false ∧ u.ctrCount 0 (s.ctx 0 0).part (s.ctx 0 0).wctr = n))) ∧
      (s0.hasCtx 7 25599 = true ∧ (s0.ctx 7 25599).state ≠ cWAIT) :=
  ⟨by unfold State.syncTakes State.presents; decide +kernel,
   by decide +kernel,
   by decide +kernel⟩

/-- The hypotheses of Obligations.SpawnStartsAThreadAndHeldContextsAreReleased, part SpawnStartsAThreadInAFreeContext, are met. -/
theorem witness_SpawnStartsAThreadInAFreeContext :
      ((∀ st, st ∈ [cFREE, cREADY] → (let w := BitVec.ofNat 128 (0x63 + 2 ^ 23)
      let s := (presenting rig 1 [0x63 + 2 ^ 23]).putCtx 0 (sTarget w) (if st = cFREE then {} else { state := st })
      s.canon = true ∧ s.syncTakes 0x63 0 1 w ∧ firstFail (s.spawnChecks 0 1 w) = none ∧ sPRED w = false ∧ (s.ctx 0 (sTarget w)).state = st))) ∧
      ((let w := BitVec.ofNat 128 (0x63 + 2 ^ 23 + 2 ^ 80 + (0x354000 / 16) * 2 ^ 82)
      let s := presenting rig 1 [0x63 + 2 ^ 23 + 2 ^ 80 + (0x354000 / 16) * 2 ^ 82]
      let u := s.readCheck (.ctx 0) (sPADDR w) 16
      s.syncTakes 0x63 0 1 w ∧ firstFail (s.spawnChecks 0 1 w) = none ∧ sPRED w = true ∧ u.poisoned (.ctx 0) (sPADDR w) 16 = false ∧
        decide (bits (u.peekN (.ctx 0) (sPADDR w) 16) (sPLO w) (sPWID w + 1) ≠ 0) = sNEG w)) ∧
      ((let w := BitVec.ofNat 128 (0x63 + 2 ^ 23 + 2 ^ 80 + 2 ^ 81 + (0x354000 / 16) * 2 ^ 82)
      let s := presenting rig 1 [0x63 + 2 ^ 23 + 2 ^ 80 + 2 ^ 81 + (0x354000 / 16) * 2 ^ 82]
      let u := s.readCheck (.ctx 0) (sPADDR w) 16
      s.syncTakes 0x63 0 1 w ∧ firstFail (s.spawnChecks 0 1 w) = none ∧ sPRED w = true ∧ u.poisoned (.ctx 0) (sPADDR w) 16 = false ∧
        decide (bits (u.peekN (.ctx 0) (sPADDR w) 16) (sPLO w) (sPWID w + 1) ≠ 0) ≠ sNEG w ∧ (u.ctx 0 (sTarget w)).state = cFREE)) ∧
      ((let w := BitVec.ofNat 128 (0x63 + 2 ^ 23 + 2 ^ 80 + (0x354000 / 16) * 2 ^ 82)
      let s := (presenting rig 1 [0x63 + 2 ^ 23 + 2 ^ 80 + (0x354000 / 16) * 2 ^ 82]).setMark (.ctx 0) 0x354000 .poison
      s.syncTakes 0x63 0 1 w ∧ firstFail (s.spawnChecks 0 1 w) = none ∧ sPRED w = true ∧
        (s.readCheck (.ctx 0) (sPADDR w) 16).poisoned (.ctx 0) (sPADDR w) 16 = true)) :=
  ⟨by unfold State.syncTakes State.presents; decide +kernel,
   by unfold State.syncTakes State.presents; decide +kernel,
   by unfold State.syncTakes State.presents; decide +kernel,
   by unfold State.syncTakes State.presents; decide +kernel⟩

/-- The hypotheses of Obligations.SpawnStartsAThreadAndHeldContextsAreReleased, part HeldContextsAreReleased, are met. -/
theorem witness_HeldContextsAreReleased :
      (∀ o, o ∈ [0, 1] → (let s := rig.putCtx 0 25599 { state := cFENCE, outst := o, ibuf := [0x62] }
      s.hasCtx 0 25599 = true ∧ (s.ctx 0 25599).state = cFENCE ∧ (s.ctx 0 25599).outst = o ∧ (s.ctx 0 25599).ibuf = 0x62 :: [])) := by decide +kernel

/-- The hypotheses of Obligations.PostsAddToTheirCounter are met. -/
theorem witness_PostsAddToTheirCounter :
      (rig.canon = true ∧ 7 < 8 ∧ 4094 < 0xFFF ∧ 65535 < 2 ^ 56 ∧ bits (rig.peekN (.ctx 0) (ctrOff 7 4094) 8) 0 56 + 65535 < 2 ^ 56) ∧
      (∀ o, rig.mark (.ctx 0) o = .clean) :=
  ⟨by decide +kernel,
   fun _ => rfl⟩

/-- The hypotheses of Obligations.CounterOverflowSticksAndIsReported are met. -/
theorem witness_CounterOverflowSticksAndIsReported :
      ((let s := counterAt rig 4094 (2 ^ 56 - 1)
    s.canon = true ∧ 0 < 8 ∧ 4094 < 0xFFF ∧ 1 < 2 ^ 56 ∧ 2 ^ 56 - 1 < bits (s.peekN (.ctx 0) (ctrOff 0 4094) 8) 0 56 + 1)) ∧
      (∀ o, (counterAt rig 4094 (2 ^ 56 - 1)).mark (.ctx 0) o = .clean) :=
  ⟨by decide +kernel,
   fun o => by rw [State.mark, show (counterAt rig 4094 (2 ^ 56 - 1)).marks = [] by decide +kernel]; rfl⟩

/-- The hypotheses of Obligations.FetchImagesAndTheWatchdog, part FetchAndContextImages, are met. -/
theorem witness_FetchAndContextImages :
      ((let s := rig.putCtx 0 0 { state := cREADY }
      s.hasCtx 0 0 = true ∧ (s.ctx 0 0).state = cREADY ∧ (s.ctx 0 0).ibuf.length < 16 ∧ (s.ctx 0 0).pc + 16 * (s.ctx 0 0).ibuf.length < s.clim 0 0 ∧
        (s.readCheck (.cellar 0) (s.rf 0 (oThrJob 0) thrJobCbase) 16).poisoned (.cellar 0) (s.rf 0 (oThrJob 0) thrJobCbase) 16 = false)) ∧
      ((let s := rig.putCtx 0 0 { state := cREADY, ibuf := List.replicate 1020 0 }
      (s.ctx 0 0).state = cREADY ∧ s.bufUsed 0 0 + 4 ≤ bufWords 0)) ∧
      ((let s := rig.putCtx 0 0 { state := cREADY, pc := rig.clim 0 0 }
      (s.ctx 0 0).state = cREADY ∧ (s.ctx 0 0).ibuf = [] ∧ s.clim 0 (s.ctx 0 0).tag ≤ (s.ctx 0 0).pc)) ∧
      ((∀ st, st ∈ [cWAIT, cHOLD, cFENCE, cSTOPPED] → (rig.putCtx 0 25599 { state := st }).hasCtx 0 25599 = true ∧
      ((rig.putCtx 0 25599 { state := st }).ctx 0 25599).state = st)) :=
  ⟨by decide +kernel,
   by decide +kernel,
   by decide +kernel,
   by decide +kernel⟩

/-- The hypotheses of Obligations.FetchImagesAndTheWatchdog, part WatchdogRecordsAndReportsTheHold, are met. -/
theorem witness_WatchdogRecordsAndReportsTheHold :
      ((∀ st, st ∈ [cWAIT, cHOLD, cFENCE] → (let s := rig.putCtx 0 25599 { state := st }
      s.canon = true ∧ s.hasDie 0 = true ∧ 25599 < 25600 ∧ (s.inoc 0).point ≠ 0x50 ∧ (s.ctx 0 25599).state = st ∧ (s.ctx 0 25599).tag < 256 ∧
        s.rf 0 (oThrWdog 0) thrWdogTmo = 10000 ∧ s.jobPart 0 0 = 0 ∧ s.rf 0 (oThrWdog 0) thrWdogFired = 0))) ∧
      ((let s := s0.putVat 0 15 { inq := [{}] }
      (s.vat 0 15).inq = {} :: [] ∧ (s.vat 0 15).mashQ = [] ∧ (s.vat 0 15).entryFree = true) ∧ s0.rf 0 (oThrWdog 7) thrWdogTmo ≠ 0) ∧
      ((∀ st, st ∈ [1, 2, 3] → (rig.poke (.ctx 0) (ledOff 255 + 5) [BitVec.ofNat 8 st]).ledState 0 255 = st)) ∧
      (((s0.putRackq 0 255 { trkWait := 1 }).rackq 0 255).trkWait = 1) ∧
      ((s0.putRackq 0 255 { outs := [{ src := [{ wait := 2 }], tag := 7 }] }).remoteWait 0 255 = some (7, []) ∧
    (s0.putTslot 0 7 63 { acks := [(1, 2)], tag := 9 }).remoteWait 0 768 = some (9, [(0, 0)])) :=
  ⟨by decide +kernel,
   by decide +kernel,
   by decide +kernel,
   by decide +kernel,
   by decide +kernel⟩

/-- A descriptor of 4-byte elements at byte o of floor 0, by extents and strides. -/
def descOf (o : Nat) (dims : List (Nat × Nat)) : Nat :=
  gaddr (.floor 0 0) o + 2 * 2 ^ 64 + dims.length * 2 ^ 68 +
    sumBy (fun (t : (Nat × Nat) × Nat) => (t.1.1 + t.1.2 * 2 ^ 64) * 2 ^ (256 + 128 * t.2)) dims.zipIdx

/-- The listed cells of bytes from o of a region. -/
def bytesAt (r : Region) (o : Nat) (bs : List Byte) : List Host.Cell :=
  (bs.zipIdx.filter (fun t => t.1 ≠ 0)).map (fun t => (r.loc (o + t.2), t.1))

/-- The rig with descriptors 2 to 9 of partition 0, a cask, ledger 0 DONE, and counter 5. -/
def rackRig : State :=
  let ds := [(2, descOf 0x1000 [(4, 0), (2, 16)]), (3, descOf 0x2000 [(2, 0)]), (4, descOf 0x3000 [(4, 0), (2, 16)]),
    (5, descOf 0x4000 [(2, 0), (4, 8)]), (6, descOf 0x5000 [(1, 0), (2, 4)]), (8, descOf 0x6000 [(1, 0), (2, 4)]),
    (9, descOf 0x7000 [(4, 0), (2, 16), (2, 32)])]
  let s := rig.wfs 0 (oRkCask 0 0) [(rkCaskCbase, gaddr (.cellar 0) 0), (rkCaskClim, 8192)]
  { s with mem := ((Region.ctx 0).loc (ledOff 0 + 5), 4) :: ds.flatMap (fun t => bytesAt (.ctx 0) (descOff 0 t.1) (toBytes 72 t.2)) }

/-- A word of each racking instruction, its form and its opcode. -/
def rackWords : List Nat :=
  [0x50 + 2 * 2 ^ 28 + 4 * 2 ^ 38 + 0xFFF * 2 ^ 56, 0x51 + 2 * 2 ^ 28 + 5 * 2 ^ 38 + 0xFFF * 2 ^ 56,
   0x52 + 2 * 2 ^ 28 + 3 * 2 ^ 38 + 4 * 2 ^ 48, 0x53 + 2 * 2 ^ 28 + 3 * 2 ^ 38 + 4 * 2 ^ 48,
   0x53 + 2 * 2 ^ 28 + 3 * 2 ^ 38 + 4 * 2 ^ 48 + 2 ^ 59, 0x53 + 2 * 2 ^ 28 + 6 * 2 ^ 38 + 3 * 2 ^ 48 + 2 * 2 ^ 59 + 8 * 2 ^ 103,
   0x53 + 2 * 2 ^ 28 + 9 * 2 ^ 48 + 3 * 2 ^ 59 + 6 * 2 ^ 83, 0x54 + 2 * 2 ^ 28, 0x55 + 2 * 2 ^ 28]

/-- The hypotheses of Obligations.RackingInstructionsAreOffered are met. -/
theorem witness_RackingInstructionsAreOffered :
      ((∀ n, n ∈ rackWords → (let s := presenting rackRig 20480 [n]
      s.presents 0 20480 (BitVec.ofNat 128 n) ∧ ctxEng 20480 = 2 ∧ (s.rackOffer 0 20480 (BitVec.ofNat 128 n)).1 = oOK))) ∧
      ((let s := (presenting rackRig 20480 [0x50 + 2 * 2 ^ 28 + 4 * 2 ^ 38 + 0xFFF * 2 ^ 56]).putRackq 0 0 { ins := [{}] }
      (s.rackOffer 0 20480 (BitVec.ofNat 128 (0x50 + 2 * 2 ^ 28 + 4 * 2 ^ 38 + 0xFFF * 2 ^ 56))).1 = oFULL)) ∧
      (((presenting rackRig 20480 [0x50]).rackOffer 0 20480 0x50).1 = 1 ∧ 1 ≠ oOK ∧ 1 ≠ oFULL ∧ 1 ≠ oPOISON) :=
  ⟨by unfold State.presents; decide +kernel,
   by decide +kernel,
   by decide +kernel⟩

/-- The hypotheses of Obligations.RackQueuesTakeAndIssueInOrder, part RackQueueTakesInstructionsInOrder, are met. -/
theorem witness_RackQueueTakesInstructionsInOrder :
      ((∀ n, n ∈ [0, 1, 2, 3] → (let w := BitVec.ofNat 128 (0x52 + 2 * 2 ^ 28 + 3 * 2 ^ 38 + 4 * 2 ^ 48)
      let u := presenting rackRig 20480 []
      let s := if n = 0 then u else if n = 1 then u.wf 0 (oRkQcfg 0) rkQcfgEn 0 else if n = 2 then u.wf 0 (oRkQcfg 0) rkQcfgPart 7
        else u.putRackq 0 0 { ins := List.replicate 4 {} }
      let l := s.loadDescs 0 0 (descIdx w)
      let i : RInstr := { word := w, opc := 0x52, c := 20480, seq := s.rackSeq, descs := l.1 }
      s.canon = true ∧ wbits w 0 8 = 0x52 ∧ queueOf w = 0 ∧ (s.ctx 0 20480).part = 0 ∧ l.2.1 = false ∧
        (match l.2.2.makeR 0 0 0 i with
          | .ok _ prot => ! prot
          | _ => false) = true ∧
        (n = 1 → s.rf 0 (oRkQcfg 0) rkQcfgEn = 0) ∧ (n = 2 → s.rf 0 (oRkQcfg 0) rkQcfgPart ≠ 0) ∧
        (n = 0 ∨ n = 3 → s.rf 0 (oRkQcfg 0) rkQcfgEn ≠ 0 ∧ s.rf 0 (oRkQcfg 0) rkQcfgPart = 0) ∧
        (n = 0 → (s.rackq 0 0).ins.length ≤ s.rf 0 (oRkQcfg 0) rkQcfgQdepth) ∧
        (n = 3 → s.rf 0 (oRkQcfg 0) rkQcfgQdepth < (s.rackq 0 0).ins.length)))) ∧
      ((let s := rackRig.setMark (.ctx 0) (descOff 0 2) .poison
      (s.loadDescs 0 0 (descIdx (BitVec.ofNat 128 (0x52 + 2 * 2 ^ 28 + 3 * 2 ^ 38 + 4 * 2 ^ 48)))).2.1 = true)) ∧
      ((let s := rackRig.setMark (.ctx 0) (ledOff 0) .poison
      let w := BitVec.ofNat 128 (0x53 + 2 * 2 ^ 28 + 9 * 2 ^ 48 + 3 * 2 ^ 59 + 6 * 2 ^ 83)
      let l := s.loadDescs 0 0 (descIdx w)
      wbits w 0 8 = 0x53 ∧ rkFORM w = 3 ∧ l.2.1 = false ∧ (l.2.2.ledPoison 0 (smLEDGER w) 0).1 ≠ none)) ∧
      ((match rackRig.makeR 7 0 0 { word := 0x50, opc := 0x50 } with
          | .rej _ => true
          | _ => false) = true ∧ (rackRig.rackOffer 7 20480 (BitVec.ofNat 128 0x50)).1 ≠ oOK) :=
  ⟨by decide +kernel,
   by decide +kernel,
   by decide +kernel,
   by decide +kernel⟩

/-- The hypotheses of Obligations.RackQueuesTakeAndIssueInOrder, part RackQueueIssuesItsHeadsRequests, are met. -/
theorem witness_RackQueueIssuesItsHeadsRequests :
      ((let x : Desc := parseDesc 2 (descOf 0x1000 [(4, 0), (2, 16)])
      let y : Desc := parseDesc 4 (descOf 0x3000 [(4, 0), (2, 16)])
      let i : RInstr := { word := BitVec.ofNat 128 (0x50 + 2 * 2 ^ 28 + 4 * 2 ^ 38 + 0xFFF * 2 ^ 56), opc := 0x50, descs := [x, y] }
      let s := rackRig.putRackq 0 255 { ins := [i] }
      s.rackTurn 0 255 = true ∧ s.hasDie 0 = true ∧ 255 < 257 ∧ s.tunNext 0 255 = none ∧ (s.rackq 0 255).ins.find? (fun i => ! i.full) = some i ∧
        ¬ (s.rkAborting 0 i.tag = true ∧ 255 ≠ 256) ∧ (s.rackq 0 255).trkWait ≠ 1 ∧ (match s.nextReq 0 255 i with
          | .req _ _ => true
          | _ => false) = true ∧ ¬ rkMODE i.word = 1)) ∧
      ((let x : Desc := parseDesc 2 (descOf 0x1000 [(4, 0), (2, 16)])
      let y : Desc := parseDesc 4 (descOf 0x3000 [(4, 0), (2, 16)])
      let i : RInstr := { word := BitVec.ofNat 128 (0x50 + 2 * 2 ^ 28 + 4 * 2 ^ 38 + 2 ^ 50 + 2 * 2 ^ 80 + 2 ^ 96), opc := 0x50, descs := [x, y] }
      let s := rackRig.putRackq 0 0 { ins := [i] }
      (match s.nextReq 0 0 i with
          | .req q _ => (i.opc = 0x50 || i.opc = 0x51) && rkMODE i.word = 1 && decide (i.gates ≤ q.tile)
          | _ => false) = true)) ∧
      ((let i : RInstr := { opc := 0x50, cur := 1 }
      (match rackRig.nextReq 0 0 i with
          | .fin => true
          | _ => false) = true)) ∧
      ((let x := parseDesc 2 (descOf 0x1000 [(4, 0)])
      let i : RInstr := { opc := 0x50, cur := 2, descs := [x, { x with dims := [{ ext := 4, shard := 1 }] }] }
      (match (rackRig.wfs 0 (oTunAxis 0 0) [(tunAxisEn, 1), (tunAxisP, 4)]).nextReq 0 0 i with
          | .stop _ => true
          | _ => false) = true)) ∧
      ((let s : State := { rackRig.putRackq 0 0 { ins := [{ opc := 0x50, cur := 1 }] } with lostDies := 1 }
      s.hasDie 0 = true ∧ bit s.lostDies 0 = true)) ∧
      ((let i : RInstr := { word := BitVec.ofNat 128 (0x53 + 3 * 2 ^ 59), opc := 0x53 }
      let s := (rackRig.putRackq 0 0 { ins := [i] }).setMark (.ctx 0) (ledOff 0) .poison
      s.rackTurn 0 0 = true ∧ (s.rackq 0 0).trkWait ≠ 1 ∧ bit s.lostDies 0 = false ∧ s.tunNext 0 0 = none ∧
        (s.rackq 0 0).ins.find? (fun i => ! i.full) = some i ∧ i.opc = 0x53 ∧ rkFORM i.word = 3 ∧ s.rkAborting 0 i.tag = false ∧
        (s.ledPoison 0 (smLEDGER i.word) (4096 + 8 * (s.ledS 0 (smLEDGER i.word) * s.ledQ 0 (smLEDGER i.word)))).1 ≠ none)) ∧
      ((let i : RInstr := { opc := 0x55, ph := 1 }
      let s := rackRig.putRackq 0 0 { ins := [i] }
      (s.rackq 0 0).ins.find? (fun i => ! i.full) = some i ∧ (match s.nextReq 0 0 i with
          | .wait => true
          | _ => false) = true)) ∧
      ((let i : RInstr := { opc := 0x50, tag := 255 }
      let s : State := { rackRig.putRackq 0 0 { ins := [i] } with abortRk := mset (fun _ => false) rackRig.abortRk 255 true }
      s.tunNext 0 0 = none ∧ (s.rackq 0 0).ins.find? (fun i => ! i.full) = some i ∧ s.rkAborting 0 i.tag = true ∧ 0 ≠ 256)) ∧
      ((rackRig.rackTurn 0 0 = true ∧ rackRig.tunNext 0 0 = none ∧ (rackRig.rackq 0 0).ins.find? (fun i => ! i.full) = none)) ∧
      ((let s := rackRig.putRackq 0 256 { trkWait := 1 }
      s.hasDie 0 = true ∧ 256 < 257 ∧ (s.rackTurn 0 256 = false ∨ (s.rackq 0 256).trkWait = 1))) ∧
      ((let x : Desc := parseDesc 2 (descOf 0x1000 [(4, 0), (2, 16)])
      let i : RInstr := { word := BitVec.ofNat 128 (0x50 + 2 * 2 ^ 28 + 4 * 2 ^ 38 + 0xFFF * 2 ^ 56), opc := 0x50, descs := [x, parseDesc 4 (descOf 0x3000 [(4, 0), (2, 16)])] }
      let s := (rackRig.putRackq 0 0 { ins := [i] }).putRackq 0 255 { ins := [i] }
      s.rackTurn 0 255 = false)) ∧
      ((let q : Req := { what := 8, dst := [{ addr := gaddr (.floor 0 0) 0, n := 4, alen := 4 }], src := [{ n := 4, wait := 3, data := [1, 2, 3, 4], pz := [false, false, false, false] }] }
      let s := rackRig.putRackq 0 0 { tins := [{}], twr := [q] }
      s.rackTurn 0 0 = true ∧ (match s.tunNext 0 0 with
        | some (r, _) => decide (r = q) && ! s.rkAborting 0 r.tag
        | none => false) = true)) :=
  ⟨by decide +kernel,
   by decide +kernel,
   by decide +kernel,
   by decide +kernel,
   by decide +kernel,
   by decide +kernel,
   by decide +kernel,
   by decide +kernel,
   by decide +kernel,
   by decide +kernel,
   by decide +kernel,
   by decide +kernel⟩

/-- The hypotheses of Obligations.RackingRequestsAndHostReadsComplete, part RackingRequestsAndInstructionsComplete, are met. -/
theorem witness_RackingRequestsAndInstructionsComplete :
      ((let q : Req := { what := 0, dst := [{ kind := 2, sent := 2 }], src := [{ n := 4, wait := 3, data := [1, 2, 3, 4], pz := [false, false, false, false] }] }
      let s := rackRig.putRackq 0 256 { outs := [q] }
      s.unitDead 0 256 q = false ∧ s.hasDie 0 = true ∧ 256 < 257 ∧ (s.rackq 0 256).outs[0]? = some q ∧ q.ready = true ∧ (∀ y, y ∈ q.dst → y.kind = 2 → y.sent = 2) ∧
        (q.what = 2 → q.summed = true) ∧ olderMeets (s.rackq 0 256).outs q = false)) ∧
      ((let q : Req := { src := [{ n := 4, wait := 1 }] }
      (((rackRig.putRackq 0 0 { outs := [q] }).rackq 0 0).outs[0]? = some q) ∧ ¬ q.ready = true)) ∧
      ((let i : RInstr := { opc := 0x50, full := true }
      let s := rackRig.putRackq 0 255 { ins := [i] }
      let u := rackRig.putRackq 0 256 { ins := [i] }
      (s.rackq 0 255).ins[0]? = some i ∧ (u.rackq 0 256).ins[0]? = some i ∧ i.full = true ∧ i.stopped = false ∧ (∀ q, q ∈ (s.rackq 0 255).outs → q.seq ≠ i.seq) ∧ (∀ q, q ∈ (u.rackq 0 256).outs → q.seq ≠ i.seq) ∧
        i.tiles ≤ i.posted ∧ s.rkAborting 0 i.tag = false)) ∧
      ((∀ n, n ∈ [1, 2] → (let q : Req := { id := n, pos := 1, src := [{ n := 1, wait := 1 }] }
      let s := rackRig.putRackq 0 0 { outs := [q] }
      (s.rackq 0 0).outs[0]? = some q ∧ q.pos ≠ 0 ∧ q.turned = false ∧
        ((s.pushHeld 0 0 q.seq).rackq 0 0).outs.find? (fun r => r.id = q.id) = some q))) ∧
      ((let q : Req := { id := 1, pos := 1, turned := true }
      let s := rackRig.putRackq 0 0 { outs := [q] }
      (s.rackq 0 0).outs[0]? = some q ∧ q.turned = true ∧ (rackRig.rackq 0 0).outs[0]? = none)) ∧
      (rackRig.cplTimeout ≤ 50000 ∧ 49999 < rackRig.cplTimeout) ∧
      ((∀ w, w ∈ [1, 3] → (let q : Req := { what := 2, unit := 1, src := [{ n := 1, wait := w, data := [1], pz := [false] }] }
      let s := rackRig.putRackq 0 0 { outs := [q] }
      (s.rackq 0 0).outs[0]? = some q ∧ s.unitDead 0 0 q = true ∧ q.ready = decide (w = 3)))) ∧
      ((let i : RInstr := { opc := 0x50 }
      ((rackRig.putRackq 0 0 { ins := [i] }).rackq 0 0).ins[0]? = some i ∧ ¬ (i.full = true))) :=
  ⟨by decide +kernel,
   by decide +kernel,
   by decide +kernel,
   by decide +kernel,
   by decide +kernel,
   by decide +kernel,
   by decide +kernel,
   by decide +kernel⟩

/-- The hypotheses of Obligations.RackingRequestsAndHostReadsComplete, part HostReadsEndWithBytesOrPoison, are met. -/
theorem witness_HostReadsEndWithBytesOrPoison :
      (let p : Piece := { n := 4, wait := 1 }
      let q : Req := { src := [p] }
      let s := rackRig.putRackq 0 0 { outs := [q] }
      s.canon = true ∧ (s.rackq 0 0).outs = [q] ∧ q.src = [p] ∧ p.wait = 1 ∧ q.what = 0 ∧ (∀ y, y ∈ q.dst → y.kind ≠ 2) ∧ s.hostOk q.part = true) := by decide +kernel

/-- The hypotheses of Obligations.StreamsRegulatorsAndAborts, part StreamsAndTrackerEntries, are met. -/
theorem witness_StreamsAndTrackerEntries :
      ((∀ m, m ∈ [1, 2] → (let i : RInstr := { word := BitVec.ofNat 128 (0x50 + m * 2 ^ 50 + 2 ^ 80 + 2 ^ 96), opc := 0x50, full := true, gates := 1 }
      let s := rackRig.putRackq 0 255 { ins := [i] }
      s.hasDie 0 = true ∧ 255 < 256 ∧ (s.rackq 0 255).ins.find? (fun i => decide (i.posted < i.tiles) && ! i.stopped && ! s.rkAborting 0 i.tag &&
      (decide (rkMODE i.word ≠ 1) || decide (i.posted < i.gates)) && s.tileDone 0 255 i i.posted) = some i))) ∧
      ((let s := rackRig
      (s.rackq 0 255).ins.find? (fun i => decide (i.posted < i.tiles) && ! i.stopped && ! s.rkAborting 0 i.tag &&
      (decide (rkMODE i.word ≠ 1) || decide (i.posted < i.gates)) && s.tileDone 0 255 i i.posted) = none)) ∧
      ((∀ k, k ∈ [3, 4] → (let i : RInstr := { word := BitVec.ofNat 128 (0x51 + 2 ^ 50 + 2 ^ 80 + 9 * 2 ^ 96), opc := 0x51, gates := k }
      let s := rackRig.putRackq 0 0 { ins := [i] }
      (s.rackq 0 0).ins.find? (fun i => (i.opc = 0x50 || i.opc = 0x51) && rkMODE i.word = 1 && ! i.stopped && decide (i.gates < i.tiles)) = some i ∧
        (s.readCheck (.ctx 0) (ctrOff i.part (wbits i.word 68 12)) 8).poisoned (.ctx 0) (ctrOff i.part (wbits i.word 68 12)) 8 = false ∧
        (k = 3 → i.gates + 1 ≤ rkDEPTH i.word + (s.ctrCount 0 i.part (wbits i.word 68 12) - i.c0)) ∧
        (k = 4 → rkDEPTH i.word + (s.ctrCount 0 i.part (wbits i.word 68 12) - i.c0) < i.gates + 1)))) ∧
      ((let i : RInstr := { word := BitVec.ofNat 128 (0x51 + 2 ^ 50 + 5 * 2 ^ 68 + 2 ^ 80 + 9 * 2 ^ 96), opc := 0x51, gates := 3 }
      let s := (rackRig.putRackq 0 0 { ins := [i] }).setMark (.ctx 0) (ctrOff 0 5 / 64 * 64) .poison
      let k := wbits i.word 68 12
      (s.rackq 0 0).ins.find? (fun i => (i.opc = 0x50 || i.opc = 0x51) && rkMODE i.word = 1 && ! i.stopped && decide (i.gates < i.tiles)) = some i ∧
        (s.readCheck (.ctx 0) (ctrOff i.part k) 8).poisoned (.ctx 0) (ctrOff i.part k) 8 = true)) ∧
      ((∀ q, q ∈ [0, 1] → (let s := (rackRig.putRackq 0 0 { trkWait := 1 }).wf 0 (oRkTrkq 0) rkTrkqQuota q
      (s.rackq 0 0).trkWait = 1 ∧ (q = 1 → s.trkUsed 0 (s.rackq 0 0).trkPart < s.rf 0 (oRkTrkq (s.rackq 0 0).trkPart) rkTrkqQuota) ∧
        (q = 0 → s.rf 0 (oRkTrkq (s.rackq 0 0).trkPart) rkTrkqQuota ≤ s.trkUsed 0 (s.rackq 0 0).trkPart)))) :=
  ⟨by decide +kernel,
   by decide +kernel,
   by decide +kernel,
   by decide +kernel,
   by decide +kernel⟩

/-- The hypotheses of Obligations.StreamsRegulatorsAndAborts, part RegulatorRefillsEveryQueue, are met. -/
theorem witness_RegulatorRefillsEveryQueue :
      (let s := rackRig.wf 0 (oRkQcfg 0) rkQcfgRate 64
      s.canon = true ∧ s.hasDie 0 = true ∧ s.rf 0 (oRkQcfg 0) rkQcfgRate ≠ 0 ∧ s.rf 0 (oRkQcfg 255) rkQcfgRate = 0) := by decide +kernel

/-- The hypotheses of Obligations.StreamsRegulatorsAndAborts, part RackingAbortStopsTheTagsInstructions, are met. -/
theorem witness_RackingAbortStopsTheTagsInstructions :
      (rackRig.canon = true ∧ rackRig.hasDie 0 = true ∧ 255 < 256 ∧ rackRig.rkAborting 0 255 = false) ∧
      ((let i : RInstr := { tag := 255, seq := 1 }
      let s := rackRig.putRackq 0 255 { ins := [i, { tag := 255 }], outs := [{ tag := 255, seq := 1 }], trkWait := 1, trkTag := 255 }
      s.canon = true ∧ (s.rackq 0 255).ins = [i, { tag := 255 }] ∧ (s.rackq 0 255).outs.any (fun q => q.seq = i.seq) = true)) ∧
      ((∀ l, l < 256 → bits (rackRig.led 0 l) 48 8 ≠ 255 ∨ rackRig.ledState 0 l = 0 ∨ rackRig.ledState 0 l = 7)) ∧
      ((let s := rackRig.poke (.ctx 0) (ledOff 255 + 5) [1, 255]
      s.canon = true ∧ bits (s.led 0 255) 48 8 = 255 ∧ s.ledState 0 255 = 1)) ∧
      ((∀ o, rackRig.mark (.ctx 0) o = .clean)) ∧
      ((let s : State := { rackRig with abortRk := mset (fun _ => false) rackRig.abortRk 255 true }
      s.canon = true ∧ s.rkAborting 0 255 = true ∧ s.tagTracked 0 255 = false)) ∧
      ((let s := (rackRig.putRackq 0 0 { outs := [{ tag := 255, trk := true }] })
      s.tagTracked 0 255 = true)) :=
  ⟨by decide +kernel,
   by decide +kernel,
   by decide +kernel,
   by decide +kernel,
   fun _ => rfl,
   by decide +kernel,
   by decide +kernel⟩

/-- The hypotheses of Obligations.AccumulationAndLedgers, part KettleCoreSumsTheOldestUnit, are met. -/
theorem witness_KettleCoreSumsTheOldestUnit :
      ((∀ ps, ps ∈ [[], [({} : KPend)]] → (let q : Req := { id := 1, what := 2, unit := 7, ulast := true }
      let s : State := { (rackRig.putRackq 0 255 { ins := [{}], outs := [q] }).putKcore 0 3 { pend := ps } with accq := [(3, [(255, 7)])] }
      s.hasDie 0 = true ∧ 3 < 4 ∧ s.accOf 0 3 = (255, 7) :: [] ∧ s.accReady 0 3 = true ∧
        ((s.rackq 0 255).unitOuts 7).find? (fun r => r.ulast) = some q ∧ (s.rackq 0 255).getIns q.seq = some {} ∧
        ((s.rackq 0 255).unitOuts 7).all Req.ready = true ∧ (s.kcore 0 3).pend = ps))) ∧
      ((let s : State := { rackRig.putRackq 0 0 { ins := [{}], outs := [{ what := 2, unit := 7 }] } with accq := [(3, [(0, 7)])] }
      s.accOf 0 3 = (0, 7) :: [] ∧ s.accReady 0 3 = false)) :=
  ⟨by decide +kernel,
   by decide +kernel⟩

/-- The hypotheses of Obligations.AccumulationAndLedgers, part LedgersArmCommitAndClose, are met. -/
theorem witness_LedgersArmCommitAndClose :
      ((∀ st, st ∈ [0, 1] → (let s : State := { rig.poke (.ctx 0) (ledOff 255 + 5) [BitVec.ofNat 8 st] with ledNew := [(255, true)] }
      s.hasDie 0 = true ∧ 255 < 256 ∧ mget (fun _ => false) s.ledNew (0 * 256 + 255) = true ∧ (s.ledPoison 0 255 0).1 = none ∧
        (s.ledPoison 0 255 0).2.ledState 0 255 = st))) ∧
      ((∀ n, n ∈ [0, 4096] → (let s : State := { rig.setMark (.ctx 0) (ledOff 255) .poison with ledNew := [(255, true)] }
      mget (fun _ => false) s.ledNew (0 * 256 + 255) = true ∧ (s.ledPoison 0 255 n).1 = some (gaddr (.ctx 0) (ledOff 255))))) ∧
      (mget (fun _ => false) rig.ledNew 255 = false) ∧
      ((let s := (rig.poke (.ctx 0) (ledOff 0 + 5) [2]).poke (.ctx 0) (ledOff 0 + 24) (toBytes 8 (gaddr (.floor 0 0) 0))
      let v := (s.ledPoison 0 0 4096).2
      (s.ledPoison 0 0 4096).1 = none ∧ v.ledState 0 0 = 2 ∧ (List.range (v.ledS 0 0)).all (fun k =>
       decide (v.ledFarr 0 0 k = v.ledF 0 0 k) && decide (v.ledShld 0 0 k = (v.ledKeeps 0 0).getD k 0)) = true)) ∧
      (rig.ledState 0 0 ≠ 2 ∧ rig.ledState 0 0 ≠ 3) ∧
      ((∀ n, n ∈ [0, 1] → (let s := (rig.poke (.ctx 0) (ledOff 0 + 5) [3]).ledSet 0 0 [(lBAD, 24, n)]
      let v := (s.ledPoison 0 0 4096).2
      s.ledState 0 0 = 3 ∧ (s.ledPoison 0 0 4096).1 = none ∧ s.emptySlots 0 0 = [] ∧ s.ledF24 0 0 lBAD = n ∧
        (commitCopy 0 0 v ((v.emptySlots 0 0).zip (v.keptTokens 0 0))).ledF24 0 0 lBAD = n))) ∧
      (((rig.poke (.ctx 0) (ledOff 0 + 5) [3]).setMark (.ctx 0) (ledOff 0) .poison).ledState 0 0 = 3 ∧
    (((rig.poke (.ctx 0) (ledOff 0 + 5) [3]).setMark (.ctx 0) (ledOff 0) .poison).ledPoison 0 0 4096).1 ≠ none) ∧
      ((∀ r o, (rig.poke (.ctx 0) (ledOff 0 + 5) [3]).mark r o = .clean)) :=
  ⟨by decide +kernel,
   by decide +kernel,
   by decide +kernel,
   by decide +kernel,
   by decide +kernel,
   by decide +kernel,
   by decide +kernel,
   fun _ _ => rfl⟩

/-- The hypotheses of Obligations.AccumulationAndLedgers, part LedgerFaultReleasesItsEntries, are met. -/
theorem witness_LedgerFaultReleasesItsEntries :
      (rig.canon = true ∧ 255 < 256) ∧
      (∀ o, rig.mark (.ctx 0) o = .clean) :=
  ⟨by decide +kernel,
   fun _ => rfl⟩

/-- Port 2 of die 0 in the given states, with the port's own state x. -/
def link (tx rx : Nat) (x : Port) : State := (s0.setPst 0 2 [(qlPstatTxst, tx), (qlPstatRxst, rx), (qlPstatScred, 672)]).putPort 0 2 x

/-- The hypotheses of Obligations.FlitsLeaveInOrderWithSeqAndCredit, part FlitsLeaveInTheirOrder, are met. -/
theorem witness_FlitsLeaveInTheirOrder :
      ((∀ st, st ∈ [lACTIVE, lRETRY] → (let s := link st lACTIVE { ctl := [[0]] }
      s.hasPort 0 2 = true ∧ s.txst 0 2 = st ∧ (s.port 0 2).ctl = [0] :: []))) ∧
      ((let e : Nat × Nat × Nat × List Byte := (2047, 1, 3, [1, 2, 3])
      let s := link lRETRY lACTIVE { resend := some 2047, replay := [e] }
      s.txst 0 2 = lRETRY ∧ (s.port 0 2).ctl = [] ∧ (s.port 0 2).resend = some 2047 ∧ (s.port 0 2).replay.findIdx? (fun e => e.1 = 2047) = some 0 ∧
        (s.port 0 2).replay[0]? = some e)) ∧
      ((let s := link lACTIVE lACTIVE { tx := [(14, [1])] }
      s.txst 0 2 = lACTIVE ∧ (s.port 0 2).ctl = [] ∧ (s.port 0 2).resend = none ∧ s.nextCh 0 2 = some 14)) ∧
      ((let s := link lACTIVE lACTIVE {}
      s.txst 0 2 = lACTIVE ∧ (s.port 0 2).ctl = [] ∧ (s.port 0 2).resend = none ∧ s.nextCh 0 2 = none)) ∧
      ((∀ st, st ∈ [lTRAIN, lDOWN, lRETRAIN] → (link st st {}).hasPort 0 2 = true ∧ (link st st {}).txst 0 2 = st)) ∧
      ((∀ b, b = true ∨ b = false → (link lTRAIN lTRAIN { aligned := b }).txst 0 2 = lTRAIN ∧ ((link lTRAIN lTRAIN { aligned := b }).port 0 2).aligned = b)) ∧
      ((let s := ((link lACTIVE lACTIVE { tx := [(0, [0x14])] }).setPst 0 2 [(qlPstatDupid, 1), (qlPstatFarmod, 7)])
      s.pst 0 2 qlPstatDupid ≠ 0 ∧ s.nextCh 0 2 = some 0)) :=
  ⟨by decide +kernel,
   by decide +kernel,
   by decide +kernel,
   by decide +kernel,
   by decide +kernel,
   by rintro b (rfl | rfl) <;> decide +kernel,
   by decide +kernel⟩

/-- The hypotheses of Obligations.FlitsLeaveInOrderWithSeqAndCredit, part FlitsAreFramedIntoCodewords, are met. -/
theorem witness_FlitsAreFramedIntoCodewords :
      (2 ≤ 2 ∧ (([] : List Byte) ++ List.replicate 639 0).length < 640 ∧ 640 ≤ (List.replicate 384 (0 : Byte) ++ List.replicate 256 0).length) ∧
      (lanesOf 0xC0 2 = some [6, 7] ∧ lanesOf 0xFF 0 = some [0, 1, 2, 3, 4, 5, 6, 7] ∧ lanesOf 0xFE 1 = some [4, 5, 6, 7] ∧
    2 < laneCount 1 + 0 ∧ laneCount 2 * 271 + 1 < 544) :=
  ⟨by decide +kernel,
   by decide +kernel⟩

/-- The hypotheses of Obligations.FlitsLeaveInOrderWithSeqAndCredit, part NewFlitTakesSeqAndCredit, are met. -/
theorem witness_NewFlitTakesSeqAndCredit :
      ((let s := (link lACTIVE lACTIVE { tx := [(14, [1])], seq := 2047 }).wf 0 (oQlVcstat 2 14) qlVcstatDcred 0
      s.canon = true ∧ s.hasPort 0 2 = true ∧ 14 < 15 ∧ (s.inoc 0).point ≠ 0x40 ∧ mrising (s.port 0 2).tx = true ∧
        s.rf 0 (oQlVcstat 2 14) qlVcstatDcred = 0)) ∧
      ((let s := (link lACTIVE lACTIVE { tx := [(1, [1])] }).wf 0 (oQlVcstat 2 1) qlVcstatDcred 1
      s.canon = true ∧ mrising (s.port 0 2).tx = true ∧ 0 < s.rf 0 (oQlVcstat 2 1) qlVcstatDcred)) :=
  ⟨by decide +kernel,
   by decide +kernel⟩

/-- The hypotheses of Obligations.FlitsAreAcceptedOnceAndRetried, part FlitsAreAcceptedInOrder, are met. -/
theorem witness_FlitsAreAcceptedInOrder :
      ((let fl := mkFlit 1 2047 0 0 0 [1]
      let s := link lACTIVE lACTIVE { rxSeq := 2047 }
      s.canon = true ∧ s.hasPort 0 2 = true ∧ s.rxLive 0 2 = true ∧ s.rxst 0 2 = lACTIVE ∧ (s.lineCheck 0 2 fl 15).1 = false ∧ flVc fl ≠ 15 ∧
        flSeq fl = ((s.lineCheck 0 2 fl 15).2.port 0 2).rxSeq ∧ (s.port 0 2).rxPos = 0)) ∧
      ((∀ q, q ∈ [1024, 0] → (let fl := mkFlit 1 (2047 - q) 0 0 0 [1]
      let s := link lACTIVE lACTIVE { rxSeq := 0, rxPos := 4 }
      s.rxLive 0 2 = true ∧ (s.lineCheck 0 2 fl 0).1 = false ∧ flVc fl ≠ 15 ∧ flSeq fl ≠ ((s.lineCheck 0 2 fl 0).2.port 0 2).rxSeq ∧
        (q = 0 → (((s.lineCheck 0 2 fl 0).2.port 0 2).rxSeq + 2047 - flSeq fl) % 2048 < 1024) ∧
        (q = 1024 → 1024 ≤ (((s.lineCheck 0 2 fl 0).2.port 0 2).rxSeq + 2047 - flSeq fl) % 2048)))) ∧
      ((let s := link lACTIVE lRETRY {}
      s.rxLive 0 2 = true ∧ s.rxst 0 2 = lRETRY ∧ (s.lineCheck 0 2 (mkFlit 1 0 0 0 0 [1]) 16).1 = true)) ∧
      ((let fl := mkFlit 15 0 0 0 0 [0]
      flVc fl = 15 ∧ ((link lACTIVE lACTIVE {}).lineCheck 0 2 fl 0).1 = false ∧ (link lDOWN lDOWN {}).rxLive 0 2 = false)) :=
  ⟨by decide +kernel,
   by decide +kernel,
   by decide +kernel,
   by decide +kernel⟩

/-- The hypotheses of Obligations.FlitsAreAcceptedOnceAndRetried, part ControlFlitsAct, are met. -/
theorem witness_ControlFlitsAct :
      ((∀ k, k ∈ [0, 1, 2, 3] → (let fl := mkFlit 15 0 0 0 0 [BitVec.ofNat 8 k]
      let s := link lACTIVE lACTIVE {}
      s.hasPort 0 2 = true ∧ flOk fl = true ∧ flVc fl = 15 ∧ ((flPayload fl).headD 0).toNat = k ∧ (s.lineCheck 0 2 fl 0).1 = false ∧
        s.rxLive 0 2 = true))) ∧
      ((let fl := mkFlit 15 0 0 0 0 [2]
      let s := link lTRAIN lTRAIN {}
      flOk fl = true ∧ flVc fl = 15 ∧ ((flPayload fl).headD 0).toNat = 2 ∧ (s.lineCheck 0 2 fl 0).1 = false ∧ s.rxLive 0 2 = false ∧
        s.rxst 0 2 = lTRAIN)) ∧
      (flOk ([] : List Byte) = false) ∧
      ((let s := link lACTIVE lACTIVE { replay := [(2047, 1, 3, [1, 2, 3])] }
      s.canon = true ∧ s.txst 0 2 = lACTIVE ∧ (∃ e, e ∈ (s.port 0 2).replay ∧ e.1 = 2047))) :=
  ⟨by decide +kernel,
   by decide +kernel,
   by decide +kernel,
   ⟨by decide +kernel, by decide +kernel, (2047, 1, 3, [1, 2, 3]), by decide +kernel, rfl⟩⟩

/-- The hypotheses of Obligations.FlitsAreAcceptedOnceAndRetried, part RetryRepeatsItsNakAndEndsInRetrain, are met. -/
theorem witness_RetryRepeatsItsNakAndEndsInRetrain :
      ((∀ n, n ∈ [2, 3] → (let s := link lACTIVE lRETRY { naks := n }
      s.canon = true ∧ s.hasPort 0 2 = true ∧ s.rxst 0 2 = lRETRY ∧ s.txst 0 2 = lACTIVE ∧ 1 ≤ 1 ∧ (n = 2 → (s.port 0 2).naks < 3) ∧ (n = 3 → 3 ≤ (s.port 0 2).naks)))) ∧
      ((let s := link lRETRY lACTIVE { naksTx := 3 }
      s.txst 0 2 = lRETRY ∧ s.rxst 0 2 ≠ lRETRY ∧ 3 ≤ (s.port 0 2).naksTx)) ∧
      ((let s := link lRETRY lRETRY {}
      s.txst 0 2 = lRETRY ∧ s.rxst 0 2 = lRETRY ∧ 4 ≤ 4)) :=
  ⟨by decide +kernel,
   by decide +kernel,
   by decide +kernel⟩

/-- The hypotheses of Obligations.PortsTrainRetrainAndLeaveService, part LanesRetrain, are met. -/
theorem witness_LanesRetrain :
      ((∀ tx, tx ∈ [true, false] → (let s := link lACTIVE lACTIVE { goodTx := 0xFF, goodRx := 0xFF }
      s.canon = true ∧ s.hasPort 0 2 = true ∧ s.rxst 0 2 = lACTIVE ∧ s.txst 0 2 = lACTIVE ∧ 7 ∈ s.activeLanes 0 2 tx ∧ 7 < 8 ∧ 800 < 801 ∧
        (s.port 0 2).c14 = [] ∧ inService (s.txst 0 2) = true ∧ s.txst 0 2 ≠ lRETRAIN))) ∧
      ((∀ tx, tx ∈ [true, false] → (let s := (link lRETRAIN lRETRAIN { goodTx := 0xFF, goodRx := 0xFF }).wf 0 (oQlPctl 2) qlPctlMinw 0
      s.canon = true ∧ (if tx then s.txst 0 2 else s.rxst 0 2) = lRETRAIN ∧ 500 ≤ 500 ∧
        widthFrom ((if tx then (s.port 0 2).goodTx else (s.port 0 2).goodRx) &&& 0xF0) (s.pst 0 2 (if tx then qlPstatTxw else qlPstatRxw)) = some 1 ∧
        ¬ laneCount 1 < minLanes (s.rf 0 (oQlPctl 2) qlPctlMinw) ∧ (if tx then (s.port 0 2).failsTx else (s.port 0 2).failsRx) = 0))) ∧
      ((let s := (link lRETRAIN lRETRAIN { failsRx := 1, failsTx := 1, goodRx := 0x03 }).wf 0 (oQlPctl 2) qlPctlMinw 2
      s.canon = true ∧ s.rxst 0 2 = lRETRAIN ∧ widthFrom ((s.port 0 2).goodRx &&& 0xFF) (s.pst 0 2 qlPstatRxw) = some 2 ∧
        laneCount 2 < minLanes (s.rf 0 (oQlPctl 2) qlPctlMinw) ∧ widthFrom ((s.port 0 2).goodTx &&& 0xFF) (s.pst 0 2 qlPstatTxw) = none ∧
        1 ≤ (s.port 0 2).failsRx ∧ 1 ≤ (s.port 0 2).failsTx ∧ 500 < 501)) :=
  ⟨by decide +kernel,
   by decide +kernel,
   by decide +kernel⟩

/-- The hypotheses of Obligations.PortsTrainRetrainAndLeaveService, part PortsTrainAndGoDown, are met. -/
theorem witness_PortsTrainAndGoDown :
      ((let s := (link lDOWN lDOWN {}).wf 0 (oQlPctl 2) qlPctlTrain 1
      s.canon = true ∧ s.hasPort 0 2 = true ∧ s.txst 0 2 = lDOWN ∧ s.rf 0 (oQlPctl 2) qlPctlTrain = 1 ∧ 100000 ≤ 100000 ∧ (s.port 0 2).cable = false)) ∧
      ((∀ b, b = true ∨ b = false → (let s := (link lTRAIN lTRAIN { ident := b }).wf 0 (oQlPctl 2) qlPctlMinw 0
      let m := minLanes (s.rf 0 (oQlPctl 2) qlPctlMinw)
      s.canon = true ∧ s.txst 0 2 = lTRAIN ∧ s.rxst 0 2 = lTRAIN ∧ (s.port 0 2).svc = false ∧ (s.port 0 2).aligned = false ∧
        widthFrom 0x0C 0 = some 2 ∧ widthFrom 0xFF 0 = some 0 ∧ m ≤ laneCount 2 ∧ m ≤ laneCount 0 ∧
        ((s.align 0 2 0x0C 0xFF).port 0 2).aligned = true ∧ ((s.align 0 2 0x0C 0xFF).port 0 2).ident = b))) ∧
      ((let s := (link lTRAIN lTRAIN { ident := true }).wf 0 (oQlPctl 2) qlPctlMinw 2
      widthFrom 0 0 = none ∧ laneCount 2 < minLanes (s.rf 0 (oQlPctl 2) qlPctlMinw) ∧ ((s.align 0 2 0x0C 0xFF).port 0 2).aligned = false ∧
        ((link lTRAIN lTRAIN { aligned := true }).port 0 2).aligned = true ∧ (link lDOWN lDOWN {}).txst 0 2 ≠ lTRAIN)) :=
  ⟨by decide +kernel,
   by rintro b (rfl | rfl) <;> decide +kernel,
   by decide +kernel⟩

/-- The hypotheses of Obligations.PortsTrainRetrainAndLeaveService, part LostPortsEndTheirJobs, are met. -/
theorem witness_LostPortsEndTheirJobs :
      ((let s := link lDOWN lDOWN { svc := true }
      s.hasPort 0 2 = true ∧ (s.port 0 2).svc = true ∧ inService (s.txst 0 2) = false)) ∧
      ((let s := link lACTIVE lACTIVE { svc := true }
      inService (s.txst 0 2) = true ∧ inService (s.rxst 0 2) = true)) ∧
      ((let s := (link lACTIVE lACTIVE { hbWait := [1, 2, 3] }).wfs 0 oHbCtl [(hbCtlHbmiss, 3), (hbCtlHbper, 1)]
      s.rf 0 oHbCtl hbCtlHbmiss ≠ 0 ∧ s.rf 0 oHbCtl hbCtlHbper ≠ 0 ∧ s.rf 0 oHbCtl hbCtlHbmiss ≤ (s.port 0 2).hbWait.length ∧ 1500 ≤ 1500)) :=
  ⟨by decide +kernel,
   by decide +kernel,
   by decide +kernel⟩

/-- Channel ch of port 2 of die 0 of module 7 holds the bytes and the delivered message of x. -/
def received (ch : Nat) (x : RxCh) : State := ({ rig with modNum := 7 } : State).putRxch 0 2 ch x

/-- Channel ch of port 2 of die 0 holds the delivered message m. -/
def delivered (ch : Nat) (m : Msg) : State := received ch { msg := some m }

/-- 24 bytes of a message: type t to die 0 of module 7, 8 bytes long, and the bits x of its header. -/
def msgBytes (t x : Nat) : List Byte := toBytes 16 (t + 7 * 2 ^ 8 + 8 * 2 ^ 64 + x) ++ toBytes 24 0

/-- The hypotheses of Obligations.MessagesAreRoutedByTheFirstTestTheyFail, part MessagesAreRoutedOrDiscarded, are met. -/
theorem witness_MessagesAreRoutedOrDiscarded :
      ((∀ e, e ∈ [0, 1] → (let r : RxCh := { bytes := msgBytes 5 (e * 2 ^ 55) }
      let s := received 1 r
      let h := ofBytes (r.bytes.take 16)
      let raw := 16 + bits h 64 17 + (if bit h 55 then 16 else 0)
      s.hasPort 0 2 = true ∧ 1 < 15 ∧ (s.rxch 0 2 1).msg = none ∧ (r.bytes.headD 0) ≠ 0 ∧ 16 ≤ r.bytes.length ∧
        raw + (8 - raw % 8) % 8 ≤ r.bytes.length ∧ bit h 55 = decide (e = 1) ∧ s.groupKey 0 2 (groupOf 1) = none))) ∧
      ((∀ e, e ∈ [0, 1] → (let s := (received 14 { bytes := msgBytes 0x11 (e * 2 ^ 55) }).wf 0 (oQlCgrp 2 0) qlCgrpEn 1
      s.groupKey 0 2 (groupOf 14) = some 0 ∧ bit (ofBytes ((s.rxch 0 2 14).bytes.take 16)) 55 = decide (e = 1)))) :=
  ⟨by decide +kernel,
   by decide +kernel⟩

/-- The hypotheses of Obligations.MessagesAreRoutedByTheFirstTestTheyFail, part RoutingTestsInOrder, are met. -/
theorem witness_RoutingTestsInOrder :
      ((∀ t, t ∈ [5, 0x10] → (let s := received 1 {}
      s.canon = true ∧ mrising (s.port 0 2).rx = true ∧ (t = 0x10 → typeOnCh t 1 = false) ∧ (t = 5 → typeOnCh t 1 = true ∧ bodyLen t = some 8)))) ∧
      (s0.modNum = 0xFFFF ∧ typeOnCh 5 1 = true ∧ bodyLen 6 = none) ∧
      ((let s := received 1 {}
      s.modNum = 7 ∧ (6 : Nat) ≠ s.modNum ∧ s.nDies ≤ 8 ∧ 7 < s.nDies ∧ 5 ≤ 0xA ∧ s.jobEn 7 255 = false ∧ s.jobEn 0 0 = true)) ∧
      ((∀ p, p ∈ [0, 1] → (let s : State := { received 1 {} with grants := [{ kind := 0xC, first := 33, count := 1, part := p }] }
      s.jobEn 0 0 = true ∧ s.jobPart 0 0 = 0 ∧ s.chanHeld 0 (3 * 0 + 2) 1 (s.jobPart 0 0) = decide (p = 1)))) :=
  ⟨by decide +kernel,
   by decide +kernel,
   by decide +kernel,
   by decide +kernel⟩

/-- The hypotheses of Obligations.DeliveredMessagesAct, part RemoteMemoryMessagesAct, are met. -/
theorem witness_RemoteMemoryMessagesAct :
      ((let m : Msg := { typ := mWREQ, dmod := 7, body := toBytes 8 floorA, data := [1, 2, 3, 4] }
      let s := delivered 1 m
      let t := s.consume 0 2 1
      s.hasPort 0 2 = true ∧ 1 < 15 ∧ s.crosses 0 1 m = true ∧ (s.rxch 0 2 1).msg = some m ∧ t.rkAborting 0 0 = false ∧ t.remoteReach m 4 = .ok [(.floor 0 0, 64, 4)])) ∧
      ((let m : Msg := { typ := mWREQ, dmod := 7, body := toBytes 8 (gaddr (.ctx 0) 0) }
      ((delivered 1 m).consume 0 2 1).remoteReach m 0 = .err 6)) ∧
      ((∀ n, n ∈ [0, 512, 513] → (let m : Msg := { typ := mRREQ, dmod := 7, body := toBytes 16 (floorA + n * 2 ^ 64) }
      let s := delivered 13 m
      (s.rxch 0 2 13).msg = some m ∧ ofBytes ((m.body.drop 8).take 4) = n ∧
        (n = 512 → (s.consume 0 2 13).remoteReach m n = .ok [(.floor 0 0, 64, 512)])))) ∧
      ((∀ st, st ∈ [0, 6] → (let p : Piece := { n := 4, wait := 2, rid := 9 }
      let q : Req := { src := [p] }
      let m : Msg := { typ := mRDATA, rid := 9, stat := st, data := [1, 2, 3, 4] }
      let s := (delivered 1 m).putRackq 0 256 { outs := [q] }
      (s.rxch 0 2 1).msg = some m ∧ m.stat = st ∧ (s.consume 0 2 1).reqOf m.ddie m.rid = some (256, q) ∧ q.src = [p] ∧ p.wait = 2 ∧ p.rid = m.rid ∧
        m.data.length = p.n))) ∧
      ((let q : Req := { dst := [{ kind := 2, sent := 1, rid := 9 }] }
      let m : Msg := { typ := mWACK, rid := 9 }
      let s := (delivered 1 m).putRackq 0 0 { outs := [q] }
      (s.rxch 0 2 1).msg = some m ∧ m.stat = 0 ∧ (s.consume 0 2 1).reqOf m.ddie m.rid = some (0, q))) ∧
      ((let m : Msg := { typ := mWACK, rid := 9 }
      ((delivered 1 m).rxch 0 2 1).msg = some m ∧ ((delivered 1 m).consume 0 2 1).reqOf m.ddie m.rid = none)) ∧
      ((let m : Msg := { typ := mWREQ, dmod := 7, tag := 255 }
      ({ delivered 1 m with abortRk := [(255, true)] } : State).rkAborting 0 255 = true ∧ (delivered 13 m).crosses 0 13 m = true)) :=
  ⟨by decide +kernel,
   by decide +kernel,
   by decide +kernel,
   by decide +kernel,
   by decide +kernel,
   by decide +kernel,
   by decide +kernel⟩

/-- The hypotheses of Obligations.DeliveredMessagesAct, part RemoteArrivalsLand, are met. -/
theorem witness_RemoteArrivalsLand :
      ((∀ t, t ∈ [mPOST, mDISP, mNOTICE, mCHUNK] → (let m : Msg := { typ := t, dmod := 7 }
      let s := delivered 13 m
      s.crosses 0 13 m = true ∧ s.hasPort 0 2 = true ∧ 13 < 15 ∧ (s.rxch 0 2 13).msg = some m ∧ m.typ = t ∧ s.rkAborting 0 0 = false ∧ (s.consume 0 2 13).rkAborting 0 0 = false))) ∧
      ((let m : Msg := { typ := mDISP, dmod := 7 }
      let s : State := { delivered 13 m with abortRk := [(0, true)] }
      (s.rxch 0 2 13).msg = some m ∧ s.rkAborting m.ddie m.tag = true)) ∧
      ((match (delivered 13 { typ := mCHUNK }).landChunk 0 { typ := mCHUNK } with
      | .hold => true
      | _ => false) = true) ∧
      ((match (delivered 13 { typ := mDISP }).landDisp 0 0 0 [] [] with
      | .done _ => true
      | _ => false) = true) ∧
      ((let m : Msg := { typ := mDISP, dmod := 7, ddie := 7 }
      (s0.bridgePath 0 7) ≠ [] ∧ ((delivered 13 m).rxch 0 2 13).msg = some m ∧ (delivered 13 m).crosses 0 13 m = false)) :=
  ⟨by decide +kernel,
   by decide +kernel,
   by decide +kernel,
   by decide +kernel,
   by decide +kernel⟩

/-- The hypotheses of Obligations.DeliveredMessagesAct, part HeartbeatsAndNoticesAct, are met. -/
theorem witness_HeartbeatsAndNoticesAct :
      ((∀ t, t ∈ [mHB, mHBR, mPNOT] → (let m : Msg := { typ := t }
      let s := delivered 14 m
      s.hasPort 0 2 = true ∧ 14 < 15 ∧ (s.rxch 0 2 14).msg = some m ∧ m.typ = t ∧ ¬ (((s.consume 0 2 14).inoc 0).point = 0x51 ∧ ((s.consume 0 2 14).inoc 0).inst = 2)))) ∧
      ((let s : State := inocAt (delivered 14 { typ := mHB }) 0 0x51 2
      (s.rxch 0 2 14).msg = some { typ := mHB } ∧ ((s.consume 0 2 14).inoc 0).point = 0x51 ∧ ((s.consume 0 2 14).inoc 0).inst = 2)) ∧
      ((∀ b, b ∈ [1, 2, 3, 2 ^ 16, 4] → (let m : Msg := { typ := mMGMT, body := toBytes 8 b, data := [1] }
      let s := delivered 0 m
      let c := ofBytes m.body
      let bad := bits c 16 48 ≠ 0 ∨ bits c 0 16 = 0 ∨ 3 < bits c 0 16 ∨ 4096 < m.data.length ∨ (bits c 0 16 = 1 ∧ m.data.length ≠ 10)
      (s.rxch 0 2 0).msg = some m ∧ (b = 2 ∨ b = 3 → ¬ bad ∧ bits c 0 16 = b) ∧ (b = 1 ∨ 4 ≤ b → bad)))) ∧
      ((∀ b, b ∈ [lACTIVE, lDOWN] → (let m : Msg := { typ := mMGMT, body := toBytes 8 2, data := [1] }
      let s := (delivered 0 m).setPst 0 2 [(qlPstatTxst, b), (qlPstatRxst, b), (qlPstatFarmod, 0)]
      (s.rxch 0 2 0).msg = some m ∧ (match (s.consume 0 2 0).sendMsg 0 0 0 { typ := mMGMT, body := toBytes 8 3, data := [1] } with
        | .ok _ => decide (b = lACTIVE)
        | .error _ => decide (b ≠ lACTIVE)) = true))) ∧
      ((let m : Msg := { typ := mMGMT, body := toBytes 8 1, data := List.replicate 10 0 }
      ((delivered 0 m).rxch 0 2 0).msg = some m ∧ m.data.length ≤ 4096 ∧ bits (ofBytes m.body) 0 16 = 1 ∧ bits (ofBytes m.body) 16 48 = 0)) ∧
      ((∀ q, q ∈ [0, 1] → (let s := (s0.wf 0 oHbCtl hbCtlHbper q)
      s.modNum = 0xFFFF ∧ s.rf 0 oHbCtl hbCtlHbper = q))) ∧
      ((let s : State := [1, 2].foldl (fun s j => s.setPst 0 j [(qlPstatTxst, lACTIVE)]) ({ s0.wf 0 oHbCtl hbCtlHbper 1 with modNum := 0 })
      s.canon = true ∧ s.hasPort 0 2 = true ∧ s.rf 0 oHbCtl hbCtlHbper ≠ 0 ∧ s.modNum ≠ 0xFFFF ∧ s.txst 0 2 = lACTIVE ∧ s.txst 0 0 ≠ lACTIVE)) ∧
      ((∀ p, p ∈ [0, 0x52] → (let s : State := { (if p = 0 then s0 else inocAt s0 7 p 0) with inocLeft := [(7, 1)] }
      s.canon = true ∧ 7 < s.nDies ∧ (s.inoc 7).point = p ∧ s.rf 7 oInocStat inocStatFired < 65535 ∧ mget n0 s.inocLeft 7 = 1))) :=
  ⟨by decide +kernel,
   by decide +kernel,
   by decide +kernel,
   by decide +kernel,
   by decide +kernel,
   by decide +kernel,
   by decide +kernel,
   by decide +kernel⟩

/-- The record of a collective of eight I32 elements, one POUR, one buffer, of the given output format. -/
def collRec (ofmt : Nat) : Nat :=
  (setFs (0 : RegWord) [(tunCollIfmt, 1), (tunCollOfmt, ofmt), (tunCollNloc, 1), (tunCollNelem, 8), (tunCollNbuf, 1)]).toNat

/-- Slot 1 of partition 0 is set up for a collective that is written, slot 2 for one that is retained; axis 0 of tag 0 has n members. -/
def tunRig (n : Nat) : State :=
  ((rackRig.setReg 0 (oTunColl 0 1) (BitVec.ofNat _ (collRec 1))).setReg 0 (oTunColl 0 2) (BitVec.ofNat _ (collRec 2))).wfs 0 (oTunAxis 0 0)
    [(tunAxisEn, 1), (tunAxisP, n)]

/-- A slot armed with the record of output format ofmt. -/
def armed (ofmt : Nat) : TSlot := { state := 1, rec_ := collRec ofmt, cur := 1 }

/-- The words of POUR and COLLECT. -/
abbrev pourN : Nat := 0x70 + 4 * 2 ^ 28 + 2 ^ 41
abbrev chainN : Nat := 0x70 + 2 ^ 41 + 2 ^ 47 + 63 * 2 ^ 48
abbrev collN (sl : Nat) : Nat := 0x71 + sl * 2 ^ 28 + (if sl = 1 then 4 * 2 ^ 34 else 0)

/-- The hypotheses of Obligations.TunInstructionsEnterTheTun are met. -/
theorem witness_TunInstructionsEnterTheTun :
      ((let s := (presenting (tunRig 1) 24576 [chainN]).putTslot 0 0 63 { state := 2, rec_ := collRec 2 }
      let w := BitVec.ofNat 128 chainN
      s.hasCtx 0 24576 = true ∧ s.front 0 24576 = some w ∧ ctxEng 24576 = 3 ∧ wbits w 0 8 = 0x70 ∧ s.tunqLen 0 < 16 ∧ poCHAIN w = true ∧
        firstFail (s.pourChecks 0 0 0 w {} (0, false)) = none)) ∧
      ((let s := presenting (tunRig 1) 24576 [chainN]
      firstFail (s.pourChecks 0 0 0 (BitVec.ofNat 128 chainN) {} (0, false)) = some 0x20)) ∧
      ((let s := presenting (tunRig 1) 24576 [pourN]
      let w := BitVec.ofNat 128 pourN
      let t := s.loadDesc 0 0 (poSDESC w)
      s.front 0 24576 = some w ∧ poCHAIN w = false ∧ t.2.1 = false ∧
        firstFail (t.2.2.pourChecks 0 0 0 w t.1 (t.2.2.descCheck 0 0 0 (t.2.2.selHere 0 0 t.1) t.1)) = none)) ∧
      ((let s := presenting (tunRig 1) 24576 [collN 2]
      let w := BitVec.ofNat 128 (collN 2)
      let a : TSlot := { state := 1, rec_ := (s.reg 0 (oTunColl 0 (coSLOT w))).toNat, word := w, c := 24576, id := s.rackSeq, step := s.rf 0 (oBarmStep 0) barmStepStep }
      s.front 0 24576 = some w ∧ wbits w 0 8 = 0x71 ∧ s.tunqLen 0 < 16 ∧ a.fx = true ∧ firstFail (s.collectChecks 0 0 0 w a {} (0, false)) = none)) ∧
      ((let s := presenting (tunRig 1) 24576 [collN 1]
      let w := BitVec.ofNat 128 (collN 1)
      let a : TSlot := { state := 1, rec_ := (s.reg 0 (oTunColl 0 (coSLOT w))).toNat, word := w, c := 24576, id := s.rackSeq, step := s.rf 0 (oBarmStep 0) barmStepStep }
      let t := s.loadDesc 0 0 (coDDESC w)
      s.front 0 24576 = some w ∧ s.tunqLen 0 < 16 ∧ a.fx = false ∧ t.2.1 = false ∧
        firstFail (t.2.2.collectChecks 0 0 0 w a t.1 (t.2.2.descCheck 0 0 0 (t.2.2.collectSel 0 a t.1) t.1)) = none)) ∧
      ((let s := presenting s0 24576 [collN 2]
      let w := BitVec.ofNat 128 (collN 2)
      let a : TSlot := { state := 1, rec_ := collRec 2, word := w, c := 24576 }
      firstFail (s.collectChecks 0 0 0 w a {} (0, false)) = some 0x24)) ∧
      ((let s : State := { presenting s0 24576 [0x71] with tunq := List.replicate 16 {} }
      s.hasCtx 0 24576 = true ∧ s.front 0 24576 = some 0x71 ∧ 16 ≤ s.tunqLen 0)) ∧
      ((let s := presenting s0 24576 [0x70]
      let u := s.loadDesc 0 0 (poSDESC 0x70)
      s.front 0 24576 = some 0x70 ∧ poCHAIN 0x70 = false ∧ u.2.1 = false ∧
        (firstFail (u.2.2.pourChecks 0 0 0 0x70 u.1 (u.2.2.descCheck 0 0 0 (u.2.2.selHere 0 0 u.1) u.1))).isSome = true)) ∧
      ((∀ n, n ∈ [pourN, collN 1] → (let s := (presenting (tunRig 1) 24576 [n]).setMark (.ctx 0) (descOff 0 4 / 32 * 32) .poison
      s.front 0 24576 = some (BitVec.ofNat 128 n) ∧ s.tunqLen 0 < 16 ∧ (s.loadDesc 0 0 4).2.1 = true ∧
        (n = pourN → poSDESC (BitVec.ofNat 128 n) = 4 ∧ poCHAIN (BitVec.ofNat 128 n) = false) ∧
        (n = collN 1 → coDDESC (BitVec.ofNat 128 n) = 4)))) :=
  ⟨by decide +kernel,
   by decide +kernel,
   by decide +kernel,
   by decide +kernel,
   by decide +kernel,
   by decide +kernel,
   by decide +kernel,
   by decide +kernel,
   by decide +kernel⟩

/-- The hypotheses of Obligations.TunInstructionsComplete are met. -/
theorem witness_TunInstructionsComplete :
      ((let r : Pour := { word := BitVec.ofNat 128 (0x70 + 63 * 2 ^ 41) }
      let s : State := { s0.putTslot 0 0 63 { state := 1, rec_ := collRec 1 } with tunq := [r] }
      s.hasDie 0 = true ∧ 0 < 8 ∧ 63 < 64 ∧ s.tunq.find? (fun q => decide (q.d = 0) && poHDIE q.word = 0) = some r ∧ r.part = 0 ∧
        poSLOT r.word = 63 ∧ (s.tslot 0 0 63).waiting = [] ∧ (s.tslot 0 0 63).state = 1 ∧
        (s.tslot 0 0 63).pours.length < (s.tslot 0 0 63).f tunCollNloc)) ∧
      ((let r : Pour := { word := BitVec.ofNat 128 (0x70 + 63 * 2 ^ 41) }
      let s : State := { s0 with tunq := [r] }
      s.canon = true ∧ s.tunq.find? (fun q => decide (q.d = 0) && poHDIE q.word = 0) = some r ∧ r.part = 0 ∧ poSLOT r.word = 63 ∧
        (s.tslot 0 0 63).state ≠ 1 ∧ s0.tunq.find? (fun q => decide (q.d = 0) && poHDIE q.word = 0) = none)) ∧
      ((let q : Pour := { word := BitVec.ofNat 128 pourN, next := 1 }
      let s := s0.putTslot 7 7 63 { armed 1 with pours := [q] }
      let x := s.tslot 7 7 63
      s.hasDie 7 = true ∧ 7 < 8 ∧ x.pours[0]? = some q ∧ (x.state = 1 ∧ q.fin = false ∧ s.pourAll 7 x q = true))) ∧
      ((let q : Pour := { fin := true }
      ((s0.putTslot 7 7 63 { armed 1 with pours := [q] }).tslot 7 7 63).pours[0]? = some q ∧ ¬ (q.fin = false))) ∧
      ((let s := (tunRig 1).putTslot 0 0 1 { armed 1 with pours := [{ fin := true }], cur := 1, low := 1, nfin := 1 }
      s.collectReady 0 (s.tslot 0 0 1) = true ∧ (s.tslot 0 0 1).fx = false)) ∧
      (s0.canon = true ∧ s0.hasDie 7 = true ∧ 255 < 256) ∧
      ((∀ g, g ∈ [0, 255] → (let r : Pour := { tag := g, word := BitVec.ofNat 128 (0x70 + 63 * 2 ^ 41) }
      let s : State := { s0 with tunq := [r], abortTun := [(255, true)] }
      s.tunq.find? (fun q => decide (q.d = 0) && poHDIE q.word = 0) = some r ∧ (g = 255 → s.tunAborting 0 r.tag = true) ∧
        (g = 0 → ¬ (s.tunAborting 0 r.tag = true ∨ s.tunAborting 0 r.tag = true))))) ∧
      ((let s : State := { s0 with abortTun := [(255, true)] }
      s.canon = true ∧ mget (fun _ => false) s.abortTun (0 * 256 + 255) = true ∧ s.tagTracked 0 255 = false)) ∧
      (s0.collectReady 0 (s0.tslot 0 0 1) = false ∧ mget (fun _ => false) s0.abortTun (0 * 256 + 255) = false) :=
  ⟨by decide +kernel,
   by decide +kernel,
   by decide +kernel,
   by decide +kernel,
   by decide +kernel,
   by decide +kernel,
   by decide +kernel,
   by decide +kernel,
   by decide +kernel⟩

/-- The hypotheses of Obligations.TunSendsAndReleasesChunks, part TunSendsItsChunks, are met. -/
theorem witness_TunSendsItsChunks :
      ((let s := (tunRig 2).putTslot 0 7 63 { armed 1 with outs := [{}] }
      let x := s.tslot 0 7 63
      s.hasDie 0 = true ∧ 7 < 8 ∧ 63 < 64 ∧ x.state = 1 ∧ x.outs = {} :: [] ∧ (s.chunkDest 0 x).all (fun m =>
        s.bridgesTake (s.rf 0 (oTunAxis x.tag (x.f tunCollAxis)) tunAxisVc) x.tag (s.chunkPath 0 x m)) = true)) ∧
      ((let s := (tunRig 2).putTslot 0 7 63 (armed 1)
      let x := s.tslot 0 7 63
      x.outs = [] ∧ s.readyChunk 0 x false = none ∧ (s.chunkDest 0 x).all (fun m =>
        s.bridgesTake (s.rf 0 (oTunAxis x.tag (x.f tunCollAxis)) tunAxisVc) x.tag (s.chunkPath 0 x m)) = true ∧ ((tunRig 2).tslot 0 7 63).state ≠ 1)) ∧
      ((∀ v, v ∈ [0, 1, 2] → (let q : Pour := { word := BitVec.ofNat 128 pourN, next := 1, fin := true }
      let s := (tunRig 2).putTslot 0 0 1 { armed 1 with pours := [q], chunks := [(0, { loc := emptyVals 0 8, fx := List.replicate 128 0, nread := 1, psn := v = 1, lg := if v = 2 then 1 else 0 })] }
      let s' := s.wf 0 (oTunAxis 0 0) tunAxisC 1
      let x := s'.tslot 0 0 1
      let t := s'.inocPartial 0 (s'.partialOf 0 x 0).1
      (s'.chunkDest 0 x).all (fun m =>
        s'.bridgesTake (s'.rf 0 (oTunAxis x.tag (x.f tunCollAxis)) tunAxisVc) x.tag (s'.chunkPath 0 x m)) = true ∧
      x.state = 1 ∧ x.outs = [] ∧ s'.readyChunk 0 x false = some 0 ∧ (x.chunk 0).psn = decide (v = 1) ∧ (s'.inoc 0).point ≠ 0x30 ∧
        (v = 0 → t.2.2.slotGauge 0 x 0 (fun _ => true) t.1 = (s'.partialOf 0 x 0).2) ∧
        (v = 2 → t.2.2.slotGauge 0 x 0 (fun _ => true) t.1 ≠ (s'.partialOf 0 x 0).2)))) ∧
      ((let q : Pour := { word := BitVec.ofNat 128 pourN, next := 1, fin := true }
      let s := (tunRig 2).putTslot 0 0 1 { armed 1 with pours := [q], chunks := [(0, { loc := emptyVals 0 8, fx := List.replicate 128 0, nread := 1 })] }
      let s' := (s.wf 0 (oTunAxis 0 0) tunAxisC 1).wf 0 (oTunAxis 0 0) tunAxisVc 2
      let x := s'.tslot 0 0 1
      x.state = 1 ∧ s'.readyChunk 0 x false = some 0 ∧ s'.bridgesTake 2 0 [(0, 3)] = false)) :=
  ⟨by decide +kernel,
   by decide +kernel,
   by decide +kernel,
   by decide +kernel⟩

/-- The hypotheses of Obligations.TunSendsAndReleasesChunks, part TunReleasesItsResults, are met. -/
theorem witness_TunReleasesItsResults :
      ((∀ v, v ∈ [0, 1, 2] → (let q : Pour := { word := BitVec.ofNat 128 pourN, next := 1, fin := true }
      let s : State := (tunRig 1).putTslot 0 0 1 { armed 1 with pours := [q], chunks := [(0, { loc := emptyVals 0 8, fx := List.replicate 128 0, nread := 1, psn := v = 2 })] }
      let s : State := if v = 1 then inocAt s 0 0x31 0 else s
      let x := s.tslot 0 0 1
      s.hasDie 0 = true ∧ x.state = 1 ∧ s.readyChunk 0 x true = some 0 ∧ (x.chunk 0).psn = decide (v = 2) ∧ (x.chunk 0).ncon + 1 = s.slotP 0 x ∧
        s.slotGauge 0 x 0 (fun _ => true) (s.partialOf 0 x 0).1 = (s.partialOf 0 x 0).2 ∧ x.native = true ∧ decide ((s.inoc 0).point = 0x31) = decide (v = 1)))) ∧
      ((let q : Pour := { word := BitVec.ofNat 128 pourN, next := 1, fin := true }
      let s := (tunRig 1).putTslot 0 0 2 { armed 2 with pours := [q], chunks := [(0, { loc := emptyVals 0 8, fx := List.replicate 128 0, nread := 1 })] }
      let x := s.tslot 0 0 2
      s.readyChunk 0 x true = some 0 ∧ (x.chunk 0).psn = false ∧ (x.chunk 0).ncon + 1 = s.slotP 0 x ∧
        s.slotGauge 0 x 0 (fun _ => true) (s.partialOf 0 x 0).1 = (s.partialOf 0 x 0).2 ∧ x.native = false)) ∧
      ((let q : Pour := { word := BitVec.ofNat 128 pourN, next := 1, fin := true }
      let s := (tunRig 1).putTslot 0 0 1 { armed 1 with pours := [q], chunks := [(0, { loc := emptyVals 0 8, fx := List.replicate 128 0, nread := 1, ncon := 1 })] }
      let x := s.tslot 0 0 1
      s.readyChunk 0 x true = some 0 ∧ (x.chunk 0).psn = false ∧ (x.chunk 0).ncon + 1 ≠ s.slotP 0 x)) ∧
      (s0.readyChunk 0 (s0.tslot 0 0 1) true = none) :=
  ⟨by decide +kernel,
   by decide +kernel,
   by decide +kernel,
   by decide +kernel⟩

/-- Table 4 of die 0 at slot 5 of its epoch, with the words ws of its active half. -/
def tableAt (e : Nat) : State := s0.wf 0 (oSlotCtl 4) slotCtlEpos e

/-- The hypotheses of Obligations.SlotTablesRunAndSwap are met. -/
theorem witness_SlotTablesRunAndSwap :
      ((let s := (tableAt 4095).wf 0 (oSlotCtl 4) slotCtlSwap 1
      s.canon = true ∧ s.hasDie 0 = true ∧ 4 < 5 ∧ s.rf 0 (oSlotCtl 4) slotCtlEpos = 4095 ∧ s.slotSwapping 0 4 = true)) ∧
      ((let s := ((s0.setReg 0 (oSlotEnt 2 0 3) (BitVec.ofNat _ (1 + 2 * 2 ^ 3 + 7 * 2 ^ 8))).wf 0 (oThrJob 7) thrJobEn 1).wf 0 (oSlotCtl 2) slotCtlEpos 5
      let s := s.putPort 0 2 { txTags := [(2, [(8, 7, 0)])] }
      let u := s.wf 0 (oSlotCtl 2) slotCtlEpos 6
      let ent := u.slotEnt 0 2 (u.slotAct 0 2) 6
      s.canon = true ∧ s.rf 0 (oSlotCtl 2) slotCtlEpos = 5 ∧ s.slotSwapping 0 2 = false ∧ entOwner ent = some 3 ∧ u.jobEn 0 7 = true ∧
        (3, 7) ∈ u.slotTraffic 0 2)) ∧
      ((let s := tableAt 4095
      let u := s.wf 0 (oSlotCtl 4) slotCtlEpos 0
      s.slotSwapping 0 4 = false ∧ entOwner (u.slotEnt 0 4 (u.slotAct 0 4) 0) = none ∧
        bestCarry (u.carry 0 4) ((List.range 14).filter (fun v => (u.slotTraffic 0 4).any (fun x => carryOf x.1 = v && decide (x.1 ≠ 1)))) = none)) ∧
      ((let s := (s0.putPort 0 2 { txTags := [(13, [(8, 7, 0)])] }).setCarry 0 2 13 1
      let u := s.wf 0 (oSlotCtl 2) slotCtlEpos 1
      s.slotSwapping 0 2 = false ∧ entOwner (u.slotEnt 0 2 (u.slotAct 0 2) 1) = none ∧
        bestCarry (u.carry 0 2) ((List.range 14).filter (fun v => (u.slotTraffic 0 2).any (fun x => carryOf x.1 = v && decide (x.1 ≠ 1)))) = some 13)) ∧
      ((let s : State := { s0.setCarry 0 4 0 14 with slotOwn := [(4, 17 + 32 * 256)] }
      (s.slotHolder 0 4).1 = 17 ∧ (s.slotHolder 0 4).2 = some 255 ∧ s.carry 0 4 (carryOf 17) < 15 ∧ s.rf 0 (oSlotCtl 4) slotCtlEpos ≠ 4095 ∧
        2 * 31999 < s.slotCap 0 4 ∧ s.slotCap 0 4 ≤ 2 * 32000 ∧ (s0.slotHolder 0 4).2 = none)) ∧
      ((let s := (tableAt 4095).wf 0 (oSlotCtl 4) slotCtlEpos 7
      2 * 0 < s.slotCap 0 4 ∧ s.slotCap 0 4 ≤ 2 * 32000 ∧ s.rf 0 (oSlotCtl 4) slotCtlEpos ≠ 4095)) ∧
      ((let s := ([0, 1, 2, 3, 4].foldl (fun s k => s.wf 0 (oSlotCtl k) slotCtlEpos 4095) s0).wf 0 (oSlotCtl 4) slotCtlSwap 1
      s.canon = true ∧ (∀ k, k < 5 → s.rf 0 (oSlotCtl k) slotCtlEpos = 4095) ∧ s.slotSwapping 0 4 = true)) ∧
      ((let s : State := { s0 with slotHeld := [(0, 4, 2047, 5), (1, 0, 0, 3)] }
      s.canon = true ∧ (∀ w, w ∈ s.slotHeld → w.2.1 < 5 ∧ w.2.2.1 < 2048) ∧ ((s.heldWords 0 4).reverse.find? (fun w => w.1 = 2047)).isSome = true)) ∧
      (s0.rf 0 (oSlotCtl 4) slotCtlEpos ≠ 4095 ∧ ∀ k, k < 5 → s0.slotSwapping 0 k = false) :=
  ⟨by decide +kernel,
   by decide +kernel,
   by decide +kernel,
   by decide +kernel,
   by decide +kernel,
   by decide +kernel,
   by decide +kernel,
   by decide +kernel,
   by decide +kernel⟩

/-- The hypotheses of Obligations.JobsEndStopAndDrain, part FirmwareEndsFaultedJobs, are met. -/
theorem witness_FirmwareEndsFaultedJobs :
      ((∀ c, c ∈ [2, 3] → ∀ g, g ∈ [true, false] → (let r : Report := { cause := c, tagv := g }
      takeFirst (fun r => ! r.poison) ({ s0 with reports := [{ poison := true }, r] } : State).reports = some (r, [{ poison := true }]) ∧ r.cause = c ∧ r.tagv = g))) ∧
      ((∀ p, p ∈ [7, 8] → ∀ g, g ∈ [true, false] → (let r : Report := { poison := true, part := p, tagv := g }
      takeFirst (fun r => r.poison) ({ s0 with reports := [r] } : State).reports = some (r, []) ∧ r.tagv = g ∧ r.part = p))) ∧
      (takeFirst (fun r => ! r.poison) s0.reports = none ∧ takeFirst (fun r => r.poison) s0.reports = none) ∧
      ((∀ n, n ∈ [9, 10] → (let s : State := { s0 with dieHbAge := [(7, n)] }
      s.hasDie 7 = true ∧ mget n0 s.dieHbAge 7 = n))) ∧
      ((let m : Msg := { typ := mABORT, body := toBytes 16 5 }
      let s : State := { delivered 14 m with jobs := [(0, { phase := 1, pjid := 5 })] }
      let v := s.consume 0 2 14
      s.hasPort 0 2 = true ∧ 14 < 15 ∧ (s.rxch 0 2 14).msg = some m ∧ m.typ = mABORT ∧
        (({ v.tick with time := v.now } : State).seenAt 0).any
          (fun e => e.1 = bits (ofBytes m.body) 32 16 && e.2.1 = bits (ofBytes m.body) 48 16) = false ∧
        s.jobs.find? (fun e => e.2.phase = 1 && e.2.pjid = bits (ofBytes m.body) 0 32) = some (0, { phase := 1, pjid := 5 }))) ∧
      ((let m : Msg := { typ := mABORT }
      let s : State := { delivered 14 m with seen := [(0, [(0, 0, Config.elapsed 0)])] }
      let c := s.consume 0 2 14
      (s.rxch 0 2 14).msg = some m ∧ c.now = Config.elapsed 0 ∧
        (({ c.tick with time := Config.elapsed 0 } : State).seenAt 0).any
          (fun e => e.1 = bits (ofBytes m.body) 32 16 && e.2.1 = bits (ofBytes m.body) 48 16) = true)) :=
  ⟨by decide +kernel,
   by decide +kernel,
   by decide +kernel,
   by decide +kernel,
   by decide +kernel,
   ⟨by decide +kernel, Nat.zero_add _, by
      show (List.filter (fun e : Nat × Nat × Nat => decide (Config.elapsed 0 < e.2.2 + 10000)) [(0, 0, Config.elapsed 0)]).any _ = true
      simp [ofBytes, bits]⟩⟩

/-- The hypotheses of Obligations.JobsEndStopAndDrain, part EndingJobsStopDrainAndFinish, are met. -/
theorem witness_EndingJobsStopDrainAndFinish :
      ((let s : State := { (rig.putCtx 0 25599 { state := cREADY, tag := 255 }).putCtx 0 0 { state := cREADY, tag := 1 } with jobs := [(255, { phase := 1 })] }
      s.canon = true ∧ (s.job 255).phase = 1 ∧ (s.job 0).phase ≠ 1 ∧ 25599 < 25600 ∧ (s.ctx 0 25599).tag = 255 ∧ (s.ctx 0 25599).state ≠ cFREE ∧
        (s.ctx 0 0).tag ≠ 255 ∧ s.tagCtxs 255 ≠ [])) ∧
      ((let s : State := { s0 with jobs := [(255, { phase := 1 })] }
      s.canon = true ∧ (s.job 255).phase = 1 ∧ s.tagCtxs 255 = [])) ∧
      ((let s : State := { s0 with jobs := [(255, { phase := 2 })], drainRk := (List.range 8).map (fun d => (d * 256 + 255, true)), drainTun := (List.range 8).map (fun d => (d * 256 + 255, true)) }
      s.canon = true ∧ (s.job 255).phase = 2 ∧ s.drainedAll 255 = true)) ∧
      (s0.drainedAll 255 = false) :=
  ⟨by decide +kernel,
   by decide +kernel,
   by decide +kernel,
   by decide +kernel⟩

/-- The register a write of w bytes at o reaches passes the test p. -/
def reaches (q : Requester) (d o w : Nat) (p : RegInfo → Nat → Nat → Nat → Bool) : Bool :=
  match regAt d (barOff q d o) w with
  | some (r, i, j, k) => p r i j k
  | none => false

/-- The hypotheses of Obligations.RegisterAccessFollowsItsFields, part RegisterWritesFollowTheirFields, are met. -/
theorem witness_RegisterWritesFollowTheirFields :
      (s0.canon = true ∧ s0.hasReq (.vf 7) = true ∧ s0.hasDie 7 = true ∧ s0.reachable (.vf 7) = true ∧ s0.hasReq (.firmware 31) = true ∧
    s0.reachable (.firmware 31) = true ∧ ({ s0 with variant := .qbm2 } : State).hasDie 7 = false ∧
    ({ s0 with failed := true } : State).reachable (.vf 7) = false) ∧
      ((regAt 7 (barOff (.vf 7) 7 1) 4 = none)) ∧
      (reaches (.vf 7) 7 (oThrWdog 6) 8 (fun r i _ _ => ! s0.regWindow (.vf 7) (s0.qPart (.vf 7)) 7 r i true) = true) ∧
      (reaches (.pf) 0 oSpineMode 4 (fun r i j k => s0.regWindow .pf (s0.qPart .pf) 0 r i true && s0.regClosed .pf 0 r i j k 1) = true) ∧
      (reaches (.firmware 31) 7 (oSlotEnt 4 1 2047) 4 (fun r i j k => s0.regWindow (.firmware 31) 8 7 r i true && decide (32 < r.bytes) &&
      ! s0.regClosed (.firmware 31) 7 r i j k 5) = true) ∧
      (reaches (.firmware 31) 7 (oTunAxis 255 5 + 8) 8 (fun r i _ k => s0.regWindow (.firmware 31) 8 7 r i true && decide (0 < k) && decide (r.bytes ≤ 32) &&
      ! s0.dormant 7) = true) ∧
      ((∀ o, o ∈ [oThrWdog 7, oTunAxis 255 5] → reaches (.firmware 31) 7 o 8 (fun r i j k => s0.regWindow (.firmware 31) 8 7 r i true && decide (k = 0) &&
      decide (r.bytes ≤ 32) && ! s0.regClosed (.firmware 31) 7 r i j 0 5 && ! s0.dormant 7 &&
      decide (r.off ∉ [0x7F0000, 0x140000, 0x140200, 0x20000, 0x20100, 0x40300, 0x150020, 0x170000, 0x170100])) = true)) ∧
      ((let s := s0.wf 0 oPwrStat pwrStatDorm 128
      reaches (.firmware 31) 7 (oKetCstat 3) 4 (fun r i j k => s.regWindow (.firmware 31) 8 7 r i true && s.dormant 7 && r.isl.poweredOff &&
        decide (r.off ∉ [0x7F0000, 0x140000, 0x140200, 0x20000, 0x20100, 0x40300, 0x150020, 0x170000, 0x170100]) && decide (r.bytes ≤ 32) &&
        ! s.regClosed (.firmware 31) 7 r i j k 5) = true)) ∧
      (reaches (.pf) 0 (oThrWdog 0) 8 (fun r i j _ => s0.regWindow .pf (s0.qPart .pf) 0 r i true && decide (r.bytes ≤ 8) &&
      ! s0.regClosed .pf 0 r i j 0 5 && fieldOpen .pf r thrWdogTmo) = true) :=
  ⟨by decide +kernel,
   by decide +kernel,
   by decide +kernel,
   by decide +kernel,
   by decide +kernel,
   by decide +kernel,
   by decide +kernel,
   by decide +kernel,
   by decide +kernel⟩

/-- The hypotheses of Obligations.RegisterAccessFollowsItsFields, part ClearingReadsClearTheirFields, are met. -/
theorem witness_ClearingReadsClearTheirFields :
      (s0.canon = true ∧ s0.hasReq (.vf 7) = true ∧ s0.reachable (.vf 7) = true ∧ ({ s0 with variant := .qbm2 } : State).hasDie 7 = false ∧
    isBar (.vf 7) = true ∧ regAt 7 (barOff (.vf 7) 7 1) 4 = none) ∧
      (reaches (.vf 7) 7 (oThrWdog 6) 8 (fun r i _ _ => ! s0.regWindow (.vf 7) (s0.qPart (.vf 7)) 7 r i false) = true) ∧
      ((∀ e, e ∈ [(oKetCstat 3, 4), (oRkTrk, 8), (oTunAxis 0 0, 8)] → reaches (.firmware 31) 7 e.1 e.2 (fun r i _ k =>
      s0.regWindow (.firmware 31) 8 7 r i false && decide (k = 0) && decide (r.bytes ≤ 32) && ! s0.dormant 7) = true)) ∧
      (reaches (.firmware 31) 7 (oTunAxis 255 5 + 8) 8 (fun r i _ k => s0.regWindow (.firmware 31) 8 7 r i false && decide (0 < k) && decide (r.bytes ≤ 32)) = true) ∧
      (reaches (.firmware 31) 7 (oSlotEnt 4 1 2047) 4 (fun r i _ _ => s0.regWindow (.firmware 31) 8 7 r i false && decide (32 < r.bytes)) = true) ∧
      ((let s := s0.wf 0 oPwrStat pwrStatDorm 128
      reaches (.firmware 31) 7 (oKetCstat 3) 4 (fun r i _ k => s.regWindow (.firmware 31) 8 7 r i false && s.dormant 7 && r.isl.poweredOff &&
        decide (k = 0) && decide (r.bytes ≤ 32)) = true)) :=
  ⟨by decide +kernel,
   by decide +kernel,
   by decide +kernel,
   by decide +kernel,
   by decide +kernel,
   by decide +kernel⟩

/-- The hypotheses of Obligations.SnapshotAndScaleRegistersAct are met. -/
theorem witness_SnapshotAndScaleRegistersAct :
      ((let q : Requester := .firmware 31
      s0.canon = true ∧ s0.hasReq q = true ∧ s0.hasDie 7 = true ∧ s0.reachable q = true ∧ 7 < 8 ∧ 63 < 64 ∧
        s0.regWindow q (s0.qPart q) 7 rgHydSnap 7 true = true ∧
        fieldOpen q rgHydSnap hydSnapSet = true)) ∧
      ((∀ c, c ∈ [0, 15, 255] → (let q : Requester := .kettle 0 3
      let s : State := { rig.wf 0 (oKscCtrl 0) kscCtrlSkipcnt c with jobs := [(0, { phase := 1 })] }
      s.hasReq q = true ∧ s.reachable q = true ∧ s.regWindow q (s.qPart q) 0 rgKscCtrl 0 true = true ∧ fieldOpen q rgKscCtrl kscCtrlApplied = true ∧
        s.rf 0 (oKscCtrl 0) kscCtrlApplied = 0 ∧ s.rf 0 (oKscCtrl 0) kscCtrlSkipped = 0 ∧ s.rf 0 (oKscCtrl 0) kscCtrlSkipcnt = c ∧
        s.rf 0 (oKscCtrl 0) kscCtrlSkiplim = 16 ∧ s.partTag 0 0 = some 0))) :=
  ⟨by decide +kernel,
   by decide +kernel⟩

/-- The hypotheses of Obligations.InoculationsArmFireAndDisarm are met. -/
theorem witness_InoculationsArmFireAndDisarm :
      ((∀ g, g ∈ [true, false] → (let q : Requester := .pf
      let s : State := { s0.wfs 7 oInocCtl [(inocCtlPoint, 0x30), (inocCtlCount, 1)] with diag := g }
      s.canon = true ∧ s.hasReq q = true ∧ s.hasDie 7 = true ∧ s.reachable q = true ∧ s.regWindow q (s.qPart q) 7 rgInocCtl 0 true = true ∧
        fieldOpen q rgInocCtl inocCtlArm = true ∧ fieldOpen q rgInocCtl inocCtlDisarm = true ∧
        s.rf 7 oInocCtl inocCtlArm = 0 ∧ s.rf 7 oInocCtl inocCtlPoint ≠ 0 ∧ s.inocMay 7 (s.rf 7 oInocCtl inocCtlPoint) (s.rf 7 oInocCtl inocCtlInst) = g))) ∧
      ((∀ m, m ∈ [true, false] → (let s : State := { s0.wfs 7 oInocCtl [(inocCtlPoint, 0x30), (inocCtlCount, 1), (inocCtlArm, 1)] with diag := m }
      s.rf 7 oInocCtl inocCtlArm = 1 ∧ s.inocMay 7 (s.rf 7 oInocCtl inocCtlPoint) (s.rf 7 oInocCtl inocCtlInst) = m ∧ (s.inoc 7).point = 0x30))) ∧
      ((∀ n, n ∈ [0, 65535] → (let s : State := { ((s0.wfs 7 oInocCtl [(inocCtlPoint, 0x11), (inocCtlInst, 15), (inocCtlPos, 127), (inocCtlSub, 127), (inocCtlBit, 7),
        (inocCtlArm, 1)]).wf 7 oInocStat inocStatFired n).putVat 7 15 { bank1 := bLIVE } with inocLeft := [(7, 1)] }
      s.canon = true ∧ (s.inoc 7).point = 0x11 ∧ (s.inoc 7).inst = 15 ∧ (s.vat 7 15).liveBank = some 1 ∧ mget n0 s.inocLeft 7 = 1 ∧
        s.rf 7 oInocStat inocStatFired = n ∧ (s.inocStrike 7 (s.inoc 7)).isSome = true))) ∧
      (s0.rf 7 oInocCtl inocCtlArm = 0 ∧ s0.inocStrike 7 (s0.inoc 7) = none ∧ (s0.inoc 7).point ∉ [0x11, 0x12, 0x13]) ∧
      ((let s := inocAt s0 7 0x11 15
      (s.inoc 7).point = 0x11 ∧ (s.vat 7 (s.inoc 7).inst).liveBank = none)) :=
  ⟨by decide +kernel,
   by decide +kernel,
   by decide +kernel,
   by decide +kernel,
   by decide +kernel⟩

/-- The hypotheses of Obligations.RingsStartStopAndScrubsDecode are met. -/
theorem witness_RingsStartStopAndScrubsDecode :
      ((∀ n, n ∈ [6, 16, 17] → (let s := s0.wfs 0 (oHiRingcfg 8) [(hiRingcfgClog, n), (hiRingcfgPlog, 6)]
      s.canon = true ∧ 8 < 9 ∧ s.fnOpen 8 = true ∧ getF (s.reg 0 (oHiRingcfg 8)) hiRingcfgEn = 0 ∧ getF (s.reg 0 (oHiRingcfg 8)) hiRingcfgClog = n ∧
        getF (s.reg 0 (oHiRingcfg 8)) hiRingcfgPlog = 6 ∧ getF (s.reg 0 (oHiRingcfg 8)) hiRingcfgCbase % 4096 = 0 ∧
        getF (s.reg 0 (oHiRingcfg 8)) hiRingcfgPbase % 4096 = 0))) ∧
      ((let s := s0.wf 0 (oHiRingcfg 8) hiRingcfgEn 1
      s.fnOpen 8 = true ∧ getF (s.reg 0 (oHiRingcfg 8)) hiRingcfgEn = 1)) ∧
      ((s0.wf 0 (oPartStat 7) partStatTdi 3).fnOpen 8 = false) ∧
      ((∀ m, m ∈ [Mark.clean, .poison, .one, .bad] → ∀ k, k ∈ [0, 2 ^ 25 + 2 ^ 21 + 5 * 2 ^ 29 - 1] →
      (match scrubPlace 7 k with
      | some (r, o) => decide ((s0.setMark r o m).hasDie 7 = true) && ! (s0.setMark r o m).inocReads r o && decide ((s0.setMark r o m).mark r o = m)
      | none => false) = true)) :=
  ⟨by decide +kernel,
   by decide +kernel,
   by decide +kernel,
   by decide +kernel⟩

/-- The rig with partition 0 OPEN, tags and kettle grants, and function 8's ring in service. -/
def hostRig : State :=
  let s : State := { rig with grants := { kind := 14, count := 256 } :: rig.grants }
  (s.wf 0 (oPartStat 0) partStatState 1).wfs 0 (oHiRingcfg 8) [(hiRingcfgEn, 1), (hiRingcfgClog, 6), (hiRingcfgPlog, 6), (hiRingcfgCbase, 4096),
    (hiRingcfgPbase, 8192)]

/-- The inline bytes of a packet from its parameters (byte, value), then its block. -/
def params (ps : List (Nat × Nat)) (block : List Byte) : List Byte := toBytes 48 (sumBy (fun t => t.2 * 2 ^ (8 * (t.1 - 16))) ps) ++ block

/-- A packet of function 8 for partition 0. -/
def pkt (opc : Nat) (ps : List (Nat × Nat)) : Pkt := { opc := opc, part := 0, params := params ps [] }

/-- Function 8 holds the packet. -/
def holding (p : Pkt) : State := hostRig.putFn 8 { cur := some p }

/-- A JOB_START block of die 0 with a stack of one page and no lists. -/
def jobBlock : List Byte := toBytes 320 (2 ^ 32 + 4096 * 2 ^ (8 * 256 + 64))

/-- Host memory holds a NOP packet of SEQ q and header bits x at the ring's first place, and the expected SEQ is e. -/
def nopAt (q x : Nat) (e : Option Nat) : State :=
  { hostRig.putFn 8 { expSeq := e } with mem := bytesAt .host 4096 (toBytes 16 (1 + q * 2 ^ 32 + x)) }

/-- The hypotheses of Obligations.CommandPacketsAreTakenAndChecked are met. -/
theorem witness_CommandPacketsAreTakenAndChecked :
      (8 < 9 ∧ s0.ringEn 8 = false) ∧
      ((let s := nopAt 5 0 (some 5)
      s.ringEn 8 = true ∧ s.fnOpen 8 = true ∧ ¬ (65 + 2 ^ 32 - s.rf 0 (oHiRingst 8) hiRingstCmdhead) % 2 ^ 32 ≤ 2 ^ s.rf 0 (oHiRingcfg 8) hiRingcfgClog ∧
        (64 + 2 ^ 32 - s.rf 0 (oHiRingst 8) hiRingstCmdhead) % 2 ^ 32 ≤ 2 ^ s.rf 0 (oHiRingcfg 8) hiRingcfgClog)) ∧
      (((nopAt 5 0 (some 5)).putFn 8 { (nopAt 5 0 (some 5)).fn 8 with cmdtail := 0 }).mayTake 8 = false) ∧
      ((let u := (nopAt 5 0 (some 4)).putFn 8 { (nopAt 5 0 (some 4)).fn 8 with cmdtail := 1 }
      u.mayTake 8 = true ∧ u.linkOk 8 = true ∧ (u.readPkt (u.pktAddr 8 0)).2.seq = 5 ∧ u.wantSeq 8 = 4)) ∧
      ((∀ x, x ∈ [0xFF * 2 ^ 24, 2 ^ 19] → (let u := (nopAt 5 x (some 5)).putFn 8 { (nopAt 5 x (some 5)).fn 8 with cmdtail := 1 }
      let pk := u.readPkt (u.pktAddr 8 0)
      let w := u.wf 0 (oHiRingst 8) hiRingstCmdhead 1
      let y := w.putFn 8 { w.fn 8 with expSeq := some 6 }
      u.mayTake 8 = true ∧ u.linkOk 8 = true ∧ pk.2.seq = u.wantSeq 8 ∧ (x = 2 ^ 19 → y.pktFail 8 pk.1 pk.2 false = some (0x10, 0)) ∧
        (x = 0xFF * 2 ^ 24 → y.pktFail 8 pk.1 pk.2 false = none)))) ∧
      ((∀ b, b ∈ [true, false] → (let q : Pkt := { pkt 1 [] with barrier := b, part := 7 }
      let s := hostRig.putFn 8 { cur := some q, longs := if b then [{}] else [] }
      (s.fn 8).cur = some q ∧ q.opc = 1 ∧ (s.fn 8).stage = 0 ∧ s.mustWait 8 q = b ∧ s.stateFail q = some 0x15))) :=
  ⟨by decide +kernel,
   by decide +kernel,
   by decide +kernel,
   by decide +kernel,
   by decide +kernel,
   by decide +kernel⟩

/-- The hypotheses of Obligations.RepliesAreWrittenInOrder are met. -/
theorem witness_RepliesAreWrittenInOrder :
      ((let p := pkt 1 []
      let s := holding p
      s.canon = true ∧ 8 < 9 ∧ (s.fn 8).cur = some p ∧ p.mute = false)) ∧
      ((let s := hostRig.putFn 8 { replies := 63 }
      let x := s.fn 8
      let g := fun k => s.rf 0 (oHiRingcfg 8) k
      s.canon = true ∧ s.ringEn 8 = true ∧ s.serving = true ∧ s.linkOk 8 = true ∧ x.outq = [] ∧ x.evLost = 0 ∧
        (x.replies + 2 ^ 32 - x.cplhead) % 2 ^ 32 < 2 ^ g hiRingcfgPlog ∧
        g hiRingcfgPbase + 32 * (x.replies % 2 ^ g hiRingcfgPlog) + 32 ≤ 2 ^ 64)) :=
  ⟨by decide +kernel,
   by decide +kernel⟩

/-- The hypotheses of Obligations.ShortCommandsAnswer are met. -/
theorem witness_ShortCommandsAnswer :
      ((∀ o, o ∈ [1, 2, 3] → (holding (pkt o [])).hostRuns 8 o (pkt o []))) ∧
      ((∀ n, n ∈ [0, 0xFFFE, 0xFFFF] → (holding (pkt 4 [(16, n)])).hostRuns 8 4 (pkt 4 [(16, n)]) ∧ (pkt 4 [(16, n)]).n 16 2 = n ∧
      (holding (pkt 4 [(16, n)])).jobsOf (fun _ => true) = [])) ∧
      ((let p := pkt 4 []
      ({ holding p with jobs := [(0, { phase := 1 })] } : State).jobsOf (fun _ => true) ≠ [])) ∧
      ((∀ b, b ∈ [true, false] → (let p := pkt 0x10 [(16, 63), (24, 4096), (32, 2 ^ 26 - 1)]
      let s := (holding p).putRackq 0 0 { outs := if b then [{ wins := [64] }] else [] }
      s.hostRuns 8 0x10 p ∧ p.n 16 1 ≤ 63 ∧ p.n 32 4 < 2 ^ 26 ∧ p.n 24 8 % 4096 = 0 ∧ s.winBusy p.part (p.n 16 1) = b))) ∧
      ((∀ b, b ∈ [true, false] → (let p := pkt 0x11 [(16, 63)]
      let s := (holding p).putRackq 0 0 { outs := if b then [{ wins := [64] }] else [] }
      s.hostRuns 8 0x11 p ∧ p.n 16 1 ≤ 63 ∧ s.winBusy p.part (p.n 16 1) = b))) ∧
      ((let p := pkt 0x10 [(16, 64)]
      let q := pkt 0x10 [(24, 1)]
      let w := pkt 0x11 [(16, 64)]
      (holding p).hostRuns 8 0x10 p ∧ 63 < p.n 16 1 ∧ (holding q).hostRuns 8 0x10 q ∧ q.n 16 1 ≤ 63 ∧ q.n 32 4 < 2 ^ 26 ∧ q.n 24 8 % 4096 ≠ 0 ∧
        (holding w).hostRuns 8 0x11 w ∧ 63 < w.n 16 1)) ∧
      ((let p := pkt 0x34 [(16, 0xFFE), (18, 7)]
      (holding p).hostRuns 8 0x34 p ∧ p.n 16 2 < 0xFFF ∧ (holding p).hasDie (p.n 18 1) = true ∧ p.n 20 2 = 0 ∧ bit (p.n 19 1) 0 = false)) ∧
      ((let p := pkt 0x34 [(16, 0xFFE), (18, 7), (20, 65535)]
      (holding p).hostRuns 8 0x34 p ∧ p.n 16 2 < 0xFFF ∧ (holding p).hasDie (p.n 18 1) = true ∧ p.n 20 2 ≠ 0)) ∧
      ((let p := pkt 0x35 [(16, 0xFFE), (18, 7)]
      (holding p).hostRuns 8 0x35 p ∧ p.n 16 2 < 0xFFF ∧ (holding p).hasDie (p.n 18 1) = true)) ∧
      ((∀ o, o ∈ [0x34, 0x35] → (let p := pkt o [(16, 0xFFF)]
      (holding p).hostRuns 8 o p ∧ ¬ (p.n 16 2 < 0xFFF ∧ (holding p).hasDie (p.n 18 1) = true)))) :=
  ⟨by unfold State.hostRuns; decide +kernel,
   by unfold State.hostRuns; decide +kernel,
   by decide +kernel,
   by unfold State.hostRuns; decide +kernel,
   by unfold State.hostRuns; decide +kernel,
   by unfold State.hostRuns; decide +kernel,
   by unfold State.hostRuns; decide +kernel,
   by unfold State.hostRuns; decide +kernel,
   by unfold State.hostRuns; decide +kernel,
   by unfold State.hostRuns; decide +kernel⟩

/-- The hypotheses of Obligations.LongCommandsRunReportAndEnd, part LongCommandsAreAcceptedAndCancelled, are met. -/
theorem witness_LongCommandsAreAcceptedAndCancelled :
      ((∀ n, n ∈ [0, 1] → (let p := pkt 6 [(16, 64), (24, n), (32, 8)]
      (holding p).hostRuns 8 6 p ∧ p.n 16 8 % 64 = 0 ∧ p.n 32 8 % 8 = 0 ∧ p.n 24 4 = n))) ∧
      ((∀ a, a ∈ [0, 64] → (let p := pkt 0x20 [(16, gaddr (.cellar 0) 0), (24, gaddr (.cellar 0) a), (32, 64), (40, 8)]
      let s := holding p
      s.hostRuns 8 0x20 p ∧ p.n 40 8 % 8 = 0 ∧ p.n 32 5 ≠ 0 ∧
        (match s.copyRuns p.part (p.n 16 8) (p.n 32 5) false, s.copyRuns p.part (p.n 24 8) (p.n 32 5) true with
          | .ok xs, .ok ys => runsMeet xs ys == decide (a = 0)
          | _, _ => false) = true))) ∧
      ((let p := pkt 0x20 [(16, gaddr (.cellar 0) 0), (24, gaddr (.cellar 0) 64), (40, 8)]
      let s := holding p
      s.hostRuns 8 0x20 p ∧ p.n 40 8 % 8 = 0 ∧ p.n 32 5 = 0 ∧
        (match s.copyRuns p.part (p.n 16 8) (p.n 32 5) false, s.copyRuns p.part (p.n 24 8) (p.n 32 5) true with
          | .ok xs, .ok ys => runsMeet xs ys == false
          | _, _ => false) = true)) ∧
      ((let p := pkt 0x20 [(16, gaddr (.cellar 0) 0), (32, 64)]
      let s := holding p
      s.hostRuns 8 0x20 p ∧ (match s.copyRuns p.part (p.n 16 8) (p.n 32 5) false, s.copyRuns p.part (p.n 24 8) (p.n 32 5) true with
          | .ok _, .error e => e == 0x20
          | _, _ => false) = true)) ∧
      ((let p := pkt 0x20 [(32, 64)]
      (holding p).hostRuns 8 0x20 p ∧ (match (holding p).copyRuns p.part (p.n 16 8) (p.n 32 5) false with
        | .error e => e == 0x20
        | .ok _ => false) = true)) ∧
      ((∀ o, o ∈ [0x32, 0x33] → (let p := pkt o [(16, 255), (24, 64), (32, 8)]
      let s : State := { holding p with jobs := [(255, { phase := 1, mask := 1 })] }
      s.hostRuns 8 o p ∧ s.jobIs (p.n 16 1) p.part = true ∧ p.n 24 8 % 64 = 0 ∧ p.n 32 8 % 8 = 0 ∧ (holding p).jobIs (p.n 16 1) p.part = false))) ∧
      ((∀ m, m ∈ [0x0051B1E0, 0] → (let p : Pkt := { opc := 0x40, params := params [(32, 8), (40, 3)] (toBytes 64 (m + 2 ^ 32)) }
      let s := holding p
      s.hostRuns 8 0x40 p ∧ (m = 0 → recipeFail p.block = some 0x35) ∧ (m ≠ 0 → recipeFail p.block = none) ∧ p.n 32 8 % 8 = 0 ∧
        rlApply p = true ∧ s.jobsOf (fun _ => true) = []))) ∧
      ((let p := pkt 0x106 [(32, 8)]
      (holding p).hostRuns 8 0x106 p ∧ p.n 32 8 % 8 = 0)) ∧
      ((∀ o, o ∈ [6, 0x33, 0x40] → (let p := pkt 0x21 [(16, 2 ^ 32 - 1)]
      let k : Long := { pkt := { opc := o, seq := 2 ^ 32 - 1 }, state := 0x7F }
      let s := hostRig.putFn 8 { cur := some p, longs := [k] }
      s.hostRuns 8 0x21 p ∧ (s.fn 8).longs.find? (fun l => l.pkt.seq = p.n 16 4 && decide (l.state < 0x80)) = some k ∧ s.copyAt 8 k.pkt.seq = none))) ∧
      ((let p := pkt 0x21 [(16, 7)]
      let k : Long := { pkt := { opc := 0x20, seq := 7 }, state := 1 }
      let i : RInstr := { opc := 0x100, fn := 8, hseq := 7 }
      let s := (hostRig.putFn 8 { cur := some p, longs := [k] }).putRackq 0 256 { ins := [i] }
      s.hostRuns 8 0x21 p ∧ (s.fn 8).longs.find? (fun l => l.pkt.seq = p.n 16 4 && decide (l.state < 0x80)) = some k ∧
        s.copyAt 8 k.pkt.seq = some (0, i))) :=
  ⟨by unfold State.hostRuns; decide +kernel,
   by unfold State.hostRuns; decide +kernel,
   by unfold State.hostRuns; decide +kernel,
   by unfold State.hostRuns; decide +kernel,
   by unfold State.hostRuns; decide +kernel,
   by unfold State.hostRuns; decide +kernel,
   by unfold State.hostRuns; decide +kernel,
   by unfold State.hostRuns; decide +kernel,
   by unfold State.hostRuns; decide +kernel,
   by unfold State.hostRuns; decide +kernel⟩

/-- The hypotheses of Obligations.LongCommandsRunReportAndEnd, part LongCommandsReportAndEnd, are met. -/
theorem witness_LongCommandsReportAndEnd :
      ((∀ o, o ∈ [6, 0x32, 0x33, 0x40, 0x106] → (let l : Long := { pkt := { opc := o, part := 0, params := params [(16, 255)] [] }, state := 0x7F }
      let s : State := { hostRig.putFn 8 { longs := [l] } with jobs := [(255, { phase := 1 })] }
      8 < 9 ∧ s.serving = true ∧ (s.fn 8).longs = l :: [] ∧ l.state < 0x80 ∧ s.copyAt 8 l.pkt.seq = none ∧ s.linkOk 8 = true ∧
        s.jobIs (l.pkt.n 16 1) l.pkt.part = true ∧ hostRig.jobIs (l.pkt.n 16 1) l.pkt.part = false))) ∧
      ((∀ f, f ∈ [1, 2] → (let l : Long := { pkt := { opc := 0x40, params := params [(40, f)] [] }, state := 2 }
      let s := hostRig.putFn 8 { longs := [l] }
      (s.fn 8).longs = l :: [] ∧ l.stage = 0 ∧ s.othersBusy 8 = false ∧ (f = 1 → rlPersist l.pkt = true ∧ rlApply l.pkt = false) ∧
        (f = 2 → rlApply l.pkt = true ∧ rlPersist l.pkt = false ∧ s.jobsOf (fun _ => true) = [])))) ∧
      ((let l : Long := { pkt := { opc := 0x40 }, state := 1 }
      let s := (hostRig.putFn 8 { longs := [l] }).putFn 0 { cur := some (pkt 1 []), stage := 1 }
      (s.fn 8).longs = l :: [] ∧ l.state < 0x80 ∧ l.stage = 0 ∧ s.othersBusy 8 = true)) ∧
      ((let l : Long := { state := 0x80 }
      let s := hostRig.putFn 8 { longs := [l] }
      (s.fn 8).longs = l :: [] ∧ 0x80 ≤ l.state ∧ s.copyAt 8 l.pkt.seq = none)) ∧
      ((∀ n, n ∈ [2, 3] → (let l : Long := { pkt := { opc := 0x40 }, state := 2, buf := [BitVec.ofNat 8 n] }
      let s := hostRig.putFn 8 { longs := [l] }
      (s.fn 8).longs = l :: [] ∧ l.state < 0x80 ∧ l.stage = n))) ∧
      ((let l : Long := { pkt := { opc := 6 } }
      let s : State := { hostRig.putFn 8 { longs := [l] } with pcieUp := false }
      s.serving = true ∧ (s.fn 8).longs = l :: [] ∧ l.state < 0x80 ∧ s.linkOk 8 = false)) ∧
      ((let l : Long := { pkt := { opc := 0x20, seq := 7 }, state := 0x80 }
      let i : RInstr := { opc := 0x100, fn := 8, hseq := 7 }
      let s := (hostRig.putFn 8 { longs := [l] }).putRackq 0 256 { ins := [i] }
      (s.fn 8).longs = l :: [] ∧ 0x80 ≤ l.state ∧ s.copyAt 8 l.pkt.seq = some (0, i) ∧ s.copyOuts 0 i = [])) :=
  ⟨by decide +kernel,
   by decide +kernel,
   by decide +kernel,
   by decide +kernel,
   by decide +kernel,
   by decide +kernel,
   by decide +kernel⟩

/-- The hypotheses of Obligations.JobsStartAndAbort are met. -/
theorem witness_JobsStartAndAbort :
      ((let p : Pkt := { opc := 0x30, part := 0, params := params [(16, 64), (24, 320)] jobBlock }
      (holding p).hostRuns 8 0x30 p ∧ (holding p).jobFail 8 p.part p.block = none)) ∧
      ((let p : Pkt := { opc := 0x30, part := 0, params := params [(16, 64), (24, 320)] [] }
      (holding p).hostRuns 8 0x30 p ∧ (holding p).jobFail 8 p.part p.block = some (0x20, 0))) ∧
      ((let p := pkt 0x31 [(16, 255)]
      let s : State := { holding p with jobs := [(255, { phase := 1 })] }
      s.hostRuns 8 0x31 p ∧ s.jobIs (p.n 16 1) p.part = true ∧ (holding p).jobIs (p.n 16 1) p.part = false)) :=
  ⟨by unfold State.hostRuns; decide +kernel,
   by unfold State.hostRuns; decide +kernel,
   by unfold State.hostRuns; decide +kernel⟩

/-- The hypotheses of Obligations.ModuleResetsHoldAndStartTheModule are met. -/
theorem witness_ModuleResetsHoldAndStartTheModule :
      (s0.canon = true ∧ s0.trip = false ∧ s0.phase < 2 ∧ s0.phase ≠ 1 ∧ s0.phase ≠ 3 ∧ ({ s0 with trip := true } : State).trip = true) ∧
      ((∀ b, b ∈ [true, false] → (let s : State := { s0 with phase := 2, flashExt := b }
      s.phase = 2 ∧ s.flashExt = b))) ∧
      (({ s0 with phase := 3 } : State).phase = 3 ∧ ({ s0 with phase := 1 } : State).phase = 1) ∧
      ((100 ≤ 100 ∧ 115 ≤ 115 ∧ 105 ≤ 105 ∧ s0.iinBounds.2 ≤ s0.iinBounds.2 ∧ 99 < 100 ∧ 114 < 115 ∧ 104 < 105 ∧ s0.iinBounds.2 - 1 < s0.iinBounds.2)) :=
  ⟨by decide +kernel,
   by decide +kernel,
   by decide +kernel,
   by decide +kernel⟩

/-- The hypotheses of Obligations.WarmPartitionAndIslandResetsAct are met. -/
theorem witness_WarmPartitionAndIslandResetsAct :
      (s0.phase = 0 ∧ 7 < 8 ∧ s0.hasDie 7 = true ∧ islOk 15 = true ∧ islOk 21 = true ∧ s0.canon = true ∧ 15 < 16 ∧ 1023 < 1024) ∧
      (s0.exposed 8 = true ∧ ({ s0 with failed := true } : State).exposed 8 = false ∧ ({ s0 with failed := true } : State).phase = 0) ∧
      ((∀ k, k ∈ [2, 3] → (let q : Pkt := { pkt 5 [(16, k)] with part := 0xFF }
      let s := s0.putFn 8 { cur := some q }
      s.canon = true ∧ 8 < 9 ∧ (s.fn 8).cur = some q ∧ q.opc = 5 ∧ (s.fn 8).stage = 0 ∧ 2 ≤ q.n 16 1 ∧ (s.fn 7).cur = none ∧ (k = 2 → q.n 16 1 < 4)))) ∧
      ((∀ k, k ∈ [2, 3, 4] → (let p : Pkt := { pkt 5 [(16, k), (17, if k = 3 then 7 else 0), (18, 7), (19, 15)] with part := 0xFF }
      let s := holding p
      s.hostRuns 8 5 p ∧ p.n 16 1 = k ∧ (k = 3 → p.n 17 1 = 7) ∧ p.n 18 1 = 7 ∧ p.n 19 1 = 15 ∧ s.dieInJob 7 = false ∧ s.outranked k 8 = false))) ∧
      ((∀ k, k ∈ [3, 4] → (let p : Pkt := { pkt 5 [(16, k), (17, if k = 3 then 7 else 0), (18, 7), (19, 15)] with part := 0xFF }
      let s := (holding p).putFn 7 { cur := some { opc := 5, params := params [(16, 2)] [] } }
      s.hostRuns 8 5 p ∧ p.n 16 1 = k ∧ s.outranked k 8 = true ∧ s.outranked 3 9 = true ∧ s.outranked 4 9 = true ∧ s.outranked 3 8 = true ∧
        s0.outranked 3 9 = false ∧ s0.outranked 4 9 = false ∧ s0.outranked 3 8 = false))) ∧
      ((let p : Pkt := { pkt 5 [(16, 3), (17, 8)] with part := 0xFF }
      (holding p).hostRuns 8 5 p ∧ 7 < p.n 17 1)) ∧
      ((let p : Pkt := { pkt 5 [(16, 4), (18, 7), (19, 15)] with part := 0xFF }
      let s : State := { holding p with jobs := [(255, { phase := 1, mask := 128 })] }
      s.hostRuns 8 5 p ∧ s.dieInJob 7 = true)) :=
  ⟨by decide +kernel,
   by decide +kernel,
   by decide +kernel,
   by unfold State.hostRuns; decide +kernel,
   by unfold State.hostRuns; decide +kernel,
   by unfold State.hostRuns; decide +kernel,
   by unfold State.hostRuns; decide +kernel⟩

/-- The hypotheses of Obligations.CommitsStartDeferAndEnd are met. -/
theorem witness_CommitsStartDeferAndEnd :
      ((∀ k, k ∈ [0, 1, 2] → (let c : Commit := { kind := k }
      let s : State := { s0 with commitWait := [c], deferred := [c] }
      s.phase < 2 ∧ s.commitWait = c :: [] ∧ s.deferred = c :: [] ∧ s.mayCommit c = true))) ∧
      ((∀ k, k ∈ [0, 1, 2] → (let c : Commit := { kind := k }
      let s : State := { s0.wf 0 oHuStat huStatPgood 0 with commitWait := [c], deferred := [c] }
      s.commitWait = c :: [] ∧ s.mayCommit c = false ∧ s.deferred = c :: [] ∧ (s.deferred.filter (fun x => x.kind = 0)).length < 64))) ∧
      ((∀ k, k ∈ [0, 1, 2] → (let c : Commit := { kind := k }
      ({ s0 with commitRun := some c } : State).commitRun = some c ∧ c.kind = k))) :=
  ⟨by decide +kernel,
   by decide +kernel,
   by decide +kernel⟩

/-- The hypotheses of Obligations.TelemetryThrottlesTheModule are met. -/
theorem witness_TelemetryThrottlesTheModule :
      (s0.canon = true ∧ s0.phase < 2 ∧ s0.hasDie 7 = true ∧ 3 < 4 ∧ (∀ c, c < 5 → s0.levelOf c < 8) ∧ s0.iinBounds.1 < s0.iinBounds.1 + 1 ∧ 20 ≤ 20 ∧
    s0.rf 0 oHuStat huStatPgood = 1) ∧
      ((let s := s0.wf 7 oPwrTel pwrTelTj 127
      (∃ c, c < 4 ∧ (s.causeNow c).1 = true))) ∧
      (((s0.causeNow 2).1 = false ∧ (s0.causeNow 2).2 = true ∧ mget n0 ({ s0 with calm := [(2, 99)] } : State).calm 2 = 99)) :=
  ⟨by decide +kernel,
   ⟨2, by decide +kernel⟩,
   by decide +kernel⟩

/-- The hypotheses of Obligations.IslandsDiesAndTheModuleRest are met. -/
theorem witness_IslandsDiesAndTheModuleRest :
      ((let s := s0.wf 7 oIslRest islRestResten (2 ^ 26)
      s.canon = true ∧ s.hasDie 7 = true ∧ s.phase = 0 ∧ 26 < 31 ∧ bit (s.rf 7 oIslRest islRestRested) 26 = false ∧
        bit (s.rf 7 oIslRest islRestResten) 26 = true ∧ s.islandIdle 7 26 = true)) ∧
      ((let s := s0.wf 7 oIslRest islRestRested (2 ^ 26)
      bit (s.rf 7 oIslRest islRestRested) 26 = true)) ∧
      ((let s := s0.wf 0 oPwrCtl pwrCtlDormreq 128
      bit (s.rf 0 oPwrCtl pwrCtlDormreq) 7 = true ∧ s.tagOn 7 = false ∧ s.dormant 7 = false)) ∧
      ((s0.wf 7 (oThrJob 255) thrJobEn 1).tagOn 7 = true) ∧
      ((let s := s0.wf 0 oPwrStat pwrStatDorm 128
      s.serving = true ∧ bit (s.rf 0 oPwrCtl pwrCtlDormreq) 7 = false ∧ s.dormant 7 = true)) ∧
      ((let s := s0.wf 0 oPwrStat pwrStatSleep 1
      s.serving = false ∧ s.rf 0 oPwrStat pwrStatSleep = 1)) :=
  ⟨by decide +kernel,
   by decide +kernel,
   by decide +kernel,
   by decide +kernel,
   by decide +kernel,
   by decide +kernel⟩

/-- The hypotheses of Obligations.ManagementInterfacesAnswer are met. -/
theorem witness_ManagementInterfacesAnswer :
      (s0.canon = true ∧ s0.hasDie 7 = true ∧ 8 < 9 ∧ s0.managed = true ∧ ({ s0 with trip := true } : State).managed = false ∧ s0.phase ≠ 2 ∧ s0.pcieUp = true) ∧
      ((∀ b, b ∈ [true, false] → (let s : State := { s0 with phase := 2, flashWait := b }
      s.phase = 2 ∧ s.flashWait = b))) ∧
      ((∀ c, c ∈ [0, 1, 2, 6, 0xFF] → (let s : State := { s0 with taps := [(7, (c, 5))], phase := 2 }
      s.canon = true ∧ (s.tap 7).1 = c ∧ (c = 2 → s.tapCode 7 = 2) ∧ (c = 6 → s.tapCode 7 ∈ [0, 1, 5, 6])))) :=
  ⟨by decide +kernel,
   by decide +kernel,
   by decide +kernel⟩

/-- The hypotheses of Obligations.PartitionCommandsAct are met. -/
theorem witness_PartitionCommandsAct :
      ((∀ k, k ∈ [6, 7] → (let p : Pkt := { pkt 0x100 [] with part := k }
      let s := (holding p).wf 0 (oPartStat 6) partStatState 1
      s.canon = true ∧ s.hostRuns 8 0x100 p ∧ (k = 7 → s.partState p.part = 0) ∧ p.part < 8 ∧ (k = 6 → s.partState p.part ≠ 0)))) ∧
      ((∀ o, o ∈ [0x101, 0x102] → ∀ n, n ∈ [0, 1] → (let p : Pkt := { opc := o, part := 0, params := params [(16, 64), (24, 16)] (toBytes 16 (13 + n * 2 ^ 64)) }
      let s := holding p
      s.hostRuns 8 o p ∧ s.grantFail p.part false (o = 0x102) (grantEnts p.block) = none ∧
        (n = 0 ↔ ((grantEnts p.block).filter (fun g => ! gEmpty g)).map (toGrant p.part) = [])))) ∧
      ((∀ o, o ∈ [0x101, 0x102] → (let p : Pkt := { opc := o, part := 0, params := params [(16, 64), (24, 16)] (toBytes 16 (15 + 2 ^ 64)) }
      (holding p).hostRuns 8 o p ∧ (holding p).grantFail p.part false (o = 0x102) (grantEnts p.block) ≠ none))) ∧
      ((let p := pkt 0x103 []
      (holding p).hostRuns 8 0x103 p)) ∧
      ((∀ b, b ∈ [0, 3] → (let p := pkt 0x104 [(16, b), (17, 1), (18, 127), (19, 1)]
      let s : State := { holding p with grants := [{ kind := 13, count := 64 }, { kind := 12, first := 127, count := 1 }, { kind := 0xB, count := 64 }], keys := [(127, some 0)] }
      s.hostRuns 8 0x104 p ∧ (b = 3 → s.keyFail 8 false p ≠ none)))) ∧
      ((∀ b, b ∈ [0, 1] → (let p := pkt 0x105 [(16, b)]
      (holding p).hostRuns 8 0x105 p ∧ (holding p).partState p.part = 1 ∧ (holding p).owned p.part = false ∧ bit (p.n 16 1) 0 = decide (b = 1)))) ∧
      ((∀ m, m ∈ [2, 3, 4] → (let p := pkt 0x41 [(16, m)]
      (holding p).hostRuns 8 0x41 p ∧ p.n 16 1 = m ∧ (holding p).jobsOf (fun _ => true) = [] ∧
        ({ holding p with jobs := [(255, { phase := 1 })] } : State).jobsOf (fun _ => true) ≠ []))) :=
  ⟨by unfold State.hostRuns; decide +kernel,
   by unfold State.hostRuns; decide +kernel,
   by unfold State.hostRuns; decide +kernel,
   by unfold State.hostRuns; decide +kernel,
   by unfold State.hostRuns; decide +kernel,
   by unfold State.hostRuns; decide +kernel,
   by unfold State.hostRuns; decide +kernel⟩

/-- The hypotheses of Obligations.FencePutsChangesIntoEffect are met. -/
theorem witness_FencePutsChangesIntoEffect :
      ((let s : State := { s0 with changes := [{}] }
      s.canon = true ∧ s.rf 0 oBondFence bondFenceBusy = 0 ∧ s.changes ≠ [] ∧ s.phase = 0)) ∧
      ((let s := s0.wf 0 oBondFence bondFenceBusy 1
      s.canon = true ∧ s.hasDie 7 = true ∧ s.rf 0 oBondFence bondFenceBusy = 1 ∧ bit (s.rf 0 oBondFence bondFenceSwitched) 7 = false)) ∧
      ((let s := s0.wfs 0 oBondFence [(bondFenceBusy, 1), (bondFenceSwitched, 127)]
      let t : State := { s with lostDies := 128 }
      (∀ e, e < t.nDies → bit (t.rf 0 oBondFence bondFenceSwitched) e = true ∨ bit t.lostDies e = true) ∧ t.oldLive = [] ∧ t.ringsDrained t.fenceRun = true ∧
        ¬ (∀ e, e < s.nDies → bit (s.rf 0 oBondFence bondFenceSwitched) e = true ∨ bit s.lostDies e = true))) ∧
      ((let c : Change := { kind := 0, list := [{ kind := 1, die := 7 }] }
      (s0.putVat 7 0 { s0.vat 7 0 with inq := [{}] }).ringsDrained [c] = false ∧ s0.ringsDrained [c] = true)) ∧
      (({ fn := 8 } : Change).kind = 0 ∧ ({ fn := 8 } : Change).doe = false ∧ ({ fn := 8 } : Change).fn ≠ 9 ∧ 100 ≤ 100 ∧ 99 < 100) :=
  ⟨by decide +kernel,
   by decide +kernel,
   by decide +kernel,
   by decide +kernel,
   by decide +kernel⟩

/-- The hypotheses of Obligations.MailboxesServeTheirSessions are met. -/
theorem witness_MailboxesServeTheirSessions :
      (s0.serving = true ∧ 8 < 9 ∧ s0.exposed 8 = true ∧ ({ s0 with failed := true } : State).exposed 8 = false ∧
    ({ s0 with failed := true } : State).serving = true ∧ [0xE5, 0xE9, 0xEC, 0x81, 0x82, 0x83, 0xFE, 0xE1, 0xE8].all (fun c => spdmCodes.contains c) = true ∧ 4 ≤ ({ s0 with sessions := List.replicate 4 { fn := 8 } } : State).sessionsOf 8 ∧
    ({ s0 with sessions := List.replicate 3 { fn := 8 } } : State).sessionsOf 8 < 4 ∧ s0.owned 7 = false ∧
    (s0.wf 0 (oPartStat 7) partStatOwned 1).owned 7 = true ∧ 0 ∉ spdmCodes) ∧
      ((let s : State := { s0 with sessions := [{ id := 1, fn := 8 }] }
      (∃ x, s.session 1 = some x ∧ x.fn = 8) ∧ (∀ x, s.session 1 = some x → x.up = false) ∧ 0xE5 ∈ spdmCodes ∧
        s.session 0 = none)) ∧
      ((let s : State := { s0 with sessions := [{ id := 1, fn := 8, up := true }] }
      (∃ x, s.session 1 = some x ∧ x.up = true ∧ x.fn = 8) ∧ 0xEC ∈ spdmCodes)) ∧
      ((let s : State := { (s0.putPart 7 { owner := some 5 }).wf 0 (oPartStat 7) partStatOwned 1 with sessions := [{ id := 1, fn := 8, auth := some 5, up := true }] }
      s.ownerOk 7 1 = true ∧ s.ownerOk 7 2 = false ∧ s.debugOn = false ∧ (s.wf 0 (oPartStat 7) partStatState 1).partState 7 = 1 ∧
        (s.wf 0 (oPartStat 7) partStatState 3).partState 7 = 3 ∧ (s.wf 0 (oPartStat 7) partStatTdi 1).rf 0 (oPartStat 7) partStatTdi = 1 ∧ s.partState 7 < 2)) ∧
      ((let s : State := { s0 with sessions := [{ id := 1, fn := 8, up := true }], grants := [{ part := 7, kind := 13, first := 127, count := 1 }] }
      127 ≤ 127 ∧ s.debugOn = false ∧ s.session 1 = some { id := 1, fn := 8, up := true } ∧ s.session 2 = none)) ∧
      ((s0.wf 0 oBondStat bondStatLife 1).debugOn = true) ∧
      (({ s0 with sessions := [{ id := 1, up := true }] } : State).session 1 = some { id := 1, up := true }) :=
  ⟨by decide +kernel,
   ⟨⟨{ id := 1, fn := 8 }, by decide +kernel⟩, (by intro x h; cases h; rfl), by decide +kernel, by decide +kernel⟩,
   ⟨⟨{ id := 1, fn := 8, up := true }, by decide +kernel⟩, by decide +kernel⟩,
   by decide +kernel,
   by decide +kernel,
   by decide +kernel,
   by decide +kernel⟩

/-- The hypotheses of Obligations.StepRunsTheFrontCommand are met. -/
theorem witness_StepRunsTheFrontCommand :
      ({ s0 with pending := [.commitStart, .nop 8] } : State).pending = [.commitStart, .nop 8] ∧ s0.pending = [] := by decide +kernel

/-- The hypotheses of Obligations.EveryCommandOfAPresentUnitGoesOn are met. -/
theorem witness_EveryCommandOfAPresentUnitGoesOn :
      wellFormed s0.nDies (.steep 7 25599) = true ∧ wellFormed s0.nDies (.steep 8 0) = false := by decide +kernel

/-- The hypotheses of Obligations.StepKeepsTheCanonicalForm are met. -/
theorem witness_StepKeepsTheCanonicalForm :
      (({ s0 with pending := [.nop 8] } : State).canon = true) ∧
      (stepsTo { s0 with pending := [.slotSwap 7 4, .nop 8] } ({ s0 with pending := [.nop 8] }.wf 7 (oSlotCtl 4) slotCtlSwap 1)) :=
  ⟨by decide +kernel,
   rfl⟩

/-- The hypotheses of Obligations.StepKeepsTheModuleAndConsumesOneCommand are met. -/
theorem witness_StepKeepsTheModuleAndConsumesOneCommand :
      stepsTo { s0 with pending := [.nop 8] } s0 ∧ stepsTo s0 s0 := ⟨rfl, rfl⟩

end Sys2Proof.Tests
end

section
/-!
PROOFS. The sparge ring: what the updates its steps share leave of the state.
-/
namespace Sys2Proof.Machine

/-! ## Outcomes -/

theorem goesOn_next {t : State} {P : State → Prop} (h : P t) : goesOn (.next t) P := ⟨t, rfl, h⟩

/-! ## A key set twice -/

theorem mset_of_low {α : Type} [DecidableEq α] {d : Nat → α} {m : SMap α} {k : Nat} (h : mlow k m = true) (x : α) :
    mset d m k x = if x = d k then m else (k, x) :: m := by
  cases m with
  | nil => rfl
  | cons e m =>
    obtain ⟨j, z⟩ := e
    have hk : k < j := of_decide_eq_true h
    simp only [mset, if_neg (show ¬ j = k by omega), if_pos hk]

/-- The last value set under a key stays. -/
theorem mset_mset_same {α : Type} [DecidableEq α] {d : Nat → α} {m : SMap α} (hm : mrising m = true) (k : Nat) (x y : α) :
    mset d (mset d m k x) k y = mset d m k y := by
  induction m with
  | nil =>
    by_cases hx : x = d k
    · simp only [mset, if_pos hx]
    · simp only [mset, if_neg hx, if_true]
  | cons e m ih =>
    obtain ⟨j, z⟩ := e
    simp only [mrising, Bool.and_eq_true] at hm
    obtain ⟨hlow, hm⟩ := hm
    by_cases hjk : j = k
    · subst hjk
      by_cases hx : x = d j
      · simp only [mset, if_true, if_pos hx, mset_of_low hlow]
      · simp only [mset, if_true, if_neg hx]
    · by_cases hkj : k < j
      · by_cases hx : x = d k
        · simp only [mset, if_neg hjk, if_pos hkj, if_pos hx]
        · simp only [mset, if_neg hjk, if_pos hkj, if_neg hx, if_true]
      · simp only [mset, if_neg hjk, if_neg hkj, ih hm]

theorem State.putVat_putVat {s : State} (h : mrising s.vats = true) (d v : Nat) (x y : Vat) :
    (s.putVat d v x).putVat d v y = s.putVat d v y := by
  simp only [State.putVat, mset_mset_same h]

/-! ## Fields of registers -/

theorem testBit_getF (v : RegWord) (f : Fld) (k : Nat) : (getF v f).testBit k = (decide (k < f.w) && v.getLsbD (f.lo + k)) := by
  simp [getF, bits, Nat.testBit_mod_two_pow, Nat.testBit_div_two_pow, BitVec.getLsbD, Nat.add_comm]

theorem getLsbD_maskF (f : Fld) (i : Nat) :
    (maskF f).getLsbD i = (decide (i < 256) && (decide (f.lo ≤ i) && decide (i - f.lo < f.w))) := by
  simp only [maskF, BitVec.getLsbD_ofNat, Nat.testBit_mul_two_pow, Nat.testBit_two_pow_sub_one]

theorem getLsbD_setF (v : RegWord) (f : Fld) (x i : Nat) (hi : i < 256) :
    (setF v f x).getLsbD i = if f.lo ≤ i ∧ i < f.lo + f.w then x.testBit (i - f.lo) else v.getLsbD i := by
  simp only [setF, BitVec.getLsbD_or, BitVec.getLsbD_and, BitVec.getLsbD_not, getLsbD_maskF, BitVec.getLsbD_ofNat,
    Nat.testBit_mul_two_pow, Nat.testBit_mod_two_pow, hi, decide_true, Bool.true_and]
  by_cases h : f.lo ≤ i
  · by_cases h' : i < f.lo + f.w
    · have : i - f.lo < f.w := by omega
      simp [h, h', this]
    · have : ¬ i - f.lo < f.w := by omega
      simp [h, h', this]
  · simp [h]

theorem getF_setF_same (v : RegWord) (f : Fld) (x : Nat) (h : f.lo + f.w ≤ 256) : getF (setF v f x) f = x % 2 ^ f.w := by
  apply Nat.eq_of_testBit_eq
  intro k
  rw [testBit_getF, Nat.testBit_mod_two_pow]
  by_cases hk : k < f.w
  · rw [getLsbD_setF _ _ _ _ (by omega), if_pos ⟨by omega, by omega⟩, Nat.add_sub_cancel_left]
  · simp [hk]

theorem State.rf_wf_same {s : State} (h : mrising s.regs = true) (d o : Nat) (f : Fld) (x : Nat) (hf : f.lo + f.w ≤ 256) :
    (s.wf d o f x).rf d o f = x % 2 ^ f.w := by
  rw [State.rf, State.wf, State.reg_same h, getF_setF_same _ _ _ hf]

/-! ## Settled vats -/

/-- x with its passes settled. -/
def Vat.settled (x : Vat) : Vat :=
  { x with passes := (settle (fun p => x.releasing p && ! x.released p) x.passes x.done).1,
           done := (settle (fun p => x.releasing p && ! x.released p) x.passes x.done).2 }

theorem State.putSettled_eq (s : State) (d v : Nat) (x : Vat) : s.putSettled d v x = s.putVat d v x.settled := rfl

section
variable (x : Vat)

@[simp] theorem Vat.settled_checked : x.settled.checked = x.checked := rfl
@[simp] theorem Vat.settled_psnskip : x.settled.psnskip = x.psnskip := rfl
@[simp] theorem Vat.settled_nanskip : x.settled.nanskip = x.nanskip := rfl
@[simp] theorem Vat.settled_mismatch : x.settled.mismatch = x.mismatch := rfl

end

/-- The counts of the tally set, and the strikes, stay where columns are replaced. -/
theorem Vat.setCol_counts (x : Vat) (i j : Nat) (c : Col) :
    (x.setCol i j c).checked = x.checked ∧ (x.setCol i j c).psnskip = x.psnskip ∧
    (x.setCol i j c).mismatch = x.mismatch ∧ (x.setCol i j c).nanskip = x.nanskip ∧ ∀ q, (x.setCol i j c).struck q = x.struck q :=
  ⟨rfl, rfl, rfl, rfl, fun _ => rfl⟩

/-- Storing a vat again with its passes settled. -/
theorem State.putSettled_putVat {s : State} (h : mrising s.vats = true) (d v : Nat) (y : Vat) :
    (s.putVat d v y).putSettled d v ((s.putVat d v y).vat d v) = s.putVat d v y.settled := by
  rw [State.putSettled_eq, State.vat_same h, State.putVat_putVat h]

/-! ## Banks of a vat -/

theorem Vat.bank_setBank_same (x : Vat) (q b : Nat) : (x.setBank q b).bank q = b := by
  unfold Vat.setBank Vat.bank
  split <;> rfl

theorem Vat.bank_setBank_other (x : Vat) {q : Nat} (b : Nat) (h : q < 2) : (x.setBank q b).bank (1 - q) = x.bank (1 - q) := by
  obtain rfl | rfl : q = 0 ∨ q = 1 := by omega
  all_goals rfl

/-! ## Poisoned codewords -/

theorem State.mark_setMark {s : State} (h : mrising s.marks = true) (r g : Region) (o u : Nat) (m : Mark) :
    (s.setMark r o m).mark g u = if cwKey g u = cwKey r o then m else s.mark g u := by
  unfold State.mark State.setMark
  split
  · rename_i hk
    rw [hk]
    exact mget_mset_same _ _ h
  · rename_i hk
    exact mget_mset_ne _ h hk

theorem State.setMark_marks_rising {s : State} (h : mrising s.marks = true) (r : Region) (o : Nat) (m : Mark) :
    mrising (s.setMark r o m).marks = true := mrising_mset _ _ h

/-- s with the marks m. -/
def State.withMarks (s : State) (m : SMap Mark) : State := { s with marks := m }

@[simp] theorem State.withMarks_get_vat (s : State) (m : SMap Mark) (d v : Nat) : (s.withMarks m).vat d v = s.vat d v := rfl

@[simp] theorem State.putVat_withMarks (s : State) (m : SMap Mark) (d v : Nat) (x : Vat) :
    (s.withMarks m).putVat d v x = (s.putVat d v x).withMarks m := rfl

@[simp] theorem State.putSettled_withMarks (s : State) (m : SMap Mark) (d v : Nat) (x : Vat) :
    (s.withMarks m).putSettled d v x = (s.putSettled d v x).withMarks m := rfl

@[simp] theorem State.putSettled_report (s : State) (r : Report) (d v : Nat) (x : Vat) :
    (s.report r).putSettled d v x = (s.putSettled d v x).report r := rfl

theorem poisonColumn_frame (d v h c n : Nat) (s : State) : ∃ m, poisonColumn d v h c n s = s.withMarks m := by
  induction n generalizing s with
  | zero => exact ⟨s.marks, rfl⟩
  | succ n ih => exact ih (s.setMark (.wort d v h) (wortOff n c) .poison)

theorem poisonColumn_keeps_poison {d v h c n : Nat} {s : State} (hm : mrising s.marks = true) {g : Region} {u : Nat}
    (hp : s.mark g u = .poison) : (poisonColumn d v h c n s).mark g u = .poison := by
  induction n generalizing s with
  | zero => exact hp
  | succ n ih =>
    refine ih (State.setMark_marks_rising hm ..) ?_
    rw [State.mark_setMark hm, hp, ite_self]

theorem poisonColumn_poisons {d v h c n : Nat} {s : State} (hm : mrising s.marks = true) {r : Nat} (hr : r < n) :
    (poisonColumn d v h c n s).mark (.wort d v h) (wortOff r c) = .poison := by
  induction n generalizing s with
  | zero => omega
  | succ n ih =>
    have hm' := State.setMark_marks_rising hm (.wort d v h) (wortOff n c) .poison
    by_cases h' : r = n
    · subst h'
      exact poisonColumn_keeps_poison hm' (by rw [State.mark_setMark hm, if_pos rfl])
    · exact ih hm' (by omega)

/-- A column is poisoned by marks alone: those of its codewords in the first n rows. -/
theorem poisonColumn_marks {s : State} (hm : mrising s.marks = true) (d v h c n : Nat) :
    ∃ m, poisonColumn d v h c n s = s.withMarks m ∧ ∀ r, r < n → (s.withMarks m).mark (.wort d v h) (wortOff r c) = .poison := by
  obtain ⟨m, he⟩ := poisonColumn_frame d v h c n s
  exact ⟨m, he, fun r hr => he ▸ poisonColumn_poisons hm hr⟩

end Sys2Proof.Machine
end

section
/-!
PROOFS. The sparge ring: a pass binds, fails or passes by (02 R65–R68, 03 R115, R131).
-/
namespace Sys2Proof.Machine

/-! ## Binding a pass -/

theorem exec_passBind {s : State} {d v : Nat} (hv : s.hasVat d v = true) : exec (.passBind d v) s = .next (s.bind d v) := by
  show execPassBind d v s = _
  simp [execPassBind, hv]

section
variable {s : State} {d v : Nat} {i : VInstr} {rest : List VInstr}

theorem bind_draught (he : (s.vat d v).entryFree = true) (hq : (s.vat d v).mashQ = i :: rest) (ho : i.opc = 0x41)
    (hd : isDraught (maSHAPE i.word) = true) :
    s.bind d v = (if s.ringHeld d then s else s.giveRing d i.tag).bindMash d v i rest (maPAR i.word) i.tag := by
  simp [State.bind, he, hq, ho, hd]

theorem bind_ring {b : Beat} {bs : List Beat} (he : (s.vat d v).entryFree = true) (hq : (s.vat d v).mashQ = i :: rest) (ho : i.opc = 0x41)
    (hd : isDraught (maSHAPE i.word) = false) (hb : (s.vat d v).inq = b :: bs) :
    s.bind d v = s.bindMash d v i rest (elPar (b.lanes.getD 0 0)) b.tag := by
  simp [State.bind, he, hq, ho, hd, hb]

theorem bind_skip {b : Beat} {bs : List Beat} (he : (s.vat d v).entryFree = true) (hq : (s.vat d v).mashQ = i :: rest) (ho : i.opc = 0x43)
    (hb : (s.vat d v).inq = b :: bs) : s.bind d v = s.bindSkip d v i rest b.tag := by
  simp [State.bind, he, hq, ho, hb]

theorem bind_aborted {b : Beat} {bs : List Beat} (he : (s.vat d v).entryFree = true) (hq : (s.vat d v).mashQ = [])
    (hb : (s.vat d v).inq = b :: bs) (ha : (s.vat d v).abortDrn = true) (ht : b.tag ∈ (s.vat d v).abortTags) :
    s.bind d v = s.putVat d v { s.vat d v with passes := (s.vat d v).passes ++ [{ kind := .skip, tag := b.tag, fin := true }] } := by
  simp [State.bind, he, hq, hb, ha, ht, enq]

theorem bind_waits (h : (s.vat d v).entryFree = false ∨ ((s.vat d v).mashQ = [] ∧ (s.vat d v).inq = []) ∨
      ((s.vat d v).mashQ = [] ∧ (s.vat d v).abortDrn = false) ∨
      ((s.vat d v).mashQ = i :: rest ∧ (s.vat d v).inq = [] ∧ (i.opc ≠ 0x41 ∨ isDraught (maSHAPE i.word) = false))) :
    s.bind d v = s := by
  rcases h with h | ⟨hq, hb⟩ | ⟨hq, ha⟩ | ⟨hq, hb, ho⟩
  · simp [State.bind, h]
  · simp [State.bind, hq, hb]
  · cases hb : (s.vat d v).inq <;> simp [State.bind, hq, hb, ha]
  · have : ¬ (i.opc = 0x41 ∧ isDraught (maSHAPE i.word) = true) := by rintro ⟨h1, h2⟩; simp [h1, h2] at ho
    simp [State.bind, hq, hb, this]

end

/-- x after a pass has reached its cell (0,0): the pass is counted, for the tag of the tally set. -/
def Vat.countPass (x : Vat) (t : Nat) : Vat :=
  { x with npasses := if x.npasses < 2 ^ 32 - 1 then x.npasses + 1 else 2 ^ 32 - 1, ttag := match x.ttag with
      | none => some t
      | some z => some z }

/-- x with the pass p bound to the MASH ahead of `rest`. -/
def Vat.bound (x : Vat) (rest : List VInstr) (p : Pass) (cont : Bool) : Vat :=
  let y := { x.countPass p.tag with mashQ := rest, passes := x.passes ++ [p], hasPrev := true, lastPar := p.par, lastKeep := p.keep }
  let y := if cont then y else (y.setBank p.par bLIVE).setGens p.par (y.gens p.par ++ [{ seq := x.seq }])
  let y := if maHALF p.instr.word = 0 then { y with initKb0 := p.kb0 } else { y with initKb1 := p.kb0 }
  { y with seq := y.seq + 1 }

/-- x with the failed pass p bound to the MASH ahead of `rest`. -/
def Vat.failed (x : Vat) (rest : List VInstr) (p : Pass) : Vat :=
  { x.countPass p.tag with mashQ := rest, passes := x.passes ++ [p] }

/-- x with the pass p, bound to the SKIP i ahead of `rest` with `left` passes to go. -/
def Vat.skipped (x : Vat) (i : VInstr) (rest : List VInstr) (left : Nat) (p : Pass) : Vat :=
  { x with skipLeft := left - 1, mashQ := if left ≤ 1 then rest else i :: rest, passes := x.passes ++ [p] }

/-- The pass of parity q and tag that binds to the MASH i, with record r. -/
def State.boundPass (s : State) (d v : Nat) (i : VInstr) (q tag : Nat) (cont : Bool) (r : BankRec) : Pass :=
  let x := s.vat d v
  { kind := .mash, instr := { i with step := s.rf d (oBarmStep i.tag) barmStepStep }, par := q, keep := maKEEP i.word, tag := tag,
    brec := r, kb0 := if maINIT i.word then r.kblk else if maHALF i.word = 0 then x.initKb0 else x.initKb1,
    gen := if cont then ((x.gens q).getLast?.map (fun g => g.seq)).getD 0 else x.seq }

/-- The failed pass of parity q and tag. -/
def State.failedPass (s : State) (d : Nat) (i : VInstr) (q tag : Nat) : Pass :=
  { kind := .failed, instr := { i with step := s.rf d (oBarmStep i.tag) barmStepStep }, par := q, tag := tag,
    brec := { shape := maSHAPE i.word } }

section
variable {s : State} {d v : Nat} {i : VInstr} {rest : List VInstr} {q tag : Nat}

theorem bindMash_binds {cont : Bool} {r : BankRec} (hc : (s.vat d v).bindCase q = some cont) (hr : (s.vat d v).recFor q cont = some r)
    (hq : q = maPAR i.word) (ht : tag = i.tag) (hm : recMatches i.word r = true) :
    s.bindMash d v i rest q tag = s.putVat d v ((s.vat d v).bound rest (s.boundPass d v i q tag cont r) cont) := by
  have hc' : ∀ (k : Nat) (z : Option Nat), ({ s.vat d v with npasses := k, ttag := z } : Vat).bindCase q = some cont := fun _ _ => hc
  have hr' : ∀ (k : Nat) (z : Option Nat), ({ s.vat d v with npasses := k, ttag := z } : Vat).recFor q cont = some r := fun _ _ => hr
  unfold State.bindMash
  simp only [hc', hr']
  rw [if_neg (by simp [hq, ht, hm])]
  rfl

theorem bindMash_fails (h : (s.vat d v).bindCase q = none ∨ q ≠ maPAR i.word ∨ tag ≠ i.tag ∨
      (∀ cont r, (s.vat d v).bindCase q = some cont → (s.vat d v).recFor q cont = some r → recMatches i.word r = false)) :
    s.bindMash d v i rest q tag =
      (s.putVat d v ((s.vat d v).failed rest (s.failedPass d i q tag))).gristFault d v i.tag i.part := by
  have hc' : ∀ (k : Nat) (z : Option Nat),
    ({ s.vat d v with npasses := k, ttag := z } : Vat).bindCase q = (s.vat d v).bindCase q := fun _ _ => rfl
  have hr' : ∀ (k : Nat) (z : Option Nat) (c : Bool),
    ({ s.vat d v with npasses := k, ttag := z } : Vat).recFor q c = (s.vat d v).recFor q c := fun _ _ _ => rfl
  unfold State.bindMash
  simp only [hc', hr']
  cases hc : (s.vat d v).bindCase q with
  | none => rfl
  | some cont =>
    simp only
    cases hr : (s.vat d v).recFor q cont with
    | none => rfl
    | some r =>
      have hf : q ≠ maPAR i.word ∨ tag ≠ i.tag ∨ (! recMatches i.word r) = true := by
        rcases h with h | h | h | h
        · rw [hc] at h; cases h
        · exact .inl h
        · exact .inr (.inl h)
        · simp [h cont r hc hr]
      simp only [if_pos hf]
      rfl
end

/-! ## What binding leaves in the vat -/

section
variable (x : Vat) (rest : List VInstr) (p : Pass) (cont : Bool)

theorem Vat.bound_pass : (x.bound rest p cont).mashQ = rest ∧ (x.bound rest p cont).hasPrev = true ∧
    (x.bound rest p cont).lastPar = p.par ∧ (x.bound rest p cont).lastKeep = p.keep ∧ (x.bound rest p cont).inq = x.inq ∧
    (x.bound rest p cont).passes = x.passes ++ [p] := by
  simp only [Vat.bound, Vat.setBank, Vat.setGens]
  split_ifs <;> exact ⟨rfl, rfl, rfl, rfl, rfl, rfl⟩

theorem Vat.bound_initKb : if maHALF p.instr.word = 0
    then (x.bound rest p cont).initKb0 = p.kb0 ∧ (x.bound rest p cont).initKb1 = x.initKb1
    else (x.bound rest p cont).initKb1 = p.kb0 ∧ (x.bound rest p cont).initKb0 = x.initKb0 := by
  simp only [Vat.bound, Vat.setBank, Vat.setGens]
  split_ifs <;> exact ⟨rfl, rfl⟩

/-- A pass that continues its bank's grist leaves the banks alone; another makes its bank LIVE. -/
theorem Vat.bound_bank (q : Nat) : (x.bound rest p cont).bank q = (if cont then x else x.setBank p.par bLIVE).bank q := by
  cases cont <;> simp only [Vat.bound, Vat.setBank, Vat.setGens] <;> split_ifs <;> rfl

end

/-! ## A failed pass is reported (02 R68) -/

section
variable (s : State) (d v tag part : Nat)

@[simp] theorem State.gristFault_get_vat (e u : Nat) : (s.gristFault d v tag part).vat e u = s.vat e u := rfl

theorem State.gristFault_frame : s.gristFault d v tag part =
    { s with regs := (s.gristFault d v tag part).regs, reports := (s.gristFault d v tag part).reports } := rfl

variable {s} in
theorem State.gristFault_rf_gpmm (h : mrising s.regs = true) :
    (s.gristFault d v tag part).rf d (oVatRstat v) vatRstatGpmm = 1 :=
  State.rf_wf_same h d (oVatRstat v) vatRstatGpmm 1 (by decide)

end

/-- Settles O8, by the cases of the head of the MASH queue (`bind_draught`, `bind_ring`, `bind_skip`, `bind_aborted`, `bind_waits`)
and, at a MASH, of the grist state (`bindMash_binds`, `bindMash_fails`). -/
theorem passesBindByTheGristState : Obligations.PassesBindByTheGristState := by
  unfold Obligations.PassesBindByTheGristState
  constructor
  · intro s d v i rest q tag hs hv x w draught he hq ho hcol
    have hexec : exec (.passBind d v) s =
        .next ((if draught && ! s.ringHeld d then s.giveRing d i.tag else s).bindMash d v i rest q tag) := by
      rw [exec_passBind hv]
      cases hd : draught with
      | true =>
        rw [hd] at hcol
        obtain ⟨rfl, rfl⟩ := hcol
        rw [bind_draught he hq ho hd]
        cases s.ringHeld d <;> rfl
      | false =>
        rw [hd] at hcol
        obtain ⟨b, bs, hb, rfl, rfl⟩ := hcol
        rw [bind_ring he hq ho hd hb]
        rfl
    refine ⟨hexec, fun hring => ?_⟩
    have hnot : (draught && ! s.ringHeld d) = false := by rcases hring with h | h <;> simp [h]
    rw [hnot, if_neg Bool.false_ne_true] at hexec
    intro m
    rw [hexec]
    have hvat := State.canon_vats hs
    have hregs := State.canon_regs_rising hs
    constructor
    · intro cont r hc hr hp ht hm kb p
      rw [bindMash_binds (rest := rest) hc hr hp ht hm]
      refine goesOn_next ?_
      simp only [State.vat_same hvat]
      obtain ⟨hq', hprev, hpar, hkeep, hinq, hpass⟩ := x.bound_pass rest p cont
      have hbank := x.bound_bank rest p cont
      refine ⟨hq', hprev, hpar, hkeep, hinq, hpass, x.bound_initKb rest p cont, ?_, ?_, ?_, fun e u hk => State.vat_ne hvat _ hk, rfl⟩
      · rintro rfl
        exact (hbank q).trans (x.bank_setBank_same q bLIVE)
      · rintro rfl
        exact hbank q
      · intro h2
        refine (hbank (1 - q)).trans ?_
        cases cont
        · exact x.bank_setBank_other bLIVE h2
        · rfl
    · intro hf
      rw [bindMash_fails hf]
      refine goesOn_next ?_
      simp only [State.gristFault_get_vat, State.vat_same hvat]
      refine ⟨rfl, rfl, rfl, rfl, rfl, State.gristFault_rf_gpmm d v i.tag i.part hregs,
        fun e u hk => State.vat_ne hvat _ hk, rfl, State.gristFault_frame ..⟩
  · intro s d v i rest b bs hs hv x
    have hvat := State.canon_vats hs
    have hregs := State.canon_regs_rising hs
    rw [exec_passBind hv]
    refine ⟨fun he hq ho hb => ?_, fun he hq hb ha ht => ?_, fun h => ?_⟩
    · intro left
      rw [bind_skip he hq ho hb]
      let p : Pass := { kind := .skip, instr := i, tag := b.tag, keep := decide (left ≠ 1) }
      have hskip : s.bindSkip d v i rest b.tag = if b.tag = i.tag then s.putVat d v (x.skipped i rest left p)
        else (s.putVat d v (x.skipped i rest left p)).wf d (oVatRstat v) vatRstatGpmm 1 := rfl
      refine goesOn_next ?_
      rw [hskip]
      by_cases ht : b.tag = i.tag
      · simp only [if_pos ht, State.vat_same hvat]
        exact ⟨rfl, rfl, rfl, ⟨p, rfl, rfl, rfl, rfl, rfl⟩, rfl, rfl, rfl⟩
      · have hy : ∀ k, ((s.putVat d v (x.skipped i rest left p)).wf d (oVatRstat v) vatRstatGpmm k).vat d v =
            x.skipped i rest left p :=
          fun _ => State.vat_same hvat ..
        simp only [if_neg ht, hy]
        exact ⟨rfl, rfl, rfl, ⟨p, rfl, rfl, rfl, rfl, rfl⟩, State.rf_wf_same hregs d _ _ 1 (by decide), rfl, rfl⟩
    · rw [bind_aborted he hq hb ha ht]
      refine goesOn_next ?_
      simp only [State.vat_same hvat]
      exact ⟨rfl, ⟨_, rfl, rfl, rfl⟩, rfl⟩
    · rw [bind_waits h]

end Sys2Proof.Machine
end

section
/-!
PROOFS. The sparge ring: the tally row (02 R98, 15 R646).
-/
namespace Sys2Proof.Machine

/-! ## The tally row -/

theorem exec_tallyCheck {s : State} {d v : Nat} (hv : s.hasVat d v = true) : exec (.tallyCheck d v) s = .next (s.tallyStep d v) := by
  show execTallyCheck d v s = _
  simp [execTallyCheck, hv]

section
variable {s : State} {d v i j : Nat}

/-- What the tally row does with column c of pass p, whose tally products are ts, in the vat x; y is x with the column checked. -/
def State.tallied (s : State) (d v : Nat) (p : Pass) (c : Col) (ts : List Nat) (x y : Vat) : State :=
  if c.psn then s.putVat d v { y with psnskip := stopAt 32 (x.psnskip + ts.length) }
  else if c.nan then s.putVat d v { y with nanskip := stopAt 32 (x.nanskip + ts.length) }
  else tallyCompare d v p c (s.putVat d v y) ((wortCols p.instr.word c.n).zip (ts.zip [c.res0, c.res1]))

/-- Column j of pass i is the oldest whose tally result is not known. -/
def Vat.untallied (x : Vat) (i j : Nat) (p : Pass) (c : Col) : Prop :=
  findIdxFrom (fun p => p.kind = .mash && p.cols.any (fun c => ! c.checked)) 0 x.passes = some i ∧ x.passes.getD i {} = p ∧
    findIdxFrom (fun c => ! c.checked) 0 p.cols = some j ∧ p.cols.getD j {} = c

theorem tallyStep_compares {p : Pass} {c : Col} {ts : List Nat} (h : (s.vat d v).untallied i j p c) (hf : c.allFormed = true)
    (ht : c.tally = some ts ∨ (c.tally = none ∧ (s.vat d v).tallyReady p = true ∧ ts = (s.vat d v).tallyProds p c)) :
    s.tallyStep d v =
      let x := s.vat d v
      let z := (s.tallied d v p c ts x (x.setCol i j { c with checked := true })).parityMismatch d v p c
      z.putSettled d v (z.vat d v) := by
  obtain ⟨hi, rfl, hj, rfl⟩ := h
  unfold State.tallyStep
  simp only [hi, hj, hf]
  rcases ht with ht | ⟨ht, hr, rfl⟩
  · simp only [ht]; rfl
  · simp only [ht, hr]; rfl

theorem tallyStep_waits {p : Pass} {c : Col} (h : (s.vat d v).untallied i j p c)
    (hw : c.allFormed = false ∨ (c.tally = none ∧ (s.vat d v).tallyReady p = false)) : s.tallyStep d v = s := by
  obtain ⟨hi, rfl, hj, rfl⟩ := h
  unfold State.tallyStep
  simp only [hi, hj]
  rw [if_pos]
  rcases hw with hf | ⟨ht, hr⟩
  · simp only [hf]; exact .inl rfl
  · simp only [ht, hr]; exact .inr ⟨rfl, rfl⟩

end

/-- A pass column forms one wort column, or two: with one tally product, the first is compared. -/
theorem zip_wortCols_single (w : InstrWord) (n a b c : Nat) :
    (wortCols w n).zip ([a].zip [b, c]) = [((wortCols w n).getD 0 0, a, b)] := by
  unfold wortCols
  dsimp only
  split <;> rfl

/-- y with one more column counted as checked. -/
def Vat.countChecked (y : Vat) : Vat := { y with checked := stopAt 32 (y.checked + 1) }

/-- y with one more mismatch counted. -/
def Vat.countMismatch (y : Vat) : Vat := { y with mismatch := stopAt 16 (y.mismatch + 1) }

section
variable {s : State} {d v : Nat} {p : Pass} {c : Col} {a : Nat} {x y : Vat}
  (h : mrising s.vats = true) (hp : c.psn = false) (hn : c.nan = false)
include h hp hn

theorem State.tallied_equal (ha : a = c.res0) : s.tallied d v p c [a] x y = s.putVat d v y.countChecked := by
  simp only [State.tallied, hp, hn, zip_wortCols_single, tallyCompare, State.vat_same h, State.putVat_putVat h, ha, if_true,
    if_neg Bool.false_ne_true]
  rfl

/-- A mismatch of one wort column poisons it in every row, counts, and is reported (15 R646). -/
theorem State.tallied_mismatch (hm : mrising s.marks = true) (ha : a ≠ c.res0) :
    ∃ m, s.tallied d v p c [a] x y = ((s.putVat d v y.countChecked.countMismatch).withMarks m).report
        { die := d, tag := p.instr.tag, part := p.instr.part, cls := 0x05, island := v, synd := a + c.res0 * 2 ^ 16,
          inoc := c.ino || y.struck p.par } ∧
      ∀ r, r < 128 →
        (s.withMarks m).mark (.wort d v (maHALF p.instr.word)) (wortOff r ((wortCols p.instr.word c.n).getD 0 0)) = .poison := by
  have hm' : mrising (s.putVat d v y.countChecked).marks = true := hm
  obtain ⟨m, he, hpz⟩ := poisonColumn_marks hm' d v (maHALF p.instr.word) ((wortCols p.instr.word c.n).getD 0 0) 128
  refine ⟨m, ?_, hpz⟩
  simp only [State.tallied, hp, hn, zip_wortCols_single, tallyCompare, State.vat_same h, State.putVat_putVat h, if_neg ha,
    if_neg Bool.false_ne_true]
  rw [show ({ y with checked := stopAt 32 (y.checked + 1) } : Vat) = y.countChecked from rfl, State.tallyMismatch, List.foldl_cons,
    List.foldl_nil, he]
  simp only [State.withMarks_get_vat, State.vat_same h, State.putVat_withMarks, State.putVat_putVat h]
  rfl

end

/-- Settles O11, by the outcomes of one comparison (`tallyStep_compares`, `tallyStep_waits`) and what a mismatch does to the column's
codewords (`State.tallied_mismatch`). -/
theorem tallyCheckComparesOneColumn : Obligations.TallyCheckComparesOneColumn := by
  unfold Obligations.TallyCheckComparesOneColumn
  constructor
  · intro s d v a p c hs hv hps hk hcs hch hf ht hbad x
    have hvat := State.canon_vats hs
    have hmarks := State.canon_marks_rising hs
    have hp0 : (s.vat d v).passes.getD 0 {} = p := by rw [hps]; rfl
    have hc0 : p.cols.getD 0 {} = c := by rw [hcs]; rfl
    have hu : x.untallied 0 0 p c := by
      refine ⟨?_, hp0, ?_, hc0⟩
      · simp [x, hps, findIdxFrom, hk, hcs, hch]
      · simp [findIdxFrom, hcs, hch]
    have hstep := tallyStep_compares (ts := [a]) hu hf (.inl ht)
    obtain ⟨hyc, -, hym, -, hys⟩ := x.setCol_counts 0 0 { c with checked := true }
    simp only [State.parityMismatch, hbad] at hstep
    generalize (s.vat d v).setCol 0 0 { c with checked := true } = y at hstep hyc hym hys
    rw [exec_tallyCheck hv, hstep]
    refine ⟨fun h => ?_, fun h hn => ?_, fun h hn ha => ?_, fun h hn ha => ?_⟩
    · simp only [State.tallied, h, if_true, List.length_singleton]
      rw [State.putSettled_putVat hvat]
      refine goesOn_next ?_
      rw [State.vat_same hvat, Vat.settled_psnskip, Vat.settled_checked]
      exact ⟨rfl, hyc, rfl⟩
    · simp only [State.tallied, h, hn, if_true, if_neg Bool.false_ne_true, List.length_singleton]
      rw [State.putSettled_putVat hvat]
      refine goesOn_next ?_
      rw [State.vat_same hvat, Vat.settled_nanskip, Vat.settled_checked]
      exact ⟨rfl, hyc, rfl⟩
    · rw [State.tallied_equal hvat h hn ha, State.putSettled_putVat hvat]
      refine goesOn_next ?_
      rw [State.vat_same hvat, Vat.settled_checked, Vat.settled_mismatch]
      exact ⟨congrArg (fun k => stopAt 32 (k + 1)) hyc, hym, rfl⟩
    · obtain ⟨m, hmis, hpz⟩ := State.tallied_mismatch (d := d) (v := v) (x := x) (y := y) hvat h hn hmarks ha
      rw [hmis, State.report_get_vat, State.withMarks_get_vat, State.putSettled_report, State.putSettled_withMarks,
        State.putSettled_putVat hvat, hys p.par]
      refine goesOn_next ?_
      rw [State.report_get_vat, State.withMarks_get_vat, State.vat_same hvat, Vat.settled_checked, Vat.settled_mismatch]
      exact ⟨congrArg (fun k => stopAt 32 (k + 1)) hyc, congrArg (fun k => stopAt 16 (k + 1)) hym, hpz, rfl, rfl⟩
  · intro s d v i j ts hv x p c hi hj
    rw [exec_tallyCheck hv]
    refine ⟨fun hf ht => ?_, fun hw => ?_⟩
    · intro y u z
      rw [tallyStep_compares ⟨hi, rfl, hj, rfl⟩ hf ht]
      rfl
    · rw [tallyStep_waits ⟨hi, rfl, hj, rfl⟩ hw]
end Sys2Proof.Machine
end

section
/-!
PROOFS. Memory: bytes stored and read back, and clean codewords.
-/
namespace Sys2Proof.Machine

/-! ## Bytes -/

theorem toBytes_length (k n : Nat) : (toBytes k n).length = k := by
  induction k generalizing n with
  | zero => rfl
  | succ k ih => rw [toBytes, List.length_cons, ih]

theorem ofBytes_toBytes (k n : Nat) : ofBytes (toBytes k n) = n % 256 ^ k := by
  induction k generalizing n with
  | zero => rw [toBytes, ofBytes, Nat.pow_zero, Nat.mod_one]
  | succ k ih =>
    rw [toBytes, ofBytes, ih, BitVec.toNat_ofNat, Nat.pow_succ' (m := 256), Nat.mod_mul (a := 256)]

/-! ## The byte store: what a location reads after bytes are stored -/

theorem Region.loc_eq_iff (r g : Region) (o u : Nat) : r.loc o = g.loc u ↔ r.num = g.num ∧ o % 2 ^ 64 = u % 2 ^ 64 := by
  unfold Region.loc
  omega

section
variable {r : Region} {m : List Host.Cell}

/-- Locations that no byte is stored to keep their value. -/
theorem mget_pokeMem_outside (h : mrising m = true) {o k : Nat} {bs : List Byte} (hk : ∀ i, i < bs.length → k ≠ r.loc (o + i)) :
    mget memDefault (pokeMem r m o bs) k = mget memDefault m k := by
  induction bs generalizing m o with
  | nil => rfl
  | cons b bs ih =>
    rw [pokeMem, ih (mrising_mset _ _ h), mget_mset_ne _ h (show k ≠ r.loc o from hk 0 (Nat.zero_lt_succ _))]
    intro i hi
    rw [Nat.add_assoc, Nat.add_comm 1]
    exact hk (i + 1) (Nat.succ_lt_succ hi)

end

/-- Bytes stored are read back. -/
theorem State.peeks_poke {s : State} (h : mrising s.mem = true) (r : Region) (o : Nat) (bs : List Byte) (ho : o + bs.length ≤ 2 ^ 64) :
    (s.poke r o bs).peeks r o bs.length = bs := by
  induction bs generalizing s o with
  | nil => rfl
  | cons b bs ih =>
    rw [List.length_cons] at ho
    have hrest : s.poke r o (b :: bs) = (s.poke r o [b]).poke r (o + 1) bs := rfl
    have hr : mrising (s.poke r o [b]).mem = true := mrising_mset _ _ h
    rw [List.length_cons, State.peeks, hrest, ih hr (o + 1) (by omega)]
    congr 1
    refine (mget_pokeMem_outside hr fun i hi => ?_).trans (mget_mset_same _ _ h)
    rw [Ne, Region.loc_eq_iff]
    omega

theorem State.peekN_poke {s : State} (h : mrising s.mem = true) (r : Region) (o k n : Nat) (ho : o + k ≤ 2 ^ 64) :
    (s.poke r o (toBytes k n)).peekN r o k = n % 256 ^ k := by
  have hb := State.peeks_poke h r o (toBytes k n) (by rwa [toBytes_length])
  rw [toBytes_length] at hb
  rw [State.peekN, hb, ofBytes_toBytes]

theorem State.peek_poke_outside {s : State} (h : mrising s.mem = true) {r g : Region} {o u : Nat} {bs : List Byte}
    (ho : o + bs.length ≤ 2 ^ 64) (hu : ¬ (g.num = r.num ∧ o ≤ u % 2 ^ 64 ∧ u % 2 ^ 64 < o + bs.length)) :
    (s.poke r o bs).peek g u = s.peek g u := by
  refine mget_pokeMem_outside h fun i hi => ?_
  rw [Ne, Region.loc_eq_iff]
  omega

/-! ## Reads and writes of clean codewords (15 R634, 08 R329) -/

section
variable {s : State} {r : Region}

theorem State.markRead_clean (hi : ∀ o, s.inocReads r o = false) (hm : ∀ o, s.mark r o = .clean) (o : Nat) :
    s.markRead r o = .clean := by
  rw [State.markRead, hi, hm]; rfl

theorem State.decodeCw_clean (hi : ∀ o, s.inocReads r o = false) (hm : ∀ o, s.mark r o = .clean) (o : Nat) :
    s.decodeCw r o = s := by
  rw [State.decodeCw, State.markRead_clean hi hm, hi]; rfl

theorem State.decodeSacks_clean (hi : ∀ o, s.inocReads r o = false) (hm : ∀ o, s.mark r o = .clean) (o n : Nat) :
    s.decodeSacks r o n = s := by
  induction n generalizing o with
  | zero => rfl
  | succ n ih => rw [State.decodeSacks, State.decodeCw_clean hi hm, State.decodeCw_clean hi hm, ih]

theorem State.readCheck_clean (hi : ∀ o, s.inocReads r o = false) (hm : ∀ o, s.mark r o = .clean) (o n : Nat) :
    s.readCheck r o n = s :=
  State.decodeSacks_clean hi hm ..

/-- A part of one clean codeword is written as it is. -/
theorem State.write_clean (hi : ∀ o, s.inocReads r o = false) (hm : ∀ o, s.mark r o = .clean) (hr : r ≠ .host)
    {o : Nat} {bs : List Byte} (hb : bs ≠ []) (hl : o % 32 + bs.length ≤ 32) (hn : bs.length < 32) :
    s.write r o bs = s.poke r o bs := by
  obtain ⟨b, bs, rfl⟩ := List.exists_cons_of_ne_nil hb
  have hk : (b :: bs).length ≤ 32 - o % 32 := by omega
  have hcw : s.writeCw r o (b :: bs) = s.poke r o (b :: bs) := by
    have hp : s.readsPoison r o = false := by rw [State.readsPoison, State.markRead_clean hi hm]
    rw [State.writeCw, if_neg (by omega), State.decodeCw_clean hi hm, hp]
    simp only [Bool.false_eq_true, if_false, hm, reduceCtorEq]
  have hz : (b :: bs).length / 32 + 2 = 2 := by omega
  rw [State.write, if_neg hr, hz]
  simp only [writeCws, List.take_of_length_le hk, List.drop_of_length_le hk, hcw]

end
end Sys2Proof.Machine
end

section
/-!
PROOFS. The sparge ring: the resolver of a row and its block sums (02 R92, R94, R95).
-/
namespace Sys2Proof.Machine

/-! ## The resolver of a row (02 R92, R94) -/

theorem exec_wortWrite {s : State} {d v r : Nat} (hv : s.hasVat d v = true) (hr : r < 128) :
    exec (.wortWrite d v r) s = .next (s.wortStep d v r) := by
  show execWortWrite d v r s = _
  simp [execWortWrite, hv, hr]

section
variable {s : State} {d v r i j : Nat}

/-- The sums bs of row r of column c of pass p are at hand: held, or formed with the state u; k is the column that has formed them. -/
def State.sumsReady (s : State) (d v r i j : Nat) (p : Pass) (c : Col) (u : State) (bs : List BSum) (k : Col) : Prop :=
  (mfind c.held r = some bs ∧ u = s ∧ k = c) ∨
    (mfind c.held r = none ∧ (s.vat d v).rowReady p r = true ∧ (s.vat d v).reached i j r = true ∧
      (bs, u) = s.inocSum d v r (s.blockSums d v p c r) ∧ k = { c.addSums p r bs with ino := c.ino || s.sumHit d v r })

/-- The state once the sums bs of row r of column c of pass p are written: k is the column that has formed them, in state u. -/
def State.sumsWritten (s u : State) (d v r i j : Nat) (p : Pass) (c k : Col) (bs : List BSum) : State :=
  let first := bs.any (fun b => decide (b = .poisoned)) && ! c.told
  let w := wortAdds d v p r c.n 0
    (u.putVat d v ((s.vat d v).setCol i j { k with wr := setRow c.wr r true, held := mdel c.held r, told := c.told || first }))
    ((wortCols p.instr.word c.n).zip bs)
  let z := if first then w.report
      { poison := true, die := d, tag := p.instr.tag, part := p.instr.part, cls := 0x04, island := v, sub := r, cause := 4,
        addr := if c.src = 0 then mget (fun _ => 0) (s.vat d v).psnSrc (p.par * 128 + r) else c.src }
    else w
  z.putSettled d v (z.vat d v)

theorem wortStep_writes {u : State} {bs : List BSum} {k : Col} {p : Pass} {c : Col} (h : (s.vat d v).nextCol r = some (i, j))
    (hp : (s.vat d v).passes.getD i {} = p) (hc : p.cols.getD j {} = c)
    (hd : (s.vat d v).drawAhead (maHALF p.instr.word) p.instr.seq r = false) (hs : s.sumsReady d v r i j p c u bs k) :
    s.wortStep d v r = s.sumsWritten u d v r i j p c k bs := by
  subst hp hc
  unfold State.wortStep
  simp only [h, hd]
  rcases hs with ⟨hh, rfl, rfl⟩ | ⟨hh, hr, hx, hb, rfl⟩
  · simp only [hh]; rfl
  · simp only [hh, hr, hx]
    simp only [State.formSums, ← hb]
    rfl

theorem wortStep_waits {p : Pass} {c : Col} (h : (s.vat d v).nextCol r = some (i, j))
    (hp : (s.vat d v).passes.getD i {} = p) (hc : p.cols.getD j {} = c)
    (hw : (s.vat d v).drawAhead (maHALF p.instr.word) p.instr.seq r = true ∨
      (mfind c.held r = none ∧ ((s.vat d v).rowReady p r = false ∨ (s.vat d v).reached i j r = false))) : s.wortStep d v r = s := by
  subst hp hc
  unfold State.wortStep
  simp only [h]
  rw [if_pos]
  rcases hw with hd | ⟨hh, hr | hx⟩
  · exact .inr hd
  · simp only [hh, hr]; exact .inl ⟨rfl, rfl⟩
  · simp only [hh, hx, Bool.and_false]; exact .inl ⟨rfl, rfl⟩

end

/-! ## One block sum enters its wort entry (02 R92, R95; 04 R174) -/

section
variable {s : State} {d v : Nat}

theorem inocReads_wort {h : Nat} (hp : (s.inoc d).point ≠ 3) (o : Nat) : s.inocReads (.wort d v h) o = false := by
  show ((decide ((s.inoc d).point = 3) && _) && _) = false
  rw [decide_eq_false hp, Bool.false_and, Bool.false_and]

/-- Without free contents a wort entry is what its bytes hold. -/
theorem State.wortAt_eq_peekN (h0 : (s.vat d v).undef0 = none) (h1 : (s.vat d v).undef1 = none) (h r c : Nat) :
    s.wortAt d v h r c = BitVec.ofNat 32 (s.peekN (.wort d v h) (wortOff r c) 4) := by
  unfold State.wortAt
  split_ifs <;> simp only [h0, h1]

theorem wortOff_fits {r c : Nat} (hr : r < 128) (hc : c < 512) : wortOff r c % 32 + 4 ≤ 32 ∧ wortOff r c + 4 ≤ 2 ^ 64 := by
  unfold wortOff
  omega

/-- An entry of a clean wort is written by its four bytes. -/
theorem State.wortPut_clean {h r c : Nat} (hm : ∀ o, s.mark (.wort d v h) o = .clean) (hp : (s.inoc d).point ≠ 3)
    (h0 : (s.vat d v).undef0 = none) (h1 : (s.vat d v).undef1 = none) (hr : r < 128) (hc : c < 512) (w : Word32) :
    s.wortPut d v h r c w = s.poke (.wort d v h) (wortOff r c) (toBytes 4 w.toNat) := by
  have hw : s.write (.wort d v h) (wortOff r c) (toBytes 4 w.toNat) = s.poke (.wort d v h) (wortOff r c) (toBytes 4 w.toNat) :=
    State.write_clean (inocReads_wort hp) hm (by nofun) (by rw [← List.length_pos_iff, toBytes_length]; decide)
      (by rw [toBytes_length]; exact (wortOff_fits hr hc).1) (by rw [toBytes_length]; decide)
  unfold State.wortPut
  rw [hw]
  simp only [State.poke_get_vat, h0, h1, Option.isSome_none, if_neg Bool.false_ne_true, ite_self]

theorem State.wortAt_poke {h r c : Nat} (hmem : mrising s.mem = true) (h0 : (s.vat d v).undef0 = none) (h1 : (s.vat d v).undef1 = none)
    (hr : r < 128) (hc : c < 512) (w : Word32) :
    (s.poke (.wort d v h) (wortOff r c) (toBytes 4 w.toNat)).wortAt d v h r c = w := by
  rw [State.wortAt_eq_peekN (s := s.poke ..) h0 h1, State.peekN_poke hmem _ _ _ _ (wortOff_fits hr hc).2,
    show 256 ^ 4 = 2 ^ 32 from rfl, Nat.mod_eq_of_lt w.isLt, BitVec.ofNat_toNat, BitVec.setWidth_eq]

/-- A sum that is not poisoned enters a clean wort as its format's update of the one entry. -/
theorem State.wortAdd_clean {p : Pass} {r n sub c : Nat} {b : BSum} (hb : b ≠ .poisoned)
    (hm : ∀ o, s.mark (.wort d v (maHALF p.instr.word)) o = .clean) (hp : (s.inoc d).point ≠ 3) (hq : (s.inoc d).point ≠ 0x14)
    (h0 : (s.vat d v).undef0 = none) (h1 : (s.vat d v).undef1 = none) (hr : r < 128) (hc : c < 512) :
    s.wortAdd d v p r n sub c b = s.poke (.wort d v (maHALF p.instr.word)) (wortOff r c) (toBytes 4
      (wortUpdate (decide (maFMT p.instr.word = 1)) (maINIT p.instr.word && firstOfEntry p.instr.word n) (bsUnit p)
        (s.wortAt d v (maHALF p.instr.word) r c) b (s.wortRnd d v p r n sub)).toNat) := by
  have hread := State.readCheck_clean (inocReads_wort (v := v) (h := maHALF p.instr.word) hp) hm (wortOff r c / 32 * 32) 32
  unfold State.wortAdd
  simp only [hread, State.wortPut_clean hm hp h0 h1 hr hc, hq, false_and, if_false]

end

/-- Settles O9: the resolver by what one column owes the row (`wortStep_writes`, `wortStep_waits`), one block sum by the bytes of its
wort entry. -/
theorem blockSumsReachTheirWort : Obligations.BlockSumsReachTheirWort := by
  unfold Obligations.BlockSumsReachTheirWort
  constructor
  · intro s d v r i j hv hr x p c h hn
    rw [exec_wortWrite hv hr]
    refine ⟨fun u bs k hd hs => ?_, fun hw => ?_⟩
    · intro first w z
      rw [wortStep_writes hn rfl rfl hd hs]
      rfl
    · rw [wortStep_waits hn rfl rfl hw]
  · intro s d v p r n sub c b hs hr hc _ _ h hb hm hp hq h0 h1 t
    have hmem := State.canon_mem_rising hs
    have hfit := (wortOff_fits hr hc).2
    have ht : t = s.poke (.wort d v h) (wortOff r c) _ := State.wortAdd_clean hb hm hp hq h0 h1 hr hc
    rw [ht]
    refine ⟨?_, fun g o hout => ?_, rfl⟩
    · exact State.wortAt_poke hmem h0 h1 hr hc _
    · exact State.peek_poke_outside hmem (by rwa [toBytes_length]) (by rwa [toBytes_length])
end Sys2Proof.Machine
end

section
/-!
PROOFS. The sparge ring: releases and the draw unit (02 R65, R71, R93, R94; 03 R126, R147).
-/
namespace Sys2Proof.Machine

/-! ## Releases (02 R65, R71) -/

theorem exec_gristRowRelease {s : State} {d v r : Nat} (hv : s.hasVat d v = true) (hr : r < 128) :
    exec (.gristRowRelease d v r) s = .next (s.rowRelease d v r) := by
  show execGristRowRelease d v r s = _
  simp [execGristRowRelease, hv, hr]

theorem exec_tallyEntryRelease {s : State} {d v : Nat} (hv : s.hasVat d v = true) :
    exec (.tallyEntryRelease d v) s = .next (s.tallyRelease d v) := by
  show execTallyEntryRelease d v s = _
  simp [execTallyEntryRelease, hv]

/-- Row r is the first that its bank, or its quadrant, releases. -/
def Pass.topRow (p : Pass) (r : Nat) : Prop := if isDraught p.brec.shape then r % 32 = 0 else r = 0

section
variable {s : State} {d v i : Nat} {p : Pass}

theorem rowRelease_frees {r : Nat} (h : (s.vat d v).oldestReleasing (fun g => ! g.rel.getLsbD r) = some (i, p))
    (hr : (s.vat d v).rowReady p r = true) (he : (s.vat d v).endPassed i r = true)
    (ht : p.topRow r ∨ ((s.vat d v).genOf p).rel.getLsbD (r - 1) = true) :
    s.rowRelease d v r = (s.holdSums d v p.par p.gen r).putSettled d v
      ((((s.holdSums d v p.par p.gen r).vat d v).mapGen p.par p.gen
        (fun g => { g with rel := setRow g.rel r true })).tidyGens p.par) := by
  unfold State.rowRelease
  simp only [h, hr, he]
  rw [if_neg]
  rcases ht with ht | ht
  · simp [show (if isDraught p.brec.shape = true then r % 32 = 0 else r = 0) from ht]
  · simp [ht]

theorem rowRelease_waits {r : Nat} (h : (s.vat d v).oldestReleasing (fun g => ! g.rel.getLsbD r) = some (i, p))
    (hw : (s.vat d v).rowReady p r = false ∨ (s.vat d v).endPassed i r = false ∨
      (¬ p.topRow r ∧ ((s.vat d v).genOf p).rel.getLsbD (r - 1) = false)) : s.rowRelease d v r = s := by
  unfold State.rowRelease
  simp only [h]
  rw [if_pos]
  rcases hw with hr | he | ⟨ht, hg⟩
  · exact .inl (by rw [hr]; rfl)
  · exact .inr (.inr (by rw [he]; rfl))
  · refine .inr (.inl ?_)
    simp [hg, show ¬ (if isDraught p.brec.shape = true then r % 32 = 0 else r = 0) from ht]

/-- x with the tally products captured that the columns of the grist of pass p still need. -/
def Vat.captureTallies (x : Vat) (p : Pass) : Vat :=
  { x with passes := x.passes.map (fun (o : Pass) => if o.kind = .mash ∧ o.par = p.par ∧ o.gen = p.gen then
      { o with cols := o.cols.map (fun (c : Col) =>
          if c.checked || c.tally.isSome then c else { c with tally := some (x.tallyProds o c) }) } else o) }

/-- x with the tally entries of the grist of pass p released. -/
def Vat.talliesReleased (x : Vat) (p : Pass) : Vat :=
  (x.captureTallies p).mapGen p.par p.gen (fun g => { g with trel := true })

theorem tallyRelease_frees (h : (s.vat d v).oldestReleasing (fun g => ! g.trel) = some (i, p))
    (hr : (relRows p.brec).all (fun r => ((s.vat d v).genOf p).rel.getLsbD r) = true) (ht : (s.vat d v).tallyReady p = true)
    (he : s.endAtTally d v i = true) :
    s.tallyRelease d v = s.putSettled d v ((((s.vat d v).talliesReleased p).bankAfterRelease p.par).tidyGens p.par) := by
  unfold State.tallyRelease
  simp only [h, hr, ht, he]
  rfl

theorem tallyRelease_waits (h : (s.vat d v).oldestReleasing (fun g => ! g.trel) = some (i, p))
    (hw : (relRows p.brec).all (fun r => ((s.vat d v).genOf p).rel.getLsbD r) = false ∨ (s.vat d v).tallyReady p = false ∨
      s.endAtTally d v i = false) : s.tallyRelease d v = s := by
  unfold State.tallyRelease
  simp only [h]
  rw [if_pos]
  rcases hw with hr | ht | he
  · exact .inl (by rw [hr]; rfl)
  · exact .inr (.inl (by rw [ht]; rfl))
  · exact .inr (.inr (by rw [he]; rfl))

end

/-! ### The bank after a release -/

section
variable (x : Vat) (q : Nat)

theorem Vat.bank_setGens (k : Nat) (g : List Gen) : (x.setGens k g).bank q = x.bank q := by
  unfold Vat.setGens Vat.bank
  split_ifs <;> rfl

theorem Vat.gens_setGens_same (g : List Gen) : (x.setGens q g).gens q = g := by
  unfold Vat.setGens Vat.gens
  split_ifs <;> rfl

theorem Vat.steeping_setGens (k : Nat) (g : List Gen) : (x.setGens k g).steeping q = x.steeping q := by
  unfold Vat.setGens
  split_ifs <;> rfl

@[simp] theorem Vat.settled_bank : x.settled.bank q = x.bank q := rfl

/-- A bank whose generations have all released their tally entries is STEEPING where a STEEP to it is accepted, else RELEASED. -/
theorem Vat.bank_bankAfterRelease (h : (x.gens q).all (fun g => g.trel) = true) :
    (x.bankAfterRelease q).bank q = if x.steeping q then bSTEEPING else bRELEASED := by
  rw [Vat.bankAfterRelease, if_pos h, Vat.bank_setBank_same]

/-- A pass that alone uses its bank gives the bank up with its tally entries. -/
theorem Vat.bank_talliesReleased {p : Pass} (h : (x.gens p.par).map (fun g => g.seq) = [p.gen]) :
    (((x.talliesReleased p).bankAfterRelease p.par).tidyGens p.par).bank p.par = if x.steeping p.par then bSTEEPING else bRELEASED := by
  rw [Vat.tidyGens, Vat.bank_setGens, Vat.bank_bankAfterRelease, Vat.talliesReleased, Vat.mapGen, Vat.steeping_setGens]
  · rfl
  · rw [Vat.talliesReleased, Vat.mapGen, Vat.gens_setGens_same]
    obtain ⟨g, hg, hs⟩ := List.map_eq_singleton_iff.mp h
    rw [show (x.captureTallies p).gens p.par = x.gens p.par from rfl, hg]
    simp [hs]

end

/-! ## The draw unit (03 R126, R147; 02 R93, R94) -/

theorem exec_drawRowRead {s : State} {d v : Nat} (hv : s.hasVat d v = true) : exec (.drawRowRead d v) s = .next (s.drawStep d v) := by
  show execDrawRowRead d v s = _
  simp [execDrawRowRead, hv]

section
variable {s : State} {d v : Nat} {i : VInstr} {rest : List VInstr}

/-- The draw i waits for the next wort row. -/
def Vat.drawWaits (x : Vat) (i : VInstr) : Prop :=
  x.owesRow (drHALF i.word) i.seq (drRow i.word x.drawPtr) = true ∨ (x.drawPtr = 0 ∧ x.talliesKnown (drHALF i.word) i.seq = false)

theorem drawStep_waits (hq : (s.vat d v).drawQ = i :: rest) (hw : (s.vat d v).drawWaits i) : s.drawStep d v = s := by
  unfold State.drawStep
  simp only [hq]
  rw [if_pos]
  rcases hw with hw | ⟨hn, ht⟩
  · exact .inl hw
  · exact .inr ⟨hn, by rw [ht]; rfl⟩

/-- The state in which draw i has decoded its next wort row, and taken free values for it where its results are lost. -/
def State.drawDecoded (s : State) (d v : Nat) (i : VInstr) : State :=
  let u := s.wortDecode d v i.word (drRow i.word (s.vat d v).drawPtr)
  if (s.vat d v).lostDraws.contains i.seq then { u with freeCtr := u.freeCtr + 512 } else u

/-- The row draw i reads. -/
def State.drawnRow (s : State) (d v : Nat) (i : VInstr) : List (Word32 × Bool) :=
  let r := drRow i.word (s.vat d v).drawPtr
  let u := s.wortDecode d v i.word r
  if (s.vat d v).lostDraws.contains i.seq then u.lostRow (u.wortRow d v i.word r) else u.wortRow d v i.word r

/-- The output exponent of draw i. -/
def State.drawExponent (s : State) (d v : Nat) (i : VInstr) : Int :=
  (s.vat d v).drawExp.getD
    (sx 8 ((s.wortDecode d v i.word (drRow i.word (s.vat d v).drawPtr)).rf d (oVatScale v (wbits i.word 53 4)) vatScaleExp))

/-- The vat once draw i, ahead of `rest`, has read its next row. -/
def State.drawAdvanced (s : State) (d v : Nat) (i : VInstr) (rest : List VInstr) : Vat :=
  let x := s.vat d v
  let n := x.drawPtr
  let y := ((s.wortDecode d v i.word (drRow i.word n)).vat d v).setAccum (drHALF i.word)
    (setRow (x.accum (drHALF i.word)) (drRow i.word n) (x.accumAfter (drHALF i.word) i.seq))
  if n + 1 = drSteps i.word then { y with drawQ := rest, drawPtr := 0, drawExp := none, done := y.done ++ [i] }
  else { y with drawPtr := n + 1, drawExp := some (s.drawExponent d v i) }

/-- The sum of a fold with the row draw i has read. -/
def State.drawFolded (s : State) (d v : Nat) (i : VInstr) : List (Word32 × Bool) :=
  let x := s.vat d v
  if x.drawPtr / drROWS i.word = 0 then s.drawnRow d v i
  else ((x.foldRow (x.drawPtr % drROWS i.word) (drNCOL i.word)).zip (s.drawnRow d v i)).map
    (fun p => (foldAdd (drWFMT i.word) p.1.1 p.2.1, p.1.2 || p.2.2))

theorem drawStep_reads (hq : (s.vat d v).drawQ = i :: rest) (hw : ¬ (s.vat d v).drawWaits i) :
    s.drawStep d v =
      let n := (s.vat d v).drawPtr
      let z := s.drawDecoded d v i
      let y := s.drawAdvanced d v i rest
      if drFOLD i.word = false then (z.putVat d v y).drawOut d v i (drRow i.word n) (s.drawExponent d v i) (s.drawnRow d v i)
      else if n / drROWS i.word = 3 then
        (z.putVat d v (y.putFold (n % drROWS i.word) (List.replicate (drNCOL i.word) (0, false)))).drawOut d v i (n % drROWS i.word)
          (s.drawExponent d v i) (s.drawFolded d v i)
      else z.putVat d v (y.putFold (n % drROWS i.word) (s.drawFolded d v i)) := by
  unfold State.drawStep
  simp only [hq]
  rw [if_neg]
  · simp only [State.drawDecoded, State.drawnRow, State.drawFolded, State.drawAdvanced, State.drawExponent, decide_eq_true_eq]
    cases (s.vat d v).lostDraws.contains i.seq <;> cases (s.vat d v).drawExp <;> cases drFOLD i.word <;> rfl
  · rintro (h | ⟨hn, ht⟩)
    · exact hw (.inl h)
    · exact hw (.inr ⟨hn, by simpa using ht⟩)

end

end Sys2Proof.Machine
end

section
/-!
PROOFS. The sparge ring: completion and the abort drain (02 R100; 03 R109, R110).
-/
namespace Sys2Proof.Machine

/-! ## Completion (03 R109, R110) -/

theorem exec_vatInstructionComplete {s : State} {d v : Nat} (hv : s.hasVat d v = true) :
    exec (.vatInstructionComplete d v) s = .next (s.vatComplete d v) := by
  show execVatInstructionComplete d v s = _
  simp [execVatInstructionComplete, hv]

section
variable {s : State} {d v : Nat}

theorem vatComplete_idle (h : (s.vat d v).done = []) : s.vatComplete d v = s := by
  unfold State.vatComplete
  simp only [h]

theorem vatComplete_pops {i : VInstr} {rest : List VInstr} (h : (s.vat d v).done = i :: rest) :
    s.vatComplete d v =
      let t := (s.putVat d v { s.vat d v with done := rest }).ctxRetire d i.ctx
      if (s.vat d v).abortDrn then t else t.postCtr d i.part (wbits i.word 8 12) 1 false i.tag := by
  unfold State.vatComplete
  simp only [h]
  rfl

end

/-! ## The abort drain (02 R100) -/

theorem exec_vatAbortNotice {s : State} {d v tag : Nat} (hv : s.hasVat d v = true) :
    exec (.vatAbortNotice d v tag) s = .next (s.vatAbort d v tag) := by
  show execVatAbortNotice d v tag s = _
  simp [execVatAbortNotice, hv]

theorem exec_vatAbortDrainEnd {s : State} {d v : Nat} (hv : s.hasVat d v = true) :
    exec (.vatAbortDrainEnd d v) s = .next (s.vatDrainEnd d v) := by
  show execVatAbortDrainEnd d v s = _
  simp [execVatAbortDrainEnd, hv]

/-! ### What a bank kept LIVE becomes -/

/-- y is x but for the states and the generations of its banks. -/
def Vat.rebanked (x y : Vat) : Prop := ∃ b0 b1 g0 g1, y = { x with bank0 := b0, bank1 := b1, gens0 := g0, gens1 := g1 }

theorem Vat.rebanked_trans {x y z : Vat} (h : x.rebanked y) (h' : y.rebanked z) : x.rebanked z := by
  obtain ⟨_, _, _, _, rfl⟩ := h
  obtain ⟨_, _, _, _, rfl⟩ := h'
  exact ⟨_, _, _, _, rfl⟩

section
variable (x : Vat)

theorem Vat.rebanked_setBank (q b : Nat) : x.rebanked (x.setBank q b) := by
  unfold Vat.setBank
  split <;> exact ⟨_, _, _, _, rfl⟩

theorem Vat.rebanked_setGens (q : Nat) (g : List Gen) : x.rebanked (x.setGens q g) := by
  unfold Vat.setGens
  split <;> exact ⟨_, _, _, _, rfl⟩

theorem Vat.rebanked_abortRelease : x.rebanked x.abortRelease := by
  unfold Vat.abortRelease Vat.bankAfterRelease
  dsimp only
  split
  · split
    · exact Vat.rebanked_trans (x.rebanked_setGens ..) (Vat.rebanked_setBank ..)
    · exact x.rebanked_setGens ..
  · exact ⟨_, _, _, _, rfl⟩

/-- The last pass kept its bank LIVE and no pass of an aborted tag is in the array. -/
def Vat.keptLive (x : Vat) : Prop :=
  x.hasPrev = true ∧ x.lastKeep = true ∧ x.bank x.lastPar = bLIVE ∧ ∀ p, p ∈ x.passes → p.tag ∉ x.abortTags

theorem Vat.keptLive_iff : x.keptLive ↔
    x.hasPrev ∧ x.lastKeep ∧ x.passes.all (fun p => ! x.abortTags.contains p.tag) ∧ x.bank x.lastPar = bLIVE := by
  simp [Vat.keptLive, List.contains_eq_mem]
  tauto

theorem Vat.abortRelease_bank (h : x.keptLive) :
    x.abortRelease.bank x.lastPar = if x.steeping x.lastPar then bSTEEPING else bRELEASED := by
  rw [Vat.keptLive_iff] at h
  rw [Vat.abortRelease, if_pos h, Vat.bank_bankAfterRelease, Vat.steeping_setGens]
  rw [Vat.gens_setGens_same]
  rfl

theorem Vat.abortRelease_of_not_kept (h : ¬ x.keptLive) : x.abortRelease = x := by
  rw [Vat.keptLive_iff] at h
  rw [Vat.abortRelease, if_neg h]

end

/-! ### Discarded instructions -/

/-- The instruction is of a tag being aborted and no beat of its tag is upstream: it will have no pass. -/
def State.discards (s : State) (d v : Nat) (tags : List Nat) (i : VInstr) : Bool := decide (i.tag ∈ tags) && s.noUpstream d v i.tag

/-- x without the MASHes and SKIPs that are dead; DRAWs that waited on such a MASH are lost. -/
def Vat.discarded (x : Vat) (dead : VInstr → Bool) : Vat :=
  { x with
    mashQ := x.mashQ.filter (fun i => ! dead i), skipLeft := if (x.mashQ.head?).any dead then 0 else x.skipLeft,
    lostDraws := x.lostDraws ++ (x.drawQ.filter (fun j => x.mashQ.any (fun i => dead i && decide (i.opc = 0x41) &&
      decide (i.seq < j.seq) && decide (maHALF i.word = drHALF j.word)))).map (fun j => j.seq) }

/-- The contexts of discarded instructions are paid back. -/
def State.payBack (s : State) (d : Nat) (gone : List VInstr) : State := gone.foldl (fun s i => s.ctxRetire d i.ctx) s

section
variable {s : State} {d v : Nat}

theorem payBack_frame (gone : List VInstr) : ∃ m, s.payBack d gone = { s with ctxs := m } := by
  induction gone generalizing s with
  | nil => exact ⟨s.ctxs, rfl⟩
  | cons i gone ih => exact ih (s := s.ctxRetire d i.ctx)

theorem payBack_vat_same (h : mrising s.vats = true) (gone : List VInstr) (y : Vat) :
    ((s.payBack d gone).putVat d v y).vat d v = y := by
  obtain ⟨m, hm⟩ := payBack_frame (s := s) (d := d) gone
  rw [hm]
  exact State.vat_same (s := { s with ctxs := m }) h d v y

theorem payBack_vat_ne (h : mrising s.vats = true) (gone : List VInstr) (y : Vat) {e u : Nat} (hk : e * 16 + u ≠ d * 16 + v) :
    ((s.payBack d gone).putVat d v y).vat e u = s.vat e u := by
  obtain ⟨m, hm⟩ := payBack_frame (s := s) (d := d) gone
  rw [hm]
  exact State.vat_ne (s := { s with ctxs := m }) h y hk

theorem payBack_putVat (gone : List VInstr) (y : Vat) : (s.putVat d v y).payBack d gone = (s.payBack d gone).putVat d v y := by
  induction gone generalizing s with
  | nil => rfl
  | cons i gone ih => exact ih (s := s.ctxRetire d i.ctx)

/-- What is upstream of a vat does not depend on the queues and banks of vats. -/
theorem noUpstream_putVat (h : mrising s.vats = true) {y : Vat} (hi : y.inq = (s.vat d v).inq)
    (hp : y.passes = (s.vat d v).passes) (tag : Nat) :
    (s.putVat d v y).noUpstream d v tag = s.noUpstream d v tag := by
  have hvat : ∀ e u, ((s.putVat d v y).vat e u).inq = (s.vat e u).inq ∧ ((s.putVat d v y).vat e u).passes = (s.vat e u).passes := by
    intro e u
    by_cases hk : e * 16 + u = d * 16 + v
    · have : ∀ t : State, t.vat e u = t.vat d v := fun t => by simp only [State.vat, hk]
      rw [this, this, State.vat_same h]
      exact ⟨hi, hp⟩
    · rw [State.vat_ne h _ hk]
      exact ⟨rfl, rfl⟩
  simp only [State.noUpstream, State.putVat_get_ring, State.putVat_get_nDies, (hvat _ _).1, (hvat _ _).2]

theorem abortDiscard_eq : s.abortDiscard d v =
    (s.payBack d ((s.vat d v).mashQ.filter (s.discards d v (s.vat d v).abortTags))).putVat d v
      ((s.vat d v).discarded (s.discards d v (s.vat d v).abortTags)) := by
  unfold State.abortDiscard Vat.discarded State.discards State.payBack
  simp only [List.contains_eq_mem, List.any_filter, Bool.and_assoc]

/-- The discard, where the vat has just been stored. -/
theorem abortDiscard_putVat (h : mrising s.vats = true) {y : Vat} (hi : y.inq = (s.vat d v).inq) (hp : y.passes = (s.vat d v).passes) :
    (s.putVat d v y).abortDiscard d v =
      (s.payBack d (y.mashQ.filter (s.discards d v y.abortTags))).putVat d v (y.discarded (s.discards d v y.abortTags)) := by
  have hd : (s.putVat d v y).discards d v y.abortTags = s.discards d v y.abortTags := by
    funext i
    rw [State.discards, State.discards, noUpstream_putVat h hi hp]
  rw [abortDiscard_eq, State.vat_same h, hd, payBack_putVat]
  obtain ⟨m, hm⟩ := payBack_frame (s := s) (d := d) (y.mashQ.filter (s.discards d v y.abortTags))
  rw [hm, State.putVat_putVat (s := { s with ctxs := m }) h]

end

/-! ### A notice and the end of the drain -/

/-- The tags being aborted once `tag` is one of them. -/
def Vat.tagsWith (x : Vat) (tag : Nat) : List Nat := if tag ∈ x.abortTags then x.abortTags else x.abortTags ++ [tag]

/-- x in the abort drain of `tag`. -/
def Vat.aborting (x : Vat) (tag : Nat) : Vat := { x with abortDrn := true, abortTags := x.tagsWith tag }

section
variable {s : State} {d v tag : Nat}

theorem vatAbort_ignores (hr : (s.ring d).ringTag ≠ some tag) (hx : (s.vat d v).holdsTag tag = false) : s.vatAbort d v tag = s := by
  unfold State.vatAbort
  rw [if_pos ⟨hr, by rw [hx]; rfl⟩]

theorem vatAbort_drains (h : mrising s.vats = true) (ht : (s.ring d).ringTag = some tag ∨ (s.vat d v).holdsTag tag = true) :
    s.vatAbort d v tag =
      (s.payBack d ((s.vat d v).mashQ.filter (s.discards d v ((s.vat d v).tagsWith tag)))).putVat d v
        (((s.vat d v).aborting tag).abortRelease.discarded (s.discards d v ((s.vat d v).tagsWith tag))) := by
  have hy : s.vatAbort d v tag = (s.putVat d v ((s.vat d v).aborting tag).abortRelease).abortDiscard d v := by
    unfold State.vatAbort
    rw [if_neg]
    · simp only [List.contains_eq_mem, decide_eq_true_eq]
      rfl
    · rintro ⟨h1, h2⟩
      rcases ht with ht | ht
      · exact h1 ht
      · simp [ht] at h2
  rw [hy]
  obtain ⟨b0, b1, g0, g1, he⟩ := ((s.vat d v).aborting tag).rebanked_abortRelease
  rw [abortDiscard_putVat h (by rw [he]; rfl) (by rw [he]; rfl), he]
  rfl

theorem vatDrainEnd_none (h : (s.vat d v).abortDrn = false) : s.vatDrainEnd d v = s := by
  unfold State.vatDrainEnd
  rw [h]
  rfl

/-- x once its abort drain has ended, its wort free from free value e on. -/
def Vat.drainEnded (x : Vat) (e : Nat) : Vat :=
  { (if x.ttag.any (fun t => x.abortTags.contains t) then clearTally x else x) with
    abortDrn := false, abortTags := [], hasPrev := false, lastPar := 0, lastKeep := false, accum0 := 0, accum1 := 0,
    undef0 := some e, undef1 := some (e + 65536), wrote0 := [], wrote1 := [], lostDraws := [] }

theorem vatDrainEnd_ends (h : mrising s.vats = true) (ha : (s.vat d v).abortDrn = true) (hm : (s.vat d v).mashQ = [])
    (hs : (s.vat d v).steepQ = []) (hd : (s.vat d v).drawQ = []) (hn : (s.vat d v).done = []) (hp : (s.vat d v).passes = [])
    (hi : (s.vat d v).inq = []) :
    s.vatDrainEnd d v = { s.putVat d v
      (((s.vat d v).discarded (s.discards d v (s.vat d v).abortTags)).abortRelease.drainEnded s.freeCtr) with
        freeCtr := s.freeCtr + 131072 } := by
  have hdisc : s.abortDiscard d v = s.putVat d v ((s.vat d v).discarded (s.discards d v (s.vat d v).abortTags)) := by
    rw [abortDiscard_eq, hm]
    rfl
  obtain ⟨b0, b1, g0, g1, he⟩ := ((s.vat d v).discarded (s.discards d v (s.vat d v).abortTags)).rebanked_abortRelease
  have hidle : ∀ y, y = ((s.vat d v).discarded (s.discards d v (s.vat d v).abortTags)).abortRelease →
      ¬ (y.mashQ ≠ [] ∨ y.steepQ ≠ [] ∨ y.drawQ ≠ [] ∨ y.done ≠ [] ∨ y.passes ≠ [] ∨ y.inq ≠ []) := by
    rintro y rfl
    rw [he]
    simp [Vat.discarded, hm, hs, hd, hn, hp, hi]
  unfold State.vatDrainEnd
  rw [ha, hdisc]
  simp only [State.vat_same h, State.putVat_putVat h, if_neg (hidle _ rfl)]
  rfl

end

/-- Settles O12, operation by operation: the releases (`rowRelease_frees`, `tallyRelease_frees`), the draw unit (`drawStep_reads`),
completion (`vatComplete_pops`), and the abort drain (`vatAbort_drains`, `vatDrainEnd_ends`). -/
theorem passesEndDrawsReadAndTheVatDrains : Obligations.PassesEndDrawsReadAndTheVatDrains := by
  unfold Obligations.PassesEndDrawsReadAndTheVatDrains
  refine ⟨?_, ?_, ?_, ?_⟩
  · intro s d v i p hv x g
    refine ⟨fun r hr ho => ?_, fun ho => ?_⟩
    · intro first
      rw [exec_gristRowRelease hv hr]
      refine ⟨fun h1 h2 h3 => ?_, fun hw => ?_⟩
      · exact congrArg _ (rowRelease_frees ho h1 h2 h3)
      · exact congrArg _ (rowRelease_waits ho hw)
    · intro rows
      rw [exec_tallyEntryRelease hv]
      refine ⟨fun h1 h2 h3 => ⟨?_, fun hg _ hs => ?_⟩, fun hw => ?_⟩
      · exact congrArg _ (tallyRelease_frees ho h1 h2 h3)
      · rw [tallyRelease_frees ho h1 h2 h3, State.putSettled_eq]
        refine goesOn_next ⟨?_, rfl⟩
        rw [State.vat_same (State.canon_vats hs), Vat.settled_bank, Vat.bank_talliesReleased _ hg]
      · exact congrArg _ (tallyRelease_waits ho hw)
  · intro s d v i rest hv hq x w h n r
    rw [exec_drawRowRead hv]
    refine ⟨fun ho ht => ?_, fun hw => ?_⟩
    · intro u e lost z row y y' o sum
      have hr : ¬ (s.vat d v).drawWaits i := by
        rintro (h1 | ⟨h1, h2⟩)
        · exact Bool.noConfusion (h1.symm.trans ho)
        · exact Bool.noConfusion (h2.symm.trans (ht h1))
      rw [drawStep_reads hq hr]
      refine ⟨fun hf => ?_, fun hf h3 => ?_, fun hf h3 => ?_⟩
      · exact congrArg _ (if_pos hf)
      · exact congrArg _ ((if_neg (ne_false_of_eq_true hf)).trans (if_neg h3))
      · exact congrArg _ ((if_neg (ne_false_of_eq_true hf)).trans (if_pos h3))
    · exact congrArg _ (drawStep_waits hq hw)
  · intro s d v i rest hv t
    rw [exec_vatInstructionComplete hv]
    refine ⟨fun h ha => ?_, fun h ha => ?_, fun h => ?_⟩
    · rw [vatComplete_pops h, ha]
      rfl
    · rw [vatComplete_pops h, ha]
      rfl
    · rw [vatComplete_idle h]
  · intro s d v tag hs hv x tags
    have hvat := State.canon_vats hs
    rw [exec_vatAbortNotice hv, exec_vatAbortDrainEnd hv]
    refine ⟨fun hr hx => ?_, fun ht => ?_, fun ha hm hst hd hn hp hi => ?_, fun ha => ?_⟩
    · rw [vatAbort_ignores hr hx]
    · rw [vatAbort_drains hvat ht]
      refine goesOn_next ?_
      obtain ⟨b0, b1, g0, g1, he⟩ := (x.aborting tag).rebanked_abortRelease
      intro y dead
      rw [show y = (x.aborting tag).abortRelease.discarded dead from payBack_vat_same hvat _ _]
      refine ⟨?_, ?_, ?_, ?_, ?_, ?_, ?_, ?_, ?_, fun h1 h2 h3 h4 => ?_, fun hk => ?_, fun hnone => ?_, fun i hi => ?_,
        fun e u hk => ?_⟩
      iterate 9 exact he ▸ rfl
      · exact (x.aborting tag).abortRelease_bank ⟨h1, h2, h3, h4⟩
      · rw [(x.aborting tag).abortRelease_of_not_kept]
        · exact ⟨rfl, rfl⟩
        · rintro ⟨h1, h2, h3, h4⟩
          rcases hk with hk | hk | hk | ⟨p, hp, hk⟩
          · exact Bool.noConfusion (h1.symm.trans hk)
          · exact Bool.noConfusion (h2.symm.trans hk)
          · exact hk h3
          · exact h4 p hp hk
      · have hgone : x.mashQ.filter (s.discards d v tags) = [] :=
          List.filter_eq_nil_iff.mpr fun i hi => ne_true_of_eq_false (hnone i hi)
        rw [show (s.vat d v).mashQ.filter (s.discards d v ((s.vat d v).tagsWith tag)) = [] from hgone]
        rfl
      · rw [show (s.vat d v).mashQ.filter (s.discards d v ((s.vat d v).tagsWith tag)) = [i] from hi]
        rfl
      · exact payBack_vat_ne hvat _ _ hk
    · rw [vatDrainEnd_ends hvat ha hm hst hd hn hp hi]
      refine goesOn_next ?_
      have hy : ∀ y n, (State.vat { s.putVat d v y with freeCtr := n } d v) = y := fun y _ => State.vat_same hvat d v y
      rw [hy]
      exact ⟨rfl, rfl, rfl, rfl, rfl, rfl, rfl, rfl, fun e u hk => State.vat_ne hvat _ hk, rfl⟩
    · rw [vatDrainEnd_none ha]

end Sys2Proof.Machine
end

section
/-!
PROOFS. The sparge ring: long mode, and a ring tag past the THR_JOB instances (02 R86, 19 R769).
-/
namespace Sys2Proof.Machine

/-! ## Words held for a slot table (19 R769) -/

/-- A word that was written is the word of its number, if all writes of it were the same. -/
theorem find_overWords {ws hs : List (Nat × RegWord)} {i : Nat} {x : RegWord} (hi : i < heldSwap)
    (hx : ∀ h ∈ hs, h.1 = i → h.2 = x) (hm : ∃ h ∈ hs, h.1 = i) : (overWords ws hs).find? (fun w => w.1 = i) = some (i, x) := by
  induction hs using List.reverseRecOn with
  | nil => simp at hm
  | append_singleton hs h ih =>
    rw [overWords, List.foldl_append, List.foldl_cons, List.foldl_nil, ← overWords]
    by_cases hk : h.1 = i
    · have hh : h = (i, x) := Prod.ext hk (hx h (by simp) hk)
      subst hh
      rw [if_pos hi, List.find?_cons_of_pos (by simp)]
    · have ih' := ih (fun g hg => hx g (by simp [hg])) (by
        obtain ⟨g, hg, hgi⟩ := hm
        rcases List.mem_append.mp hg with hg | hg
        · exact ⟨g, hg, hgi⟩
        · rw [List.mem_singleton.mp hg] at hgi; exact absurd hgi hk)
      split
      · rw [List.find?_cons_of_neg (by simpa using hk), List.find?_filter, ← ih']
        congr 1
        funext w
        simpa using fun hw : w.1 = i => hw ▸ Ne.symm hk
      · exact ih'

/-! ## A module whose T3 holds ring liquor in every slot -/

/-- A word of two entries that ring liquor has. -/
def liquorWord : Nat := 0x00030003

/-- Die d's writes held for T3: ring liquor in every slot, then SWAP. -/
def heldLiquor (d : Nat) : List (Nat × Nat × Nat × Nat) :=
  (List.range heldSwap).map (fun i => (d, 3, i, liquorWord)) ++ [(d, 3, heldSwap, 0)]

/-- The words of `heldLiquor`. -/
def liquorWords : List (Nat × RegWord) := (List.range heldSwap).map (fun i => (i, BitVec.ofNat 256 liquorWord)) ++ [(heldSwap, 0)]

theorem heldWords_of_held (d : Nat) (s : State) (h : s.slotHeld.filter (fun w => decide (w.1 = d) && decide (w.2.1 = 3)) = heldLiquor d) :
    s.heldWords d 3 = liquorWords := by
  rw [State.heldWords, h, heldLiquor, liquorWords, List.map_append, List.map_map]
  rfl

theorem filter_heldLiquor (d e : Nat) :
    (heldLiquor e).filter (fun w => decide (w.1 = d) && decide (w.2.1 = 3)) = if e = d then heldLiquor e else [] := by
  have hall : ∀ w ∈ heldLiquor e, w.1 = e ∧ w.2.1 = 3 := by
    intro w hw
    rcases List.mem_append.mp hw with hw | hw
    · obtain ⟨i, -, rfl⟩ := List.mem_map.mp hw
      exact ⟨rfl, rfl⟩
    · rw [List.mem_singleton.mp hw]
      exact ⟨rfl, rfl⟩
  split
  · next he =>
    refine List.filter_eq_self.mpr fun w hw => ?_
    simp [hall w hw, he]
  · next he =>
    refine List.filter_eq_nil_iff.mpr fun w hw => ?_
    simp [hall w hw, he]

/-- Once the words are in force, every entry is ring liquor's. -/
theorem entOf_liquorWords (ws : List (Nat × RegWord)) {e : Nat} (he : e < 4096) : entOf (overWords ws liquorWords) e = 3 := by
  have hi : e / 2 < heldSwap := by rw [heldSwap]; omega
  have hfind : (overWords ws liquorWords).find? (fun w => w.1 = e / 2) = some (e / 2, BitVec.ofNat 256 liquorWord) := by
    have hmem : (e / 2, BitVec.ofNat 256 liquorWord) ∈ liquorWords :=
      List.mem_append_left _ (List.mem_map.mpr ⟨e / 2, List.mem_range.mpr hi, rfl⟩)
    refine find_overWords hi (fun h hh hk => ?_) ⟨_, hmem, rfl⟩
    rcases List.mem_append.mp hh with hh | hh
    · obtain ⟨i, -, rfl⟩ := List.mem_map.mp hh
      rfl
    · rw [List.mem_singleton.mp hh] at hk
      omega
  rw [entOf, hfind, Option.elim_some]
  dsimp only
  rcases Nat.mod_two_eq_zero_or_one e with h | h
  · rw [h]; decide
  · rw [h]; decide

theorem noLiquor_liquorWords {s : State} {d : Nat} (hs : s.slotSwapping d 3 = true) (hw : s.heldWords d 3 = liquorWords) :
    s.noLiquor d [] = false := by
  have hany : liquorWords.any (fun w => w.1 = heldSwap) = true := List.any_eq_true.mpr ⟨(heldSwap, 0), by simp [liquorWords], by simp⟩
  have hn : s.nextWords d 3 = overWords (s.halfWords d 3 (s.slotAct d 3)) liquorWords := by
    rw [State.nextWords, hs, hw, hany]
    rfl
  rw [State.noLiquor]
  simp only [withGrants, List.filter_nil, List.foldl_nil, hn]
  refine List.any_eq_false.mpr fun e _ => ?_
  rw [entOf_liquorWords _ (Nat.mod_lt e (by decide)), show (bit 3 0 && decide (bits 3 1 2 = 1)) = true by decide]
  exact Bool.false_ne_true

/-! ## A ring tag past the THR_JOB instances -/

/-- The tag whose THR_JOB is the SPINE_MODE of die 1, as 0x30000 + 0x10 · 520192 = 2^23 + 0x20000. -/
def aliasTag : Nat := 520192

/-- A module of two dies whose rings partition 0 holds; its job has the tag 0, and die 0's ring the tag `aliasTag`. -/
def aliasRig : State :=
  { (State.reset.wf 0 (oSlotCtl 3) slotCtlSwap 1).wf 1 (oSlotCtl 3) slotCtlSwap 1 with
    variant := .qbm2, jobs := [(0, { phase := 1, mask := 3 })],
    grants := [{ kind := 1, count := 1 }, { kind := 1, die := 1, count := 1 }],
    rings := [(0, { ringTag := some aliasTag })], slotHeld := heldLiquor 0 ++ heldLiquor 1 }

theorem aliasRig_noLiquor {e : Nat} (he : e < aliasRig.nDies) : aliasRig.noLiquor e [] = false := by
  have he2 : e = 0 ∨ e = 1 := by change e < 2 at he; omega
  have hheld : aliasRig.slotHeld.filter (fun w => decide (w.1 = e) && decide (w.2.1 = 3)) = heldLiquor e := by
    simp only [aliasRig, List.filter_append, filter_heldLiquor]
    obtain rfl | rfl := he2
    · simp
    · simp
  refine noLiquor_liquorWords ?_ (heldWords_of_held e aliasRig hheld)
  obtain rfl | rfl := he2
  · decide +kernel
  · decide +kernel

theorem aliasRig_write {t : State} (h : exec (.registerWrite (.firmware 0) 1 oSpineMode 4 1) aliasRig = .next t) :
    t.rf 1 oSpineMode spineModeLong = 0 := by
  cases h
  decide +kernel

/-- Refutes O7, in its clause of a write of LONG = 1 that is not refused: the statement takes every canonical state, and in `aliasRig`
the ring of die 0 has the tag 520192. That is past the 256 instances of THR_JOB, and the register address the model forms for it is that
of die 1's SPINE_MODE, whose LONG stands where EN would. Before the write of LONG on die 1 no job holds die 0's ring and `longJob` is job
0; once LONG is written, `longJob` finds die 0's ring held by another job, and the write is refused: LONG of die 1 goes back to 0. -/
theorem not_longModeSwitchesWhenEveryDieIsDrained : ¬ Obligations.LongModeSwitchesWhenEveryDieIsDrained := by
  unfold Obligations.LongModeSwitchesWhenEveryDieIsDrained
  intro h
  obtain ⟨-, -, hwrite, -⟩ := h aliasRig (by decide +kernel)
  obtain ⟨t, ht, -, hlong, -⟩ := hwrite 1 0 1 (by decide) (by decide +kernel) (by decide +kernel) (by decide +kernel)
  have h1 := (hlong (.inr ⟨by decide +kernel, fun e he => aliasRig_noLiquor he⟩) 1 (by decide)).1
  rw [aliasRig_write ht] at h1
  exact absurd h1 (by decide)

end Sys2Proof.Machine
end

section
/-!
PROOFS. INT32 wort: two's complement words, and an entry that saturates (04 R152, R174).
-/
namespace Sys2Proof.Machine

/-! ## Two's complement (04 R152) and the clamp -/

/-- The reading of the low w bits is the balanced remainder by 2^w. -/
theorem sx_eq_bmod (w n : Nat) : sx w n = Int.bmod n (2 ^ w) := by
  simp only [sx, Int.bmod, ← Int.natCast_mod]
  cases w with
  | zero => simp [Nat.mod_one]
  | succ w =>
    rw [Nat.pow_succ']
    split_ifs <;> omega

theorem sx_mod (w n : Nat) : sx w (n % 2 ^ w) = sx w n := by
  simp only [sx, Nat.mod_mod]

/-- An integer that w bits hold is read back from them. -/
theorem sx_tc {w : Nat} {x : Int} (hlo : -(2 ^ w : Nat) ≤ 2 * x) (hhi : 2 * x < (2 ^ w : Nat)) : sx w (tc w x) = x := by
  have hpos : (0 : Int) < (2 ^ w : Nat) := by exact_mod_cast Nat.two_pow_pos w
  rw [sx_eq_bmod, tc, Int.toNat_of_nonneg (Int.emod_nonneg _ hpos.ne'), Int.emod_bmod]
  exact Int.bmod_eq_of_le_mul_two (by omega) (by omega)

theorem clampI_mem {lo hi : Int} (h : lo ≤ hi) (x : Int) : lo ≤ clampI lo hi x ∧ clampI lo hi x ≤ hi := by
  unfold clampI
  split_ifs <;> omega

theorem clampI_of_hi_le {lo hi x : Int} (h : lo ≤ hi) (hx : hi ≤ x) : clampI lo hi x = hi := by
  unfold clampI
  split_ifs <;> omega

theorem clampI_of_le_lo {lo hi x : Int} (h : lo ≤ hi) (hx : x ≤ lo) : clampI lo hi x = lo := by
  unfold clampI
  split_ifs <;> omega

theorem i32Lo_le_i32Hi : i32Lo ≤ i32Hi := by decide

theorem sx_tc_clamp_i32 (x : Int) : sx 32 (tc 32 (clampI i32Lo i32Hi x)) = clampI i32Lo i32Hi x := by
  obtain ⟨hlo, hhi⟩ := clampI_mem i32Lo_le_i32Hi x
  unfold i32Lo i32Hi at *
  exact sx_tc (by omega) (by omega)

/-! ## A block sum enters INT32 wort (04 R174) -/

/-- In INT32 wort the entry read as an integer is the clamped sum. -/
theorem sx_wortUpdate_int32 (init : Bool) (unit : Int) (old : Word32) (bs : Int) (r : Rnd) :
    sx 32 (wortUpdate false init unit old (.sum bs) r).toNat =
      clampI i32Lo i32Hi ((if init then 0 else sx 32 old.toNat) + bs) := by
  rw [wortUpdate, if_neg Bool.false_ne_true, BitVec.toNat_ofNat, sx_mod, sx_tc_clamp_i32]

section
variable {s : State} {d v : Nat}

/-- A wort entry after a sum that is not poisoned is its format's update of it. -/
theorem State.wortAt_wortAdd {p : Pass} {r n sub c : Nat} {b : BSum} (hmem : mrising s.mem = true) (hb : b ≠ .poisoned)
    (hm : ∀ o, s.mark (.wort d v (maHALF p.instr.word)) o = .clean) (hp : (s.inoc d).point ≠ 3) (hq : (s.inoc d).point ≠ 0x14)
    (h0 : (s.vat d v).undef0 = none) (h1 : (s.vat d v).undef1 = none) (hr : r < 128) (hc : c < 512) :
    (s.wortAdd d v p r n sub c b).wortAt d v (maHALF p.instr.word) r c =
      wortUpdate (decide (maFMT p.instr.word = 1)) (maINIT p.instr.word && firstOfEntry p.instr.word n) (bsUnit p)
        (s.wortAt d v (maHALF p.instr.word) r c) b (s.wortRnd d v p r n sub) := by
  rw [State.wortAdd_clean hb hm hp hq h0 h1 hr hc, State.wortAt_poke hmem h0 h1 hr hc]

end

/-- Settles O10: the entry after the block sum is the clamped sum (`State.wortAt_wortAdd`, `sx_wortUpdate_int32`), and the clamp leaves
a bound where it is as long as the block sum points out of the range. -/
theorem int32WortSaturates : Obligations.Int32WortSaturates := by
  unfold Obligations.Int32WortSaturates
  intro s d v p r n sub c bs hs hr hc _ _ h hfmt hm hp hq h0 h1 old new sat
  have hnew : new = clampI i32Lo i32Hi ((if maINIT p.instr.word && firstOfEntry p.instr.word n then 0 else old) + bs) := by
    show sx 32 ((s.wortAdd d v p r n sub c (.sum bs)).wortAt d v h r c).toNat = _
    rw [State.wortAt_wortAdd (State.canon_mem_rising hs) (by nofun) hm hp hq h0 h1 hr hc, decide_eq_false hfmt, sx_wortUpdate_int32]
  refine ⟨hnew, fun hinit hold hbs => ?_, fun hinit hold hbs => ?_⟩
  · rw [hnew, hinit, if_neg Bool.false_ne_true, hold]
    exact clampI_of_hi_le i32Lo_le_i32Hi (show (2 ^ 31 - 1 : Int) ≤ _ by omega)
  · rw [hnew, hinit, if_neg Bool.false_ne_true, hold]
    exact clampI_of_le_lo i32Lo_le_i32Hi (show _ ≤ (-(2 ^ 31) : Int) by omega)
end Sys2Proof.Machine
end

section
/-!
PROOFS. Accumulate units and dispatch ledgers (07 R283–R289, R300, 12 R517).
-/
namespace Sys2Proof.Machine

/-! ## A core sums the oldest unit (12 R517, 07 R300) -/

section
variable {s : State} {d k qu u : Nat} {rest : List (Nat × Nat)}

theorem exec_accumulateUnit (hd : s.hasDie d = true) (hk : k < 4) : exec (.accumulateUnit d k) s = .next (s.accumulate d k) := by
  show execAccumulateUnit d k s = _
  simp [execAccumulateUnit, hd, hk]

theorem accumulate_sums (ha : s.accOf d k = (qu, u) :: rest) (hr : s.accReady d k = true) (hp : (s.kcore d k).pend = []) :
    s.accumulate d k = (s.sumUnit d qu u).putAcc d k rest := by
  simp [State.accumulate, ha, hr, hp]

theorem accumulate_waits (ha : s.accOf d k = (qu, u) :: rest) (h : s.accReady d k = false ∨ (s.kcore d k).pend ≠ []) :
    s.accumulate d k = s := by
  have hw : (! s.accReady d k) = true ∨ (s.kcore d k).pend ≠ [] := h.imp_left fun hr => by rw [hr]; rfl
  simp only [State.accumulate, ha, if_pos hw]

end

/-! ## Reading a ledger's record and map (15 R634, R639) -/

section
variable {s : State} {d l n : Nat}

theorem State.withLed_clean (h : (s.ledPoison d l n).1 = none) (f : State → State) :
    s.withLed d l n f = f (s.ledPoison d l n).2 := by
  simp only [State.withLed, h]

theorem State.withLed_poisoned {a : Nat} (h : (s.ledPoison d l n).1 = some a) (f : State → State) :
    s.withLed d l n f = (s.ledPoison d l n).2.report
      { poison := true, die := d, tagv := false, part := ((List.range 8).find? (fun p => s.granted d p 0xA d l l)).getD 8,
        cls := 4, cause := 4, island := 22, addr := a } := by
  simp only [State.withLed, h]

/-- No read meets an injection while no point is armed (15 R661). -/
theorem State.inocReads_unarmed (hi : ∀ e, s.inoc e = {}) (r : Region) (o : Nat) : s.inocReads r o = false := by
  cases r <;> simp [State.inocReads, hi]

theorem State.poisoned_clean (hm : ∀ r o, s.mark r o = .clean) (r : Region) (o : Nat) : s.poisoned r o n = false := by
  simp [State.poisoned, hm]

/-- Clean codewords are read without a change of the state, and no address is poisoned. -/
theorem State.ledPoison_clean (hi : ∀ e, s.inoc e = {}) (hm : ∀ r o, s.mark r o = .clean) : s.ledPoison d l n = (none, s) := by
  have hread : ∀ r o n, s.readCheck r o n = s := fun r => State.readCheck_clean (State.inocReads_unarmed hi r) (hm r)
  have hruns : ∀ runs : List (Region × Nat × Nat), runs.foldl (fun s t => s.readCheck t.1 t.2.1 t.2.2) s = s :=
    List.foldl_fixed' fun _ => hread ..
  simp [State.ledPoison, hread, hruns, State.poisoned_clean hm]

end

/-! ## Arming, committing and closing (07 R283, R287, R288) -/

section
variable {s : State} {d l : Nat}

theorem exec_ledgerArm (hd : s.hasDie d = true) (hl : l < 256) : exec (.ledgerArm d l) s = .next (s.ledArm d l) := by
  show execLedgerArm d l s = _
  simp [execLedgerArm, hd, hl]

theorem exec_ledgerCommitting (hd : s.hasDie d = true) (hl : l < 256) :
    exec (.ledgerCommitting d l) s = .next (s.ledCommit d l) := by
  show execLedgerCommitting d l s = _
  simp [execLedgerCommitting, hd, hl]

theorem exec_ledgerClose (hd : s.hasDie d = true) (hl : l < 256) : exec (.ledgerClose d l) s = .next (s.ledClose d l) := by
  show execLedgerClose d l s = _
  simp [execLedgerClose, hd, hl]

end

/-! ## Fields of a number -/

theorem bits_mod {n k lo w : Nat} (h : lo + w ≤ k) : bits (n % 2 ^ k) lo w = bits n lo w := by
  unfold bits
  rw [← Nat.mod_mul_right_div_self, ← Nat.mod_mul_right_div_self, ← Nat.pow_add, Nat.mod_mod_of_dvd _ (Nat.pow_dvd_pow 2 h)]

/-- The bits below the field, the field's new value, and the bits above it. -/
theorem putBits_eq (n lo w x : Nat) :
    putBits n lo w x = n % 2 ^ lo + 2 ^ lo * (x % 2 ^ w + 2 ^ w * (n / 2 ^ lo / 2 ^ w)) := by
  have hn : n = n % 2 ^ lo + 2 ^ lo * (bits n lo w + 2 ^ w * (n / 2 ^ lo / 2 ^ w)) := by
    rw [bits, Nat.mod_add_div, Nat.mod_add_div]
  unfold putBits
  rw [Nat.mul_comm (bits n lo w), Nat.mul_comm (x % 2 ^ w)]
  rw [Nat.mul_add] at hn ⊢
  omega

theorem bits_putBits_same (n lo w x : Nat) : bits (putBits n lo w x) lo w = x % 2 ^ w := by
  rw [bits, putBits_eq, Nat.add_mul_div_left _ _ (Nat.two_pow_pos lo), Nat.div_eq_of_lt (Nat.mod_lt _ (Nat.two_pow_pos lo)),
    Nat.zero_add, Nat.add_mul_mod_self_left, Nat.mod_mod]

theorem bits_putBits_below {n lo w lo' w' : Nat} (x : Nat) (h : lo' + w' ≤ lo) : bits (putBits n lo w x) lo' w' = bits n lo' w' := by
  rw [← bits_mod h, putBits_eq, Nat.add_mul_mod_self_left, Nat.mod_mod, bits_mod h]

/-! ## A ledger's record rewritten -/

theorem pokeMem_append (r : Region) (m : List Host.Cell) (o : Nat) (as bs : List Byte) :
    pokeMem r m o (as ++ bs) = pokeMem r (pokeMem r m o as) (o + as.length) bs := by
  induction as generalizing m o with
  | nil => rfl
  | cons a as ih => rw [List.cons_append, pokeMem, pokeMem, ih, List.length_cons, Nat.add_assoc, Nat.add_comm 1]

theorem State.peekN_congr {s t : State} (h : s.mem = t.mem) (r : Region) (o n : Nat) : s.peekN r o n = t.peekN r o n := by
  have hb : s.peeks r o n = t.peeks r o n := by
    induction n generalizing o with
    | zero => rfl
    | succ n ih => rw [State.peeks, State.peeks, ih, State.peek, State.peek, h]
  rw [State.peekN, State.peekN, hb]

section
variable (s : State) (m : SMap Mark)

@[simp] theorem State.withMarks_mem : (s.withMarks m).mem = s.mem := rfl
@[simp] theorem State.withMarks_regs : (s.withMarks m).regs = s.regs := rfl
@[simp] theorem State.withMarks_reports : (s.withMarks m).reports = s.reports := rfl
@[simp] theorem State.withMarks_specRows : (s.withMarks m).specRows = s.specRows := rfl

end

section
variable {s : State}

/-- A whole codeword is written without a read of it (08 R329). -/
theorem State.writeCw_whole {r : Region} {o : Nat} {bs : List Byte} (h : bs.length = 32) :
    s.writeCw r o bs = (s.poke r o bs).setMark r o .clean := if_pos h

/-- Whole codewords are stored whatever they held; beside their bytes only marks change. -/
theorem writeCws_whole {r : Region} {n k : Nat} {o : Nat} {bs : List Byte} (hn : k ≤ n) (ho : o % 32 = 0) (hb : bs.length = 32 * k) :
    ∃ m, writeCws r n s o bs = (s.poke r o bs).withMarks m := by
  induction k generalizing s n o bs with
  | zero =>
    obtain rfl := List.length_eq_zero_iff.mp hb
    exact ⟨s.marks, by cases n <;> rfl⟩
  | succ k ih =>
    obtain ⟨n, rfl⟩ := Nat.exists_eq_add_of_le' hn
    have hhead : (bs.take 32).length = 32 := by rw [List.length_take]; omega
    have htail : (bs.drop 32).length = 32 * k := by rw [List.length_drop]; omega
    have hstep : writeCws r (n + (k + 1)) s o bs = writeCws r (n + k) (s.writeCw r o (bs.take 32)) (o + 32) (bs.drop 32) := by
      obtain ⟨b, bs, rfl⟩ := List.exists_cons_of_length_pos (show 0 < bs.length by omega)
      rw [← Nat.add_assoc, writeCws, ho]
    have hstore : s.poke r o bs = (s.poke r o (bs.take 32)).poke r (o + 32) (bs.drop 32) := by
      have happ := pokeMem_append r s.mem o (bs.take 32) (bs.drop 32)
      rw [List.take_append_drop, hhead] at happ
      simp only [State.poke, happ]
    obtain ⟨m, hm⟩ := ih (s := s.writeCw r o (bs.take 32)) (n := n + k) (o := o + 32) (by omega) (by omega) htail
    refine ⟨m, ?_⟩
    rw [hstep, hm, State.writeCw_whole hhead, hstore]
    rfl

variable {d l : Nat} (fs : List (Nat × Nat × Nat))

/-- A ledger's record fills a sack, so that a change of fields rewrites it whole. -/
theorem State.ledSet_pokes : ∃ m, s.ledSet d l fs =
    (s.poke (.ctx d) (ledOff l) (toBytes 64 (fs.foldl (fun r f => putBits r f.1 f.2.1 f.2.2) (s.led d l)))).withMarks m := by
  rw [State.ledSet, State.write, if_neg (by nofun)]
  exact writeCws_whole (k := 2) (by rw [toBytes_length]; decide) (by unfold ledOff; omega) (toBytes_length ..)

theorem State.ledSet_specRows : (s.ledSet d l fs).specRows = s.specRows := by
  obtain ⟨m, h⟩ := State.ledSet_pokes (s := s) (d := d) (l := l) fs
  rw [h, State.withMarks_specRows, State.poke_specRows]

theorem State.ledSet_regs : (s.ledSet d l fs).regs = s.regs := by
  obtain ⟨m, h⟩ := State.ledSet_pokes (s := s) (d := d) (l := l) fs
  rw [h, State.withMarks_regs, State.poke_regs]

theorem State.ledSet_reports : (s.ledSet d l fs).reports = s.reports := by
  obtain ⟨m, h⟩ := State.ledSet_pokes (s := s) (d := d) (l := l) fs
  rw [h, State.withMarks_reports, State.poke_reports]

theorem ledOff_fits (hl : l < 256) : ledOff l + 64 ≤ 2 ^ 64 := by unfold ledOff; omega

theorem State.led_ledSet (hm : mrising s.mem = true) (hl : l < 256) :
    (s.ledSet d l fs).led d l = fs.foldl (fun r f => putBits r f.1 f.2.1 f.2.2) (s.led d l) % 2 ^ (8 * 64) := by
  obtain ⟨m, h⟩ := State.ledSet_pokes (s := s) (d := d) (l := l) fs
  rw [h, Nat.pow_mul]
  exact (State.peekN_congr (State.withMarks_mem ..) ..).trans (State.peekN_poke hm _ _ 64 _ (ledOff_fits hl))

theorem State.peek_ledSet_outside (hm : mrising s.mem = true) (hl : l < 256) {r : Region} {o : Nat}
    (ho : ¬ (r.num = (Region.ctx d).num ∧ ledOff l ≤ o % 2 ^ 64 ∧ o % 2 ^ 64 < ledOff l + 64)) :
    (s.ledSet d l fs).peek r o = s.peek r o := by
  obtain ⟨m, h⟩ := State.ledSet_pokes (s := s) (d := d) (l := l) fs
  rw [h, State.peek, State.withMarks_mem]
  refine State.peek_poke_outside hm ?_ ?_
  · rw [toBytes_length]; exact ledOff_fits hl
  · rwa [toBytes_length]

end

/-! ## A ledger faults (07 R289) -/

section
variable {s : State} {d l : Nat}

@[simp] theorem State.putSpec_mem (x : List (Nat × Nat)) : (s.putSpec d l x).mem = s.mem := rfl
@[simp] theorem State.putSpec_regs (x : List (Nat × Nat)) : (s.putSpec d l x).regs = s.regs := rfl
@[simp] theorem State.putSpec_reports (x : List (Nat × Nat)) : (s.putSpec d l x).reports = s.reports := rfl

theorem State.jobPart_congr {t : State} (h : s.regs = t.regs) (tag : Nat) : s.jobPart d tag = t.jobPart d tag := by
  simp only [State.jobPart, State.rf, State.reg, h]

/-- A fault rewrites STATE and HELD, forgets the speculative rows, and reports. -/
theorem State.ledFault_eq : s.ledFault d l = ((s.ledSet d l [(40, 3, 6), (lHELD, 24, 0)]).putSpec d l []).report
    { die := d, tag := bits (s.led d l) 48 8, part := s.jobPart d (bits (s.led d l) 48 8), cls := 0x18,
      island := 22, sub := l, addr := gaddr (.ctx d) (ledOff l) } := by
  rw [State.ledFault, State.jobPart_congr (t := s) (by rw [State.putSpec_regs, State.ledSet_regs])]

theorem State.ledFault_mem : (s.ledFault d l).mem = (s.ledSet d l [(40, 3, 6), (lHELD, 24, 0)]).mem := by
  rw [State.ledFault_eq, State.report_mem, State.putSpec_mem]

theorem State.led_ledFault (hm : mrising s.mem = true) (hl : l < 256) :
    (s.ledFault d l).led d l = putBits (putBits (s.led d l) 40 3 6) lHELD 24 0 % 2 ^ (8 * 64) := by
  rw [State.led, State.peekN_congr State.ledFault_mem, ← State.led, State.led_ledSet _ hm hl, List.foldl_cons, List.foldl_cons,
    List.foldl_nil]

theorem State.ledState_ledFault (hm : mrising s.mem = true) (hl : l < 256) : (s.ledFault d l).ledState d l = 6 := by
  rw [State.ledState, State.led_ledFault hm hl, bits_mod (by decide), bits_putBits_below _ (by decide), bits_putBits_same]
  rfl

theorem State.ledHeld_ledFault (hm : mrising s.mem = true) (hl : l < 256) : (s.ledFault d l).ledF24 d l lHELD = 0 := by
  rw [State.ledF24, State.led_ledFault hm hl, bits_mod (by decide), bits_putBits_same]
  rfl

theorem State.specOf_ledFault (hr : mrising s.specRows = true) : (s.ledFault d l).specOf d l = [] := by
  rw [State.ledFault_eq, State.specOf, State.report_specRows]
  exact mget_mset_same _ _ (by rwa [State.ledSet_specRows])

theorem State.peek_ledFault_outside (hm : mrising s.mem = true) (hl : l < 256) {r : Region} {o : Nat}
    (ho : ¬ (r.num = (Region.ctx d).num ∧ ledOff l ≤ o % 2 ^ 64 ∧ o % 2 ^ 64 < ledOff l + 64)) :
    (s.ledFault d l).peek r o = s.peek r o := by
  rw [State.peek, State.ledFault_mem]
  exact State.peek_ledSet_outside _ hm hl ho

theorem State.reports_ledFault : (s.ledFault d l).reports = s.reports ++
    [{ die := d, tag := bits (s.led d l) 48 8, part := s.jobPart d (bits (s.led d l) 48 8), cls := 0x18,
       island := 22, sub := l, addr := gaddr (.ctx d) (ledOff l) }] := by
  rw [State.ledFault_eq, State.report, enq, State.putSpec_reports, State.ledSet_reports]

end

/-- Settles O27: the accumulate unit by `accumulate_sums` and `accumulate_waits`; arming, committing and closing by what a read of the
ledger finds (`State.withLed_clean`, `State.withLed_poisoned`) and then by the branches of each step; the fault by what its rewrite of the
record leaves (`State.ledFault_eq`, `State.ledSet_pokes`). -/
theorem accumulationAndLedgers : Obligations.AccumulationAndLedgers := by
  unfold Obligations.AccumulationAndLedgers
  refine ⟨?_, ?_, ?_⟩
  · intro s d k qu u rest hd hk ha
    rw [exec_accumulateUnit hd hk]
    refine ⟨fun hr hp => by rw [accumulate_sums ha hr hp], fun h => by rw [accumulate_waits ha h], ?_⟩
    intro q i rs hq hi hr
    have hnr : (! rs.all Req.ready) ≠ true := by rw [hr]; decide
    simp only [rs] at hq hnr
    simp only [State.sumUnit, hq, hi, if_neg hnr]
    rfl
  · intro s d l hd hl psn
    rw [exec_ledgerArm hd hl, exec_ledgerCommitting hd hl, exec_ledgerClose hd hl]
    refine ⟨fun hnew => ?_, fun hnew => ?_, ?_, ?_, fun hst => ?_, fun hst => congrArg _ (if_pos hst), ?_⟩
    · rw [State.ledArm, if_neg (by rw [hnew]; decide)]
      constructor
      · intro a hp
        rw [State.withLed_poisoned hp]
      · intro hp v t
        rw [State.withLed_clean hp]
        exact ⟨fun hst => congrArg _ (if_neg (not_not.mpr hst)), fun hst => congrArg _ (if_pos hst)⟩
    · exact congrArg _ (if_pos (by rw [hnew]; rfl))
    · intro a hp
      rw [State.ledCommit, State.withLed_poisoned hp]
    · intro hp v all
      rw [State.ledCommit, State.withLed_clean hp]
      refine ⟨fun hst hall => congrArg _ (if_pos ⟨hst, hall⟩), fun h => congrArg _ (if_neg ?_)⟩
      rintro ⟨hst, hall⟩
      exact h.elim (absurd hst) fun hf => Bool.false_ne_true (hf.symm.trans hall)
    · rw [State.ledClose, if_neg (not_not.mpr hst)]
      constructor
      · intro a hp
        rw [State.withLed_poisoned hp]
      · intro hp v empty kept c
        rw [State.withLed_clean hp]
        exact ⟨fun hbad => congrArg _ (if_pos hbad), fun hbad => congrArg _ (if_neg (not_not.mpr hbad))⟩
    · intro hst hm hi he hbad
      have hclean : s.ledPoison d l 4096 = (none, s) := State.ledPoison_clean hi hm
      rw [State.ledClose, if_neg (not_not.mpr hst), State.withLed_clean (by rw [hclean]), hclean]
      simp only [he, List.zip_nil_left, commitCopy]
      exact congrArg _ (if_pos hbad)
  · intro s d l hs hl _
    have hmem := State.canon_mem_rising hs
    exact ⟨State.ledState_ledFault hmem hl, State.ledHeld_ledFault hmem hl, State.specOf_ledFault (State.canon_specRows hs),
      fun r o ho => State.peek_ledFault_outside hmem hl ho, State.reports_ledFault⟩

end Sys2Proof.Machine
end

section
/-!
PROOFS. Contexts and jobs: the reads, writes and records of a step leave both alone, and a context's change of state leaves every other
context.
-/
namespace Sys2Proof.Machine

/-- The threads, the jobs and the number of the module. -/
def State.work (s : State) : SMap Ctx × SMap JobRec × Nat := (s.ctxs, s.jobs, s.modNum)

section
variable {s t : State} (h : t.work = s.work)
include h

theorem State.ctxs_of_work : t.ctxs = s.ctxs := congrArg Prod.fst h
theorem State.jobs_of_work : t.jobs = s.jobs := congrArg (fun w => w.2.1) h
theorem State.modNum_of_work : t.modNum = s.modNum := congrArg (fun w => w.2.2) h
theorem State.ctx_of_work (d c : Nat) : t.ctx d c = s.ctx d c := by rw [State.ctx, State.ctx, State.ctxs_of_work h]
theorem State.job_of_work (g : Nat) : t.job g = s.job g := by rw [State.job, State.job, State.jobs_of_work h]

end

theorem foldl_work {β : Type} {f : State → β → State} (h : ∀ s b, (f s b).work = s.work) (l : List β) (s : State) :
    (l.foldl f s).work = s.work := by
  induction l generalizing s with
  | nil => rfl
  | cons b l ih => rw [List.foldl_cons, ih, h]

/-! ## Registers, memory and records -/

section
variable (s : State)

@[simp] theorem State.putFn_work (f : Nat) (x : Fn) : (s.putFn f x).work = s.work := rfl
@[simp] theorem State.wf_work (d o : Nat) (f : Fld) (x : Nat) : (s.wf d o f x).work = s.work := rfl
@[simp] theorem State.wfs_work (d o : Nat) (fs : List (Fld × Nat)) : (s.wfs d o fs).work = s.work := rfl
@[simp] theorem State.setReg_work (d o : Nat) (x : RegWord) : (s.setReg d o x).work = s.work := rfl
@[simp] theorem State.poke_work (r : Region) (o : Nat) (bs : List Byte) : (s.poke r o bs).work = s.work := rfl
@[simp] theorem State.setMark_work (r : Region) (o : Nat) (m : Mark) : (s.setMark r o m).work = s.work := rfl
@[simp] theorem State.putRing_work (d : Nat) (x : Ring) : (s.putRing d x).work = s.work := rfl
@[simp] theorem State.putVat_work (d v : Nat) (x : Vat) : (s.putVat d v x).work = s.work := rfl
@[simp] theorem State.tick_work : s.tick.work = s.work := rfl

@[simp] theorem State.haltRing_work (f cause : Nat) : (s.haltRing f cause).work = s.work := by
  unfold State.haltRing
  split <;> rfl

end

@[simp] theorem flushOuts_work (f : Nat) (os : List Out) (s : State) : (flushOuts f s os).work = s.work := by
  induction os generalizing s with
  | nil => rfl
  | cons o os ih =>
    unfold flushOuts
    extract_lets
    split
    · rfl
    · split
      · exact State.haltRing_work ..
      · rw [ih, State.putFn_work]
        exact State.poke_work ..

section
variable (s : State)

@[simp] theorem State.flush_work (f : Nat) : (s.flush f).work = s.work := by
  unfold State.flush
  extract_lets
  split
  · exact (flushOuts_work ..).trans (flushOuts_work ..)
  · exact flushOuts_work ..

@[simp] theorem State.raise_work (f code part result detail : Nat) : (s.raise f code part result detail).work = s.work := by
  unfold State.raise
  extract_lets _ _ _ t
  have ht : t.work = s.work := by
    dsimp only [t]
    split <;> rfl
  rw [State.flush_work, ht]

@[simp] theorem State.reply_work (f : Nat) (o : Out) : (s.reply f o).work = s.work := by
  unfold State.reply
  split
  · rw [State.flush_work, State.putFn_work]
  · rfl

/-- A record of the error log is made without a change of contexts, jobs or the module's number (15 R655). -/
@[simp] theorem State.logErr_work (e : ErrRec) : (s.logErr e).work = s.work := by
  unfold State.logErr
  extract_lets _ _ u
  split
  · rfl
  · rename_i u _ _ _
    have hu : u.work = s.work := by
      dsimp only [u]
      split <;> rfl
    split
    · split
      · rw [State.raise_work, State.raise_work, hu]
      · rw [State.raise_work, hu]
    · exact hu

/-! ## Codewords (15 R634) -/

@[simp] theorem State.inocClear_work (d : Nat) : (s.inocClear d).work = s.work := by
  unfold State.inocClear
  extract_lets
  split
  · rfl
  · split <;> rfl

@[simp] theorem State.corrected_work (r : Region) (o : Nat) (ino : Bool) : (s.corrected r o ino).work = s.work := by
  unfold State.corrected
  split
  · rfl
  · extract_lets
    split
    · exact State.logErr_work ..
    · split
      · exact State.logErr_work ..
      · rfl

@[simp] theorem State.uncorrectable_work (r : Region) (o : Nat) (ino : Bool) (n : Nat) : (s.uncorrectable r o ino n).work = s.work := by
  rw [State.uncorrectable, State.logErr_work, State.setMark_work]

@[simp] theorem State.aliased_work (r : Region) (o : Nat) : (s.aliased r o).work = s.work := State.poke_work ..

@[simp] theorem State.decodeMark_work (r : Region) (o : Nat) (m : Mark) (ino : Bool) (n : Nat) :
    (s.decodeMark r o m ino n).work = s.work := by
  cases m with
  | clean => rfl
  | poison => rfl
  | one => simp [State.decodeMark]
  | bad => simp [State.decodeMark]
  | three =>
    simp only [State.decodeMark]
    split_ifs <;> simp

@[simp] theorem State.decodeCw_work (r : Region) (o : Nat) : (s.decodeCw r o).work = s.work := by
  simp only [State.decodeCw]
  split <;> simp

end

@[simp] theorem State.decodeSacks_work (s : State) (r : Region) (o n : Nat) : (s.decodeSacks r o n).work = s.work := by
  induction n generalizing s o with
  | zero => rfl
  | succ n ih => rw [State.decodeSacks, ih, State.decodeCw_work, State.decodeCw_work]

@[simp] theorem State.readCheck_work (s : State) (r : Region) (o n : Nat) : (s.readCheck r o n).work = s.work :=
  State.decodeSacks_work ..

@[simp] theorem State.writeCw_work (s : State) (r : Region) (o : Nat) (bs : List Byte) : (s.writeCw r o bs).work = s.work := by
  simp only [State.writeCw]
  split_ifs <;> simp

@[simp] theorem writeCws_work (r : Region) (n : Nat) (s : State) (o : Nat) (bs : List Byte) : (writeCws r n s o bs).work = s.work := by
  induction n generalizing s o bs with
  | zero => rfl
  | succ n ih =>
    cases bs with
    | nil => rfl
    | cons b bs => rw [writeCws, ih, State.writeCw_work]

@[simp] theorem State.write_work (s : State) (r : Region) (o : Nat) (bs : List Byte) : (s.write r o bs).work = s.work := by
  unfold State.write
  split
  · rfl
  · exact writeCws_work ..

/-! ## A context's copy and image (10 R404, R405) -/

section
variable (s : State) (d c : Nat) (x : Ctx)

@[simp] theorem State.rouse_work (st : Nat) : (s.rouse d c st).work = s.work := by
  simp only [State.rouse, State.unrest]
  split_ifs <;> rfl

theorem State.putCtx_work : (s.putCtx d c x).work = (mset ctxDefault s.ctxs (d * 25600 + c) x, s.jobs, s.modNum) := rfl

theorem State.putCtx_work_congr {s t : State} (h : t.work = s.work) (d c : Nat) (x : Ctx) : (t.putCtx d c x).work = (s.putCtx d c x).work := by
  rw [State.putCtx_work, State.putCtx_work, State.ctxs_of_work h, State.jobs_of_work h, State.modNum_of_work h]

theorem State.ctxFull_work : (s.ctxFull d c x).work = (s.putCtx d c x).work := by
  rw [State.ctxFull, State.write_work, State.putCtx_work_congr (State.rouse_work ..)]

/-- Of contexts and jobs a change of state changes the context's copy alone. -/
theorem State.ctxTo_work : (s.ctxTo d c x).work = (s.putCtx d c x).work := by
  simp only [State.ctxTo]
  split
  · rw [State.write_work, State.putCtx_work_congr (State.rouse_work ..)]
  · exact State.ctxFull_work ..

@[simp] theorem State.ctxTo_jobs : (s.ctxTo d c x).jobs = s.jobs :=
  congrArg (fun w => w.2.1) (State.ctxTo_work s d c x)

@[simp] theorem State.ctxTo_modNum : (s.ctxTo d c x).modNum = s.modNum :=
  congrArg (fun w => w.2.2) (State.ctxTo_work s d c x)

end

theorem State.ctxTo_ctxs (s : State) (d c : Nat) (x : Ctx) : (s.ctxTo d c x).ctxs = (s.putCtx d c x).ctxs :=
  congrArg Prod.fst (State.ctxTo_work s d c x)

section
variable {s : State} (h : mrising s.ctxs = true) (d c : Nat) (x : Ctx)
include h

theorem State.ctxTo_ctxs_rising : mrising (s.ctxTo d c x).ctxs = true := by
  rw [State.ctxTo_ctxs]
  exact mrising_mset _ _ h

theorem State.ctx_ctxTo_same : (s.ctxTo d c x).ctx d c = x := by
  rw [State.ctx_of_work (State.ctxTo_work s d c x), State.ctx_same h]

theorem State.ctx_ctxTo_ne {e u : Nat} (hk : e * 25600 + u ≠ d * 25600 + c) : (s.ctxTo d c x).ctx e u = s.ctx e u := by
  rw [State.ctx_of_work (State.ctxTo_work s d c x), State.ctx_ne h x hk]

/-- An accepted instruction leaves its context READY (10 R410). -/
theorem State.accept_ready (n : Nat) (out : Bool) : ((s.accept d c n out).ctx d c).state = cREADY := by
  simp only [State.accept]
  split
  · rw [State.ctx_same h]
  · rw [State.ctx_ctxTo_same h]

end

end Sys2Proof.Machine
end

section
/-!
PROOFS. Threads: a WAIT completes or holds its context (10 R414, R419).
-/
namespace Sys2Proof.Machine

/-! ## Commands of the synchronisation unit -/

theorem exec_wait (d c : Nat) (s : State) : exec (.wait d c) s =
    syncRow 0x61 d c s (fun w => [(decide (wbits w 76 52 ≠ 0), 1), (wCTR w = 0xFFF, 7)]) (s.wait d c) := rfl

theorem exec_waitRelease {s : State} {d c : Nat} (h : s.hasCtx d c = true) :
    exec (.waitRelease d c) s = .next (s.waitRelease d c) := if_pos h

/-! ## A WAIT is carried out -/

section
variable {s : State} {d c : Nat} {w : InstrWord}

/-- The counter of a WAIT, decoded, holds no poison: it is compared with the threshold. -/
theorem State.wait_clean
    (hp : (s.readCheck (.ctx d) (ctrOff (s.ctx d c).part (wCTR w)) 8).poisoned (.ctx d) (ctrOff (s.ctx d c).part (wCTR w)) 8 = false) :
    s.wait d c w =
      (let u := s.readCheck (.ctx d) (ctrOff (s.ctx d c).part (wCTR w)) 8
       if wTHR w ≤ u.ctrCount d (s.ctx d c).part (wCTR w) then u.accept d c 1 false
       else u.ctxTo d c { s.ctx d c with state := cWAIT, wctr := wCTR w, wthr := wTHR w, heldus := 0 }) :=
  if_neg (by rw [hp]; decide)

theorem State.waitRelease_idle (h : (s.ctx d c).state ≠ cWAIT) : s.waitRelease d c = s := if_pos h

theorem State.waitRelease_clean (h : (s.ctx d c).state = cWAIT)
    (hp : (s.readCheck (.ctx d) (ctrOff (s.ctx d c).part (s.ctx d c).wctr) 8).poisoned (.ctx d)
      (ctrOff (s.ctx d c).part (s.ctx d c).wctr) 8 = false) :
    s.waitRelease d c =
      (let u := s.readCheck (.ctx d) (ctrOff (s.ctx d c).part (s.ctx d c).wctr) 8
       if (s.ctx d c).wthr ≤ u.ctrCount d (s.ctx d c).part (s.ctx d c).wctr then u.accept d c 1 false else u) :=
  (if_neg (not_not.mpr h)).trans (if_neg (by rw [hp]; decide))

/-- A WAIT that the engine can take, leaving its context neither held nor stopped, is taken. -/
theorem exec_wait_takes (h : s.syncTakes 0x61 d c w) (hr : wbits w 76 52 = 0) (hc : wCTR w ≠ 0xFFF) {t : State} {st : Nat}
    (hw : s.wait d c w = t) (hst : (t.ctx d c).state = st) (h1 : st ≠ cHOLD) (h2 : st ≠ cSTOPPED) :
    exec (.wait d c) s = .next (syncLeaves d c t) := by
  subst hw hst
  rw [exec_wait]
  exact syncRow_takes h (by simp [firstFail, hr, hc]) h1 h2

end

/-- Settles O18: a WAIT whose counter is clean compares it once (`State.wait_clean`), and leaves its context READY or in WAIT, so that the
instruction was taken; its release compares again (`State.waitRelease_clean`). -/
theorem waitCompletesOrHoldsItsContext : Obligations.WaitCompletesOrHoldsItsContext := by
  unfold Obligations.WaitCompletesOrHoldsItsContext
  intro s d c w hs x
  refine ⟨?_, ?_, fun hctx hst => ?_⟩
  · intro ht hr hc u hp
    have hu : mrising u.ctxs = true := by
      rw [State.ctxs_of_work (State.readCheck_work ..)]
      exact State.canon_ctxs hs
    have hw := State.wait_clean hp
    refine ⟨fun hle => ?_, fun hlt => ?_⟩
    · exact exec_wait_takes ht hr hc (hw.trans (if_pos hle)) (State.accept_ready hu ..) (by decide) (by decide)
    · refine exec_wait_takes ht hr hc (hw.trans (if_neg (Nat.not_le.mpr hlt))) ?_ (st := cWAIT) (by decide) (by decide)
      rw [State.ctx_ctxTo_same hu]
  · intro hctx hst u hp
    rw [exec_waitRelease hctx, State.waitRelease_clean hst hp]
    exact ⟨fun hle => congrArg _ (if_pos hle), fun hlt => congrArg _ (if_neg (Nat.not_le.mpr hlt))⟩
  · rw [exec_waitRelease hctx, State.waitRelease_idle hst]

end Sys2Proof.Machine
end

section
/-!
PROOFS. Token counters: a post that a counter does not hold (10 R415).
-/
namespace Sys2Proof.Machine

theorem ctrOff_fits {p i : Nat} (hp : p < 8) (hi : i < 0xFFF) : ctrOff p i + 8 ≤ 2 ^ 64 := by unfold ctrOff; omega

section
variable {s : State} {d p i : Nat}

/-- A clean counter takes its 8 bytes as they are. -/
theorem State.write_ctr (hm : ∀ o, s.mark (.ctx d) o = .clean) (n : Nat) :
    s.write (.ctx d) (ctrOff p i) (toBytes 8 n) = s.poke (.ctx d) (ctrOff p i) (toBytes 8 n) := by
  have hlen := toBytes_length 8 n
  refine State.write_clean (fun _ => rfl) hm (by nofun) (List.ne_nil_of_length_eq_add_one hlen) ?_ (by rw [hlen]; decide)
  rw [hlen]
  unfold ctrOff
  omega

/-- COUNT at its end with OVF set, and the report of a counter-overflow fault (10 R415). -/
theorem State.postCtr_overflows (hm : ∀ o, s.mark (.ctx d) o = .clean) (hi : i < 0xFFF) {add tag : Nat} {clr : Bool}
    (h : 2 ^ 56 - 1 < (if clr then add else bits (s.peekN (.ctx d) (ctrOff p i) 8) 0 56 + add)) :
    s.postCtr d p i add clr tag = (s.poke (.ctx d) (ctrOff p i) (toBytes 8 (2 ^ 56 - 1 + 2 ^ 63))).report
      { die := d, tag := tag, part := p, cls := 0x16, addr := gaddr (.ctx d) (ctrOff p i) } := by
  rw [State.postCtr, State.postFor, if_neg (by omega), State.write_ctr hm]
  exact if_neg (by omega)

end

/-- Settles O21: the counter is written whole with the number 2^56 − 1 + 2^63 (`State.postCtr_overflows`), whose fields are read back. -/
theorem counterOverflowSticksAndIsReported : Obligations.CounterOverflowSticksAndIsReported := by
  unfold Obligations.CounterOverflowSticksAndIsReported
  intro s d p i add tag clr hs hp hi hm w t _ h
  have ht := State.postCtr_overflows (tag := tag) hm hi h
  have hread : t.peekN (.ctx d) (ctrOff p i) 8 = (2 ^ 56 - 1 + 2 ^ 63) % 256 ^ 8 :=
    calc t.peekN (.ctx d) (ctrOff p i) 8
      _ = (s.poke (.ctx d) (ctrOff p i) (toBytes 8 (2 ^ 56 - 1 + 2 ^ 63))).peekN (.ctx d) (ctrOff p i) 8 :=
        State.peekN_congr (by rw [show t = _ from ht, State.report_mem]) ..
      _ = (2 ^ 56 - 1 + 2 ^ 63) % 256 ^ 8 := State.peekN_poke (State.canon_mem_rising hs) _ _ _ _ (ctrOff_fits hp hi)
  refine ⟨?_, ?_, ?_, ?_⟩
  · rw [State.ctrCount, hread]
    decide
  · rw [hread]
    decide
  · rw [show t = _ from ht, State.report, enq, State.poke_reports]
  · rw [show t = _ from ht]
    rfl

end Sys2Proof.Machine
end

section
/-!
PROOFS. Threads: the fetch unit, the images of held contexts, and the watchdog (10 R405, R407, R409, R434, R435).
-/
namespace Sys2Proof.Machine

/-! ## Fetch (10 R407, R409) -/

section
variable {s : State} {d c : Nat}

theorem exec_instructionFetch (h : s.hasCtx d c = true) : exec (.instructionFetch d c) s = .next (s.fetch d c) := if_pos h

theorem exec_contextImageUpdate (h : s.hasCtx d c = true) (us : Nat) :
    exec (.contextImageUpdate d c us) s = .next (s.imageUpdate d c us) := if_pos h

theorem State.fetch_appends {o : Nat} (hst : (s.ctx d c).state = cREADY)
    (hroom : (s.ctx d c).ibuf.length < 16 ∨ s.bufUsed d c + 4 ≤ bufWords c)
    (ha : (s.ctx d c).pc + 16 * (s.ctx d c).ibuf.length < s.clim d (s.ctx d c).tag)
    (ho : s.rf d (oThrJob (s.ctx d c).tag) thrJobCbase + ((s.ctx d c).pc + 16 * (s.ctx d c).ibuf.length) = o)
    (hp : (s.readCheck (.cellar d) o 16).poisoned (.cellar d) o 16 = false) :
    s.fetch d c =
      (let u := s.readCheck (.cellar d) o 16
       u.putCtx d c { u.ctx d c with
         ibuf := (s.ctx d c).ibuf ++ u.codeWords d o ((64 - ((s.ctx d c).pc + 16 * (s.ctx d c).ibuf.length) % 64) / 16) }) := by
  subst ho
  rw [State.fetch, if_neg (not_not.mpr hst), if_neg (by omega), if_neg (by omega)]
  exact if_neg (by rw [hp]; decide)

theorem State.fetch_stops (hst : (s.ctx d c).state = cREADY) (hb : (s.ctx d c).ibuf = [])
    (ha : s.clim d (s.ctx d c).tag ≤ (s.ctx d c).pc) :
    s.fetch d c = s.reject d c 6 (if ctxEng c = 0 then 3 else 0) := by
  have hlen : (s.ctx d c).ibuf.length = 0 := by rw [hb]; rfl
  rw [State.fetch, if_neg (not_not.mpr hst), if_neg (by omega), if_pos (by omega)]
  exact if_pos hb

/-! ## Images (10 R405) -/

theorem State.imageUpdate_held (h : (s.ctx d c).state = cWAIT ∨ (s.ctx d c).state = cHOLD ∨ (s.ctx d c).state = cFENCE) (us : Nat) :
    s.imageUpdate d c us = s.ctxFull d c { s.ctx d c with heldus := min us (2 ^ 32 - 1) } := if_pos h

theorem State.imageUpdate_stopped (h : (s.ctx d c).state = cSTOPPED) (us : Nat) : s.imageUpdate d c us = s.ctxFull d c (s.ctx d c) := by
  rw [State.imageUpdate, if_neg (by rw [h]; decide), if_pos h]

end

/-! ## Several fields of a register -/

/-- Another field of the word stays where a field is replaced. -/
theorem getF_setF_other (v : RegWord) {f g : Fld} (x : Nat) (hg : g.lo + g.w ≤ 256) (h : g.lo + g.w ≤ f.lo ∨ f.lo + f.w ≤ g.lo) :
    getF (setF v f x) g = getF v g := by
  apply Nat.eq_of_testBit_eq
  intro k
  rw [testBit_getF, testBit_getF]
  by_cases hk : k < g.w
  · rw [getLsbD_setF _ _ _ _ (by omega), if_neg (by omega)]
  · simp [hk]

theorem State.rf_wfs {s : State} (h : mrising s.regs = true) (d o : Nat) (fs : List (Fld × Nat)) (g : Fld) :
    (s.wfs d o fs).rf d o g = getF (setFs (s.reg d o) fs) g := by
  rw [State.rf, State.wfs, State.reg_same h]

/-! ## The watchdog (10 R434, R435) -/

/-- The first hold is recorded in THR_WDOG of its partition; FIRED keeps it. -/
def State.holdRecorded (s : State) (d kind tag c : Nat) : State :=
  let o := oThrWdog (s.jobPart d tag)
  if s.rf d o thrWdogFired = 1 then s
  else s.wfs d o [(thrWdogFired, 1), (thrWdogCtx, c), (thrWdogKind, kind), (thrWdogTag, tag)]

/-- What the watchdog reports of a hold (10 R435). -/
def State.holdReport (s : State) (d kind tag c : Nat) : Report :=
  { die := d, tag := tag, part := s.jobPart d tag, cls := 0x11, cause := 5, island := ctxIsland c, sub := ctxInst c, detail := kind }

section
variable {s : State} {d kind tag c : Nat}

theorem State.wdog_fires (hi : (s.inoc d).point ≠ 0x50) {ms : Nat} (h0 : s.rf d (oThrWdog (s.jobPart d tag)) thrWdogTmo ≠ 0)
    (hms : s.rf d (oThrWdog (s.jobPart d tag)) thrWdogTmo ≤ ms) (body : State → State) :
    s.wdog d kind tag c ms body = body ((s.holdRecorded d kind tag c).report (s.holdReport d kind tag c)) := by
  have hlate : ¬ (s.rf d (oThrWdog (s.jobPart d tag)) thrWdogTmo = 0 ∨ ms < s.rf d (oThrWdog (s.jobPart d tag)) thrWdogTmo) := by omega
  simp only [State.wdog, State.holdRecorded, State.holdReport, hi, decide_false, Bool.false_and, Bool.false_eq_true, if_false, hlate,
    and_false]

theorem State.wdog_quiet (hi : (s.inoc d).point ≠ 0x50) {ms : Nat} (body : State → State)
    (h : s.rf d (oThrWdog (s.jobPart d tag)) thrWdogTmo = 0 ∨ ms < s.rf d (oThrWdog (s.jobPart d tag)) thrWdogTmo) :
    s.wdog d kind tag c ms body = s :=
  if_pos ⟨by simp [hi], h⟩

theorem State.holdRecorded_again (h : s.rf d (oThrWdog (s.jobPart d tag)) thrWdogFired = 1) : s.holdRecorded d kind tag c = s :=
  if_pos h

theorem State.holdRecorded_first (h : s.rf d (oThrWdog (s.jobPart d tag)) thrWdogFired = 0) :
    s.holdRecorded d kind tag c =
      s.wfs d (oThrWdog (s.jobPart d tag)) [(thrWdogFired, 1), (thrWdogCtx, c), (thrWdogKind, kind), (thrWdogTag, tag)] :=
  if_neg (by rw [h]; decide)

/-- A hold's record changes one register. -/
theorem State.holdRecorded_frame (hs : mrising s.regs = true) :
    s.holdRecorded d kind tag c = { s with regs := (s.holdRecorded d kind tag c).regs } ∧
    ∀ e k, regKey e k ≠ regKey d (oThrWdog (s.jobPart d tag)) → (s.holdRecorded d kind tag c).reg e k = s.reg e k := by
  unfold State.holdRecorded
  extract_lets o
  split
  · exact ⟨rfl, fun _ _ _ => rfl⟩
  · exact ⟨rfl, fun e k hk => State.reg_ne hs _ hk⟩

/-- The fields of the first hold's record; the time-out stays. -/
theorem State.holdRecorded_fields (hs : mrising s.regs = true) (hk : kind < 5) (ht : tag < 256) (hc : c < 25600)
    (h : s.rf d (oThrWdog (s.jobPart d tag)) thrWdogFired = 0) :
    let u := s.holdRecorded d kind tag c
    let o := oThrWdog (s.jobPart d tag)
    u.rf d o thrWdogFired = 1 ∧ u.rf d o thrWdogCtx = c ∧ u.rf d o thrWdogKind = kind ∧ u.rf d o thrWdogTag = tag ∧
      u.rf d o thrWdogTmo = s.rf d o thrWdogTmo := by
  intro u o
  simp only [u, o, State.holdRecorded_first h, State.rf_wfs hs, setFs]
  simp (disch := decide) only [getF_setF_same, getF_setF_other]
  exact ⟨rfl, Nat.mod_eq_of_lt (show c < 2 ^ 15 by omega), Nat.mod_eq_of_lt (show kind < 2 ^ 3 by omega),
    Nat.mod_eq_of_lt (show tag < 2 ^ 8 by omega), rfl⟩

end

/-! ### The holds it watches -/

section
variable {s : State} {d x : Nat} (hd : s.hasDie d = true) (ms : Nat)
include hd

theorem exec_watchdogFire_ctx (hx : x < 25600)
    (h : (s.ctx d x).state = cWAIT ∨ (s.ctx d x).state = cHOLD ∨ (s.ctx d x).state = cFENCE) :
    exec (.watchdogFire d 0 x ms) s = .next (s.wdog d 0 (s.ctx d x).tag x ms id) := by
  show execWatchdogFire d 0 x ms s = _
  simp only [execWatchdogFire, hd, hx, decide_true, Bool.and_self, if_true, State.watchdog, if_pos h]

theorem exec_watchdogFire_vat (hx : x < 16) {b : Beat} {bs : List Beat} (hb : (s.vat d x).inq = b :: bs) (hm : (s.vat d x).mashQ = [])
    (he : (s.vat d x).entryFree = true) :
    exec (.watchdogFire d 1 x ms) s =
      .next (s.wdog d 1 b.tag (s.waitingOn d b.tag (fun c _ => decide (c / 1024 = x))) ms id) := by
  show execWatchdogFire d 1 x ms s = _
  simp only [execWatchdogFire, hd, hx, decide_true, Bool.and_self, if_true, State.watchdog, hb, hm, he]

theorem exec_watchdogFire_ledger (hx : x < 256) (h : s.ledState d x = 1 ∨ s.ledState d x = 2 ∨ s.ledState d x = 3) :
    exec (.watchdogFire d 2 x ms) s = .next (s.wdog d 2 (bits (s.led d x) 48 8)
      (s.waitingOn d (bits (s.led d x) 48 8) (fun _ y => y.state = cWAIT && y.wctr = bits (s.led d x) 144 12)) ms
      (fun s => s.ledFault d x)) := by
  show execWatchdogFire d 2 x ms s = _
  simp only [execWatchdogFire, hd, hx, decide_true, Bool.and_self, if_true, State.watchdog, if_pos h]

theorem exec_watchdogFire_tracker (hx : x < 256) (h : (s.rackq d x).trkWait = 1) :
    exec (.watchdogFire d 3 x ms) s = .next (s.wdog d 3 (s.rackq d x).trkTag
      (s.waitingOn d (s.rackq d x).trkTag (waitsOn (s.queueWork d x (fun i => i.tag = (s.rackq d x).trkTag)))) ms id) := by
  show execWatchdogFire d 3 x ms s = _
  simp only [execWatchdogFire, hd, hx, decide_true, Bool.and_self, if_true, State.watchdog, h]

theorem exec_watchdogFire_remote (hx : x < 769) (h256 : x ≠ 256) {t : Nat} {l : List (Nat × Nat)} (h : s.remoteWait d x = some (t, l)) :
    exec (.watchdogFire d 4 x ms) s = .next (s.wdog d 4 t (s.waitingOn d t (waitsOn l)) ms id) := by
  show execWatchdogFire d 4 x ms s = _
  simp only [execWatchdogFire, hd, hx, h256, decide_true, ne_eq, not_false_eq_true, Bool.and_self, if_true, State.watchdog, h]

end

/-- Settles O22: the fetch unit and the image writer by the branch each case takes; the watchdog by what its record of the first hold holds
(`State.holdRecorded_fields`, `State.holdRecorded_frame`), and each kind of hold by its case of the step. -/
theorem fetchImagesAndTheWatchdog : Obligations.FetchImagesAndTheWatchdog := by
  unfold Obligations.FetchImagesAndTheWatchdog
  refine ⟨?_, ?_⟩
  · intro s d c us hctx x a o u
    rw [exec_instructionFetch hctx, exec_contextImageUpdate hctx]
    exact ⟨fun hst hroom ha hp => congrArg _ (State.fetch_appends hst hroom ha rfl hp),
      fun hst hb ha => congrArg _ (State.fetch_stops hst hb ha), fun h => congrArg _ (State.imageUpdate_held h us),
      fun h => congrArg _ (State.imageUpdate_stopped h us)⟩
  · intro s d ms hs hd
    have hregs := State.canon_regs_rising hs
    refine ⟨?_, fun c hc h => exec_watchdogFire_ctx hd ms hc h, fun v b bs hv hb hm he => exec_watchdogFire_vat hd ms hv hb hm he,
      fun l hl h => exec_watchdogFire_ledger hd ms hl h, fun q hq h => exec_watchdogFire_tracker hd ms hq h,
      fun x t l hx h256 h => exec_watchdogFire_remote hd ms hx h256 h⟩
    intro kind tag c body hk ht hc hi p o
    refine ⟨fun h0 hms => ?_, fun h => State.wdog_quiet hi body h⟩
    obtain ⟨hframe, hother⟩ := State.holdRecorded_frame (d := d) (kind := kind) (tag := tag) (c := c) hregs
    refine ⟨(s.holdRecorded d kind tag c).report (s.holdReport d kind tag c), State.wdog_fires hi h0 hms body,
      State.holdRecorded_fields hregs hk ht hc, fun h => by rw [State.report_regs, State.holdRecorded_again h], hother, ?_, ?_⟩
    · rw [hframe]
      rfl
    · rw [hframe]
      rfl

end Sys2Proof.Machine
end

section
/-!
PROOFS. Jobs: what a flood, a notice and the release of slots leave of contexts and jobs (10 R432, R436, 13 R575, 15 R642).
-/
namespace Sys2Proof.Machine

/-! ## Messages sent -/

section
variable (s : State)

@[simp] theorem State.enqueueMsg_work (d i ch : Nat) (m : Msg) : (s.enqueueMsg d i ch m).work = s.work := by
  unfold State.enqueueMsg
  extract_lets
  split
  · rfl
  · split
    · rfl
    · rename_i u _ _ _ _
      have hu : u.work = s.work := by
        dsimp only [u]
        split
        · exact State.inocClear_work ..
        · rfl
      extract_lets
      split
      · exact hu
      · exact hu

theorem State.sendMsg_work {s : State} {d ch part : Nat} {m : Msg} {u : Nat × State} (h : s.sendMsg d ch part m = .ok u) :
    u.2.work = s.work := by
  unfold State.sendMsg at h
  split at h
  · exact absurd h (by nofun)
  · split at h
    · exact absurd h (by nofun)
    · obtain rfl := Except.ok.inj h
      exact State.enqueueMsg_work ..

@[simp] theorem State.floodDie_work (d org ser : Nat) (body : List Byte) (tag : Nat) (skip : Option (Nat × Nat)) :
    (s.floodDie d org ser body tag skip).work = s.work := by
  unfold State.floodDie
  split
  · rfl
  · refine foldl_work (fun s i => ?_) ..
    split
    · rfl
    · exact State.enqueueMsg_work ..

@[simp] theorem State.flood_work (org ser : Nat) (body : List Byte) (tag : Nat) (skip : Option (Nat × Nat)) :
    (s.flood org ser body tag skip).work = s.work :=
  foldl_work (fun s _ => State.floodDie_work s ..) ..

@[simp] theorem State.sendPnots_work (d tag pjid ser addr cls : Nat) : (s.sendPnots d tag pjid ser addr cls).work = s.work := by
  refine foldl_work (fun s m => ?_) ..
  split
  · rename_i h
    exact State.sendMsg_work h
  · rfl

@[simp] theorem State.wakeIslands_work (mask : Nat) : (s.wakeIslands mask).work = s.work := by
  refine foldl_work (fun s d => ?_) ..
  split <;> rfl

@[simp] theorem State.endCmd_work (f status detail result : Nat) : (s.endCmd f status detail result).work = s.work := by
  unfold State.endCmd
  extract_lets
  split
  · rfl
  · split
    · rfl
    · exact State.reply_work ..

end

/-! ## Slot tables and rings -/

@[simp] theorem putWords_work (d t h : Nat) (s : State) (ws : List (Nat × RegWord)) : (putWords d t h s ws).work = s.work := by
  induction ws generalizing s with
  | nil => rfl
  | cons w ws ih => exact (ih _).trans (State.setReg_work ..)

@[simp] theorem setLong_work (v n : Nat) (s : State) : (setLong v n s).work = s.work := by
  induction n generalizing s with
  | zero => rfl
  | succ n ih => exact (ih _).trans (State.wfs_work ..)

@[simp] theorem clearTallies_work (d n : Nat) (s : State) : (clearTallies d n s).work = s.work := by
  induction n generalizing s with
  | zero => rfl
  | succ n ih => exact (ih _).trans (State.putVat_work ..)

section
variable (s : State)

@[simp] theorem State.setHalf_work (d t h : Nat) (ws : List (Nat × RegWord)) : (s.setHalf d t h ws).work = s.work :=
  putWords_work ..

@[simp] theorem State.slotEdit_work (d : Nat) (f : Nat → List (Nat × RegWord) → List (Nat × RegWord)) :
    (s.slotEdit d f).work = s.work := by
  refine foldl_work (fun s t => ?_) ..
  dsimp only
  split
  · rfl
  · rw [State.wf_work, State.setHalf_work]

@[simp] theorem State.holdDrops_work (d : Nat) (p : Nat → Bool) : (s.holdDrops d p).work = s.work := by
  refine foldl_work (fun s t => ?_) ..
  split <;> rfl

@[simp] theorem State.releaseSlots_work (p : Nat → Bool) : (s.releaseSlots p).work = s.work := by
  refine foldl_work (fun s d => ?_) ..
  split
  · rw [State.holdDrops_work, State.slotEdit_work]
  · rfl

@[simp] theorem State.freeRing_work (d tag : Nat) : (s.freeRing d tag).work = s.work := by
  unfold State.freeRing
  split
  · rw [clearTallies_work, State.putRing_work]
  · rfl

@[simp] theorem State.longEnds_work (tag : Nat) : (s.longEnds tag).work = s.work := by
  unfold State.longEnds
  split
  · exact setLong_work 0 s.nDies s
  · rfl

end

end Sys2Proof.Machine
end

section
/-!
PROOFS. Jobs: reports end jobs, an ending job stops its contexts, and its tag is free once every unit has drained (10 R436, 14 R612,
15 R640).
-/
namespace Sys2Proof.Machine

/-! ## Entries of a sparse map -/

theorem mem_of_mfind {α : Type} {m : SMap α} {k : Nat} {x : α} (h : mfind m k = some x) : (k, x) ∈ m := by
  induction m with
  | nil => exact absurd h (by nofun)
  | cons e m ih =>
    obtain ⟨j, y⟩ := e
    simp only [mfind] at h
    split at h
    · rename_i hj
      obtain rfl := Option.some.inj h
      rw [hj]
      exact List.mem_cons_self ..
    · split at h
      · exact absurd h (by nofun)
      · exact List.mem_cons_of_mem _ (ih h)

theorem lt_of_mlow {α : Type} {m : SMap α} {k : Nat} (hm : mrising m = true) (h : mlow k m = true) : ∀ e ∈ m, k < e.1 := by
  induction m generalizing k with
  | nil => exact fun _ he => absurd he (List.not_mem_nil)
  | cons f m ih =>
    simp only [mrising, Bool.and_eq_true] at hm
    have hk : k < f.1 := of_decide_eq_true h
    exact List.forall_mem_cons.mpr ⟨hk, ih hm.2 (mlow_trans (Nat.le_of_lt hk) hm.1)⟩

/-- The keys of a rising map differ. -/
theorem mkeys_nodup {α : Type} {m : SMap α} (hm : mrising m = true) : (m.map Prod.fst).Nodup := by
  induction m with
  | nil => exact List.nodup_nil
  | cons e m ih =>
    simp only [mrising, Bool.and_eq_true] at hm
    refine List.nodup_cons.mpr ⟨fun he => ?_, ih hm.2⟩
    obtain ⟨f, hf, hk⟩ := List.mem_map.mp he
    exact absurd hk (Nat.ne_of_gt (lt_of_mlow hm.2 hm.1 f hf))

theorem mfind_of_mem {α : Type} {m : SMap α} (hm : mrising m = true) {k : Nat} {x : α} (h : (k, x) ∈ m) : mfind m k = some x := by
  induction m with
  | nil => exact absurd h List.not_mem_nil
  | cons e m ih =>
    obtain ⟨j, y⟩ := e
    simp only [mrising, Bool.and_eq_true] at hm
    simp only [mfind]
    rcases List.mem_cons.mp h with he | he
    · obtain ⟨rfl, rfl⟩ := Prod.mk.inj he
      rw [if_pos rfl]
    · have hj : j < k := lt_of_mlow hm.2 hm.1 _ he
      rw [if_neg (by omega), if_neg (by omega), ih hm.2 he]

/-! ## The contexts of a tag -/

/-- Key of a context in the state. -/
def ctxKey (p : Nat × Nat) : Nat := p.1 * 25600 + p.2

section
variable {s : State} (hs : mrising s.ctxs = true) {tag e c : Nat}
include hs

theorem State.tagCtxs_keys (tag : Nat) : ((s.tagCtxs tag).map ctxKey).Nodup := by
  have hkeys : (s.tagCtxs tag).map ctxKey = (s.ctxs.filter (fun e => e.2.tag = tag && decide (e.2.state ≠ cFREE))).map Prod.fst := by
    rw [State.tagCtxs, List.map_map]
    exact List.map_congr_left fun e _ => Nat.div_add_mod' ..
  rw [hkeys]
  exact mkeys_nodup (mrising_filter _ hs)

/-- The listed contexts of a tag are those that hold it and are not FREE. -/
theorem State.mem_tagCtxs : e * 25600 + c ∈ (s.tagCtxs tag).map ctxKey ↔ (s.ctx e c).tag = tag ∧ (s.ctx e c).state ≠ cFREE := by
  have hctx : ∀ {x}, mfind s.ctxs (e * 25600 + c) = some x → s.ctx e c = x := fun h => by rw [State.ctx, mget, h]; rfl
  rw [State.tagCtxs, List.map_map, List.mem_map]
  constructor
  · rintro ⟨⟨k, x⟩, hmem, hk⟩
    obtain ⟨hlisted, hp⟩ := List.mem_filter.mp hmem
    have hk' : k = e * 25600 + c := (Nat.div_add_mod' ..).symm.trans hk
    subst hk'
    rw [hctx (mfind_of_mem hs hlisted)]
    simpa using hp
  · rintro ⟨htag, hst⟩
    cases hf : mfind s.ctxs (e * 25600 + c) with
    | none =>
      rw [State.ctx, mget, hf] at hst
      exact absurd rfl hst
    | some x =>
      rw [hctx hf] at htag hst
      exact ⟨(e * 25600 + c, x), List.mem_filter.mpr ⟨mem_of_mfind hf, by simp [htag, hst]⟩, Nat.div_add_mod' ..⟩

end

/-! ## Contexts stop (10 R403, R404) -/

/-- A context stopped at its head instruction. -/
def Ctx.stopped (x : Ctx) : Ctx :=
  if x.state = cSTOPPED then x
  else { x with state := cSTOPPED, wctr := 0, wthr := 0, heldus := 0, fopc := x.headOp, ending := false }

theorem Ctx.stopped_spec (x : Ctx) :
    x.stopped.state = cSTOPPED ∧ x.stopped.pc = x.pc ∧ (x.state ≠ cSTOPPED → x.stopped.fopc = x.headOp) := by
  unfold Ctx.stopped
  split
  · exact ⟨‹_›, rfl, fun h => absurd ‹_› h⟩
  · exact ⟨rfl, rfl, fun _ => rfl⟩

/-- One context of an ending job stops. -/
def State.stopCtx (s : State) (d c : Nat) : State :=
  if (s.ctx d c).state = cSTOPPED then s else s.ctxTo d c (s.ctx d c).stopped

theorem stopAll_cons (s : State) (d c : Nat) (l : List (Nat × Nat)) : stopAll s ((d, c) :: l) = stopAll (s.stopCtx d c) l := by
  unfold State.stopCtx Ctx.stopped
  rw [stopAll]
  split <;> rfl

section
variable {s : State}

theorem State.stopCtx_jobs (d c : Nat) : (s.stopCtx d c).jobs = s.jobs := by
  unfold State.stopCtx
  split
  · rfl
  · exact State.ctxTo_jobs ..

theorem State.stopCtx_modNum (d c : Nat) : (s.stopCtx d c).modNum = s.modNum := by
  unfold State.stopCtx
  split
  · rfl
  · exact State.ctxTo_modNum ..

variable (hs : mrising s.ctxs = true) (d c : Nat)
include hs

theorem State.stopCtx_rising : mrising (s.stopCtx d c).ctxs = true := by
  unfold State.stopCtx
  split
  · exact hs
  · exact State.ctxTo_ctxs_rising hs ..

theorem State.stopCtx_same : (s.stopCtx d c).ctx d c = (s.ctx d c).stopped := by
  unfold State.stopCtx
  split
  · rename_i h
    rw [Ctx.stopped, if_pos h]
  · exact State.ctx_ctxTo_same hs ..

theorem State.stopCtx_ne {e u : Nat} (hk : e * 25600 + u ≠ d * 25600 + c) : (s.stopCtx d c).ctx e u = s.ctx e u := by
  unfold State.stopCtx
  split
  · rfl
  · exact State.ctx_ctxTo_ne hs _ _ _ hk

end

@[simp] theorem stopAll_jobs (s : State) (l : List (Nat × Nat)) : (stopAll s l).jobs = s.jobs := by
  induction l generalizing s with
  | nil => rfl
  | cons p l ih => rw [stopAll_cons, ih, State.stopCtx_jobs]

@[simp] theorem stopAll_modNum (s : State) (l : List (Nat × Nat)) : (stopAll s l).modNum = s.modNum := by
  induction l generalizing s with
  | nil => rfl
  | cons p l ih => rw [stopAll_cons, ih, State.stopCtx_modNum]

/-- The contexts of a list of distinct contexts stop, and no other changes. -/
theorem stopAll_ctx {s : State} (hs : mrising s.ctxs = true) {l : List (Nat × Nat)} (hl : (l.map ctxKey).Nodup) (e u : Nat) :
    (stopAll s l).ctx e u = if e * 25600 + u ∈ l.map ctxKey then (s.ctx e u).stopped else s.ctx e u := by
  induction l generalizing s with
  | nil => rfl
  | cons p l ih =>
    obtain ⟨d, c⟩ := p
    rw [List.map_cons, List.nodup_cons] at hl
    rw [stopAll_cons, ih (State.stopCtx_rising hs ..) hl.2, List.map_cons]
    by_cases hk : e * 25600 + u = ctxKey (d, c)
    · have hsame : (s.stopCtx d c).ctx e u = (s.ctx e u).stopped := by
        have := State.stopCtx_same hs d c
        simpa only [State.ctx, show e * 25600 + u = d * 25600 + c from hk] using this
      rw [if_neg (by rw [hk]; exact hl.1), if_pos (by rw [hk]; exact List.mem_cons_self ..), hsame]
    · simp only [State.stopCtx_ne hs _ _ hk, List.mem_cons, hk, false_or]

/-! ## The end of a job begins (10 R436) -/

section
variable {s : State} {tag d cause fbit fcode org addr pcls : Nat} {idx : Option Nat}

theorem State.beginEnd_other (h : (s.job tag).phase ≠ 1) : s.beginEnd d tag cause fbit fcode idx org addr pcls = s := if_pos h

/-- The record of a job as it begins to end. -/
def JobRec.ending (j : JobRec) (d cause fbit fcode : Nat) (idx : Option Nat) (org : Nat) : JobRec :=
  { j with phase := 2, cause := cause, fdie := d, fbit := fbit, fcode := fcode, idx := idx, org := org }

/-- A running job's contexts stop and its record takes the cause; the flood and the notices leave both alone. -/
theorem State.beginEnd_work (h : (s.job tag).phase = 1) :
    (s.beginEnd d tag cause fbit fcode idx org addr pcls).work =
      (stopAll ((s.putJob tag ((s.job tag).ending d cause fbit fcode idx org)).wakeIslands (s.job tag).mask) (s.tagCtxs tag)).work := by
  unfold State.beginEnd
  extract_lets j u v ser w x
  have hx : x.work = v.work := by
    dsimp only [x]
    split
    · rfl
    · exact State.flood_work ..
  rw [if_neg (not_not.mpr h)]
  split
  · rfl
  · split
    · exact (State.sendPnots_work ..).trans hx
    · exact hx

theorem State.beginEnd_modNum : (s.beginEnd d tag cause fbit fcode idx org addr pcls).modNum = s.modNum := by
  by_cases h : (s.job tag).phase = 1
  · rw [State.modNum_of_work (State.beginEnd_work h), stopAll_modNum, State.modNum_of_work (State.wakeIslands_work ..),
      State.putJob_modNum]
  · rw [State.beginEnd_other h]

/-- Several jobs end with the module's own number as the origin, which none of them changes. -/
theorem foldl_beginEnd {n : Nat} (hn : s.modNum = n) (p : Nat × JobRec → Prop) [DecidablePred p] (l : SMap JobRec) :
    l.foldl (fun z e => if p e then z.beginEnd d e.1 cause fbit fcode idx z.modNum addr pcls else z) s =
      l.foldl (fun z e => if p e then z.beginEnd d e.1 cause fbit fcode idx n addr pcls else z) s := by
  induction l generalizing s with
  | nil => rw [List.foldl_nil, List.foldl_nil]
  | cons e l ih =>
    simp only [List.foldl_cons, hn]
    refine ih ?_
    split
    · exact State.beginEnd_modNum.trans hn
    · exact hn

variable (hc : mrising s.ctxs = true) (h : (s.job tag).phase = 1)
include hc h

/-- Every context of the tag that is not FREE stops, and no other changes. -/
theorem State.beginEnd_ctx (e c : Nat) : (s.beginEnd d tag cause fbit fcode idx org addr pcls).ctx e c =
    if (s.ctx e c).tag = tag ∧ (s.ctx e c).state ≠ cFREE then (s.ctx e c).stopped else s.ctx e c := by
  have hw := State.wakeIslands_work (s.putJob tag ((s.job tag).ending d cause fbit fcode idx org)) (s.job tag).mask
  have hrise := (State.ctxs_of_work hw).symm ▸ hc
  rw [State.ctx_of_work (State.beginEnd_work h), stopAll_ctx hrise (State.tagCtxs_keys hc tag), State.ctx_of_work hw,
    State.putJob_get_ctx]
  simp only [State.mem_tagCtxs hc]

omit hc in
theorem State.beginEnd_jobs : (s.beginEnd d tag cause fbit fcode idx org addr pcls).jobs =
    (s.putJob tag ((s.job tag).ending d cause fbit fcode idx org)).jobs := by
  rw [State.jobs_of_work (State.beginEnd_work h), stopAll_jobs, State.jobs_of_work (State.wakeIslands_work ..)]

end

/-! ## The end of a job (10 R436, 14 R612) -/

@[simp] theorem freeAll_jobs (s : State) (l : List (Nat × Nat)) : (freeAll s l).jobs = s.jobs := by
  induction l generalizing s with
  | nil => rfl
  | cons p l ih => exact (ih _).trans (State.ctxTo_jobs ..)

/-- The job's tag is free (10 R436). -/
theorem State.finishJob_job {s : State} (hj : mrising s.jobs = true) (tag : Nat) : (s.finishJob tag).job tag = {} := by
  unfold State.finishJob
  extract_lets j u v w res det x
  have hu : u.jobs = s.jobs := (freeAll_jobs ..).trans (State.jobs_of_work (State.longEnds_work ..))
  have hv : v.work = u.work := by
    refine foldl_work (fun s d => ?_) ..
    exact State.freeRing_work (s.wf d (oThrJob tag) thrJobEn 0) d tag
  have hx : x.work = w.work := (State.raise_work ..).trans (State.raise_work ..)
  have hw : (v.releaseSlots (fun t => t = tag)).jobs = s.jobs := by
    rw [State.jobs_of_work (State.releaseSlots_work ..), State.jobs_of_work hv, hu]
  have hlast : ∀ f : State → Nat → State, (∀ s n, (f s n).work = s.work) → ((List.range 9).foldl f x).job tag = {} := by
    intro f hf
    rw [State.job_of_work ((foldl_work hf ..).trans hx)]
    exact State.job_same (hw.symm ▸ hj) ..
  refine hlast _ fun s f => ?_
  split
  · split
    · exact State.endCmd_work ..
    · rfl
  · rfl

theorem exec_jobNormalEnd (tag : Nat) (s : State) :
    exec (.jobNormalEnd tag) s = .next (if (s.job tag).phase = 1 ∧ s.tagCtxs tag = [] then s.finishJob tag else s) := rfl

theorem exec_jobDrainComplete (tag : Nat) (s : State) :
    exec (.jobDrainComplete tag) s = .next (if (s.job tag).phase = 2 ∧ s.drainedAll tag then s.finishJob tag else s) := rfl

/-! ## Reports of units (10 R436, 15 R640) -/

theorem exec_jobFault (s : State) : exec .jobFault s = .next s.jobFault := rfl
theorem exec_poisonConsumed (s : State) : exec .poisonConsumed s = .next s.poisonEvent := rfl

theorem exec_dieHeartbeatTimeout {s : State} {d : Nat} (h : s.hasDie d = true) :
    exec (.dieHeartbeatTimeout d) s = .next (if 10 ≤ mget n0 s.dieHbAge d then s.dieLost d else s) :=
  if_neg (by rw [h]; decide)

section
variable {s : State} {r : Report} {rs : List Report}

theorem State.reportRec_work (s : State) (r : Report) (sec : Bool) : (s.reportRec r sec).2.work = s.work := by
  unfold State.reportRec
  split
  · rfl
  · exact State.logErr_work ..

theorem State.jobFault_none (h : takeFirst (fun r => ! r.poison) s.reports = none) : s.jobFault = s := by
  rw [State.jobFault, h]

/-- The end of a fault's or a peer's job, when the oldest such report is r. -/
theorem State.jobFault_takes (h : takeFirst (fun r => ! r.poison) s.reports = some (r, rs)) : s.jobFault =
    (let u : State := { s with reports := rs }
     let t := u.reportRec r (r.tagv && decide ((s.job r.tag).phase = 2))
     if r.cause = 2 then u.beginEnd r.die r.tag 2 0 0 none r.named 0 0
     else if ! r.tagv then t.2
     else t.2.beginEnd r.die r.tag r.cause (if r.unit then 0 else 1) (if r.unit then r.detail else r.cls) (some t.1) s.modNum 0 0) := by
  rw [State.jobFault, h]
  rfl

theorem State.poisonEvent_none (h : takeFirst (fun r => r.poison) s.reports = none) : s.poisonEvent = s := by
  rw [State.poisonEvent, h]

/-- Whom consumed poison ends, when its oldest report is r. -/
theorem State.poisonEvent_takes (h : takeFirst (fun r => r.poison) s.reports = some (r, rs)) : s.poisonEvent =
    (let u : State := { s with reports := rs }
     let t := u.reportRec r (r.tagv && decide ((s.job r.tag).phase = 2))
     let k := u.poisonCls r.addr
     if r.tagv then t.2.beginEnd r.die r.tag 4 1 4 (some t.1) s.modNum r.addr k
     else if r.part < 8 then t.2.jobs.foldl (fun z e =>
       if e.2.part = r.part then z.beginEnd r.die e.1 4 1 4 (some t.1) z.modNum r.addr k else z) t.2
     else t.2.dieLost r.die) := by
  rw [State.poisonEvent, h]
  rfl

end

/-! ## An ABORT arrives (13 R575) -/

theorem exec_abort {s : State} {d i ch : Nat} {m : Msg} (hp : s.hasPort d i = true) (hc : ch < 15)
    (hm : (s.rxch d i ch).msg = some m) (ht : m.typ = mABORT) : exec (.abort d i ch) s = .next (s.abortRx d i ch m) := by
  have hx : s.crosses d ch m = true := by rw [State.crosses, ht]; rfl
  exact msgRow_delivers hp hc hm ht hx

section
variable {s : State} {d i ch : Nat} {m : Msg} {v w : State} (hv : { (s.consume d i ch).tick with time := (s.consume d i ch).now } = v)
include hv

theorem State.abortRx_seen
    (h : (v.seenAt d).any (fun e => e.1 = bits (ofBytes m.body) 32 16 && e.2.1 = bits (ofBytes m.body) 48 16) = true) :
    s.abortRx d i ch m = v := by
  subst hv
  exact if_pos h

/-- An ABORT not seen before is flooded, and the running job it names, if there is one, is reported. -/
theorem State.abortRx_new
    (h : (v.seenAt d).any (fun e => e.1 = bits (ofBytes m.body) 32 16 && e.2.1 = bits (ofBytes m.body) 48 16) = false)
    (hw : v.flood (bits (ofBytes m.body) 32 16) (bits (ofBytes m.body) 48 16) m.body m.tag (some (d, i)) = w) :
    s.abortRx d i ch m = (w.jobs.find? (fun e => e.2.phase = 1 && e.2.pjid = bits (ofBytes m.body) 0 32)).elim w (fun e =>
      w.report { die := d, tag := e.1, part := e.2.part, cause := 2, cls := 0, named := bits (ofBytes m.body) 32 16,
                 detail := bits (ofBytes m.body) 64 8 }) := by
  subst hv hw
  refine (if_neg (ne_true_of_eq_false h)).trans ?_
  split
  · rename_i hf
    rw [hf]
    rfl
  · rename_i hf
    rw [hf]
    rfl

end

/-- Settles O37: the reports and the ABORT by the branches of their steps; the end of a running job by what stopping the contexts of its tag
does to each context (`State.beginEnd_ctx`) and its record (`State.beginEnd_jobs`), which the flood leaves alone; the freed tag by
`State.finishJob_job`. -/
theorem jobsEndStopAndDrain : Obligations.JobsEndStopAndDrain := by
  unfold Obligations.JobsEndStopAndDrain
  refine ⟨?_, ?_⟩
  · intro s r rs d i ch m u t k
    refine ⟨fun h => ?_, fun h => ?_, fun h => ?_, fun h => ?_, fun hd => ?_, ?_⟩
    · rw [exec_jobFault, State.jobFault_takes h]
      refine ⟨fun h2 => congrArg _ (if_pos h2), fun h2 hv => congrArg _ ?_, fun h2 hv => congrArg _ ?_⟩
      · exact (if_neg h2).trans (if_pos (by rw [hv]; rfl))
      · exact (if_neg h2).trans (if_neg (by rw [hv]; decide))
    · rw [exec_poisonConsumed, State.poisonEvent_takes h]
      have hn : t.2.modNum = s.modNum := State.modNum_of_work (State.reportRec_work ..)
      refine ⟨fun hv => congrArg _ (if_pos hv), fun hv hp => congrArg _ ?_, fun hv hp => congrArg _ ?_⟩
      · exact (if_neg (by rw [hv]; decide)).trans ((if_pos hp).trans (foldl_beginEnd hn ..))
      · exact (if_neg (by rw [hv]; decide)).trans (if_neg (Nat.not_lt.mpr hp))
    · rw [exec_jobFault, State.jobFault_none h]
    · rw [exec_poisonConsumed, State.poisonEvent_none h]
    · rw [exec_dieHeartbeatTimeout hd]
      exact ⟨fun h => congrArg _ (if_pos h), fun h => congrArg _ (if_neg (Nat.not_le.mpr h))⟩
    · intro hp hc hm ht c v b seen w
      rw [exec_abort hp hc hm ht]
      refine ⟨fun h => congrArg _ (State.abortRx_seen rfl h), fun h hf => congrArg _ ?_, fun e h hf => congrArg _ ?_⟩
      · rw [State.abortRx_new rfl h rfl, hf]
        rfl
      · rw [State.abortRx_new rfl h rfl, hf]
        rfl
  · intro s tag d cause fbit fcode org addr pcls idx hs j t
    have hctxs := State.canon_ctxs hs
    have hjobs := State.canon_jobs hs
    have hfree : ((s.finishJob tag).job tag).phase = 0 := by rw [State.finishJob_job hjobs]
    refine ⟨State.beginEnd_other, fun h => ⟨?_, fun g hg => ?_, fun e c _ htag hst => ?_, fun e c _ htag => ?_⟩, fun h hn => ?_, fun h hn => ?_,
      fun h hd => ?_, fun h => ?_⟩
    · rw [State.job, State.beginEnd_jobs h]
      exact State.job_same hjobs ..
    · rw [State.job, State.beginEnd_jobs h]
      exact State.job_ne hjobs _ hg
    · rw [State.beginEnd_ctx hctxs h, if_pos ⟨htag, hst⟩]
      exact Ctx.stopped_spec _
    · rw [State.beginEnd_ctx hctxs h, if_neg fun hx => htag hx.1]
    · rw [exec_jobNormalEnd, if_pos ⟨h, hn⟩]
      exact goesOn_next ⟨rfl, hfree⟩
    · rw [exec_jobNormalEnd, if_neg fun hx => hn hx.2]
    · rw [exec_jobDrainComplete, if_pos ⟨h, hd⟩]
      exact goesOn_next ⟨rfl, hfree⟩
    · rw [exec_jobDrainComplete, if_neg]
      rintro ⟨hph, hd⟩
      exact h.elim (absurd hph) fun hf => Bool.false_ne_true (hf.symm.trans hd)

end Sys2Proof.Machine
end

section
/-!
PROOFS. The tun: a POUR and a COLLECT enter it (11 R450, R462-R468, 10 R778).
-/
namespace Sys2Proof.Machine

section
variable {s : State} {d c : Nat} {w : InstrWord}

theorem exec_pour (h : s.presents d c w) (he : ctxEng c = 3) (ho : wbits w 0 8 = 0x70) :
    exec (.pour d c) s = .next (s.pour d c w) := by
  change issue (· = 3) (· = 0x70) 0 d c s (s.pour d c) = _
  exact issue_presents h (decide_eq_true he) (decide_eq_true ho)

theorem exec_collect (h : s.presents d c w) (he : ctxEng c = 3) (ho : wbits w 0 8 = 0x71) :
    exec (.collect d c) s = .next (s.collect d c w) := by
  change issue (· = 3) (· = 0x71) 0 d c s (s.collect d c) = _
  exact issue_presents h (decide_eq_true he) (decide_eq_true ho)

end

/-! ## A POUR -/

/-- Context c of die d has put the POUR p into the tun's instruction queue (11 R450). -/
def State.pourEnters (s : State) (d c : Nat) (p : Pour) : State :=
  { s with tunq := enq s.tunq p, rackSeq := s.rackSeq + 1 }.accept d c 1 true

/-- The tun's transfer i has joined rack queue qu, whose other contents are those of q, and the racking engine is awake (17 R708). -/
def State.tunTransfer (s : State) (d qu : Nat) (q : RackQ) (i : RInstr) : State :=
  (s.unrest d 22).putRackq d qu { q with tins := enq q.tins i }

section
variable {s : State} {d c : Nat} {w : InstrWord}

theorem State.pour_full (h : 16 ≤ s.tunqLen d) : s.pour d c w = s.hold d c := if_pos h

variable (hq : s.tunqLen d < 16)
include hq

/-- A chained POUR reads no descriptor: it enters the tun unless a check rejects it. -/
theorem State.pour_chained (hc : poCHAIN w = true) : s.pour d c w =
    (firstFail (s.pourChecks d (s.ctx d c).tag (s.ctx d c).part w {} (0, false))).elim
      (s.pourEnters d c { id := s.rackSeq, d := d, c := c, tag := (s.ctx d c).tag, part := (s.ctx d c).part, word := w, desc := {} })
      (fun k => s.reject d c k (poSLOT w)) := by
  rw [State.pour, if_neg (Nat.not_le.mpr hq)]
  simp only [hc, if_true, Bool.false_eq_true, if_false]
  split <;> rename_i h <;> rw [h] <;> rfl

variable {y : Desc} {u : State}

theorem State.pour_poisoned (hc : poCHAIN w = false) (hl : s.loadDesc d (s.ctx d c).part (poSDESC w) = (y, true, u)) :
    s.pour d c w = u.tunDescPoison d c (poSDESC w) := by
  rw [State.pour, if_neg (Nat.not_le.mpr hq)]
  simp only [hc, hl, Bool.false_eq_true, if_false, if_true]

/-- A POUR whose descriptor y is clean enters its rack queue and the tun unless a check rejects it. -/
theorem State.pour_loaded (hc : poCHAIN w = false) (hl : s.loadDesc d (s.ctx d c).part (poSDESC w) = (y, false, u)) : s.pour d c w =
    (firstFail (u.pourChecks d (s.ctx d c).tag (s.ctx d c).part w y
        (u.descCheck d (s.ctx d c).tag (s.ctx d c).part (u.selHere d (s.ctx d c).tag y) y))).elim
      ((u.tunTransfer d (poQUEUE w) (u.rackq d (poQUEUE w))
          { word := w, opc := 0x70, c := c, tag := (s.ctx d c).tag, part := (s.ctx d c).part, seq := u.rackSeq }).pourEnters d c
        { id := u.rackSeq, d := d, c := c, tag := (s.ctx d c).tag, part := (s.ctx d c).part, word := w, desc := y })
      (fun k => u.reject d c k (poSLOT w)) := by
  rw [State.pour, if_neg (Nat.not_le.mpr hq)]
  simp only [hc, hl, Bool.false_eq_true, if_false]
  split <;> rename_i h <;> rw [h] <;> rfl

end

/-! ## A COLLECT -/

/-- The slot a COLLECT of context c would arm: its record as latched, before its descriptor is read. -/
def State.collecting (s : State) (d c : Nat) (w : InstrWord) : TSlot :=
  { state := 1, rec_ := (s.reg d (oTunColl (s.ctx d c).part (coSLOT w))).toNat, word := w, tag := (s.ctx d c).tag,
    part := (s.ctx d c).part, c := c, id := s.rackSeq, step := s.rf d (oBarmStep (s.ctx d c).tag) barmStepStep }

/-- The slot that the COLLECT of a arms: its descriptor is y, and the POURs that waited for it are registered. -/
def State.collectSlot (s : State) (d : Nat) (a : TSlot) (y : Desc) : TSlot :=
  TSlot.join 1024 { a with desc := y, waiting := (s.tslot d a.part (coSLOT a.word)).waiting }

/-- Owners of the tun buffers when the slot b of the COLLECT of a has taken its window (11 R468). -/
def State.collectOwn (s : State) (d : Nat) (a b : TSlot) : SMap Nat :=
  (List.range b.nbuf).foldl (fun m n => mset n0 m (d * 1024 + b.f tunCollCbuf + n) (1 + 64 * (a.part % 8) + coSLOT a.word)) s.tunOwn

/-- The descriptors in flight that the writes of the COLLECT of a, in slot b, overlap (08 R343). -/
def State.collectOverlaps (s : State) (d : Nat) (a b : TSlot) (y : Desc) : List Desc :=
  if b.fx then [] else s.overlaps d a.tag [{ desc := y, idx := s.collectWrites d b y }]

/-- The COLLECT of a, with descriptor y, has entered the tun: the overlap is recorded, a COLLECT that writes has joined its rack queue,
its slot is armed and holds its window, and its context goes on. -/
def State.collectArms (s : State) (d : Nat) (a : TSlot) (y : Desc) : State :=
  let b := s.collectSlot d a y
  let ov := s.collectOverlaps d a b y
  let v := s.overlapMark d a.c a.part a.tag ov
  let z := if b.fx then v else v.tunTransfer d (poQUEUE a.word) (s.rackq d (poQUEUE a.word))
    { word := a.word, opc := 0x71, c := a.c, tag := a.tag, part := a.part, seq := v.rackSeq, ov := decide (ov ≠ []) }
  ((({ z with tunOwn := s.collectOwn d a b, rackSeq := z.rackSeq + 1 } : State).putTslot d a.part (coSLOT a.word) b).pump
    d a.part (coSLOT a.word)).accept d a.c 1 true

section
variable {s u : State} {d c : Nat} {w : InstrWord} {y : Desc} {dc : Nat × Bool}

theorem State.collect_full (h : 16 ≤ s.tunqLen d) : s.collect d c w = s.hold d c := if_pos h

variable (hq : s.tunqLen d < 16)
include hq

theorem State.collect_poisoned (hf : (s.collecting d c w).fx = false)
    (hl : s.loadDesc d (s.ctx d c).part (coDDESC w) = (y, true, u)) : s.collect d c w = u.tunDescPoison d c (coDDESC w) := by
  unfold State.collecting at hf
  rw [State.collect, if_neg (Nat.not_le.mpr hq)]
  simp only [hf, hl, Bool.false_eq_true, if_false, if_true]

/-- A COLLECT arms its slot unless a check rejects it; one with a retained output reads no descriptor. -/
theorem State.collect_checked (hx : (s.collecting d c w).fx = true → y = {} ∧ u = s ∧ dc = (0, false))
    (hl : (s.collecting d c w).fx = false → s.loadDesc d (s.ctx d c).part (coDDESC w) = (y, false, u) ∧
      dc = u.descCheck d (s.ctx d c).tag (s.ctx d c).part (u.collectSel d (s.collecting d c w) y) y) :
    s.collect d c w =
      (firstFail (u.collectChecks d (s.ctx d c).tag (s.ctx d c).part w (s.collecting d c w) y dc)).elim
        (u.collectArms d (s.collecting d c w) y)
        (fun k => u.reject d c k (coSLOT w)) := by
  rw [State.collect, if_neg (Nat.not_le.mpr hq)]
  unfold State.collecting at hx hl ⊢
  cases hf : (s.collecting d c w).fx <;> unfold State.collecting at hf
  case true =>
    obtain ⟨rfl, rfl, rfl⟩ := hx hf
    simp only [hf, if_true, Bool.false_eq_true, if_false]
    split <;> rename_i h <;> rw [h] <;> rfl
  case false =>
    obtain ⟨hl, rfl⟩ := hl hf
    simp only [hf, hl, Bool.false_eq_true, if_false]
    split <;> rename_i h <;> rw [h] <;> rfl

end

/-- Settles O33: each case of POUR and of COLLECT by the lemma of the branch that its queue, descriptor and checks choose. -/
theorem tunInstructionsEnterTheTun : Obligations.TunInstructionsEnterTheTun := by
  unfold Obligations.TunInstructionsEnterTheTun
  intro s d c w hw he x sl p a
  refine ⟨fun ho hq hc => ?_, fun y u ho hq hc hl => ?_, fun y u hq => ⟨fun ho hc hl => ?_, fun ho hf hl => ?_⟩,
    fun y u dc ho hq hx hl => ?_, fun hq => ⟨fun ho => ?_, fun ho => ?_⟩⟩
  · rw [exec_pour hw he ho, State.pour_chained hq hc]
    exact ⟨fun h => by rw [h]; rfl, fun k h => by rw [h]; rfl⟩
  · rw [exec_pour hw he ho, State.pour_loaded hq hc hl]
    exact ⟨fun k h => congrArg (fun o => Host.Outcome.next (Option.elim o _ _)) h,
      fun h => congrArg (fun o => Host.Outcome.next (Option.elim o _ _)) h⟩
  · rw [exec_pour hw he ho, State.pour_poisoned hq hc hl]
  · rw [exec_collect hw he ho, State.collect_poisoned hq hf hl]
  · rw [exec_collect hw he ho, State.collect_checked hq hx hl]
    exact ⟨fun h => congrArg (fun o => Host.Outcome.next (Option.elim o _ _)) h,
      fun k h => congrArg (fun o => Host.Outcome.next (Option.elim o _ _)) h⟩
  · rw [exec_pour hw he ho, State.pour_full hq]
  · rw [exec_collect hw he ho, State.collect_full hq]

end Sys2Proof.Machine
end

section
/-!
PROOFS. The tun: chunks are sent and released (11 R456, R458, R472-R482).
-/
namespace Sys2Proof.Machine

section
variable {s : State} {d p sl : Nat} (hd : s.hasDie d = true) (hp : p < 8) (hs : sl < 64)
include hd hp hs

theorem exec_chunkSend : exec (.chunkSend d p sl) s = .next (s.chunkSend d p sl) := if_pos (by simp [hd, hp, hs])

theorem exec_chunkRelease : exec (.chunkRelease d p sl) s = .next (s.chunkRelease d p sl) := if_pos (by simp [hd, hp, hs])

end

theorem State.inocPartial_off {s : State} {d : Nat} (h : (s.inoc d).point ≠ 0x30) (vs : List (Int × Nat)) :
    s.inocPartial d vs = (vs, false, s) := if_pos h

/-! ## A chunk message is sent -/

/-- The bridges to the port take the next chunk message of slot x (01 R24). -/
def State.chunkCrosses (s : State) (d : Nat) (x : TSlot) : Bool :=
  (s.chunkDest d x).all (fun m => s.bridgesTake (s.rf d (oTunAxis x.tag (x.f tunCollAxis)) tunAxisVc) x.tag (s.chunkPath d x m))

/-- The reduce-phase message of chunk k with the partial sum vs and the gauge g; a poisoned one carries no values (11 R476, R477). -/
def State.partialOut (s : State) (d : Nat) (x : TSlot) (k : Nat) (vs : List (Int × Nat)) (psn : Bool) (g : Nat) : TOut :=
  let pk := packed vs
  { dest := s.partialTo d x k, data := if psn then [] else pk.2.2.2,
    head := chunkHead x d k 0 ((x.chunk k).ncon + 1) (if psn then 0 else pk.1) (if psn then 0 else pk.2.1) (! psn && pk.2.2.1) psn g }

/-- The partial sum vs of chunk k is sent and stored, and the chunk leaves the member; a message that cannot be sent leaves the chunk. -/
def State.sendPartial (s : State) (d p sl : Nat) (x : TSlot) (k : Nat) (vs : List (Int × Nat)) (psn : Bool) (g : Nat) : State :=
  let v := s.chunkMsg d p sl (s.partialOut d x k vs psn g)
  if ! v.1 then v.2 else
  let b := v.2.bufStore d x k vs psn
  (b.putTslot d p sl ((b.tslot d p sl).leave k false)).pump d p sl

section
variable {s : State} {d p sl : Nat} {x : TSlot} {k : Nat} {vs : List (Int × Nat)} {psn : Bool} {g : Nat}

theorem State.sendPartial_sent (h : (s.chunkMsg d p sl (s.partialOut d x k vs psn g)).1 = true) :
    s.sendPartial d p sl x k vs psn g =
      (let b := (s.chunkMsg d p sl (s.partialOut d x k vs psn g)).2.bufStore d x k vs psn
       (b.putTslot d p sl ((b.tslot d p sl).leave k false)).pump d p sl) := if_neg (by rw [h]; decide)

theorem State.sendPartial_unsent (h : (s.chunkMsg d p sl (s.partialOut d x k vs psn g)).1 = false) :
    s.sendPartial d p sl x k vs psn g = (s.chunkMsg d p sl (s.partialOut d x k vs psn g)).2 := if_pos (by rw [h]; rfl)

end

theorem State.chunkSend_waits {s : State} {d p sl : Nat}
    (h : (s.tslot d p sl).state ≠ 1 ∨ ¬ s.chunkCrosses d (s.tslot d p sl) = true) : s.chunkSend d p sl = s :=
  if_pos (h.imp_right fun hc => by rw [Bool.not_eq_true] at hc; exact congrArg (! ·) hc)

section
variable {s : State} {d p sl : Nat} (hst : (s.tslot d p sl).state = 1) (hc : s.chunkCrosses d (s.tslot d p sl) = true)
include hst hc

theorem State.not_chunkSend_waits : ¬ ((s.tslot d p sl).state ≠ 1 ∨ (! s.chunkCrosses d (s.tslot d p sl)) = true) := by
  simp [hst, hc]

theorem State.chunkSend_result {o : TOut} {os : List TOut} (ho : (s.tslot d p sl).outs = o :: os) :
    s.chunkSend d p sl = ((s.putTslot d p sl { s.tslot d p sl with outs := os }).chunkMsg d p sl o).2 := by
  refine (if_neg (State.not_chunkSend_waits hst hc)).trans ?_
  rw [ho]

theorem State.chunkSend_idle (ho : (s.tslot d p sl).outs = []) (hk : s.readyChunk d (s.tslot d p sl) false = none) :
    s.chunkSend d p sl = s := by
  refine (if_neg (State.not_chunkSend_waits hst hc)).trans ?_
  rw [ho, hk]

section
variable {k : Nat} {r : State} {x : TSlot} {e : List (Int × Nat) × Nat} (ho : (s.tslot d p sl).outs = [])
  (hk : s.readyChunk d (s.tslot d p sl) false = some k) (hr : s.readSum d p sl k = r) (hx : r.tslot d p sl = x)
  (he : r.partialOf d x k = e)
include ho hk hr hx he

/-- The next complete partial sum is sent: as it is when it is poisoned, else as the inoculation leaves it, and poisoned when it then
fails its gauge (11 R480, R482). -/
theorem State.chunkSend_partial {t : List (Int × Nat) × Bool × State} {psn bad : Bool} (hp : (x.chunk k).psn = psn)
    (ht : (if psn then (e.1, false, r) else r.inocPartial d e.1) = t)
    (hb : (! psn && decide (t.2.2.slotGauge d x k (fun _ => true) t.1 ≠ e.2)) = bad) :
    s.chunkSend d p sl = (if bad then t.2.2.mismatch d p sl x k 1 t.2.2.modNum false 0x0A t.2.1 else t.2.2).sendPartial d p sl x k t.1
      (psn || bad) e.2 := by
  subst hr hx he hp ht hb
  refine (if_neg (State.not_chunkSend_waits hst hc)).trans ?_
  rw [ho, hk]
  rfl

theorem State.chunkSend_poisoned (hp : (x.chunk k).psn = true) : s.chunkSend d p sl = r.sendPartial d p sl x k e.1 true e.2 := by
  rw [State.chunkSend_partial hst hc ho hk hr hx he hp (if_pos rfl) (Bool.false_and _), if_neg Bool.false_ne_true, Bool.true_or]

variable {t : List (Int × Nat) × Bool × State} (ht : r.inocPartial d e.1 = t)
include ht

theorem State.chunkSend_gauged (hp : (x.chunk k).psn = false) (hg : t.2.2.slotGauge d x k (fun _ => true) t.1 = e.2) :
    s.chunkSend d p sl = t.2.2.sendPartial d p sl x k t.1 false e.2 := by
  rw [State.chunkSend_partial hst hc ho hk hr hx he hp ((if_neg Bool.false_ne_true).trans ht) (decide_eq_false (not_not.mpr hg)),
    if_neg Bool.false_ne_true, Bool.false_or]

theorem State.chunkSend_mismatch (hp : (x.chunk k).psn = false) (hg : t.2.2.slotGauge d x k (fun _ => true) t.1 ≠ e.2) :
    s.chunkSend d p sl =
      (t.2.2.mismatch d p sl x k 1 t.2.2.modNum false 0x0A t.2.1).sendPartial d p sl x k t.1 true e.2 := by
  rw [State.chunkSend_partial hst hc ho hk hr hx he hp ((if_neg Bool.false_ne_true).trans ht) (decide_eq_true hg), if_pos rfl,
    Bool.or_true]

end

end

/-! ## A result is released -/

/-- Members the owner passes a result on to: none in RS or alone, every other one in a group, the next one on a ring (11 R474). -/
def State.resultTo (s : State) (d : Nat) (x : TSlot) (np : Nat) : List Nat :=
  if x.kind = 0 ∨ np ≤ 1 then [] else if s.slotA2A d x then (List.range np).filter (· ≠ s.slotC d x)
  else [ringStep np (s.slotC d x) 1 (x.f tunCollDir = 1)]

/-- Codes of a converted result; a retained one and a STATUS have none. -/
def TSlot.resultCodes (x : TSlot) (vs : List (Int × Nat)) : List Nat := if x.native then (vs.map x.convert).map (fun o => o.1) else []

/-- The final sum vs of chunk k, of np contributors, is passed on and delivered, with the gauge g when it is not poisoned. -/
def State.releaseSum (s : State) (d p sl : Nat) (x : TSlot) (k np : Nat) (vs : List (Int × Nat)) (psn : Bool) (g : Nat) : State :=
  let y := s.tslot d p sl
  ((s.putTslot d p sl { y with outs := y.outs ++ s.resultOuts d x k (x.resultCodes vs) vs psn g (s.resultTo d x np) }).deliver
    d p sl k (x.resultCodes vs) vs psn).pump d p sl

/-- The conversions of chunk k's elements are counted in the record's set (11 R456). -/
def State.countResult (s : State) (d p : Nat) (x : TSlot) (k : Nat) (vs : List (Int × Nat)) : State :=
  ((vs.map x.convert).take (min 128 (x.nelem - 128 * k))).foldl (fun s o => s.count d p (x.f tunCollHset) o.2) s

/-- The final sum vs of chunk k, checked, is converted unless it is poisoned or retained, and released; an inoculated conversion fails its
check (11 R482, 15 R660). -/
def State.convertSum (s : State) (d p sl : Nat) (x : TSlot) (k np : Nat) (vs : List (Int × Nat)) (psn : Bool) : State :=
  let conv := x.native && ! psn
  let ino := conv && decide ((s.inoc d).point = 0x31)
  let u := if ino then (s.inocClear d).mismatch d p sl x k 2 s.modNum false 0x0C true else s
  let v := if conv ∧ ! ino ∧ x.f tunCollHen = 1 then u.countResult d p x k vs else u
  v.releaseSum d p sl x k np vs (psn || ino)
    (if psn || ino then 0 else v.slotGauge d x k (fun _ => true) (if x.native then x.codeVals (x.resultCodes vs) else vs))

section
variable {s : State} {d p sl k np : Nat} {x : TSlot} {vs : List (Int × Nat)}

theorem State.convertSum_poisoned : s.convertSum d p sl x k np vs true = s.releaseSum d p sl x k np vs true 0 := by
  simp [State.convertSum]

theorem State.convertSum_retained (h : x.native = false) : s.convertSum d p sl x k np vs false =
    s.releaseSum d p sl x k np vs false (s.slotGauge d x k (fun _ => true) vs) := by
  simp [State.convertSum, h]

theorem State.convertSum_converts (h : x.native = true) (hi : (s.inoc d).point ≠ 0x31) {u : State}
    (hu : (if x.f tunCollHen = 1 then s.countResult d p x k vs else s) = u) : s.convertSum d p sl x k np vs false =
    u.releaseSum d p sl x k np vs false (u.slotGauge d x k (fun _ => true) (x.codeVals (x.resultCodes vs))) := by
  subst hu
  simp [State.convertSum, h, hi]

theorem State.convertSum_inoculated (h : x.native = true) (hi : (s.inoc d).point = 0x31) : s.convertSum d p sl x k np vs false =
    ((s.inocClear d).mismatch d p sl x k 2 s.modNum false 0x0C true).releaseSum d p sl x k np vs true 0 := by
  simp [State.convertSum, h, hi]

end

theorem State.chunkRelease_waits {s : State} {d p sl : Nat}
    (h : (s.tslot d p sl).state ≠ 1 ∨ s.readyChunk d (s.tslot d p sl) true = none) : s.chunkRelease d p sl = s := by
  by_cases hst : (s.tslot d p sl).state = 1
  · refine (if_neg (not_not.mpr hst)).trans ?_
    rw [h.resolve_left (not_not.mpr hst)]
  · exact if_pos hst

section
variable {s r : State} {d p sl k np : Nat} {x : TSlot} {e : List (Int × Nat) × Nat} (hst : (s.tslot d p sl).state = 1)
  (hk : s.readyChunk d (s.tslot d p sl) true = some k) (hr : s.readSum d p sl k = r) (hx : r.tslot d p sl = x)
  (he : r.partialOf d x k = e) (hn : r.slotP d x = np)
include hst hk hr hx he hn

/-- The next complete final sum is checked, unless it is poisoned: its contributor count (bn says that it is wrong) and its gauge (bg).
One that fails goes on poisoned. -/
theorem State.chunkRelease_checks {psn bn bg : Bool} (hp : (x.chunk k).psn = psn)
    (hbn : (! psn && decide ((x.chunk k).ncon + 1 ≠ np)) = bn)
    (hbg : (! psn && decide (r.slotGauge d x k (fun _ => true) e.1 ≠ e.2)) = bg) :
    s.chunkRelease d p sl =
      (if bn || bg then r.mismatch d p sl x k 2 r.modNum bn 0x0A false else r).convertSum d p sl x k np e.1
        (psn || bn || bg) := by
  subst hr hx he hn hp hbn hbg
  refine (if_neg (not_not.mpr hst)).trans ?_
  rw [hk]
  rfl

theorem State.chunkRelease_poisoned (hp : (x.chunk k).psn = true) :
    s.chunkRelease d p sl = r.releaseSum d p sl x k np e.1 true 0 := by
  rw [State.chunkRelease_checks hst hk hr hx he hn hp (Bool.false_and _) (Bool.false_and _), Bool.true_or, Bool.true_or,
    State.convertSum_poisoned, Bool.false_or, if_neg Bool.false_ne_true]

variable (hp : (x.chunk k).psn = false)
include hp

theorem State.chunkRelease_passes (hok : r.slotGauge d x k (fun _ => true) e.1 = e.2 ∧ (x.chunk k).ncon + 1 = np) :
    s.chunkRelease d p sl = r.convertSum d p sl x k np e.1 false := by
  obtain ⟨hg, hc⟩ := hok
  rw [State.chunkRelease_checks hst hk hr hx he hn hp (decide_eq_false (not_not.mpr hc)) (decide_eq_false (not_not.mpr hg)),
    Bool.false_or, Bool.false_or, if_neg Bool.false_ne_true]

theorem State.chunkRelease_fails (hbad : ¬ (r.slotGauge d x k (fun _ => true) e.1 = e.2 ∧ (x.chunk k).ncon + 1 = np)) :
    s.chunkRelease d p sl =
      (r.mismatch d p sl x k 2 r.modNum (decide ((x.chunk k).ncon + 1 ≠ np)) 0x0A false).releaseSum d p sl x k np e.1 true 0 := by
  have hor : (decide ((x.chunk k).ncon + 1 ≠ np) || decide (r.slotGauge d x k (fun _ => true) e.1 ≠ e.2)) = true := by
    rw [Bool.or_eq_true, decide_eq_true_eq, decide_eq_true_eq]
    exact (not_and_or.mp hbad).symm
  rw [State.chunkRelease_checks hst hk hr hx he hn hp (Bool.true_and _) (Bool.true_and _), Bool.false_or, hor, if_pos rfl,
    State.convertSum_poisoned]

end

/-- Settles O35: what is sent by the branches of `State.chunkSend`, its partial sum poisoned, whole or failing its gauge
(`State.chunkSend_partial`); what is released by its checks (`State.chunkRelease_checks`) and its conversion (`State.convertSum`). -/
theorem tunSendsAndReleasesChunks : Obligations.TunSendsAndReleasesChunks := by
  unfold Obligations.TunSendsAndReleasesChunks
  refine ⟨?_, ?_⟩
  · intro s d p sl hd hp hs x may
    rw [exec_chunkSend hd hp hs]
    refine ⟨fun h => congrArg _ (State.chunkSend_waits h), fun hst hc => ⟨fun o os ho => ?_, fun ho hk => ?_, fun k ho hk => ?_⟩⟩
    · exact congrArg _ (State.chunkSend_result hst hc ho)
    · exact congrArg _ (State.chunkSend_idle hst hc ho hk)
    · intro r x c e t ends
      have hends {u : State} {vs : List (Int × Nat)} {psn : Bool} (h : s.chunkSend d p sl = u.sendPartial d p sl x k vs psn e.2) :
          ends u vs psn :=
        ⟨fun hv => congrArg _ (h.trans (State.sendPartial_sent hv)), fun hv => congrArg _ (h.trans (State.sendPartial_unsent hv))⟩
      refine ⟨fun hp => ?_, fun hp hg => ?_, fun hp hg => ?_, fun hi => State.inocPartial_off hi _⟩
      · exact hends (State.chunkSend_poisoned hst hc ho hk rfl rfl rfl hp)
      · exact hends (State.chunkSend_gauged hst hc ho hk rfl rfl rfl rfl hp hg)
      · exact hends (State.chunkSend_mismatch hst hc ho hk rfl rfl rfl rfl hp hg)
  · intro s d p sl hd hp hs x
    rw [exec_chunkRelease hd hp hs]
    refine ⟨fun h => congrArg _ (State.chunkRelease_waits h), fun k hst hk => ?_⟩
    intro r x c e np out cs ok ends
    have hpass (hp : c.psn = false) (hok : ok) := State.chunkRelease_passes hst hk rfl rfl rfl rfl hp hok
    refine ⟨fun hp => congrArg _ ?_, fun hp hok hn => congrArg _ ?_, fun hp hok hn hi => congrArg _ ?_,
      fun hp hok hn hi => congrArg _ ?_, fun hp hbad => congrArg _ ?_⟩
    · exact State.chunkRelease_poisoned hst hk rfl rfl rfl rfl hp
    · exact (hpass hp hok).trans (State.convertSum_retained hn)
    · exact (hpass hp hok).trans (State.convertSum_converts hn hi rfl)
    · exact (hpass hp hok).trans (State.convertSum_inoculated hn hi)
    · exact State.chunkRelease_fails hst hk rfl rfl rfl rfl hp hbad

end Sys2Proof.Machine
end

section
/-!
PROOFS. QLink: a whole message leaves the byte stream of its channel, is authenticated and routed (13 R558, R563, R571).
-/
namespace Sys2Proof.Machine

theorem exec_messageReceive {s : State} {d i ch : Nat} (hp : s.hasPort d i = true) (hc : ch < 15) :
    exec (.messageReceive d i ch) s = .next (s.messageReceive d i ch) := if_pos (by simp [hp, hc])

/-! ## The message at the front of a byte stream -/

/-- Header of the message that bs begins with (13 R559). -/
def frontHeader (bs : List Byte) : Nat := ofBytes (bs.take 16)

/-- Length of its body, data and poison map. -/
def frontLen (bs : List Byte) : Nat := bits (frontHeader bs) 64 17

/-- It is encrypted. -/
def frontEnc (bs : List Byte) : Bool := bit (frontHeader bs) 55

/-- Its length with header and authentication tag, which an encrypted message has (13 R569). -/
def frontRaw (bs : List Byte) : Nat := 16 + frontLen bs + (if frontEnc bs then 16 else 0)

/-- Its length up to the next message start (13 R558). -/
def frontSize (bs : List Byte) : Nat := frontRaw bs + (8 - frontRaw bs % 8) % 8

/-- Length of its body. -/
def frontBody (bs : List Byte) : Nat := (bodyLen (bits (frontHeader bs) 0 8)).getD 0

/-- Length of its data. -/
def frontData (bs : List Byte) : Nat := dataLen (bit (frontHeader bs) 54) (frontLen bs - frontBody bs)

/-- Its body and data as they stand in the stream. -/
def frontText (bs : List Byte) : List Byte := ((bs.take (frontRaw bs)).drop 16).take (frontBody bs + frontData bs)

/-- Its poison map. -/
def frontMap (bs : List Byte) : List Byte :=
  ((bs.take (frontRaw bs)).drop (16 + frontBody bs + frontData bs)).take (frontLen bs - frontBody bs - frontData bs)

/-- The message with the body and data pt. -/
def frontMsg (bs pt : List Byte) : Msg := parseMsg (frontHeader bs) (frontBody bs) pt (frontMap bs)

/-! ## Authentication (13 R571) -/

/-- Counter of the next message of a channel of port x (13 R570). -/
def Port.nextCtr (x : Port) (ch : Nat) : Nat :=
  match mget (fun _ => none) x.gcmRx ch with
  | none => 0
  | some c => c + 1

theorem Port.nextCtr_eq (x : Port) (ch : Nat) : x.nextCtr ch = ((mget (fun _ => none) x.gcmRx ch).map (· + 1)).getD 0 := by
  unfold Port.nextCtr
  cases mget (fun _ => none) x.gcmRx ch <;> rfl

/-- The message that bs begins with, opened with key k at the channel's next counter; none when it does not open. -/
def State.unseal (s : State) (d i ch : Nat) (bs : List Byte) (k : BitVec 256) : Option (List Byte) :=
  Config.gcmOpen k (gcmIv (bits (frontHeader bs) 24 16) (s.pst d i qlPstatFarport) ch ((s.port d i).nextCtr ch))
    ((bs.take (frontRaw bs)).take 16 ++ frontMap bs) (frontText bs ++ (bs.take (frontRaw bs)).drop (16 + frontLen bs))

/-- A message of the channel's next counter has opened. -/
def State.countOpened (s : State) (d i ch : Nat) : State :=
  s.putPort d i { s.port d i with gcmRx := mset (fun _ => none) (s.port d i).gcmRx ch (some ((s.port d i).nextCtr ch)) }

/-- The message that bs begins with, which has left the byte stream, is routed or fails authentication. -/
def State.authenticate (s : State) (d i ch : Nat) (bs : List Byte) : State :=
  match s.groupKey d i (groupOf ch) with
  | none =>
    if frontEnc bs then s.authFail d i ch (frontSize bs) else s.route d i ch (frontSize bs) (frontLen bs) (frontMsg bs (frontText bs))
  | some k =>
    if ! frontEnc bs then s.authFail d i ch (frontSize bs) else
    match s.unseal d i ch bs k with
    | none => s.authFail d i ch (frontSize bs)
    | some pt => (s.countOpened d i ch).route d i ch (frontSize bs) (frontLen bs) (frontMsg bs pt)

section
variable {s : State} {d i ch : Nat} {bs : List Byte}

theorem State.authenticate_clear (hk : s.groupKey d i (groupOf ch) = none) (he : frontEnc bs = false) :
    s.authenticate d i ch bs = s.route d i ch (frontSize bs) (frontLen bs) (frontMsg bs (frontText bs)) := by
  simp only [State.authenticate, hk, he, Bool.false_eq_true, if_false]

theorem State.authenticate_keyless (hk : s.groupKey d i (groupOf ch) = none) (he : frontEnc bs = true) :
    s.authenticate d i ch bs = s.authFail d i ch (frontSize bs) := by
  simp only [State.authenticate, hk, he, if_true]

variable {k : BitVec 256} (hk : s.groupKey d i (groupOf ch) = some k)
include hk

theorem State.authenticate_unsealed (he : frontEnc bs = false) : s.authenticate d i ch bs = s.authFail d i ch (frontSize bs) := by
  simp only [State.authenticate, hk, he, Bool.not_false, if_true]

theorem State.authenticate_unopened (he : frontEnc bs = true) (ho : s.unseal d i ch bs k = none) :
    s.authenticate d i ch bs = s.authFail d i ch (frontSize bs) := by
  simp only [State.authenticate, hk, he, ho, Bool.not_true, Bool.false_eq_true, if_false]

theorem State.authenticate_opened (he : frontEnc bs = true) {pt : List Byte} (ho : s.unseal d i ch bs k = some pt) :
    s.authenticate d i ch bs = (s.countOpened d i ch).route d i ch (frontSize bs) (frontLen bs) (frontMsg bs pt) := by
  simp only [State.authenticate, hk, he, ho, Bool.not_true, Bool.false_eq_true, if_false]

end

/-- A whole message that no padding precedes, on a channel without a delivered one, leaves the byte stream and is authenticated. -/
theorem State.messageReceive_whole {s : State} {d i ch : Nat} (hm : (s.rxch d i ch).msg = none) (h0 : (s.rxch d i ch).bytes.headD 0 ≠ 0)
    (h16 : 16 ≤ (s.rxch d i ch).bytes.length) (hn : frontSize (s.rxch d i ch).bytes ≤ (s.rxch d i ch).bytes.length) :
    s.messageReceive d i ch =
      (s.putRxch d i ch { s.rxch d i ch with bytes := (s.rxch d i ch).bytes.drop (frontSize (s.rxch d i ch).bytes) }).authenticate
        d i ch (s.rxch d i ch).bytes := by
  unfold State.messageReceive
  dsimp only
  split
  · next h => rw [hm] at h; cases h
  · next h _ => rw [h] at h16; cases h16
  · next h =>
    rw [h] at h0
    exact (if_neg h0).trans (if_neg (not_or.mpr ⟨not_lt.mpr h16, not_lt.mpr hn⟩))

/-! ## Routing (13 R563) -/

/-- Message m with len bytes after its header is not one that channel ch may bring: its type, the module's missing number, or its length
(13 R560, R577). -/
def State.misfit (s : State) (ch len : Nat) (m : Msg) : Prop :=
  typeOnCh m.typ ch = false ∨ (s.modNum = 0xFFFF ∧ ch ≠ 0) ∨ bodyLen m.typ = none ∨
    (∃ b, bodyLen m.typ = some b ∧ len < b) ∨ (len = 0 ∧ m.typ ≠ mWACK ∧ ¬ (m.typ = mRDATA ∧ m.stat ≠ 0))

/-- The tag of m is not active on its die, or not of the partition that holds the channel (16 R685). -/
def State.tagBarred (s : State) (d i ch : Nat) (m : Msg) : Prop :=
  s.jobEn m.ddie m.tag = false ∨ s.chanHeld d (3 * d + i) ch (s.jobPart m.ddie m.tag) = true

/-- The engine that message m is for wakes, if it is for one (17 R708). -/
def State.wakeFor (s : State) (m : Msg) : State := if m.typ ≤ 0xA then s.unrest m.ddie (if m.typ = mCHUNK then 26 else 22) else s

/-- Message m of n bytes is delivered on its channel. -/
def State.putDelivered (s : State) (d i ch n : Nat) (m : Msg) : State := s.putRxch d i ch { s.rxch d i ch with held := n, msg := some m }

/-- The tests of routing in their order. -/
theorem State.route_eq (s : State) (d i ch n len : Nat) (m : Msg) [Decidable (s.misfit ch len m)] [Decidable (s.tagBarred d i ch m)] :
    s.route d i ch n len m =
      if s.misfit ch len m then s.discard d i ch n qlEcntProto
      else if m.dmod ≠ s.modNum then s.discard d i ch n qlEcntMisrt
      else if s.nDies ≤ m.ddie then (s.freeBytes d i ch n).refuse d i ch m 6
      else if m.typ ≤ 0xA ∧ s.tagBarred d i ch m then (s.freeBytes d i ch n).refuse d i ch m 9
      else (s.wakeFor m).putDelivered d i ch n m := by
  unfold State.route
  refine if_congr ?_ rfl (if_congr Iff.rfl rfl (if_congr Iff.rfl rfl (if_congr ?_ rfl rfl)))
  · unfold State.misfit
    cases bodyLen m.typ <;> simp [imp_iff_not_or]
  · simp [State.tagBarred]

section
variable {s : State} {d i ch n len : Nat} {m : Msg}

theorem State.route_misfit (h : s.misfit ch len m) : s.route d i ch n len m = s.discard d i ch n qlEcntProto := by
  classical rw [State.route_eq, if_pos h]

variable (hw : ¬ s.misfit ch len m)
include hw

theorem State.route_misrouted (h : m.dmod ≠ s.modNum) : s.route d i ch n len m = s.discard d i ch n qlEcntMisrt := by
  classical rw [State.route_eq, if_neg hw, if_pos h]

variable (hd : m.dmod = s.modNum)
include hd

theorem State.route_dieless (h : s.nDies ≤ m.ddie) : s.route d i ch n len m = (s.freeBytes d i ch n).refuse d i ch m 6 := by
  classical rw [State.route_eq, if_neg hw, if_neg (not_not.mpr hd), if_pos h]

variable (he : m.ddie < s.nDies)
include he

theorem State.route_barred (ht : m.typ ≤ 0xA) (h : s.tagBarred d i ch m) :
    s.route d i ch n len m = (s.freeBytes d i ch n).refuse d i ch m 9 := by
  classical rw [State.route_eq, if_neg hw, if_neg (not_not.mpr hd), if_neg (not_le.mpr he), if_pos ⟨ht, h⟩]

theorem State.route_delivered (h : m.typ ≤ 0xA → ¬ s.tagBarred d i ch m) :
    s.route d i ch n len m = (s.wakeFor m).putDelivered d i ch n m := by
  classical rw [State.route_eq, if_neg hw, if_neg (not_not.mpr hd), if_neg (not_le.mpr he), if_neg (not_and.mpr h)]

end

/-- Settles O31: the message leaves the byte stream (`State.messageReceive_whole`) and what becomes of it is one case of
`State.authenticate`; the tests of routing are those of `State.route_eq`, each passed by the messages of the next case. -/
theorem messagesAreRoutedByTheFirstTestTheyFail : Obligations.MessagesAreRoutedByTheFirstTestTheyFail := by
  unfold Obligations.MessagesAreRoutedByTheFirstTestTheyFail
  refine ⟨?_, ?_⟩
  · intro s d i ch hp hc r h len enc raw n t hm h0 h16 hn
    rw [exec_messageReceive hp hc, State.messageReceive_whole hm h0 h16 hn]
    refine ⟨fun he hk => congrArg _ (State.authenticate_clear hk he), fun he hk => congrArg _ (State.authenticate_keyless hk he),
      fun k he hk => congrArg _ (State.authenticate_unsealed hk he), fun k he hk => ?_⟩
    intro bl dl mp c o
    have hc : c = (t.port d i).nextCtr ch := ((t.port d i).nextCtr_eq ch).symm
    have ho : o = t.unseal d i ch r.bytes k := by rw [State.unseal, ← hc]; rfl
    rw [ho, hc]
    exact ⟨fun h => congrArg _ (State.authenticate_unopened hk he h), fun pt h => congrArg _ (State.authenticate_opened hk he h)⟩
  · intro s d i ch n len m _ _ wrong
    refine ⟨State.route_misfit, State.route_misrouted, State.route_dieless, State.route_barred, fun hw hd he h => ?_⟩
    refine State.route_delivered hw hd he fun ht hb => ?_
    obtain ⟨hjob, hheld⟩ := h ht
    simp [State.tagBarred, hjob, hheld] at hb

end Sys2Proof.Machine
end

section
/-!
PROOFS. Host rings: the doorbells and the taking of a command packet (14 R588 to R592, R595, R599).
-/
namespace Sys2Proof.Machine

/-! ## The two doorbells -/

/-- Function f's ring with n for its tail (14 R590). -/
def State.tailAt (s : State) (f n : Nat) : State := s.putFn f { s.fn f with cmdtail := n }

section
variable {s : State} {f : Nat}

theorem exec_cmdtail (hf : f < 9) (v rd : Nat) : exec (.cmdtail f v rd) s = .next (s.doorbell f v rd) := if_pos hf

theorem exec_cplhead (hf : f < 9) (v : Nat) : exec (.cplhead f v) s = .next (s.consumeReplies f v) := if_pos hf

/-- The test with which both doorbells begin (19 R760). -/
theorem ringShut_iff : ((! s.ringEn f) = true ∨ (! s.fnOpen f) = true) ↔ (s.ringEn f = false ∨ s.fnOpen f = false) := by
  rw [Bool.not_eq_true', Bool.not_eq_true']

section
variable (h : s.ringEn f = false ∨ s.fnOpen f = false)
include h

theorem State.doorbell_shut (v rd : Nat) : s.doorbell f v rd = s := if_pos (ringShut_iff.mpr h)

theorem State.consumeReplies_shut (v : Nat) : s.consumeReplies f v = s := if_pos (ringShut_iff.mpr h)

end

section
variable (he : s.ringEn f = true) (ho : s.fnOpen f = true)
include he ho

theorem ring_not_shut : ¬ ((! s.ringEn f) = true ∨ (! s.fnOpen f) = true) := by simp [he, ho]

theorem State.consumeReplies_open (v : Nat) :
    s.consumeReplies f v = (s.putFn f { s.fn f with cplhead := v % 2 ^ 32 }).flush f := if_neg (ring_not_shut he ho)

/-- A tail beyond the ring halts it (14 R592). -/
theorem State.doorbell_beyond {v : Nat}
    (h : 2 ^ s.rf 0 (oHiRingcfg f) hiRingcfgClog < (v % 2 ^ 32 + 2 ^ 32 - s.rf 0 (oHiRingst f) hiRingstCmdhead) % 2 ^ 32) (rd : Nat) :
    s.doorbell f v rd =
      let u := s.tailAt f (v % 2 ^ 32)
      (u.haltRing f 2).reply f { seq := u.wantSeq f, opc := 0, status := 0x17, detail := v % 2 ^ 32 } :=
  (if_neg (ring_not_shut he ho)).trans (if_pos h)

/-- Behind a tail within the ring firmware takes the next packet (14 R590). -/
theorem State.doorbell_within {v : Nat}
    (h : (v % 2 ^ 32 + 2 ^ 32 - s.rf 0 (oHiRingst f) hiRingstCmdhead) % 2 ^ 32 ≤ 2 ^ s.rf 0 (oHiRingcfg f) hiRingcfgClog) (rd : Nat) :
    s.doorbell f v rd = (s.tailAt f (v % 2 ^ 32)).take f rd :=
  (if_neg (ring_not_shut he ho)).trans (if_neg (not_lt.mpr h))

end

end

/-! ## Taking the packet at the head of a ring -/

/-- The packet at the head of function f's ring, with its header. -/
def State.headPkt (s : State) (f : Nat) : Nat × Pkt := s.readPkt (s.pktAddr f (s.rf 0 (oHiRingst f) hiRingstCmdhead))

/-- CMDHEAD has passed one more packet (14 R590). -/
def State.passHead (s : State) (f : Nat) : State :=
  s.wf 0 (oHiRingst f) hiRingstCmdhead ((s.rf 0 (oHiRingst f) hiRingstCmdhead + 1) % 2 ^ 32)

/-- CMDHEAD has passed a packet of SEQ q, and the next one is expected to follow it. -/
def State.passSeq (s : State) (f q : Nat) : State :=
  (s.passHead f).putFn f { (s.passHead f).fn f with expSeq := some ((q + 1) % 2 ^ 32) }

/-- The reply to p, before it has a status (14 R597). -/
def Pkt.answer (p : Pkt) : Out := { seq := p.seq, opc := p.opc, part := p.part, irq := p.irq }

section
variable {s : State} {f rd : Nat}

theorem State.take_idle (h : s.mayTake f = false) : s.take f rd = s := if_pos (by rw [h]; rfl)

section
variable (hm : s.mayTake f = true) (hr : rd ≠ 1) (hl : s.linkOk f = true)
include hm hr hl

/-- A packet that could be read: first its SEQ, then its checks (14 R592, R595). -/
theorem State.take_read : s.take f rd =
    if (s.headPkt f).2.seq ≠ s.wantSeq f then
      ((s.passHead f).haltRing f 1).reply f { (s.headPkt f).2.answer with status := 0x16, detail := s.wantSeq f }
    else
      match (s.passSeq f (s.headPkt f).2.seq).pktFail f (s.headPkt f).1 (s.headPkt f).2 (decide (rd = 2)) with
      | some e => (s.passSeq f (s.headPkt f).2.seq).reply f { (s.headPkt f).2.answer with status := e.1, detail := e.2 }
      | none => (s.passSeq f (s.headPkt f).2.seq).putFn f
          { (s.passSeq f (s.headPkt f).2.seq).fn f with cur := some (s.headPkt f).2, stage := 0 } :=
  (if_neg (by simp [hm])).trans (if_neg (by simp [hr, hl]))

theorem State.take_outOfSequence (hq : (s.headPkt f).2.seq ≠ s.wantSeq f) : s.take f rd =
    ((s.passHead f).haltRing f 1).reply f { (s.headPkt f).2.answer with status := 0x16, detail := s.wantSeq f } :=
  (State.take_read hm hr hl).trans (if_pos hq)

variable (hq : (s.headPkt f).2.seq = s.wantSeq f)
include hq

theorem State.take_rejected {e : Nat × Nat}
    (hc : (s.passSeq f (s.headPkt f).2.seq).pktFail f (s.headPkt f).1 (s.headPkt f).2 (decide (rd = 2)) = some e) :
    s.take f rd = (s.passSeq f (s.headPkt f).2.seq).reply f { (s.headPkt f).2.answer with status := e.1, detail := e.2 } := by
  rw [State.take_read hm hr hl, if_neg (not_not.mpr hq), hc]

theorem State.take_kept
    (hc : (s.passSeq f (s.headPkt f).2.seq).pktFail f (s.headPkt f).1 (s.headPkt f).2 (decide (rd = 2)) = none) :
    s.take f rd = (s.passSeq f (s.headPkt f).2.seq).putFn f
      { (s.passSeq f (s.headPkt f).2.seq).fn f with cur := some (s.headPkt f).2, stage := 0 } := by
  rw [State.take_read hm hr hl, if_neg (not_not.mpr hq), hc]

end

end

/-! ## Starting the packet that a ring holds -/

section
variable {s : State} {opc f : Nat} {q : Pkt} {body : Pkt → State → State} (hf : f < 9) (hq : (s.fn f).cur = some q)
include hf hq

theorem hostRow_waits (hw : s.mustWait f q = true) : hostRow opc f s body = .next s := by
  unfold hostRow
  rw [if_neg (not_le.mpr hf), take_held hq]
  simp [hq, hw]

theorem hostRow_forbidden {e : Nat} (ho : q.opc = opc) (hs : (s.fn f).stage = 0) (hw : s.mustWait f q = false)
    (he : s.stateFail q = some e) : hostRow opc f s body = .next (s.endCmd f e 0 0) := by
  unfold hostRow
  rw [if_neg (not_le.mpr hf), take_held hq]
  simp [hq, ho, hs, hw, he]

end

/-- Settles O42: a doorbell by whether its ring is open and its tail within the ring (`State.doorbell_within`), the taking of the packet by
the first test it fails (`State.take_read`), its start by whether it must wait (`hostRow_waits`) and its state forbids it
(`hostRow_forbidden`). -/
theorem commandPacketsAreTakenAndChecked : Obligations.CommandPacketsAreTakenAndChecked := by
  unfold Obligations.CommandPacketsAreTakenAndChecked
  intro s f v opc body hf n u head pk p r w x inRing
  rw [exec_cmdtail hf, exec_cplhead hf]
  refine ⟨fun h => ⟨congrArg _ (State.doorbell_shut h v 0), congrArg _ (State.consumeReplies_shut h v)⟩, fun he ho => ?_,
    fun q hq hopc hs => ⟨hostRow_waits hf hq, fun e hw hfail => hostRow_forbidden hf hq hopc hs hw hfail⟩⟩
  have taken (hin : inRing) {t : State} (ht : u.take f 0 = t) :
      (.next (s.doorbell f v 0) : Host.Outcome State Fault Refusal) = .next t :=
    congrArg _ ((State.doorbell_within he ho hin 0).trans ht)
  refine ⟨fun hout => congrArg _ (State.doorbell_beyond he ho (not_le.mp hout) 0), fun hin hm => ?_, fun hin hm hl hq => ?_,
    fun e hin hm hl hq hc => ?_, fun hin hm hl hq hc => ?_, congrArg _ (State.consumeReplies_open he ho v)⟩
  · exact taken hin (State.take_idle hm)
  · exact taken hin (State.take_outOfSequence hm zero_ne_one hl hq)
  · exact taken hin (State.take_rejected hm zero_ne_one hl hq hc)
  · exact taken hin (State.take_kept hm zero_ne_one hl hq hc)

end Sys2Proof.Machine
end

section
/-!
PROOFS. Non-volatile commits: they start, are deferred, are tried again and end (16 R698 to R700, 15 R654).
-/
namespace Sys2Proof.Machine

theorem exec_commitStart (s : State) : exec .commitStart s = .next s.commitBegin := rfl

theorem exec_commitRetry (s : State) : exec .commitRetry s = .next s.commitAgain := rfl

theorem exec_commitEnd (s : State) : exec .commitEnd s = .next s.commitDone := rfl

section
variable {s : State} {c : Commit} {cs : List Commit}

/-! ## A commit starts (16 R698, R699) -/

/-- A commit that starts takes its bytes from the flash that firmware has erased by then. -/
theorem State.commitRuns_eraseFor (s : State) (c : Commit) : (s.eraseFor c).commitRuns c =
    { s with commitRun := some c,
             erased := (if s.rf 0 oHuStat huStatPgood = 1 then max s.erased (c.bytes + 262144) else s.erased) - c.bytes } := by
  unfold State.eraseFor
  split <;> rfl

section
variable (hr : s.running = true) (hw : s.commitWait = c :: cs)
include hr hw

theorem State.commitBegin_starts (hc : s.mayCommit c = true) :
    s.commitBegin = (({ s with commitWait := cs } : State).eraseFor c).commitRuns c := by
  have hc' : ({ s with commitWait := cs } : State).mayCommit c = true := hc
  simp only [State.commitBegin, hw, hr, hc', Bool.not_true, Bool.false_eq_true, if_true, if_false]

theorem State.commitBegin_defers (hc : s.mayCommit c = false) :
    s.commitBegin = ({ s with commitWait := cs } : State).deferCommit c := by
  have hc' : ({ s with commitWait := cs } : State).mayCommit c = false := hc
  simp only [State.commitBegin, hw, hr, hc', Bool.not_true, Bool.false_eq_true, if_false]

end

/-! ## A commit is deferred (16 R700) -/

theorem State.deferCommit_recipe (hk : c.kind = 1) : s.deferCommit c = (s.recipeStage c.fn c.seq 2).deferEvent c := by
  rw [State.deferCommit, if_pos hk]

theorem State.keepDeferred_room (h : (s.deferred.filter (fun x => x.kind = 0)).length < 64) :
    s.keepDeferred c = { s with deferred := enq s.deferred c } :=
  if_neg fun hfull => absurd hfull.2 (Nat.not_le.mpr h)

theorem State.deferCommit_room (hk : c.kind ≠ 1) (h : (s.deferred.filter (fun x => x.kind = 0)).length < 64) :
    s.deferCommit c = ({ s with deferred := enq s.deferred c } : State).deferEvent c := by
  rw [State.deferCommit, if_neg hk, State.keepDeferred_room h]

/-! ## The deferred commits are tried again (16 R700) -/

theorem State.commitAgain_running (hr : s.running = true) : s.commitAgain = retryAll { s with deferred := [] } s.deferred := if_pos hr

theorem retryAll_starts (hc : s.mayCommit c = true) : retryAll s (c :: cs) = retryAll ((s.eraseFor c).commitRuns c) cs := if_pos hc

theorem retryAll_defers (hc : s.mayCommit c = false) : retryAll s (c :: cs) =
    retryAll (({ s with deferred := enq s.deferred { c with tries := c.tries + 1 } } : State).deferEvent
      { c with tries := c.tries + 1 }) cs :=
  if_neg (Bool.eq_false_iff.mp hc)

/-! ## A commit ends (16 R698, 15 R654) -/

section
variable (h : s.commitRun = some c)
include h

theorem State.commitDone_record (hk : c.kind = 0) :
    s.commitDone = { s with commitRun := none, flashLog := lastN 1024 (enq s.flashLog c.erec) } := by
  simp only [State.commitDone, h, if_pos hk]

theorem State.commitDone_recipe (hk : c.kind = 1) : s.commitDone =
    ({ s with commitRun := none, recipe := c.data, recipes := (c.data, crc32c c.data) :: s.recipes } : State).recipeStage c.fn c.seq 3 := by
  have h0 : c.kind ≠ 0 := by omega
  simp only [State.commitDone, h, if_neg h0, if_pos hk]

theorem State.commitDone_fuses (hk : c.kind = 2) : s.commitDone = { s with commitRun := none, fuseSvn := c.seq } := by
  have h0 : c.kind ≠ 0 := by omega
  have h1 : c.kind ≠ 1 := by omega
  simp only [State.commitDone, h, if_neg h0, if_neg h1]

end

end

/-- Settles O49: a start either runs the oldest commit (`State.commitBegin_starts`) or defers it (`State.commitBegin_defers`), a retry
does one or the other for each deferred commit in turn, and the end of a commit is told apart by its kind. -/
theorem commitsStartDeferAndEnd : Obligations.CommitsStartDeferAndEnd := by
  unfold Obligations.CommitsStartDeferAndEnd
  intro s c cs hphase u k left starts
  have hrun : s.running = true := decide_eq_true hphase
  have runs (t : State) : (t.eraseFor c).commitRuns c = starts t := State.commitRuns_eraseFor t c
  rw [exec_commitStart, exec_commitRetry, exec_commitEnd]
  refine ⟨fun hw hc => ?_, fun hw hc hk => ?_, fun hw hc hk hroom => ?_, ?_, fun t => ⟨rfl, fun hc => ?_, retryAll_defers⟩, fun h => ?_⟩
  · rw [State.commitBegin_starts hrun hw hc, runs]
  · rw [State.commitBegin_defers hrun hw hc, State.deferCommit_recipe hk]
  · rw [State.commitBegin_defers hrun hw hc, State.deferCommit_room (s := u) hk hroom]
  · rw [State.commitAgain_running hrun]
  · rw [retryAll_starts hc, runs]
  · exact ⟨fun hk => congrArg _ (State.commitDone_record h hk), fun hk => congrArg _ (State.commitDone_recipe h hk),
      fun hk => congrArg _ (State.commitDone_fuses h hk)⟩

end Sys2Proof.Machine
end

section
/-!
PROOFS. Protection changes and the fence (16 R689 to R691).
-/
namespace Sys2Proof.Machine

theorem exec_protectionFence (s : State) : exec .protectionFence s = .next s.fenceStart := rfl

theorem exec_dieTableSwitch {s : State} {d : Nat} (h : s.hasDie d = true) : exec (.dieTableSwitch d) s = .next (s.tableSwitch d) := if_pos h

theorem exec_fenceComplete (s : State) : exec .fenceComplete s = .next s.fenceEnd := rfl

/-- An access checked under the old tables: kind, die, unit, number and tag (16 R691). -/
abbrev TableAccess := Nat × Nat × Nat × Nat × Nat

section
variable {s : State}

/-! ## The fence starts (16 R689) -/

/-- s with the inactive tables written for all the changes that wait. -/
def State.fenceOpened (s : State) : State :=
  { s with grantsNew := s.changes.foldl applyChange s.grants, fenceRun := s.changes, changes := [], fenceOld := [] }

theorem State.fenceStart_idle (h : s.rf 0 oBondFence bondFenceBusy = 1 ∨ s.changes = []) : s.fenceStart = s :=
  if_pos (h.imp_right Or.inl)

theorem State.fenceStart_opens (hb : s.rf 0 oBondFence bondFenceBusy = 0) (hc : s.changes ≠ []) (hp : s.phase = 0) :
    s.fenceStart = s.fenceOpened.wfs 0 oBondFence
      [(bondFenceGen, (s.rf 0 oBondFence bondFenceGen + 1) % 2 ^ 32), (bondFenceBusy, 1), (bondFenceSwitched, 0)] := by
  refine if_neg ?_
  rintro (h | h | h)
  · omega
  · exact hc h
  · exact h hp

/-- BOND_FENCE after its three fields are written: each reads what was written into it. -/
theorem getF_bondFence (v : RegWord) (g b w : Nat) :
    let x := setFs v [(bondFenceGen, g), (bondFenceBusy, b), (bondFenceSwitched, w)]
    getF x bondFenceGen = g % 2 ^ 32 ∧ getF x bondFenceBusy = b % 2 ∧ getF x bondFenceSwitched = w % 2 ^ 8 := by
  refine ⟨?_, ?_, ?_⟩
  · simp only [setFs]
    rw [getF_setF_other _ _ (by decide) (by decide), getF_setF_other _ _ (by decide) (by decide), getF_setF_same _ _ _ (by decide)]
    rfl
  · simp only [setFs]
    rw [getF_setF_other _ _ (by decide) (by decide), getF_setF_same _ _ _ (by decide)]
    rfl
  · exact getF_setF_same _ _ _ (by decide)

/-! ## A die switches (16 R689) -/

/-- A clear bit is set by the addition of its power of two; every other bit stays. -/
theorem testBit_add_two_pow {n d : Nat} (h : n.testBit d = false) (e : Nat) :
    (n + 2 ^ d).testBit e = if e = d then true else n.testBit e := by
  rcases Nat.lt_trichotomy e d with hlt | rfl | hgt
  · rw [if_neg hlt.ne, Nat.add_comm, Nat.testBit_two_pow_add_gt hlt]
  · rw [if_pos rfl, Nat.add_comm, Nat.testBit_two_pow_add_eq, h]
    rfl
  · have hq : (n + 2 ^ d) / 2 ^ d = n / 2 ^ d + 1 := Nat.add_div_right n (Nat.two_pow_pos d)
    have heven : n / 2 ^ d % 2 = 0 := by
      rw [Nat.testBit_eq_decide_div_mod_eq, decide_eq_false_iff_not] at h
      omega
    obtain ⟨k, rfl⟩ : ∃ k, e = k + 1 + d := ⟨e - d - 1, by omega⟩
    rw [if_neg hgt.ne', Nat.testBit_add _ (k + 1) d, Nat.testBit_add _ (k + 1) d, hq, Nat.testBit_add_one, Nat.testBit_add_one,
      show (n / 2 ^ d + 1) / 2 = n / 2 ^ d / 2 by omega]

theorem State.nDies_le (s : State) : s.nDies ≤ 8 := by
  unfold State.nDies
  split <;> decide

/-- s with die d over to the new tables, and the accesses it has checked under the old ones noted. -/
def State.switched (s : State) (d : Nat) : State :=
  ({ s with fenceOld := s.fenceOld ++ s.accesses d } : State).wf 0 oBondFence bondFenceSwitched
    (s.rf 0 oBondFence bondFenceSwitched + 2 ^ d)

section
variable {d : Nat} (hd : bit (s.rf 0 oBondFence bondFenceSwitched) d = false)
include hd

theorem State.tableSwitch_switches (hb : s.rf 0 oBondFence bondFenceBusy = 1) : s.tableSwitch d = s.switched d :=
  if_neg (by simp [hb, hd])

/-- The bits of SWITCHED when die d has gone over. -/
theorem State.bit_switched (hs : mrising s.regs = true) {e : Nat} (he : e < 8) :
    bit ((s.switched d).rf 0 oBondFence bondFenceSwitched) e = if e = d then true else bit (s.rf 0 oBondFence bondFenceSwitched) e := by
  have hw : (s.switched d).rf 0 oBondFence bondFenceSwitched = (s.rf 0 oBondFence bondFenceSwitched + 2 ^ d) % 2 ^ 8 :=
    State.rf_wf_same (s := { s with fenceOld := s.fenceOld ++ s.accesses d }) hs 0 oBondFence bondFenceSwitched _ (by decide)
  rw [hw, bit, Nat.testBit_mod_two_pow, decide_eq_true he, Bool.true_and]
  exact testBit_add_two_pow hd e

end

/-! ## The fence ends (16 R689, R690) -/

/-- Every die that is not lost has switched. -/
def State.allSwitched (s : State) : Prop :=
  ∀ e, e < s.nDies → bit (s.rf 0 oBondFence bondFenceSwitched) e = true ∨ bit s.lostDies e = true

theorem State.allSwitched_iff : s.allSwitched ↔
    (List.range s.nDies).all (fun d => bit (s.rf 0 oBondFence bondFenceSwitched) d || bit s.lostDies d) = true := by
  simp [State.allSwitched]

/-- s out of its fence: no change runs, and no access is held against it. -/
def State.fenceClosed (s : State) : State := ({ s with fenceRun := [], fenceOld := [] } : State).wf 0 oBondFence bondFenceBusy 0

theorem State.fenceEnd_ends (hb : s.rf 0 oBondFence bondFenceBusy = 1) (ha : s.allSwitched) (ho : s.oldLive = [])
    (hr : s.ringsDrained s.fenceRun = true) :
    s.fenceEnd = { s.fenceRun.foldl (fun t c => t.changeDone c) s.fenceClosed with grantsNew := [] } := by
  rw [State.allSwitched_iff] at ha
  exact if_neg (by simp only [hb, ha, ho, hr]; decide)

theorem State.fenceEnd_waits (h : ¬ s.allSwitched ∨ s.oldLive ≠ [] ∨ s.ringsDrained s.fenceRun = false) : s.fenceEnd = s := by
  refine if_pos ?_
  rcases h with ha | ho | hr
  · rw [State.allSwitched_iff, Bool.not_eq_true] at ha
    exact .inr (.inl (by rw [ha]; rfl))
  · exact .inr (.inr (.inl ho))
  · exact .inr (.inr (.inr (by rw [hr]; rfl)))

/-! ## Units enter a partition (16 R690) -/

theorem leaving_of_assign (gs : List Grant) {c : Change} (hk : c.kind = 0) (p : Nat) : leaving gs c p = [] := by
  simp only [leaving, hk]

/-- An assignment scrubs nothing: no unit leaves a partition with it. -/
theorem State.scrub_of_assign (gs : List Grant) {c : Change} (hk : c.kind = 0) (l : List Nat) (s : State) :
    l.foldl (fun s p => (leaving gs c p).foldl (fun s g => s.scrubGrant g) s) s = s := by
  simp only [leaving_of_assign gs hk, List.foldl_nil, List.foldl_fixed]

theorem State.changeDone_assign {c : Change} (hk : c.kind = 0) (hd : c.doe = false) (hf : c.fn ≠ 9) : s.changeDone c =
    (c.list.foldl (fun t g => t.enterGrant g) ({ s with grants := c.list.foldl addGrant s.grants } : State)).endCmd c.fn 0 0 0 := by
  simp only [State.changeDone, State.scrub_of_assign _ hk, hk, applyChange, State.protEnd, if_neg hf, hd, Bool.false_eq_true, if_false]

/-! ## What is left after 100 ms (16 R691) -/

/-- The report of an access of the old tables that is left. -/
def State.lateReport (s : State) (a : TableAccess) : Report :=
  { die := a.2.1, tag := a.2.2.2.2, part := s.jobPart a.2.1 a.2.2.2.2, cls := 0x12, detail := 9, island := 29 }

/-- The accesses that are left and have not been reported. -/
def State.lateOnes (s : State) : List TableAccess := s.oldLive.filter (fun a => decide (a.1 < 8))

/-- An access, marked when it is among those reported. -/
def markLate (late : List TableAccess) (a : TableAccess) : TableAccess :=
  if late.contains a then (a.1 + 8, a.2) else a

/-- s with the accesses that are left reported, and marked so. -/
def State.lateReported (s : State) : State :=
  { s with reports := s.reports ++ s.lateOnes.map s.lateReport, fenceOld := s.fenceOld.map (markLate s.lateOnes) }

theorem State.foldl_lateReport (l : List TableAccess) (s : State) :
    l.foldl (fun t a => t.report (t.lateReport a)) s = { s with reports := s.reports ++ l.map s.lateReport } := by
  induction l generalizing s with
  | nil => simp
  | cons a l ih =>
    rw [List.foldl_cons, ih, List.map_cons, List.append_cons]
    rfl

theorem exec_fenceAccessTimeout {ms : Nat} (hb : s.rf 0 oBondFence bondFenceBusy = 1) (hms : 100 ≤ ms) :
    exec (.fenceAccessTimeout ms) s = .next s.lateReported := by
  have hnow : ¬ (s.rf 0 oBondFence bondFenceBusy = 0 ∨ ms < 100) := by omega
  show execFenceAccessTimeout ms s = _
  rw [execFenceAccessTimeout, if_neg hnow]
  exact congrArg (fun t : State => Host.Outcome.next { t with fenceOld := t.fenceOld.map (markLate s.lateOnes) })
    (State.foldl_lateReport s.lateOnes s)

theorem exec_fenceAccessTimeout_early {ms : Nat} (h : s.rf 0 oBondFence bondFenceBusy = 0 ∨ ms < 100) :
    exec (.fenceAccessTimeout ms) s = .next s := congrArg Host.Outcome.next (if_pos h)

theorem State.mem_lateOnes {a : TableAccess} : a ∈ s.lateOnes ↔ a ∈ s.oldLive ∧ a.1 < 8 := by
  simp [State.lateOnes]

/-- A reported access is not reported again: the mark takes it out of the accesses that are left. -/
theorem State.lateOnes_lateReported (s : State) : s.lateReported.lateOnes = [] := by
  rw [List.eq_nil_iff_forall_not_mem]
  intro a ha
  obtain ⟨hlive, hlt⟩ := State.mem_lateOnes.mp ha
  obtain ⟨hold, hrun⟩ := List.mem_filter.mp hlive
  obtain ⟨b, hb, rfl⟩ := List.mem_map.mp hold
  by_cases hm : b ∈ s.lateOnes
  · have hmark : markLate s.lateOnes b = (b.1 + 8, b.2) := if_pos (List.contains_iff_mem.mpr hm)
    rw [hmark] at hlt
    exact absurd hlt (by simp)
  · have hmark : markLate s.lateOnes b = b := if_neg (mt List.contains_iff_mem.mp hm)
    rw [hmark] at hlt hrun
    exact hm (State.mem_lateOnes.mpr ⟨List.mem_filter.mpr ⟨hb, hrun⟩, hlt⟩)

end

/-- Settles O54: each step of the fence by its own equation, the bits of BOND_FENCE by `getF_bondFence` and `State.bit_switched`, and the
accesses that are left by the mark that their report gives them (`State.lateOnes_lateReported`). -/
theorem fencePutsChangesIntoEffect : Obligations.FencePutsChangesIntoEffect := by
  unfold Obligations.FencePutsChangesIntoEffect
  intro s d ms hs
  have hregs : mrising s.regs = true := State.canon_regs_rising hs
  refine ⟨fun hb hc hp => ?_, fun h => ?_, fun hd hb hbit => ?_, ⟨fun hb ha ho hr => ?_, fun h => ?_⟩, fun c => State.changeDone_assign,
    fun hb hms => ?_, exec_fenceAccessTimeout_early⟩
  · rw [exec_protectionFence, State.fenceStart_opens hb hc hp]
    obtain ⟨hgen, hbusy, hsw⟩ := getF_bondFence (s.reg 0 oBondFence) ((s.rf 0 oBondFence bondFenceGen + 1) % 2 ^ 32) 1 0
    have hread : ∀ fs g, (s.fenceOpened.wfs 0 oBondFence fs).rf 0 oBondFence g = getF (setFs (s.reg 0 oBondFence) fs) g :=
      State.rf_wfs (s := s.fenceOpened) hregs 0 oBondFence
    refine goesOn_next ⟨?_, ?_, ?_, rfl, rfl, rfl, rfl, rfl, rfl⟩
    · rw [hread, hgen, Nat.mod_mod]
    · rw [hread, hbusy]
    · rw [hread, hsw, Nat.zero_mod]
  · rw [exec_protectionFence, State.fenceStart_idle h]
  · rw [exec_dieTableSwitch hd, State.tableSwitch_switches hbit hb]
    have hd8 : d < 8 := lt_of_lt_of_le (of_decide_eq_true hd) s.nDies_le
    refine goesOn_next ⟨?_, rfl, fun e he hne => ?_, rfl⟩
    · rw [State.bit_switched hbit hregs hd8, if_pos rfl]
    · rw [State.bit_switched hbit hregs he, if_neg hne]
  · rw [exec_fenceComplete, State.fenceEnd_ends hb ha ho hr]
    rfl
  · rw [exec_fenceComplete, State.fenceEnd_waits h]
  · rw [exec_fenceAccessTimeout hb hms]
    refine goesOn_next ⟨fun a ha hlt => ?_, s.lateOnes_lateReported, rfl⟩
    have hmem : s.lateReport a ∈ s.lateOnes.map s.lateReport := List.mem_map_of_mem (State.mem_lateOnes.mpr ⟨ha, hlt⟩)
    exact ⟨s.lateReport a, List.mem_append_right _ hmem, rfl, rfl, rfl, rfl⟩

end Sys2Proof.Machine
end


section
/-!
PROOFS. Telemetry, throttling and the input (17 R711 to R714, R730, R732, R733; 18 R735, R739).
-/
namespace Sys2Proof.Machine

/-! ## Writes to other registers and fields -/

theorem getF_lt (v : RegWord) (f : Fld) : getF v f < 2 ^ f.w := Nat.mod_lt _ (Nat.two_pow_pos _)

section
variable {s : State} (h : mrising s.regs = true)
include h

theorem State.wfs_regs_rising (d o : Nat) (fs : List (Fld × Nat)) : mrising (s.wfs d o fs).regs = true := mrising_mset _ _ h

theorem State.wf_regs_rising (d o : Nat) (f : Fld) (x : Nat) : mrising (s.wf d o f x).regs = true := mrising_mset _ _ h

theorem State.rf_wf_other (d o : Nat) {f g : Fld} (x : Nat) (hg : g.lo + g.w ≤ 256) (hfg : g.lo + g.w ≤ f.lo ∨ f.lo + f.w ≤ g.lo) :
    (s.wf d o f x).rf d o g = s.rf d o g := by
  rw [State.rf, State.wf, State.reg_same h, getF_setF_other _ _ hg hfg, ← State.rf]

end

/-! ## A telemetry sample (17 R732, R733) -/

/-- s with the readings of the input taken, and the power's peak. -/
def State.sampleInput (s : State) (vin iin pin energy : Nat) : State :=
  (s.wfs 0 oPwrIn [(pwrInVin, vin), (pwrInIin, iin), (pwrInPin, pin), (pwrInPpk, max (pin % 2 ^ 16) (s.rf 0 oPwrIn pwrInPpk))]).wf
    0 oHuStat huStatEnergy energy

theorem exec_telemetrySample {s : State} (h : s.phase ≠ 3) (vin iin pin energy : Nat) (tel : List Nat) :
    exec (.telemetrySample vin iin pin energy tel) s =
      .next ((List.range s.nDies).foldl (fun t e => t.sampleDie tel e) (s.sampleInput vin iin pin energy)) :=
  congrArg Host.Outcome.next (if_neg h)

/-- PWR_IN after its four fields are written: the power and its peak read what was written into them. -/
theorem getF_pwrIn (v : RegWord) (vin iin pin ppk : Nat) :
    let x := setFs v [(pwrInVin, vin), (pwrInIin, iin), (pwrInPin, pin), (pwrInPpk, ppk)]
    getF x pwrInPin = pin % 2 ^ 16 ∧ getF x pwrInPpk = ppk % 2 ^ 16 := by
  refine ⟨?_, getF_setF_same _ _ _ (by decide)⟩
  simp only [setFs]
  rw [getF_setF_other _ _ (by decide) (by decide), getF_setF_same _ _ _ (by decide)]
  rfl

/-- PWR_TEL after its five fields are written: the junction's temperature and its peak read what was written into them. -/
theorem getF_pwrTel (v : RegWord) (pdie pstk tj tstk peak : Nat) :
    let x := setFs v [(pwrTelPdie, pdie), (pwrTelPstk, pstk), (pwrTelTj, tj), (pwrTelTstk, tstk), (pwrTelTjpk, peak)]
    getF x pwrTelTj = tj % 256 ∧ getF x pwrTelTjpk = peak % 256 := by
  refine ⟨?_, getF_setF_same _ _ _ (by decide)⟩
  simp only [setFs]
  rw [getF_setF_other _ _ (by decide) (by decide), getF_setF_other _ _ (by decide) (by decide), getF_setF_same _ _ _ (by decide)]
  rfl

theorem State.foldl_sampleDie_frame (tel l : List Nat) (s : State) :
    l.foldl (fun t e => t.sampleDie tel e) s = { s with regs := (l.foldl (fun t e => t.sampleDie tel e) s).regs } := by
  induction l generalizing s with
  | nil => rfl
  | cons e l ih => exact ih (s.sampleDie tel e)

section
variable {s : State} (h : mrising s.regs = true)
include h

theorem State.sampleInput_pwrIn (vin iin pin energy : Nat) :
    (s.sampleInput vin iin pin energy).rf 0 oPwrIn pwrInPin = pin % 2 ^ 16 ∧
    (s.sampleInput vin iin pin energy).rf 0 oPwrIn pwrInPpk = max (pin % 2 ^ 16) (s.rf 0 oPwrIn pwrInPpk) := by
  have hread (g : Fld) : (s.sampleInput vin iin pin energy).rf 0 oPwrIn g = getF (setFs (s.reg 0 oPwrIn)
      [(pwrInVin, vin), (pwrInIin, iin), (pwrInPin, pin), (pwrInPpk, max (pin % 2 ^ 16) (s.rf 0 oPwrIn pwrInPpk))]) g := by
    rw [State.rf, State.sampleInput, State.wf, State.reg_ne (State.wfs_regs_rising h ..) _ (by decide), ← State.rf, State.rf_wfs h]
  obtain ⟨hpin, hppk⟩ := getF_pwrIn (s.reg 0 oPwrIn) vin iin pin (max (pin % 2 ^ 16) (s.rf 0 oPwrIn pwrInPpk))
  rw [hread, hread]
  exact ⟨hpin, hppk.trans (Nat.mod_eq_of_lt (max_lt (Nat.mod_lt _ (by decide)) (getF_lt _ _)))⟩

theorem State.sampleInput_pwrTel (vin iin pin energy d : Nat) : (s.sampleInput vin iin pin energy).reg d oPwrTel = s.reg d oPwrTel := by
  rw [State.sampleInput, State.wf, State.reg_ne (State.wfs_regs_rising h ..) _ (by simp only [regKey, oPwrTel, oHuStat]; omega),
    State.wfs, State.reg_ne h _ (by simp only [regKey, oPwrTel, oPwrIn]; omega)]

theorem State.sampleDie_pwrTel (tel : List Nat) (d : Nat) :
    (s.sampleDie tel d).rf d oPwrTel pwrTelTj = telOf tel d 2 % 256 ∧
    (s.sampleDie tel d).rf d oPwrTel pwrTelTjpk = max (telOf tel d 2 % 256) (s.rf d oPwrTel pwrTelTjpk) := by
  simp only [State.sampleDie]
  rw [State.rf_wfs h, State.rf_wfs h]
  obtain ⟨htj, htjpk⟩ := getF_pwrTel (s.reg d oPwrTel) (telOf tel d 0) (telOf tel d 1) (telOf tel d 2 % 256) (telOf tel d 3)
    (max (telOf tel d 2 % 256) (s.rf d oPwrTel pwrTelTjpk))
  exact ⟨htj.trans (Nat.mod_mod _ _), htjpk.trans (Nat.mod_eq_of_lt (max_lt (Nat.mod_lt _ (by decide)) (getF_lt _ _)))⟩

/-- A die's sample is a matter of its own PWR_TEL. -/
theorem State.sampleDie_reg_congr {t : State} (ht : mrising t.regs = true) (tel : List Nat) {d : Nat}
    (heq : t.reg d oPwrTel = s.reg d oPwrTel) : (t.sampleDie tel d).reg d oPwrTel = (s.sampleDie tel d).reg d oPwrTel := by
  simp only [State.sampleDie, State.wfs, State.rf]
  rw [State.reg_same h, State.reg_same ht, heq]

theorem State.foldl_sampleDie_rising (tel l : List Nat) : mrising (l.foldl (fun t e => t.sampleDie tel e) s).regs = true := by
  induction l generalizing s with
  | nil => exact h
  | cons e l ih => exact ih (State.wfs_regs_rising h ..)

theorem State.foldl_sampleDie_other (tel : List Nat) {l : List Nat} {d o : Nat} (hk : ∀ e ∈ l, regKey d o ≠ regKey e oPwrTel) :
    (l.foldl (fun t e => t.sampleDie tel e) s).reg d o = s.reg d o := by
  induction l generalizing s with
  | nil => rfl
  | cons e l ih =>
    obtain ⟨he, hl⟩ := List.forall_mem_cons.mp hk
    exact (ih (State.wfs_regs_rising h ..) hl).trans (State.reg_ne h _ he)

/-- A sample of the dies below n leaves in PWR_TEL of one of them what its own sample does. -/
theorem State.foldl_sampleDie_same (tel : List Nat) {d n : Nat} (hd : d < n) :
    ((List.range n).foldl (fun t e => t.sampleDie tel e) s).reg d oPwrTel = (s.sampleDie tel d).reg d oPwrTel := by
  induction n with
  | zero => omega
  | succ n ih =>
    have hrise := State.foldl_sampleDie_rising h tel (List.range n)
    rw [List.range_succ, List.foldl_append]
    by_cases hdn : d = n
    · subst hdn
      refine State.sampleDie_reg_congr h hrise tel (State.foldl_sampleDie_other h tel fun e he => ?_)
      have : e < d := List.mem_range.mp he
      simp only [regKey]
      omega
    · exact (State.reg_ne hrise _ (by simp only [regKey]; omega)).trans (ih (by omega))

end

/-! ## The level of a cause (17 R714) -/

theorem exec_throttleEvaluation {s : State} (h : s.running = true) :
    exec .throttleEvaluation s = .next ((List.range 4).foldl (fun s c => s.evalCause c) s).levelSet := congrArg Host.Outcome.next (if_pos h)

section
variable {s : State} {c : Nat}

theorem State.evalCause_raises (h : (s.causeNow c).1 = true) : s.evalCause c =
    { s with levels := mset n0 s.levels c (min 7 (mget n0 s.levels c + 1)), calm := mset n0 s.calm c 0 } := if_pos h

theorem State.evalCause_holds (h : (s.causeNow c).1 = false) (hr : (s.causeNow c).2 = false) :
    s.evalCause c = { s with calm := mset n0 s.calm c 0 } := by
  simp [State.evalCause, h, hr]

theorem State.evalCause_lowers (h : (s.causeNow c).1 = false) (hr : (s.causeNow c).2 = true) (hk : mget n0 s.calm c = 99) :
    s.evalCause c = { s with levels := mset n0 s.levels c (mget n0 s.levels c - 1), calm := mset n0 s.calm c 0 } := by
  simp [State.evalCause, h, hr, hk]

theorem State.evalCause_frame (s : State) (c : Nat) :
    s.evalCause c = { s with levels := (s.evalCause c).levels, calm := (s.evalCause c).calm } := by
  simp only [State.evalCause]
  split_ifs <;> rfl

end

/-! ## The level in force (17 R713, R714, R730) -/

/-- The largest level that a cause demands. -/
def State.demandedLevel (s : State) : Nat := (List.range 5).foldl (fun m c => max m (s.levelOf c)) 0

theorem State.demandedLevel_max (s : State) : ((List.range 5).map s.levelOf).max? = some s.demandedLevel :=
  congrArg (fun l => some ([1, 2, 3, 4].foldl (fun m c => max m (s.levelOf c)) l)) (Nat.zero_max _).symm

theorem State.demandedLevel_largest (s : State) :
    (∃ c, c < 5 ∧ s.demandedLevel = s.levelOf c) ∧ ∀ c, c < 5 → s.levelOf c ≤ s.demandedLevel := by
  obtain ⟨hmem, hle⟩ := List.max?_eq_some_iff.mp s.demandedLevel_max
  obtain ⟨c, hc, heq⟩ := List.mem_map.mp hmem
  exact ⟨⟨c, List.mem_range.mp hc, heq.symm⟩, fun e he => hle _ (List.mem_map_of_mem (List.mem_range.mpr he))⟩

/-- s with the largest level demanded and the causes that hold it written to PWR_STAT. -/
def State.levelWritten (s : State) : State :=
  s.wfs 0 oPwrStat [(pwrStatLevel, s.demandedLevel),
    (pwrStatCause, sumBy (fun c => if 0 < s.demandedLevel ∧ s.levelOf c = s.demandedLevel then 2 ^ c else 0) (List.range 5))]

/-- s with the host alerted of a rise of the level, and n counted in THRCNT. -/
def State.riseCounted (s : State) (n : Nat) : State := ({ s with smbAlert := true } : State).wf 0 oPwrStat pwrStatThrcnt n

theorem State.levelSet_rises {s : State} (hr : s.rf 0 oPwrStat pwrStatLevel < s.demandedLevel) :
    s.levelSet = (s.levelWritten.riseCounted
      (if s.rf 0 oPwrStat pwrStatThrcnt < 65535 then s.rf 0 oPwrStat pwrStatThrcnt + 1 else s.rf 0 oPwrStat pwrStatThrcnt)).levelPend :=
  congrArg State.levelPend (if_pos hr)

theorem State.levelSet_stays {s : State} (hr : ¬ s.rf 0 oPwrStat pwrStatLevel < s.demandedLevel) :
    s.levelSet = s.levelWritten.levelPend :=
  congrArg State.levelPend (if_neg hr)

section
variable {s : State} (h : mrising s.regs = true)
include h

theorem State.levelPend_level : s.levelPend.rf 0 oPwrStat pwrStatLevel = s.rf 0 oPwrStat pwrStatLevel :=
  State.rf_wf_other h 0 oPwrStat _ (by decide) (by decide)

theorem State.riseCounted_level (n : Nat) : (s.riseCounted n).rf 0 oPwrStat pwrStatLevel = s.rf 0 oPwrStat pwrStatLevel :=
  State.rf_wf_other (s := { s with smbAlert := true }) h 0 oPwrStat n (by decide) (by decide)

theorem State.levelWritten_level : s.levelWritten.rf 0 oPwrStat pwrStatLevel = s.demandedLevel % 8 := by
  rw [State.levelWritten, State.rf_wfs h]
  simp only [setFs]
  rw [getF_setF_other _ _ (by decide) (by decide), getF_setF_same _ _ _ (by decide)]
  rfl

/-- LEVEL holds the largest level demanded, in its three bits. -/
theorem State.levelSet_level : s.levelSet.rf 0 oPwrStat pwrStatLevel = s.demandedLevel % 8 := by
  have hw : mrising s.levelWritten.regs = true := State.wfs_regs_rising h ..
  by_cases hr : s.rf 0 oPwrStat pwrStatLevel < s.demandedLevel
  · have hc (n : Nat) : mrising (s.levelWritten.riseCounted n).regs = true :=
      State.wf_regs_rising (s := { s.levelWritten with smbAlert := true }) hw ..
    rw [State.levelSet_rises hr, State.levelPend_level (hc _), State.riseCounted_level hw, State.levelWritten_level h]
  · rw [State.levelSet_stays hr, State.levelPend_level hw, State.levelWritten_level h]

theorem State.levelSet_largest (hl : ∀ c, c < 5 → s.levelOf c < 8) :
    (∀ c, c < 5 → s.levelOf c ≤ s.levelSet.rf 0 oPwrStat pwrStatLevel) ∧
    ∃ c, c < 5 ∧ s.levelSet.rf 0 oPwrStat pwrStatLevel = s.levelOf c := by
  obtain ⟨⟨c, hc, heq⟩, hle⟩ := s.demandedLevel_largest
  have hlt : s.demandedLevel < 8 := heq ▸ hl c hc
  rw [State.levelSet_level h, Nat.mod_eq_of_lt hlt]
  exact ⟨hle, c, hc, heq⟩

end

/-! ## The input current, a die and the input's state (17 R713, R714; 18 R735, R739) -/

section
variable {s : State}

theorem exec_inputCurrentThrottle (hr : s.running = true) {ma us : Nat} (hma : s.iinBounds.1 < ma) (hus : 20 ≤ us) :
    exec (.inputCurrentThrottle ma us) s = .next ({ s with
      levels := mset n0 s.levels 1 (max 4 (mget n0 s.levels 1)), calm := mset n0 s.calm 1 0 } : State).levelSet :=
  congrArg Host.Outcome.next (if_neg (by rw [hr, not_or, not_or]; exact ⟨by decide, not_le.mpr hma, not_lt.mpr hus⟩))

theorem exec_inputCurrentThrottle_below {ma us : Nat} (h : ma ≤ s.iinBounds.1 ∨ us < 20) :
    exec (.inputCurrentThrottle ma us) s = .next s := congrArg Host.Outcome.next (if_pos (.inr h))

theorem exec_throttleApply (hr : s.running = true) {d : Nat} (hd : s.hasDie d = true) :
    exec (.throttleApply d) s =
      .next ({ s with dieLevel := mset n0 s.dieLevel d (s.rf 0 oPwrStat pwrStatLevel) } : State).levelPend :=
  (if_pos hd).trans (congrArg Host.Outcome.next (if_pos hr))

theorem exec_pgoodFall (h : s.rf 0 oHuStat huStatPgood = 1) :
    exec .pgoodFall s = .next (({ s with smbAlert := true } : State).wf 0 oHuStat huStatPgood 0) :=
  congrArg Host.Outcome.next (if_neg (by rw [h]; decide))

theorem exec_pgoodRise (h : s.phase ≠ 3) : exec .pgoodRise s = .next (s.wf 0 oHuStat huStatPgood 1) :=
  congrArg Host.Outcome.next (if_neg fun hp => h hp.1)

end

/-- Settles O50: what a sample leaves in PWR_IN and PWR_TEL by `State.sampleInput_pwrIn` and `State.foldl_sampleDie_same`, the level of
a cause by the three cases of `State.evalCause`, and the level in force by `State.levelSet_largest`. -/
theorem telemetryThrottlesTheModule : Obligations.TelemetryThrottlesTheModule := by
  unfold Obligations.TelemetryThrottlesTheModule
  intro s vin iin pin energy d ma us tel hs hphase hd
  have hregs : mrising s.regs = true := State.canon_regs_rising hs
  have hrun : s.running = true := decide_eq_true hphase
  have hoff : s.phase ≠ 3 := by omega
  refine ⟨?_, exec_throttleEvaluation hrun, fun c hc => ⟨fun h => ?_, fun h hr => ?_, fun h hr hk => ?_, s.evalCause_frame c⟩,
    State.levelSet_largest hregs, exec_inputCurrentThrottle hrun, exec_inputCurrentThrottle_below, ?_, fun h => ?_, ?_⟩
  · have hin : mrising (s.sampleInput vin iin pin energy).regs = true := State.wf_regs_rising (State.wfs_regs_rising hregs ..) ..
    obtain ⟨hpin, hppk⟩ := State.sampleInput_pwrIn hregs vin iin pin energy
    obtain ⟨htj, htjpk⟩ := State.sampleDie_pwrTel hin tel d
    have hother := State.foldl_sampleDie_other hin tel (l := List.range s.nDies) (d := 0) (o := oPwrIn)
      fun e _ => by simp only [regKey, oPwrIn, oPwrTel]; omega
    have hsame := State.foldl_sampleDie_same hin tel (of_decide_eq_true hd)
    rw [exec_telemetrySample hoff]
    refine goesOn_next ⟨?_, ?_, ?_, ?_, State.foldl_sampleDie_frame tel (List.range s.nDies) _⟩
    · rw [State.rf, hother, ← State.rf, hpin]
    · rw [State.rf, hother, ← State.rf, hppk]
    · rw [State.rf, hsame, ← State.rf, htj]
    · rw [State.rf, hsame, ← State.rf, htjpk, State.rf, State.sampleInput_pwrTel hregs, ← State.rf]
  · rw [State.evalCause_raises h]
    exact ⟨mget_mset_same _ _ (State.canon_levels hs), mget_mset_same _ _ (State.canon_calm hs)⟩
  · rw [State.evalCause_holds h hr]
    exact ⟨rfl, mget_mset_same _ _ (State.canon_calm hs)⟩
  · rw [State.evalCause_lowers h hr hk]
    exact mget_mset_same _ _ (State.canon_levels hs)
  · rw [exec_throttleApply hrun hd]
    exact goesOn_next ⟨mget_mset_same _ _ (State.canon_dieLevel hs), fun e he => mget_mset_ne _ (State.canon_dieLevel hs) he, rfl⟩
  · rw [exec_pgoodFall h]
    exact goesOn_next ⟨State.rf_wf_same (s := { s with smbAlert := true }) hregs _ _ _ _ (by decide), rfl, rfl⟩
  · rw [exec_pgoodRise hoff]
    exact goesOn_next ⟨State.rf_wf_same hregs _ _ _ _ (by decide), rfl⟩

end Sys2Proof.Machine
end

section
/-!
SUPPORT. What every command keeps: the canonical form of the state, the queue of commands, the variant and the numbers of the cellar keys. One
lemma per operation of the model, in the order in which the operations use one another.
-/
namespace Sys2Proof.Machine

/-! ## The canonical form, part by part -/

/-- The parts of a state's canonical form. -/
structure Canon (s : State) : Prop where
  mem : mwf memDefault s.mem = true
  marks : mwf markDefault s.marks = true
  regs : mwf regDefault s.regs = true
  ctxs : mrising s.ctxs = true
  vats : mrising s.vats = true
  rings : mrising s.rings = true
  hyd : mrising s.hyd = true
  fns : mrising s.fns = true
  ceSeen : mrising s.ceSeen = true
  slotOwn : mrising s.slotOwn = true
  ports : mrising s.ports = true
  seen : mrising s.seen = true
  keys : mrising s.keys = true
  rackqs : mrising s.rackqs = true
  tunOwn : mrising s.tunOwn = true
  ledNew : mrising s.ledNew = true
  specRows : mrising s.specRows = true
  abortRk : mrising s.abortRk = true
  abortTun : mrising s.abortTun = true
  drainRk : mrising s.drainRk = true
  drainTun : mrising s.drainTun = true
  accq : mrising s.accq = true
  tslots : mrising s.tslots = true
  dieHbAge : mrising s.dieHbAge = true
  jobs : mrising s.jobs = true
  inocLeft : mrising s.inocLeft = true
  kcores : mrising s.kcores = true
  rkLast : mrising s.rkLast = true
  turnTile : mrising s.turnTile = true
  parts : mrising s.parts = true
  bmrs : mrising s.bmrs = true
  levels : mrising s.levels = true
  calm : mrising s.calm = true
  dieLevel : mrising s.dieLevel = true
  taps : mrising s.taps = true

theorem State.canon_iff {s : State} : s.canon = true ↔ Canon s := by
  constructor
  · intro h
    exact ⟨State.canon_mem h, State.canon_marks h, State.canon_regs h, State.canon_ctxs h, State.canon_vats h, State.canon_rings h,
      State.canon_hyd h, State.canon_fns h, State.canon_ceSeen h, State.canon_slotOwn h, State.canon_ports h, State.canon_seen h,
      State.canon_keys h, State.canon_rackqs h, State.canon_tunOwn h, State.canon_ledNew h, State.canon_specRows h,
      State.canon_abortRk h, State.canon_abortTun h, State.canon_drainRk h, State.canon_drainTun h, State.canon_accq h,
      State.canon_tslots h, State.canon_dieHbAge h, State.canon_jobs h, State.canon_inocLeft h, State.canon_kcores h,
      State.canon_rkLast h, State.canon_turnTile h, State.canon_parts h, State.canon_bmrs h, State.canon_levels h,
      State.canon_calm h, State.canon_dieLevel h, State.canon_taps h⟩
  · intro c
    simp only [State.canon, State.memOk, State.marksOk, State.regsOk, State.sorted, Bool.and_eq_true, c.mem, c.marks, c.regs, c.ctxs,
      c.vats, c.rings, c.hyd, c.fns, c.ceSeen, c.slotOwn, c.ports, c.seen, c.keys, c.rackqs, c.tunOwn, c.ledNew, c.specRows, c.abortRk,
      c.abortTun, c.drainRk, c.drainTun, c.accq, c.tslots, c.dieHbAge, c.jobs, c.inocLeft, c.kcores, c.rkLast, c.turnTile, c.parts,
      c.bmrs, c.levels, c.calm, c.dieLevel, c.taps, and_self]

/-! ## What every command keeps -/

/-- What every command keeps from s to t: the canonical form, the commands that wait, the variant, and the numbers of the cellar keys. Where P
holds, the module's number stays and no cellar key is new: P is left open by the operations that keep these too, and false for the others. -/
structure Keeps (P : Prop) (s t : State) : Prop where
  canon : Canon s → Canon t
  pending : t.pending = s.pending
  variant : t.variant = s.variant
  keyCtr : s.keyCtr ≤ t.keyCtr
  ids : P → t.modNum = s.modNum ∧ t.keyCtr = s.keyCtr

theorem Keeps.refl {P : Prop} (s : State) : Keeps P s s := ⟨id, rfl, rfl, le_refl _, fun _ => ⟨rfl, rfl⟩⟩

section
variable {P : Prop} {s₀ s t : State} {α : Type}

theorem Keeps.trans {u : State} (h : Keeps P s₀ s) (hu : Keeps P s u) : Keeps P s₀ u :=
  ⟨fun c => hu.canon (h.canon c), hu.pending.trans h.pending, hu.variant.trans h.variant, h.keyCtr.trans hu.keyCtr,
    fun p => ⟨(hu.ids p).1.trans (h.ids p).1, (hu.ids p).2.trans (h.ids p).2⟩⟩

/-- The parts of a state that a step keeps whatever the canonical form says of the others. -/
def State.books (s : State) : List Instr × Variant × Nat × Nat := (s.pending, s.variant, s.keyCtr, s.modNum)

/-- The parts of a state that the canonical form speaks of, with its books. -/
def State.kept (s : State) :=
  (s.books, s.mem, s.marks, s.regs, s.ctxs, s.vats, s.rings, s.hyd, s.fns, s.ceSeen, s.slotOwn, s.ports, s.seen, s.keys, s.rackqs,
    s.tunOwn, s.ledNew, s.specRows, s.abortRk, s.abortTun, s.drainRk, s.drainTun, s.accq, s.tslots, s.dieHbAge, s.jobs, s.inocLeft,
    s.kcores, s.rkLast, s.turnTile, s.parts, s.bmrs, s.levels, s.calm, s.dieLevel, s.taps)

/-- A record update: the parts of the canonical form that it touches are shown to stay. -/
theorem Keeps.upd (h : Keeps P s₀ s) (hb : t.books = s.books) (hc : Canon s → Canon t) : Keeps P s₀ t := by
  simp only [State.books, Prod.mk.injEq] at hb
  obtain ⟨hp, hv, hk, hm⟩ := hb
  exact h.trans ⟨hc, hp, hv, hk.ge, fun _ => ⟨hm, hk⟩⟩

/-- An update that gives the module a number. -/
theorem Keeps.set_modNum {n} (h : Keeps False s₀ s) : Keeps False s₀ { s with modNum := n } :=
  h.trans ⟨fun c => { c with }, rfl, rfl, le_refl _, False.elim⟩

/-- An update of parts that the canonical form does not speak of. -/
theorem Keeps.frame (h : Keeps P s₀ s) (he : t.kept = s.kept) : Keeps P s₀ t := by
  simp only [State.kept, Prod.mk.injEq] at he
  refine h.upd he.1 fun c => ?_
  constructor <;> simp only [he, c.mem, c.marks, c.regs, c.ctxs, c.vats, c.rings, c.hyd, c.fns, c.ceSeen, c.slotOwn, c.ports, c.seen,
    c.keys, c.rackqs, c.tunOwn, c.ledNew, c.specRows, c.abortRk, c.abortTun, c.drainRk, c.drainTun, c.accq, c.tslots, c.dieHbAge,
    c.jobs, c.inocLeft, c.kcores, c.rkLast, c.turnTile, c.parts, c.bmrs, c.levels, c.calm, c.dieLevel, c.taps]

/-- An update that takes new numbers of cellar keys. -/
theorem Keeps.newKeys (h : Keeps False s₀ s) (he : { t with keyCtr := s.keyCtr }.kept = s.kept) (hk : s.keyCtr ≤ t.keyCtr) :
    Keeps False s₀ t := by
  have ht : Keeps False s { t with keyCtr := s.keyCtr } := (Keeps.refl s).frame he
  exact h.trans ⟨fun c => { ht.canon c with }, ht.pending, ht.variant, hk, False.elim⟩

section
variable (h : Keeps P s₀ s)
include h

theorem Keeps.set_time {x} : Keeps P s₀ { s with time := x } := h.frame rfl
theorem Keeps.set_errLog {x} : Keeps P s₀ { s with errLog := x } := h.frame rfl
theorem Keeps.set_errLog_errIndex {x y} : Keeps P s₀ { s with errLog := x, errIndex := y } := h.frame rfl
theorem Keeps.set_commitWait {x} : Keeps P s₀ { s with commitWait := x } := h.frame rfl
theorem Keeps.set_changes {x} : Keeps P s₀ { s with changes := x } := h.frame rfl
theorem Keeps.set_diag {x} : Keeps P s₀ { s with diag := x } := h.frame rfl
theorem Keeps.set_commitRun {x} : Keeps P s₀ { s with commitRun := x } := h.frame rfl
theorem Keeps.set_recipe {x} : Keeps P s₀ { s with recipe := x } := h.frame rfl
theorem Keeps.set_flashLog {x} : Keeps P s₀ { s with flashLog := x } := h.frame rfl
theorem Keeps.set_fuseSvn {x} : Keeps P s₀ { s with fuseSvn := x } := h.frame rfl
theorem Keeps.set_imgSvns_recipe_phase_answered {x0 x1 x2 x3} : Keeps P s₀ { s with imgSvns := x0, recipe := x1, phase := x2, answered := x3 } := h.frame rfl
theorem Keeps.set_recipes_recipe {x y} : Keeps P s₀ { s with recipes := x, recipe := y } := h.frame rfl

end

theorem Keeps.ite {c : Prop} [Decidable c] (hs : Keeps P s₀ s) (ht : Keeps P s₀ t) : Keeps P s₀ (if c then s else t) := by
  split
  · exact hs
  · exact ht

theorem Keeps.foldl {l : List α} {f : State → α → State} (h : Keeps P s₀ s) (hf : ∀ t x, Keeps P s₀ t → Keeps P s₀ (f t x)) :
    Keeps P s₀ (l.foldl f s) := by
  induction l generalizing s with
  | nil => exact h
  | cons x l ih => exact ih (hf s x h)

/-- A fold whose accumulator holds the state in one of its parts. -/
theorem Keeps.foldlPart {β : Type} {l : List α} {f : β → α → β} {b : β} (p : β → State) (h : Keeps P s₀ (p b))
    (hf : ∀ b x, Keeps P s₀ (p b) → Keeps P s₀ (p (f b x))) : Keeps P s₀ (p (l.foldl f b)) := by
  induction l generalizing b with
  | nil => exact h
  | cons x l ih => exact ih (hf b x h)

end

/-- Where the command goes on, it keeps what every command keeps. -/
def Answers (s₀ : State) (o : Host.Outcome State Fault Refusal) : Prop := ∀ t, o = .next t → Keeps False s₀ t

section
variable {P : Prop} {s₀ s : State}

theorem Answers.next (h : Keeps False s₀ s) : Answers s₀ (.next s) := by
  intro t ht
  injection ht with ht
  exact ht ▸ h

theorem Answers.fault {r : Fault} : Answers s₀ (.fault r) := by
  intro t ht
  cases ht

theorem Answers.ite {c : Prop} [Decidable c] {a b : Host.Outcome State Fault Refusal} (ha : Answers s₀ a) (hb : Answers s₀ b) :
    Answers s₀ (if c then a else b) := by
  split
  · exact ha
  · exact hb

end

/-! ## The maps that updates build -/

theorem mwf_pokeMem {r : Region} {m : List Host.Cell} {o : Nat} {bs : List Byte} (h : mwf memDefault m = true) :
    mwf memDefault (pokeMem r m o bs) = true := by
  induction bs generalizing m o with
  | nil => exact h
  | cons b bs ih => exact ih (mwf_mset _ _ h)

/-- The entry of a register is dropped, left alone, or lists a value that is not the register's reset value. -/
theorem resetRegs_cons (kind : Nat) (scope : Nat → RegInfo → Nat → Nat → Bool) (j : Nat) (v : RegWord) (m : SMap RegWord) :
    resetRegs kind scope ((j, v) :: m) = resetRegs kind scope m ∨
    ∃ x, (x = v ∨ x ≠ regDefault j) ∧ resetRegs kind scope ((j, v) :: m) = (j, x) :: resetRegs kind scope m := by
  have step : ∀ x : RegWord,
      (if x = regDefault j then resetRegs kind scope m else (j, x) :: resetRegs kind scope m) = resetRegs kind scope m ∨
      ∃ y, (y = v ∨ y ≠ regDefault j) ∧
        (if x = regDefault j then resetRegs kind scope m else (j, x) :: resetRegs kind scope m) = (j, y) :: resetRegs kind scope m := by
    intro x
    by_cases hx : x = regDefault j
    · exact .inl (if_pos hx)
    · exact .inr ⟨x, .inr hx, if_neg hx⟩
  rw [resetRegs]
  split
  · exact .inr ⟨v, .inl rfl, rfl⟩
  · split
    · exact step _
    · exact .inr ⟨v, .inl rfl, rfl⟩

/-- A restored register map lists no register below what the old one lists. -/
theorem mlow_resetRegs {kind : Nat} {scope : Nat → RegInfo → Nat → Nat → Bool} {m : SMap RegWord} {k : Nat} (hm : mrising m = true)
    (h : mlow k m = true) : mlow k (resetRegs kind scope m) = true := by
  induction m with
  | nil => rfl
  | cons e m ih =>
    obtain ⟨j, v⟩ := e
    simp only [mrising, Bool.and_eq_true] at hm
    have hk : k < j := of_decide_eq_true h
    rcases resetRegs_cons kind scope j v m with he | ⟨x, -, he⟩
    · rw [he]; exact ih hm.2 (mlow_trans (by omega) hm.1)
    · rw [he]; exact decide_eq_true hk

theorem mwf_cons {α : Type} [DecidableEq α] {d : Nat → α} {m : SMap α} {k : Nat} {x : α} :
    mwf d ((k, x) :: m) = true ↔ mlow k m = true ∧ x ≠ d k ∧ mwf d m = true := by
  simp only [mwf, mrising, List.all_cons, Bool.and_eq_true, decide_eq_true_eq]
  tauto

theorem mwf_resetRegs {kind : Nat} {scope : Nat → RegInfo → Nat → Nat → Bool} {m : SMap RegWord} (h : mwf regDefault m = true) :
    mwf regDefault (resetRegs kind scope m) = true := by
  induction m with
  | nil => rfl
  | cons e m ih =>
    obtain ⟨j, v⟩ := e
    obtain ⟨hlow, hv, hm⟩ := mwf_cons.mp h
    rcases resetRegs_cons kind scope j v m with he | ⟨x, hx, he⟩
    · rw [he]; exact ih hm
    · rw [he]
      have hx' : x ≠ regDefault j := by
        rcases hx with rfl | hx
        · exact hv
        · exact hx
      exact mwf_cons.mpr ⟨mlow_resetRegs (mwf_mrising hm) hlow, hx', ih hm⟩

/-! ### The accessors and the operations of the units -/

section
variable {P : Prop} {s₀ s : State}

theorem Keeps.tick (h : Keeps P s₀ s) : Keeps P s₀ s.tick := by
  unfold State.tick
  exact h.frame rfl

theorem Answers.guarded {ok} (h : Keeps False s₀ s) : Answers s₀ (guarded ok s) := by
  unfold Machine.guarded
  exact .ite (.next h) .fault

theorem Keeps.poke {r o bs} (h : Keeps P s₀ s) : Keeps P s₀ (s.poke r o bs) := by
  unfold State.poke
  exact h.upd rfl fun c => { c with mem := mwf_pokeMem c.mem }

theorem Keeps.setMark {r o m} (h : Keeps P s₀ s) : Keeps P s₀ (s.setMark r o m) := by
  unfold State.setMark
  exact h.upd rfl fun c => { c with marks := mwf_mset _ _ c.marks }

theorem Keeps.count {d p set c} (h : Keeps P s₀ s) : Keeps P s₀ (s.count d p set c) := by
  unfold State.count
  exact h.upd rfl fun c => { c with hyd := mrising_mset _ _ c.hyd }

theorem Keeps.putCtx {d c x} (h : Keeps P s₀ s) : Keeps P s₀ (s.putCtx d c x) := by
  unfold State.putCtx
  exact h.upd rfl fun c => { c with ctxs := mrising_mset _ _ c.ctxs }

theorem Keeps.putVat {d v x} (h : Keeps P s₀ s) : Keeps P s₀ (s.putVat d v x) := by
  unfold State.putVat
  exact h.upd rfl fun c => { c with vats := mrising_mset _ _ c.vats }

theorem Keeps.putRing {d x} (h : Keeps P s₀ s) : Keeps P s₀ (s.putRing d x) := by
  unfold State.putRing
  exact h.upd rfl fun c => { c with rings := mrising_mset _ _ c.rings }

theorem Keeps.putFn {f x} (h : Keeps P s₀ s) : Keeps P s₀ (s.putFn f x) := by
  unfold State.putFn
  exact h.upd rfl fun c => { c with fns := mrising_mset _ _ c.fns }

theorem Keeps.setReg {d o v} (h : Keeps P s₀ s) : Keeps P s₀ (s.setReg d o v) := by
  unfold State.setReg
  exact h.upd rfl fun c => { c with regs := mwf_mset _ _ c.regs }

theorem Keeps.wf {d o f x} (h : Keeps P s₀ s) : Keeps P s₀ (s.wf d o f x) := by
  unfold State.wf
  exact h.setReg

theorem Keeps.wfs {d o fs} (h : Keeps P s₀ s) : Keeps P s₀ (s.wfs d o fs) := by
  unfold State.wfs
  exact h.setReg

theorem Keeps.haltRing {f cause} (h : Keeps P s₀ s) : Keeps P s₀ (s.haltRing f cause) := by
  unfold State.haltRing
  exact .ite h h.wfs

theorem Keeps.flushOuts {f l} (h : Keeps P s₀ s) : Keeps P s₀ (flushOuts f s l) := by
  induction l generalizing f s with
  | nil =>
    rw [Machine.flushOuts]
    exact h.putFn
  | cons b l ih =>
    rw [Machine.flushOuts]
    exact .ite h.putFn (.ite h.putFn.haltRing (ih h.poke.putFn))

theorem Keeps.flush {f} (h : Keeps P s₀ s) : Keeps P s₀ (s.flush f) := by
  unfold State.flush
  exact .ite h.flushOuts.putFn.flushOuts h.flushOuts

theorem Keeps.raise {f code part result detail} (h : Keeps P s₀ s) : Keeps P s₀ (s.raise f code part result detail) := by
  unfold State.raise
  exact .flush (.ite h.putFn h.putFn.wf)

theorem Keeps.reply {f o} (h : Keeps P s₀ s) : Keeps P s₀ (s.reply f o) := by
  unfold State.reply
  exact .ite h.putFn.flush h

theorem Keeps.inocClear {d} (h : Keeps P s₀ s) : Keeps P s₀ (s.inocClear d) := by
  unfold State.inocClear
  refine .ite ?_ ?_
  · exact h.wf
  · refine .ite ?_ ?_
    · exact .wf (.wf (h.wf.upd rfl fun c => { c with inocLeft := mrising_mset _ _ c.inocLeft }))
    · exact h.wf.upd rfl fun c => { c with inocLeft := mrising_mset _ _ c.inocLeft }

theorem Keeps.aliased {r o} (h : Keeps P s₀ s) : Keeps P s₀ (s.aliased r o) := by
  unfold State.aliased
  exact h.poke

theorem Keeps.poisonCws {r n n1} (h : Keeps P s₀ s) : Keeps P s₀ (poisonCws r n s n1) := by
  induction n generalizing r s n1 with
  | zero =>
    rw [Machine.poisonCws]
    exact h
  | succ n ih =>
    rw [Machine.poisonCws]
    exact ih h.setMark

theorem Keeps.poisonRange {r o n} (h : Keeps P s₀ s) : Keeps P s₀ (s.poisonRange r o n) := by
  unfold State.poisonRange
  exact .ite h h.poisonCws

theorem Keeps.report {r} (h : Keeps P s₀ s) : Keeps P s₀ (s.report r) := by
  unfold State.report
  exact h.frame rfl

theorem Keeps.bondReport {r} (h : Keeps P s₀ s) : Keeps P s₀ (s.bondReport r) := by
  unfold State.bondReport
  exact h.frame rfl

theorem Keeps.faultReg {d o valid more fs} (h : Keeps P s₀ s) : Keeps P s₀ (s.faultReg d o valid more fs) := by
  unfold State.faultReg
  exact .ite h.wf h.wfs

theorem Keeps.unrest {d i} (h : Keeps P s₀ s) : Keeps P s₀ (s.unrest d i) := by
  unfold State.unrest
  exact .ite h.wf h

theorem Keeps.rouse {d c st} (h : Keeps P s₀ s) : Keeps P s₀ (s.rouse d c st) := by
  unfold State.rouse
  exact .ite h.unrest h

theorem Keeps.ctxRetire {d c} (h : Keeps P s₀ s) : Keeps P s₀ (s.ctxRetire d c) := by
  unfold State.ctxRetire
  exact h.putCtx

theorem Keeps.zeroWhere {p} (h : Keeps P s₀ s) : Keeps P s₀ (s.zeroWhere p) := by
  unfold State.zeroWhere
  exact h.upd rfl fun c => { c with mem := mwf_filter _ c.mem, marks := mwf_filter _ c.marks }

theorem Keeps.restore {kind scope} (h : Keeps P s₀ s) : Keeps P s₀ (s.restore kind scope) := by
  unfold State.restore
  exact h.upd rfl fun c => { c with regs := mwf_resetRegs c.regs }

theorem Keeps.putKcore {d k x} (h : Keeps P s₀ s) : Keeps P s₀ (s.putKcore d k x) := by
  unfold State.putKcore
  exact h.upd rfl fun c => { c with kcores := mrising_mset _ _ c.kcores }

theorem Keeps.zeroCore {d k} (h : Keeps P s₀ s) : Keeps P s₀ (s.zeroCore d k) := by
  unfold State.zeroCore
  exact h.putKcore

theorem Keeps.freshIslands {d} (h : Keeps P s₀ s) : Keeps P s₀ (s.freshIslands d) := by
  unfold State.freshIslands
  exact .foldl (h.zeroWhere.restore.upd rfl fun c => { c with ctxs := mrising_map (fun _ => by split <;> rfl) c.ctxs, vats := mrising_filter _ c.vats, tunOwn := mrising_filter _ c.tunOwn, tslots := mrising_filter _ c.tslots }) (fun _ _ h => h.zeroCore)

theorem Keeps.wakeDie {d access} (h : Keeps P s₀ s) : Keeps P s₀ (s.wakeDie d access) := by
  unfold State.wakeDie
  exact .ite h (.ite h.freshIslands.wf h.freshIslands.wf.wf.wf)

theorem Keeps.touch {r o n} (h : Keeps P s₀ s) : Keeps P s₀ (s.touch r o n) := by
  unfold State.touch
  dsimp only
  split
  · exact .foldl h.wakeDie (fun _ _ h => h.unrest)
  · exact h.wakeDie.unrest
  · exact h.wakeDie.unrest
  · exact h.wakeDie.unrest
  · exact h.wakeDie.unrest
  · exact h

theorem Keeps.recordFault {d c code opc aux} (h : Keeps P s₀ s) : Keeps P s₀ (s.recordFault d c code opc aux) := by
  unfold State.recordFault
  dsimp only
  split
  · exact h.faultReg
  · exact h.faultReg
  · exact h.faultReg
  · exact h.faultReg

theorem Keeps.clearTallies {d n} (h : Keeps P s₀ s) : Keeps P s₀ (clearTallies d n s) := by
  induction n generalizing d s with
  | zero =>
    rw [Machine.clearTallies]
    exact h
  | succ n ih =>
    rw [Machine.clearTallies]
    exact ih h.putVat

theorem Keeps.commitCells {d v q r w row n n1} (h : Keeps P s₀ s) : Keeps P s₀ (commitCells d v q r w row n n1 s) := by
  induction n generalizing d v q r w row n1 s with
  | zero =>
    rw [Machine.commitCells]
    exact h
  | succ n ih =>
    rw [Machine.commitCells]
    exact ih h.poke

theorem Keeps.poisonPieces {r n l} (h : Keeps P s₀ s) : Keeps P s₀ (poisonPieces r s n l) := by
  induction l generalizing r s n with
  | nil =>
    rw [Machine.poisonPieces]
    exact h
  | cons b l ih =>
    rw [Machine.poisonPieces]
    exact ih (.ite h.poisonRange h)

theorem Keeps.returnLand {u} (h : Keeps P s₀ s) : Keeps P s₀ (s.returnLand u) := by
  unfold State.returnLand
  exact h.putRing

theorem Keeps.pumpLanding {d n} (h : Keeps P s₀ s) : Keeps P s₀ (pumpLanding d n s) := by
  induction n generalizing d s with
  | zero =>
    rw [Machine.pumpLanding]
    exact h
  | succ n ih =>
    unfold Machine.pumpLanding
    dsimp only
    split
    · exact h
    · exact .ite h (ih h.putRing.unrest.putVat.returnLand)

theorem Keeps.returnCredit {d v} (h : Keeps P s₀ s) : Keeps P s₀ (s.returnCredit d v) := by
  unfold State.returnCredit
  exact .ite (.ite h.putRing h.putRing.pumpLanding) h.putVat

theorem Keeps.creditArrive {d l} (h : Keeps P s₀ s) : Keeps P s₀ (s.creditArrive d l) := by
  unfold State.creditArrive
  exact .ite (.ite h h.putVat) (.ite (.ite h h.putRing.pumpLanding) (.ite (.ite h h.putRing) (.ite h h.putRing)))

theorem Answers.execCreditReturnArrive {d l} (h : Keeps False s₀ s) : Answers s₀ (execCreditReturnArrive d l s) := by
  unfold Machine.execCreditReturnArrive
  exact .ite (.next h.creditArrive) .fault

theorem Keeps.giveRing {d tag} (h : Keeps P s₀ s) : Keeps P s₀ (s.giveRing d tag) := by
  unfold State.giveRing
  exact .ite h h.putRing.clearTallies

theorem Keeps.freeRing {d tag} (h : Keeps P s₀ s) : Keeps P s₀ (s.freeRing d tag) := by
  unfold State.freeRing
  exact .ite h.putRing.clearTallies h

theorem Keeps.setInjdie {d n} (h : Keeps P s₀ s) : Keeps P s₀ (setInjdie d n s) := by
  induction n generalizing d s with
  | zero =>
    rw [Machine.setInjdie]
    exact h
  | succ n ih =>
    rw [Machine.setInjdie]
    exact ih h.wf

theorem Keeps.injStart {d} (h : Keeps P s₀ s) : Keeps P s₀ (s.injStart d) := by
  unfold State.injStart
  refine .ite ?_ ?_
  · exact h
  · split
    · exact h
    · exact .ite h (.ite (.setInjdie (.frame h.giveRing.putVat.putRing rfl)) h.giveRing.putVat.putRing)

theorem Keeps.gristFault {d v tag part} (h : Keeps P s₀ s) : Keeps P s₀ (s.gristFault d v tag part) := by
  unfold State.gristFault
  exact h.wf.report

theorem Keeps.bindMash {d v i rest q t} (h : Keeps P s₀ s) : Keeps P s₀ (s.bindMash d v i rest q t) := by
  unfold State.bindMash
  dsimp only
  split
  · exact h.putVat.gristFault
  · split
    · exact h.putVat.gristFault
    · exact .ite h.putVat.gristFault h.putVat

theorem Keeps.bindSkip {d v i rest t} (h : Keeps P s₀ s) : Keeps P s₀ (s.bindSkip d v i rest t) := by
  unfold State.bindSkip
  exact .ite h.putVat h.putVat.wf

theorem Keeps.bind {d v} (h : Keeps P s₀ s) : Keeps P s₀ (s.bind d v) := by
  unfold State.bind
  refine .ite ?_ ?_
  · exact h
  · split
    · split
      · exact h
      · exact .ite h.putVat h
    · refine .ite ?_ ?_
      · exact .bindMash (.ite h h.giveRing)
      · split
        · exact h
        · exact .ite h.bindSkip h.bindMash

theorem Answers.execPassBind {d v} (h : Keeps False s₀ s) : Answers s₀ (execPassBind d v s) := by
  unfold Machine.execPassBind
  exact .ite (.next h.bind) .fault

theorem Keeps.enterBeat {d v p b rest} (h : Keeps P s₀ s) : Keeps P s₀ (s.enterBeat d v p b rest) := by
  unfold State.enterBeat
  exact .ite h.putVat.returnCredit.gristFault h.putVat.returnCredit

theorem Keeps.putSettled {d v x} (h : Keeps P s₀ s) : Keeps P s₀ (s.putSettled d v x) := by
  unfold State.putSettled
  exact h.putVat

theorem Keeps.inocSum {d v r bs} (h : Keeps P s₀ s) : Keeps P s₀ (s.inocSum d v r bs).2 := by
  unfold State.inocSum
  split
  · exact h.inocClear
  · exact h

theorem Keeps.formSums {d v i j r} (h : Keeps P s₀ s) : Keeps P s₀ (s.formSums d v i j r).2.2 := by
  unfold State.formSums
  exact h.inocSum

theorem Keeps.poisonColumn {d v h1 c n} (h : Keeps P s₀ s) : Keeps P s₀ (poisonColumn d v h1 c n s) := by
  induction n generalizing d v h1 c s with
  | zero =>
    rw [Machine.poisonColumn]
    exact h
  | succ n ih =>
    rw [Machine.poisonColumn]
    exact ih h.setMark

theorem Keeps.tallyMismatch {d v p c cols cls synd sub} (h : Keeps P s₀ s) : Keeps P s₀ (s.tallyMismatch d v p c cols cls synd sub) := by
  unfold State.tallyMismatch
  exact .report (.putVat (.foldl h (fun _ _ h => h.poisonColumn)))

theorem Keeps.tallyCompare {d v p c l} (h : Keeps P s₀ s) : Keeps P s₀ (tallyCompare d v p c s l) := by
  induction l generalizing d v p c s with
  | nil =>
    rw [Machine.tallyCompare]
    exact h
  | cons b l ih =>
    rw [Machine.tallyCompare]
    exact ih (.ite h.putVat h.putVat.tallyMismatch)

theorem Keeps.parityMismatch {d v p c} (h : Keeps P s₀ s) : Keeps P s₀ (s.parityMismatch d v p c) := by
  unfold State.parityMismatch
  split
  · exact h
  · exact h.tallyMismatch

theorem Keeps.tallyStep {d v} (h : Keeps P s₀ s) : Keeps P s₀ (s.tallyStep d v) := by
  unfold State.tallyStep
  dsimp only
  split
  · exact h
  · split
    · exact h
    · exact .ite h (.putSettled (.parityMismatch (.ite h.putVat (.ite h.putVat h.putVat.tallyCompare))))

theorem Answers.execTallyCheck {d v} (h : Keeps False s₀ s) : Answers s₀ (execTallyCheck d v s) := by
  unfold Machine.execTallyCheck
  exact .ite (.next h.tallyStep) .fault

theorem Keeps.holdSums {d v q gen r} (h : Keeps P s₀ s) : Keeps P s₀ (s.holdSums d v q gen r) := by
  unfold State.holdSums
  exact .foldl h (fun _ _ h => .ite h h.formSums.putVat)

theorem Keeps.rowRelease {d v r} (h : Keeps P s₀ s) : Keeps P s₀ (s.rowRelease d v r) := by
  unfold State.rowRelease
  dsimp only
  split
  · exact h
  · exact .ite h h.holdSums.putSettled

theorem Answers.execGristRowRelease {d v r} (h : Keeps False s₀ s) : Answers s₀ (execGristRowRelease d v r s) := by
  unfold Machine.execGristRowRelease
  exact .ite (.next h.rowRelease) .fault

theorem Keeps.tallyRelease {d v} (h : Keeps P s₀ s) : Keeps P s₀ (s.tallyRelease d v) := by
  unfold State.tallyRelease
  dsimp only
  split
  · exact h
  · exact .ite h h.putSettled

theorem Answers.execTallyEntryRelease {d v} (h : Keeps False s₀ s) : Answers s₀ (execTallyEntryRelease d v s) := by
  unfold Machine.execTallyEntryRelease
  exact .ite (.next h.tallyRelease) .fault

theorem Keeps.placeBeat {d v b} (h : Keeps P s₀ s) : Keeps P s₀ (s.placeBeat d v b) := by
  unfold State.placeBeat
  exact .ite h.putVat.unrest.putVat h.putRing

theorem Keeps.beatLeave {d v} (h : Keeps P s₀ s) : Keeps P s₀ (s.beatLeave d v) := by
  unfold State.beatLeave
  dsimp only
  split
  · exact h
  · split
    · exact h
    · refine .ite ?_ ?_
      · exact h
      · exact .putSettled (.ite (.report (.ite h.putVat.placeBeat h.putVat)) (.ite h.putVat.placeBeat h.putVat))

theorem Answers.execBeatSend {d v} (h : Keeps False s₀ s) : Answers s₀ (execBeatSend d v s) := by
  unfold Machine.execBeatSend
  exact .ite (.next h.beatLeave) .fault

theorem Keeps.applyLong {n} (h : Keeps P s₀ s) : Keeps P s₀ (applyLong n s) := by
  induction n generalizing s with
  | zero =>
    rw [Machine.applyLong]
    exact h
  | succ n ih =>
    rw [Machine.applyLong]
    exact ih h.putRing.wf

theorem Keeps.longSwitch (h : Keeps P s₀ s) : Keeps P s₀ s.longSwitch := by
  unfold State.longSwitch
  refine .ite ?_ ?_
  · dsimp only
    split
    · exact h.applyLong
    · exact .foldl h.applyLong (fun _ _ h => h.giveRing)
  · exact h

theorem Answers.execLongModeSwitch (h : Keeps False s₀ s) : Answers s₀ (execLongModeSwitch s) := by
  unfold Machine.execLongModeSwitch
  exact .next h.longSwitch

theorem Keeps.abortDiscard {d v} (h : Keeps P s₀ s) : Keeps P s₀ (s.abortDiscard d v) := by
  unfold State.abortDiscard
  exact .putVat (.foldl h (fun _ _ h => h.ctxRetire))

theorem Keeps.vatAbort {d v tag} (h : Keeps P s₀ s) : Keeps P s₀ (s.vatAbort d v tag) := by
  unfold State.vatAbort
  exact .ite h h.putVat.abortDiscard

theorem Answers.execVatAbortNotice {d v tag} (h : Keeps False s₀ s) : Answers s₀ (execVatAbortNotice d v tag s) := by
  unfold Machine.execVatAbortNotice
  exact .ite (.next h.vatAbort) .fault

theorem Keeps.vatDrainEnd {d v} (h : Keeps P s₀ s) : Keeps P s₀ (s.vatDrainEnd d v) := by
  unfold State.vatDrainEnd
  exact .ite h (.ite h.abortDiscard.putVat (h.abortDiscard.putVat.putVat.frame rfl))

theorem Answers.execVatAbortDrainEnd {d v} (h : Keeps False s₀ s) : Answers s₀ (execVatAbortDrainEnd d v s) := by
  unfold Machine.execVatAbortDrainEnd
  exact .ite (.next h.vatDrainEnd) .fault

theorem Keeps.putPort {d i x} (h : Keeps P s₀ s) : Keeps P s₀ (s.putPort d i x) := by
  unfold State.putPort
  exact h.upd rfl fun c => { c with ports := mrising_mset _ _ c.ports }

theorem Keeps.putRxch {d i ch r} (h : Keeps P s₀ s) : Keeps P s₀ (s.putRxch d i ch r) := by
  unfold State.putRxch
  exact h.putPort

theorem Keeps.enqueueMsg {d i ch m} (h : Keeps P s₀ s) : Keeps P s₀ (s.enqueueMsg d i ch m) := by
  unfold State.enqueueMsg
  dsimp only
  split
  · exact h.putPort
  · exact .ite h.putPort (.ite (.wf (.putPort (.ite h.inocClear h))) (.putPort (.ite h.inocClear h)))

theorem Keeps.sendStopped {d i ch} (h : Keeps P s₀ s) : Keeps P s₀ (s.sendStopped d i ch) := by
  unfold State.sendStopped
  exact .foldl h.putPort (fun _ _ h => h.enqueueMsg)

theorem Keeps.dropStopped {d i ch} (h : Keeps P s₀ s) : Keeps P s₀ (s.dropStopped d i ch) := by
  unfold State.dropStopped
  exact h.putPort

theorem Keeps.newRid (h : Keeps P s₀ s) : Keeps P s₀ s.newRid.2 := by
  unfold State.newRid
  exact h.frame rfl

theorem Keeps.putRackq {d q x} (h : Keeps P s₀ s) : Keeps P s₀ (s.putRackq d q x) := by
  unfold State.putRackq
  exact h.upd rfl fun c => { c with rackqs := mrising_mset _ _ c.rackqs }

theorem Keeps.trkPeak {d} (h : Keeps P s₀ s) : Keeps P s₀ (s.trkPeak d) := by
  unfold State.trkPeak
  exact .ite h.wf h

theorem Keeps.rkFault {d p code c qu opc tag rcode ket} (h : Keeps P s₀ s) : Keeps P s₀ (s.rkFault d p code c qu opc tag rcode ket) := by
  unfold State.rkFault
  exact h.faultReg

theorem Keeps.copyStop {i code} (h : Keeps P s₀ s) : Keeps P s₀ (s.copyStop i code) := by
  unfold State.copyStop
  exact h.putFn

theorem Keeps.rackStop {d qu seq code rcode} (h : Keeps P s₀ s) : Keeps P s₀ (s.rackStop d qu seq code rcode) := by
  unfold State.rackStop
  dsimp only
  split
  · exact h
  · refine .ite ?_ ?_
    · exact h
    · refine .ite ?_ ?_
      · exact .ite h.putRackq.copyStop.bondReport h.putRackq.copyStop
      · exact .ite h.putRackq.rkFault.report.bondReport h.putRackq.rkFault.report

theorem Keeps.consumed {d tag part island addr} (h : Keeps P s₀ s) : Keeps P s₀ (s.consumed d tag part island addr) := by
  unfold State.consumed
  exact h.report

theorem Keeps.rackPoison {d qu seq addr} (h : Keeps P s₀ s) : Keeps P s₀ (s.rackPoison d qu seq addr) := by
  unfold State.rackPoison
  dsimp only
  split
  · exact h
  · exact h.putRackq.consumed

theorem Keeps.windowPoison {d qu q w} (h : Keeps P s₀ s) : Keeps P s₀ (s.windowPoison d qu q w) := by
  unfold State.windowPoison
  dsimp only
  split
  · exact h
  · exact .report (.ite h.putRackq.copyStop h.putRackq)

theorem Keeps.overlapMark {d c part tag ov} (h : Keeps P s₀ s) : Keeps P s₀ (s.overlapMark d c part tag ov) := by
  unfold State.overlapMark
  split
  · exact h
  · exact .ite h.wf h.wfs

theorem Keeps.poisonZ {r n l} (h : Keeps P s₀ s) : Keeps P s₀ (poisonZ r s n l) := by
  induction l generalizing r s n with
  | nil =>
    rw [Machine.poisonZ]
    exact h
  | cons b l ih =>
    rw [Machine.poisonZ]
    exact ih (.ite h.poisonRange h)

theorem Keeps.setLog {d qu i log} (h : Keeps P s₀ s) : Keeps P s₀ (s.setLog d qu i log) := by
  unfold State.setLog
  exact .ite h.putRackq h

theorem Keeps.sendStop {d qu seq e} (h : Keeps P s₀ s) : Keeps P s₀ (s.sendStop d qu seq e) := by
  unfold State.sendStop
  exact .ite h.rackStop h.rackStop

theorem Keeps.putSpec {d l x} (h : Keeps P s₀ s) : Keeps P s₀ (s.putSpec d l x) := by
  unfold State.putSpec
  exact h.upd rfl fun c => { c with specRows := mrising_mset _ _ c.specRows }

theorem Keeps.putTslot {d p sl x} (h : Keeps P s₀ s) : Keeps P s₀ (s.putTslot d p sl x) := by
  unfold State.putTslot
  exact h.upd rfl fun c => { c with tslots := mrising_mset _ _ c.tslots }

theorem Keeps.tunFault {d p sl x code rcode} (h : Keeps P s₀ s) : Keeps P s₀ (s.tunFault d p sl x code rcode) := by
  unfold State.tunFault
  exact h.faultReg

theorem Keeps.chunkFail {d p sl x code rcode} (h : Keeps P s₀ s) : Keeps P s₀ (s.chunkFail d p sl x code rcode) := by
  unfold State.chunkFail
  exact .ite h.putTslot.tunFault.report.bondReport h.putTslot.tunFault.report

theorem Keeps.onPour {id f} (h : Keeps P s₀ s) : Keeps P s₀ (s.onPour id f) := by
  unfold State.onPour
  exact h.upd rfl fun c => { c with tslots := mrising_map (fun _ => rfl) c.tslots }

theorem Keeps.tunIssued {d qu q} (h : Keeps P s₀ s) : Keeps P s₀ (s.tunIssued d qu q) := by
  unfold State.tunIssued
  refine .ite ?_ ?_
  · dsimp only
    split
    · exact h.onPour
    · exact h.onPour.putTslot
  · exact h.putRackq

theorem Keeps.dropTin {d qu n} (h : Keeps P s₀ s) : Keeps P s₀ (s.dropTin d qu n) := by
  unfold State.dropTin
  exact h.putRackq

theorem Keeps.inocPartial {d vs} (h : Keeps P s₀ s) : Keeps P s₀ (s.inocPartial d vs).2.2 := by
  unfold State.inocPartial
  dsimp only
  split
  · exact h
  · exact h.inocClear

theorem Keeps.chunkAck {rid stat} (h : Keeps P s₀ s) : Keeps P s₀ (s.chunkAck rid stat) := by
  unfold State.chunkAck
  split
  · exact h
  · exact .ite h.putTslot (.ite h.putTslot.putTslot h.putTslot.chunkFail)

theorem Keeps.tunStopQs {d tag} (h : Keeps P s₀ s) : Keeps P s₀ (s.tunStopQs d tag) := by
  unfold State.tunStopQs
  exact h.upd rfl fun c => { c with rackqs := mrising_map (fun _ => by split <;> rfl) c.rackqs }

theorem Keeps.tunDrain {d tag} (h : Keeps P s₀ s) : Keeps P s₀ (s.tunDrain d tag) := by
  unfold State.tunDrain
  exact .ite (h.upd rfl fun c => { c with drainTun := mrising_mset _ _ c.drainTun }) h

theorem Answers.execTunDrainReport {d tag} (h : Keeps False s₀ s) : Answers s₀ (execTunDrainReport d tag s) := by
  unfold Machine.execTunDrainReport
  exact .ite (.next h.tunDrain) .fault

theorem Keeps.bridgeSend {d} (h : Keeps P s₀ s) : Keeps P s₀ (s.bridgeSend d) := by
  unfold State.bridgeSend
  dsimp only
  split
  · exact h
  · exact .ite h (.putRing (.ite h.inocClear (.ite h.inocClear h)))

theorem Answers.execBridgeBeatSend {d} (h : Keeps False s₀ s) : Answers s₀ (execBridgeBeatSend d s) := by
  unfold Machine.execBridgeBeatSend
  exact .ite (.next h.bridgeSend) .fault

theorem Keeps.acceptR {d c i} (h : Keeps P s₀ s) : Keeps P s₀ (s.acceptR d c i).2 := by
  unfold State.acceptR
  exact .overlapMark (.ite (by
      dsimp only
      split
      · exact h
      · exact h.wfs) h)

theorem Keeps.setTrkWait {d qu k} (h : Keeps P s₀ s) : Keeps P s₀ (s.setTrkWait d qu k) := by
  unfold State.setTrkWait
  exact h.putRackq

theorem Keeps.countSat {d i n} (h : Keeps P s₀ s) : Keeps P s₀ (s.countSat d i n) := by
  unfold State.countSat
  exact .ite h h.count

theorem Keeps.idxDone {d qu i} (h : Keeps P s₀ s) : Keeps P s₀ (s.idxDone d qu i) := by
  unfold State.idxDone
  exact .ite h (.ite h.rackStop h.countSat.putRackq)

theorem Keeps.dispatchIn {d qu i} (h : Keeps P s₀ s) : Keeps P s₀ (s.dispatchIn d qu i) := by
  unfold State.dispatchIn
  exact .ite h h.putRackq

theorem Keeps.idxArrive {d qu q bs zs} (h : Keeps P s₀ s) : Keeps P s₀ (s.idxArrive d qu q bs zs) := by
  unfold State.idxArrive
  split
  · exact h
  · exact .ite h.rackPoison (.ite h.putRackq (.ite h.putRackq.dispatchIn h.putRackq.idxDone))

theorem Keeps.markArrive {d qu q bs zs} (h : Keeps P s₀ s) : Keeps P s₀ (s.markArrive d qu q bs zs) := by
  unfold State.markArrive
  split
  · exact h
  · exact .ite h.rackPoison (.ite h.rackStop h.putRackq)

theorem Keeps.dropReq {d qu id seq} (h : Keeps P s₀ s) : Keeps P s₀ (s.dropReq d qu id seq) := by
  unfold State.dropReq
  exact h.putRackq

theorem Keeps.copyEnd {i} (h : Keeps P s₀ s) : Keeps P s₀ (s.copyEnd i) := by
  unfold State.copyEnd
  exact h.putFn

theorem Keeps.refillQ {d qu} (h : Keeps P s₀ s) : Keeps P s₀ (s.refillQ d qu) := by
  unfold State.refillQ
  exact .ite h h.putRackq

theorem Keeps.refillQs {d n} (h : Keeps P s₀ s) : Keeps P s₀ (refillQs d n s) := by
  induction n generalizing d s with
  | zero =>
    rw [Machine.refillQs]
    exact h
  | succ n ih =>
    rw [Machine.refillQs]
    exact ih h.refillQ

theorem Answers.execRegulatorRefill {d} (h : Keeps False s₀ s) : Answers s₀ (execRegulatorRefill d s) := by
  unfold Machine.execRegulatorRefill
  exact .ite (.next h.refillQs) .fault

theorem Keeps.trkGrant {d qu} (h : Keeps P s₀ s) : Keeps P s₀ (s.trkGrant d qu) := by
  unfold State.trkGrant
  exact .ite h.setTrkWait h

theorem Answers.execTrackerEntryWaitEnd {d qu} (h : Keeps False s₀ s) : Answers s₀ (execTrackerEntryWaitEnd d qu s) := by
  unfold Machine.execTrackerEntryWaitEnd
  exact .ite (.next h.trkGrant) .fault

theorem Keeps.rackAbortQ {d qu tag} (h : Keeps P s₀ s) : Keeps P s₀ (s.rackAbortQ d qu tag) := by
  unfold State.rackAbortQ
  exact h.putRackq

theorem Keeps.rackAbortQs {d tag n} (h : Keeps P s₀ s) : Keeps P s₀ (rackAbortQs d tag n s) := by
  induction n generalizing d tag s with
  | zero =>
    rw [Machine.rackAbortQs]
    exact h
  | succ n ih =>
    rw [Machine.rackAbortQs]
    exact ih h.rackAbortQ

theorem Keeps.rackDrain {d tag} (h : Keeps P s₀ s) : Keeps P s₀ (s.rackDrain d tag) := by
  unfold State.rackDrain
  exact .ite (h.upd rfl fun c => { c with drainRk := mrising_mset _ _ c.drainRk }) h

theorem Answers.execRackingDrainReport {d tag} (h : Keeps False s₀ s) : Answers s₀ (execRackingDrainReport d tag s) := by
  unfold Machine.execRackingDrainReport
  exact .ite (.next h.rackDrain) .fault

theorem Keeps.ketGroup {d c} (h : Keeps P s₀ s) : Keeps P s₀ (s.ketGroup d c) := by
  unfold State.ketGroup
  exact h.putKcore

theorem Keeps.setPst {d i fs} (h : Keeps P s₀ s) : Keeps P s₀ (s.setPst d i fs) := by
  unfold State.setPst
  exact h.wfs

theorem Keeps.ecnt {d i f n} (h : Keeps P s₀ s) : Keeps P s₀ (s.ecnt d i f n) := by
  unfold State.ecnt
  exact h.wf

theorem Keeps.linkWidth {d i rx} (h : Keeps P s₀ s) : Keeps P s₀ (s.linkWidth d i rx) := by
  unfold State.linkWidth
  exact h.raise

theorem Keeps.pushCtl {d i pl} (h : Keeps P s₀ s) : Keeps P s₀ (s.pushCtl d i pl) := by
  unfold State.pushCtl
  exact h.putPort

theorem Keeps.putLine {d i vc seq pool pl} (h : Keeps P s₀ s) : Keeps P s₀ (s.putLine d i vc seq pool pl) := by
  unfold State.putLine
  exact .putPort (.ite h.inocClear h)

theorem Keeps.newFlit {d i ch} (h : Keeps P s₀ s) : Keeps P s₀ (s.newFlit d i ch) := by
  unfold State.newFlit
  exact .putLine (.ite h.putPort.wf h.putPort.setPst)

theorem Keeps.flitSend {d i} (h : Keeps P s₀ s) : Keeps P s₀ (s.flitSend d i) := by
  unfold State.flitSend
  refine .ite ?_ ?_
  · exact h
  · refine .ite ?_ ?_
    · exact .ite h.putLine h
    · split
      · exact h.putPort.putLine
      · split
        · exact h.putPort.putLine
        · split
          · exact h.newFlit
          · exact h.putLine

theorem Answers.execFlitSend {d i} (h : Keeps False s₀ s) : Answers s₀ (execFlitSend d i s) := by
  unfold Machine.execFlitSend
  exact .ite (.next h.flitSend) .fault

theorem Keeps.ackTo {d i v} (h : Keeps P s₀ s) : Keeps P s₀ (s.ackTo d i v) := by
  unfold State.ackTo
  exact .ite (.ite h.putPort.setPst h.putPort) h.putPort

theorem Keeps.applyPiggy {d i fl} (h : Keeps P s₀ s) : Keeps P s₀ (s.applyPiggy d i fl) := by
  unfold State.applyPiggy
  dsimp only
  split
  · exact h.ackTo
  · exact .ite h h.putPort.wf
  · exact h.putPort.setPst
  · exact h

theorem Keeps.freeBytes {d i ch n} (h : Keeps P s₀ s) : Keeps P s₀ (s.freeBytes d i ch n) := by
  unfold State.freeBytes
  exact h.putRxch.putPort

theorem Keeps.resend14 {d i} (h : Keeps P s₀ s) : Keeps P s₀ (s.resend14 d i) := by
  unfold State.resend14
  exact .foldl h (fun _ _ h => by
      split
      · exact h
      · exact .ite h h.enqueueMsg)

theorem Keeps.toRetrain {d i tx} (h : Keeps P s₀ s) : Keeps P s₀ (s.toRetrain d i tx) := by
  unfold State.toRetrain
  exact .ite h.setPst.ecnt.resend14 h.setPst.ecnt

theorem Keeps.bothTo {d i st} (h : Keeps P s₀ s) : Keeps P s₀ (s.bothTo d i st) := by
  unfold State.bothTo
  exact h.setPst.wf.putPort

theorem Keeps.retrainDone {d i} (h : Keeps P s₀ s) : Keeps P s₀ (s.retrainDone d i) := by
  unfold State.retrainDone
  exact .ite h h.wf

theorem Keeps.rxRetry {d i} (h : Keeps P s₀ s) : Keeps P s₀ (s.rxRetry d i) := by
  unfold State.rxRetry
  exact .ite h h.setPst.ecnt.putPort.pushCtl

theorem Keeps.acceptFlit {d i fl} (h : Keeps P s₀ s) : Keeps P s₀ (s.acceptFlit d i fl) := by
  unfold State.acceptFlit
  exact .putRxch (.applyPiggy (.ite h.putPort.setPst h.putPort))

theorem Keeps.lineCheck {d i fl errs} (h : Keeps P s₀ s) : Keeps P s₀ (s.lineCheck d i fl errs).2 := by
  unfold State.lineCheck
  exact .putPort (.ite (.ite (.ite h.inocClear h) (.ite (.ecnt (.ite h.inocClear h)) (.ecnt (.ite h.inocClear h)))) (.ecnt (.ite (.ite h.inocClear h) (.ite (.ecnt (.ite h.inocClear h)) (.ecnt (.ite h.inocClear h))))))

theorem Keeps.flitReceive {d i fl errs} (h : Keeps P s₀ s) : Keeps P s₀ (s.flitReceive d i fl errs) := by
  unfold State.flitReceive
  refine .ite ?_ ?_
  · exact h
  · refine .ite ?_ ?_
    · exact h.lineCheck.rxRetry
    · exact .ite h.lineCheck (.ite h.lineCheck.acceptFlit (.ite h.lineCheck h.lineCheck.rxRetry))

theorem Answers.execFlitReceive {d i fl dataErrs parErrs} (h : Keeps False s₀ s) : Answers s₀ (execFlitReceive d i fl dataErrs parErrs s) := by
  unfold Machine.execFlitReceive
  exact .ite (.next h.flitReceive) .fault

theorem Keeps.nakRx {d i q} (h : Keeps P s₀ s) : Keeps P s₀ (s.nakRx d i q) := by
  unfold State.nakRx
  exact .ite h (.putPort (.ite h.setPst.ecnt h))

theorem Keeps.nakAgain {d i us} (h : Keeps P s₀ s) : Keeps P s₀ (s.nakAgain d i us) := by
  unfold State.nakAgain
  exact .ite h.putPort.pushCtl h

theorem Answers.execNakResend {d i us} (h : Keeps False s₀ s) : Answers s₀ (execNakResend d i us s) := by
  unfold Machine.execNakResend
  exact .ite (.next h.nakAgain) .fault

theorem Keeps.retryLimit {d i us} (h : Keeps P s₀ s) : Keeps P s₀ (s.retryLimit d i us) := by
  unfold State.retryLimit
  exact .ite (.toRetrain (.putPort (.ite h.putPort.toRetrain h))) (.ite h.putPort.toRetrain h)

theorem Answers.execRetryLimit {d i us} (h : Keeps False s₀ s) : Answers s₀ (execRetryLimit d i us s) := by
  unfold Machine.execRetryLimit
  exact .ite (.next h.retryLimit) .fault

theorem Keeps.dupids {l} (h : Keeps P s₀ s) : Keeps P s₀ (dupids s l) := by
  induction l generalizing s with
  | nil =>
    rw [Machine.dupids]
    exact h
  | cons b l ih =>
    rw [Machine.dupids]
    exact ih (.ite h.setPst.linkWidth h.setPst)

theorem Keeps.identRx {d i pl} (h : Keeps P s₀ s) : Keeps P s₀ (s.identRx d i pl) := by
  unfold State.identRx
  exact h.setPst.putPort.dupids

theorem Keeps.fullCredits {d i n} (h : Keeps P s₀ s) : Keeps P s₀ (fullCredits d i n s) := by
  induction n generalizing d i s with
  | zero =>
    rw [Machine.fullCredits]
    exact h
  | succ n ih =>
    rw [Machine.fullCredits]
    exact ih h.wf

theorem Keeps.align {d i gt gr} (h : Keeps P s₀ s) : Keeps P s₀ (s.align d i gt gr) := by
  unfold State.align
  dsimp only
  split
  · refine .ite ?_ ?_
    · exact h
    · refine .ite ?_ ?_
      · exact .ite h.putPort.fullCredits.setPst h.putPort.fullCredits.setPst.linkWidth
      · exact .linkWidth (.ite h.putPort.fullCredits.setPst h.putPort.fullCredits.setPst.linkWidth)
  · exact h

theorem Keeps.trainDone {d i gt gr} (h : Keeps P s₀ s) : Keeps P s₀ (s.trainDone d i gt gr) := by
  unfold State.trainDone
  exact .ite h (.ite h.align h.align.putPort.setPst.dupids)

theorem Answers.execTrainComplete {d i gt gr} (h : Keeps False s₀ s) : Answers s₀ (execTrainComplete d i gt gr s) := by
  unfold Machine.execTrainComplete
  exact .ite (.next h.trainDone) .fault

theorem Answers.execTrainTimeout {d i us} (h : Keeps False s₀ s) : Answers s₀ (execTrainTimeout d i us s) := by
  unfold Machine.execTrainTimeout
  exact .ite .fault (.next (.ite h.bothTo h))

theorem Keeps.startTrain {d i} (h : Keeps P s₀ s) : Keeps P s₀ (s.startTrain d i) := by
  unfold State.startTrain
  exact .ite h.bothTo h

theorem Answers.execDownRetrainTimer {d i us} (h : Keeps False s₀ s) : Answers s₀ (execDownRetrainTimer d i us s) := by
  unfold Machine.execDownRetrainTimer
  exact .ite .fault (.next (.ite h.startTrain h))

theorem Answers.execQlinkCableMate {d i} (h : Keeps False s₀ s) : Answers s₀ (execQlinkCableMate d i s) := by
  unfold Machine.execQlinkCableMate
  exact .ite .fault (.next (.ite h h.putPort.startTrain))

theorem Answers.execQlinkCableUnmate {d i} (h : Keeps False s₀ s) : Answers s₀ (execQlinkCableUnmate d i s) := by
  unfold Machine.execQlinkCableUnmate
  exact .ite .fault (.next h.putPort.bothTo)

theorem Keeps.writeTrain {d i v} (h : Keeps P s₀ s) : Keeps P s₀ (s.writeTrain d i v) := by
  unfold State.writeTrain
  exact .ite h.wf.startTrain h.wf.bothTo

theorem Answers.execQlTrainWrite {d i v} (h : Keeps False s₀ s) : Answers s₀ (execQlTrainWrite d i v s) := by
  unfold Machine.execQlTrainWrite
  exact .ite (.next h.writeTrain) .fault

theorem Keeps.writeRetrain {d i} (h : Keeps P s₀ s) : Keeps P s₀ (s.writeRetrain d i) := by
  unfold State.writeRetrain
  exact .ite h (.ite (.ite h.wf h.wf.toRetrain) (.toRetrain (.ite h.wf h.wf.toRetrain)))

theorem Answers.execQlRetrainWrite {d i} (h : Keeps False s₀ s) : Answers s₀ (execQlRetrainWrite d i s) := by
  unfold Machine.execQlRetrainWrite
  exact .ite (.next h.writeRetrain) .fault

theorem Answers.execLaneErrorRetrain {d i tx l fault} (h : Keeps False s₀ s) : Answers s₀ (execLaneErrorRetrain d i tx l fault s) := by
  unfold Machine.execLaneErrorRetrain
  exact .ite .fault (.next (.ite h.toRetrain h))

theorem Keeps.retrainResult {d i tx ok g us} (h : Keeps P s₀ s) : Keeps P s₀ (s.retrainResult d i tx ok g us) := by
  unfold State.retrainResult
  refine .ite ?_ ?_
  · exact h
  · refine .ite ?_ ?_
    · split
      · exact h.putPort.setPst
      · exact .ite h.putPort.setPst (.ite h.putPort.setPst.retrainDone h.putPort.setPst.retrainDone.linkWidth)
    · exact .ite h.putPort.setPst h.putPort

theorem Answers.execRetrainResult {d i tx ok g us} (h : Keeps False s₀ s) : Answers s₀ (execRetrainResult d i tx ok g us s) := by
  unfold Machine.execRetrainResult
  exact .ite (.next h.retrainResult) .fault

theorem Keeps.loseAcks {p} (h : Keeps P s₀ s) : Keeps P s₀ (loseAcks p s) := by
  unfold Machine.loseAcks
  exact h.upd rfl fun c => { c with tslots := mrising_map (fun _ => rfl) c.tslots }

theorem Keeps.endJobs {js cls cause named island sub idx} (h : Keeps P s₀ s) : Keeps P s₀ (s.endJobs js cls cause named island sub idx) := by
  unfold State.endJobs
  exact .foldl h (fun _ _ h => h.report)

theorem Keeps.discard {d i ch n f} (h : Keeps P s₀ s) : Keeps P s₀ (s.discard d i ch n f) := by
  unfold State.discard
  exact h.freeBytes.ecnt

theorem Keeps.consume {d i ch} (h : Keeps P s₀ s) : Keeps P s₀ (s.consume d i ch) := by
  unfold State.consume
  exact h.putRxch.freeBytes

theorem Keeps.dropChunks {d tag} (h : Keeps P s₀ s) : Keeps P s₀ (s.dropChunks d tag) := by
  unfold State.dropChunks
  exact .foldl h (fun _ _ h => .foldl h (fun _ _ h => by
      split
      · exact h
      · exact .ite h.consume h))

theorem Keeps.wackRx {d i ch m} (h : Keeps P s₀ s) : Keeps P s₀ (s.wackRx d i ch m) := by
  unfold State.wackRx
  dsimp only
  split
  · exact h.consume.chunkAck
  · exact .ite h.consume.putRackq h.consume.putRackq.rackStop

theorem Keeps.floodDie {d org ser body tag skip} (h : Keeps P s₀ s) : Keeps P s₀ (s.floodDie d org ser body tag skip) := by
  unfold State.floodDie
  refine .ite ?_ ?_
  · exact h
  · exact .foldl (h.upd rfl fun c => { c with seen := mrising_mset _ _ c.seen }) (fun _ _ h => .ite h h.enqueueMsg)

theorem Keeps.flood {org ser body tag skip} (h : Keeps P s₀ s) : Keeps P s₀ (s.flood org ser body tag skip) := by
  unfold State.flood
  exact .foldl h (fun _ _ h => h.floodDie)

theorem Keeps.hbRx {d i ch m} (h : Keeps P s₀ s) : Keeps P s₀ (s.hbRx d i ch m) := by
  unfold State.hbRx
  exact .ite h.consume.inocClear h.consume.enqueueMsg

theorem Keeps.hbrRx {d i ch m} (h : Keeps P s₀ s) : Keeps P s₀ (s.hbrRx d i ch m) := by
  unfold State.hbrRx
  exact h.consume.putPort

theorem Keeps.hbSend {d} (h : Keeps P s₀ s) : Keeps P s₀ (s.hbSend d) := by
  unfold State.hbSend
  exact .ite h (.foldl h (fun _ _ h => .ite h h.putPort.enqueueMsg))

theorem Answers.execHbSend {d} (h : Keeps False s₀ s) : Answers s₀ (execHbSend d s) := by
  unfold Machine.execHbSend
  exact .ite (.next h.hbSend) .fault

theorem Keeps.hbExchange {silent} (h : Keeps P s₀ s) : Keeps P s₀ (s.hbExchange silent) := by
  unfold State.hbExchange
  exact .foldl h (fun _ _ h => .upd (.ite h.inocClear h) rfl (fun c => { c with dieHbAge := mrising_mset _ _ c.dieHbAge }))

theorem Answers.execDieHeartbeatExchange {silent} (h : Keeps False s₀ s) : Answers s₀ (execDieHeartbeatExchange silent s) := by
  unfold Machine.execDieHeartbeatExchange
  exact .next h.hbExchange

theorem Keeps.putPart {p x} (h : Keeps P s₀ s) : Keeps P s₀ (s.putPart p x) := by
  unfold State.putPart
  exact h.upd rfl fun c => { c with parts := mrising_mset _ _ c.parts }

theorem Keeps.pmrExtend {p bs} (h : Keeps P s₀ s) : Keeps P s₀ (s.pmrExtend p bs) := by
  unfold State.pmrExtend
  exact h.putPart

theorem Keeps.putWords {d t h1 l} (h : Keeps P s₀ s) : Keeps P s₀ (putWords d t h1 s l) := by
  induction l generalizing d t h1 s with
  | nil =>
    rw [Machine.putWords]
    exact h
  | cons b l ih =>
    rw [Machine.putWords]
    exact ih h.setReg

theorem Keeps.setHalf {d t h1 ws} (h : Keeps P s₀ s) : Keeps P s₀ (s.setHalf d t h1 ws) := by
  unfold State.setHalf
  exact .putWords (h.upd rfl fun c => { c with regs := mwf_filter _ c.regs })

theorem Keeps.holdWords {d t ws} (h : Keeps P s₀ s) : Keeps P s₀ (s.holdWords d t ws) := by
  unfold State.holdWords
  exact h.frame rfl

theorem Keeps.slotEdit {d f} (h : Keeps P s₀ s) : Keeps P s₀ (s.slotEdit d f) := by
  unfold State.slotEdit
  exact .foldl h (fun _ _ h => .ite (.holdWords (.frame h rfl)) h.setHalf.wf)

theorem Keeps.holdDrops {d p} (h : Keeps P s₀ s) : Keeps P s₀ (s.holdDrops d p) := by
  unfold State.holdDrops
  exact .foldl h (fun _ _ h => .ite h h.holdWords)

theorem Keeps.releaseSlots {p} (h : Keeps P s₀ s) : Keeps P s₀ (s.releaseSlots p) := by
  unfold State.releaseSlots
  exact .foldl h (fun _ _ h => .ite h.slotEdit.holdDrops h)

theorem Keeps.setCarry {d t v n} (h : Keeps P s₀ s) : Keeps P s₀ (s.setCarry d t v n) := by
  unfold State.setCarry
  exact h.wf

theorem Keeps.slotLess {d t} (h : Keeps P s₀ s) : Keeps P s₀ (s.slotLess d t) := by
  unfold State.slotLess
  exact .ite h (.ite h.wf h.setCarry)

theorem Keeps.setHolder {d t k tag} (h : Keeps P s₀ s) : Keeps P s₀ (s.setHolder d t k tag) := by
  unfold State.setHolder
  exact h.upd rfl fun c => { c with slotOwn := mrising_mset _ _ c.slotOwn }

theorem Keeps.slotStart {d t use} (h : Keeps P s₀ s) : Keeps P s₀ (s.slotStart d t use) := by
  unfold State.slotStart
  refine .ite ?_ ?_
  · exact h
  · dsimp only
    split
    · exact .setHolder (.wf (.ite h.slotLess h))
    · split
      · exact .setHolder (.wf (.ite h.slotLess h))
      · exact .setHolder (.wf (.setCarry (.wf (.ite h.slotLess h))))

theorem Keeps.swapAgain {d t} (h : Keeps P s₀ s) : Keeps P s₀ (s.swapAgain d t) := by
  unfold State.swapAgain
  exact h.wf.holdWords

theorem Keeps.slotHeldApply {d l} (h : Keeps P s₀ s) : Keeps P s₀ (slotHeldApply d s l) := by
  induction l generalizing d s with
  | nil =>
    rw [Machine.slotHeldApply]
    exact h
  | cons b l ih =>
    rw [Machine.slotHeldApply]
    exact ih (.ite h (.ite h.swapAgain h.setReg))

theorem Keeps.epoch {d} (h : Keeps P s₀ s) : Keeps P s₀ (s.epoch d) := by
  unfold State.epoch
  exact .ite h (.slotHeldApply (.frame (.foldl h (fun _ _ h => .ite h.wfs h)) rfl))

theorem Answers.execEpochBoundary {d} (h : Keeps False s₀ s) : Answers s₀ (execEpochBoundary d s) := by
  unfold Machine.execEpochBoundary
  exact .ite (.next h.epoch) .fault

theorem Answers.execSlotSwap {d t} (h : Keeps False s₀ s) : Answers s₀ (execSlotSwap d t s) := by
  unfold Machine.execSlotSwap
  exact .ite (.next h.wf) .fault

theorem Keeps.putJob {tag j} (h : Keeps P s₀ s) : Keeps P s₀ (s.putJob tag j) := by
  unfold State.putJob
  exact h.upd rfl fun c => { c with jobs := mrising_mset _ _ c.jobs }

theorem Keeps.endCmd {f status detail result} (h : Keeps P s₀ s) : Keeps P s₀ (s.endCmd f status detail result) := by
  unfold State.endCmd
  dsimp only
  split
  · exact h
  · exact .ite h.putFn h.putFn.reply

theorem Keeps.wakeIslands {mask} (h : Keeps P s₀ s) : Keeps P s₀ (s.wakeIslands mask) := by
  unfold State.wakeIslands
  exact .foldl h (fun _ _ h => .ite h.wf h)

theorem Keeps.setLong {v n} (h : Keeps P s₀ s) : Keeps P s₀ (setLong v n s) := by
  induction n generalizing v s with
  | zero =>
    rw [Machine.setLong]
    exact h
  | succ n ih =>
    rw [Machine.setLong]
    exact ih h.wfs

theorem Keeps.longWrite {d} (h : Keeps P s₀ s) : Keeps P s₀ (s.longWrite d) := by
  unfold State.longWrite
  exact .ite h.wf (h.setLong.frame rfl)

theorem Keeps.longEnds {tag} (h : Keeps P s₀ s) : Keeps P s₀ (s.longEnds tag) := by
  unfold State.longEnds
  exact .ite (h.setLong.frame rfl) h

theorem Keeps.moduleState (h : Keeps P s₀ s) : Keeps P s₀ s.moduleState := by
  unfold State.moduleState
  exact .foldl h (fun _ _ h => h.raise)

theorem Keeps.stopLongs {d} (h : Keeps P s₀ s) : Keeps P s₀ (s.stopLongs d) := by
  unfold State.stopLongs
  exact h.upd rfl fun c => { c with fns := mrising_map (fun _ => rfl) c.fns, rackqs := mrising_map (fun _ => by split <;> rfl) c.rackqs }

theorem Keeps.abortRx {d i ch m} (h : Keeps P s₀ s) : Keeps P s₀ (s.abortRx d i ch m) := by
  unfold State.abortRx
  refine .ite ?_ ?_
  · exact h.consume.tick.set_time
  · dsimp only
    split
    · exact h.consume.tick.set_time.flood
    · exact h.consume.tick.set_time.flood.report

theorem Keeps.regRead {q d r i j k} (h : Keeps P s₀ s) : Keeps P s₀ (s.regRead q d r i j k).2 := by
  unfold State.regRead
  dsimp only
  split
  · exact h
  · split
    · split
      · exact .ite h h.unrest
      · exact .ite h h.unrest
    · refine .ite ?_ ?_
      · exact .ite (.ite h h.unrest) (.frame (.ite h h.unrest) rfl)
      · exact .wfs (.ite (.ite h h.unrest) (.frame (.ite h h.unrest) rfl))

theorem Keeps.hydSnapshot {d p set} (h : Keeps P s₀ s) : Keeps P s₀ (s.hydSnapshot d p set) := by
  unfold State.hydSnapshot
  exact .wf (.wf (.wf (.wfs (.wfs (h.upd rfl fun c => { c with hyd := mrising_mset _ _ c.hyd })))))

theorem Keeps.kscWrite {d p applied skipped} (h : Keeps P s₀ s) : Keeps P s₀ (s.kscWrite d p applied skipped) := by
  unfold State.kscWrite
  refine .ite ?_ ?_
  · exact h
  · refine .ite ?_ ?_
    · exact h.wf.wf
    · refine .ite ?_ ?_
      · split
        · exact h.wf.report
        · exact h.wf
      · exact h.wf

theorem Keeps.plimWrite (h : Keeps P s₀ s) : Keeps P s₀ s.plimWrite := by
  unfold State.plimWrite
  exact h.wf

theorem Keeps.levelPend (h : Keeps P s₀ s) : Keeps P s₀ s.levelPend := by
  unfold State.levelPend
  exact h.wf

theorem Keeps.levelSet (h : Keeps P s₀ s) : Keeps P s₀ s.levelSet := by
  unfold State.levelSet
  exact .levelPend (.ite (.wf (.frame h.wfs rfl)) h.wfs)

theorem Keeps.inocArm {d} (h : Keeps P s₀ s) : Keeps P s₀ (s.inocArm d) := by
  unfold State.inocArm
  exact .ite h.wf (.ite (h.wfs.upd rfl fun c => { c with inocLeft := mrising_mset _ _ c.inocLeft }) h.wf.wf)

theorem Keeps.inocDisarm {d} (h : Keeps P s₀ s) : Keeps P s₀ (s.inocDisarm d) := by
  unfold State.inocDisarm
  exact h.wfs.wf.upd rfl fun c => { c with inocLeft := mrising_mset _ _ c.inocLeft }

theorem Keeps.inocKept {d} (h : Keeps P s₀ s) : Keeps P s₀ (s.inocKept d) := by
  unfold State.inocKept
  exact .ite h.inocDisarm (.ite h h.inocDisarm.wf)

theorem Keeps.inocWrite {d was arm disarm} (h : Keeps P s₀ s) : Keeps P s₀ (s.inocWrite d was arm disarm) := by
  unfold State.inocWrite
  exact .ite (.inocDisarm (.ite h.inocKept (.ite h.inocArm h))) (.ite h.inocKept (.ite h.inocArm h))

theorem Keeps.ringOn {f} (h : Keeps P s₀ s) : Keeps P s₀ (s.ringOn f) := by
  unfold State.ringOn
  exact h.putFn.wfs.flush

theorem Keeps.ringOff {f} (h : Keeps P s₀ s) : Keeps P s₀ (s.ringOff f) := by
  unfold State.ringOff
  exact h.putFn

theorem Keeps.ringRestart {f} (h : Keeps P s₀ s) : Keeps P s₀ (s.ringRestart f) := by
  unfold State.ringRestart
  exact h.putFn.wfs

theorem Keeps.ringWrite {f old new restart} (h : Keeps P s₀ s) : Keeps P s₀ (s.ringWrite f old new restart) := by
  unfold State.ringWrite
  refine .ite ?_ ?_
  · exact .ringOn (.ite h.setReg.ringRestart h.setReg)
  · exact .ite (.ringOff (.ite h.setReg.ringRestart h.setReg)) (.ite h.setReg.ringRestart h.setReg)

theorem Keeps.cgrpWrite {d i j new} (h : Keeps P s₀ s) : Keeps P s₀ (s.cgrpWrite d i j new) := by
  unfold State.cgrpWrite
  exact h.set_changes

theorem Keeps.regApply {q d r i j v m} (h : Keeps P s₀ s) : Keeps P s₀ (s.regApply q d r i j v m) := by
  unfold State.regApply
  dsimp only
  split
  · exact h.ringWrite
  · exact .ite h h.cgrpWrite
  · exact .ite (.writeRetrain (.ite h.setReg h.setReg.writeTrain)) (.ite h.setReg h.setReg.writeTrain)
  · split
    · exact .ite h.setReg.longWrite h.setReg
    · exact .ite h.setReg.hydSnapshot h.setReg
    · exact h.setReg.kscWrite
    · exact h.setReg.inocWrite
    · exact h.setReg.wf
    · exact h.setReg.plimWrite.levelSet
    · exact h.setReg

theorem Keeps.slotWord {d r i k v} (h : Keeps P s₀ s) : Keeps P s₀ (s.slotWord d r i k v) := by
  unfold State.slotWord
  exact .ite (h.frame rfl) (.ite h h.setReg)

theorem Keeps.stage {q d o k v} (h : Keeps P s₀ s) : Keeps P s₀ (s.stage q d o k v) := by
  unfold State.stage
  exact h.frame rfl

theorem Keeps.regDo {q d r i j k v} (h : Keeps P s₀ s) : Keeps P s₀ (s.regDo q d r i j k v) := by
  unfold State.regDo
  refine .ite ?_ ?_
  · exact .ite h.slotWord h
  · exact .ite (.stage (.unrest (.ite h.wakeDie h))) (.regApply (.frame (.unrest (.ite h.wakeDie h)) rfl))

theorem Keeps.clearingRead {q d o w} (h : Keeps P s₀ s) : Keeps P s₀ (s.clearingRead q d o w) := by
  unfold State.clearingRead
  dsimp only
  split
  · exact .ite (h.frame rfl) h
  · exact .ite (h.regRead.frame rfl) (.ite (h.frame rfl) h)

theorem Answers.execRegisterClearingRead {q d off} (h : Keeps False s₀ s) : Answers s₀ (execRegisterClearingRead q d off s) := by
  unfold Machine.execRegisterClearingRead
  exact .ite .fault (.ite (.ite (.next (.ite (h.frame rfl) h)) .fault) (.next (.ite h.clearingRead h)))

theorem Answers.execRingEnable {f v} (h : Keeps False s₀ s) : Answers s₀ (execRingEnable f v s) := by
  unfold Machine.execRingEnable
  exact .ite (.next (.ite h.ringWrite h)) .fault

theorem Answers.execRingRestart {f} (h : Keeps False s₀ s) : Answers s₀ (execRingRestart f s) := by
  unfold Machine.execRingRestart
  exact .ite (.next (.ite h.ringWrite h)) .fault

theorem Keeps.flipGrist {d v q row col b} (h : Keeps P s₀ s) : Keeps P s₀ (s.flipGrist d v q row col b) := by
  unfold State.flipGrist
  exact h.poke

theorem Keeps.checkMiss {d c lane} (h : Keeps P s₀ s) : Keeps P s₀ (s.checkMiss d c lane) := by
  unfold State.checkMiss
  refine .ite ?_ ?_
  · exact h.wf.tick.set_time.report.putKcore
  · exact .raise (.set_changes (.foldl h.wf.tick.set_time.report.putKcore.putKcore (fun _ _ h => .ite h h.pmrExtend)))

theorem Keeps.checkLanes {d c zw} (h : Keeps P s₀ s) : Keeps P s₀ (s.checkLanes d c zw).1 := by
  unfold State.checkLanes
  dsimp only
  split
  · exact h
  · exact .ite h.inocClear.checkMiss h.inocClear

theorem Keeps.ketCount {d c hen set n} (h : Keeps P s₀ s) : Keeps P s₀ (s.ketCount d c hen set n) := by
  unfold State.ketCount
  exact .ite h.count h

theorem Keeps.jump {d c w} (h : Keeps P s₀ s) : Keeps P s₀ (s.jump d c w) := by
  unfold State.jump
  exact h.putCtx

theorem Keeps.take {f rd} (h : Keeps P s₀ s) : Keeps P s₀ (s.take f rd) := by
  unfold State.take
  refine .ite ?_ ?_
  · exact h
  · refine .ite ?_ ?_
    · exact h.haltRing.reply
    · refine .ite ?_ ?_
      · exact h.wf.haltRing.reply
      · dsimp only
        split
        · exact h.wf.putFn.reply
        · exact h.wf.putFn.putFn

theorem Keeps.doorbell {f v rd} (h : Keeps P s₀ s) : Keeps P s₀ (s.doorbell f v rd) := by
  unfold State.doorbell
  exact .ite h (.ite h.putFn.haltRing.reply h.putFn.take)

theorem Answers.execCmdtail {f v rd} (h : Keeps False s₀ s) : Answers s₀ (execCmdtail f v rd s) := by
  unfold Machine.execCmdtail
  exact .ite (.next h.doorbell) .fault

theorem Keeps.consumeReplies {f v} (h : Keeps P s₀ s) : Keeps P s₀ (s.consumeReplies f v) := by
  unfold State.consumeReplies
  exact .ite h h.putFn.flush

theorem Answers.execCplhead {f v} (h : Keeps False s₀ s) : Answers s₀ (execCplhead f v s) := by
  unfold Machine.execCplhead
  exact .ite (.next h.consumeReplies) .fault

theorem Keeps.hold_ {f} (h : Keeps P s₀ s) : Keeps P s₀ (s.hold_ f) := by
  unfold State.hold_
  exact h.putFn

theorem Keeps.putLong {f l} (h : Keeps P s₀ s) : Keeps P s₀ (s.putLong f l) := by
  unfold State.putLong
  exact h.putFn

theorem Keeps.copyGone {f seq} (h : Keeps P s₀ s) : Keeps P s₀ (s.copyGone f seq) := by
  unfold State.copyGone
  split
  · exact h
  · exact h.putRackq

theorem Keeps.resendIdent (h : Keeps P s₀ s) : Keeps P s₀ s.resendIdent := by
  unfold State.resendIdent
  exact .dupids (.foldl h (fun _ _ h => .ite h.pushCtl h))

theorem Keeps.copyOutside {p a n} (h : Keeps P s₀ s) : Keeps P s₀ (s.copyOutside p a n) := by
  unfold State.copyOutside
  exact .ite h.bondReport h

theorem Keeps.jobRegs {b p tag d r} (h : Keeps P s₀ s) : Keeps P s₀ (s.jobRegs b p tag d r) := by
  unfold State.jobRegs
  exact .wfs (.foldl (.foldl (.foldl h.setReg.wf.wf (fun _ _ h => h.setReg)) (fun _ _ h => .ite h.wfs h)) (fun _ _ h => by
      split
      · exact h.setReg
      · exact h))

theorem Keeps.setThlog {p v} (h : Keeps P s₀ s) : Keeps P s₀ (s.setThlog p v) := by
  unfold State.setThlog
  exact .foldl h (fun _ _ h => .ite (.foldl h (fun _ _ h => h.wf)) h)

theorem Keeps.stateWrite {tag p d b} (h : Keeps P s₀ s) : Keeps P s₀ (s.stateWrite tag p d b) := by
  unfold State.stateWrite
  exact h.wf.wf.wf.wfs

theorem Keeps.maskWrite {d o m v} (h : Keeps P s₀ s) : Keeps P s₀ (s.maskWrite d o m v) := by
  unfold State.maskWrite
  split
  · exact h
  · exact h.regDo

theorem Keeps.applyEnt {ps e} (h : Keeps P s₀ s) : Keeps P s₀ (s.applyEnt ps e) := by
  unfold State.applyEnt
  exact .foldl h (fun _ _ h => .foldl h (fun _ _ h => h.maskWrite))

theorem Keeps.applyEnts {ps es} (h : Keeps P s₀ s) : Keeps P s₀ (s.applyEnts ps es) := by
  unfold State.applyEnts
  exact .foldl h (fun _ _ h => h.applyEnt)

theorem Keeps.restoreEnts {ps es} (h : Keeps P s₀ s) : Keeps P s₀ (s.restoreEnts ps es) := by
  unfold State.restoreEnts
  exact .foldl h (fun _ _ h => .foldl h (fun _ _ h => .foldl h (fun _ _ h => .foldl h (fun _ _ h => by
      split
      · exact h
      · exact .maskWrite (.ite h.inocDisarm h)))))

theorem Keeps.setMode {p m} (h : Keeps P s₀ s) : Keeps P s₀ (s.setMode p m) := by
  unfold State.setMode
  exact h.restoreEnts.applyEnts.putPart

theorem Keeps.loadStored (h : Keeps P s₀ s) : Keeps P s₀ s.loadStored := by
  unfold State.loadStored
  exact h.frame rfl

theorem Keeps.applyStored (h : Keeps P s₀ s) : Keeps P s₀ s.applyStored := by
  unfold State.applyStored
  exact .ite h.loadStored.applyEnts h.loadStored.applyEnts.applyEnts

theorem Keeps.applyPrt {p} (h : Keeps P s₀ s) : Keeps P s₀ (s.applyPrt p) := by
  unfold State.applyPrt
  exact .putPart (.ite h.applyEnts h.applyEnts.applyEnts)

theorem Keeps.disarmCovered (h : Keeps P s₀ s) : Keeps P s₀ s.disarmCovered := by
  unfold State.disarmCovered
  exact .foldl h (fun _ _ h => .ite h.inocDisarm h)

theorem Keeps.setDiag {off} (h : Keeps P s₀ s) : Keeps P s₀ (s.setDiag off) := by
  unfold State.setDiag
  refine .ite ?_ ?_
  · exact .disarmCovered (.ite h.restoreEnts.set_diag h)
  · exact .applyEnts (.set_diag (.ite h.restoreEnts.set_diag h))

theorem Keeps.applyLoaded {b} (h : Keeps P s₀ s) : Keeps P s₀ (s.applyLoaded b) := by
  unfold State.applyLoaded
  exact .foldl (.applyEnts (.frame h rfl)) (fun _ _ h => h.applyEnts)

theorem Keeps.recipeStage {f seq n} (h : Keeps P s₀ s) : Keeps P s₀ (s.recipeStage f seq n) := by
  unfold State.recipeStage
  exact h.putFn

theorem Keeps.arrivePieces {l} (h : Keeps P s₀ s) : Keeps P s₀ (arrivePieces s l).2 := by
  induction l generalizing s with
  | nil =>
    rw [Machine.arrivePieces]
    exact h
  | cons b l ih =>
    rw [Machine.arrivePieces]
    exact ih (h.frame rfl)

theorem Keeps.scrubPart {p} (h : Keeps P s₀ s) : Keeps P s₀ (s.scrubPart p) := by
  unfold State.scrubPart
  exact .foldl (h.zeroWhere.upd rfl fun c => { c with ctxs := mrising_filter _ c.ctxs, vats := mrising_filter _ c.vats, rings := mrising_filter _ c.rings, hyd := mrising_filter _ c.hyd, ledNew := mrising_filter _ c.ledNew, specRows := mrising_filter _ c.specRows }) (fun _ _ h => .ite h.zeroCore h)

theorem Keeps.resetPartRegs {p} (h : Keeps P s₀ s) : Keeps P s₀ (s.resetPartRegs p) := by
  unfold State.resetPartRegs
  exact h.restore

theorem Keeps.dropStoppedPart {p} (h : Keeps P s₀ s) : Keeps P s₀ (s.dropStoppedPart p) := by
  unfold State.dropStoppedPart
  exact h.upd rfl fun c => { c with ports := mrising_map (fun _ => rfl) c.ports }

theorem Keeps.dropKeys {p} (h : Keeps P s₀ s) : Keeps P s₀ (s.dropKeys p) := by
  unfold State.dropKeys
  exact h.upd rfl fun c => { c with keys := mrising_filter _ c.keys }

theorem Keeps.plimReset (h : Keeps P s₀ s) : Keeps P s₀ s.plimReset := by
  unfold State.plimReset
  exact h.wf

theorem Keeps.dropWaiting (h : Keeps P s₀ s) : Keeps P s₀ s.dropWaiting := by
  unfold State.dropWaiting
  exact .foldl (.foldl h (fun _ _ h => .ite h.endCmd h)) (fun _ _ h => h.putFn)

theorem Keeps.absorb {lo f} (h : Keeps P s₀ s) : Keeps P s₀ (s.absorb lo f) := by
  unfold State.absorb
  exact .foldl h (fun _ _ h => by
      split
      · exact h
      · exact .ite h.putFn h)

theorem Keeps.islLinks {d v} (h : Keeps P s₀ s) : Keeps P s₀ (s.islLinks d v) := by
  unfold State.islLinks
  refine .ite ?_ ?_
  · exact .ite (.putVat (.ite h.putRing h.putVat)) (.ite h.putRing h.putVat)
  · exact .putVat (.putRing (.putRing (.ite (.putVat (.ite h.putRing h.putVat)) (.ite h.putRing h.putVat))))

theorem Keeps.flrRing {f} (h : Keeps P s₀ s) : Keeps P s₀ (s.flrRing f) := by
  unfold State.flrRing
  exact h.putFn.restore

theorem Keeps.bmrExtend {k dg} (h : Keeps P s₀ s) : Keeps P s₀ (s.bmrExtend k dg) := by
  unfold State.bmrExtend
  exact h.upd rfl fun c => { c with bmrs := mrising_mset _ _ c.bmrs }

theorem Keeps.dice (h : Keeps P s₀ s) : Keeps P s₀ s.dice := by
  unfold State.dice
  exact h.frame rfl

theorem Keeps.boot (h : Keeps P s₀ s) : Keeps P s₀ s.boot := by
  unfold State.boot
  exact .set_imgSvns_recipe_phase_answered (.ite (.set_commitWait (.ite (.bmrExtend (.dice (.foldl (.foldl (.foldl h.tick.wfs.bmrExtend (fun _ _ h => h.bmrExtend)) (fun _ _ h => h.bmrExtend)) (fun _ _ h => h.bmrExtend)))) (.dice (.foldl (.foldl (.foldl h.tick.wfs.bmrExtend (fun _ _ h => h.bmrExtend)) (fun _ _ h => h.bmrExtend)) (fun _ _ h => h.bmrExtend))))) (.ite (.bmrExtend (.dice (.foldl (.foldl (.foldl h.tick.wfs.bmrExtend (fun _ _ h => h.bmrExtend)) (fun _ _ h => h.bmrExtend)) (fun _ _ h => h.bmrExtend)))) (.dice (.foldl (.foldl (.foldl h.tick.wfs.bmrExtend (fun _ _ h => h.bmrExtend)) (fun _ _ h => h.bmrExtend)) (fun _ _ h => h.bmrExtend)))))

theorem Keeps.startEnd (h : Keeps P s₀ s) : Keeps P s₀ s.startEnd := by
  unfold State.startEnd
  exact .ite h (.bmrExtend (.applyStored (.ite (.moduleState (.frame h rfl)) (h.frame rfl))))

theorem Answers.execSelfTestDeadline (h : Keeps False s₀ s) : Answers s₀ (execSelfTestDeadline s) := by
  unfold Machine.execSelfTestDeadline
  exact .next h.startEnd

theorem Keeps.smbRead {code bs} (h : Keeps P s₀ s) : Keeps P s₀ (s.smbRead code bs) := by
  unfold State.smbRead
  exact .ite (h.frame rfl) h

theorem Answers.execSmbusIdentityRead (h : Keeps False s₀ s) : Answers s₀ (execSmbusIdentityRead s) := by
  unfold Machine.execSmbusIdentityRead
  exact .next h.smbRead

theorem Answers.execSmbusStateRead (h : Keeps False s₀ s) : Answers s₀ (execSmbusStateRead s) := by
  unfold Machine.execSmbusStateRead
  exact .next (.ite (h.smbRead.frame rfl) h)

theorem Answers.execSmbusPowerRead (h : Keeps False s₀ s) : Answers s₀ (execSmbusPowerRead s) := by
  unfold Machine.execSmbusPowerRead
  exact .next h.smbRead

theorem Answers.execSmbusTelemetryRead (h : Keeps False s₀ s) : Answers s₀ (execSmbusTelemetryRead s) := by
  unfold Machine.execSmbusTelemetryRead
  exact .next h.smbRead

theorem Answers.execSmbusHoldupRead (h : Keeps False s₀ s) : Answers s₀ (execSmbusHoldupRead s) := by
  unfold Machine.execSmbusHoldupRead
  exact .next h.smbRead

theorem Keeps.flashOut (h : Keeps P s₀ s) : Keeps P s₀ s.flashOut := by
  unfold State.flashOut
  exact h.frame rfl

theorem Answers.execFlashExt {low} (h : Keeps False s₀ s) : Answers s₀ (execFlashExt low s) := by
  unfold Machine.execFlashExt
  exact .next (.ite h (.ite h.flashOut (.ite (.boot (.frame h rfl)) (h.frame rfl))))

theorem Keeps.tapSet {d code v} (h : Keeps P s₀ s) : Keeps P s₀ (s.tapSet d code v) := by
  unfold State.tapSet
  exact .ite (h.upd rfl fun c => { c with taps := mrising_mset _ _ c.taps }) h

theorem Answers.tapRow {d code v} (h : Keeps False s₀ s) : Answers s₀ (tapRow d s code v) := by
  unfold Machine.tapRow
  exact .ite (.next h.tapSet) .fault

theorem Answers.execExtest {d} (h : Keeps False s₀ s) : Answers s₀ (execExtest d s) := by
  unfold Machine.execExtest
  exact .tapRow h

theorem Answers.execSamplePreload {d v} (h : Keeps False s₀ s) : Answers s₀ (execSamplePreload d v s) := by
  unfold Machine.execSamplePreload
  exact .tapRow h

theorem Answers.execIdcode {d} (h : Keeps False s₀ s) : Answers s₀ (execIdcode d s) := by
  unfold Machine.execIdcode
  exact .tapRow h

theorem Answers.execClamp {d} (h : Keeps False s₀ s) : Answers s₀ (execClamp d s) := by
  unfold Machine.execClamp
  exact .tapRow h

theorem Answers.execHighz {d} (h : Keeps False s₀ s) : Answers s₀ (execHighz d s) := by
  unfold Machine.execHighz
  exact .tapRow h

theorem Answers.execExtestPulse {d} (h : Keeps False s₀ s) : Answers s₀ (execExtestPulse d s) := by
  unfold Machine.execExtestPulse
  exact .tapRow h

theorem Answers.execExtestTrain {d} (h : Keeps False s₀ s) : Answers s₀ (execExtestTrain d s) := by
  unfold Machine.execExtestTrain
  exact .tapRow h

theorem Answers.execBypass {d} (h : Keeps False s₀ s) : Answers s₀ (execBypass d s) := by
  unfold Machine.execBypass
  exact .tapRow h

theorem Keeps.deferEvent {c} (h : Keeps P s₀ s) : Keeps P s₀ (s.deferEvent c) := by
  unfold State.deferEvent
  exact h.raise

theorem Keeps.keepDeferred {c} (h : Keeps P s₀ s) : Keeps P s₀ (s.keepDeferred c) := by
  unfold State.keepDeferred
  exact .ite (.wf (.frame h rfl)) (h.frame rfl)

theorem Keeps.deferCommit {c} (h : Keeps P s₀ s) : Keeps P s₀ (s.deferCommit c) := by
  unfold State.deferCommit
  exact .deferEvent (.ite h.recipeStage h.keepDeferred)

theorem Keeps.eraseFor {c} (h : Keeps P s₀ s) : Keeps P s₀ (s.eraseFor c) := by
  unfold State.eraseFor
  exact .ite (h.frame rfl) h

theorem Keeps.commitRuns {c} (h : Keeps P s₀ s) : Keeps P s₀ (s.commitRuns c) := by
  unfold State.commitRuns
  exact h.frame rfl

theorem Keeps.commitBegin (h : Keeps P s₀ s) : Keeps P s₀ s.commitBegin := by
  unfold State.commitBegin
  split
  · exact h
  · exact .ite h (.ite h.set_commitWait.eraseFor.commitRuns h.set_commitWait.deferCommit)

theorem Answers.execCommitStart (h : Keeps False s₀ s) : Answers s₀ (execCommitStart s) := by
  unfold Machine.execCommitStart
  exact .next h.commitBegin

theorem Keeps.retryAll {l} (h : Keeps P s₀ s) : Keeps P s₀ (retryAll s l) := by
  induction l generalizing s with
  | nil =>
    rw [Machine.retryAll]
    exact h
  | cons b l ih =>
    rw [Machine.retryAll]
    exact .ite (ih h.eraseFor.commitRuns) (ih (.deferEvent (.frame h rfl)))

theorem Keeps.commitAgain (h : Keeps P s₀ s) : Keeps P s₀ s.commitAgain := by
  unfold State.commitAgain
  exact .ite (.retryAll (.frame h rfl)) h

theorem Answers.execCommitRetry (h : Keeps False s₀ s) : Answers s₀ (execCommitRetry s) := by
  unfold Machine.execCommitRetry
  exact .next h.commitAgain

theorem Keeps.commitDone (h : Keeps P s₀ s) : Keeps P s₀ s.commitDone := by
  unfold State.commitDone
  split
  · exact h
  · refine .ite ?_ ?_
    · exact h.set_commitRun.set_flashLog
    · exact .ite h.set_commitRun.set_recipes_recipe.recipeStage h.set_commitRun.set_fuseSvn

theorem Answers.execCommitEnd (h : Keeps False s₀ s) : Answers s₀ (execCommitEnd s) := by
  unfold Machine.execCommitEnd
  exact .next h.commitDone

theorem Keeps.sampleDie {tel d} (h : Keeps P s₀ s) : Keeps P s₀ (s.sampleDie tel d) := by
  unfold State.sampleDie
  exact h.wfs

theorem Answers.execTelemetrySample {vin iin pin energy tel} (h : Keeps False s₀ s) : Answers s₀ (execTelemetrySample vin iin pin energy tel s) := by
  unfold Machine.execTelemetrySample
  exact .next (.ite h (.foldl h.wfs.wf (fun _ _ h => h.sampleDie)))

theorem Keeps.evalCause {c} (h : Keeps P s₀ s) : Keeps P s₀ (s.evalCause c) := by
  unfold State.evalCause
  refine .ite ?_ ?_
  · exact h.upd rfl fun c => { c with levels := mrising_mset _ _ c.levels, calm := mrising_mset _ _ c.calm }
  · refine .ite ?_ ?_
    · exact h.upd rfl fun c => { c with calm := mrising_mset _ _ c.calm }
    · refine .ite ?_ ?_
      · exact h.upd rfl fun c => { c with calm := mrising_mset _ _ c.calm }
      · exact h.upd rfl fun c => { c with levels := mrising_mset _ _ c.levels, calm := mrising_mset _ _ c.calm }

theorem Answers.execThrottleEvaluation (h : Keeps False s₀ s) : Answers s₀ (execThrottleEvaluation s) := by
  unfold Machine.execThrottleEvaluation
  exact .next (.ite (.levelSet (.foldl h (fun _ _ h => h.evalCause))) h)

theorem Answers.execInputCurrentThrottle {ma us} (h : Keeps False s₀ s) : Answers s₀ (execInputCurrentThrottle ma us s) := by
  unfold Machine.execInputCurrentThrottle
  exact .next (.ite h (.levelSet (h.upd rfl fun c => { c with levels := mrising_mset _ _ c.levels, calm := mrising_mset _ _ c.calm })))

theorem Answers.execThrottleApply {d} (h : Keeps False s₀ s) : Answers s₀ (execThrottleApply d s) := by
  unfold Machine.execThrottleApply
  refine .ite ?_ ?_
  · exact .next (.ite (.levelPend (h.upd rfl fun c => { c with dieLevel := mrising_mset _ _ c.dieLevel })) h)
  · exact .fault

theorem Answers.execPgoodFall (h : Keeps False s₀ s) : Answers s₀ (execPgoodFall s) := by
  unfold Machine.execPgoodFall
  exact .next (.ite h (.wf (.frame h rfl)))

theorem Answers.execPgoodRise (h : Keeps False s₀ s) : Answers s₀ (execPgoodRise s) := by
  unfold Machine.execPgoodRise
  exact .next (.ite h h.wf)

theorem Keeps.restEnter {d i} (h : Keeps P s₀ s) : Keeps P s₀ (s.restEnter d i) := by
  unfold State.restEnter
  exact .ite h h.wf

theorem Answers.execIslandRestEnter {d i} (h : Keeps False s₀ s) : Answers s₀ (execIslandRestEnter d i s) := by
  unfold Machine.execIslandRestEnter
  exact .ite (.next h.restEnter) .fault

theorem Answers.execIslandWake {d i} (h : Keeps False s₀ s) : Answers s₀ (execIslandWake d i s) := by
  unfold Machine.execIslandWake
  exact .ite (.next h.unrest) .fault

theorem Keeps.sleepDie {d} (h : Keeps P s₀ s) : Keeps P s₀ (s.sleepDie d) := by
  unfold State.sleepDie
  exact .ite h h.wf

theorem Answers.execDieDormantEnter {d} (h : Keeps False s₀ s) : Answers s₀ (execDieDormantEnter d s) := by
  unfold Machine.execDieDormantEnter
  exact .ite (.next (.ite h.sleepDie h)) .fault

theorem Answers.execDieWake {d} (h : Keeps False s₀ s) : Answers s₀ (execDieWake d s) := by
  unfold Machine.execDieWake
  exact .ite (.next (.ite h.wakeDie h)) .fault

theorem Keeps.deepRest {d} (h : Keeps P s₀ s) : Keeps P s₀ (s.deepRest d) := by
  unfold State.deepRest
  exact h.wf

theorem Answers.execPcieAtomicRequest {f} (h : Keeps False s₀ s) : Answers s₀ (execPcieAtomicRequest f s) := by
  unfold Machine.execPcieAtomicRequest
  exact .ite (.next (.ite (h.frame rfl) h)) .fault

theorem Keeps.onSession {id g} (h : Keeps P s₀ s) : Keeps P s₀ (s.onSession id g) := by
  unfold State.onSession
  exact h.frame rfl

theorem Keeps.sealFor {f sess bs} (h : Keeps P s₀ s) : Keeps P s₀ (s.sealFor f sess bs) := by
  unfold State.sealFor
  split
  · exact h.putFn
  · exact h.putFn.onSession

theorem Keeps.mail {f sess msg} (h : Keeps P s₀ s) : Keeps P s₀ (s.mail f sess msg) := by
  unfold State.mail
  exact h.sealFor.frame rfl

theorem Keeps.mailEnd {f status} (h : Keeps P s₀ s) : Keeps P s₀ (s.mailEnd f status) := by
  unfold State.mailEnd
  exact h.putFn.mail

theorem Keeps.protEnd {f doe status} (h : Keeps P s₀ s) : Keeps P s₀ (s.protEnd f doe status) := by
  unfold State.protEnd
  exact .ite h (.ite h.mailEnd h.endCmd)

theorem Keeps.protWait {f doe p c} (h : Keeps P s₀ s) : Keeps P s₀ (s.protWait f doe p c) := by
  unfold State.protWait
  exact .ite (.putFn (.set_changes (.ite h h.pmrExtend))) (.hold_ (.set_changes (.ite h h.pmrExtend)))

theorem Keeps.grantCmd {f doe rev p} (h : Keeps P s₀ s) : Keeps P s₀ (s.grantCmd f doe rev p) := by
  unfold State.grantCmd
  dsimp only
  split
  · exact h.protEnd
  · exact .ite h.protEnd h.protWait

theorem Keeps.keyCmd {f doe p} (h : Keeps P s₀ s) : Keeps P s₀ (s.keyCmd f doe p) := by
  unfold State.keyCmd
  split
  · exact h.protEnd
  · exact h.protWait

theorem Keeps.inocCmd {f doe p} (h : Keeps P s₀ s) : Keeps P s₀ (s.inocCmd f doe p) := by
  unfold State.inocCmd
  exact .ite h.protEnd (.protEnd (.ite (.pmrExtend (.ite h.wf h.wf.disarmCovered)) (.ite h.wf h.wf.disarmCovered)))

theorem Keeps.fenceStart (h : Keeps P s₀ s) : Keeps P s₀ s.fenceStart := by
  unfold State.fenceStart
  exact .ite h (.wfs (.frame h rfl))

theorem Answers.execProtectionFence (h : Keeps False s₀ s) : Answers s₀ (execProtectionFence s) := by
  unfold Machine.execProtectionFence
  exact .next h.fenceStart

theorem Keeps.tableSwitch {d} (h : Keeps P s₀ s) : Keeps P s₀ (s.tableSwitch d) := by
  unfold State.tableSwitch
  exact .ite h (.wf (.frame h rfl))

theorem Answers.execDieTableSwitch {d} (h : Keeps False s₀ s) : Answers s₀ (execDieTableSwitch d s) := by
  unfold Machine.execDieTableSwitch
  exact .ite (.next h.tableSwitch) .fault

theorem Keeps.zeroRange {r lo n} (h : Keeps P s₀ s) : Keeps P s₀ (s.zeroRange r lo n) := by
  unfold State.zeroRange
  exact h.zeroWhere

theorem Keeps.zeroFiles {d k} (h : Keeps P s₀ s) : Keeps P s₀ (s.zeroFiles d k) := by
  unfold State.zeroFiles
  exact h.putKcore

theorem Keeps.zeroVats {d} (h : Keeps P s₀ s) : Keeps P s₀ (s.zeroVats d) := by
  unfold State.zeroVats
  exact .foldl h (fun _ _ h => h.zeroWhere.putVat)

theorem Keeps.clearGroup {code} (h : Keeps P s₀ s) : Keeps P s₀ (s.clearGroup code) := by
  unfold State.clearGroup
  exact h.wfs.dropStopped

theorem Keeps.enterGrant {g} (h : Keeps P s₀ s) : Keeps P s₀ (s.enterGrant g) := by
  unfold State.enterGrant
  dsimp only
  split
  · exact .foldl h (fun _ _ h => h.zeroRange)
  · exact h.zeroRange
  · exact .foldl h (fun _ _ h => h.wf)
  · exact h.wf
  · exact h.upd rfl fun c => { c with keys := mrising_filter _ c.keys }
  · exact h

theorem Keeps.writeGroup {c} (h : Keeps P s₀ s) : Keeps P s₀ (s.writeGroup c) := by
  unfold State.writeGroup
  exact .foldl h.wfs (fun _ _ h => h.putPort.sendStopped)

theorem Keeps.lockedError {p} (h : Keeps P s₀ s) : Keeps P s₀ (s.lockedError p) := by
  unfold State.lockedError
  exact .ite h.wfs h

theorem Answers.execFenceAccessTimeout {ms} (h : Keeps False s₀ s) : Answers s₀ (execFenceAccessTimeout ms s) := by
  unfold Machine.execFenceAccessTimeout
  exact .next (.ite h (.frame (.foldl h (fun _ _ h => h.report)) rfl))

theorem Keeps.vendorReq {f sess p} (h : Keeps P s₀ s) : Keeps P s₀ (s.vendorReq f sess p) := by
  unfold State.vendorReq
  refine .ite ?_ ?_
  · exact h
  · dsimp only
    split
    · exact h.putFn.mailEnd
    · exact .ite h.putFn.grantCmd (.ite h.putFn.grantCmd (.ite h.putFn.keyCmd h.putFn.inocCmd))

theorem Keeps.withFetchWord {nbits w} (h : Keeps P s₀ s) : Keeps P s₀ (s.withFetchWord nbits w) := by
  unfold State.withFetchWord
  exact h

end

/-! ### Records, rests and ledgers -/

section
variable {P : Prop} {s₀ s : State}

theorem Keeps.logErr {e} (h : Keeps P s₀ s) : Keeps P s₀ (s.logErr e) := by
  unfold State.logErr
  extract_lets e now src s1 r s2 s3
  have h1 : Keeps P s₀ s1 := h.tick.set_time
  have h2 : Keeps P s₀ s2 := h1.set_errLog_errIndex
  have h3 : Keeps P s₀ s3 := .ite h2.set_commitWait h2
  split
  · exact h1.set_errLog
  · exact .ite (.ite h3.raise.raise h3.raise) h3

@[simp] theorem State.unrest_ledNew {d i : Nat} : (s.unrest d i).ledNew = s.ledNew := by
  unfold State.unrest
  dsimp only
  split <;> rfl

@[simp] theorem State.unrest_accq {d i : Nat} : (s.unrest d i).accq = s.accq := by
  unfold State.unrest
  dsimp only
  split <;> rfl

theorem Keeps.ledTouched {runs} (h : Keeps P s₀ s) : Keeps P s₀ (s.ledTouched runs) := by
  unfold State.ledTouched
  refine .foldl h fun t x h => ?_
  split
  · refine .ite h (.foldl h fun t x h => ?_)
    exact .ite (h.unrest.upd rfl fun c => { c with ledNew := mrising_mset _ _ (State.unrest_ledNew ▸ c.ledNew) }) h
  · exact h

theorem Keeps.putAcc {d k l} (h : Keeps P s₀ s) : Keeps P s₀ (s.putAcc d k l) := by
  unfold State.putAcc
  exact h.unrest.upd rfl fun c => { c with accq := mrising_mset _ _ (State.unrest_accq ▸ c.accq) }

end

/-! ### Beats, gates and register writes -/

section
variable {P : Prop} {s₀ s : State}

theorem Keeps.corrected {r o ino} (h : Keeps P s₀ s) : Keeps P s₀ (s.corrected r o ino) := by
  unfold State.corrected
  split
  · exact h
  · refine .ite ?_ ?_
    · exact .logErr (h.wf.upd rfl fun c => { c with ceSeen := mrising_mset _ _ c.ceSeen })
    · refine .ite ?_ ?_
      · exact .logErr (h.wf.upd rfl fun c => { c with ceSeen := mrising_mset _ _ c.ceSeen })
      · exact h.wf.upd rfl fun c => { c with ceSeen := mrising_mset _ _ c.ceSeen }

theorem Keeps.uncorrectable {r o ino n} (h : Keeps P s₀ s) : Keeps P s₀ (s.uncorrectable r o ino n) := by
  unfold State.uncorrectable
  exact h.setMark.logErr

theorem Keeps.decodeMark {r o m ino n} (h : Keeps P s₀ s) : Keeps P s₀ (s.decodeMark r o m ino n) := by
  unfold State.decodeMark
  split
  · exact h
  · exact h
  · exact h.setMark.corrected
  · exact h.uncorrectable
  · refine .ite ?_ ?_
    · exact h.tick.uncorrectable
    · exact .ite h.tick.aliased.setMark (.ite h.tick.aliased.setMark.corrected h.tick.setMark)

theorem Keeps.decodeCw {r o} (h : Keeps P s₀ s) : Keeps P s₀ (s.decodeCw r o) := by
  unfold State.decodeCw
  exact .ite h.inocClear.decodeMark h.decodeMark

theorem Keeps.decodeSacks {r n n1} (h : Keeps P s₀ s) : Keeps P s₀ (s.decodeSacks r n n1) := by
  induction n1 generalizing s r n with
  | zero =>
    rw [State.decodeSacks]
    exact h
  | succ n1 ih =>
    rw [State.decodeSacks]
    exact ih h.decodeCw.decodeCw

theorem Keeps.readCheck {r o n} (h : Keeps P s₀ s) : Keeps P s₀ (s.readCheck r o n) := by
  unfold State.readCheck
  exact h.decodeSacks

theorem Keeps.writeCw {r o bs} (h : Keeps P s₀ s) : Keeps P s₀ (s.writeCw r o bs) := by
  unfold State.writeCw
  exact .ite h.poke.setMark (.ite h.decodeCw.logErr (.ite h.decodeCw h.decodeCw.poke))

theorem Keeps.readRuns {l} (h : Keeps P s₀ s) : Keeps P s₀ (s.readRuns l).2.2 := by
  induction l generalizing s with
  | nil =>
    rw [State.readRuns]
    exact h
  | cons b l ih =>
    rw [State.readRuns]
    exact ih h.touch.readCheck

theorem Keeps.steepRead {d v w o n} (h : Keeps P s₀ s) : Keeps P s₀ (s.steepRead d v w o n).2.2 := by
  unfold State.steepRead
  exact h.readRuns

theorem Keeps.wortDecode {d v w r} (h : Keeps P s₀ s) : Keeps P s₀ (s.wortDecode d v w r) := by
  unfold State.wortDecode
  exact h.readCheck

theorem Keeps.injLanes {d w n st} (h : Keeps P s₀ s) : Keeps P s₀ (s.injLanes d w n st).2.2 := by
  unfold State.injLanes
  exact .ite h.readCheck.readCheck h.readCheck

theorem Keeps.inject {d} (h : Keeps P s₀ s) : Keeps P s₀ (s.inject d) := by
  unfold State.inject
  dsimp only
  split
  · exact h.injStart
  · refine .ite ?_ ?_
    · exact h.injStart
    · exact .ite (h.injStart.injLanes.unrest.putVat.putRing.frame rfl) h.injStart.injLanes.unrest.putVat.putRing

theorem Answers.execInjectBeat {d} (h : Keeps False s₀ s) : Answers s₀ (execInjectBeat d s) := by
  unfold Machine.execInjectBeat
  exact .ite (.next h.inject) .fault

theorem Keeps.draughtLanes {d w n n1} (h : Keeps P s₀ s) : Keeps P s₀ (s.draughtLanes d w n n1).1 := by
  induction n1 generalizing s d w n with
  | zero =>
    rw [State.draughtLanes]
    exact h
  | succ n1 ih =>
    rw [State.draughtLanes]
    exact .readCheck (ih h)

theorem Keeps.enterDraught {d v p} (h : Keeps P s₀ s) : Keeps P s₀ (s.enterDraught d v p) := by
  unfold State.enterDraught
  exact h.draughtLanes.putVat

theorem Keeps.beatEnter {d v} (h : Keeps P s₀ s) : Keeps P s₀ (s.beatEnter d v) := by
  unfold State.beatEnter
  dsimp only
  split
  · exact h
  · refine .ite ?_ ?_
    · exact h
    · refine .ite ?_ ?_
      · exact .ite h.enterDraught h
      · split
        · exact h
        · exact .ite h.enterBeat h

theorem Answers.execBeatEnterVat {d v} (h : Keeps False s₀ s) : Answers s₀ (execBeatEnterVat d v s) := by
  unfold Machine.execBeatEnterVat
  exact .ite (.next h.beatEnter) .fault

theorem Keeps.bridgeLand {d} (h : Keeps P s₀ s) : Keeps P s₀ (s.bridgeLand d) := by
  unfold State.bridgeLand
  dsimp only
  split
  · exact h
  · exact .pumpLanding (.ite h.putRing.putRing.logErr h.putRing.putRing)

theorem Answers.execBridgeBeatLand {d} (h : Keeps False s₀ s) : Answers s₀ (execBridgeBeatLand d s) := by
  unfold Machine.execBridgeBeatLand
  exact .ite (.next h.bridgeLand) .fault

theorem Keeps.loadDesc {d p i} (h : Keeps P s₀ s) : Keeps P s₀ (s.loadDesc d p i).2.2 := by
  unfold State.loadDesc
  exact h.readCheck

theorem Keeps.loadDescs {n n1 l} (h : Keeps P s₀ s) : Keeps P s₀ (s.loadDescs n n1 l).2.2 := by
  induction l generalizing s n n1 with
  | nil =>
    rw [State.loadDescs]
    exact h
  | cons b l ih =>
    rw [State.loadDescs]
    exact ih h.loadDesc

theorem Keeps.readZ {l} (h : Keeps P s₀ s) : Keeps P s₀ (s.readZ l).2.2 := by
  induction l generalizing s with
  | nil =>
    rw [State.readZ]
    exact h
  | cons b l ih =>
    rw [State.readZ]
    exact ih h.touch.readCheck

theorem Keeps.writeHost {a bs zs} (h : Keeps P s₀ s) : Keeps P s₀ (s.writeHost a bs zs) := by
  unfold State.writeHost
  exact .foldl h.poke (fun _ _ h => .ite h.poke.logErr h)

theorem Keeps.writeToHost {d qu q x bs zs} (h : Keeps P s₀ s) : Keeps P s₀ (s.writeToHost d qu q x bs zs) := by
  unfold State.writeToHost
  dsimp only
  split
  · exact h.writeHost
  · exact .setLog (.foldl h (fun _ _ h => h.writeHost))

theorem Keeps.readRowed {rows r o n} (h : Keeps P s₀ s) : Keeps P s₀ (s.readRowed rows r o n).2.2.2 := by
  unfold State.readRowed
  dsimp only
  split
  · exact h.readZ
  · exact h.readZ

theorem Keeps.readAll {l l1} (h : Keeps P s₀ s) : Keeps P s₀ (s.readAll l l1).2.2.2 := by
  induction l1 generalizing s l with
  | nil =>
    rw [State.readAll]
    exact h
  | cons b l1 ih =>
    rw [State.readAll]
    exact ih h.readRowed

theorem Keeps.gather {d l l1} (h : Keeps P s₀ s) : Keeps P s₀ (State.gather d s l l1).2.2.2 := by
  induction l1 generalizing d s l with
  | nil =>
    rw [State.gather]
    exact h
  | cons b l1 ih =>
    rw [State.gather]
    exact ih (by
        split
        · exact h
        · exact h.readAll)

theorem Keeps.takeReq {d qu q} (h : Keeps P s₀ s) : Keeps P s₀ (s.takeReq d qu q).2.2 := by
  unfold State.takeReq
  split
  · exact h.gather
  · exact .ite h.gather h.gather.putRackq

theorem Keeps.ledPoison {d l n} (h : Keeps P s₀ s) : Keeps P s₀ (s.ledPoison d l n).2 := by
  unfold State.ledPoison
  dsimp only
  split
  · exact h.readCheck
  · exact .foldl h.readCheck (fun _ _ h => h.readCheck)

theorem Keeps.mismatch {d p sl x k check named cnt cls ino} (h : Keeps P s₀ s) : Keeps P s₀ (s.mismatch d p sl x k check named cnt cls ino) := by
  unfold State.mismatch
  exact .ite (.report (.tunFault (.logErr (.ite h.wf h.wf.wfs)))) (.logErr (.ite h.wf h.wf.wfs))

theorem Keeps.readSum {d p sl k} (h : Keeps P s₀ s) : Keeps P s₀ (s.readSum d p sl k) := by
  unfold State.readSum
  exact .ite h (.ite h.readCheck.putTslot h.readCheck)

theorem Keeps.takeAll {d qu l} (h : Keeps P s₀ s) : Keeps P s₀ (takeAll d qu s l).2.2 := by
  induction l generalizing d qu s with
  | nil =>
    rw [Machine.takeAll]
    exact h
  | cons b l ih =>
    rw [Machine.takeAll]
    exact ih h.takeReq

theorem Keeps.gateOpen {d qu} (h : Keeps P s₀ s) : Keeps P s₀ (s.gateOpen d qu) := by
  unfold State.gateOpen
  dsimp only
  split
  · exact h
  · exact .ite h.readCheck.putRackq.consumed (.ite h.readCheck.putRackq h.readCheck)

theorem Answers.execStreamGateOpen {d qu} (h : Keeps False s₀ s) : Answers s₀ (execStreamGateOpen d qu s) := by
  unfold Machine.execStreamGateOpen
  exact .ite (.next h.gateOpen) .fault

theorem Keeps.authFail {d i ch n} (h : Keeps P s₀ s) : Keeps P s₀ (s.authFail d i ch n) := by
  unfold State.authFail
  exact h.discard.bondReport.logErr.endJobs

theorem Keeps.hbLoss {d i us} (h : Keeps P s₀ s) : Keeps P s₀ (s.hbLoss d i us) := by
  unfold State.hbLoss
  exact .ite h h.putPort.logErr.endJobs

theorem Answers.execHbLoss {d i us} (h : Keeps False s₀ s) : Answers s₀ (execHbLoss d i us s) := by
  unfold Machine.execHbLoss
  exact .ite (.next h.hbLoss) .fault

theorem Keeps.pnotRx {d i ch m} (h : Keeps P s₀ s) : Keeps P s₀ (s.pnotRx d i ch m) := by
  unfold State.pnotRx
  exact h.consume.logErr

theorem Keeps.reportRec {r sec} (h : Keeps P s₀ s) : Keeps P s₀ (s.reportRec r sec).2 := by
  unfold State.reportRec
  split
  · exact h
  · exact h.logErr

theorem Keeps.regWrite {q d o0 w v} (h : Keeps P s₀ s) : Keeps P s₀ (s.regWrite q d o0 w v) := by
  unfold State.regWrite
  dsimp only
  split
  · exact .ite (h.frame rfl) h
  · refine .ite ?_ ?_
    · exact .ite (h.frame rfl) h
    · refine .ite ?_ ?_
      · split
        · exact .ite h.logErr h
        · exact h
        · exact .ite (h.frame rfl) h
      · exact h.regDo

theorem Answers.regWriteRow {q d o w v} (h : Keeps False s₀ s) : Answers s₀ (regWriteRow q d o w v s) := by
  unfold Machine.regWriteRow
  exact .ite .fault (.ite (.ite (.next h) .fault) (.next (.ite h.regWrite h)))

theorem Answers.execRegisterWrite {q d off width v} (h : Keeps False s₀ s) : Answers s₀ (execRegisterWrite q d off width v s) := by
  unfold Machine.execRegisterWrite
  exact .regWriteRow h

theorem Answers.execHydSnap {q d p set} (h : Keeps False s₀ s) : Answers s₀ (execHydSnap q d p set s) := by
  unfold Machine.execHydSnap
  exact .ite (.regWriteRow h) .fault

theorem Answers.execKscApplied {q d p} (h : Keeps False s₀ s) : Answers s₀ (execKscApplied q d p s) := by
  unfold Machine.execKscApplied
  exact .ite (.regWriteRow h) .fault

theorem Answers.execKscSkipped {q d p} (h : Keeps False s₀ s) : Answers s₀ (execKscSkipped q d p s) := by
  unfold Machine.execKscSkipped
  exact .ite (.regWriteRow h) .fault

theorem Answers.execInocArm {q d} (h : Keeps False s₀ s) : Answers s₀ (execInocArm q d s) := by
  unfold Machine.execInocArm
  exact .regWriteRow h

theorem Answers.execInocDisarm {q d} (h : Keeps False s₀ s) : Answers s₀ (execInocDisarm q d s) := by
  unfold Machine.execInocDisarm
  exact .regWriteRow h

theorem Answers.execPatrolScrub {d cw} (h : Keeps False s₀ s) : Answers s₀ (execPatrolScrub d cw s) := by
  unfold Machine.execPatrolScrub
  refine .ite ?_ ?_
  · exact .fault
  · split
    · exact .fault
    · exact .next h.decodeCw

theorem Keeps.kLd {d p} (h : Keeps P s₀ s) : Keeps P s₀ (s.kLd d p).2 := by
  unfold State.kLd
  dsimp only
  split
  · exact h
  · exact .ite h.readZ.count h.readZ

theorem Keeps.kLdc {d k p} (h : Keeps P s₀ s) : Keeps P s₀ (s.kLdc d k p).2 := by
  unfold State.kLdc
  dsimp only
  split
  · split
    · exact h
    · exact h.regRead
  · exact h.readZ

theorem Keeps.kScores {d a e} (h : Keeps P s₀ s) : Keeps P s₀ (s.kScores d a e).2.2 := by
  unfold State.kScores
  exact h.readZ

theorem Keeps.kTokens {d x w n n1} (h : Keeps P s₀ s) : Keeps P s₀ (s.kTokens d x w n n1).2.2 := by
  induction n generalizing s d x w n1 with
  | zero =>
    rw [State.kTokens]
    exact h
  | succ n ih =>
    unfold State.kTokens
    dsimp only
    split
    · exact h.kScores
    · exact ih h.kScores

theorem Keeps.kTop {d k p} (h : Keeps P s₀ s) : Keeps P s₀ (s.kTop d k p).2 := by
  unfold State.kTop
  dsimp only
  split
  · exact h.kTokens
  · exact .ite h.kTokens.count h.kTokens

theorem Keeps.writeSw {f l} (h : Keeps P s₀ s) : Keeps P s₀ (s.writeSw f l) := by
  unfold State.writeSw
  exact .ite h.poke h.logErr

theorem Keeps.acceptLong {f p sw total} (h : Keeps P s₀ s) : Keeps P s₀ (s.acceptLong f p sw total) := by
  unfold State.acceptLong
  exact h.putFn.writeSw

theorem Keeps.runLong {f p sw total valid} (h : Keeps P s₀ s) : Keeps P s₀ (s.runLong f p sw total valid) := by
  unfold State.runLong
  exact h.acceptLong.putFn.writeSw

theorem Keeps.endLong {f l} (h : Keeps P s₀ s) : Keeps P s₀ (s.endLong f l) := by
  unfold State.endLong
  exact .ite h.writeSw.putFn h.writeSw.putFn.reply

theorem Keeps.emptyLong {f p sw} (h : Keeps P s₀ s) : Keeps P s₀ (s.emptyLong f p sw) := by
  unfold State.emptyLong
  exact h.acceptLong.endLong

theorem Keeps.updateLongs {f l} (h : Keeps P s₀ s) : Keeps P s₀ (updateLongs f s l) := by
  induction l generalizing f s with
  | nil =>
    rw [Machine.updateLongs]
    exact h
  | cons b l ih =>
    rw [Machine.updateLongs]
    exact .ite (ih h) (ih h.putLong.writeSw)

theorem Answers.execStatusWordUpdate {f} (h : Keeps False s₀ s) : Answers s₀ (execStatusWordUpdate f s) := by
  unfold Machine.execStatusWordUpdate
  exact .ite (.next (.ite h.updateLongs h)) .fault

theorem Keeps.longOut {f l buf bs valid} (h : Keeps P s₀ s) : Keeps P s₀ (s.longOut f l buf bs valid) := by
  unfold State.longOut
  exact .ite h.poke.endLong h.endLong

theorem Keeps.logReadEnd {f l} (h : Keeps P s₀ s) : Keeps P s₀ (s.logReadEnd f l) := by
  unfold State.logReadEnd
  exact h.longOut

theorem Keeps.stateSaveEnd {f l} (h : Keeps P s₀ s) : Keeps P s₀ (s.stateSaveEnd f l) := by
  unfold State.stateSaveEnd
  exact .ite h.endLong h.longOut

theorem Keeps.stateLoadEnd {f l} (h : Keeps P s₀ s) : Keeps P s₀ (s.stateLoadEnd f l) := by
  unfold State.stateLoadEnd
  exact .ite h.endLong (.ite h.endLong (.ite h.endLong (.endLong (.foldl h (fun _ _ h => h.stateWrite)))))

theorem Keeps.recipeEnd {f l} (h : Keeps P s₀ s) : Keeps P s₀ (s.recipeEnd f l) := by
  unfold State.recipeEnd
  dsimp only
  split
  · refine .ite ?_ ?_
    · exact h
    · refine .ite ?_ ?_
      · exact h.endLong
      · exact .ite (.set_commitWait (.putLong (.ite h.applyLoaded h))) (.endLong (.ite h.applyLoaded h))
  · exact h
  · exact h.endLong
  · exact h.endLong

theorem Keeps.lateReplies {f} (h : Keeps P s₀ s) : Keeps P s₀ (s.lateReplies f) := by
  unfold State.lateReplies
  exact .flush (.putFn (.foldl h.putFn (fun _ _ h => h.endLong)))

theorem Keeps.wakeAll (h : Keeps P s₀ s) : Keeps P s₀ s.wakeAll := by
  unfold State.wakeAll
  refine .ite ?_ ?_
  · exact h
  · exact .foldl (.foldl (.foldl h.wf (fun _ _ h => h.unrest.unrest)) (fun _ _ h => .ite h h.wakeDie)) (fun _ _ h => h.lateReplies)

theorem Answers.execModuleWake (h : Keeps False s₀ s) : Answers s₀ (execModuleWake s) := by
  unfold Machine.execModuleWake
  exact .next h.wakeAll

theorem Keeps.protReadEnd {f l} (h : Keeps P s₀ s) : Keeps P s₀ (s.protReadEnd f l) := by
  unfold State.protReadEnd
  exact h.tick.longOut

end

/-! ### Messages, codewords and resets of the units -/

section
variable {P : Prop} {s₀ s : State}

theorem Keeps.writeCws {r n o l} (h : Keeps P s₀ s) : Keeps P s₀ (writeCws r n s o l) := by
  induction n generalizing s o l with
  | zero => exact h
  | succ n ih =>
    cases l with
    | nil => exact h
    | cons b bs => exact ih h.writeCw

theorem Keeps.stageRow {d v w r} (h : Keeps P s₀ s) : Keeps P s₀ (s.stageRow d v w r).2 := by
  unfold State.stageRow
  split
  · exact h
  · extract_lets s1
    have h1 : Keeps P s₀ s1 := .ite h.readCheck h
    split
    · exact h1
    · exact h1.steepRead

theorem Keeps.turnIn {d qu id} (h : Keeps P s₀ s) : Keeps P s₀ (s.turnIn d qu id) := by
  unfold State.turnIn
  dsimp only
  split
  · exact h
  · split
    · exact h
    · refine .ite h (.putRackq ?_)
      exact .upd (.foldlPart (fun b : State × TurnBuf => b.1) h fun _ _ h => h.takeReq) rfl
        fun c => { c with turnTile := mrising_mset _ _ c.turnTile }

theorem Keeps.sendMsg {d ch part m u} (h : Keeps P s₀ s) (hu : s.sendMsg d ch part m = .ok u) : Keeps P s₀ u.2 := by
  unfold State.sendMsg at hu
  split at hu
  · cases hu
  · split at hu
    · cases hu
    · cases hu
      exact h.enqueueMsg

theorem Keeps.rackSend {d qu tag part typ dm ddie body data pm u} (h : Keeps P s₀ s)
    (hu : s.rackSend d qu tag part typ dm ddie body data pm = .ok u) : Keeps P s₀ u.2.2 := by
  unfold State.rackSend at hu
  dsimp only at hu
  split at hu
  · cases hu
  · next hm =>
    cases hu
    exact h.newRid.sendMsg hm

theorem Keeps.sendRuns {d qu q l} (h : Keeps P s₀ s) : Keeps P s₀ (s.sendRuns d qu q l).2.2 := by
  induction l generalizing s with
  | nil => exact h
  | cons x xs ih =>
    rw [State.sendRuns]
    split
    · exact h
    · next hu => exact ih (h.rackSend hu)

theorem Keeps.sendReads {d qu tag part l} (h : Keeps P s₀ s) : Keeps P s₀ (s.sendReads d qu tag part l).2.2 := by
  induction l generalizing s with
  | nil => exact h
  | cons x xs ih =>
    rw [State.sendReads]
    split
    · exact ih h
    · split
      · exact h
      · next hu => exact ih (h.rackSend hu)

theorem Keeps.sendBack {b} (h : Keeps P s₀ s) : Keeps P s₀ (s.sendBack b) := by
  unfold State.sendBack
  split
  · next hu => exact h.sendMsg hu
  · exact h.enqueueMsg

theorem Keeps.sendPnots {d tag pjid ser addr cls} (h : Keeps P s₀ s) : Keeps P s₀ (s.sendPnots d tag pjid ser addr cls) := by
  unfold State.sendPnots
  refine .foldl h fun t x h => ?_
  split
  · next hu => exact h.sendMsg hu
  · exact h

theorem Keeps.withLed {d l n} {f : State → State} (h : Keeps P s₀ s) (hf : ∀ t, Keeps P s₀ t → Keeps P s₀ (f t)) :
    Keeps P s₀ (s.withLed d l n f) := by
  unfold State.withLed
  dsimp only
  split
  · exact hf _ h.ledPoison
  · exact h.ledPoison.report

theorem Keeps.wdog {d kind tag c ms} {f : State → State} (h : Keeps P s₀ s) (hf : ∀ t, Keeps P s₀ t → Keeps P s₀ (f t)) :
    Keeps P s₀ (s.wdog d kind tag c ms f) := by
  unfold State.wdog
  refine .ite h (hf _ (.report (.ite ?_ (.wfs ?_))))
  · exact .ite h.inocClear h
  · exact .ite h.inocClear h

/-- Tables that are built by setting key after key stay rising. -/
theorem mrising_foldl {α β : Type} {l : List β} {f : SMap α → β → SMap α} {m : SMap α} (h : mrising m = true)
    (hf : ∀ m x, mrising m = true → mrising (f m x) = true) : mrising (l.foldl f m) = true := by
  induction l generalizing m with
  | nil => exact h
  | cons x l ih => exact ih (hf m x h)

theorem Keeps.slotIdle {d p sl} (h : Keeps P s₀ s) : Keeps P s₀ (s.slotIdle d p sl) := by
  unfold State.slotIdle
  refine Keeps.upd (h.putTslot (d := d) (p := p) (sl := sl)) rfl fun c => { c with tunOwn := mrising_foldl c.tunOwn fun m b hm => ?_ }
  split
  · exact mrising_mset _ _ hm
  · exact hm

/-- The strike of an armed point. -/
theorem Keeps.inocStrike {d x t} (h : Keeps P s₀ s) (ht : s.inocStrike d x = some t) : Keeps P s₀ t := by
  unfold State.inocStrike at ht
  dsimp only at ht
  split at ht
  · cases ht
  · split at ht
    · obtain ⟨q, -, rfl⟩ := Option.map_eq_some_iff.mp ht
      exact h.putVat.flipGrist
    · split at ht
      · obtain ⟨q, -, rfl⟩ := Option.map_eq_some_iff.mp ht
        exact h.putVat
      · split at ht
        · cases ht
          exact h.putVat
        · cases ht

theorem Keeps.inocFire {d} (h : Keeps P s₀ s) : Keeps P s₀ (s.inocFire d) := by
  unfold State.inocFire
  split
  · exact h
  · next ht => exact (h.inocStrike ht).inocClear

theorem Keeps.newCellarKey {p} (h : Keeps False s₀ s) : Keeps False s₀ (s.newCellarKey p) := by
  unfold State.newCellarKey
  exact .putPart (h.newKeys rfl (Nat.le_succ _))

theorem Keeps.clearUnits {keep} (h : Keeps P s₀ s) : Keeps P s₀ (s.clearUnits keep) := by
  unfold State.clearUnits
  refine h.upd rfl fun c => { c with
    ctxs := rfl, vats := rfl, rings := rfl, hyd := rfl, inocLeft := rfl, rackqs := rfl, tunOwn := rfl, ledNew := rfl, specRows := rfl,
    abortRk := rfl, abortTun := rfl, drainRk := rfl, drainTun := rfl, accq := rfl, tslots := rfl, jobs := rfl, slotOwn := rfl,
    ceSeen := rfl, kcores := mrising_filterMap ?_ c.kcores, keys := rfl, parts := rfl }
  intro e e' he
  split at he
  · cases he; rfl
  · cases he

theorem mrising_modPorts {m : SMap Port} (h : mrising m = true) : mrising (modPorts m) = true := by
  refine mrising_filterMap (fun e e' he => ?_) h
  split at he
  · cases he; rfl
  · cases he

theorem Keeps.keepMeasured {t : State} (h : Keeps P s₀ t) : Keeps P s₀ (s.keepMeasured t) := by
  unfold State.keepMeasured
  exact .foldl h.wfs.wfs fun _ _ h => h.wfs

end

/-! ### Ledgers, the tun, the racking engine and the contexts -/

section
variable {P : Prop} {s₀ s : State}

theorem Keeps.write {r o bs} (h : Keeps P s₀ s) : Keeps P s₀ (s.write r o bs) := by
  unfold State.write
  exact .ite h.poke h.writeCws

theorem Keeps.postFor {d p i add clr tag} (h : Keeps P s₀ s) : Keeps P s₀ (s.postFor d p i add clr tag) := by
  unfold State.postFor
  exact .ite h (.ite h.write h.write.report)

theorem Keeps.postCtr {d p i add clr tag} (h : Keeps P s₀ s) : Keeps P s₀ (s.postCtr d p i add clr tag) := by
  unfold State.postCtr
  exact h.postFor

theorem Keeps.done {d p ctr tag} (h : Keeps P s₀ s) : Keeps P s₀ (s.done d p ctr tag) := by
  unfold State.done
  exact h.postCtr

theorem Keeps.ctxFull {d c x} (h : Keeps P s₀ s) : Keeps P s₀ (s.ctxFull d c x) := by
  unfold State.ctxFull
  exact h.rouse.putCtx.write

theorem Keeps.ctxTo {d c x} (h : Keeps P s₀ s) : Keeps P s₀ (s.ctxTo d c x) := by
  unfold State.ctxTo
  exact .ite h.rouse.putCtx.write h.ctxFull

theorem Keeps.writeRuns {l l1 a} (h : Keeps P s₀ s) : Keeps P s₀ (s.writeRuns l l1 a) := by
  induction l generalizing s l1 a with
  | nil =>
    rw [State.writeRuns]
    exact h
  | cons b l ih =>
    rw [State.writeRuns]
    exact ih (.ite h.touch.write.poisonRange h.touch.write)

theorem Keeps.reject {d c code aux} (h : Keeps P s₀ s) : Keeps P s₀ (s.reject d c code aux) := by
  unfold State.reject
  exact .ite h.recordFault.ctxTo.report.bondReport h.recordFault.ctxTo.report

theorem Keeps.accept {d c n out} (h : Keeps P s₀ s) : Keeps P s₀ (s.accept d c n out) := by
  unfold State.accept
  exact .ite h.putCtx h.ctxTo

theorem Keeps.hold {d c} (h : Keeps P s₀ s) : Keeps P s₀ (s.hold d c) := by
  unfold State.hold
  exact .ite h h.ctxTo

theorem Keeps.steepFill {d v n} (h : Keeps P s₀ s) : Keeps P s₀ (steepFill d v n s) := by
  induction n generalizing d v s with
  | zero =>
    rw [Machine.steepFill]
    exact h
  | succ n ih =>
    unfold Machine.steepFill
    dsimp only
    split
    · exact h
    · exact .ite h (ih h.stageRow.putVat)

theorem Keeps.tallyReport {d v i} (h : Keeps P s₀ s) : Keeps P s₀ (s.tallyReport d v i) := by
  unfold State.tallyReport
  exact .ite h.write.putVat h.write

theorem Keeps.tallyRun {d v i} (h : Keeps P s₀ s) : Keeps P s₀ (s.tallyRun d v i) := by
  unfold State.tallyRun
  exact .ite h.tallyReport (.ite (.ite h.report h) h)

theorem Keeps.steepAdvance {d v n} (h : Keeps P s₀ s) : Keeps P s₀ (steepAdvance d v n s) := by
  induction n generalizing d v s with
  | zero =>
    rw [Machine.steepAdvance]
    exact h
  | succ n ih =>
    unfold Machine.steepAdvance
    split
    · exact h
    · exact .ite h.steepFill (ih h.tallyRun.putVat)

theorem Keeps.acceptSteep {d c w} (h : Keeps P s₀ s) : Keeps P s₀ (s.acceptSteep d c w) := by
  unfold State.acceptSteep
  exact h.putVat.accept.steepAdvance

theorem Keeps.steep {d c w} (h : Keeps P s₀ s) : Keeps P s₀ (s.steep d c w) := by
  unfold State.steep
  split
  · exact h.reject
  · exact .ite h.hold h.acceptSteep

theorem Keeps.tally {d c w} (h : Keeps P s₀ s) : Keeps P s₀ (s.tally d c w) := by
  unfold State.tally
  dsimp only
  split
  · exact h.reject
  · exact .ite h.hold (.ite h.putVat.accept.steepAdvance h.putVat.accept)

theorem Keeps.acceptMash {d c w} (h : Keeps P s₀ s) : Keeps P s₀ (s.acceptMash d c w) := by
  unfold State.acceptMash
  exact h.putVat.accept

theorem Keeps.mash {d c w} (h : Keeps P s₀ s) : Keeps P s₀ (s.mash d c w) := by
  unfold State.mash
  split
  · exact h.reject
  · exact .ite h.hold h.acceptMash

theorem Keeps.skip {d c w} (h : Keeps P s₀ s) : Keeps P s₀ (s.skip d c w) := by
  unfold State.skip
  exact .ite h.reject (.ite h.hold h.putVat.accept)

theorem Keeps.draw {d c w} (h : Keeps P s₀ s) : Keeps P s₀ (s.draw d c w) := by
  unfold State.draw
  dsimp only
  split
  · exact h.reject
  · exact .ite h.hold h.putVat.accept

theorem Keeps.steepCommit {d v} (h : Keeps P s₀ s) : Keeps P s₀ (s.steepCommit d v) := by
  unfold State.steepCommit
  split
  · exact h
  · dsimp only
    split
    · exact h.steepFill
    · exact .ite h.steepFill h.steepFill.commitCells.putVat.steepFill

theorem Answers.execSteepRowCommit {d v} (h : Keeps False s₀ s) : Answers s₀ (execSteepRowCommit d v s) := by
  unfold Machine.execSteepRowCommit
  exact .ite (.next h.steepCommit) .fault

theorem Keeps.tallyCommit {d v} (h : Keeps P s₀ s) : Keeps P s₀ (s.tallyCommit d v) := by
  unfold State.tallyCommit
  dsimp only
  split
  · exact h
  · exact .ite h h.putVat.steepAdvance

theorem Answers.execTallyEntryCommit {d v} (h : Keeps False s₀ s) : Answers s₀ (execTallyEntryCommit d v s) := by
  unfold Machine.execTallyEntryCommit
  exact .ite (.next h.tallyCommit) .fault

theorem Keeps.wortPut {d v h1 r c w} (h : Keeps P s₀ s) : Keeps P s₀ (s.wortPut d v h1 r c w) := by
  unfold State.wortPut
  exact .ite (.ite h.write.putVat h.write) (.ite h.write.putVat h.write)

theorem Keeps.drawOut {d v i r e xs} (h : Keeps P s₀ s) : Keeps P s₀ (s.drawOut d v i r e xs) := by
  unfold State.drawOut
  exact .ite h.write.poisonPieces.count.report h.write.poisonPieces.count

theorem Keeps.drawStep {d v} (h : Keeps P s₀ s) : Keeps P s₀ (s.drawStep d v) := by
  unfold State.drawStep
  dsimp only
  split
  · exact h
  · refine .ite ?_ ?_
    · exact h
    · refine .ite ?_ ?_
      · exact .drawOut (.putVat (.ite (h.wortDecode.frame rfl) h.wortDecode))
      · refine .ite ?_ ?_
        · exact .drawOut (.putVat (.ite (h.wortDecode.frame rfl) h.wortDecode))
        · exact .putVat (.ite (h.wortDecode.frame rfl) h.wortDecode)

theorem Answers.execDrawRowRead {d v} (h : Keeps False s₀ s) : Answers s₀ (execDrawRowRead d v s) := by
  unfold Machine.execDrawRowRead
  exact .ite (.next h.drawStep) .fault

theorem Keeps.vatComplete {d v} (h : Keeps P s₀ s) : Keeps P s₀ (s.vatComplete d v) := by
  unfold State.vatComplete
  dsimp only
  split
  · exact h
  · exact .ite h.putVat.ctxRetire h.putVat.ctxRetire.done

theorem Answers.execVatInstructionComplete {d v} (h : Keeps False s₀ s) : Answers s₀ (execVatInstructionComplete d v s) := by
  unfold Machine.execVatInstructionComplete
  exact .ite (.next h.vatComplete) .fault

theorem Keeps.wortAdd {d v p r n sub c b} (h : Keeps P s₀ s) : Keeps P s₀ (s.wortAdd d v p r n sub c b) := by
  unfold State.wortAdd
  dsimp only
  split
  · exact h.readCheck.setMark
  · exact .ite h.readCheck.wortPut.inocClear.setMark.report h.readCheck.wortPut

theorem Keeps.wortAdds {d v p r n n1 l} (h : Keeps P s₀ s) : Keeps P s₀ (wortAdds d v p r n n1 s l) := by
  induction l generalizing d v p r n n1 s with
  | nil =>
    rw [Machine.wortAdds]
    exact h
  | cons b l ih =>
    rw [Machine.wortAdds]
    exact ih h.wortAdd

theorem Keeps.wortStep {d v r} (h : Keeps P s₀ s) : Keeps P s₀ (s.wortStep d v r) := by
  unfold State.wortStep
  dsimp only
  split
  · exact h
  · refine .ite ?_ ?_
    · exact h
    · exact .putSettled (.ite (.report (.wortAdds (.putVat (by
          split
          · exact h
          · exact h.formSums)))) (.wortAdds (.putVat (by
          split
          · exact h
          · exact h.formSums))))

theorem Answers.execWortWrite {d v r} (h : Keeps False s₀ s) : Answers s₀ (execWortWrite d v r s) := by
  unfold Machine.execWortWrite
  exact .ite (.next h.wortStep) .fault

theorem Keeps.writeZ {l l1 l2} (h : Keeps P s₀ s) : Keeps P s₀ (s.writeZ l l1 l2) := by
  induction l generalizing s l1 l2 with
  | nil =>
    rw [State.writeZ]
    exact h
  | cons b l ih =>
    rw [State.writeZ]
    exact ih h.touch.write.poisonZ

theorem Keeps.writeOffs {r o zs l} (h : Keeps P s₀ s) : Keeps P s₀ (s.writeOffs r o zs l) := by
  unfold State.writeOffs
  exact .foldl h (fun _ _ h => h.writeZ)

theorem Keeps.writeStanding {d qu seq x l n l1 l2} (h : Keeps P s₀ s) : Keeps P s₀ (State.writeStanding d qu seq x s l n l1 l2) := by
  induction l generalizing d qu seq x s n l1 l2 with
  | nil =>
    rw [State.writeStanding]
    exact h
  | cons b l ih =>
    unfold State.writeStanding
    split
    · exact h.writeZ
    · exact ih h.writeOffs.setLog

theorem Keeps.rackWrite {d qu q x bs zs} (h : Keeps P s₀ s) : Keeps P s₀ (s.rackWrite d qu q x bs zs) := by
  unfold State.rackWrite
  exact .ledTouched (.ite (by
      split
      · exact h.writeStanding
      · exact h.writeStanding.inocClear.poisonRange) h.writeStanding)

theorem Keeps.sendDsts {d qu q bs zs l} (h : Keeps P s₀ s) : Keeps P s₀ (s.sendDsts d qu q bs zs l).2.2 := by
  induction l generalizing s d qu q bs zs with
  | nil =>
    rw [State.sendDsts]
    exact h
  | cons b l ih =>
    unfold State.sendDsts
    split
    · exact ih h
    · dsimp only
      split
      · exact h.setLog.sendRuns
      · exact ih h.setLog.sendRuns

theorem Keeps.pushOne {d qu q} (h : Keeps P s₀ s) : Keeps P s₀ (s.pushOne d qu q) := by
  unfold State.pushOne
  exact .ite h (.ite h.takeReq.sendDsts.putRackq h.takeReq.sendDsts.putRackq.sendStop)

theorem Keeps.pushId {d qu id} (h : Keeps P s₀ s) : Keeps P s₀ (s.pushId d qu id) := by
  unfold State.pushId
  dsimp only
  split
  · exact h.turnIn
  · exact h.turnIn.pushOne

theorem Keeps.pushHeld {d qu seq} (h : Keeps P s₀ s) : Keeps P s₀ (s.pushHeld d qu seq) := by
  unfold State.pushHeld
  exact .foldl h (fun _ _ h => h.pushId)

theorem Keeps.pushRemote {d qu q} (h : Keeps P s₀ s) : Keeps P s₀ (s.pushRemote d qu q) := by
  unfold State.pushRemote
  exact .ite h.pushOne h.pushHeld

theorem Keeps.ledSet {d l fs} (h : Keeps P s₀ s) : Keeps P s₀ (s.ledSet d l fs) := by
  unfold State.ledSet
  exact h.write

theorem Keeps.ledAdd {d l lo n} (h : Keeps P s₀ s) : Keeps P s₀ (s.ledAdd d l lo n) := by
  unfold State.ledAdd
  exact h.ledSet

theorem Keeps.ledMapPut {d l o n v} (h : Keeps P s₀ s) : Keeps P s₀ (s.ledMapPut d l o n v) := by
  unfold State.ledMapPut
  exact h.writeZ

theorem Keeps.putRow {d l base u bs zs} (h : Keeps P s₀ s) : Keeps P s₀ (s.putRow d l base u bs zs) := by
  unfold State.putRow
  exact h.writeZ

theorem Keeps.ledFault {d l} (h : Keeps P s₀ s) : Keeps P s₀ (s.ledFault d l) := by
  unfold State.ledFault
  exact h.ledSet.putSpec.report

theorem Keeps.ledOver {d l} (h : Keeps P s₀ s) : Keeps P s₀ (s.ledOver d l) := by
  unfold State.ledOver
  exact .ite h.ledFault h

theorem Keeps.ledArm {d l} (h : Keeps P s₀ s) : Keeps P s₀ (s.ledArm d l) := by
  unfold State.ledArm
  refine .ite ?_ ?_
  · exact h
  · exact .withLed h (fun _ h => .ite (h.upd rfl fun c => { c with ledNew := mrising_mset _ _ c.ledNew }) (.writeZ (.putSpec (.ledSet (h.upd rfl fun c => { c with ledNew := mrising_mset _ _ c.ledNew })))))

theorem Answers.execLedgerArm {d i} (h : Keeps False s₀ s) : Answers s₀ (execLedgerArm d i s) := by
  unfold Machine.execLedgerArm
  exact .ite (.next h.ledArm) .fault

theorem Keeps.ledBad {d l} (h : Keeps P s₀ s) : Keeps P s₀ (s.ledBad d l) := by
  unfold State.ledBad
  exact h.ledAdd

theorem Keeps.ledClosedArr {d l tag} (h : Keeps P s₀ s) : Keeps P s₀ (s.ledClosedArr d l tag) := by
  unfold State.ledClosedArr
  exact h.ledBad.report

theorem Keeps.ledCounted {d l} (h : Keeps P s₀ s) : Keeps P s₀ (s.ledCounted d l) := by
  unfold State.ledCounted
  exact .ledOver (.ledSet (.putSpec (.foldl h (fun _ _ h => .ite h h.ledMapPut))))

theorem Keeps.landCount {d tag body} (h : Keeps P s₀ s) : Keeps P s₀ (s.landCount d tag body) := by
  unfold State.landCount
  refine .ite ?_ ?_
  · exact h.ledClosedArr
  · exact .ite h.ledBad.bondReport (.ite h.ledBad (.ite h.ledMapPut.ledSet.ledCounted h.ledMapPut.ledSet))

theorem Keeps.landNotice {d tag body} (h : Keeps P s₀ s) : Keeps P s₀ (s.landNotice d tag body) := by
  unfold State.landNotice
  dsimp only
  split
  · exact h.ledPoison.landCount
  · exact h.ledPoison.consumed

theorem Keeps.ledCommit {d l} (h : Keeps P s₀ s) : Keeps P s₀ (s.ledCommit d l) := by
  unfold State.ledCommit
  exact .withLed h (fun _ h => .ite h.ledSet h)

theorem Answers.execLedgerCommitting {d i} (h : Keeps False s₀ s) : Answers s₀ (execLedgerCommitting d i s) := by
  unfold Machine.execLedgerCommitting
  exact .ite (.next h.ledCommit) .fault

theorem Keeps.commitCopy {d l l1} (h : Keeps P s₀ s) : Keeps P s₀ (commitCopy d l s l1) := by
  induction l1 generalizing d l s with
  | nil =>
    rw [Machine.commitCopy]
    exact h
  | cons b l1 ih =>
    rw [Machine.commitCopy]
    exact ih h.readZ.putRow

theorem Keeps.slotMapPut {d l l1} (h : Keeps P s₀ s) : Keeps P s₀ (slotMapPut d l s l1) := by
  induction l1 generalizing d l s with
  | nil =>
    rw [Machine.slotMapPut]
    exact h
  | cons b l1 ih =>
    rw [Machine.slotMapPut]
    exact ih h.ledMapPut

theorem Keeps.undefRows {d l base len n} (h : Keeps P s₀ s) : Keeps P s₀ (undefRows d l base len n s) := by
  induction n generalizing d l base len s with
  | zero =>
    rw [Machine.undefRows]
    exact h
  | succ n ih =>
    rw [Machine.undefRows]
    exact ih (h.writeZ.frame rfl)

theorem Keeps.maskSacks {d l none_ empty n} (h : Keeps P s₀ s) : Keeps P s₀ (maskSacks d l none_ empty n s) := by
  induction n generalizing d l none_ empty s with
  | zero =>
    rw [Machine.maskSacks]
    exact h
  | succ n ih =>
    rw [Machine.maskSacks]
    exact ih h.writeZ

theorem Keeps.ledClose {d l} (h : Keeps P s₀ s) : Keeps P s₀ (s.ledClose d l) := by
  unfold State.ledClose
  refine .ite ?_ ?_
  · exact h
  · exact .withLed h (fun _ h => .ite h.commitCopy.ledFault h.commitCopy.slotMapPut.maskSacks.undefRows.ledSet.putSpec.postCtr)

theorem Answers.execLedgerClose {d i} (h : Keeps False s₀ s) : Answers s₀ (execLedgerClose d i s) := by
  unfold Machine.execLedgerClose
  exact .ite (.next h.ledClose) .fault

theorem Keeps.ledAbort {d l tag} (h : Keeps P s₀ s) : Keeps P s₀ (s.ledAbort d l tag) := by
  unfold State.ledAbort
  exact .ite h.ledSet.putSpec h

theorem Keeps.ledAborts {d tag n} (h : Keeps P s₀ s) : Keeps P s₀ (ledAborts d tag n s) := by
  induction n generalizing d tag s with
  | zero =>
    rw [Machine.ledAborts]
    exact h
  | succ n ih =>
    rw [Machine.ledAborts]
    exact ih h.ledAbort

theorem Keeps.bufStore {d x k vs psn} (h : Keeps P s₀ s) : Keeps P s₀ (s.bufStore d x k vs psn) := by
  unfold State.bufStore
  exact .ite h.write.poisonRange h.write

theorem Keeps.storeSums {d p sl} (h : Keeps P s₀ s) : Keeps P s₀ (s.storeSums d p sl) := by
  unfold State.storeSums
  exact .foldl h (fun _ _ h => h.bufStore.putTslot)

theorem Keeps.pump {d p sl} (h : Keeps P s₀ s) : Keeps P s₀ (s.pump d p sl) := by
  unfold State.pump
  exact .ite h h.putTslot.storeSums

theorem Keeps.pourRegister {d src} (h : Keeps P s₀ s) : Keeps P s₀ (s.pourRegister d src) := by
  unfold State.pourRegister
  split
  · exact h
  · exact .ite (h.frame rfl) (.pump (.putTslot (.unrest (.frame h rfl))))

theorem Answers.execPourRegister {d src} (h : Keeps False s₀ s) : Answers s₀ (execPourRegister d src s) := by
  unfold Machine.execPourRegister
  exact .ite (.next h.pourRegister) .fault

theorem Keeps.tunRead {q bs zs} (h : Keeps P s₀ s) : Keeps P s₀ (s.tunRead q bs zs) := by
  unfold State.tunRead
  split
  · exact h
  · dsimp only
    split
    · exact h
    · exact .ite h.putTslot.pump.consumed h.putTslot.pump

theorem Keeps.pourComplete {d p sl n} (h : Keeps P s₀ s) : Keeps P s₀ (s.pourComplete d p sl n) := by
  unfold State.pourComplete
  dsimp only
  split
  · exact h
  · refine .ite ?_ ?_
    · exact h
    · refine .ite ?_ ?_
      · exact .slotIdle (.ctxRetire (.ite h.onPour.dropTin h.onPour.dropTin.done))
      · exact .ctxRetire (.ite h.onPour.dropTin h.onPour.dropTin.done)

theorem Answers.execPourComplete {d p sl n} (h : Keeps False s₀ s) : Answers s₀ (execPourComplete d p sl n s) := by
  unfold Machine.execPourComplete
  exact .ite (.next h.pourComplete) .fault

theorem Keeps.tunDescPoison {d c i} (h : Keeps P s₀ s) : Keeps P s₀ (s.tunDescPoison d c i) := by
  unfold State.tunDescPoison
  exact h.ctxTo.consumed

theorem Keeps.deliver {d p sl k cs vs psn} (h : Keeps P s₀ s) : Keeps P s₀ (s.deliver d p sl k cs vs psn) := by
  unfold State.deliver
  exact .ite h.bufStore.putTslot (.ite h.bufStore.putTslot h.bufStore.putRackq.putTslot)

theorem Keeps.tunWrote {n q} (h : Keeps P s₀ s) : Keeps P s₀ (s.tunWrote n q) := by
  unfold State.tunWrote
  split
  · exact h
  · exact .ite h.putTslot h.putTslot.pump

theorem Keeps.chunkRelease {d p sl} (h : Keeps P s₀ s) : Keeps P s₀ (s.chunkRelease d p sl) := by
  unfold State.chunkRelease
  refine .ite ?_ ?_
  · exact h
  · split
    · exact h
    · exact .pump (.deliver (.putTslot (.ite (.foldl (.ite (.mismatch (.inocClear (.ite h.readSum.mismatch h.readSum))) (.ite h.readSum.mismatch h.readSum)) (fun _ _ h => h.count)) (.ite (.mismatch (.inocClear (.ite h.readSum.mismatch h.readSum))) (.ite h.readSum.mismatch h.readSum)))))

theorem Answers.execChunkRelease {d p sl} (h : Keeps False s₀ s) : Answers s₀ (execChunkRelease d p sl s) := by
  unfold Machine.execChunkRelease
  exact .ite (.next h.chunkRelease) .fault

theorem Keeps.collectComplete {d p sl} (h : Keeps P s₀ s) : Keeps P s₀ (s.collectComplete d p sl) := by
  unfold State.collectComplete
  exact .ite h (.ite h.dropTin.done.ctxRetire.putTslot h.dropTin.done.ctxRetire.slotIdle)

theorem Answers.execCollectComplete {d p sl} (h : Keeps False s₀ s) : Answers s₀ (execCollectComplete d p sl s) := by
  unfold Machine.execCollectComplete
  exact .ite (.next h.collectComplete) .fault

theorem Keeps.tunAbortSlots {tag d l} (h : Keeps P s₀ s) : Keeps P s₀ (tunAbortSlots tag d l s) := by
  induction l generalizing tag d s with
  | nil =>
    rw [Machine.tunAbortSlots]
    exact h
  | cons b l ih =>
    rw [Machine.tunAbortSlots]
    exact .ite (ih h) (ih (.ite h.putTslot.slotIdle h.putTslot))

theorem Keeps.writeDsts {d qu q bs zs l} (h : Keeps P s₀ s) : Keeps P s₀ (s.writeDsts d qu q bs zs l).1 := by
  induction l generalizing s d qu q bs zs with
  | nil =>
    rw [State.writeDsts]
    exact h
  | cons b l ih =>
    unfold State.writeDsts
    split
    · exact ih h
    · split
      · split
        · exact ih h.writeToHost
        · exact h
      · exact ih h.rackWrite

theorem Keeps.sumUnit {d qu u} (h : Keeps P s₀ s) : Keeps P s₀ (s.sumUnit d qu u) := by
  unfold State.sumUnit
  dsimp only
  split
  · exact h
  · split
    · exact h
    · exact .ite h (.foldl h.takeAll.takeAll.countSat.putRackq (fun _ _ h => h.pushRemote))

theorem Keeps.accumulate {d k} (h : Keeps P s₀ s) : Keeps P s₀ (s.accumulate d k) := by
  unfold State.accumulate
  split
  · exact h
  · exact .ite h h.sumUnit.putAcc

theorem Answers.execAccumulateUnit {d k} (h : Keeps False s₀ s) : Answers s₀ (execAccumulateUnit d k s) := by
  unfold Machine.execAccumulateUnit
  exact .ite (.next h.accumulate) .fault

theorem Keeps.tileReady {d qu} (h : Keeps P s₀ s) : Keeps P s₀ (s.tileReady d qu) := by
  unfold State.tileReady
  dsimp only
  split
  · exact h
  · exact h.putRackq.postCtr

theorem Answers.execStreamTileReady {d qu} (h : Keeps False s₀ s) : Answers s₀ (execStreamTileReady d qu s) := by
  unfold Machine.execStreamTileReady
  exact .ite (.next h.tileReady) .fault

theorem Keeps.rackInstrDone {d qu n} (h : Keeps P s₀ s) : Keeps P s₀ (s.rackInstrDone d qu n) := by
  unfold State.rackInstrDone
  dsimp only
  split
  · exact h
  · exact .ite h (.ite h.putRackq.copyEnd h.putRackq.done.ctxRetire)

theorem Answers.execRackInstructionComplete {d qu n} (h : Keeps False s₀ s) : Answers s₀ (execRackInstructionComplete d qu n s) := by
  unfold Machine.execRackInstructionComplete
  exact .ite (.next h.rackInstrDone) .fault

theorem Keeps.rackAbort {d tag} (h : Keeps P s₀ s) : Keeps P s₀ (s.rackAbort d tag) := by
  unfold State.rackAbort
  exact .ledAborts (.rackAbortQs (h.upd rfl fun c => { c with abortRk := mrising_mset _ _ c.abortRk }))

theorem Answers.execRackingAbortNotice {d tag} (h : Keeps False s₀ s) : Answers s₀ (execRackingAbortNotice d tag s) := by
  unfold Machine.execRackingAbortNotice
  exact .ite (.next h.rackAbort) .fault

theorem Keeps.tokenPoison {d c i} (h : Keeps P s₀ s) : Keeps P s₀ (s.tokenPoison d c i) := by
  unfold State.tokenPoison
  exact h.ctxTo.consumed

theorem Keeps.wait {d c w} (h : Keeps P s₀ s) : Keeps P s₀ (s.wait d c w) := by
  unfold State.wait
  exact .ite h.readCheck.tokenPoison (.ite h.readCheck.accept h.readCheck.ctxTo)

theorem Keeps.waitRelease {d c} (h : Keeps P s₀ s) : Keeps P s₀ (s.waitRelease d c) := by
  unfold State.waitRelease
  exact .ite h (.ite h.readCheck.tokenPoison (.ite h.readCheck.accept h.readCheck))

theorem Answers.execWaitRelease {d c} (h : Keeps False s₀ s) : Answers s₀ (execWaitRelease d c s) := by
  unfold Machine.execWaitRelease
  exact .ite (.next h.waitRelease) .fault

theorem Keeps.fenceDone {d c w} (h : Keeps P s₀ s) : Keeps P s₀ (s.fenceDone d c w) := by
  unfold State.fenceDone
  exact .ite h.done.ctxTo h.done.accept

theorem Keeps.fence {d c w} (h : Keeps P s₀ s) : Keeps P s₀ (s.fence d c w) := by
  unfold State.fence
  exact .ite h.fenceDone h.ctxTo

theorem Keeps.fenceSatisfied {d c} (h : Keeps P s₀ s) : Keeps P s₀ (s.fenceSatisfied d c) := by
  unfold State.fenceSatisfied
  dsimp only
  split
  · exact h
  · exact .ite h h.putCtx.fenceDone

theorem Answers.execFenceSatisfied {d c} (h : Keeps False s₀ s) : Answers s₀ (execFenceSatisfied d c s) := by
  unfold Machine.execFenceSatisfied
  exact .ite (.next h.fenceSatisfied) .fault

theorem Keeps.yield {d c w} (h : Keeps P s₀ s) : Keeps P s₀ (s.yield d c w) := by
  unfold State.yield
  exact h.accept.putCtx

theorem Keeps.startThread {d c tag part pc} (h : Keeps P s₀ s) : Keeps P s₀ (s.startThread d c tag part pc) := by
  unfold State.startThread
  exact h.ctxFull

theorem Keeps.spawnEnd {d c w} (h : Keeps P s₀ s) : Keeps P s₀ (s.spawnEnd d c w) := by
  unfold State.spawnEnd
  exact h.done.accept

theorem Keeps.spawn {d c w} (h : Keeps P s₀ s) : Keeps P s₀ (s.spawn d c w) := by
  unfold State.spawn
  refine .ite ?_ ?_
  · exact .consumed (.ctxTo (.ite h.readCheck h))
  · refine .ite ?_ ?_
    · exact .spawnEnd (.ite h.readCheck h)
    · exact .ite (.hold (.ite h.readCheck h)) (.spawnEnd (.startThread (.ite h.readCheck h)))

theorem Keeps.fetch {d c} (h : Keeps P s₀ s) : Keeps P s₀ (s.fetch d c) := by
  unfold State.fetch
  refine .ite ?_ ?_
  · exact h
  · exact .ite h (.ite (.ite h.reject h) (.ite (.ite h.readCheck.ctxTo.consumed h.readCheck) h.readCheck.putCtx))

theorem Answers.execInstructionFetch {d c} (h : Keeps False s₀ s) : Answers s₀ (execInstructionFetch d c s) := by
  unfold Machine.execInstructionFetch
  exact .ite (.next h.fetch) .fault

theorem Keeps.imageUpdate {d c us} (h : Keeps P s₀ s) : Keeps P s₀ (s.imageUpdate d c us) := by
  unfold State.imageUpdate
  exact .ite h.ctxFull (.ite h.ctxFull h)

theorem Answers.execContextImageUpdate {d c us} (h : Keeps False s₀ s) : Answers s₀ (execContextImageUpdate d c us s) := by
  unfold Machine.execContextImageUpdate
  exact .ite (.next h.imageUpdate) .fault

theorem Keeps.answer {d i ch m typ stat data pm} (h : Keeps P s₀ s) : Keeps P s₀ (s.answer d i ch m typ stat data pm) := by
  unfold State.answer
  exact .ite h.sendBack (h.frame rfl)

theorem Keeps.sendBacks {l l1} (h : Keeps P s₀ s) : Keeps P s₀ (s.sendBacks l l1) := by
  induction l1 generalizing s l with
  | nil =>
    rw [State.sendBacks]
    exact h.frame rfl
  | cons b l1 ih =>
    rw [State.sendBacks]
    exact .ite (ih h.sendBack) (ih h)

theorem Keeps.refuse {d i ch m stat} (h : Keeps P s₀ s) : Keeps P s₀ (s.refuse d i ch m stat) := by
  unfold State.refuse
  exact .ite h.answer (.ite h.answer h)

theorem Keeps.route {d i ch n len m} (h : Keeps P s₀ s) : Keeps P s₀ (s.route d i ch n len m) := by
  unfold State.route
  refine .ite ?_ ?_
  · exact h.discard
  · exact .ite h.discard (.ite h.freeBytes.refuse (.ite h.freeBytes.refuse (.putRxch (.ite h.unrest h))))

theorem Keeps.messageReceive {d i ch} (h : Keeps P s₀ s) : Keeps P s₀ (s.messageReceive d i ch) := by
  unfold State.messageReceive
  dsimp only
  split
  · exact h
  · exact h
  · refine .ite ?_ ?_
    · exact h.putRxch.freeBytes
    · refine .ite ?_ ?_
      · exact h
      · split
        · exact .ite h.putRxch.authFail h.putRxch.route
        · refine .ite ?_ ?_
          · exact h.putRxch.authFail
          · split
            · exact h.putRxch.authFail
            · exact h.putRxch.putPort.route

theorem Answers.execMessageReceive {d i ch} (h : Keeps False s₀ s) : Answers s₀ (execMessageReceive d i ch s) := by
  unfold Machine.execMessageReceive
  exact .ite (.next h.messageReceive) .fault

theorem Keeps.tunAbort {d tag} (h : Keeps P s₀ s) : Keeps P s₀ (s.tunAbort d tag) := by
  unfold State.tunAbort
  exact .dropChunks (.tunStopQs (.tunAbortSlots (h.upd rfl fun c => { c with abortTun := mrising_mset _ _ c.abortTun })))

theorem Answers.execTunAbortNotice {d tag} (h : Keeps False s₀ s) : Answers s₀ (execTunAbortNotice d tag s) := by
  unfold Machine.execTunAbortNotice
  exact .ite (.next h.tunAbort) .fault

theorem Keeps.refuseReach {d i ch m c} (h : Keeps P s₀ s) : Keeps P s₀ (s.refuseReach d i ch m c) := by
  unfold State.refuseReach
  exact .refuse (.ite h.bondReport h)

theorem Keeps.wreqRx {d i ch m} (h : Keeps P s₀ s) : Keeps P s₀ (s.wreqRx d i ch m) := by
  unfold State.wreqRx
  refine .ite ?_ ?_
  · exact h.consume.refuse
  · split
    · exact h.consume.writeZ.ledTouched.answer
    · exact h.consume.refuseReach
    · exact h.consume.refuse

theorem Keeps.rreqRx {d i ch m} (h : Keeps P s₀ s) : Keeps P s₀ (s.rreqRx d i ch m) := by
  unfold State.rreqRx
  refine .ite ?_ ?_
  · exact h.consume.refuse
  · refine .ite ?_ ?_
    · exact h.consume.refuse
    · split
      · exact h.consume.readZ.answer
      · exact h.consume.refuseReach
      · exact h.consume.refuse

theorem Keeps.postRx {d i ch m} (h : Keeps P s₀ s) : Keeps P s₀ (s.postRx d i ch m) := by
  unfold State.postRx
  exact .ite h.consume.refuse h.consume.postCtr.answer

theorem Keeps.slotNext {d t use} (h : Keeps P s₀ s) : Keeps P s₀ (s.slotNext d t use) := by
  unfold State.slotNext
  exact h.slotStart.sendBacks

theorem Answers.execSlotStart {d t use} (h : Keeps False s₀ s) : Answers s₀ (execSlotStart d t use s) := by
  unfold Machine.execSlotStart
  exact .ite (.next h.slotNext) .fault

theorem Keeps.stopAll {l} (h : Keeps P s₀ s) : Keeps P s₀ (stopAll s l) := by
  induction l generalizing s with
  | nil =>
    rw [Machine.stopAll]
    exact h
  | cons b l ih =>
    rw [Machine.stopAll]
    exact ih (.ite h h.ctxTo)

theorem Keeps.freeAll {l} (h : Keeps P s₀ s) : Keeps P s₀ (freeAll s l) := by
  induction l generalizing s with
  | nil =>
    rw [Machine.freeAll]
    exact h
  | cons b l ih =>
    rw [Machine.freeAll]
    exact ih h.ctxTo

theorem Keeps.beginEnd {d tag cause fbit fcode idx org addr pcls} (h : Keeps P s₀ s) : Keeps P s₀ (s.beginEnd d tag cause fbit fcode idx org addr pcls) := by
  unfold State.beginEnd
  refine .ite ?_ ?_
  · exact h
  · refine .ite ?_ ?_
    · exact h.putJob.wakeIslands.stopAll
    · refine .ite ?_ ?_
      · exact .sendPnots (.ite (h.putJob.wakeIslands.stopAll.frame rfl) (.flood (.frame h.putJob.wakeIslands.stopAll rfl)))
      · exact .ite (h.putJob.wakeIslands.stopAll.frame rfl) (.flood (.frame h.putJob.wakeIslands.stopAll rfl))

theorem Keeps.finishJob {tag} (h : Keeps P s₀ s) : Keeps P s₀ (s.finishJob tag) := by
  unfold State.finishJob
  exact .foldl (.raise (.raise (.putJob (.releaseSlots (.foldl h.longEnds.freeAll (fun _ _ h => h.wf.freeRing.upd rfl fun c => { c with abortRk := mrising_mset _ _ c.abortRk, abortTun := mrising_mset _ _ c.abortTun, drainRk := mrising_mset _ _ c.drainRk, drainTun := mrising_mset _ _ c.drainTun })))))) (fun _ _ h => by
      split
      · exact .ite h.endCmd h
      · exact h)

theorem Answers.execJobDrainComplete {tag} (h : Keeps False s₀ s) : Answers s₀ (execJobDrainComplete tag s) := by
  unfold Machine.execJobDrainComplete
  exact .next (.ite h.finishJob h)

theorem Answers.execJobNormalEnd {tag} (h : Keeps False s₀ s) : Answers s₀ (execJobNormalEnd tag s) := by
  unfold Machine.execJobNormalEnd
  exact .next (.ite h.finishJob h)

theorem Keeps.jobFault (h : Keeps P s₀ s) : Keeps P s₀ s.jobFault := by
  unfold State.jobFault
  split
  · exact h
  · exact .ite (.beginEnd (.frame h rfl)) (.ite (.reportRec (.frame h rfl)) (.beginEnd (.reportRec (.frame h rfl))))

theorem Answers.execJobFault (h : Keeps False s₀ s) : Answers s₀ (execJobFault s) := by
  unfold Machine.execJobFault
  exact .next h.jobFault

theorem Keeps.dieLost {d} (h : Keeps P s₀ s) : Keeps P s₀ (s.dieLost d) := by
  unfold State.dieLost
  refine .ite ?_ ?_
  · exact h
  · exact .moduleState (.stopLongs (.foldl (.foldl (.logErr (.frame h rfl)) (fun _ _ h => .ite h (.ite h.pmrExtend.wfs h.pmrExtend))) (fun _ _ h => .ite h.beginEnd h)))

theorem Keeps.poisonEvent (h : Keeps P s₀ s) : Keeps P s₀ s.poisonEvent := by
  unfold State.poisonEvent
  split
  · exact h
  · refine .ite ?_ ?_
    · exact .beginEnd (.reportRec (.frame h rfl))
    · exact .ite (.foldl (.reportRec (.frame h rfl)) (fun _ _ h => .ite h.beginEnd h)) (.dieLost (.reportRec (.frame h rfl)))

theorem Answers.execPoisonConsumed (h : Keeps False s₀ s) : Answers s₀ (execPoisonConsumed s) := by
  unfold Machine.execPoisonConsumed
  exact .next h.poisonEvent

theorem Answers.execDieHeartbeatTimeout {d} (h : Keeps False s₀ s) : Answers s₀ (execDieHeartbeatTimeout d s) := by
  unfold Machine.execDieHeartbeatTimeout
  exact .ite .fault (.next (.ite h.dieLost h))

theorem Answers.execInocFire {d} (h : Keeps False s₀ s) : Answers s₀ (execInocFire d s) := by
  unfold Machine.execInocFire
  exact .ite (.next h.inocFire) .fault

theorem Keeps.ketPoison {d c addr} (h : Keeps P s₀ s) : Keeps P s₀ (s.ketPoison d c addr) := by
  unfold State.ketPoison
  exact h.ctxTo.consumed

theorem Keeps.ketPend {d c p} (h : Keeps P s₀ s) : Keeps P s₀ (s.ketPend d c p) := by
  unfold State.ketPend
  exact .accept (.frame h.putKcore rfl)

theorem Keeps.ketCompute {d c w zw jw} (h : Keeps P s₀ s) : Keeps P s₀ (s.ketCompute d c w zw jw) := by
  unfold State.ketCompute
  exact h.checkLanes.ketGroup.ketPend

theorem Keeps.cvt {d c x w} (h : Keeps P s₀ s) : Keeps P s₀ (s.cvt d c x w) := by
  unfold State.cvt
  exact h.ketCount.ketCompute

theorem Keeps.drop {d c x w} (h : Keeps P s₀ s) : Keeps P s₀ (s.drop d c x w) := by
  unfold State.drop
  exact h.ketCompute

theorem Keeps.rand {d c x w} (h : Keeps P s₀ s) : Keeps P s₀ (s.rand d c x w) := by
  unfold State.rand
  exact h.ketCompute

theorem Keeps.mupd {d c x w} (h : Keeps P s₀ s) : Keeps P s₀ (s.mupd d c x w) := by
  unfold State.mupd
  exact h.ketCount.ketCompute

theorem Keeps.ketXfer {d c w addr args} (h : Keeps P s₀ s) : Keeps P s₀ (s.ketXfer d c w addr args) := by
  unfold State.ketXfer
  exact h.ketPend

theorem Keeps.rejectPush {d c code v} (h : Keeps P s₀ s) : Keeps P s₀ (s.rejectPush d c code v) := by
  unfold State.rejectPush
  exact .ite h.rkFault.ctxTo.report.bondReport h.rkFault.ctxTo.report

theorem Keeps.kSt {d k p} (h : Keeps P s₀ s) : Keeps P s₀ (s.kSt d k p).2 := by
  unfold State.kSt
  exact .ite h.writeZ.count h.writeZ

theorem Keeps.kStc {d k p} (h : Keeps P s₀ s) : Keeps P s₀ (s.kStc d k p).2 := by
  unfold State.kStc
  dsimp only
  split
  · split
    · exact h
    · exact h.regDo
  · exact h.writeZ

theorem Keeps.kPack {d k p} (h : Keeps P s₀ s) : Keeps P s₀ (s.kPack d k p).2 := by
  unfold State.kPack
  exact .ite h.writeZ.count h.writeZ

theorem Keeps.ketStop {d p a} (h : Keeps P s₀ s) : Keeps P s₀ (s.ketStop d p a) := by
  unfold State.ketStop
  exact .ite h.consumed h.consumed.ctxTo

theorem Keeps.winWrite {f p entry status} (h : Keeps P s₀ s) : Keeps P s₀ (s.winWrite f p entry status) := by
  unfold State.winWrite
  exact .ite h h.write.endCmd

theorem Keeps.zeroCtrs {d p b} (h : Keeps P s₀ s) : Keeps P s₀ (s.zeroCtrs d p b) := by
  unfold State.zeroCtrs
  exact .foldl h (fun _ _ h => .ite h.write h)

theorem Keeps.jobDie {b p tag d r} (h : Keeps P s₀ s) : Keeps P s₀ (s.jobDie b p tag d r) := by
  unfold State.jobDie
  exact .foldl (.ite h.jobRegs.zeroCtrs h.jobRegs.zeroCtrs.slotEdit) (fun _ _ h => by
      split
      · exact h.startThread
      · exact h)

theorem Keeps.freeCtxs {d lo n} (h : Keeps P s₀ s) : Keeps P s₀ (s.freeCtxs d lo n) := by
  unfold State.freeCtxs
  exact h.freeAll

theorem Keeps.islVat {d v} (h : Keeps P s₀ s) : Keeps P s₀ (s.islVat d v) := by
  unfold State.islVat
  exact h.islLinks.putVat.freeCtxs.restore

theorem Keeps.islKettle {d k} (h : Keeps P s₀ s) : Keeps P s₀ (s.islKettle d k) := by
  unfold State.islKettle
  exact h.zeroCore.putAcc.freeCtxs.restore

theorem Keeps.zeroLedger {d l} (h : Keeps P s₀ s) : Keeps P s₀ (s.zeroLedger d l) := by
  unfold State.zeroLedger
  exact h.write.upd rfl fun c => { c with ledNew := mrising_mset _ _ c.ledNew, specRows := mrising_mset _ _ c.specRows }

theorem Keeps.scrubGrant {g} (h : Keeps P s₀ s) : Keeps P s₀ (s.scrubGrant g) := by
  unfold State.scrubGrant
  dsimp only
  split
  · exact h.zeroVats.putRing.clearTallies.freeCtxs
  · exact .foldl h (fun _ _ h => h.zeroFiles.freeCtxs)
  · exact h.zeroRange
  · exact h.freeCtxs
  · exact h.freeCtxs
  · exact h.zeroRange
  · exact .foldl h (fun _ _ h => h.wf)
  · exact .foldl h (fun _ _ h => h.zeroLedger)
  · exact h.wf
  · exact .foldl h (fun _ _ h => h.clearGroup)
  · exact h.upd rfl fun c => { c with keys := mrising_filter _ c.keys }
  · exact h

theorem Keeps.changeDone {c} (h : Keeps P s₀ s) : Keeps P s₀ (s.changeDone c) := by
  unfold State.changeDone
  dsimp only
  split
  · exact .protEnd (.foldl (.frame (.foldl h (fun _ _ h => .foldl h (fun _ _ h => h.scrubGrant))) rfl) (fun _ _ h => h.enterGrant))
  · exact .protEnd (.foldl (.frame (.foldl h (fun _ _ h => .foldl h (fun _ _ h => h.scrubGrant))) rfl) (fun _ _ h => .ite h.wf h))
  · exact .protEnd (.putPart (.wfs (.frame (.foldl h (fun _ _ h => .foldl h (fun _ _ h => h.scrubGrant))) rfl)))
  · exact .protEnd (.writeGroup (.frame (.foldl h (fun _ _ h => .foldl h (fun _ _ h => h.scrubGrant))) rfl))
  · exact .foldl (.frame (.foldl h (fun _ _ h => .foldl h (fun _ _ h => h.scrubGrant))) rfl) (fun _ _ h => .ite h h.lockedError)

end

/-! ### What arrivals, tun instructions and offers keep -/

/-- Where an arrival lands, what every command keeps is kept. -/
def Lands (P : Prop) (s₀ : State) (l : Landed) : Prop := ∀ t, l = .done t → Keeps P s₀ t

section
variable {P : Prop} {s₀ s : State}

theorem Lands.hold : Lands P s₀ .hold := by
  intro t ht
  cases ht

theorem Lands.refused {c : Nat} : Lands P s₀ (.refused c) := by
  intro t ht
  cases ht

theorem Lands.dropped : Lands P s₀ .dropped := by
  intro t ht
  cases ht

theorem Lands.done (h : Keeps P s₀ s) : Lands P s₀ (.done s) := by
  intro t ht
  injection ht with ht
  exact ht ▸ h

theorem Lands.ite {c : Prop} [Decidable c] {a b : Landed} (ha : Lands P s₀ a) (hb : Lands P s₀ b) : Lands P s₀ (if c then a else b) := by
  split
  · exact ha
  · exact hb

theorem Lands.landRow {d tag body bs zs} (h : Keeps P s₀ s) : Lands P s₀ (s.landRow d tag body bs zs) := by
  unfold State.landRow
  refine .ite (.done h.ledClosedArr) (.ite (.done h.ledBad.bondReport) ?_)
  refine .ite (.ite (.done h.ledAdd) (.done h.ledBad)) (.ite (.done h.ledBad) (.ite ?_ (.ite (.done h.ledAdd) ?_)))
  · exact .ite .refused (.done h.putRow.ledMapPut.ledAdd.ledOver)
  · exact .ite .hold (.ite .refused (.done h.putRow.ledMapPut.ledAdd.ledAdd.putSpec.trkPeak.ledOver))

theorem Lands.landDisp {d tag body bs zs} (h : Keeps P s₀ s) : Lands P s₀ (s.landDisp d tag body bs zs) := by
  unfold State.landDisp
  dsimp only
  split
  · exact .landRow h.ledPoison
  · exact .done h.ledPoison.consumed

theorem Lands.landChunk {d m} (h : Keeps P s₀ s) : Lands P s₀ (s.landChunk d m) := by
  unfold State.landChunk
  refine .ite .dropped ?_
  split
  · exact .hold
  · refine .ite .hold (.ite (.done ?_) (.done (.pump (.putTslot (.ite h.mismatch h)))))
    exact .pump (.deliver (.putTslot (.ite h.mismatch h)))

theorem Keeps.landed {d i ch m l} (h : Keeps P s₀ s) (hl : Lands P s₀ l) : Keeps P s₀ (s.landed d i ch m l) := by
  cases l with
  | hold => exact h
  | refused c => exact h.consume.refuse
  | dropped => exact h.consume
  | done t => exact (hl t rfl).consume.answer

theorem Keeps.dispRx {d i ch m} (h : Keeps P s₀ s) : Keeps P s₀ (s.dispRx d i ch m) := by
  unfold State.dispRx
  exact .ite h.consume.refuse (h.landed (.landDisp h))

theorem Keeps.noticeRx {d i ch m} (h : Keeps P s₀ s) : Keeps P s₀ (s.noticeRx d i ch m) := by
  unfold State.noticeRx
  exact .ite h.consume.refuse (h.landed (.done h.landNotice))

theorem Keeps.pushBody {d qu q} (h : Keeps P s₀ s) : Keeps P s₀ (s.pushBody d qu q) := by
  unfold State.pushBody
  split
  · refine .ite h ?_
    dsimp only
    split
    · exact h.putRackq.sendStop
    · next hu => exact (h.takeReq.rackSend hu).putRackq
  · exact h

theorem Keeps.chunkMsg {d p sl o} (h : Keeps P s₀ s) : Keeps P s₀ (s.chunkMsg d p sl o).2 := by
  unfold State.chunkMsg
  dsimp only
  split
  · exact h.chunkFail
  · next hu => exact (h.newRid.sendMsg hu).putTslot

theorem Keeps.mgmtRx {d i ch m} (h : Keeps P s₀ s) : Keeps P s₀ (s.mgmtRx d i ch m) := by
  unfold State.mgmtRx
  refine .ite h.consume.logErr (.ite h.consume.putPort (.ite ?_ h.consume))
  split
  · next hu => exact h.consume.sendMsg hu
  · exact h.consume

theorem Keeps.ctlFlit {d i kind lf train} {f : State → State} (h : Keeps P s₀ s) (hf : ∀ t, Keeps P s₀ t → Keeps P s₀ (f t)) :
    Keeps P s₀ (s.ctlFlit d i kind lf train f) := by
  unfold State.ctlFlit
  exact .ite h (.ite h (.ite h.lineCheck.rxRetry (.ite (hf _ h.lineCheck.applyPiggy) (hf _ h.lineCheck))))

theorem Keeps.pour {d c w} (h : Keeps P s₀ s) : Keeps P s₀ (s.pour d c w) := by
  unfold State.pour
  refine .ite h.hold ?_
  extract_lets t s1 dc
  have h1 : Keeps P s₀ s1 := by
    simp only [s1, t]
    split
    · exact h
    · exact h.loadDesc
  refine .ite h1.tunDescPoison ?_
  split
  · exact h1.reject
  · next p q i s2 _ _ =>
    have h2 : Keeps P s₀ s2 := .ite h1 h1.unrest.putRackq
    exact .accept (h2.frame rfl)

theorem Keeps.collect {d c w} (h : Keeps P s₀ s) : Keeps P s₀ (s.collect d c w) := by
  unfold State.collect
  refine .ite h.hold ?_
  extract_lets sl x t s1 dc
  have h1 : Keeps P s₀ s1 := by
    simp only [s1, t]
    split
    · exact h
    · exact h.loadDesc
  refine .ite h1.tunDescPoison ?_
  split
  · exact h1.reject
  · next x' own q ov s2 i s3 s4 _ _ =>
    have h3 : Keeps P s₀ s3 := .ite h1.overlapMark h1.overlapMark.unrest.putRackq
    have hown : Canon s₀ → mrising own = true := fun c₀ =>
      mrising_foldl (h1.canon c₀).tunOwn fun _ _ h => mrising_mset _ _ h
    have h4 : Keeps P s₀ s4 := ⟨fun c₀ => { h3.canon c₀ with tunOwn := hown c₀ }, h3.pending, h3.variant, h3.keyCtr, h3.ids⟩
    exact h4.putTslot.pump.accept

theorem Keeps.rackOffer {d c w} (h : Keeps P s₀ s) : Keeps P s₀ (s.rackOffer d c w).2 := by
  unfold State.rackOffer
  extract_lets x o t s1 qu i r s2
  have h1 : Keeps P s₀ s1 := h.loadDescs
  have h2 : Keeps P s₀ s2 := by
    simp only [s2, r]
    split
    · exact h1.ledPoison
    · exact h1
  split
  · exact h
  split
  · exact h1.consumed
  split
  · exact h2.consumed
  split
  · exact h2
  · split
    · exact h2
    · split
      · exact h2
      · exact h2.acceptR.unrest.putRackq.frame rfl

theorem Keeps.kScupd {d p} (h : Keeps P s₀ s) : Keeps P s₀ (s.kScupd d p).2 := by
  unfold State.kScupd
  extract_lets w o t s1 word lng nf m skip cal ctl ptr ne step s2 win es sxn ctl'
  have h1 : Keeps P s₀ s1 := h.readZ.readCheck
  have h2 : Keeps P s₀ s2 := h1.write
  split
  · exact h1
  · split
    · exact h1
    · exact (h2.write : Keeps P s₀ (s2.write (.ctx d) o (toBytes 8 ctl')))

theorem Keeps.fenceEnd (h : Keeps P s₀ s) : Keeps P s₀ s.fenceEnd := by
  unfold State.fenceEnd
  refine .ite h ?_
  extract_lets cs s1
  have h1 : Keeps P s₀ s1 := .wf (h.frame rfl)
  exact .frame (h1.foldl fun _ _ h => h.changeDone) rfl

end

/-! ### The rest of the racking engine and of the dies -/

section
variable {P : Prop} {s₀ s : State}

theorem Keeps.chunkSend {d p sl} (h : Keeps P s₀ s) : Keeps P s₀ (s.chunkSend d p sl) := by
  unfold State.chunkSend
  refine .ite ?_ ?_
  · exact h
  · split
    · exact h.putTslot.chunkMsg
    · split
      · exact h
      · refine .ite ?_ ?_
        · exact .chunkMsg (.ite (.mismatch (by
              split
              · exact h.readSum
              · exact h.readSum.inocPartial)) (by
              split
              · exact h.readSum
              · exact h.readSum.inocPartial))
        · exact .pump (.putTslot (.bufStore (.chunkMsg (.ite (.mismatch (by
              split
              · exact h.readSum
              · exact h.readSum.inocPartial)) (by
              split
              · exact h.readSum
              · exact h.readSum.inocPartial)))))

theorem Answers.execChunkSend {d p sl} (h : Keeps False s₀ s) : Answers s₀ (execChunkSend d p sl s) := by
  unfold Machine.execChunkSend
  exact .ite (.next h.chunkSend) .fault

theorem Keeps.rackIssueThread {d c w} (h : Keeps P s₀ s) : Keeps P s₀ (s.rackIssueThread d c w) := by
  unfold State.rackIssueThread
  exact .ite h.rackOffer.accept (.ite h.rackOffer.hold (.ite h.rackOffer.ctxTo h.rackOffer.reject))

theorem Keeps.sendOff {d qu q i} (h : Keeps P s₀ s) : Keeps P s₀ (s.sendOff d qu q i) := by
  unfold State.sendOff
  exact .pushBody (.pushRemote (.trkPeak (.ite (.putAcc (.frame h.countSat.putRackq rfl)) (h.countSat.putRackq.frame rfl))))

theorem Keeps.hostReadEnd {d qu ok} (h : Keeps P s₀ s) : Keeps P s₀ (s.hostReadEnd d qu ok) := by
  unfold State.hostReadEnd
  split
  · exact h
  · exact .pushBody (.pushRemote (.ite h.putRackq h.putRackq.logErr))

theorem Answers.execHostCompletion {d qu ok} (h : Keeps False s₀ s) : Answers s₀ (execHostCompletion d qu ok s) := by
  unfold Machine.execHostCompletion
  exact .ite (.next h.hostReadEnd) .fault

theorem Answers.execHostCompletionTimeout {d qu us} (h : Keeps False s₀ s) : Answers s₀ (execHostCompletionTimeout d qu us s) := by
  unfold Machine.execHostCompletionTimeout
  exact .ite (.next (.ite h h.hostReadEnd)) .fault

theorem Keeps.postRemote {d c w} (h : Keeps P s₀ s) : Keeps P s₀ (s.postRemote d c w) := by
  unfold State.postRemote
  exact .ite h.rackIssueThread (.ite h.rackOffer.accept h.rackOffer.reject)

theorem Keeps.post {d c w} (h : Keeps P s₀ s) : Keeps P s₀ (s.post d c w) := by
  unfold State.post
  exact .ite h.postRemote h.postCtr.accept

theorem Answers.execIdle {d i fl} (h : Keeps False s₀ s) : Answers s₀ (execIdle d i fl s) := by
  unfold Machine.execIdle
  exact .ite (.next (.ctlFlit h (fun _ h => h))) .fault

theorem Answers.execNak {d i fl} (h : Keeps False s₀ s) : Answers s₀ (execNak d i fl s) := by
  unfold Machine.execNak
  exact .ite (.next (.ctlFlit h (fun _ h => h.nakRx))) .fault

theorem Answers.execLanestat {d i fl} (h : Keeps False s₀ s) : Answers s₀ (execLanestat d i fl s) := by
  unfold Machine.execLanestat
  exact .ite (.next (.ctlFlit h (fun _ h => h))) .fault

theorem Answers.execIdent {d i fl} (h : Keeps False s₀ s) : Answers s₀ (execIdent d i fl s) := by
  unfold Machine.execIdent
  exact .ite (.next (.ctlFlit h (fun _ h => h.identRx))) .fault

theorem Keeps.loseReqs {d qu p l} (h : Keeps P s₀ s) : Keeps P s₀ (s.loseReqs d qu p l) := by
  induction l generalizing s d qu p with
  | nil =>
    rw [State.loseReqs]
    exact h
  | cons b l ih =>
    rw [State.loseReqs]
    exact ih (.ite (.pushBody (.pushRemote (.ite (.rackStop (.ite h.putRackq h)) (.ite h.putRackq h)))) (.ite (.rackStop (.ite h.putRackq h)) (.ite h.putRackq h)))

theorem Keeps.loseQueues {p l} (h : Keeps P s₀ s) : Keeps P s₀ (loseQueues p s l) := by
  induction l generalizing p s with
  | nil =>
    rw [Machine.loseQueues]
    exact h
  | cons b l ih =>
    rw [Machine.loseQueues]
    exact ih h.loseReqs

theorem Keeps.portDown {d i} (h : Keeps P s₀ s) : Keeps P s₀ (s.portDown d i) := by
  unfold State.portDown
  exact .ite h h.bothTo.resend14.putPort.loseQueues.loseAcks.logErr.endJobs

theorem Answers.execPortDown {d i} (h : Keeps False s₀ s) : Answers s₀ (execPortDown d i s) := by
  unfold Machine.execPortDown
  exact .ite (.next h.portDown) .fault

theorem Keeps.rdataRx {d i ch m} (h : Keeps P s₀ s) : Keeps P s₀ (s.rdataRx d i ch m) := by
  unfold State.rdataRx
  dsimp only
  split
  · exact h.consume
  · exact .ite h.consume.rackStop.dropReq h.consume.putRackq.pushRemote.pushBody

theorem Keeps.watchdog {d kind x ms} (h : Keeps P s₀ s) : Keeps P s₀ (s.watchdog d kind x ms) := by
  unfold State.watchdog
  split
  · exact .ite (.wdog h (fun _ h => h)) h
  · dsimp only
    split
    · exact .wdog h (fun _ h => h)
    · exact h
  · exact .ite (.wdog h (fun _ h => h.ledFault)) h
  · exact .ite (.wdog h (fun _ h => h)) h
  · split
    · exact h
    · exact .wdog h (fun _ h => h)
  · exact h

theorem Answers.execWatchdogFire {d kind x ms} (h : Keeps False s₀ s) : Answers s₀ (execWatchdogFire d kind x ms s) := by
  unfold Machine.execWatchdogFire
  exact .ite (.next h.watchdog) .fault

theorem Keeps.kpush {d c x w} (h : Keeps P s₀ s) : Keeps P s₀ (s.kpush d c x w) := by
  unfold State.kpush
  split
  · refine .ite ?_ ?_
    · exact h.rejectPush
    · refine .ite ?_ ?_
      · exact h.rackOffer.done.accept
      · exact .ite h.rackOffer.rejectPush (.ite h.rackOffer.ctxTo h.rackOffer.rejectPush)
  · exact h

theorem Keeps.ketDone {d k p} (h : Keeps P s₀ s) : Keeps P s₀ (s.ketDone d k p).2 := by
  unfold State.ketDone
  split
  · exact h.kLd
  · exact h.kSt
  · exact h.kLdc
  · exact h.kStc
  · exact h.kPack
  · exact h.kTop
  · exact h.kScupd
  · exact h

theorem Keeps.ketComplete {d k} (h : Keeps P s₀ s) : Keeps P s₀ (s.ketComplete d k) := by
  unfold State.ketComplete
  split
  · exact h
  · dsimp only
    split
    · exact h.ketDone.putKcore.ketStop
    · exact h.ketDone.putKcore.done.ctxRetire

theorem Answers.execKettleGroupComplete {d k} (h : Keeps False s₀ s) : Answers s₀ (execKettleGroupComplete d k s) := by
  unfold Machine.execKettleGroupComplete
  exact .ite (.next h.ketComplete) .fault

theorem Keeps.islLink {d i} (h : Keeps P s₀ s) : Keeps P s₀ (s.islLink d i) := by
  unfold State.islLink
  exact h.bothTo.portDown.restore.startTrain

theorem Keeps.isl {d i} (h : Keeps P s₀ s) : Keeps P s₀ (s.isl d i) := by
  unfold State.isl
  exact .ite h.unrest.islVat (.ite h.unrest.islKettle h.unrest.islLink)

theorem Answers.execIslandReset {d i} (h : Keeps False s₀ s) : Answers s₀ (execIslandReset d i s) := by
  unfold Machine.execIslandReset
  exact .ite .fault (.next (.ite h.isl h))

theorem Answers.execFenceComplete (h : Keeps False s₀ s) : Answers s₀ (execFenceComplete s) := by
  unfold Machine.execFenceComplete
  exact .next h.fenceEnd

end

/-! ### The rows of the engines, of the host and of the mailboxes -/

section
variable {P : Prop} {s₀ s : State}

theorem Keeps.issuePlaced {d qu q i} (h : Keeps P s₀ s) : Keeps P s₀ (s.issuePlaced d qu q i).1 := by
  unfold State.issuePlaced
  extract_lets body sp dp
  split
  · exact h.rackStop
  · exact h.rackStop
  · split
    · exact h.rackStop
    · split
      · exact h.rackStop
      · split
        · exact h.putRackq
        · split
          · exact h
          · split
            · exact h.sendStop
            · exact h.sendReads.sendOff

theorem Keeps.reqEffect {d qu q bs zs} (h : Keeps P s₀ s) : Keeps P s₀ (s.reqEffect d qu q bs zs) := by
  unfold State.reqEffect
  extract_lets fin x t s1 s2
  have hfin : ∀ {t}, Keeps P s₀ t → Keeps P s₀ (fin t) := fun ht => ht.dropReq.pushHeld
  have h1 : Keeps P s₀ s1 := .ite h.writeDsts h.writeDsts.rackStop
  have h2 : Keeps P s₀ s2 := by
    refine .ite ?_ (.ite h1.tunWrote h1)
    split
    · exact h1
    · exact h1.putRackq
  refine .ite (hfin h.idxArrive) (.ite (hfin h.markArrive) (.ite (hfin h.tunRead) (.ite (.ite (hfin h) (.ite ?_ ?_)) (hfin h2))))
  · have hl : Lands P s₀ (s.landDisp x.off q.tag q.aux bs zs) := .landDisp h
    split
    · exact h
    · exact hfin h.rackStop
    · exact hfin h
    · next t ht => exact hfin (hl t ht)
  · exact .ite (hfin h.landNotice) (.ite (hfin h.postCtr) (hfin h.rackStop))

theorem Keeps.longEnd {f l t} (h : Keeps P s₀ s) (ht : s.longEnd f l = some t) : Keeps P s₀ t := by
  have copy : ∀ t, s.copyFinish f l = some t → Keeps P s₀ t := by
    intro t ht
    unfold State.copyFinish at ht
    split at ht
    · cases ht
    · split at ht
      · cases ht
        exact h.endLong
      · split at ht
        · cases ht
          exact h.copyGone.endLong
        · cases ht
  unfold State.longEnd at ht
  split at ht
  · exact copy t ht
  · split at ht
    · cases ht
      exact h.endLong
    · split at ht
      · cases ht; exact h.logReadEnd
      · cases ht; exact h.stateSaveEnd
      · cases ht; exact h.stateLoadEnd
      · split at ht
        · cases ht
        · cases ht; exact h.recipeEnd
      · cases ht; exact h.protReadEnd

theorem Answers.execLongCommandEnd {f} (h : Keeps False s₀ s) : Answers s₀ (execLongCommandEnd f s) := by
  unfold Machine.execLongCommandEnd
  refine .ite .fault (.ite (.next h) (.next ?_))
  cases ht : (s.fn f).longs.findSome? (s.longEnd f) with
  | none => exact h
  | some t =>
    obtain ⟨l, -, hl⟩ := List.exists_of_findSome?_eq_some ht
    exact h.longEnd hl

theorem Answers.issue {eng opc aux d c} {body : InstrWord → State} (h : Keeps False s₀ s) (hb : ∀ w, Keeps False s₀ (body w)) :
    Answers s₀ (issue eng opc aux d c s body) := by
  unfold Machine.issue
  refine .ite .fault ?_
  split
  · exact .next h
  · exact .ite (.next h) (.ite (.next (hb _)) (.ite (.next h) (.next h.reject)))

theorem Answers.msgRow {typ d i ch} {body : Msg → State} (h : Keeps False s₀ s) (hb : ∀ m, Keeps False s₀ (body m)) :
    Answers s₀ (msgRow typ d i ch s body) := by
  unfold Machine.msgRow
  refine .ite .fault ?_
  split
  · exact .next h
  · exact .next (.ite (hb _) h)

theorem Answers.hostRow {opc f} {body : Pkt → State → State} (h : Keeps False s₀ s)
    (hb : ∀ p t, Keeps False s₀ t → Keeps False s₀ (body p t)) : Answers s₀ (hostRow opc f s body) := by
  unfold Machine.hostRow
  refine .ite .fault ?_
  have h1 : Keeps False s₀ (s.take f 0) := h.take
  dsimp only
  split
  · exact .next h1
  · refine .ite (.next h1) ?_
    split
    · exact .next h1.endCmd
    · exact .next (hb _ _ h1)

theorem Answers.mailRow {f} {body : State → State} (h : Keeps False s₀ s) (hb : ∀ t, Keeps False s₀ t → Keeps False s₀ (body t)) :
    Answers s₀ (mailRow f s body) := by
  unfold Machine.mailRow
  exact .ite .fault (.ite (.next (hb _ h)) (.next h))

theorem Keeps.modHeld {kind} (h : Keeps False s₀ s) : Keeps False s₀ (s.modHeld kind) := by
  unfold State.modHeld
  extract_lets t t1 t2 t3
  have h1 : Keeps False s t1 := (Keeps.refl s).zeroWhere.clearUnits
  have h3 : Keeps False s t3 := ⟨fun c => { h1.canon c with
    regs := mwf_resetRegs c.regs, marks := rfl, fns := rfl, ceSeen := rfl, ports := mrising_modPorts c.ports, seen := rfl,
    dieHbAge := rfl, bmrs := rfl, levels := rfl, calm := rfl, dieLevel := rfl }, h1.pending, h1.variant, Nat.le_succ _, False.elim⟩
  exact (h.trans h3).plimReset.keepMeasured

end

/-! ### Vat, racking, message and host commands -/

section
variable {P : Prop} {s₀ s : State}

theorem Answers.execSteep {d c} (h : Keeps False s₀ s) : Answers s₀ (execSteep d c s) := by
  unfold Machine.execSteep
  exact .issue h (fun _ => h.steep)

theorem Answers.execTallyReport {d c} (h : Keeps False s₀ s) : Answers s₀ (execTallyReport d c s) := by
  unfold Machine.execTallyReport
  exact .issue h (fun _ => .ite h h.tally)

theorem Answers.execTallyRescan {d c} (h : Keeps False s₀ s) : Answers s₀ (execTallyRescan d c s) := by
  unfold Machine.execTallyRescan
  exact .issue h (fun _ => .ite h h.tally)

theorem Answers.execMash {d c} (h : Keeps False s₀ s) : Answers s₀ (execMash d c s) := by
  unfold Machine.execMash
  exact .issue h (fun _ => h.mash)

theorem Answers.execSkip {d c} (h : Keeps False s₀ s) : Answers s₀ (execSkip d c s) := by
  unfold Machine.execSkip
  exact .issue h (fun _ => h.skip)

theorem Answers.execDraw {d c} (h : Keeps False s₀ s) : Answers s₀ (execDraw d c s) := by
  unfold Machine.execDraw
  exact .issue h (fun _ => h.draw)

theorem Answers.execPour {d c} (h : Keeps False s₀ s) : Answers s₀ (execPour d c s) := by
  unfold Machine.execPour
  exact .issue h (fun _ => h.pour)

theorem Answers.execCollect {d c} (h : Keeps False s₀ s) : Answers s₀ (execCollect d c s) := by
  unfold Machine.execCollect
  exact .issue h (fun _ => h.collect)

theorem Answers.rackRow {opc p d c} (h : Keeps False s₀ s) : Answers s₀ (rackRow opc p d c s) := by
  unfold Machine.rackRow
  exact .issue h (fun _ => .ite h.rackIssueThread h)

theorem Answers.execRack {d c} (h : Keeps False s₀ s) : Answers s₀ (execRack d c s) := by
  unfold Machine.execRack
  exact .rackRow h

theorem Answers.execTurn {d c} (h : Keeps False s₀ s) : Answers s₀ (execTurn d c s) := by
  unfold Machine.execTurn
  exact .rackRow h

theorem Answers.execGather {d c} (h : Keeps False s₀ s) : Answers s₀ (execGather d c s) := by
  unfold Machine.execGather
  exact .rackRow h

theorem Answers.execScatter {d c} (h : Keeps False s₀ s) : Answers s₀ (execScatter d c s) := by
  unfold Machine.execScatter
  exact .rackRow h

theorem Answers.execScatterAdd {d c} (h : Keeps False s₀ s) : Answers s₀ (execScatterAdd d c s) := by
  unfold Machine.execScatterAdd
  exact .rackRow h

theorem Answers.execScatterDispatch {d c} (h : Keeps False s₀ s) : Answers s₀ (execScatterDispatch d c s) := by
  unfold Machine.execScatterDispatch
  exact .rackRow h

theorem Answers.execScatterSlotMap {d c} (h : Keeps False s₀ s) : Answers s₀ (execScatterSlotMap d c s) := by
  unfold Machine.execScatterSlotMap
  exact .rackRow h

theorem Answers.execStash {d c} (h : Keeps False s₀ s) : Answers s₀ (execStash d c s) := by
  unfold Machine.execStash
  exact .rackRow h

theorem Answers.execUnstash {d c} (h : Keeps False s₀ s) : Answers s₀ (execUnstash d c s) := by
  unfold Machine.execUnstash
  exact .rackRow h

theorem Keeps.issueReq {d qu q i} (h : Keeps P s₀ s) : Keeps P s₀ (s.issueReq d qu q i).1 := by
  unfold State.issueReq
  dsimp only
  split
  · exact .windowPoison (.foldl h (fun _ _ h => h.readCheck))
  · exact .issuePlaced (.foldl h (fun _ _ h => h.readCheck))

theorem Keeps.completeReq {d qu q} (h : Keeps P s₀ s) : Keeps P s₀ (s.completeReq d qu q) := by
  unfold State.completeReq
  exact .ite (.ite h.dropReq.pushHeld h) (.ite h h.takeReq.reqEffect)

theorem Keeps.rackComplete {d qu n} (h : Keeps P s₀ s) : Keeps P s₀ (s.rackComplete d qu n) := by
  unfold State.rackComplete
  split
  · exact h
  · refine .ite ?_ ?_
    · exact h.completeReq
    · dsimp only
      split
      · exact h.pushHeld
      · exact h.pushHeld.completeReq

theorem Answers.execRackRequestComplete {d qu n} (h : Keeps False s₀ s) : Answers s₀ (execRackRequestComplete d qu n s) := by
  unfold Machine.execRackRequestComplete
  exact .ite (.next h.rackComplete) .fault

theorem Answers.execWreq {d i ch} (h : Keeps False s₀ s) : Answers s₀ (execWreq d i ch s) := by
  unfold Machine.execWreq
  exact .msgRow h (fun _ => h.wreqRx)

theorem Answers.execRreq {d i ch} (h : Keeps False s₀ s) : Answers s₀ (execRreq d i ch s) := by
  unfold Machine.execRreq
  exact .msgRow h (fun _ => h.rreqRx)

theorem Answers.execRdata {d i ch} (h : Keeps False s₀ s) : Answers s₀ (execRdata d i ch s) := by
  unfold Machine.execRdata
  exact .msgRow h (fun _ => h.rdataRx)

theorem Answers.execWack {d i ch} (h : Keeps False s₀ s) : Answers s₀ (execWack d i ch s) := by
  unfold Machine.execWack
  exact .msgRow h (fun _ => h.wackRx)

theorem Answers.execPostMessage {d i ch} (h : Keeps False s₀ s) : Answers s₀ (execPostMessage d i ch s) := by
  unfold Machine.execPostMessage
  exact .msgRow h (fun _ => h.postRx)

theorem Answers.execDisp {d i ch} (h : Keeps False s₀ s) : Answers s₀ (execDisp d i ch s) := by
  unfold Machine.execDisp
  exact .msgRow h (fun _ => h.dispRx)

theorem Answers.execNotice {d i ch} (h : Keeps False s₀ s) : Answers s₀ (execNotice d i ch s) := by
  unfold Machine.execNotice
  exact .msgRow h (fun _ => h.noticeRx)

theorem Answers.execHb {d i ch} (h : Keeps False s₀ s) : Answers s₀ (execHb d i ch s) := by
  unfold Machine.execHb
  exact .msgRow h (fun _ => h.hbRx)

theorem Answers.execHbr {d i ch} (h : Keeps False s₀ s) : Answers s₀ (execHbr d i ch s) := by
  unfold Machine.execHbr
  exact .msgRow h (fun _ => h.hbrRx)

theorem Answers.execPnot {d i ch} (h : Keeps False s₀ s) : Answers s₀ (execPnot d i ch s) := by
  unfold Machine.execPnot
  exact .msgRow h (fun _ => h.pnotRx)

theorem Answers.execMgmt {d i ch} (h : Keeps False s₀ s) : Answers s₀ (execMgmt d i ch s) := by
  unfold Machine.execMgmt
  exact .msgRow h (fun _ => h.mgmtRx)

theorem Answers.execAbort {d i ch} (h : Keeps False s₀ s) : Answers s₀ (execAbort d i ch s) := by
  unfold Machine.execAbort
  exact .msgRow h (fun _ => h.abortRx)

theorem Keeps.finishOuts {d n} (h : Keeps P s₀ s) : Keeps P s₀ (finishOuts d n s) := by
  induction n generalizing d s with
  | zero =>
    rw [Machine.finishOuts]
    exact h
  | succ n ih =>
    unfold Machine.finishOuts
    split
    · exact h
    · exact ih (.rackComplete (.ite h.hostReadEnd h))

theorem Keeps.cancelLongs {f k now l} (h : Keeps P s₀ s) : Keeps P s₀ (cancelLongs f k now s l) := by
  induction l generalizing f k now s with
  | nil =>
    rw [Machine.cancelLongs]
    exact h
  | cons b l ih =>
    rw [Machine.cancelLongs]
    refine .ite ?_ ?_
    · exact ih h
    · exact ih (.ite (.endLong (.copyGone (by
        split
        · exact h
        · exact h.putRackq.finishOuts))) (.putLong (.copyGone (by
        split
        · exact h
        · exact h.putRackq.finishOuts))))

theorem Keeps.cancelAll {k now} (h : Keeps P s₀ s) : Keeps P s₀ (s.cancelAll k now) := by
  unfold State.cancelAll
  exact .foldl h (fun _ _ h => h.cancelLongs)

theorem Answers.execNop {f} (h : Keeps False s₀ s) : Answers s₀ (execNop f s) := by
  unfold Machine.execNop
  exact .hostRow h (fun _ _ h => h.endCmd)

theorem Answers.execIdentify {f} (h : Keeps False s₀ s) : Answers s₀ (execIdentify f s) := by
  unfold Machine.execIdentify
  exact .hostRow h (fun _ _ h => h.endCmd)

theorem Answers.execStatus {f} (h : Keeps False s₀ s) : Answers s₀ (execStatus f s) := by
  unfold Machine.execStatus
  exact .hostRow h (fun _ _ h => h.endCmd)

theorem Answers.execSetModnum {f} (h : Keeps False s₀ s) : Answers s₀ (execSetModnum f s) := by
  unfold Machine.execSetModnum
  exact .hostRow h (fun _ _ h => .ite h.endCmd (.ite h.endCmd (.endCmd (.resendIdent h.set_modNum))))

theorem Answers.execLogRead {f} (h : Keeps False s₀ s) : Answers s₀ (execLogRead f s) := by
  unfold Machine.execLogRead
  exact .hostRow h (fun _ _ h => .ite h.endCmd (.ite h.emptyLong h.runLong))

theorem Answers.execWinSet {f} (h : Keeps False s₀ s) : Answers s₀ (execWinSet f s) := by
  unfold Machine.execWinSet
  exact .hostRow h (fun _ _ h => .ite h.endCmd (.ite h.endCmd h.winWrite))

theorem Answers.execWinClear {f} (h : Keeps False s₀ s) : Answers s₀ (execWinClear f s) := by
  unfold Machine.execWinClear
  exact .hostRow h (fun _ _ h => .ite h.endCmd h.winWrite)

theorem Answers.execCopy {f} (h : Keeps False s₀ s) : Answers s₀ (execCopy f s) := by
  unfold Machine.execCopy
  exact .hostRow h (fun _ _ h => by
      dsimp only
      split
      · exact h.copyOutside.endCmd
      · exact h.copyOutside.endCmd
      · exact .ite h.endCmd (.ite h.endCmd (.ite h.emptyLong (h.runLong.unrest.putRackq.frame rfl))))

theorem Answers.execCancel {f} (h : Keeps False s₀ s) : Answers s₀ (execCancel f s) := by
  unfold Machine.execCancel
  exact .hostRow h (fun _ _ h => by
      split
      · exact h.endCmd
      · refine .ite ?_ ?_
        · exact h.endCmd
        · exact .endCmd (.putLong (by
              split
              · exact h
              · exact h.putRackq)))

theorem Answers.execCtrPost {f} (h : Keeps False s₀ s) : Answers s₀ (execCtrPost f s) := by
  unfold Machine.execCtrPost
  exact .hostRow h (fun _ _ h => .ite h.endCmd (.ite h.endCmd h.postFor.endCmd))

theorem Answers.execCtrRead {f} (h : Keeps False s₀ s) : Answers s₀ (execCtrRead f s) := by
  unfold Machine.execCtrRead
  exact .hostRow h (fun _ _ h => .ite h.endCmd h.readCheck.endCmd)

theorem Answers.execJobStart {f} (h : Keeps False s₀ s) : Answers s₀ (execJobStart f s) := by
  unfold Machine.execJobStart
  exact .hostRow h (fun _ _ h => by
      dsimp only
      split
      · exact h.endCmd
      · exact .endCmd (.pmrExtend (.foldl h.tick.putJob.setThlog (fun _ _ h => h.jobDie))))

theorem Answers.execJobAbort {f} (h : Keeps False s₀ s) : Answers s₀ (execJobAbort f s) := by
  unfold Machine.execJobAbort
  exact .hostRow h (fun _ _ h => .ite h.hold_.beginEnd h.endCmd)

theorem Answers.stateRow {opc f} (h : Keeps False s₀ s) : Answers s₀ (stateRow opc f s) := by
  unfold Machine.stateRow
  exact .hostRow h (fun _ _ h => .ite h.endCmd (.ite h.endCmd h.runLong))

theorem Answers.execStateSave {f} (h : Keeps False s₀ s) : Answers s₀ (execStateSave f s) := by
  unfold Machine.execStateSave
  exact .stateRow h

theorem Answers.execStateLoad {f} (h : Keeps False s₀ s) : Answers s₀ (execStateLoad f s) := by
  unfold Machine.execStateLoad
  exact .stateRow h

theorem Answers.execOverlay {f} (h : Keeps False s₀ s) : Answers s₀ (execOverlay f s) := by
  unfold Machine.execOverlay
  exact .hostRow h (fun _ _ h => .ite h.endCmd (.ite h.setMode.endCmd (.ite h.endCmd h.setDiag.endCmd)))

theorem Answers.execRecipeLoad {f} (h : Keeps False s₀ s) : Answers s₀ (execRecipeLoad f s) := by
  unfold Machine.execRecipeLoad
  exact .hostRow h (fun _ _ h => by
      split
      · exact h.endCmd
      · exact .ite h.endCmd (.ite h.endCmd h.runLong))

theorem Keeps.por (h : Keeps False s₀ s) : Keeps False s₀ s.por := by
  unfold State.por
  exact .ite h (h.modHeld.wfs.wf.tick.upd rfl fun c => { c with taps := rfl })

theorem Answers.execPowerOnReset (h : Keeps False s₀ s) : Answers s₀ (execPowerOnReset s) := by
  unfold Machine.execPowerOnReset
  exact .next h.por

theorem Keeps.modReset {held} (h : Keeps False s₀ s) : Keeps False s₀ (s.modReset held) := by
  unfold State.modReset
  refine .ite ?_ ?_
  · exact h
  · exact .ite (.frame (.ite h h.modHeld.wf) rfl) (.ite (.frame (.ite h h.modHeld.wf) rfl) (.boot (.ite h h.modHeld.wf)))

theorem Answers.execModuleReset {held} (h : Keeps False s₀ s) : Answers s₀ (execModuleReset held s) := by
  unfold Machine.execModuleReset
  exact .next h.modReset

theorem Keeps.powerOff (h : Keeps False s₀ s) : Keeps False s₀ s.powerOff := by
  unfold State.powerOff
  exact h.modHeld.frame rfl

theorem Answers.execTrip {tj tst ma us} (h : Keeps False s₀ s) : Answers s₀ (execTrip tj tst ma us s) := by
  unfold Machine.execTrip
  exact .next (.ite h (h.powerOff.frame rfl))

theorem Answers.execConverterCutOff (h : Keeps False s₀ s) : Answers s₀ (execConverterCutOff s) := by
  unfold Machine.execConverterCutOff
  exact .next (.wf (h.powerOff.upd rfl fun c => { c with taps := rfl }))

theorem Answers.execPartAssign {f} (h : Keeps False s₀ s) : Answers s₀ (execPartAssign f s) := by
  unfold Machine.execPartAssign
  exact .hostRow h (fun _ _ h => h.grantCmd)

theorem Answers.execPartRevoke {f} (h : Keeps False s₀ s) : Answers s₀ (execPartRevoke f s) := by
  unfold Machine.execPartRevoke
  exact .hostRow h (fun _ _ h => h.grantCmd)

theorem Answers.execKeyGroup {f} (h : Keeps False s₀ s) : Answers s₀ (execKeyGroup f s) := by
  unfold Machine.execKeyGroup
  exact .hostRow h (fun _ _ h => h.keyCmd)

theorem Answers.execInocGrant {f} (h : Keeps False s₀ s) : Answers s₀ (execInocGrant f s) := by
  unfold Machine.execInocGrant
  exact .hostRow h (fun _ _ h => h.inocCmd)

theorem Answers.execPartCreate {f} (h : Keeps False s₀ s) : Answers s₀ (execPartCreate f s) := by
  unfold Machine.execPartCreate
  exact .hostRow h (fun _ _ h => .ite h.endCmd h.wfs.putPart.newCellarKey.endCmd)

theorem Answers.execProtRead {f} (h : Keeps False s₀ s) : Answers s₀ (execProtRead f s) := by
  unfold Machine.execProtRead
  exact .hostRow h (fun _ _ h => .ite h.endCmd h.runLong)

theorem Answers.execGetMeasurements {f} (h : Keeps False s₀ s) : Answers s₀ (execGetMeasurements f s) := by
  unfold Machine.execGetMeasurements
  exact .mailRow h (fun _ h => h.putFn)

theorem Answers.execKeyExchange {f auth key} (h : Keeps False s₀ s) : Answers s₀ (execKeyExchange f auth key s) := by
  unfold Machine.execKeyExchange
  exact .mailRow h (fun _ h => .ite h.mail (.mail (.ite (.wf (.putPart (.frame h rfl))) (h.frame rfl))))

theorem Answers.execSpdmRequest {f sess code msg} (h : Keeps False s₀ s) : Answers s₀ (execSpdmRequest f sess code msg s) := by
  unfold Machine.execSpdmRequest
  exact .mailRow h (fun _ h => .ite h.mail (.ite h.onSession.mail (.ite h.onSession.onSession.mail (.ite h.onSession.onSession.mail (.ite (h.onSession.mail.frame rfl) (.ite h.onSession.vendorReq (.ite h.onSession.sealFor h.onSession.mail)))))))

theorem Answers.execLockInterface {f sess} (h : Keeps False s₀ s) : Answers s₀ (execLockInterface f sess s) := by
  unfold Machine.execLockInterface
  exact .mailRow h (fun _ h => .ite h.mail (.ite h.mail h.wfs.mail))

theorem Answers.execStartInterface {f sess} (h : Keeps False s₀ s) : Answers s₀ (execStartInterface f sess s) := by
  unfold Machine.execStartInterface
  exact .mailRow h (fun _ h => .ite h.mail (.ite h.mail h.wf.mail))

theorem Answers.execStopInterface {f sess} (h : Keeps False s₀ s) : Answers s₀ (execStopInterface f sess s) := by
  unfold Machine.execStopInterface
  exact .mailRow h (fun _ h => .ite h.mail (.ite h.mail h.wfs.mail))

theorem Answers.execKeyProg {f sess slot key} (h : Keeps False s₀ s) : Answers s₀ (execKeyProg f sess slot key s) := by
  unfold Machine.execKeyProg
  exact .mailRow h (fun _ h => .ite h.mail (.ite h.mail (.ite h.mail (.mail (h.upd rfl fun c => { c with keys := mrising_mset _ _ c.keys })))))

theorem Answers.execIdeKm {f sess key} (h : Keeps False s₀ s) : Answers s₀ (execIdeKm f sess key s) := by
  unfold Machine.execIdeKm
  exact .mailRow h (fun _ h => .ite h.mail (.ite (.ite h.mail h.putPart.mail) (.ite h.mail h.putPart.wf.mail)))

end

/-! ### The issue and the drain of the rack queues, and the rows of the kettle and of every engine -/

section
variable {P : Prop} {s₀ s : State}

theorem Keeps.rackTry {d qu} (h : Keeps P s₀ s) : Keeps P s₀ (s.rackTry d qu).1 := by
  unfold State.rackTry
  extract_lets x
  split
  · exact h
  · split
    · split
      · exact h
      · dsimp only
        split
        · exact h.issueReq.tunIssued
        · exact h.issueReq
    · split
      · exact h
      · split
        · exact h
        · extract_lets l r s1
          have h1 : Keeps P s₀ s1 := by
            simp only [s1, r]
            split
            · exact h.ledPoison
            · exact h
          split
          · exact h1.rackPoison
          · split
            · exact h1
            · exact h1.rackStop
            · exact h1.putRackq
            · split
              · exact h1
              · exact h1.issueReq

theorem Keeps.drainReq {d qu id} (h : Keeps P s₀ s) : Keeps P s₀ (s.drainReq d qu id) := by
  unfold State.drainReq
  split
  · exact h
  · next q _ =>
    extract_lets t q' s1 s2
    have h1 : Keeps P s₀ s1 := (Keeps.putRackq h.arrivePieces).pushRemote
    have h2 : Keeps P s₀ s2 := .ite h1.sumUnit h1
    split
    · exact h2
    · dsimp only
      split
      · exact h2.putRackq
      · exact h2.putRackq.rackComplete

theorem Keeps.drainQ {d qu p n} (h : Keeps P s₀ s) : Keeps P s₀ (drainQ d qu p n s) := by
  induction n generalizing s with
  | zero => exact h
  | succ n ih =>
    rw [Machine.drainQ]
    exact .ite h (ih (h.foldl fun _ _ h => h.drainReq))

theorem Keeps.purgeQ {d qu p} (h : Keeps P s₀ s) : Keeps P s₀ (s.purgeQ d qu p) := by
  unfold State.purgeQ
  exact .putRackq h.drainQ

theorem Keeps.purgePart {p} (h : Keeps P s₀ s) : Keeps P s₀ (s.purgePart p) := by
  unfold State.purgePart
  refine Keeps.upd (.foldl (.foldl h fun _ _ h => h.foldl fun _ _ h => h.rackAbort) fun _ _ h => h.foldl fun _ _ h => h.purgeQ) rfl
    fun c => { c with
      tslots := mrising_filter _ c.tslots, tunOwn := mrising_filter _ c.tunOwn, accq := mrising_filterMap ?_ c.accq,
      kcores := mrising_filterMap ?_ c.kcores }
  all_goals
    intro e e' he
    dsimp only at he
    split at he
    · cases he
    · cases he; rfl

theorem Answers.execChunk {d i ch} (h : Keeps False s₀ s) : Answers s₀ (execChunk d i ch s) := by
  unfold Machine.execChunk
  exact .msgRow h fun _ => h.landed (.landChunk h)

theorem Answers.syncRow {opc d c} {checks : InstrWord → List (Bool × Nat)} {body : InstrWord → State} (h : Keeps False s₀ s)
    (hb : ∀ w, Keeps False s₀ (body w)) : Answers s₀ (syncRow opc d c s checks body) := by
  unfold Machine.syncRow
  refine .issue h fun w => .ite h ?_
  split
  · exact h.reject
  · exact .ite (hb w).ketGroup (hb w)

theorem Answers.ketRow {opc d c} {addr : KCore → InstrWord → Bool} {late : KCore → InstrWord → List (Bool × Nat)}
    {psn : KCore → InstrWord → Bool} {body : KCore → InstrWord → State} (h : Keeps False s₀ s) (hb : ∀ x w, Keeps False s₀ (body x w)) :
    Answers s₀ (ketRow opc d c s addr late psn body) := by
  unfold Machine.ketRow
  refine .issue h fun w => .ite h ?_
  split
  · exact h.reject
  · refine .ite h.ketPoison ?_
    split
    · exact h.reject
    · exact .ite h.ketPoison (hb _ w)

end

/-! ### Kettle groups, synchronisation and partition resets -/

section
variable {P : Prop} {s₀ s : State}

theorem Keeps.rackIssue {d qu} (h : Keeps P s₀ s) : Keeps P s₀ (s.rackIssue d qu) := by
  unfold State.rackIssue
  exact .ite h (.ite (h.rackTry.upd rfl fun c => { c with rkLast := mrising_mset _ _ c.rkLast }) h.rackTry)

theorem Answers.execRackRequestIssue {d qu} (h : Keeps False s₀ s) : Answers s₀ (execRackRequestIssue d qu s) := by
  unfold Machine.execRackRequestIssue
  exact .ite (.next h.rackIssue) .fault

theorem Answers.execPost {d c} (h : Keeps False s₀ s) : Answers s₀ (execPost d c s) := by
  unfold Machine.execPost
  exact .syncRow h (fun _ => h.post)

theorem Answers.execWait {d c} (h : Keeps False s₀ s) : Answers s₀ (execWait d c s) := by
  unfold Machine.execWait
  exact .syncRow h (fun _ => h.wait)

theorem Answers.execFence {d c} (h : Keeps False s₀ s) : Answers s₀ (execFence d c s) := by
  unfold Machine.execFence
  exact .syncRow h (fun _ => h.fence)

theorem Answers.execEnd {d c} (h : Keeps False s₀ s) : Answers s₀ (execEnd d c s) := by
  unfold Machine.execEnd
  exact .syncRow h (fun _ => h.fence)

theorem Answers.execYield {d c} (h : Keeps False s₀ s) : Answers s₀ (execYield d c s) := by
  unfold Machine.execYield
  exact .syncRow h (fun _ => h.yield)

theorem Answers.execSpawn {d c} (h : Keeps False s₀ s) : Answers s₀ (execSpawn d c s) := by
  unfold Machine.execSpawn
  exact .syncRow h (fun _ => h.spawn)

theorem Answers.laneRow {opc d c f} (h : Keeps False s₀ s) : Answers s₀ (laneRow opc d c s f) := by
  unfold Machine.laneRow
  exact .ketRow h (fun _ _ => h.ketCompute)

theorem Answers.execFadd {d c} (h : Keeps False s₀ s) : Answers s₀ (execFadd d c s) := by
  unfold Machine.execFadd
  exact .laneRow h

theorem Answers.execFmul {d c} (h : Keeps False s₀ s) : Answers s₀ (execFmul d c s) := by
  unfold Machine.execFmul
  exact .laneRow h

theorem Answers.execFfma {d c} (h : Keeps False s₀ s) : Answers s₀ (execFfma d c s) := by
  unfold Machine.execFfma
  exact .laneRow h

theorem Answers.execFmax {d c} (h : Keeps False s₀ s) : Answers s₀ (execFmax d c s) := by
  unfold Machine.execFmax
  exact .laneRow h

theorem Answers.execFmin {d c} (h : Keeps False s₀ s) : Answers s₀ (execFmin d c s) := by
  unfold Machine.execFmin
  exact .laneRow h

theorem Answers.execFsel {d c} (h : Keeps False s₀ s) : Answers s₀ (execFsel d c s) := by
  unfold Machine.execFsel
  exact .laneRow h

theorem Answers.execFcmp {d c} (h : Keeps False s₀ s) : Answers s₀ (execFcmp d c s) := by
  unfold Machine.execFcmp
  exact .laneRow h

theorem Answers.execFspec {d c} (h : Keeps False s₀ s) : Answers s₀ (execFspec d c s) := by
  unfold Machine.execFspec
  exact .laneRow h

theorem Answers.execFred {d c} (h : Keeps False s₀ s) : Answers s₀ (execFred d c s) := by
  unfold Machine.execFred
  exact .laneRow h

theorem Answers.execIadd {d c} (h : Keeps False s₀ s) : Answers s₀ (execIadd d c s) := by
  unfold Machine.execIadd
  exact .laneRow h

theorem Answers.execIsub {d c} (h : Keeps False s₀ s) : Answers s₀ (execIsub d c s) := by
  unfold Machine.execIsub
  exact .laneRow h

theorem Answers.execImul {d c} (h : Keeps False s₀ s) : Answers s₀ (execImul d c s) := by
  unfold Machine.execImul
  exact .laneRow h

theorem Answers.execIlog {d c} (h : Keeps False s₀ s) : Answers s₀ (execIlog d c s) := by
  unfold Machine.execIlog
  exact .laneRow h

theorem Answers.execMov {d c} (h : Keeps False s₀ s) : Answers s₀ (execMov d c s) := by
  unfold Machine.execMov
  exact .ketRow h (fun _ _ => .ite h.ketCompute h.ketCompute)

theorem Answers.execCvt {d c} (h : Keeps False s₀ s) : Answers s₀ (execCvt d c s) := by
  unfold Machine.execCvt
  exact .ketRow h (fun _ _ => h.cvt)

theorem Answers.execDrop {d c} (h : Keeps False s₀ s) : Answers s₀ (execDrop d c s) := by
  unfold Machine.execDrop
  exact .ketRow h (fun _ _ => h.drop)

theorem Answers.execRand {d c} (h : Keeps False s₀ s) : Answers s₀ (execRand d c s) := by
  unfold Machine.execRand
  exact .ketRow h (fun _ _ => h.rand)

theorem Answers.execMupd {d c} (h : Keeps False s₀ s) : Answers s₀ (execMupd d c s) := by
  unfold Machine.execMupd
  exact .ketRow h (fun _ _ => h.mupd)

theorem Answers.execSalu {d c} (h : Keeps False s₀ s) : Answers s₀ (execSalu d c s) := by
  unfold Machine.execSalu
  exact .ketRow h (fun _ _ => h.ketCompute)

theorem Answers.execSli {d c} (h : Keeps False s₀ s) : Answers s₀ (execSli d c s) := by
  unfold Machine.execSli
  exact .ketRow h (fun _ _ => h.ketCompute)

theorem Answers.execBr {d c} (h : Keeps False s₀ s) : Answers s₀ (execBr d c s) := by
  unfold Machine.execBr
  exact .ketRow h (fun _ _ => .ite h.ketCompute.jump h.ketCompute)

theorem Answers.execLoop {d c} (h : Keeps False s₀ s) : Answers s₀ (execLoop d c s) := by
  unfold Machine.execLoop
  exact .ketRow h (fun _ _ => .ite h.ketCompute (.ite h.ketCompute h.ketCompute.jump))

theorem Answers.execLd {d c} (h : Keeps False s₀ s) : Answers s₀ (execLd d c s) := by
  unfold Machine.execLd
  exact .ketRow h (fun _ _ => h.ketXfer)

theorem Answers.execSt {d c} (h : Keeps False s₀ s) : Answers s₀ (execSt d c s) := by
  unfold Machine.execSt
  exact .ketRow h (fun _ _ => h.ketXfer)

theorem Answers.execLdc {d c} (h : Keeps False s₀ s) : Answers s₀ (execLdc d c s) := by
  unfold Machine.execLdc
  exact .ketRow h (fun _ _ => h.ketXfer)

theorem Answers.execStc {d c} (h : Keeps False s₀ s) : Answers s₀ (execStc d c s) := by
  unfold Machine.execStc
  exact .ketRow h (fun _ _ => h.ketXfer)

theorem Answers.execPack24 {d c} (h : Keeps False s₀ s) : Answers s₀ (execPack24 d c s) := by
  unfold Machine.execPack24
  exact .ketRow h (fun _ _ => h.ketXfer)

theorem Answers.execTopk {d c} (h : Keeps False s₀ s) : Answers s₀ (execTopk d c s) := by
  unfold Machine.execTopk
  exact .ketRow h (fun _ _ => h.ketXfer)

theorem Answers.execScupd {d c} (h : Keeps False s₀ s) : Answers s₀ (execScupd d c s) := by
  unfold Machine.execScupd
  exact .ketRow h (fun _ _ => h.ketXfer)

theorem Answers.execKpush {d c} (h : Keeps False s₀ s) : Answers s₀ (execKpush d c s) := by
  unfold Machine.execKpush
  exact .ite (.ite (.next h) .fault) (.ketRow h (fun _ _ => h.kpush))

theorem Keeps.stopJobs {k cause} (h : Keeps P s₀ s) : Keeps P s₀ (s.stopJobs k cause) := by
  unfold State.stopJobs
  exact .foldl (.foldl (.foldl h (fun _ _ h => h.beginEnd)) (fun _ _ h => h.purgePart)) (fun _ _ h => h.finishJob)

theorem Keeps.prt {p} (h : Keeps False s₀ s) : Keeps False s₀ (s.prt p) := by
  unfold State.prt
  exact h.cancelAll.stopJobs.releaseSlots.dropStoppedPart.scrubPart.dropKeys.resetPartRegs.wf.putPart.newCellarKey.applyPrt.disarmCovered

theorem Answers.execPartitionReset {p} (h : Keeps False s₀ s) : Answers s₀ (execPartitionReset p s) := by
  unfold Machine.execPartitionReset
  exact .ite (.next (.ite h.absorb.prt h)) .fault

theorem Answers.execFlrVf {p} (h : Keeps False s₀ s) : Answers s₀ (execFlrVf p s) := by
  unfold Machine.execFlrVf
  exact .ite (.next (.ite (.flrRing (.ite h h.absorb.prt)) h)) .fault

theorem Keeps.sleep (h : Keeps P s₀ s) : Keeps P s₀ s.sleep := by
  unfold State.sleep
  exact .ite h (.foldl h.cancelAll.wf.stopJobs (fun _ _ h => h.freshIslands.sleepDie.deepRest))

theorem Answers.execModuleSleep (h : Keeps False s₀ s) : Answers s₀ (execModuleSleep s) := by
  unfold Machine.execModuleSleep
  exact .next h.sleep

theorem Answers.execPartDestroy {f} (h : Keeps False s₀ s) : Answers s₀ (execPartDestroy f s) := by
  unfold Machine.execPartDestroy
  exact .hostRow h (fun _ _ h => h.prt.protWait)

end

/-! ### The warm reset -/

section
variable {P : Prop} {s₀ s : State}

/-- The units and ports as a warm reset leaves them. -/
theorem Keeps.clearUnits_ports (h : Keeps P s₀ s) :
    Keeps P s₀ { s.clearUnits true with ports := s.ports.map (fun (e : Nat × Port) => (e.1, { e.2 with stopped := [] })) } := by
  have h1 : Keeps P s (s.clearUnits true) := (Keeps.refl s).clearUnits
  exact h.trans ⟨fun c => { h1.canon c with ports := mrising_map (fun _ => rfl) c.ports }, h1.pending, h1.variant, h1.keyCtr, h1.ids⟩

/-- A restore that gives the firmware's own key a new number. -/
theorem Keeps.restore_fwKey {kind scope} (h : Keeps False s₀ s) :
    Keeps False s₀ { s.restore kind scope with keyCtr := s.keyCtr + 1, fwKey := s.keyCtr + 1 } :=
  h.restore.newKeys rfl (Nat.le_succ _)

theorem Keeps.wrm (h : Keeps False s₀ s) : Keeps False s₀ s.wrm := by
  unfold State.wrm
  exact .levelSet (.applyStored (.foldl (.plimReset (.restore_fwKey (.clearUnits_ports
    h.cancelAll.stopJobs.dropWaiting.zeroWhere))) fun _ _ h => h.foldl fun _ _ h => h.wf))

end

/-! ### Resets, and every command -/

section
variable {P : Prop} {s₀ s : State}

theorem Answers.execWarmReset (h : Keeps False s₀ s) : Answers s₀ (execWarmReset s) := by
  unfold Machine.execWarmReset
  exact .next (.ite h.absorb.wrm h)

theorem Answers.execReset {f} (h : Keeps False s₀ s) : Answers s₀ (execReset f s) := by
  unfold Machine.execReset
  exact .hostRow h (fun _ _ h => .ite h.absorb.wrm.endCmd (.ite (.ite h.endCmd (.ite h.putFn h.absorb.prt.endCmd)) (.ite h.endCmd (.ite h.endCmd (.ite h.putFn h.isl.endCmd)))))

theorem Answers.execPcieHotReset (h : Keeps False s₀ s) : Answers s₀ (execPcieHotReset s) := by
  unfold Machine.execPcieHotReset
  exact .next (.ite h.absorb.wrm h)

theorem Answers.execFlrPf (h : Keeps False s₀ s) : Answers s₀ (execFlrPf s) := by
  unfold Machine.execFlrPf
  exact .next (.ite h.absorb.wrm.flrRing h)

theorem Answers.exec {i} (h : Keeps False s₀ s) : Answers s₀ (exec i s) := by
  unfold Machine.exec
  split
  · exact .execSteep h
  · exact .execMash h
  · exact .execDraw h
  · exact .execSkip h
  · exact .execTallyReport h
  · exact .execTallyRescan h
  · exact .execSteepRowCommit h
  · exact .execTallyEntryCommit h
  · exact .execGristRowRelease h
  · exact .execTallyEntryRelease h
  · exact .execPassBind h
  · exact .execInjectBeat h
  · exact .execBeatEnterVat h
  · exact .execBeatSend h
  · exact .execCreditReturnArrive h
  · exact .execBridgeBeatSend h
  · exact .execBridgeBeatLand h
  · exact .execWortWrite h
  · exact .execTallyCheck h
  · exact .execDrawRowRead h
  · exact .execVatInstructionComplete h
  · exact .execVatAbortNotice h
  · exact .execVatAbortDrainEnd h
  · exact .execLongModeSwitch h
  · exact .execHydSnap h
  · exact .execKscApplied h
  · exact .execKscSkipped h
  · exact .execFadd h
  · exact .execFmul h
  · exact .execFfma h
  · exact .execFmax h
  · exact .execFmin h
  · exact .execFsel h
  · exact .execFcmp h
  · exact .execFspec h
  · exact .execFred h
  · exact .execIadd h
  · exact .execIsub h
  · exact .execImul h
  · exact .execIlog h
  · exact .execMov h
  · exact .execCvt h
  · exact .execDrop h
  · exact .execRand h
  · exact .execMupd h
  · exact .execLd h
  · exact .execSt h
  · exact .execLdc h
  · exact .execStc h
  · exact .execKpush h
  · exact .execPack24 h
  · exact .execTopk h
  · exact .execScupd h
  · exact .execSalu h
  · exact .execSli h
  · exact .execBr h
  · exact .execLoop h
  · exact .execKettleGroupComplete h
  · exact .execAccumulateUnit h
  · exact .execPost h
  · exact .execWait h
  · exact .execWaitRelease h
  · exact .execFence h
  · exact .execFenceSatisfied h
  · exact .execSpawn h
  · exact .execYield h
  · exact .execEnd h
  · exact .execInstructionFetch h
  · exact .execContextImageUpdate h
  · exact .execWatchdogFire h
  · exact .execRack h
  · exact .execTurn h
  · exact .execGather h
  · exact .execScatter h
  · exact .execScatterAdd h
  · exact .execScatterDispatch h
  · exact .execScatterSlotMap h
  · exact .execStash h
  · exact .execUnstash h
  · exact .execRackRequestIssue h
  · exact .execRackRequestComplete h
  · exact .execRackInstructionComplete h
  · exact .execStreamTileReady h
  · exact .execStreamGateOpen h
  · exact .execRegulatorRefill h
  · exact .execTrackerEntryWaitEnd h
  · exact .execRackingAbortNotice h
  · exact .execRackingDrainReport h
  · exact .execHostCompletion h
  · exact .execHostCompletionTimeout h
  · exact .execLedgerArm h
  · exact .execLedgerCommitting h
  · exact .execLedgerClose h
  · exact .execPour h
  · exact .execPourRegister h
  · exact .execPourComplete h
  · exact .execCollect h
  · exact .execChunkSend h
  · exact .execChunkRelease h
  · exact .execCollectComplete h
  · exact .execTunAbortNotice h
  · exact .execTunDrainReport h
  · exact .execSlotStart h
  · exact .execEpochBoundary h
  · exact .execSlotSwap h
  · exact .execJobFault h
  · exact .execJobDrainComplete h
  · exact .execJobNormalEnd h
  · exact .execPoisonConsumed h
  · exact .execPatrolScrub h
  · exact .execInocArm h
  · exact .execInocDisarm h
  · exact .execInocFire h
  · exact .execFlitSend h
  · exact .execFlitReceive h
  · exact .execIdle h
  · exact .execNak h
  · exact .execNakResend h
  · exact .execRetryLimit h
  · exact .execIdent h
  · exact .execLanestat h
  · exact .execTrainComplete h
  · exact .execTrainTimeout h
  · exact .execDownRetrainTimer h
  · exact .execLaneErrorRetrain h
  · exact .execRetrainResult h
  · exact .execPortDown h
  · exact .execQlinkCableMate h
  · exact .execQlinkCableUnmate h
  · exact .execQlTrainWrite h
  · exact .execQlRetrainWrite h
  · exact .execMessageReceive h
  · exact .execWreq h
  · exact .execRreq h
  · exact .execRdata h
  · exact .execWack h
  · exact .execPostMessage h
  · exact .execDisp h
  · exact .execNotice h
  · exact .execChunk h
  · exact .execAbort h
  · exact .execHb h
  · exact .execHbr h
  · exact .execPnot h
  · exact .execMgmt h
  · exact .execHbSend h
  · exact .execHbLoss h
  · exact .execDieHeartbeatTimeout h
  · exact .execCmdtail h
  · exact .execCplhead h
  · exact .execRingEnable h
  · exact .execRingRestart h
  · exact .execStatusWordUpdate h
  · exact .execLongCommandEnd h
  · exact .execNop h
  · exact .execIdentify h
  · exact .execStatus h
  · exact .execSetModnum h
  · exact .execReset h
  · exact .execLogRead h
  · exact .execWinSet h
  · exact .execWinClear h
  · exact .execCopy h
  · exact .execCancel h
  · exact .execJobStart h
  · exact .execJobAbort h
  · exact .execStateSave h
  · exact .execStateLoad h
  · exact .execCtrPost h
  · exact .execCtrRead h
  · exact .execRecipeLoad h
  · exact .execOverlay h
  · exact .execPartCreate h
  · exact .execPartAssign h
  · exact .execPartRevoke h
  · exact .execPartDestroy h
  · exact .execKeyGroup h
  · exact .execInocGrant h
  · exact .execProtRead h
  · exact .execGetMeasurements h
  · exact .execKeyExchange h
  · exact .execSpdmRequest h
  · exact .execLockInterface h
  · exact .execStartInterface h
  · exact .execStopInterface h
  · exact .execKeyProg h
  · exact .execIdeKm h
  · exact .execProtectionFence h
  · exact .execDieTableSwitch h
  · exact .execFenceComplete h
  · exact .execFenceAccessTimeout h
  · exact .execCommitStart h
  · exact .execCommitRetry h
  · exact .execPowerOnReset h
  · exact .execModuleReset h
  · exact .execSelfTestDeadline h
  · exact .execWarmReset h
  · exact .execPartitionReset h
  · exact .execIslandReset h
  · exact .execPcieHotReset h
  · exact .execFlrPf h
  · exact .execFlrVf h
  · exact .execThrottleEvaluation h
  · exact .execInputCurrentThrottle h
  · exact .execThrottleApply h
  · exact .execTrip h
  · exact .execTelemetrySample h
  · exact .execPgoodFall h
  · exact .execIslandRestEnter h
  · exact .execIslandWake h
  · exact .execDieDormantEnter h
  · exact .execDieWake h
  · exact .execModuleSleep h
  · exact .execModuleWake h
  · exact .execPcieAtomicRequest h
  · exact .execRegisterWrite h
  · exact .execRegisterClearingRead h
  · exact .execSmbusIdentityRead h
  · exact .execSmbusStateRead h
  · exact .execSmbusPowerRead h
  · exact .execSmbusTelemetryRead h
  · exact .execSmbusHoldupRead h
  · exact .execFlashExt h
  · exact .execExtest h
  · exact .execSamplePreload h
  · exact .execIdcode h
  · exact .execClamp h
  · exact .execHighz h
  · exact .execExtestPulse h
  · exact .execExtestTrain h
  · exact .execBypass h
  · exact .execPgoodRise h
  · exact .execConverterCutOff h
  · exact .execCommitEnd h
  · exact .execDieHeartbeatExchange h

end

/-! ## Every step -/

/-- A step runs the command at the front of its queue, or idles. -/
theorem stepsTo_iff {s t : State} :
    stepsTo s t ↔ (s.pending = [] ∧ t = s) ∨ ∃ c cs, s.pending = c :: cs ∧ exec c { s with pending := cs } = .next t := by
  unfold stepsTo step
  cases hp : s.pending with
  | nil => simp [eq_comm]
  | cons c cs => simp

/-- What a command keeps, every step keeps. -/
theorem exec_keeps {c : Instr} {s t : State} (h : exec c s = .next t) : Keeps False s t :=
  Answers.exec (Keeps.refl s) t h

/-- Settles O59: every command keeps the canonical form, by the lemma of each operation that it runs. -/
theorem stepKeepsTheCanonicalForm : Obligations.StepKeepsTheCanonicalForm := by
  intro s t hs h
  rcases stepsTo_iff.mp h with ⟨-, rfl⟩ | ⟨c, cs, -, hc⟩
  · exact hs
  · exact State.canon_iff.mpr ((exec_keeps hc).canon { State.canon_iff.mp hs with })

/-- Settles O60: a command leaves the queue it is given, the variant, and the numbers of the cellar keys. -/
theorem stepKeepsTheModuleAndConsumesOneCommand : Obligations.StepKeepsTheModuleAndConsumesOneCommand := by
  intro s t h
  rcases stepsTo_iff.mp h with ⟨hp, rfl⟩ | ⟨c, cs, hp, hc⟩
  · simp [hp]
  · have hk := exec_keeps hc
    exact ⟨by rw [hk.pending, hp, List.tail_cons], hk.variant, hk.keyCtr⟩

/-- Settles O56: the two branches of a step. -/
theorem stepRunsTheFrontCommand : Obligations.StepRunsTheFrontCommand := by
  intro s c cs
  refine ⟨fun h => ?_, fun h => ?_⟩ <;> simp only [step, h]

end Sys2Proof.Machine
end

section
/-!
PROOFS. Commands and the units that they name (00 R3, R5).
-/
namespace Sys2Proof.Machine

/-! ## A command runs when its units are present -/

/-- The outcome goes on where the units are present (g), and else stops as a fault of an absent unit. -/
def Serves (g : Bool) (o : Host.Outcome State Fault Refusal) : Prop :=
  (g = true → ∃ t, o = .next t) ∧ (g = false → o = .fault .absentUnit)

section
variable {g : Bool} {s : State} {o : Host.Outcome State Fault Refusal}

theorem Serves.of_next (h : ∃ t, o = .next t) : Serves true o := ⟨fun _ => h, fun hg => (nomatch hg)⟩

theorem Serves.of_fault (h : o = .fault .absentUnit) : Serves false o := ⟨fun hg => (nomatch hg), fun _ => h⟩

theorem Serves.next : Serves true (.next s) := .of_next ⟨s, rfl⟩

theorem Serves.guard {p : Prop} [Decidable p] (hg : g = true ↔ p) : Serves g (if p then .next s else .fault .absentUnit) := by
  refine ⟨fun h => ⟨s, if_pos (hg.mp h)⟩, fun h => if_neg fun hp => ?_⟩
  rw [hg.mpr hp] at h
  cases h

theorem Serves.absent {p : Prop} [Decidable p] (hg : g = false ↔ p) (ho : ¬ p → ∃ t, o = .next t) :
    Serves g (if p then .fault .absentUnit else o) := by
  refine ⟨fun h => ?_, fun h => if_pos (hg.mp h)⟩
  have hp : ¬ p := fun hp => by rw [hg.mpr hp] at h; cases h
  rw [if_neg hp]
  exact ho hp

theorem Serves.guard_and {p : Prop} [Decidable p] (ho : Serves g o) :
    Serves (decide p && g) (if p then o else .fault .absentUnit) := by
  by_cases hp : p
  · simpa [hp] using ho
  · simpa [hp] using Serves.of_fault rfl

theorem Serves.issue {eng opc : Nat → Bool} {aux d c : Nat} {body : InstrWord → State} :
    Serves (s.hasCtx d c) (issue eng opc aux d c s body) := by
  unfold Machine.issue
  refine .absent (by simp) fun _ => ?_
  split
  · exact ⟨_, rfl⟩
  · split_ifs <;> exact ⟨_, rfl⟩

theorem Serves.msgRow {typ d i ch : Nat} {body : Msg → State} :
    Serves (s.hasPort d i && decide (ch < 15)) (msgRow typ d i ch s body) := by
  unfold Machine.msgRow
  refine .absent (by simp [imp_iff_not_or]) fun _ => ?_
  split <;> exact ⟨_, rfl⟩

theorem Serves.hostRow {opc f : Nat} {body : Pkt → State → State} : Serves (decide (f < 9)) (hostRow opc f s body) := by
  unfold Machine.hostRow
  refine .absent (by simp) fun _ => ?_
  dsimp only
  split
  · exact ⟨_, rfl⟩
  · split
    · exact ⟨_, rfl⟩
    · split <;> exact ⟨_, rfl⟩

theorem Serves.mailRow {f : Nat} {body : State → State} : Serves (decide (f < 9)) (mailRow f s body) := by
  unfold Machine.mailRow
  refine .absent (by simp) fun _ => ?_
  split_ifs <;> exact ⟨_, rfl⟩

theorem Serves.regRow {q : Requester} {d : Nat} {t u : State} :
    Serves (regArrives s.nDies q d)
      (if ! s.hasReq q then .fault .absentUnit
        else if ! s.hasDie d then (if isBar q ∧ d < 8 then .next t else .fault .absentUnit)
        else .next u) := by
  have hg : regArrives s.nDies q d = (s.hasReq q && (s.hasDie d || (isBar q && decide (d < 8)))) := by
    cases q <;> simp [regArrives, State.hasReq, State.hasDie, isBar]
  rw [hg]
  cases s.hasReq q with
  | false => exact .of_fault rfl
  | true =>
    cases s.hasDie d with
    | true => exact .next
    | false => exact .guard (by simp)

theorem Serves.regWriteRow {q : Requester} {d off w v : Nat} : Serves (regArrives s.nDies q d) (regWriteRow q d off w v s) := .regRow

theorem Serves.rackRow {opc d c : Nat} {p : InstrWord → Bool} : Serves (s.hasCtx d c) (rackRow opc p d c s) := .issue

theorem Serves.syncRow {opc d c : Nat} {checks : InstrWord → List (Bool × Nat)} {body : InstrWord → State} :
    Serves (s.hasCtx d c) (syncRow opc d c s checks body) := .issue

theorem Serves.ketRow {opc d c : Nat} {addr : KCore → InstrWord → Bool} {late : KCore → InstrWord → List (Bool × Nat)}
    {psn : KCore → InstrWord → Bool} {body : KCore → InstrWord → State} : Serves (s.hasCtx d c) (ketRow opc d c s addr late psn body) := .issue

theorem Serves.laneRow {opc d c : Nat} {f : KCore → InstrWord → List (Nat × Word32 × Bool)} :
    Serves (s.hasCtx d c) (laneRow opc d c s f) := .ketRow

theorem Serves.stateRow {opc f : Nat} : Serves (decide (f < 9)) (stateRow opc f s) := .hostRow

theorem Serves.execKpush {d c : Nat} : Serves (s.hasCtx d c) (execKpush d c s) := by
  unfold Machine.execKpush
  split
  · exact .guard Iff.rfl
  · exact .ketRow

theorem scrubPlace_isSome {d cw : Nat} : (scrubPlace d cw).isSome = decide (cw < 2 ^ 25 + 2 ^ 21 + 5 * 2 ^ 29) := by
  unfold scrubPlace stackBytes
  rw [Bool.eq_iff_iff, decide_eq_true_iff]
  dsimp only
  split
  · next h => exact iff_of_true rfl (by omega)
  · split
    · next h => exact iff_of_true rfl (by omega)
    · split
      · next h => exact iff_of_true rfl (by omega)
      · next h => exact iff_of_false Bool.false_ne_true (by omega)

theorem Serves.execPatrolScrub {d cw : Nat} :
    Serves (s.hasDie d && decide (cw < 2 ^ 25 + 2 ^ 21 + 5 * 2 ^ 29)) (execPatrolScrub d cw s) := by
  unfold Machine.execPatrolScrub
  rw [← scrubPlace_isSome (d := d)]
  cases s.hasDie d with
  | false => exact .of_fault rfl
  | true =>
    cases scrubPlace d cw with
    | none => exact .of_fault rfl
    | some _ => exact .next

end

end Sys2Proof.Machine
end

section
/-!
PROOFS. Every command runs where its units are present (00 R3, R5).
-/
namespace Sys2Proof.Machine

theorem Serves.execSteep {d c : Nat} {s : State} : Serves (s.hasCtx d c) (Machine.execSteep d c s) := by
  unfold Machine.execSteep
  exact .issue

theorem Serves.execMash {d c : Nat} {s : State} : Serves (s.hasCtx d c) (Machine.execMash d c s) := by
  unfold Machine.execMash
  exact .issue

theorem Serves.execDraw {d c : Nat} {s : State} : Serves (s.hasCtx d c) (Machine.execDraw d c s) := by
  unfold Machine.execDraw
  exact .issue

theorem Serves.execSkip {d c : Nat} {s : State} : Serves (s.hasCtx d c) (Machine.execSkip d c s) := by
  unfold Machine.execSkip
  exact .issue

theorem Serves.execTallyReport {d c : Nat} {s : State} : Serves (s.hasCtx d c) (Machine.execTallyReport d c s) := by
  unfold Machine.execTallyReport
  exact .issue

theorem Serves.execTallyRescan {d c : Nat} {s : State} : Serves (s.hasCtx d c) (Machine.execTallyRescan d c s) := by
  unfold Machine.execTallyRescan
  exact .issue

theorem Serves.execPour {d c : Nat} {s : State} : Serves (s.hasCtx d c) (Machine.execPour d c s) := by
  unfold Machine.execPour
  exact .issue

theorem Serves.execCollect {d c : Nat} {s : State} : Serves (s.hasCtx d c) (Machine.execCollect d c s) := by
  unfold Machine.execCollect
  exact .issue

theorem Serves.execNop {f : Nat} {s : State} : Serves (decide (f < 9)) (Machine.execNop f s) := by
  unfold Machine.execNop
  exact .hostRow

theorem Serves.execIdentify {f : Nat} {s : State} : Serves (decide (f < 9)) (Machine.execIdentify f s) := by
  unfold Machine.execIdentify
  exact .hostRow

theorem Serves.execStatus {f : Nat} {s : State} : Serves (decide (f < 9)) (Machine.execStatus f s) := by
  unfold Machine.execStatus
  exact .hostRow

theorem Serves.execSetModnum {f : Nat} {s : State} : Serves (decide (f < 9)) (Machine.execSetModnum f s) := by
  unfold Machine.execSetModnum
  exact .hostRow

theorem Serves.execReset {f : Nat} {s : State} : Serves (decide (f < 9)) (Machine.execReset f s) := by
  unfold Machine.execReset
  exact .hostRow

theorem Serves.execLogRead {f : Nat} {s : State} : Serves (decide (f < 9)) (Machine.execLogRead f s) := by
  unfold Machine.execLogRead
  exact .hostRow

theorem Serves.execWinSet {f : Nat} {s : State} : Serves (decide (f < 9)) (Machine.execWinSet f s) := by
  unfold Machine.execWinSet
  exact .hostRow

theorem Serves.execWinClear {f : Nat} {s : State} : Serves (decide (f < 9)) (Machine.execWinClear f s) := by
  unfold Machine.execWinClear
  exact .hostRow

theorem Serves.execCopy {f : Nat} {s : State} : Serves (decide (f < 9)) (Machine.execCopy f s) := by
  unfold Machine.execCopy
  exact .hostRow

theorem Serves.execCancel {f : Nat} {s : State} : Serves (decide (f < 9)) (Machine.execCancel f s) := by
  unfold Machine.execCancel
  exact .hostRow

theorem Serves.execJobStart {f : Nat} {s : State} : Serves (decide (f < 9)) (Machine.execJobStart f s) := by
  unfold Machine.execJobStart
  exact .hostRow

theorem Serves.execJobAbort {f : Nat} {s : State} : Serves (decide (f < 9)) (Machine.execJobAbort f s) := by
  unfold Machine.execJobAbort
  exact .hostRow

theorem Serves.execCtrPost {f : Nat} {s : State} : Serves (decide (f < 9)) (Machine.execCtrPost f s) := by
  unfold Machine.execCtrPost
  exact .hostRow

theorem Serves.execCtrRead {f : Nat} {s : State} : Serves (decide (f < 9)) (Machine.execCtrRead f s) := by
  unfold Machine.execCtrRead
  exact .hostRow

theorem Serves.execRecipeLoad {f : Nat} {s : State} : Serves (decide (f < 9)) (Machine.execRecipeLoad f s) := by
  unfold Machine.execRecipeLoad
  exact .hostRow

theorem Serves.execOverlay {f : Nat} {s : State} : Serves (decide (f < 9)) (Machine.execOverlay f s) := by
  unfold Machine.execOverlay
  exact .hostRow

theorem Serves.execPartCreate {f : Nat} {s : State} : Serves (decide (f < 9)) (Machine.execPartCreate f s) := by
  unfold Machine.execPartCreate
  exact .hostRow

theorem Serves.execPartAssign {f : Nat} {s : State} : Serves (decide (f < 9)) (Machine.execPartAssign f s) := by
  unfold Machine.execPartAssign
  exact .hostRow

theorem Serves.execPartRevoke {f : Nat} {s : State} : Serves (decide (f < 9)) (Machine.execPartRevoke f s) := by
  unfold Machine.execPartRevoke
  exact .hostRow

theorem Serves.execPartDestroy {f : Nat} {s : State} : Serves (decide (f < 9)) (Machine.execPartDestroy f s) := by
  unfold Machine.execPartDestroy
  exact .hostRow

theorem Serves.execKeyGroup {f : Nat} {s : State} : Serves (decide (f < 9)) (Machine.execKeyGroup f s) := by
  unfold Machine.execKeyGroup
  exact .hostRow

theorem Serves.execInocGrant {f : Nat} {s : State} : Serves (decide (f < 9)) (Machine.execInocGrant f s) := by
  unfold Machine.execInocGrant
  exact .hostRow

theorem Serves.execProtRead {f : Nat} {s : State} : Serves (decide (f < 9)) (Machine.execProtRead f s) := by
  unfold Machine.execProtRead
  exact .hostRow

theorem Serves.execFadd {d c : Nat} {s : State} : Serves (s.hasCtx d c) (Machine.execFadd d c s) := by
  unfold Machine.execFadd
  exact .laneRow

theorem Serves.execFmul {d c : Nat} {s : State} : Serves (s.hasCtx d c) (Machine.execFmul d c s) := by
  unfold Machine.execFmul
  exact .laneRow

theorem Serves.execFfma {d c : Nat} {s : State} : Serves (s.hasCtx d c) (Machine.execFfma d c s) := by
  unfold Machine.execFfma
  exact .laneRow

theorem Serves.execFmax {d c : Nat} {s : State} : Serves (s.hasCtx d c) (Machine.execFmax d c s) := by
  unfold Machine.execFmax
  exact .laneRow

theorem Serves.execFmin {d c : Nat} {s : State} : Serves (s.hasCtx d c) (Machine.execFmin d c s) := by
  unfold Machine.execFmin
  exact .laneRow

theorem Serves.execFsel {d c : Nat} {s : State} : Serves (s.hasCtx d c) (Machine.execFsel d c s) := by
  unfold Machine.execFsel
  exact .laneRow

theorem Serves.execFcmp {d c : Nat} {s : State} : Serves (s.hasCtx d c) (Machine.execFcmp d c s) := by
  unfold Machine.execFcmp
  exact .laneRow

theorem Serves.execFspec {d c : Nat} {s : State} : Serves (s.hasCtx d c) (Machine.execFspec d c s) := by
  unfold Machine.execFspec
  exact .laneRow

theorem Serves.execIadd {d c : Nat} {s : State} : Serves (s.hasCtx d c) (Machine.execIadd d c s) := by
  unfold Machine.execIadd
  exact .laneRow

theorem Serves.execIsub {d c : Nat} {s : State} : Serves (s.hasCtx d c) (Machine.execIsub d c s) := by
  unfold Machine.execIsub
  exact .laneRow

theorem Serves.execImul {d c : Nat} {s : State} : Serves (s.hasCtx d c) (Machine.execImul d c s) := by
  unfold Machine.execImul
  exact .laneRow

theorem Serves.execFred {d c : Nat} {s : State} : Serves (s.hasCtx d c) (Machine.execFred d c s) := by
  unfold Machine.execFred
  exact .laneRow

theorem Serves.execIlog {d c : Nat} {s : State} : Serves (s.hasCtx d c) (Machine.execIlog d c s) := by
  unfold Machine.execIlog
  exact .laneRow

theorem Serves.execMov {d c : Nat} {s : State} : Serves (s.hasCtx d c) (Machine.execMov d c s) := by
  unfold Machine.execMov
  exact .ketRow

theorem Serves.execCvt {d c : Nat} {s : State} : Serves (s.hasCtx d c) (Machine.execCvt d c s) := by
  unfold Machine.execCvt
  exact .ketRow

theorem Serves.execDrop {d c : Nat} {s : State} : Serves (s.hasCtx d c) (Machine.execDrop d c s) := by
  unfold Machine.execDrop
  exact .ketRow

theorem Serves.execRand {d c : Nat} {s : State} : Serves (s.hasCtx d c) (Machine.execRand d c s) := by
  unfold Machine.execRand
  exact .ketRow

theorem Serves.execMupd {d c : Nat} {s : State} : Serves (s.hasCtx d c) (Machine.execMupd d c s) := by
  unfold Machine.execMupd
  exact .ketRow

theorem Serves.execLd {d c : Nat} {s : State} : Serves (s.hasCtx d c) (Machine.execLd d c s) := by
  unfold Machine.execLd
  exact .ketRow

theorem Serves.execSt {d c : Nat} {s : State} : Serves (s.hasCtx d c) (Machine.execSt d c s) := by
  unfold Machine.execSt
  exact .ketRow

theorem Serves.execLdc {d c : Nat} {s : State} : Serves (s.hasCtx d c) (Machine.execLdc d c s) := by
  unfold Machine.execLdc
  exact .ketRow

theorem Serves.execStc {d c : Nat} {s : State} : Serves (s.hasCtx d c) (Machine.execStc d c s) := by
  unfold Machine.execStc
  exact .ketRow

theorem Serves.execPack24 {d c : Nat} {s : State} : Serves (s.hasCtx d c) (Machine.execPack24 d c s) := by
  unfold Machine.execPack24
  exact .ketRow

theorem Serves.execTopk {d c : Nat} {s : State} : Serves (s.hasCtx d c) (Machine.execTopk d c s) := by
  unfold Machine.execTopk
  exact .ketRow

theorem Serves.execScupd {d c : Nat} {s : State} : Serves (s.hasCtx d c) (Machine.execScupd d c s) := by
  unfold Machine.execScupd
  exact .ketRow

theorem Serves.execSalu {d c : Nat} {s : State} : Serves (s.hasCtx d c) (Machine.execSalu d c s) := by
  unfold Machine.execSalu
  exact .ketRow

theorem Serves.execSli {d c : Nat} {s : State} : Serves (s.hasCtx d c) (Machine.execSli d c s) := by
  unfold Machine.execSli
  exact .ketRow

theorem Serves.execBr {d c : Nat} {s : State} : Serves (s.hasCtx d c) (Machine.execBr d c s) := by
  unfold Machine.execBr
  exact .ketRow

theorem Serves.execLoop {d c : Nat} {s : State} : Serves (s.hasCtx d c) (Machine.execLoop d c s) := by
  unfold Machine.execLoop
  exact .ketRow

theorem Serves.execGetMeasurements {f} {s : State} : Serves (decide (f < 9)) (Machine.execGetMeasurements f s) := by
  unfold Machine.execGetMeasurements
  exact .mailRow

theorem Serves.execKeyExchange {f auth key} {s : State} : Serves (decide (f < 9)) (Machine.execKeyExchange f auth key s) := by
  unfold Machine.execKeyExchange
  exact .mailRow

theorem Serves.execSpdmRequest {f sess code msg} {s : State} : Serves (decide (f < 9)) (Machine.execSpdmRequest f sess code msg s) := by
  unfold Machine.execSpdmRequest
  exact .mailRow

theorem Serves.execLockInterface {f sess} {s : State} : Serves (decide (f < 9)) (Machine.execLockInterface f sess s) := by
  unfold Machine.execLockInterface
  exact .mailRow

theorem Serves.execStartInterface {f sess} {s : State} : Serves (decide (f < 9)) (Machine.execStartInterface f sess s) := by
  unfold Machine.execStartInterface
  exact .mailRow

theorem Serves.execStopInterface {f sess} {s : State} : Serves (decide (f < 9)) (Machine.execStopInterface f sess s) := by
  unfold Machine.execStopInterface
  exact .mailRow

theorem Serves.execKeyProg {f sess slot key} {s : State} : Serves (decide (f < 9)) (Machine.execKeyProg f sess slot key s) := by
  unfold Machine.execKeyProg
  exact .mailRow

theorem Serves.execIdeKm {f sess key} {s : State} : Serves (decide (f < 9)) (Machine.execIdeKm f sess key s) := by
  unfold Machine.execIdeKm
  exact .mailRow

/-- Every command runs where the units that it names are present, and else stops. -/
theorem exec_serves (c : Instr) (s : State) : Serves (wellFormed s.nDies c) (exec c s) := by
  cases c with
  | steep d c => exact .execSteep
  | mash d c => exact .execMash
  | draw d c => exact .execDraw
  | skip d c => exact .execSkip
  | tallyReport d c => exact .execTallyReport
  | tallyRescan d c => exact .execTallyRescan
  | pour d c => exact .execPour
  | collect d c => exact .execCollect
  | steepRowCommit d v | tallyEntryCommit d v | gristRowRelease d v r | tallyEntryRelease d v | passBind d v | injectBeat d
  | beatEnterVat d v | beatSend d v | creditReturnArrive d l | bridgeBeatSend d | bridgeBeatLand d | wortWrite d v r | tallyCheck d v
  | drawRowRead d v | vatInstructionComplete d v | vatAbortNotice d v tag | vatAbortDrainEnd d v | kettleGroupComplete d k
  | accumulateUnit d k | waitRelease d c | fenceSatisfied d c | instructionFetch d c | contextImageUpdate d c us
  | watchdogFire d kind x ms | rackRequestIssue d qu | rackRequestComplete d qu n | rackInstructionComplete d qu n
  | streamTileReady d qu | streamGateOpen d qu | regulatorRefill d | trackerEntryWaitEnd d qu | rackingAbortNotice d tag
  | rackingDrainReport d tag | hostCompletion d qu ok | hostCompletionTimeout d qu us | ledgerArm d port | ledgerCommitting d port
  | ledgerClose d port | pourRegister d src | pourComplete d p sl n | chunkSend d p sl | chunkRelease d p sl | collectComplete d p sl
  | tunAbortNotice d tag | tunDrainReport d tag | slotStart d t use | epochBoundary d | slotSwap d t | inocFire d | flitSend d port
  | flitReceive d port fl dataErrs parErrs | idle d port fl | nak d port fl | nakResend d port us | retryLimit d port us
  | ident d port fl | lanestat d port fl | trainComplete d port gt gr | retrainResult d port tx ok good us | portDown d port
  | qlTrainWrite d port v | qlRetrainWrite d port | messageReceive d port ch | hbSend d | hbLoss d port us | dieTableSwitch d
  | throttleApply d | islandRestEnter d port | islandWake d port | dieDormantEnter d | dieWake d | extest d | samplePreload d v
  | idcode d | clamp d | highz d | extestPulse d | extestTrain d | bypass d =>
    exact .guard Iff.rfl
  | longModeSwitch | jobFault | jobDrainComplete tag | jobNormalEnd tag | poisonConsumed | protectionFence | fenceComplete
  | fenceAccessTimeout ms | commitStart | commitRetry | powerOnReset | moduleReset held | selfTestDeadline | warmReset | pcieHotReset
  | flrPf | throttleEvaluation | inputCurrentThrottle ma us | trip tj tst ma us | telemetrySample vin iin pin energy tel | pgoodFall
  | moduleSleep | moduleWake | smbusIdentityRead | smbusStateRead | smbusPowerRead | smbusTelemetryRead | smbusHoldupRead
  | flashExt low | pgoodRise | converterCutOff | commitEnd | dieHeartbeatExchange silent =>
    exact .next
  | hydSnap q d p set | kscApplied q d p | kscSkipped q d p =>
    exact .guard_and .regWriteRow
  | fadd d c => exact .execFadd
  | fmul d c => exact .execFmul
  | ffma d c => exact .execFfma
  | fmax d c => exact .execFmax
  | fmin d c => exact .execFmin
  | fsel d c => exact .execFsel
  | fcmp d c => exact .execFcmp
  | fspec d c => exact .execFspec
  | iadd d c => exact .execIadd
  | isub d c => exact .execIsub
  | imul d c => exact .execImul
  | fred d c => exact .execFred
  | ilog d c => exact .execIlog
  | mov d c => exact .execMov
  | cvt d c => exact .execCvt
  | drop d c => exact .execDrop
  | rand d c => exact .execRand
  | mupd d c => exact .execMupd
  | ld d c => exact .execLd
  | st d c => exact .execSt
  | ldc d c => exact .execLdc
  | stc d c => exact .execStc
  | pack24 d c => exact .execPack24
  | topk d c => exact .execTopk
  | scupd d c => exact .execScupd
  | salu d c => exact .execSalu
  | sli d c => exact .execSli
  | br d c => exact .execBr
  | loop d c => exact .execLoop
  | kpush d c =>
    exact .execKpush
  | post d c | wait d c | fence d c | spawn d c | yield d c | end_ d c =>
    exact .syncRow
  | rack d c | turn d c | gather d c | scatter d c | scatterAdd d c | scatterDispatch d c | scatterSlotMap d c | stash d c
  | unstash d c =>
    exact .rackRow
  | patrolScrub d cw =>
    exact .execPatrolScrub
  | inocArm q d | inocDisarm q d | registerWrite q d off width v =>
    exact .regWriteRow
  | trainTimeout d port us | downRetrainTimer d port us | laneErrorRetrain d port tx lane fault | qlinkCableMate d port
  | qlinkCableUnmate d port =>
    exact .absent (by simp [wellFormed, State.hasPort, State.hasDie, imp_iff_not_or]) fun _ => ⟨_, rfl⟩
  | wreq d port ch | rreq d port ch | rdata d port ch | wack d port ch | postMessage d port ch | disp d port ch | notice d port ch
  | chunk d port ch | abort d port ch | hb d port ch | hbr d port ch | pnot d port ch | mgmt d port ch =>
    exact .msgRow
  | dieHeartbeatTimeout d | islandReset d port =>
    exact .absent (by simp [wellFormed, State.hasDie]) fun _ => ⟨_, rfl⟩
  | cmdtail f v rd | cplhead f v | ringEnable f v | ringRestart f | statusWordUpdate f | partitionReset p | flrVf p
  | pcieAtomicRequest f =>
    exact .guard (by simp [wellFormed])
  | longCommandEnd f =>
    exact .absent (by simp [wellFormed]) fun _ => by split <;> exact ⟨_, rfl⟩
  | nop f => exact .execNop
  | identify f => exact .execIdentify
  | status f => exact .execStatus
  | setModnum f => exact .execSetModnum
  | reset f => exact .execReset
  | logRead f => exact .execLogRead
  | winSet f => exact .execWinSet
  | winClear f => exact .execWinClear
  | copy f => exact .execCopy
  | cancel f => exact .execCancel
  | jobStart f => exact .execJobStart
  | jobAbort f => exact .execJobAbort
  | ctrPost f => exact .execCtrPost
  | ctrRead f => exact .execCtrRead
  | recipeLoad f => exact .execRecipeLoad
  | overlay f => exact .execOverlay
  | partCreate f => exact .execPartCreate
  | partAssign f => exact .execPartAssign
  | partRevoke f => exact .execPartRevoke
  | partDestroy f => exact .execPartDestroy
  | keyGroup f => exact .execKeyGroup
  | inocGrant f => exact .execInocGrant
  | protRead f => exact .execProtRead
  | stateSave f | stateLoad f =>
    exact .stateRow
  | getMeasurements f => exact .execGetMeasurements
  | keyExchange f auth key => exact .execKeyExchange
  | spdmRequest f sess code msg => exact .execSpdmRequest
  | lockInterface f sess => exact .execLockInterface
  | startInterface f sess => exact .execStartInterface
  | stopInterface f sess => exact .execStopInterface
  | keyProg f sess slot key => exact .execKeyProg
  | ideKm f sess key => exact .execIdeKm
  | registerClearingRead q d off =>
    exact .regRow

/-- Settles O57: the rows of the engines, messages, host commands, mailboxes and registers each check the units that a command names. -/
theorem everyCommandOfAPresentUnitGoesOn : Obligations.EveryCommandOfAPresentUnitGoesOn :=
  fun s c => exec_serves c s

end Sys2Proof.Machine
end

section
/-!
PROOFS. The state right after reset.
-/
namespace Sys2Proof.Machine

/-! ## The state right after reset -/

/-- The reset value of a register does not depend on its die. -/
theorem regDefault_mod (k : Nat) : regDefault k = regDefault (k % 2 ^ 23) := by
  unfold regDefault
  rw [Nat.mod_mod]

theorem regDefault_die {d o : Nat} (h : o < 2 ^ 23) : regDefault (regKey d o) = regDefault o := by
  have hk : regKey d o % 2 ^ 23 = o := by simp only [regKey]; omega
  rw [regDefault_mod, hk]

theorem thrJobEn_reset : ∀ a, a < 16 → ∀ b, b < 16 → getF (regDefault (oThrJob (16 * a + b))) thrJobEn = 0 := by decide

theorem mget_nil {α : Type} (d : Nat → α) (k : Nat) : mget d [] k = d k := rfl

theorem State.reset_regs : State.reset.regs = [] := rfl

theorem State.reset_reg (d o : Nat) : State.reset.reg d o = regDefault (regKey d o) := by
  rw [State.reg, State.reset_regs, mget_nil]

theorem State.reset_jobEn {d tag : Nat} (h : tag < 256) : State.reset.jobEn d tag = false := by
  have he := thrJobEn_reset (tag / 16) (by omega) (tag % 16) (by omega)
  rw [Nat.div_add_mod] at he
  have ho : oThrJob tag < 2 ^ 23 := by unfold oThrJob; omega
  rw [State.jobEn, State.rf, State.reset_reg, regDefault_die ho, he]
  decide

/-- Settles O58: the state after reset lists nothing, and the reset words of the registers that are spoken of are evaluated. -/
theorem resetHoldsTheValuesOfTheSpec : Obligations.ResetHoldsTheValuesOfTheSpec := by
  have hregs : State.reset.rf 0 oErrCecfg errCecfgCethr = 1024 ∧ State.reset.rf 0 oPwrStat pwrStatLevel = 0 := by decide
  exact ⟨by decide, rfl, rfl, rfl, by decide, fun _ _ _ ht => State.reset_jobEn ht, by decide, fun _ _ => rfl,
    fun _ _ => ⟨rfl, rfl, rfl, rfl, rfl, rfl, rfl⟩, fun _ => ⟨rfl, rfl, rfl, rfl⟩, fun _ _ => ⟨rfl, rfl, rfl⟩, fun _ _ => ⟨rfl, rfl⟩, rfl, rfl,
    rfl, rfl, by decide, hregs⟩

end Sys2Proof.Machine
end

section
/-!
PROOFS. Vats: the issue of their instructions (03 R105–R107, R138).
-/
namespace Sys2Proof.Machine

/-! ## The issue of the vat instructions (03 R105–R107) -/

section
variable {s : State} {d c : Nat} {w : InstrWord} {opc : Nat}

/-- A vat instruction that a vat context presents: the row's body answers. -/
theorem vatRow_presents {aux : Nat} {body : InstrWord → State} (h : s.presents d c w) (he : ctxEng c = 0) (ho : wbits w 0 8 = opc) :
    issue (· = 0) (· = opc) aux d c s body = .next (body w) :=
  issue_presents h (decide_eq_true he) (decide_eq_true ho)

theorem exec_steep (h : s.presents d c w) (he : ctxEng c = 0) (ho : wbits w 0 8 = 0x40) : exec (.steep d c) s = .next (s.steep d c w) :=
  vatRow_presents (body := s.steep d c) h he ho

theorem exec_mash (h : s.presents d c w) (he : ctxEng c = 0) (ho : wbits w 0 8 = 0x41) : exec (.mash d c) s = .next (s.mash d c w) :=
  vatRow_presents (body := s.mash d c) h he ho

theorem exec_draw (h : s.presents d c w) (he : ctxEng c = 0) (ho : wbits w 0 8 = 0x42) : exec (.draw d c) s = .next (s.draw d c w) :=
  vatRow_presents (body := s.draw d c) h he ho

theorem exec_skip (h : s.presents d c w) (he : ctxEng c = 0) (ho : wbits w 0 8 = 0x43) : exec (.skip d c) s = .next (s.skip d c w) :=
  vatRow_presents (body := s.skip d c) h he ho

theorem exec_tallyReport (h : s.presents d c w) (he : ctxEng c = 0) (ho : wbits w 0 8 = 0x44) (hop : taOP w ≠ 1) :
    exec (.tallyReport d c) s = .next (s.tally d c w) := by
  change issue (· = 0) (· = 0x44) 3 d c s (fun w => if taOP w = 1 then s else s.tally d c w) = _
  rw [vatRow_presents h he ho, if_neg hop]

theorem exec_tallyRescan (h : s.presents d c w) (he : ctxEng c = 0) (ho : wbits w 0 8 = 0x44) (hop : taOP w ≠ 0) :
    exec (.tallyRescan d c) s = .next (s.tally d c w) := by
  change issue (· = 0) (· = 0x44) 3 d c s (fun w => if taOP w = 0 then s else s.tally d c w) = _
  rw [vatRow_presents h he ho, if_neg hop]

theorem State.steep_takes (hk : firstFail (steepChecks s d c w) = none) (hl : (s.vat d (ctxInst c)).steepQ.length < 8) :
    s.steep d c w = s.acceptSteep d c w := by
  rw [State.steep, hk]
  exact if_neg (by omega)

theorem State.steep_holds (hk : firstFail (steepChecks s d c w) = none) (hl : 8 ≤ (s.vat d (ctxInst c)).steepQ.length) :
    s.steep d c w = s.hold d c := by
  rw [State.steep, hk]
  exact if_pos hl

theorem State.steep_rejects {k : Nat} (hk : firstFail (steepChecks s d c w) = some k) : s.steep d c w = s.reject d c k 0 := by
  rw [State.steep, hk]

theorem State.mash_takes (hk : firstFail (mashChecks s d c w) = none) (hp : s.rf d oSpineMode spineModePend ≠ 1)
    (hl : (s.vat d (ctxInst c)).mashQ.length < 8) : s.mash d c w = s.acceptMash d c w := by
  rw [State.mash, hk]
  exact if_neg (by omega)

theorem State.mash_holds (hk : firstFail (mashChecks s d c w) = none) (hl : 8 ≤ (s.vat d (ctxInst c)).mashQ.length) :
    s.mash d c w = s.hold d c := by
  rw [State.mash, hk]
  exact if_pos (.inr hl)

theorem State.mash_rejects {k : Nat} (hk : firstFail (mashChecks s d c w) = some k) : s.mash d c w = s.reject d c k 1 := by
  rw [State.mash, hk]

theorem State.draw_holds (hk : firstFail (drawChecks s d c w) = none) (hl : 8 ≤ (s.vat d (ctxInst c)).drawQ.length) :
    s.draw d c w = s.hold d c := by
  rw [State.draw, hk]
  exact if_pos hl

theorem State.draw_rejects {k : Nat} (hk : firstFail (drawChecks s d c w) = some k) : s.draw d c w = s.reject d c k 2 := by
  rw [State.draw, hk]

/-- The instruction of the word enters the end of a vat's queue, or with no rows, columns or passes completes at once (03 R138). -/
theorem State.mash_enters (hk : firstFail (mashChecks s d c w) = none) (hp : s.rf d oSpineMode spineModePend ≠ 1)
    (hl : (s.vat d (ctxInst c)).mashQ.length < 8) (hn : 0 < maNCOL w) :
    s.mash d c w = (s.putVat d (ctxInst c) (({ s.vat d (ctxInst c) with
      mashQ := (s.vat d (ctxInst c)).mashQ ++ [s.vinstr d c w], seq := (s.vat d (ctxInst c)).seq + 1 } : Vat).setAccum (maHALF w)
        (BitVec.allOnes 128))).accept d c 1 true := by
  rw [State.mash_takes hk hp hl]
  simp only [State.acceptMash, enq, Nat.ne_of_gt hn, if_false]

theorem State.mash_empty (hk : firstFail (mashChecks s d c w) = none) (hp : s.rf d oSpineMode spineModePend ≠ 1)
    (hl : (s.vat d (ctxInst c)).mashQ.length < 8) (hn : maNCOL w = 0) :
    s.mash d c w = (s.putVat d (ctxInst c) { s.vat d (ctxInst c) with
      done := (s.vat d (ctxInst c)).done ++ [s.vinstr d c w], seq := (s.vat d (ctxInst c)).seq + 1 }).accept d c 1 true := by
  rw [State.mash_takes hk hp hl]
  simp only [State.acceptMash, enq, hn, if_true]

theorem State.draw_enters (hk : firstFail (drawChecks s d c w) = none) (hl : (s.vat d (ctxInst c)).drawQ.length < 8)
    (hr : 0 < drROWS w) (hn : 0 < drNCOL w) :
    s.draw d c w = (s.putVat d (ctxInst c) { s.vat d (ctxInst c) with
      drawQ := (s.vat d (ctxInst c)).drawQ ++ [s.vinstr d c w], seq := (s.vat d (ctxInst c)).seq + 1 }).accept d c 1 true := by
  simp only [State.draw, hk, Nat.not_le.mpr hl, enq, Nat.ne_of_gt hr, Nat.ne_of_gt hn, or_self, if_false]

theorem State.draw_empty (hk : firstFail (drawChecks s d c w) = none) (hl : (s.vat d (ctxInst c)).drawQ.length < 8)
    (hn : drROWS w = 0 ∨ drNCOL w = 0) :
    s.draw d c w = (s.putVat d (ctxInst c) { s.vat d (ctxInst c) with
      done := (s.vat d (ctxInst c)).done ++ [s.vinstr d c w], seq := (s.vat d (ctxInst c)).seq + 1 }).accept d c 1 true := by
  simp only [State.draw, hk, Nat.not_le.mpr hl, enq, hn, if_true, if_false]

theorem State.skip_enters (hk : wbits w 36 92 = 0) (hl : (s.vat d (ctxInst c)).mashQ.length < 8) (hn : 0 < skNPASS w) :
    s.skip d c w = (s.putVat d (ctxInst c) { s.vat d (ctxInst c) with
      mashQ := (s.vat d (ctxInst c)).mashQ ++ [s.vinstr d c w], seq := (s.vat d (ctxInst c)).seq + 1 }).accept d c 1 true := by
  simp only [State.skip, hk, Nat.not_le.mpr hl, enq, Nat.ne_of_gt hn, ne_eq, not_true, if_false]

theorem State.skip_empty (hk : wbits w 36 92 = 0) (hl : (s.vat d (ctxInst c)).mashQ.length < 8) (hn : skNPASS w = 0) :
    s.skip d c w = (s.putVat d (ctxInst c) { s.vat d (ctxInst c) with
      done := (s.vat d (ctxInst c)).done ++ [s.vinstr d c w], seq := (s.vat d (ctxInst c)).seq + 1 }).accept d c 1 true := by
  simp only [State.skip, hk, Nat.not_le.mpr hl, enq, hn, ne_eq, not_true, if_false, if_true]

theorem State.skip_holds (hk : wbits w 36 92 = 0) (hl : 8 ≤ (s.vat d (ctxInst c)).mashQ.length) : s.skip d c w = s.hold d c := by
  simp only [State.skip, hk, hl, ne_eq, not_true, if_false, if_true]

theorem State.skip_rejects (hk : wbits w 36 92 ≠ 0) : s.skip d c w = s.reject d c 1 1 := if_pos hk

theorem State.tally_enters (hk : firstFail (tallyChecks s d c w) = none) (hl : (s.vat d (ctxInst c)).steepQ.length < 8) :
    s.tally d c w = (let t := (s.putVat d (ctxInst c) { s.vat d (ctxInst c) with
      steepQ := (s.vat d (ctxInst c)).steepQ ++ [s.vinstr d c w], seq := (s.vat d (ctxInst c)).seq + 1 }).accept d c 1 true
      if (s.vat d (ctxInst c)).steepQ = [] then steepAdvance d (ctxInst c) 9 t else t) := by
  simp only [State.tally, hk, Nat.not_le.mpr hl, enq, if_false]

theorem State.tally_holds (hk : firstFail (tallyChecks s d c w) = none) (hl : 8 ≤ (s.vat d (ctxInst c)).steepQ.length) :
    s.tally d c w = s.hold d c := by
  rw [State.tally, hk]
  exact if_pos hl

theorem State.tally_rejects {k : Nat} (hk : firstFail (tallyChecks s d c w) = some k) : s.tally d c w = s.reject d c k 0 := by
  rw [State.tally, hk]

end

/-- Settles O1: each opcode's row answers with its unit's issue, and that enters, holds or rejects by its checks and its queue. -/
theorem vatInstructionsEnterTheirQueuesOrAreTurnedAway : Obligations.VatInstructionsEnterTheirQueuesOrAreTurnedAway := by
  refine ⟨fun s d c w h he => ?_, fun s d c w h he => ?_⟩
  · refine ⟨fun ho hk hl => ?_, fun ho hk hp hl hn => ?_, fun ho hk hl hr hn => ?_, fun ho hk hl hn => ?_, fun ho hk hl => ?_,
      fun ho hk hp hl hn => ?_, fun ho hk hl hn => ?_, fun ho hk hl hn => ?_⟩
    · rw [exec_steep h he ho, State.steep_takes hk hl]
      rfl
    · rw [exec_mash h he ho, State.mash_enters hk hp hl hn]
    · rw [exec_draw h he ho, State.draw_enters hk hl hr hn]
    · rw [exec_skip h he ho, State.skip_enters hk hl hn]
    · refine ⟨fun hop => ?_, fun hop => ?_⟩
      · rw [exec_tallyReport h he ho (by omega), State.tally_enters hk hl]
      · rw [exec_tallyRescan h he ho (by omega), State.tally_enters hk hl]
    · rw [exec_mash h he ho, State.mash_empty hk hp hl hn]
    · rw [exec_draw h he ho, State.draw_empty hk hl hn]
    · rw [exec_skip h he ho, State.skip_empty hk hl hn]
  · refine ⟨fun k ho hk => ?_, fun k ho hk => ?_, fun k ho hk => ?_, fun ho hk => ?_, fun ho hk hl => ?_, fun ho hk hl => ?_,
      fun ho hk hl => ?_, fun ho hk hl => ?_, fun k ho hk => ⟨fun hop => ?_, fun hop => ?_⟩,
      fun ho hk hl => ⟨fun hop => ?_, fun hop => ?_⟩⟩
    · rw [exec_steep h he ho, State.steep_rejects hk]
    · rw [exec_mash h he ho, State.mash_rejects hk]
    · rw [exec_draw h he ho, State.draw_rejects hk]
    · rw [exec_skip h he ho, State.skip_rejects hk]
    · rw [exec_steep h he ho, State.steep_holds hk hl]
    · rw [exec_mash h he ho, State.mash_holds hk hl]
    · rw [exec_draw h he ho, State.draw_holds hk hl]
    · rw [exec_skip h he ho, State.skip_holds hk hl]
    · rw [exec_tallyReport h he ho hop, State.tally_rejects hk]
    · rw [exec_tallyRescan h he ho hop, State.tally_rejects hk]
    · rw [exec_tallyReport h he ho (by omega), State.tally_holds hk hl]
    · rw [exec_tallyRescan h he ho (by omega), State.tally_holds hk hl]

end Sys2Proof.Machine
end

section
/-!
PROOFS. Threads: acceptance and its frame (10 R405, R410).
-/
namespace Sys2Proof.Machine

/-! ## Acceptance and its frame (10 R405, R410, R420) -/

/-- A part of a clean codeword is written as it is. -/
theorem State.write_clean_part {s : State} {r : Region} {o : Nat} {bs : List Byte} (hi : s.inocReads r o = false)
    (hm : s.mark r o = .clean) (hr : r ≠ .host) (hb : bs ≠ []) (hl : o % 32 + bs.length ≤ 32) (hn : bs.length < 32) :
    s.write r o bs = s.poke r o bs := by
  obtain ⟨b, bs, rfl⟩ := List.exists_cons_of_ne_nil hb
  have hk : (b :: bs).length ≤ 32 - o % 32 := by omega
  have hread : s.markRead r o = .clean := by rw [State.markRead, hi, hm]; rfl
  have hdec : s.decodeCw r o = s := by rw [State.decodeCw, hread, hi]; rfl
  have hp : s.readsPoison r o = false := by rw [State.readsPoison, hread]
  have hcw : s.writeCw r o (b :: bs) = s.poke r o (b :: bs) := by
    rw [State.writeCw, if_neg (by omega), hdec, hp]
    simp only [Bool.false_eq_true, if_false, hm, reduceCtorEq]
  have hz : (b :: bs).length / 32 + 2 = 2 := by omega
  rw [State.write, if_neg hr, hz]
  simp only [writeCws, List.take_of_length_le hk, List.drop_of_length_le hk, hcw]

/-- The end of a rest changes the islands' register alone. -/
theorem State.unrest_frame (s : State) (d i : Nat) : s.unrest d i = { s with regs := (s.unrest d i).regs } := by
  simp only [State.unrest]
  split_ifs <;> rfl

theorem State.mark_unrest (s : State) (d i : Nat) (r : Region) (o : Nat) : (s.unrest d i).mark r o = s.mark r o := by
  rw [State.unrest_frame]
  rfl

theorem State.mem_unrest (s : State) (d i : Nat) : (s.unrest d i).mem = s.mem := by rw [State.unrest_frame]

/-- The copy of a context whose instruction of n words is accepted. -/
def Ctx.accepted (x : Ctx) (n : Nat) (out : Bool) : Ctx :=
  { x with state := cREADY, pc := (x.pc + 16 * n) % 2 ^ 32, ibuf := x.ibuf.drop n, yieldCyc := 0, yielded := false,
           outst := x.outst + (if out then 1 else 0), heldus := 0, wctr := 0, wthr := 0 }

section
variable {s : State} {d c n : Nat} {out : Bool}

theorem State.accept_of_ready (h : (s.ctx d c).state = cREADY) :
    s.accept d c n out = s.putCtx d c ((s.ctx d c).accepted n out) := if_pos h

theorem State.accept_of_held (h : (s.ctx d c).state = cHOLD) :
    s.accept d c n out = s.ctxTo d c ((s.ctx d c).accepted n out) := if_neg (by rw [h]; decide)

theorem State.accept_ctxs (h : (s.ctx d c).state = cREADY ∨ (s.ctx d c).state = cHOLD) :
    (s.accept d c n out).ctxs = (s.putCtx d c ((s.ctx d c).accepted n out)).ctxs := by
  rcases h with h | h
  · rw [State.accept_of_ready h]
  · rw [State.accept_of_held h, State.ctxTo_ctxs]

/-- A context that was held and goes on writes STATE into its image, and its engine's island leaves rest. -/
theorem State.ctxTo_ready (hm : s.mark (.ctx d) (c * 64) = .clean) {x : Ctx} (hx : x.state = cREADY) :
    s.ctxTo d c x = ((s.unrest d (ctxIsland c)).putCtx d c x).poke (.ctx d) (c * 64)
      [BitVec.ofNat 8 ((s.peek (.ctx d) (c * 64)).toNat / 8 * 8 + cREADY)] := by
  have hmark : ((s.unrest d (ctxIsland c)).putCtx d c x).mark (.ctx d) (c * 64) = .clean :=
    (State.mark_unrest ..).trans hm
  rw [State.ctxTo, if_pos (.inl hx), State.rouse, if_pos (.inl hx), hx]
  exact State.write_clean_part rfl hmark (by nofun) (by nofun) (by simp only [List.length_singleton]; omega) Nat.one_lt_ofNat

end

/-- Settles O2: the context's copy is the accepted one; a READY context changes nothing else (`State.accept_of_ready`), a held one writes one
byte of its image (`State.ctxTo_ready`). -/
theorem acceptedInstructionAdvancesItsContext : Obligations.AcceptedInstructionAdvancesItsContext := by
  intro s d c n out hs hc hst x t
  have hctxs : mrising s.ctxs = true := State.canon_ctxs hs
  have ht : t.ctxs = (s.putCtx d c (x.accepted n out)).ctxs := State.accept_ctxs hst
  refine ⟨?_, fun d' c' hc' hne => ?_, fun h => ?_, fun h hm => ?_⟩
  · rw [State.ctx, ht]
    exact State.ctx_same hctxs ..
  · have hk : d' * 25600 + c' ≠ d * 25600 + c := fun he => hne (by rw [Prod.mk.injEq]; omega)
    rw [State.ctx, ht]
    exact State.ctx_ne hctxs _ hk
  · rw [show t = _ from State.accept_of_ready h]
    rfl
  · have hw : t = ((s.unrest d (ctxIsland c)).putCtx d c (x.accepted n out)).poke (.ctx d) (c * 64)
        [BitVec.ofNat 8 ((s.peek (.ctx d) (c * 64)).toNat / 8 * 8 + cREADY)] :=
      (State.accept_of_held h).trans (State.ctxTo_ready hm rfl)
    have hmem : t.mem = mset memDefault s.mem ((Region.ctx d).loc (c * 64))
        (BitVec.ofNat 8 ((s.peek (.ctx d) (c * 64)).toNat / 8 * 8 + cREADY)) := by
      rw [hw]
      exact congrArg (fun m => pokeMem (.ctx d) m (c * 64) _) (State.mem_unrest ..)
    have hrise := State.canon_mem_rising hs
    refine ⟨?_, ?_, fun r o ho => ?_⟩
    · rw [hw]
      rfl
    · have hb := (s.peek (.ctx d) (c * 64)).isLt
      rw [State.peek, hmem, mget_mset_same _ _ hrise, BitVec.toNat_ofNat, show cREADY = 1 from rfl]
      omega
    · rw [State.peek, hmem, mget_mset_ne _ hrise ho]
      rfl

end Sys2Proof.Machine
end

section
/-!
PROOFS. Vats: the commits of a STEEP (02 R69–R72).
-/
namespace Sys2Proof.Machine

/-! ## The row commits of a STEEP (02 R69–R72) -/

/-- A stored byte is read back. -/
theorem State.peek_poke_inside {s : State} (h : mrising s.mem = true) {r : Region} {o i : Nat} {bs : List Byte} (hi : i < bs.length)
    (ho : o + bs.length ≤ 2 ^ 64) : (s.poke r o bs).peek r (o + i) = bs.getD i 0 := by
  induction bs generalizing s o i with
  | nil => cases hi
  | cons b bs ih =>
    have hr : mrising (s.poke r o [b]).mem = true := mrising_mset _ _ h
    simp only [List.length_cons] at hi ho
    change ((s.poke r o [b]).poke r (o + 1) bs).peek r (o + i) = _
    cases i with
    | zero =>
      rw [State.peek_poke_outside hr (by omega) (by omega)]
      exact mget_mset_same _ _ h
    | succ i =>
      rw [← Nat.add_assoc, Nat.add_right_comm]
      exact ih hr (by omega) (by omega)

theorem mrising_pokeMem {r : Region} {m : List Host.Cell} {o : Nat} {bs : List Byte} (h : mrising m = true) :
    mrising (pokeMem r m o bs) = true := by
  induction bs generalizing m o with
  | nil => exact h
  | cons b bs ih => exact ih (mrising_mset _ _ h)

theorem exec_steepRowCommit {s : State} {d v : Nat} (h : s.hasVat d v = true) :
    exec (.steepRowCommit d v) s = .next (s.steepCommit d v) := if_pos h

theorem exec_tallyEntryCommit {s : State} {d v : Nat} (h : s.hasVat d v = true) :
    exec (.tallyEntryCommit d v) s = .next (s.tallyCommit d v) := if_pos h

theorem stBANK_lt (w : InstrWord) : stBANK w < 2 := Nat.mod_lt _ (by decide)

theorem cellBytes_length (w : InstrWord) (row : List Byte) (k : Nat) : (cellBytes w row k).length = 4 := by
  rw [cellBytes, List.length_map, List.length_range]

theorem setRow_getLsbD (m : BitVec 128) (r n : Nat) (b : Bool) (hn : n < 128) :
    (setRow m r b).getLsbD n = (if n = r then b else m.getLsbD n) := by
  have hbit : (1#128 <<< r).getLsbD n = decide (n = r) := by
    rw [BitVec.getLsbD_shiftLeft, BitVec.getLsbD_one]
    by_cases h : n = r
    · simp [h, h ▸ hn]
    · simp only [h, decide_false, hn, decide_true, Bool.true_and]
      rw [Bool.and_eq_false_iff, Bool.not_eq_false', decide_eq_true_eq]
      by_cases hlt : n < r
      · exact .inl hlt
      · exact .inr (by simp; omega)
  cases b with
  | true =>
    rw [setRow, if_pos rfl, BitVec.getLsbD_or, hbit]
    by_cases h : n = r <;> simp only [h, decide_true, decide_false, Bool.or_true, Bool.or_false, if_true, if_false]
  | false =>
    rw [setRow, if_neg Bool.false_ne_true, BitVec.getLsbD_and, BitVec.getLsbD_not, hbit]
    by_cases h : n = r <;>
      simp only [h, hn, decide_true, decide_false, Bool.not_true, Bool.not_false, Bool.and_true, Bool.and_false, if_true, if_false]

section
variable {d v q r : Nat} {w : InstrWord} {row : List Byte}

/-- A row commit stores to one memory. -/
theorem commitCells_frame (n k : Nat) (s : State) :
    commitCells d v q r w row n k s = { s with mem := (commitCells d v q r w row n k s).mem } := by
  induction n generalizing k s with
  | zero => rfl
  | succ n ih => rw [commitCells, ih]; rfl

theorem commitCells_rising {n k : Nat} {s : State} (h : mrising s.mem = true) :
    mrising (commitCells d v q r w row n k s).mem = true := by
  induction n generalizing k s with
  | zero => exact h
  | succ n ih => exact ih (mrising_pokeMem h)

/-- Bytes outside the cells that are committed stay. -/
theorem peek_commitCells_outside {n k : Nat} {s : State} (h : mrising s.mem = true) {g : Region} {o : Nat}
    (hb : ∀ j, k ≤ j → j < k + n → (r * 128 + j) * 8 + 4 * q + 4 ≤ 2 ^ 64)
    (ho : ∀ j, k ≤ j → j < k + n → ¬ (g.num = (Region.grist d v).num ∧ (r * 128 + j) * 8 + 4 * q ≤ o % 2 ^ 64 ∧
      o % 2 ^ 64 < (r * 128 + j) * 8 + 4 * q + 4)) :
    (commitCells d v q r w row n k s).peek g o = s.peek g o := by
  induction n generalizing k s with
  | zero => rfl
  | succ n ih =>
    have hk := hb k (le_refl _) (by omega)
    rw [commitCells, ih (mrising_pokeMem h) (fun j h1 h2 => hb j (by omega) (by omega)) fun j h1 h2 => ho j (by omega) (by omega)]
    exact State.peek_poke_outside h (by rwa [cellBytes_length]) (by rw [cellBytes_length]; exact ho k (le_refl _) (by omega))

/-- Every cell that is committed reads the bytes of its row. -/
theorem peek_commitCells_inside {n k j e : Nat} {s : State} (h : mrising s.mem = true) (hr : r < 128) (hq : q < 2) (hn : k + n ≤ 128)
    (hj : k ≤ j) (hjn : j < k + n) (he : e < 4) :
    (commitCells d v q r w row n k s).peek (.grist d v) ((r * 128 + j) * 8 + 4 * q + e) = (cellBytes w row j).getD e 0 := by
  induction n generalizing k s with
  | zero => omega
  | succ n ih =>
    rw [commitCells]
    by_cases hjk : j = k
    · subst hjk
      rw [peek_commitCells_outside (mrising_pokeMem h) (fun i _ _ => by omega) fun i _ _ => by omega]
      exact State.peek_poke_inside h (by rwa [cellBytes_length]) (by rw [cellBytes_length]; omega)
    · exact ih (mrising_pokeMem h) (by omega) (by omega) (by omega)

end

/-- The vat after the commit of the first row staged. -/
def Vat.rowCommitted (x : Vat) (w : InstrWord) (g : Staged) (rest : List Staged) : Vat :=
  let y : Vat := { x with staging := rest, steepRow := x.steepRow + 1,
                          tallyNew := if (tallyRows (steepRec w)).contains x.steepRow
                            then tallyAddRow (stBANK w) (steepRec w) g.bytes w 128 0 x.tallyNew else x.tallyNew }
  let m : Vat := if stBANK w = 0 then { y with mask0 := setRow y.mask0 x.steepRow g.mask, psn0 := setRow y.psn0 x.steepRow g.psn }
                 else { y with mask1 := setRow y.mask1 x.steepRow g.mask, psn1 := setRow y.psn1 x.steepRow g.psn }
  { m with psnSrc := mset (fun _ => 0) m.psnSrc (stBANK w * 128 + x.steepRow) g.src }

section
variable (x : Vat) (w : InstrWord) (g : Staged) (rest : List Staged)

theorem Vat.rowCommitted_steepRow : (x.rowCommitted w g rest).steepRow = x.steepRow + 1 := by
  unfold Vat.rowCommitted
  dsimp only
  split <;> rfl

theorem Vat.rowCommitted_staging : (x.rowCommitted w g rest).staging = rest := by
  unfold Vat.rowCommitted
  dsimp only
  split <;> rfl

theorem Vat.rowCommitted_steepQ : (x.rowCommitted w g rest).steepQ = x.steepQ := by
  unfold Vat.rowCommitted
  dsimp only
  split <;> rfl

theorem Vat.rowCommitted_steepRead : (x.rowCommitted w g rest).steepRead = x.steepRead := by
  unfold Vat.rowCommitted
  dsimp only
  split <;> rfl

theorem Vat.rowCommitted_mask : (x.rowCommitted w g rest).mask (stBANK w) = setRow (x.mask (stBANK w)) x.steepRow g.mask := by
  unfold Vat.rowCommitted Vat.mask
  by_cases h : stBANK w = 0
  · simp only [h, if_true]
  · simp only [h, if_false]

end

section
variable {s : State} {d v : Nat} {i : VInstr} {q : List VInstr} {g : Staged} {rest : List Staged}

/-- A STEEP whose rows have all been read reads no more. -/
theorem steepFill_read (n : Nat) (hq : (s.vat d v).steepQ = i :: q) (hr : 128 ≤ (s.vat d v).steepRead) : steepFill d v n s = s := by
  cases n with
  | zero => rfl
  | succ n =>
    rw [steepFill]
    simp only [hq, hr, or_true, if_true]

/-- A row commit waits for the rows of earlier grist (02 R71). -/
theorem State.steepCommit_waits (hq : (s.vat d v).steepQ = i :: q) (hg : ((steepFill d v 4 s).vat d v).staging = g :: rest)
    (hf : ((steepFill d v 4 s).vat d v).rowFree i ((steepFill d v 4 s).vat d v).steepRow = false) :
    s.steepCommit d v = steepFill d v 4 s := by
  simp only [State.steepCommit, hq, hg, hf, Bool.not_false, or_true, if_true]

theorem State.steepCommit_commits (hq : (s.vat d v).steepQ = i :: q) (ho : i.opc = 0x40)
    (hg : ((steepFill d v 4 s).vat d v).staging = g :: rest) (hr : ((steepFill d v 4 s).vat d v).steepRow < 128)
    (hf : ((steepFill d v 4 s).vat d v).rowFree i ((steepFill d v 4 s).vat d v).steepRow = true) :
    s.steepCommit d v = (let u := steepFill d v 4 s
      steepFill d v 4 ((commitCells d v (stBANK i.word) (u.vat d v).steepRow i.word g.bytes 128 0 u).putVat d v
        ((u.vat d v).rowCommitted i.word g rest))) := by
  have hn : ¬ (i.opc ≠ 0x40 ∨ 128 ≤ ((steepFill d v 4 s).vat d v).steepRow ∨
      (! ((steepFill d v 4 s).vat d v).rowFree i ((steepFill d v 4 s).vat d v).steepRow) = true) := by
    rw [hf]
    simp only [ho, ne_eq, not_true, Bool.not_true, Bool.false_eq_true, or_false, false_or]
    omega
  simp only [State.steepCommit, hq, hg, if_neg hn]
  rfl

/-- The vat after the commit of the tally entries (02 R72). -/
def Vat.tallyCommitted (x : Vat) (i : VInstr) (rest : List VInstr) : Vat :=
  let q := stBANK i.word
  let y : Vat := { x with tallyEnt := storeTally q x.tallyEnt x.tallyNew, tallyNew := [], steepQ := rest, steepRow := 0, steepRead := 0,
                          staging := [], done := x.done ++ [i] }
  let z := (y.setLive q (some (steepRec i.word))).setStruck q false
  if z.bank q = bSTEEPING then z.setBank q bREADY else z

theorem State.tallyCommit_commits {rest : List VInstr} (hq : (s.vat d v).steepQ = i :: rest) (ho : i.opc = 0x40)
    (hr : 128 ≤ (s.vat d v).steepRow) (hf : ((s.vat d v).gensBefore (stBANK i.word) i.seq).all (fun g => g.trel) = true) :
    s.tallyCommit d v = steepAdvance d v 9 (s.putVat d v ((s.vat d v).tallyCommitted i rest)) := by
  have hn : ¬ (i.opc ≠ 0x40 ∨ (s.vat d v).steepRow < 128 ∨
      (! ((s.vat d v).gensBefore (stBANK i.word) i.seq).all (fun g => g.trel)) = true) := by
    rw [hf]
    simp only [ho, ne_eq, not_true, Bool.not_true, Bool.false_eq_true, or_false, false_or]
    omega
  simp only [State.tallyCommit, hq, if_neg hn]
  rfl

theorem State.tallyCommit_waits {rest : List VInstr} (hq : (s.vat d v).steepQ = i :: rest)
    (hf : ((s.vat d v).gensBefore (stBANK i.word) i.seq).all (fun g => g.trel) = false) : s.tallyCommit d v = s := by
  simp only [State.tallyCommit, hq, hf, Bool.not_false, or_true, if_true]

theorem steepAdvance_empty (n : Nat) (h : (s.vat d v).steepQ = []) : steepAdvance d v n s = s := by
  cases n with
  | zero => rfl
  | succ n =>
    rw [steepAdvance]
    simp only [h]

end

section
variable (x : Vat) (i : VInstr) (rest : List VInstr)

/-- What the commit of the tally entries leaves of a vat: the bank becomes READY where it was STEEPING. -/
theorem Vat.tallyCommitted_bank : (x.tallyCommitted i rest).bank (stBANK i.word) =
    if x.bank (stBANK i.word) = bSTEEPING then bREADY else x.bank (stBANK i.word) := by
  unfold Vat.tallyCommitted Vat.bank Vat.setBank Vat.setStruck Vat.setLive
  by_cases h : stBANK i.word = 0
  · simp only [h, if_true]
    split <;> rfl
  · simp only [h, if_false]
    split <;> rfl

theorem Vat.tallyCommitted_live : (x.tallyCommitted i rest).live (stBANK i.word) = some (steepRec i.word) := by
  unfold Vat.tallyCommitted Vat.bank Vat.setBank Vat.setStruck Vat.setLive Vat.live
  by_cases h : stBANK i.word = 0
  · simp only [h, if_true]
    split <;> rfl
  · simp only [h, if_false]
    split <;> rfl

theorem Vat.tallyCommitted_rest : (x.tallyCommitted i rest).steepQ = rest ∧ (x.tallyCommitted i rest).steepRow = 0 ∧
    (x.tallyCommitted i rest).done = x.done ++ [i] := by
  unfold Vat.tallyCommitted Vat.bank Vat.setBank Vat.setStruck Vat.setLive
  by_cases h : stBANK i.word = 0
  · simp only [h, if_true]
    split <;> exact ⟨rfl, rfl, rfl⟩
  · simp only [h, if_false]
    split <;> exact ⟨rfl, rfl, rfl⟩

end

/-- Settles O3: the row commit is `State.steepCommit_commits`, whose stores are those of `commitCells`; the commit of the tally entries is
`State.tallyCommit_commits`. -/
theorem steepWritesItsRowsAndThenReadiesItsBank : Obligations.SteepWritesItsRowsAndThenReadiesItsBank := by
  refine ⟨fun s d v i q g rest hs hv hq ho hread hg hr hf => ?_, fun s d v i q g rest hv => ?_, fun s d v i rest hv => ?_⟩
  · intro r b
    have hmem := State.canon_mem_rising hs
    have hvats := State.canon_vats hs
    have hfill : steepFill d v 4 s = s := steepFill_read 4 hq (by omega)
    have hb : b < 2 := stBANK_lt _
    obtain ⟨z, hzdef⟩ : ∃ z, z = (s.vat d v).rowCommitted i.word g rest := ⟨_, rfl⟩
    obtain ⟨u, hudef⟩ : ∃ u, u = commitCells d v b r i.word g.bytes 128 0 s := ⟨_, rfl⟩
    have huframe : u = { s with mem := u.mem } := by rw [hudef]; exact commitCells_frame ..
    have hu : mrising u.vats = true := by rw [huframe]; exact hvats
    have hz : (u.putVat d v z).vat d v = z := State.vat_same hu ..
    rw [exec_steepRowCommit hv, State.steepCommit_commits hq ho (by rwa [hfill]) (by rwa [hfill]) (by rwa [hfill]), hfill]
    change goesOn (.next (steepFill d v 4 ((commitCells d v b r i.word g.bytes 128 0 s).putVat d v ((s.vat d v).rowCommitted i.word g rest)))) _
    rw [← hudef, ← hzdef, steepFill_read 4 (by rw [hz, hzdef, Vat.rowCommitted_steepQ]; exact hq)
      (by rw [hz, hzdef, Vat.rowCommitted_steepRead]; omega)]
    refine goesOn_next ⟨fun k e hk he => ?_, fun o ho' hout => ?_, fun g' o hg' => ?_, fun n hn => ?_, ?_, ?_, ?_, ?_⟩
    · rw [State.putVat_get_peek, hudef]
      exact peek_commitCells_inside hmem hr hb (by omega) (Nat.zero_le k) (by omega) he
    · rw [State.putVat_get_peek, hudef]
      exact peek_commitCells_outside hmem (fun j _ _ => by omega) fun j _ _ => by omega
    · rw [State.putVat_get_peek, hudef]
      exact peek_commitCells_outside hmem (fun j _ _ => by omega) fun j _ _ h => hg' h.1
    · rw [hz, hzdef, Vat.rowCommitted_mask, setRow_getLsbD _ _ _ _ hn]
    · rw [hz, hzdef, Vat.rowCommitted_steepRow]
    · rw [hz, hzdef, Vat.rowCommitted_staging]
    · rw [hz, hzdef, Vat.rowCommitted_steepQ, hq]
    · rw [huframe]
      rfl
  · intro u x r b w y m z hq ho hg hr
    refine ⟨fun hf => ?_, fun hf => ?_⟩
    · rw [exec_steepRowCommit hv, State.steepCommit_commits hq ho hg hr hf]
      rfl
    · rw [exec_steepRowCommit hv, State.steepCommit_waits hq hg hf]
  · intro x q hq ho hr
    refine ⟨fun hf => ?_, fun hf => ?_⟩
    · intro y z
      rw [exec_tallyEntryCommit hv, State.tallyCommit_commits hq ho hr hf]
      refine ⟨rfl, fun hnil hs => ?_⟩
      obtain ⟨hq', hrow, hdone⟩ := Vat.tallyCommitted_rest x i rest
      have hz : (s.putVat d v (x.tallyCommitted i rest)).vat d v = x.tallyCommitted i rest := State.vat_same (State.canon_vats hs) ..
      rw [steepAdvance_empty 9 (by rw [hz, hq', hnil])]
      refine goesOn_next ⟨fun hb => ?_, fun hb => ?_, ?_, ?_, ?_, ?_, rfl⟩
      · rw [hz, Vat.tallyCommitted_bank, if_pos hb]
      · rw [hz, Vat.tallyCommitted_bank, if_neg hb]
      · rw [hz, Vat.tallyCommitted_live]
      · rw [hz, hq', hnil]
      · rw [hz, hrow]
      · rw [hz, hdone]
    · rw [exec_tallyEntryCommit hv, State.tallyCommit_waits hq hf]

end Sys2Proof.Machine
end

section
/-!
PROOFS. The ring: credits on their way and the injection point (02 R79–R82, R89).
-/
namespace Sys2Proof.Machine

/-! ## Credits on their way (02 R89) -/

theorem exec_creditReturnArrive {s : State} {d l : Nat} (hd : s.hasDie d = true) (hl : l < 19) :
    exec (.creditReturnArrive d l) s = .next (s.creditArrive d l) :=
  if_pos (by rw [hd, decide_eq_true hl]; rfl)

theorem exec_injectBeat {s : State} {d : Nat} (hd : s.hasDie d = true) : exec (.injectBeat d) s = .next (s.inject d) := if_pos hd

section
variable {s : State} {d l : Nat}

theorem State.creditArrive_vat (hl : l < 16) (ht : 0 < (s.vat d l).credTransit) (hc : (s.vat d l).outCred < 32) :
    s.creditArrive d l = s.putVat d l
      { s.vat d l with credTransit := (s.vat d l).credTransit - 1, outCred := (s.vat d l).outCred + 1 } := by
  rw [State.creditArrive, if_pos hl]
  exact if_neg (by omega)

theorem State.creditArrive_vat_none (hl : l < 16) (ht : (s.vat d l).credTransit = 0) : s.creditArrive d l = s := by
  rw [State.creditArrive, if_pos hl]
  exact if_pos (.inl ht)

theorem State.creditArrive_inj (ht : 0 < (s.ring d).injTransit) (hc : (s.ring d).injCred < 32) :
    s.creditArrive d 16 = pumpLanding d 32 (s.putRing d
      { s.ring d with injTransit := (s.ring d).injTransit - 1, injCred := (s.ring d).injCred + 1 }) := by
  rw [State.creditArrive, if_neg (by decide), if_pos rfl]
  exact if_neg (by omega)

theorem State.creditArrive_inj_none (ht : (s.ring d).injTransit = 0) : s.creditArrive d 16 = s := by
  rw [State.creditArrive, if_neg (by decide), if_pos rfl]
  exact if_pos (.inl ht)

theorem State.creditArrive_send (ht : 0 < (s.ring d).sendTransit) (hc : (s.ring d).sendCred < 512) :
    s.creditArrive d 17 = s.putRing d
      { s.ring d with sendTransit := (s.ring d).sendTransit - 1, sendCred := (s.ring d).sendCred + 1 } := by
  rw [State.creditArrive, if_neg (by decide), if_neg (by decide), if_pos rfl]
  exact if_neg (by omega)

theorem State.creditArrive_land (ht : 0 < (s.ring d).landTransit) (hc : (s.ring d).landCred < 256) :
    s.creditArrive d 18 = s.putRing d
      { s.ring d with landTransit := (s.ring d).landTransit - 1, landCred := (s.ring d).landCred + 1 } := by
  rw [State.creditArrive, if_neg (by decide), if_neg (by decide), if_neg (by decide)]
  exact if_neg (by omega)

theorem pumpLanding_empty (n : Nat) (h : (s.ring d).landing = []) : pumpLanding d n s = s := by
  cases n with
  | zero => rfl
  | succ n =>
    rw [pumpLanding]
    simp only [h]

/-! ## The injection point (02 R79–R82) -/

theorem State.injStart_active {i : VInstr} (h : (s.ring d).inj = some i) : s.injStart d = s :=
  if_pos (by rw [h]; rfl)

theorem State.injStart_idle (h : (s.ring d).inj = none) (hw : s.injWaiting d = none) : s.injStart d = s := by
  rw [State.injStart, if_neg (by rw [h]; decide), hw]

/-- The ring is the job's: the ring state of the die with its tag. -/
theorem clearTallies_rings (d n : Nat) (s : State) : (clearTallies d n s).rings = s.rings := by
  induction n generalizing s with
  | zero => rfl
  | succ n ih => rw [clearTallies, ih]; rfl

theorem State.giveRing_ring (h : mrising s.rings = true) (tag : Nat) :
    (s.giveRing d tag).ring d = { s.ring d with ringTag := some tag } := by
  unfold State.giveRing
  split
  · next ht => rw [← ht]
  · rw [State.ring, clearTallies_rings]
    exact State.ring_same h ..

theorem State.giveRing_rising (h : mrising s.rings = true) (tag : Nat) : mrising (s.giveRing d tag).rings = true := by
  unfold State.giveRing
  split
  · exact h
  · rw [clearTallies_rings]
    exact mrising_mset _ _ h

theorem setInjdie_rings (d n : Nat) (s : State) : (setInjdie d n s).rings = s.rings := by
  induction n generalizing s with
  | zero => rfl
  | succ n ih => rw [setInjdie, ih]; rfl

/-- The injection of the oldest MASH that waits starts (02 R81). -/
theorem State.injStart_ring {i : VInstr} (hr : mrising s.rings = true) (h : (s.ring d).inj = none) (hw : s.injWaiting d = some i)
    (hf : s.ringFor d i.tag = true) (hl : (s.ring d).long = true → s.injActive = false ∧ s.injTurn = some d) :
    (s.injStart d).ring d = { s.ring d with ringTag := some i.tag, inj := some i, injNext := 0 } := by
  have hn : ¬ (((s.ring d).long = true ∧ (s.injActive = true ∨ s.injTurn ≠ some d)) ∨ (! s.ringFor d i.tag) = true) := by
    rintro (⟨hlong, h⟩ | h)
    · obtain ⟨ha, ht⟩ := hl hlong
      rw [ha] at h
      exact h.elim nofun fun h => h ht
    · rw [hf] at h
      cases h
  rw [State.injStart, if_neg (by rw [h]; decide), hw]
  simp only [if_neg hn]
  have hg := State.giveRing_ring (d := d) hr i.tag
  split
  · rw [State.ring, setInjdie_rings]
    exact (State.ring_same (State.giveRing_rising hr _) ..).trans (by rw [hg])
  · exact (State.ring_same (State.giveRing_rising hr _) ..).trans (by rw [hg])

theorem clearTallies_variant (d n : Nat) (s : State) : (clearTallies d n s).variant = s.variant := by
  induction n generalizing s with
  | zero => rfl
  | succ n ih => rw [clearTallies, ih]; rfl

theorem State.injStart_hasDie (e : Nat) : (s.injStart d).hasDie e = s.hasDie e := by
  have hv : (s.injStart d).variant = s.variant := (Keeps.refl (P := True) s).injStart.variant
  rw [State.hasDie, State.nDies, hv]
  rfl

theorem State.inject_idle (h : (s.ring d).inj = none) (hw : s.injWaiting d = none) : s.inject d = s := by
  rw [State.inject, State.injStart_idle h hw]
  simp only [h]

theorem State.inject_waits {i : VInstr} (h : (s.ring d).inj = some i)
    (hc : (s.ring d).injCred = 0 ∨ ((s.ring d).long = true ∧ (s.ring d).landing ≠ [])) : s.inject d = s := by
  rw [State.inject, State.injStart_active h]
  simp only [h, if_pos hc]

/-- An injection starts before its first beat: from the state in which it has started the command does the same. -/
theorem State.inject_injStart {i : VInstr} (h : ((s.injStart d).ring d).inj = some i) : (s.injStart d).inject d = s.inject d := by
  rw [State.inject, State.injStart_active h]
  rfl

end

/-- Settles O4: each link's credit is one case of `State.creditArrive`; the injection point is `State.inject`. -/
theorem creditsReturnAndInjectionPlacesBeats : Obligations.CreditsReturnAndInjectionPlacesBeats := by
  refine ⟨fun s d hs hd => ?_, fun s d i hd => ?_⟩
  · intro g
    have hvats := State.canon_vats hs
    have hrings := State.canon_rings hs
    refine ⟨fun l hl ht hc => ?_, fun ht hc => ⟨?_, fun hg => ?_⟩, fun ht hc => ?_, fun ht hc => ?_, fun l hl ht => ?_, fun ht => ?_⟩
    · rw [exec_creditReturnArrive hd (by omega), State.creditArrive_vat hl ht hc]
      exact goesOn_next ⟨State.vat_same hvats .., fun e u hk => State.vat_ne hvats _ hk, rfl⟩
    · rw [exec_creditReturnArrive hd (by decide), State.creditArrive_inj ht hc]
    · rw [exec_creditReturnArrive hd (by decide), State.creditArrive_inj ht hc, pumpLanding_empty 32]
      · exact goesOn_next ⟨State.ring_same hrings .., rfl⟩
      · rw [State.ring_same hrings]
        exact hg
    · rw [exec_creditReturnArrive hd (by decide), State.creditArrive_send ht hc]
      exact goesOn_next ⟨State.ring_same hrings .., rfl⟩
    · rw [exec_creditReturnArrive hd (by decide), State.creditArrive_land ht hc]
      exact goesOn_next ⟨State.ring_same hrings .., rfl⟩
    · rw [exec_creditReturnArrive hd (by omega), State.creditArrive_vat_none hl ht]
    · rw [exec_creditReturnArrive hd (by decide), State.creditArrive_inj_none ht]
  · intro g
    rw [exec_injectBeat hd]
    refine ⟨fun h hc hl => ?_, fun h hc => ?_, fun hs h hw hf hl => ?_, fun h hw => ?_⟩
    · intro c u b x last t
      have hn : ¬ ((s.ring d).injCred = 0 ∨ ((s.ring d).long = true ∧ (s.ring d).landing ≠ [])) := by
        rintro (h0 | ⟨h1, h2⟩)
        · exact hc h0
        · exact h2 (hl h1)
      have hinj : (s.ring d).inj = some i := h
      rw [State.inject, State.injStart_active h]
      simp only [hinj, if_neg hn]
      rfl
    · rw [State.inject_waits h hc]
    · intro u
      have hu := State.injStart_ring (State.canon_rings hs) h hw hf hl
      have hinj : (u.ring d).inj = some i := by rw [show u.ring d = _ from hu]
      refine ⟨hinj, ?_, ?_, ?_, ?_⟩
      · rw [show u.ring d = _ from hu]
      · rw [show u.ring d = _ from hu]
      · rw [show u.ring d = _ from hu]
      · rw [exec_injectBeat (by rw [State.injStart_hasDie, hd]), State.inject_injStart hinj]
    · rw [State.inject_idle h hw]

end Sys2Proof.Machine
end

section
/-!
PROOFS. The ring: beats that enter and leave the array (02 R78, R87, R90).
-/
namespace Sys2Proof.Machine

/-! ## Beats that enter and leave the array (02 R78, R87, R90) -/

theorem exec_beatEnterVat {s : State} {d v : Nat} (h : s.hasVat d v = true) : exec (.beatEnterVat d v) s = .next (s.beatEnter d v) := if_pos h

theorem exec_beatSend {s : State} {d v : Nat} (h : s.hasVat d v = true) : exec (.beatSend d v) s = .next (s.beatLeave d v) := if_pos h

section
variable {s : State} {d v : Nat} {p : Pass}

theorem State.beatEnter_beat {b : Beat} {rest : List Beat} (hp : (s.vat d v).passes.getLast? = some p) (he : p.ended = false)
    (hd : p.draught = false) (hq : (s.vat d v).inq = b :: rest) (hr : (s.vat d v).hasRoom = true) :
    s.beatEnter d v = s.enterBeat d v p b rest := by
  simp only [State.beatEnter, hp, he, hd, hq, hr, Bool.false_eq_true, if_false, if_true]

theorem State.beatEnter_draught (hp : (s.vat d v).passes.getLast? = some p) (he : p.ended = false) (hd : p.draught = true)
    (hq : (s.vat d v).hasQuads = true) : s.beatEnter d v = s.enterDraught d v p := by
  simp only [State.beatEnter, hp, he, hd, hq, Bool.false_eq_true, if_false, if_true]

theorem State.beatEnter_waits (h : (s.vat d v).passes = [] ∨ ((s.vat d v).passes.getLast? = some p ∧
      (p.ended = true ∨ (p.draught = true ∧ (s.vat d v).hasQuads = false) ∨
        (p.draught = false ∧ ((s.vat d v).inq = [] ∨ (s.vat d v).hasRoom = false))))) : s.beatEnter d v = s := by
  rcases h with h | ⟨hp, h⟩
  · simp only [State.beatEnter, h, List.getLast?_nil]
  · simp only [State.beatEnter, hp]
    rcases h with h | ⟨hd, hq⟩ | ⟨hd, hq⟩
    · rw [if_pos h]
    · simp only [hd, hq, if_true]
      split <;> rfl
    · split
      · rfl
      · rw [if_neg (by rw [hd]; decide)]
        rcases hq with hq | hq
        · rw [hq]
        · split
          · rfl
          · rw [hq]
            rfl

/-- Pass i of the vat is the oldest that still sends, and j its oldest column. -/
def Vat.leaves (x : Vat) (i j : Nat) (p : Pass) (c : Col) : Prop :=
  findIdxFrom (fun p => p.cols.any (fun c => decide (c.sent < c.lanes.length))) 0 x.passes = some i ∧ x.passes.getD i {} = p ∧
    findIdxFrom (fun c => decide (c.sent < c.lanes.length)) 0 p.cols = some j ∧ p.cols.getD j {} = c

/-- The next stage of a column, as the beat that leaves the tally row. -/
def Col.leaving (c : Col) (p : Pass) : Beat :=
  { lanes := parityCheck (c.lanesAt c.sent 128) (c.bads.getD c.sent []), tag := p.tag, hops := c.hops - 1,
    stages := c.lanes.length + c.more, src := c.src }

theorem State.beatLeave_sends {i j : Nat} {c : Col} (h : (s.vat d v).leaves i j p c) (hl : (s.vat d v).mayLeave i j = true)
    (hc : 1 < c.hops → s.creditsOf d v ≠ 0) :
    s.beatLeave d v =
      (let u := s.putVat d v ((s.vat d v).setCol i j { c with sent := c.sent + 1 })
       let w := if 1 < c.hops then u.placeBeat d v (c.leaving p) else u
       let z := if c.bads.getD c.sent [] = [] ∨ p.forms c.n = true then w
         else w.report { die := d, tag := p.tag, part := p.instr.part, cls := 0x06, island := v,
                         sub := (c.bads.getD c.sent []).getD 0 0, inoc := c.ino }
       z.putSettled d v (z.vat d v)) := by
  obtain ⟨hi, hp, hj, hc'⟩ := h
  have hn : ¬ ((! (s.vat d v).mayLeave i j) = true ∨ (1 < c.hops ∧ s.creditsOf d v = 0)) := by
    rintro (h | ⟨h1, h2⟩)
    · rw [hl] at h
      cases h
    · exact hc h1 h2
  have hbad : ∀ a b : State, (if c.bads.getD c.sent [] ≠ [] ∧ (! p.forms c.n) = true then a else b) =
      if c.bads.getD c.sent [] = [] ∨ p.forms c.n = true then b else a := by
    intro a b
    by_cases h1 : c.bads.getD c.sent [] = [] <;> by_cases h2 : p.forms c.n = true <;>
      simp only [h1, h2, ne_eq, not_true, not_false_iff, Bool.not_true, Bool.not_false, Bool.false_eq_true, and_true, and_false,
        or_true, or_false, if_true, if_false]
  simp only [State.beatLeave, hi, hp, hj, hc', if_neg hn, hbad]
  rfl

theorem State.beatLeave_waits {i j : Nat} {c : Col} (h : (s.vat d v).leaves i j p c)
    (hw : (s.vat d v).mayLeave i j = false ∨ (1 < c.hops ∧ s.creditsOf d v = 0)) : s.beatLeave d v = s := by
  obtain ⟨hi, hp, hj, hc⟩ := h
  have hy : (! (s.vat d v).mayLeave i j) = true ∨ (1 < c.hops ∧ s.creditsOf d v = 0) :=
    hw.imp_left fun h => by rw [h]; rfl
  simp only [State.beatLeave, hi, hp, hj, hc, if_pos hy]

end

/-- Settles O6: what enters is one case of `State.beatEnter`, what leaves is `State.beatLeave_sends`. -/
theorem beatsEnterAndLeaveTheArray : Obligations.BeatsEnterAndLeaveTheArray := by
  refine ⟨fun s d v p hv => ?_, fun s d v i j p c hv => ?_⟩
  · intro x
    refine ⟨fun b rest hp he hd hq hr => ?_, fun hp he hd hq => ?_, fun h => ?_⟩
    · intro cols c whole n short p' u
      rw [exec_beatEnterVat hv, State.beatEnter_beat hp he hd hq hr]
      rfl
    · intro u last p'
      rw [exec_beatEnterVat hv, State.beatEnter_draught hp he hd hq]
      rfl
    · rw [exec_beatEnterVat hv, State.beatEnter_waits h]
  · intro x hi hp hj hc bad b u
    refine ⟨fun hl hcr => ?_, fun hw => ?_⟩
    · rw [exec_beatSend hv, State.beatLeave_sends ⟨hi, hp, hj, hc⟩ hl hcr]
      rfl
    · rw [exec_beatSend hv, State.beatLeave_waits ⟨hi, hp, hj, hc⟩ hw]

end Sys2Proof.Machine
end

section
/-!
PROOFS. The ring: beats on a bridge and between the vats (02 R77, R83, R89).
-/
namespace Sys2Proof.Machine

/-! ## Beats on a bridge (02 R83, R89) -/

theorem exec_bridgeBeatSend {s : State} {d : Nat} (h : s.hasDie d = true) : exec (.bridgeBeatSend d) s = .next (s.bridgeSend d) := if_pos h

theorem exec_bridgeBeatLand {s : State} {d : Nat} (h : s.hasDie d = true) : exec (.bridgeBeatLand d) s = .next (s.bridgeLand d) := if_pos h

/-- The points 0x15 that break the CRC of what die d sends: at its own bridge, or at the receiving one. -/
def State.crcNear (s : State) (d : Nat) : Bool := decide ((s.inoc d).point = 0x15) && decide ((s.inoc d).inst = 0)

def State.crcFar (s : State) (d : Nat) : Bool :=
  ! s.crcNear d && decide ((s.inoc (s.nextDie d)).point = 0x15) && decide ((s.inoc (s.nextDie d)).inst = 1)

/-- A ring spine whose first beat has left for the bridge. -/
def Ring.sent (g : Ring) (b : Beat) (bs : List Beat) (hit : Bool) : Ring :=
  let r : Ring := { g with send := bs, landCred := g.landCred - 1, wire := g.wire ++ [{ b with crcBad := hit }] }
  if g.sendTransit < 4 then { r with sendTransit := g.sendTransit + 1 } else { r with sendCred := g.sendCred + 1 }

section
variable {s : State} {d : Nat} {b : Beat} {bs : List Beat}

theorem State.bridgeSend_sends (hq : (s.ring d).send = b :: bs) (hl : (s.ring d).long = true) (hc : 0 < (s.ring d).landCred)
    (ht : s.liquorTakes d b.tag = true) :
    s.bridgeSend d = (if s.crcNear d then s.inocClear d else if s.crcFar d then s.inocClear (s.nextDie d) else s).putRing d
      ((s.ring d).sent b bs (s.crcNear d || s.crcFar d)) := by
  have hn : ¬ ((! (s.ring d).long) = true ∨ (s.ring d).landCred = 0 ∨ (! s.liquorTakes d b.tag) = true) := by
    rw [hl, ht]
    simp only [Bool.not_true, Bool.false_eq_true, false_or, or_false]
    omega
  simp only [State.bridgeSend, hq, if_neg hn]
  rfl

theorem State.bridgeSend_waits (hq : (s.ring d).send = b :: bs)
    (h : (s.ring d).long = false ∨ (s.ring d).landCred = 0 ∨ s.liquorTakes d b.tag = false) : s.bridgeSend d = s := by
  have hy : (! (s.ring d).long) = true ∨ (s.ring d).landCred = 0 ∨ (! s.liquorTakes d b.tag) = true := by
    simpa only [Bool.not_eq_true'] using h
  simp only [State.bridgeSend, hq, if_pos hy]

theorem State.bridgeSend_empty (hq : (s.ring d).send = []) : s.bridgeSend d = s := by
  simp only [State.bridgeSend, hq]

/-- The first beat of the previous die's bridge is in the landing buffer, as b'. -/
def State.landBeat (s : State) (d : Nat) (bs : List Beat) (b' : Beat) : State :=
  let w := s.putRing (s.prevDie d) { s.ring (s.prevDie d) with wire := bs }
  w.putRing d { w.ring d with landing := (w.ring d).landing ++ [b'] }

theorem State.bridgeLand_good (hq : (s.ring (s.prevDie d)).wire = b :: bs) (hb : b.crcBad = false) :
    s.bridgeLand d = pumpLanding d 1 (s.landBeat d bs b) := by
  simp only [State.bridgeLand, hq, hb, Bool.false_eq_true, if_false]
  rfl

theorem State.bridgeLand_bad (hq : (s.ring (s.prevDie d)).wire = b :: bs) (hb : b.crcBad = true) :
    s.bridgeLand d = pumpLanding d 1
      ((s.landBeat d bs { b with lanes := b.lanes.map (fun e => e ||| 0x8000#16), parBad := [], crcBad := false }).logErr
        { cls := 0x07, die := d, island := 30, inoc := true }) := by
  simp only [State.bridgeLand, hq, hb, if_true]
  rfl

theorem State.bridgeLand_empty (hq : (s.ring (s.prevDie d)).wire = []) : s.bridgeLand d = s := by
  simp only [State.bridgeLand, hq]

theorem pumpLanding_noCredit (n : Nat) (h : (s.ring d).injCred = 0) : pumpLanding d n s = s := by
  cases n with
  | zero => rfl
  | succ n =>
    rw [pumpLanding]
    simp only [h, if_true]
    split <;> rfl

theorem State.landBeat_ring (hr : mrising s.rings = true) (hd : d ≠ s.prevDie d) (b' : Beat) :
    (s.landBeat d bs b').ring d = { s.ring d with landing := (s.ring d).landing ++ [b'] } := by
  have hr' : mrising (s.putRing (s.prevDie d) { s.ring (s.prevDie d) with wire := bs }).rings = true := mrising_mset _ _ hr
  rw [State.landBeat, State.ring_same hr', State.ring_ne hr _ hd]

theorem State.landBeat_ring_ne (hr : mrising s.rings = true) {e : Nat} (he : e ≠ d) (b' : Beat) :
    (s.landBeat d bs b').ring e = if e = s.prevDie d then { s.ring (s.prevDie d) with wire := bs } else s.ring e := by
  have hr' : mrising (s.putRing (s.prevDie d) { s.ring (s.prevDie d) with wire := bs }).rings = true := mrising_mset _ _ hr
  rw [State.landBeat, State.ring_ne hr' _ he]
  split
  · next h => rw [h, State.ring_same hr]
  · next h => exact State.ring_ne hr _ h

end

/-! ## Beats between the vats (02 R77, R78, R87) -/

section
variable {s : State} {d v : Nat}

/-- A beat of a pass that is no MASH's own enters row 0. -/
theorem State.enterBeat_ring {p : Pass} (hk : p.kind ≠ .mash) (b : Beat) (rest : List Beat) :
    ∃ y : Vat, y.inq = rest ∧ s.enterBeat d v p b rest = (s.putVat d v y).returnCredit d v := by
  simp only [State.enterBeat, hk, decide_false, Bool.and_false, Bool.false_and, Bool.false_eq_true, if_false]
  exact ⟨_, rfl, rfl⟩

theorem State.returnCredit_ring (hc : (s.ring d).injTransit < 4) :
    s.returnCredit d 0 = s.putRing d { s.ring d with injTransit := (s.ring d).injTransit + 1 } := by
  rw [State.returnCredit, if_pos rfl]
  exact if_pos hc

theorem State.returnCredit_vat (hv : v ≠ 0) :
    s.returnCredit d v = s.putVat d (v - 1) (if (s.vat d (v - 1)).credTransit < 4
      then { s.vat d (v - 1) with credTransit := (s.vat d (v - 1)).credTransit + 1 }
      else { s.vat d (v - 1) with outCred := (s.vat d (v - 1)).outCred + 1 }) := by
  rw [State.returnCredit, if_neg hv]

theorem State.unrest_putVat (x : Vat) (e i : Nat) : (s.putVat d v x).unrest e i = (s.unrest e i).putVat d v x := by
  change (if bit (s.rf e oIslRest islRestRested) i = true
    then (s.putVat d v x).wf e oIslRest islRestRested (s.rf e oIslRest islRestRested - 2 ^ i) else s.putVat d v x) =
    (if bit (s.rf e oIslRest islRestRested) i = true
      then s.wf e oIslRest islRestRested (s.rf e oIslRest islRestRested - 2 ^ i) else s).putVat d v x
  split <;> rfl

theorem State.vats_unrest (s : State) (d i : Nat) : (s.unrest d i).vats = s.vats := by
  simp only [State.unrest]
  split_ifs <;> rfl

theorem State.placeBeat_vat (hs : mrising s.vats = true) (hv : v < 15) (b : Beat) :
    s.placeBeat d v b = ((s.unrest d (v + 1)).putVat d v { s.vat d v with outCred := (s.vat d v).outCred - 1 }).putVat d (v + 1)
      { s.vat d (v + 1) with inq := (s.vat d (v + 1)).inq ++ [b] } := by
  rw [State.placeBeat, if_pos hv]
  simp only [State.unrest_putVat, State.vat_ne hs _ (show d * 16 + (v + 1) ≠ d * 16 + v by omega), enq]

theorem State.placeBeat_spine (hv : ¬ v < 15) (b : Beat) :
    s.placeBeat d v b = s.putRing d { s.ring d with sendCred := (s.ring d).sendCred - 1, send := (s.ring d).send ++ [b] } := by
  rw [State.placeBeat, if_neg hv]
  rfl

end

theorem Vat.settled_inq (x : Vat) : x.settled.inq = x.inq := rfl

theorem Vat.settled_outCred (x : Vat) : x.settled.outCred = x.outCred := rfl

/-- The last beat of a vat's only column is the oldest that leaves. -/
theorem Vat.leaves_only {x : Vat} {p : Pass} {c : Col} (hp : x.passes = [p]) (hc : p.cols = [c]) (hs : c.sent < c.lanes.length) :
    x.leaves 0 0 p c := by
  simp [Vat.leaves, hp, hc, findIdxFrom, hs]

section
variable {s : State} {d v : Nat} {p : Pass} {c : Col}

/-- The only column of a vat sends its next stage, whose lanes are all good. -/
theorem State.beatLeave_only (hp : (s.vat d v).passes = [p]) (hc : p.cols = [c]) (hs : c.sent < c.lanes.length)
    (hl : (s.vat d v).mayLeave 0 0 = true) (hb : c.bads.getD c.sent [] = []) (hcr : 1 < c.hops → s.creditsOf d v ≠ 0) :
    ∃ y : Vat, y.outCred = (s.vat d v).outCred ∧ y.inq = (s.vat d v).inq ∧
      s.beatLeave d v = (let w := if 1 < c.hops then (s.putVat d v y).placeBeat d v (c.leaving p) else s.putVat d v y
        w.putSettled d v (w.vat d v)) := by
  refine ⟨(s.vat d v).setCol 0 0 { c with sent := c.sent + 1 }, rfl, rfl, ?_⟩
  rw [State.beatLeave_sends (Vat.leaves_only hp hc hs) hl hcr]
  simp only [hb, true_or, if_true]

/-- Vats stored one after another change the vats alone. -/
theorem State.putVats_frame (s : State) (d v w u r : Nat) (x y z a : Vat) :
    (((s.putVat d v x).putVat d w y).putVat d u z).putVat d r a =
      { s with vats := ((((s.putVat d v x).putVat d w y).putVat d u z).putVat d r a).vats } := rfl

/-- Within the array a beat goes to the next vat's incoming buffer, and ends a rest of its island. -/
theorem State.beatLeave_toVat (hs : mrising s.vats = true) (hp : (s.vat d v).passes = [p]) (hc : p.cols = [c])
    (hsent : c.sent < c.lanes.length) (hl : (s.vat d v).mayLeave 0 0 = true) (hb : c.bads.getD c.sent [] = []) (hh : 1 < c.hops)
    (hv : v < 15) (hcr : 0 < (s.vat d v).outCred) :
    ((s.beatLeave d v).vat d v).outCred = (s.vat d v).outCred - 1 ∧
    ((s.beatLeave d v).vat d (v + 1)).inq = (s.vat d (v + 1)).inq ++ [c.leaving p] ∧
    s.beatLeave d v = { s.unrest d (v + 1) with vats := (s.beatLeave d v).vats } := by
  obtain ⟨y, hout, -, hbl⟩ := State.beatLeave_only hp hc hsent hl hb fun _ => by rw [State.creditsOf, if_pos hv]; exact Nat.ne_of_gt hcr
  have hv2 : mrising (s.putVat d v y).vats = true := mrising_mset _ _ hs
  have hu : mrising ((s.putVat d v y).unrest d (v + 1)).vats = true := by rwa [State.vats_unrest]
  have hv3 : mrising (((s.putVat d v y).unrest d (v + 1)).putVat d v { y with outCred := y.outCred - 1 }).vats = true :=
    mrising_mset _ _ hu
  have hplace := State.placeBeat_vat (d := d) hv2 hv (c.leaving p)
  rw [State.vat_same hs, State.vat_ne hs _ (by omega)] at hplace
  have hv4 : mrising ((s.putVat d v y).placeBeat d v (c.leaving p)).vats = true := by
    rw [hplace]
    exact mrising_mset _ _ hv3
  have hvat : ((s.putVat d v y).placeBeat d v (c.leaving p)).vat d v = { y with outCred := y.outCred - 1 } := by
    rw [hplace, State.vat_ne hv3 _ (by omega), State.vat_same hu]
  simp only [if_pos hh, hvat, State.putSettled_eq] at hbl
  refine ⟨?_, ?_, ?_⟩
  · rw [hbl, State.vat_same hv4, Vat.settled_outCred, hout]
  · rw [hbl, State.vat_ne hv4 _ (by omega), hplace, State.vat_same hv3]
  · rw [hbl, hplace, State.unrest_putVat]
    exact State.putVats_frame ..

/-- From V15 it goes to the send buffer. -/
theorem State.beatLeave_toSpine (hs : mrising s.rings = true) (hp : (s.vat d v).passes = [p]) (hc : p.cols = [c])
    (hsent : c.sent < c.lanes.length) (hl : (s.vat d v).mayLeave 0 0 = true) (hb : c.bads.getD c.sent [] = []) (hh : 1 < c.hops)
    (hv : v = 15) (hcr : 0 < (s.ring d).sendCred) :
    ((s.beatLeave d v).ring d).sendCred = (s.ring d).sendCred - 1 ∧
    ((s.beatLeave d v).ring d).send = (s.ring d).send ++ [c.leaving p] ∧
    s.beatLeave d v = { s with vats := (s.beatLeave d v).vats, rings := (s.beatLeave d v).rings } := by
  have hv' : ¬ v < 15 := by omega
  obtain ⟨y, -, -, hbl⟩ := State.beatLeave_only hp hc hsent hl hb fun _ => by rw [State.creditsOf, if_neg hv']; exact Nat.ne_of_gt hcr
  simp only [if_pos hh, State.placeBeat_spine hv', State.putSettled_eq] at hbl
  have hring : (s.beatLeave d v).ring d =
      { s.ring d with sendCred := (s.ring d).sendCred - 1, send := (s.ring d).send ++ [c.leaving p] } := by
    rw [hbl, State.putVat_get_ring, State.ring_same (s := s.putVat d v y) hs]
    rfl
  refine ⟨?_, ?_, ?_⟩
  · rw [hring]
  · rw [hring]
  · rw [hbl]
    rfl

/-- At its last hop it leaves no trace on a link. -/
theorem State.beatLeave_drops (hs : mrising s.vats = true) (hp : (s.vat d v).passes = [p]) (hc : p.cols = [c])
    (hsent : c.sent < c.lanes.length) (hl : (s.vat d v).mayLeave 0 0 = true) (hb : c.bads.getD c.sent [] = []) (hh : c.hops ≤ 1)
    (_hv : v < 16) :
    ((s.beatLeave d v).vat d v).outCred = (s.vat d v).outCred ∧
    (∀ u, u < 16 → ((s.beatLeave d v).vat d u).inq = (s.vat d u).inq) ∧
    s.beatLeave d v = { s with vats := (s.beatLeave d v).vats } := by
  obtain ⟨y, hout, hinq, hbl⟩ := State.beatLeave_only hp hc hsent hl hb fun h => absurd h (by omega)
  simp only [if_neg (Nat.not_lt.mpr hh), State.putSettled_putVat hs] at hbl
  refine ⟨?_, fun u hu => ?_, ?_⟩
  · rw [hbl, State.vat_same hs, Vat.settled_outCred, hout]
  · by_cases he : u = v
    · rw [hbl, he, State.vat_same hs, Vat.settled_inq, hinq]
    · rw [hbl, State.vat_ne hs _ (by omega)]
  · rw [hbl]
    rfl

end

/-- Settles O5: the bridge by `State.bridgeSend_sends` and `State.bridgeLand_good`, the vats by what a beat's entry and exit change. -/
theorem beatsCrossTheBridgeAndTheVatsInOrder : Obligations.BeatsCrossTheBridgeAndTheVatsInOrder := by
  refine ⟨fun s d b bs hs hd => ?_, fun s d v hs hv => ?_⟩
  · have hr := State.canon_rings hs
    refine ⟨fun g hg hq hl hc ht => ?_, fun hq h => ?_, fun hq => ?_, fun g hg hq => ?_, fun hq => ?_⟩
    · subst hg
      intro e near far u r
      rw [exec_bridgeBeatSend hd, State.bridgeSend_sends hq hl hc ht]
      refine ⟨rfl, fun hit h4 => ?_⟩
      obtain ⟨hnear, hfar⟩ := Bool.or_eq_false_iff.mp hit
      have hn : s.crcNear d = false := hnear
      have hf : s.crcFar d = false := hfar
      simp only [hn, hf, Bool.or_false, Bool.false_eq_true, if_false, Ring.sent, if_pos h4]
      exact goesOn_next ⟨State.ring_same hr .., fun e he => State.ring_ne hr _ he, rfl⟩
    · rw [exec_bridgeBeatSend hd, State.bridgeSend_waits hq h]
    · rw [exec_bridgeBeatSend hd, State.bridgeSend_empty hq]
    · subst hg
      intro w u
      rw [exec_bridgeBeatLand hd]
      refine ⟨fun hb => ?_, fun hb => ?_, fun hb hne hc => ?_⟩
      · rw [State.bridgeLand_good hq hb]
        rfl
      · rw [State.bridgeLand_bad hq hb]
        rfl
      · have hring := State.landBeat_ring (bs := bs) hr hne b
        rw [State.bridgeLand_good hq hb, pumpLanding_noCredit 1 (by rw [hring]; exact hc)]
        refine goesOn_next ⟨?_, hring, fun e he hp => ?_, rfl⟩
        · rw [State.landBeat_ring_ne hr hne.symm, if_pos rfl]
        · rw [State.landBeat_ring_ne hr he, if_neg hp]
    · rw [exec_bridgeBeatLand hd, State.bridgeLand_empty hq]
  · have hvats := State.canon_vats hs
    have hrings := State.canon_rings hs
    have hv16 : v < 16 := of_decide_eq_true (Bool.and_eq_true_iff.mp hv).2
    intro x
    refine ⟨fun p b rest hp he hk hdr hq hroom => ?_, fun p c hp hc hsent hl hb => ?_⟩
    · obtain ⟨y, hinq, hent⟩ := State.enterBeat_ring (s := s) (d := d) (v := v) hk b rest
      rw [exec_beatEnterVat hv, State.beatEnter_beat hp he hdr hq hroom, hent]
      refine goesOn_next ⟨fun h0 h4 => ?_, fun h0 => ?_⟩
      · subst h0
        rw [State.returnCredit_ring (s := s.putVat d 0 y) h4]
        refine ⟨?_, ?_, rfl⟩
        · rw [State.putRing_get_vat, State.vat_same hvats, hinq]
        · rw [State.ring_same (s := s.putVat d 0 y) hrings]
          rfl
      · have hv2 : mrising (s.putVat d v y).vats = true := mrising_mset _ _ hvats
        have hprev : (s.putVat d v y).vat d (v - 1) = s.vat d (v - 1) := State.vat_ne hvats _ (by omega)
        rw [State.returnCredit_vat h0]
        refine ⟨?_, rfl, fun h4 => ?_, fun h4 => ?_⟩
        · rw [State.vat_ne hv2 _ (by omega), State.vat_same hvats, hinq]
        · rw [State.vat_same hv2, hprev, if_pos h4]
        · rw [State.vat_same hv2, hprev, if_neg (by omega)]
    · intro b
      rw [exec_beatSend hv]
      have hbeat : c.leaving p = b := by rw [Col.leaving, hb]
      rw [← hbeat]
      refine ⟨fun hh h15 hcr => ?_, fun hh h15 hcr => ?_, fun hh => ?_⟩
      · exact goesOn_next (State.beatLeave_toVat hvats hp hc hsent hl hb hh h15 hcr)
      · exact goesOn_next (State.beatLeave_toSpine hrings hp hc hsent hl hb hh h15 hcr)
      · exact goesOn_next (State.beatLeave_drops hvats hp hc hsent hl hb hh hv16)

end Sys2Proof.Machine
end

section
/-!
PROOFS. Kettle cores: the rows of their groups (12 R511).
-/
namespace Sys2Proof.Machine

/-! ## The rows of the kettle groups -/

section
variable (d c : Nat) (s : State)

theorem exec_fadd : exec (.fadd d c) s = laneRow 0x80 d c s (lanes2 fAdd) := rfl

theorem exec_fmul : exec (.fmul d c) s = laneRow 0x81 d c s (lanes2 fMul) := rfl

theorem exec_ffma : exec (.ffma d c) s = laneRow 0x82 d c s (lanes3 fFma) := rfl

theorem exec_fmax : exec (.fmax d c) s = laneRow 0x83 d c s (lanes2 fMax) := rfl

theorem exec_fmin : exec (.fmin d c) s = laneRow 0x84 d c s (lanes2 fMin) := rfl

theorem exec_fsel : exec (.fsel d c) s = laneRow 0x85 d c s (lanes3 (fun a b k => if k % 2 = 1 then a else b)) := rfl

theorem exec_fcmp : exec (.fcmp d c) s =
    laneRow 0x86 d c s (fun x w => lanes2 (fun a b => if fCmp (wbits w 64 2) a b then 1 else 0) x w) := rfl

theorem exec_fspec : exec (.fspec d c) s =
    laneRow 0x87 d c s (fun x w => zWrite (kD w) ((x.reg (kA w)).map (fun t => (fSpec (wbits w 64 3) t.1, t.2)))) := rfl

theorem exec_fred : exec (.fred d c) s = laneRow 0x88 d c s fred := rfl

theorem exec_iadd : exec (.iadd d c) s = laneRow 0x89 d c s (lanes2 iAdd) := rfl

theorem exec_isub : exec (.isub d c) s = laneRow 0x8A d c s (lanes2 iSub) := rfl

theorem exec_imul : exec (.imul d c) s = laneRow 0x8B d c s (lanes2 iMul) := rfl

theorem exec_ilog : exec (.ilog d c) s = laneRow 0x8C d c s (fun x w => lanes2 (iLog (wbits w 64 3)) x w) := rfl

theorem exec_mov : exec (.mov d c) s =
    ketRow 0x8D d c s noPsn noLate noPsn (fun x w =>
      if wbit w 74 then
        let t := x.lane (kA w) 0
        s.ketCompute d c w [] [(kJ w 64, BitVec.ofNat 64 (tc 64 (sx 32 t.1)), t.2)]
      else
        let t := x.sc (kJ w 64)
        s.ketCompute d c w (zWrite (kD w) (List.replicate 64 (t.1 % 2 ^ 32, t.2))) []) := rfl

theorem exec_cvt : exec (.cvt d c) s =
    ketRow 0x90 d c s noPsn noLate noPsn (fun x w => s.cvt d c x w) := rfl

theorem exec_drop : exec (.drop d c) s =
    ketRow 0x91 d c s noPsn noLate noPsn (fun x w => s.drop d c x w) := rfl

theorem exec_rand : exec (.rand d c) s =
    ketRow 0x92 d c s noPsn noLate noPsn (fun x w => s.rand d c x w) := rfl

theorem exec_mupd : exec (.mupd d c) s =
    ketRow 0x93 d c s noPsn noLate noPsn (fun x w => s.mupd d c x w) := rfl

theorem exec_salu : exec (.salu d c) s =
    ketRow 0xA0 d c s noPsn noLate noPsn (fun x w =>
      let a := x.sc (kJ w 78)
      let b : Nat × Bool := if wbit w 98 then (tc 64 (sx 29 (wbits w 99 29)), false) else x.sc (kJ w 88)
      s.ketCompute d c w [] [(kJ w 68, BitVec.ofNat 64 (salu (wbits w 64 4) a.1 b.1), a.2 || b.2)]) := rfl

theorem exec_sli : exec (.sli d c) s =
    ketRow 0xA1 d c s noPsn noLate noPsn (fun _ w => s.ketCompute d c w [] [(kJ w 20, BitVec.ofNat 64 (wbits w 64 64), false)]) := rfl

theorem exec_br : exec (.br d c) s =
    ketRow 0xA2 d c s noPsn noLate (fun x w => (x.sc (kJ w 64)).2) (fun x w =>
      let v := (x.sc (kJ w 64)).1
      let k := wbits w 74 2
      let taken := if k = 0 then decide (v = 0) else if k = 1 then decide (v ≠ 0) else if k = 2 then bit v 63 else ! bit v 63
      let s := s.ketCompute d c w [] []
      if taken then s.jump d c w else s) := rfl

theorem exec_loop : exec (.loop d c) s =
    ketRow 0xA3 d c s noPsn noLate (fun x w => (x.sc (kJ w 64)).2) (fun x w =>
      let v := (x.sc (kJ w 64)).1
      if v = 0 then s.ketCompute d c w [] [] else
      let s := s.ketCompute d c w [] [(kJ w 64, BitVec.ofNat 64 (v - 1), false)]
      if v = 1 then s else s.jump d c w) := rfl

theorem exec_ld : exec (.ld d c) s =
    ketRow 0x98 d c s addrPsn (s.loadChecks d c) noPsn (fun x w => s.ketXfer d c w (kAddr x w) (scaleArgs x (kJ w 107))) := rfl

theorem exec_st : exec (.st d c) s =
    ketRow 0x99 d c s addrPsn (s.storeChecks d c) noPsn (fun x w => s.ketXfer d c w (kAddr x w) (scaleArgs x (kJ w 107))) := rfl

theorem exec_ldc : exec (.ldc d c) s =
    ketRow 0x9A d c s addrPsn (s.ldcChecks d c false) noPsn (fun x w => s.ketXfer d c w (kAddr x w) []) := rfl

theorem exec_stc : exec (.stc d c) s =
    ketRow 0x9B d c s addrPsn (s.ldcChecks d c true) (fun x w => s.isReg d (kAddr x w) && (x.sc (kJ w 91)).2) (fun x w =>
      let t := x.sc (kJ w 91)
      s.ketXfer d c w (kAddr x w) [t.1 % 2 ^ (8 * kSZ w), if t.2 then 1 else 0]) := rfl

theorem exec_pack24 : exec (.pack24 d c) s =
    ketRow 0x9D d c s addrPsn (s.packChecks d c) noPsn (fun x w => s.ketXfer d c w (kAddr x w) (scaleArgs x (kJ w 94))) := rfl

theorem exec_topk : exec (.topk d c) s =
    ketRow 0x9E d c s (fun x w => decide (0 < kTopN w) && addrPsn x w) (s.topChecks d c) noPsn
      (fun x w => s.ketXfer d c w (topAddr x w 0) []) := rfl

theorem exec_scupd : exec (.scupd d c) s =
    ketRow 0x9F d c s addrPsn (s.scChecks d c) (fun x w => (x.sc (kJ w 84)).2) (fun x w =>
      s.ketXfer d c w (x.sc (kJ w 64)).1 [(x.sc (kJ w 84)).1 % 2, s.rf d (oKscCtrl (s.ctx d c).part) kscCtrlCal]) := rfl

end

end Sys2Proof.Machine
end

section
/-!
PROOFS. Kettle cores: arithmetic groups (12 R519–R527).
-/
namespace Sys2Proof.Machine

/-! ## The arithmetic groups of a kettle core (12 R508, R519) -/

/-- A row without checks of its own, whose group the core can take: its body answers. -/
theorem ketRow_plain {opc d c : Nat} {s : State} {w : InstrWord} {body : KCore → InstrWord → State} (h : s.ketTakes opc d c w) :
    ketRow opc d c s noPsn noLate noPsn body = .next (body (s.kcore d (ctxInst c)) w) := by
  rw [ketRow_takes h]
  rfl

/-- Settles O13: every row is a lane operation or a row without checks of its own. -/
theorem arithmeticGroupsPendTheirResults : Obligations.ArithmeticGroupsPendTheirResults := by
  refine ⟨fun s d c w => ?_, fun s d c w => ?_⟩
  · intro x pends
    refine ⟨fun h l m => ketCompute_plain h w l m, fun h => ?_, fun h => ?_, fun h => ?_, fun h => ?_, fun h => ?_, fun h => ?_,
      fun h => ?_, fun h => ?_, fun h => ?_⟩
    · rw [exec_fadd, laneRow_takes h]
    · rw [exec_fmul, laneRow_takes h]
    · rw [exec_ffma, laneRow_takes h]
    · rw [exec_fmax, laneRow_takes h]
    · rw [exec_fmin, laneRow_takes h]
    · rw [exec_fsel, laneRow_takes h]
    · rw [exec_fcmp, laneRow_takes h]
    · rw [exec_fspec, laneRow_takes h]
    · rw [exec_fred, laneRow_takes h]
  · intro x pends
    refine ⟨fun h => ?_, fun h => ?_, fun h => ?_, fun h => ?_, fun h hw => ?_, fun h hw => ?_, fun h => ?_, fun h => ?_, fun h => ?_,
      fun h => ?_⟩
    · rw [exec_iadd, laneRow_takes h]
    · rw [exec_isub, laneRow_takes h]
    · rw [exec_imul, laneRow_takes h]
    · rw [exec_ilog, laneRow_takes h]
    · rw [exec_mov, ketRow_plain h, if_neg (by rw [hw]; decide)]
    · rw [exec_mov, ketRow_plain h, if_pos hw]
    · rw [exec_cvt, ketRow_plain h]
      rfl
    · rw [exec_drop, ketRow_plain h]
      rfl
    · rw [exec_rand, ketRow_plain h]
      rfl
    · rw [exec_mupd, ketRow_plain h]
      rfl

end Sys2Proof.Machine
end

section
/-!
PROOFS. Kettle cores: scalar groups, branches and transfers (12 R512, R519–R522).
-/
namespace Sys2Proof.Machine

/-! ## What a kettle row answers (12 R508, R511, R512, R522) -/

section
variable {opc d c : Nat} {s : State} {w : InstrWord} {addr psn : KCore → InstrWord → Bool} {late : KCore → InstrWord → List (Bool × Nat)}
  {body : KCore → InstrWord → State}

theorem ketRow_runs (h : s.ketTakes opc d c w) (ha : addr (s.kcore d (ctxInst c)) w = false)
    (hl : firstFail (late (s.kcore d (ctxInst c)) w) = none) (hp : psn (s.kcore d (ctxInst c)) w = false) :
    ketRow opc d c s addr late psn body = .next (body (s.kcore d (ctxInst c)) w) := by
  rw [ketRow_takes h, ha, hl, hp]
  rfl

theorem ketRow_address (h : s.ketTakes opc d c w) (ha : addr (s.kcore d (ctxInst c)) w = true) :
    ketRow opc d c s addr late psn body = .next (s.ketPoison d c 0) := by
  rw [ketRow_takes h, ha]
  rfl

theorem ketRow_late {k : Nat} (h : s.ketTakes opc d c w) (ha : addr (s.kcore d (ctxInst c)) w = false)
    (hl : firstFail (late (s.kcore d (ctxInst c)) w) = some k) :
    ketRow opc d c s addr late psn body = .next (s.reject d c k 0) := by
  rw [ketRow_takes h, ha, hl]
  rfl

theorem ketRow_poison (h : s.ketTakes opc d c w) (ha : addr (s.kcore d (ctxInst c)) w = false)
    (hl : firstFail (late (s.kcore d (ctxInst c)) w) = none) (hp : psn (s.kcore d (ctxInst c)) w = true) :
    ketRow opc d c s addr late psn body = .next (s.ketPoison d c 0) := by
  rw [ketRow_takes h, ha, hl, hp]
  rfl

/-- The core takes no group now (12 R511, R512). -/
def State.ketWaits (s : State) (d c : Nat) (w : InstrWord) : Prop :=
  s.coreBusy d c = true ∨ (s.kcore d (ctxInst c)).hazard (kForm w) = true ∨
    ((kForm w).xfer = true ∧ (s.kcore d (ctxInst c)).pend ≠ [])

theorem ketRow_waits (h : s.presents d c w) (he : ctxEng c = 1) (ho : wbits w 0 8 = opc) (hw : s.ketWaits d c w) :
    ketRow opc d c s addr late psn body = .next s := by
  unfold ketRow
  rw [issue_presents h (decide_eq_true he) (decide_eq_true ho)]
  exact congrArg _ (if_pos hw)

/-- The first of the checks of the word itself rejects it. -/
theorem ketRow_rejects {k : Nat} (h : s.presents d c w) (he : ctxEng c = 1) (ho : wbits w 0 8 = opc) (hw : ¬ s.ketWaits d c w)
    (hk : firstFail [(wordRsvd w (kForm w).used, 1), ((kForm w).mode, 4), ((kForm w).count, 7)] = some k) :
    ketRow opc d c s addr late psn body = .next (s.reject d c k 0) := by
  unfold ketRow
  rw [issue_presents h (decide_eq_true he) (decide_eq_true ho)]
  refine congrArg _ ((if_neg hw).trans ?_)
  rw [hk]

end

/-- The command is the row of opcode opc of the kettle cores. -/
def isKetRow (opc d c : Nat) (i : Instr) (s : State) : Prop :=
  ∃ addr late psn body, exec i s = ketRow opc d c s addr late psn body

/-- The kettle's groups and their opcodes, KPUSH apart. -/
def ketRows (d c : Nat) : List (Instr × Nat) :=
  [(.fadd d c, 0x80), (.fmul d c, 0x81), (.ffma d c, 0x82), (.fmax d c, 0x83), (.fmin d c, 0x84),
    (.fsel d c, 0x85), (.fcmp d c, 0x86), (.fspec d c, 0x87), (.fred d c, 0x88), (.iadd d c, 0x89), (.isub d c, 0x8A), (.imul d c, 0x8B),
    (.ilog d c, 0x8C), (.mov d c, 0x8D), (.cvt d c, 0x90), (.drop d c, 0x91), (.rand d c, 0x92), (.mupd d c, 0x93), (.ld d c, 0x98),
    (.st d c, 0x99), (.ldc d c, 0x9A), (.stc d c, 0x9B), (.pack24 d c, 0x9D), (.topk d c, 0x9E), (.scupd d c, 0x9F), (.salu d c, 0xA0),
    (.sli d c, 0xA1), (.br d c, 0xA2), (.loop d c, 0xA3)]

theorem isKetRow_of_mem {d c : Nat} {e : Instr × Nat} (he : e ∈ ketRows d c) (s : State) : isKetRow e.2 d c e.1 s := by
  simp only [ketRows, List.mem_cons, List.not_mem_nil, or_false] at he
  rcases he with rfl | rfl | rfl | rfl | rfl | rfl | rfl | rfl | rfl | rfl | rfl | rfl | rfl | rfl | rfl | rfl | rfl | rfl | rfl | rfl | rfl |
    rfl | rfl | rfl | rfl | rfl | rfl | rfl | rfl
  · exact ⟨_, _, _, _, exec_fadd d c s⟩
  · exact ⟨_, _, _, _, exec_fmul d c s⟩
  · exact ⟨_, _, _, _, exec_ffma d c s⟩
  · exact ⟨_, _, _, _, exec_fmax d c s⟩
  · exact ⟨_, _, _, _, exec_fmin d c s⟩
  · exact ⟨_, _, _, _, exec_fsel d c s⟩
  · exact ⟨_, _, _, _, exec_fcmp d c s⟩
  · exact ⟨_, _, _, _, exec_fspec d c s⟩
  · exact ⟨_, _, _, _, exec_fred d c s⟩
  · exact ⟨_, _, _, _, exec_iadd d c s⟩
  · exact ⟨_, _, _, _, exec_isub d c s⟩
  · exact ⟨_, _, _, _, exec_imul d c s⟩
  · exact ⟨_, _, _, _, exec_ilog d c s⟩
  · exact ⟨_, _, _, _, exec_mov d c s⟩
  · exact ⟨_, _, _, _, exec_cvt d c s⟩
  · exact ⟨_, _, _, _, exec_drop d c s⟩
  · exact ⟨_, _, _, _, exec_rand d c s⟩
  · exact ⟨_, _, _, _, exec_mupd d c s⟩
  · exact ⟨_, _, _, _, exec_ld d c s⟩
  · exact ⟨_, _, _, _, exec_st d c s⟩
  · exact ⟨_, _, _, _, exec_ldc d c s⟩
  · exact ⟨_, _, _, _, exec_stc d c s⟩
  · exact ⟨_, _, _, _, exec_pack24 d c s⟩
  · exact ⟨_, _, _, _, exec_topk d c s⟩
  · exact ⟨_, _, _, _, exec_scupd d c s⟩
  · exact ⟨_, _, _, _, exec_salu d c s⟩
  · exact ⟨_, _, _, _, exec_sli d c s⟩
  · exact ⟨_, _, _, _, exec_br d c s⟩
  · exact ⟨_, _, _, _, exec_loop d c s⟩

/-- The transfer groups that read an address, their opcodes and the checks of it. -/
def xferRows (s : State) (d c : Nat) (w : InstrWord) : List (Instr × Nat × List (Bool × Nat)) :=
  let x := s.kcore d (ctxInst c)
  [(.ld d c, 0x98, s.loadChecks d c x w), (.st d c, 0x99, s.storeChecks d c x w),
    (.ldc d c, 0x9A, s.ldcChecks d c false x w), (.stc d c, 0x9B, s.ldcChecks d c true x w), (.pack24 d c, 0x9D, s.packChecks d c x w),
    (.scupd d c, 0x9F, s.scChecks d c x w)]

theorem isXferRow_of_mem {s : State} {d c : Nat} {w : InstrWord} {e : Instr × Nat × List (Bool × Nat)} (he : e ∈ xferRows s d c w) :
    ∃ late psn body, exec e.1 s = ketRow e.2.1 d c s addrPsn late psn body ∧ late (s.kcore d (ctxInst c)) w = e.2.2 := by
  simp only [xferRows, List.mem_cons, List.not_mem_nil, or_false] at he
  rcases he with rfl | rfl | rfl | rfl | rfl | rfl
  · exact ⟨_, _, _, exec_ld d c s, rfl⟩
  · exact ⟨_, _, _, exec_st d c s, rfl⟩
  · exact ⟨_, _, _, exec_ldc d c s, rfl⟩
  · exact ⟨_, _, _, exec_stc d c s, rfl⟩
  · exact ⟨_, _, _, exec_pack24 d c s, rfl⟩
  · exact ⟨_, _, _, exec_scupd d c s, rfl⟩

/-! ## Branches and KPUSH -/

section
variable {d c : Nat} {s : State} {w : InstrWord}

/-- The condition of a branch (12 R520). -/
def brTaken (w : InstrWord) (v : Nat) : Bool :=
  if wbits w 74 2 = 0 then decide (v = 0) else if wbits w 74 2 = 1 then decide (v ≠ 0) else if wbits w 74 2 = 2 then bit v 63 else ! bit v 63

theorem brTaken_iff (w : InstrWord) (v : Nat) : brTaken w v = true ↔
    (wbits w 74 2 = 0 ∧ v = 0) ∨ (wbits w 74 2 = 1 ∧ v ≠ 0) ∨ (wbits w 74 2 = 2 ∧ bit v 63 = true) ∨
      (wbits w 74 2 = 3 ∧ bit v 63 = false) := by
  have hk : wbits w 74 2 < 4 := Nat.mod_lt _ (by decide)
  unfold brTaken
  split_ifs with h0 h1 h2
  · simp [h0]
  · simp [h1]
  · simp [h2]
  · simp [show wbits w 74 2 = 3 by omega]

theorem exec_br_takes (h : s.ketTakes 0xA2 d c w) (hp : ((s.kcore d (ctxInst c)).sc (kJ w 64)).2 = false) :
    exec (.br d c) s = .next (if brTaken w ((s.kcore d (ctxInst c)).sc (kJ w 64)).1 then (s.ketCompute d c w [] []).jump d c w
      else s.ketCompute d c w [] []) := by
  rw [exec_br, ketRow_runs h rfl rfl hp]
  rfl

theorem exec_loop_takes (h : s.ketTakes 0xA3 d c w) (hp : ((s.kcore d (ctxInst c)).sc (kJ w 64)).2 = false) :
    exec (.loop d c) s = .next (
      let v := ((s.kcore d (ctxInst c)).sc (kJ w 64)).1
      if v = 0 then s.ketCompute d c w [] [] else
      let t := s.ketCompute d c w [] [(kJ w 64, BitVec.ofNat 64 (v - 1), false)]
      if v = 1 then t else t.jump d c w) := by
  rw [exec_loop, ketRow_runs h rfl rfl hp]

/-- A KPUSH whose racking word is fetched is a row of the kettle cores. -/
theorem exec_kpush {v0 : InstrWord} {rest : List InstrWord} (hb : (s.ctx d c).ibuf = w :: v0 :: rest) :
    exec (.kpush d c) s =
      ketRow 0x9C d c s noPsn noLate (fun x w => wbit w 87 && (x.sc (kJ w 64)).2) (fun x w => s.kpush d c x w) :=
  if_neg (by rw [hb]; simp only [List.length_cons]; omega)

theorem exec_kpush_waits (h : s.hasCtx d c = true) (hl : (s.ctx d c).ibuf.length < 2) : exec (.kpush d c) s = .next s :=
  (if_pos hl).trans (if_pos h)

theorem State.kpush_offers {x : KCore} {v0 : InstrWord} {rest : List InstrWord} (hb : (s.ctx d c).ibuf = w :: v0 :: rest)
    (h0 : 0x50 ≤ wbits (pushWord x w v0) 0 8) (h1 : wbits (pushWord x w v0) 0 8 ≤ 0x55)
    (ho : (s.rackOffer d c (pushWord x w v0)).1 = oOK) :
    s.kpush d c x w = (let t := (s.rackOffer d c (pushWord x w v0)).2
      (t.done d (t.ctx d c).part (wbits w 8 12) (t.ctx d c).tag).accept d c 2 true) := by
  simp only [State.kpush, hb, ho, if_true, if_neg (show ¬ (wbits (pushWord x w v0) 0 8 < 0x50 ∨ 0x55 < wbits (pushWord x w v0) 0 8) by omega)]

end

/-- Settles O14: every group is a row of the kettle cores, which waits, rejects, consumes poison or runs its body. -/
theorem scalarBranchAndTransferGroupsAreAcceptedOrRejected : Obligations.ScalarBranchAndTransferGroupsAreAcceptedOrRejected := by
  refine ⟨fun s d c w => ?_, fun s d c w => ?_, fun s d c w hp he => ?_⟩
  · intro x pends v
    refine ⟨fun h hw => ?_, fun h hw => ?_, fun h => ?_, fun h hp => ⟨fun ht => ?_, fun ht => ?_⟩,
      fun h hp => ⟨fun hv => ?_, fun hv => ?_, fun hv => ?_⟩, fun h hp => ?_, fun h hp => ?_⟩
    · rw [exec_salu, ketRow_plain h, hw]
      rfl
    · rw [exec_salu, ketRow_plain h, hw]
      simp only [if_true, Bool.or_false]
      rfl
    · rw [exec_sli, ketRow_plain h]
    · rw [exec_br_takes h hp, if_pos ((brTaken_iff ..).mpr ht)]
    · rw [exec_br_takes h hp, if_neg fun hb => ht ((brTaken_iff ..).mp hb)]
    · rw [exec_loop_takes h hp]
      exact congrArg _ (if_pos hv)
    · rw [exec_loop_takes h hp]
      simp only [show ((s.kcore d (ctxInst c)).sc (kJ w 64)).1 = 1 from hv]
      rfl
    · have hv' : 2 ≤ ((s.kcore d (ctxInst c)).sc (kJ w 64)).1 := hv
      rw [exec_loop_takes h hp]
      exact congrArg _ ((if_neg (Nat.ne_of_gt (by omega))).trans (if_neg (Nat.ne_of_gt (by omega))))
    · rw [exec_br]
      exact ketRow_poison h rfl rfl hp
    · rw [exec_loop]
      exact ketRow_poison h rfl rfl hp
  · intro x
    refine ⟨fun h hk ha => ?_, fun h hk ha => ?_, fun h hk ha => ?_, fun h hk ha hp => ?_, fun h hk ha => ?_, fun h hk ha => ?_,
      fun h hk ha hp => ?_, fun v0 rest h hb hp => ?_, fun h hl => exec_kpush_waits h hl⟩
    · rw [exec_ld, ketRow_runs h ha hk rfl]
    · rw [exec_st, ketRow_runs h ha hk rfl]
    · rw [exec_ldc, ketRow_runs h ha hk rfl]
    · rw [exec_stc, ketRow_runs h ha hk hp]
    · rw [exec_pack24, ketRow_runs h ha hk rfl]
    · rw [exec_topk, ketRow_runs h _ hk rfl]
      rcases ha with h0 | h0
      · rw [h0]
        rfl
      · rw [show addrPsn (s.kcore d (ctxInst c)) w = false from h0, Bool.and_false]
    · rw [exec_scupd, ketRow_runs h ha hk hp]
    · intro v h0 h1 ho t
      have hpsn : (wbit w 87 && ((s.kcore d (ctxInst c)).sc (kJ w 64)).2) = false := by
        by_cases h87 : wbit w 87 = true
        · rw [show ((s.kcore d (ctxInst c)).sc (kJ w 64)).2 = false from hp h87, Bool.and_false]
        · rw [Bool.not_eq_true _ |>.mp h87, Bool.false_and]
      rw [exec_kpush hb, ketRow_runs h rfl rfl hpsn, State.kpush_offers hb h0 h1 ho]
  · intro x f waits
    refine ⟨fun e hmem ho => ?_, fun e hmem h => ?_⟩
    · obtain ⟨addr, late, psn, body, hrow⟩ := isKetRow_of_mem hmem s
      rw [hrow]
      refine ⟨fun hw => ketRow_waits hp he ho hw, fun hw => ⟨fun h1 => ?_, fun h1 h2 => ?_, fun h1 h2 h3 => ?_⟩⟩
      · exact ketRow_rejects hp he ho hw (by rw [h1]; rfl)
      · exact ketRow_rejects hp he ho hw (by rw [h1, h2]; rfl)
      · exact ketRow_rejects hp he ho hw (by rw [h1, h2, h3]; rfl)
    · obtain ⟨late, psn, body, hrow, hlate⟩ := isXferRow_of_mem hmem
      rw [hrow, ← hlate]
      exact ⟨fun ha => ketRow_address h ha, fun k ha hk => ketRow_late h ha hk⟩

end Sys2Proof.Machine
end

section
/-!
PROOFS. Kettle cores: the completion of a group (12 R508, R512–R514).
-/
namespace Sys2Proof.Machine

/-! ## The group that is due first (12 R512, R513) -/

/-- The group that is due first is one of the list, none is due before it, and one less is left. -/
theorem dueFirst_spec {l rest : List KPend} {p : KPend} (h : dueFirst l = some (p, rest)) :
    p ∈ l ∧ (∀ q, q ∈ l → p.due ≤ q.due) ∧ rest.length + 1 = l.length := by
  induction l generalizing p rest with
  | nil => cases h
  | cons a as ih =>
    rw [dueFirst] at h
    cases ha : dueFirst as with
    | none =>
      rw [ha] at h
      cases h
      have hnil : as = [] := by
        cases as with
        | nil => rfl
        | cons b bs =>
          rw [dueFirst] at ha
          split at ha
          · cases ha
          · split at ha <;> cases ha
      subst hnil
      simp
    | some e =>
      obtain ⟨q, qs⟩ := e
      obtain ⟨hmem, hmin, hlen⟩ := ih ha
      rw [ha] at h
      dsimp only at h
      split at h
      · next hle =>
        cases h
        refine ⟨List.mem_cons_self, fun r hr => ?_, rfl⟩
        rcases List.mem_cons.mp hr with rfl | hr
        · exact le_refl _
        · exact hle.trans (hmin r hr)
      · next hle =>
        cases h
        refine ⟨List.mem_cons_of_mem _ hmem, fun r hr => ?_, by simp only [List.length_cons]; omega⟩
        rcases List.mem_cons.mp hr with rfl | hr
        · omega
        · exact hmin r hr

section
variable {s : State} {d k : Nat} {p : KPend} {rest : List KPend}

theorem exec_kettleGroupComplete (hd : s.hasDie d = true) (hk : k < 4) :
    exec (.kettleGroupComplete d k) s = .next (s.ketComplete d k) :=
  if_pos (by rw [hd, decide_eq_true hk]; rfl)

theorem State.ketComplete_writes (h : dueFirst (s.kcore d k).pend = some (p, rest)) (hp : (s.ketDone d k p).1.psn = none) :
    s.ketComplete d k =
      (let t := (s.ketDone d k p).2
       let x : KCore := { t.kcore d k with pend := rest, cycle := max (t.kcore d k).cycle p.due }
       ((t.putKcore d k ((x.putZ (s.ketDone d k p).1.zw).putJ (s.ketDone d k p).1.jw)).done d p.part (wbits p.word 8 12) p.tag).ctxRetire
         d p.c) := by
  simp only [State.ketComplete, h, hp]

theorem State.ketComplete_stops (h : dueFirst (s.kcore d k).pend = some (p, rest)) {a : Nat} (hp : (s.ketDone d k p).1.psn = some a) :
    s.ketComplete d k =
      (let t := (s.ketDone d k p).2
       (t.putKcore d k { t.kcore d k with pend := rest, cycle := max (t.kcore d k).cycle p.due }).ketStop d p a) := by
  simp only [State.ketComplete, h, hp]

theorem State.ketDone_compute (h : wbits p.word 0 8 < 0x98) : s.ketDone d k p = ({ zw := p.zw, jw := p.jw }, s) := by
  unfold State.ketDone
  split
  case h_8 => rfl
  all_goals omega

end

/-! ## Lanes written (12 R508) -/

section
variable {x : KCore}

theorem KCore.putZ_rest (l : List (Nat × Word32 × Bool)) : (x.putZ l).j = x.j ∧ (x.putZ l).jp = x.jp ∧ (x.putZ l).pend = x.pend := by
  induction l generalizing x with
  | nil => exact ⟨rfl, rfl, rfl⟩
  | cons e l ih =>
    rw [KCore.putZ]
    exact ih

/-- Lanes that no write names stay. -/
theorem KCore.lane_putZ_outside {l : List (Nat × Word32 × Bool)} (hz : mrising x.z = true) (hp : mrising x.zp = true) {r i : Nat}
    (h : ∀ e ∈ l, e.1 ≠ r * 64 + i) : (x.putZ l).lane r i = x.lane r i := by
  induction l generalizing x with
  | nil => rfl
  | cons e l ih =>
    have he := (h e List.mem_cons_self).symm
    rw [KCore.putZ, ih (mrising_mset _ _ hz) (mrising_mset _ _ hp) fun u hu => h u (List.mem_cons_of_mem _ hu)]
    simp only [KCore.lane, mget_mset_ne _ hz he, mget_mset_ne _ hp he]

/-- The lane of a register that a list of lanes is written to, from lane n. -/
theorem KCore.lane_putZ_inside {l : List (Nat × Bool)} (hz : mrising x.z = true) (hp : mrising x.zp = true) {r n j : Nat}
    (hj : j < l.length) :
    (x.putZ ((l.zipIdx n).map (fun (t : (Nat × Bool) × Nat) => (r * 64 + t.2, BitVec.ofNat 32 t.1.1, t.1.2)))).lane r (n + j) =
      (l[j].1 % 2 ^ 32, l[j].2) := by
  induction l generalizing x n j with
  | nil => cases hj
  | cons a l ih =>
    rw [List.zipIdx_cons, List.map_cons, KCore.putZ]
    cases j with
    | zero =>
      rw [KCore.lane_putZ_outside (mrising_mset _ _ hz) (mrising_mset _ _ hp)]
      · simp only [KCore.lane, Nat.add_zero, mget_mset_same _ _ hz, mget_mset_same _ _ hp, BitVec.toNat_ofNat, List.getElem_cons_zero]
      · intro e he
        obtain ⟨u, hu, rfl⟩ := List.mem_map.mp he
        have := List.le_snd_of_mem_zipIdx hu
        dsimp only
        omega
    | succ j =>
      have hi := ih (x := { x with z := mset z32 x.z (r * 64 + n) (BitVec.ofNat 32 a.1), zp := mset zB x.zp (r * 64 + n) a.2 })
        (mrising_mset _ _ hz) (mrising_mset _ _ hp) (n := n + 1) (j := j) (Nat.lt_of_succ_lt_succ hj)
      rw [show n + (j + 1) = n + 1 + j by omega]
      exact hi

end

/-- Settles O15: the completion is one of `State.ketComplete_writes` and `State.ketComplete_stops`; the lanes of a two-source operation are
those of `KCore.lane_putZ_inside`. -/
theorem oldestKettleGroupCompletesIntoItsLanes : Obligations.OldestKettleGroupCompletesIntoItsLanes := by
  refine ⟨fun s d k p rest hd hk hdue => ?_, fun f x w hz hp => ?_⟩
  · intro r t x
    obtain ⟨hmem, hmin, hlen⟩ := dueFirst_spec hdue
    rw [exec_kettleGroupComplete hd hk]
    refine ⟨fun h => ?_, fun a h => ?_, fun h => State.ketDone_compute h, hmem, hmin, hlen⟩
    · rw [State.ketComplete_writes hdue h]
    · rw [State.ketComplete_stops hdue h]
  · intro y
    refine ⟨fun i hi => ?_, fun r i hr hi => ?_, KCore.putZ_rest _⟩
    · have h := KCore.lane_putZ_inside hz hp (r := kD w) (n := 0) (j := i)
        (l := ((x.reg (kA w)).zip (x.reg (kB w))).map (fun (t : (Nat × Bool) × (Nat × Bool)) => (f t.1.1 t.2.1, t.1.2 || t.2.2)))
        (by simp [KCore.reg, hi])
      rw [Nat.zero_add] at h
      refine h.trans ?_
      simp [KCore.reg]
    · refine KCore.lane_putZ_outside hz hp fun e he => ?_
      obtain ⟨u, hu, rfl⟩ := List.mem_map.mp he
      have := List.snd_lt_of_mem_zipIdx hu
      simp [KCore.reg] at this
      dsimp only
      omega

end Sys2Proof.Machine
end

section
/-!
PROOFS. Kettle cores: lane arithmetic (12 R519, R523).
-/
namespace Sys2Proof.Machine

/-! ## I32 arithmetic (12 R519) -/

theorem clampI_eq (i : Int) : clampI i32Lo i32Hi i = max (-2147483648) (min 2147483647 i) := by
  unfold clampI i32Lo i32Hi
  split_ifs <;> omega

theorem sx_iSat (i : Int) : sx 32 (iSat i) = max (-2147483648) (min 2147483647 i) := by
  rw [iSat, sx_tc_clamp_i32, clampI_eq]

/-! ## The order of the binary32 numbers (12 R523) -/

theorem key32_strict {a : Nat} (ha : a < 2 ^ 32) :
    key32 true a = if 2 ^ 31 ≤ a then -((a - 2 ^ 31 : Nat) : Int) - 1 else (a : Int) := by
  unfold key32
  dsimp only
  rw [if_pos rfl]
  by_cases h : 2 ^ 31 ≤ a
  · rw [if_pos (by omega), if_pos h]
    omega
  · rw [if_neg (by omega), if_neg h]
    omega

theorem key32_inj {a b : Nat} (ha : a < 2 ^ 32) (hb : b < 2 ^ 32) (h : key32 true a = key32 true b) : a = b := by
  rw [key32_strict ha, key32_strict hb] at h
  split at h <;> split at h <;> omega

section
variable {a b : Nat}

theorem fMax_nan (h : isNan32 a = true ∨ isNan32 b = true) : fMax a b = nan32 := if_pos h
theorem fMin_nan (h : isNan32 a = true ∨ isNan32 b = true) : fMin a b = nan32 := if_pos h

variable (ha : a < 2 ^ 32) (hb : b < 2 ^ 32) (hna : isNan32 a = false) (hnb : isNan32 b = false)
include ha hb hna hnb

theorem fMax_key : fMax a b = if key32 true a ≤ key32 true b then b else a := by
  rw [fMax, if_neg (by simp [hna, hnb]), Nat.mod_eq_of_lt ha, Nat.mod_eq_of_lt hb]
  rcases lt_trichotomy (key32 true a) (key32 true b) with h | h | h
  · rw [if_pos h, if_pos h.le]
  · rw [key32_inj ha hb h, ite_self, ite_self]
  · rw [if_neg h.not_gt, if_neg h.not_ge]

theorem fMin_key : fMin a b = if key32 true a ≤ key32 true b then a else b := by
  rw [fMin, if_neg (by simp [hna, hnb]), Nat.mod_eq_of_lt ha, Nat.mod_eq_of_lt hb]
  by_cases h : key32 true a ≤ key32 true b
  · rw [if_neg h.not_gt, if_pos h]
  · rw [if_pos (not_le.mp h), if_neg h]

end

/-- Settles O16: the saturated result reads as its number (`sx_iSat`), and the key of a word orders the words as the statement does
(`key32_strict`). -/
theorem laneArithmeticSaturatesAndKeepsNaN : Obligations.LaneArithmeticSaturatesAndKeepsNaN := by
  refine ⟨fun a b => ⟨sx_iSat _, sx_iSat _, sx_iSat _⟩, fun a b h => ⟨fMax_nan h, fMin_nan h⟩, fun a b ha hb hna hnb => ?_, by decide⟩
  intro at_
  rw [fMax_key ha hb hna hnb, fMin_key ha hb hna hnb, key32_strict ha, key32_strict hb]
  exact ⟨rfl, rfl⟩

end Sys2Proof.Machine
end

section
/-!
PROOFS. Threads: the synchronisation instructions (10 R411–R422).
-/
namespace Sys2Proof.Machine

section
variable {s : State} {opc d c : Nat} {w : InstrWord} {checks : InstrWord → List (Bool × Nat)} {body : InstrWord → State}

/-- A synchronisation instruction that the engine can take and no check rejects: its body, and the count of a kettle core when the body
neither holds nor stops the context. -/
theorem syncRow_passes (h : s.syncTakes opc d c w) (hk : firstFail (checks w) = none) :
    syncRow opc d c s checks body = .next (
      let st := ((body w).ctx d c).state
      if ctxEng c = 1 ∧ st ≠ cHOLD ∧ st ≠ cSTOPPED then (body w).ketGroup d c else body w) := by
  obtain ⟨hp, ho, hb⟩ := h
  have hb' : ¬ (ctxEng c = 1 ∧ s.coreBusy d c = true) := fun h => by simp [hb h.1] at h
  unfold syncRow
  rw [issue_presents hp rfl (by simp [ho])]
  simp only [hb', hk, if_false]

/-- In an engine that is no kettle core the body answers. -/
theorem syncRow_runs (h : s.syncTakes opc d c w) (hk : firstFail (checks w) = none) (he : ctxEng c ≠ 1) :
    syncRow opc d c s checks body = .next (body w) := by
  rw [syncRow_passes h hk]
  exact congrArg _ (if_neg fun h => he h.1)

/-- A body that leaves its context in state st, neither held nor stopped. -/
theorem syncRow_leaves (h : s.syncTakes opc d c w) (hk : firstFail (checks w) = none) {t : State} (ht : body w = t) {st : Nat}
    (hst : (t.ctx d c).state = st) (h1 : st ≠ cHOLD) (h2 : st ≠ cSTOPPED) :
    syncRow opc d c s checks body = .next (syncLeaves d c t) := by
  subst ht hst
  exact syncRow_takes h hk h1 h2

/-- A body that holds its context is no group of a kettle core yet, nor is one that stops it. -/
theorem syncRow_holds (h : s.syncTakes opc d c w) (hk : firstFail (checks w) = none) {t : State} (ht : body w = t) {st : Nat}
    (hst : (t.ctx d c).state = st) (h1 : st = cHOLD ∨ st = cSTOPPED) : syncRow opc d c s checks body = .next t := by
  subst ht hst
  rw [syncRow_passes h hk]
  exact congrArg _ (if_neg fun h => h1.elim h.2.1 h.2.2)

end

section
variable {s : State} (d c : Nat)

theorem exec_post : exec (.post d c) s = syncRow 0x60 d c s postChecks (s.post d c) := rfl
theorem exec_yield : exec (.yield d c) s = syncRow 0x64 d c s (fun w => [(decide (wbits w 24 104 ≠ 0), 1)]) (s.yield d c) := rfl
theorem exec_fence : exec (.fence d c) s = syncRow 0x62 d c s fenceChecks (s.fence d c) := rfl
theorem exec_end : exec (.end_ d c) s = syncRow 0x65 d c s fenceChecks (s.fence d c) := rfl

end

section
variable {s : State} {d c : Nat} {w : InstrWord}

theorem postChecks_remote (h : pREM w = true) : firstFail (postChecks w) = none := by rw [postChecks, if_pos h]; rfl

theorem fenceChecks_pass (h : wbits w 20 108 = 0) : firstFail (fenceChecks w) = none := by simp [fenceChecks, firstFail, h]

theorem State.post_local (h : pREM w = false) : s.post d c w =
    (s.postCtr d (s.ctx d c).part (wbits w 8 12) (pADD w) (pCLR w) (s.ctx d c).tag).accept d c 1 false :=
  if_neg (by simp [h])

theorem State.post_rack (h : pREM w = true) (he : ctxEng c = 2) : s.post d c w = s.rackIssueThread d c w :=
  (if_pos h).trans (if_pos he)

theorem State.post_remote (h : pREM w = true) (he : ctxEng c ≠ 2) (ho : (s.rackOffer d c w).1 = oOK) :
    s.post d c w = (s.rackOffer d c w).2.accept d c 1 true :=
  (if_pos h).trans ((if_neg he).trans (if_pos ho))

/-- A fence with an earlier instruction left holds its context at the instruction. -/
theorem State.fence_holds (h : (s.ctx d c).outst ≠ 0) : s.fence d c w =
    s.ctxTo d c { s.ctx d c with state := cFENCE, ending := wbits w 0 8 = 0x65, heldus := 0 } := if_neg h

theorem State.fence_fence (ho : wbits w 0 8 = 0x62) (h : (s.ctx d c).outst = 0) : s.fence d c w =
    (s.done d (s.ctx d c).part (wbits w 8 12) (s.ctx d c).tag).accept d c 1 false :=
  (if_pos h).trans (if_neg (by rw [ho]; decide))

theorem State.fence_end (ho : wbits w 0 8 = 0x65) (h : (s.ctx d c).outst = 0) : s.fence d c w =
    (s.done d (s.ctx d c).part (wbits w 8 12) (s.ctx d c).tag).ctxTo d c {} :=
  (if_pos h).trans (if_pos ho)

theorem State.wait_poison (hp : (s.readCheck (.ctx d) (ctrOff (s.ctx d c).part (wCTR w)) 8).poisoned (.ctx d)
    (ctrOff (s.ctx d c).part (wCTR w)) 8 = true) :
    s.wait d c w = (let x := s.ctx d c
      let u := s.readCheck (.ctx d) (ctrOff x.part (wCTR w)) 8
      (u.ctxTo d c { x with state := cSTOPPED, fopc := 0x61, heldus := 0, wctr := 0, wthr := 0 }).consumed
        d x.tag x.part (ctxIsland c) (gaddr (.ctx d) (ctrOff x.part (wCTR w) / 64 * 64))) := by
  simp only [State.wait, hp, if_true, State.tokenPoison, State.ctx_of_work (State.readCheck_work ..)]

end

/-- What a canonical state becomes by an operation of the module keeps its threads' table in order. -/
theorem Keeps.ctxs {P : Prop} {s t : State} (h : Keeps P s t) (hs : s.canon = true) : mrising t.ctxs = true :=
  State.canon_ctxs (State.canon_iff.mpr (h.canon (State.canon_iff.mp hs)))

/-- Settles O17: each instruction passes its checks (`syncRow_leaves`, `syncRow_runs`, `syncRow_holds`); what it does is its own equation. -/
theorem synchronisationInstructionsTakeEffect : Obligations.SynchronisationInstructionsTakeEffect := by
  intro s d c w hs x
  have hk := Keeps.refl (P := True) s
  have hctx : mrising s.ctxs = true := State.canon_ctxs hs
  refine ⟨fun ht hr hc => ?_, fun ht hr he => ?_, fun ht hr he ho => ?_, fun ht hr => ?_, fun ht hr => ⟨fun h => ?_, fun h => ?_⟩,
    fun ht hr => ⟨fun h => ?_, fun h => ?_⟩, fun ht hr hc => ?_⟩
  · exact syncRow_leaves ht hc (State.post_local hr) (State.accept_ready (hk.postCtr.ctxs hs) ..) (by decide) (by decide)
  · rw [exec_post, syncRow_runs ht (postChecks_remote hr) (by omega), State.post_rack hr he]
  · exact syncRow_leaves ht (postChecks_remote hr) (State.post_remote hr he ho) (State.accept_ready (hk.rackOffer.ctxs hs) ..)
      (by decide) (by decide)
  · refine syncRow_leaves ht (by simp [firstFail, hr]) rfl (st := cREADY) ?_ (by decide) (by decide)
    rw [State.ctx_same (hk.accept.ctxs hs)]
    exact State.accept_ready hctx ..
  · exact syncRow_leaves ht (fenceChecks_pass hr) (State.fence_fence ht.2.1 h) (State.accept_ready (hk.done.ctxs hs) ..)
      (by decide) (by decide)
  · refine syncRow_leaves ht (fenceChecks_pass hr) ((State.fence_holds h).trans ?_) (st := cFENCE) ?_ (by decide) (by decide)
    · rw [ht.2.1]
      rfl
    · rw [State.ctx_ctxTo_same hctx]
  · refine syncRow_leaves ht (fenceChecks_pass hr) (State.fence_end ht.2.1 h) (st := cFREE) ?_ (by decide) (by decide)
    rw [State.ctx_ctxTo_same (hk.done.ctxs hs)]
    rfl
  · refine syncRow_leaves ht (fenceChecks_pass hr) ((State.fence_holds h).trans ?_) (st := cFENCE) ?_ (by decide) (by decide)
    · rw [ht.2.1]
      rfl
    · rw [State.ctx_ctxTo_same hctx]
  · intro u hp
    rw [exec_wait]
    refine syncRow_holds ht (by simp [firstFail, hr, hc]) (State.wait_poison hp) (st := cSTOPPED) ?_ (.inr rfl)
    rw [State.consumed, State.report_get_ctx, State.ctx_ctxTo_same (hk.readCheck.ctxs hs)]

end Sys2Proof.Machine
end

section
/-!
PROOFS. Threads: SPAWN and the release of a fence (10 R420–R423).
-/
namespace Sys2Proof.Machine

section
variable {s : State} {d c : Nat} {w : InstrWord} {q : List InstrWord}

theorem exec_spawn : exec (.spawn d c) s = syncRow 0x63 d c s (s.spawnChecks d c) (s.spawn d c) := rfl

theorem exec_fenceSatisfied (h : s.hasCtx d c = true) : exec (.fenceSatisfied d c) s = .next (s.fenceSatisfied d c) := if_pos h

theorem State.fenceSatisfied_done (hf : (s.ctx d c).state = cFENCE) (ho : (s.ctx d c).outst = 0) (hw : (s.ctx d c).ibuf = w :: q) :
    s.fenceSatisfied d c = (s.putCtx d c { s.ctx d c with ending := false }).fenceDone d c w := by
  simp [State.fenceSatisfied, hw, hf, ho]

theorem State.fenceSatisfied_waits (ho : (s.ctx d c).outst ≠ 0) : s.fenceSatisfied d c = s := by
  unfold State.fenceSatisfied
  dsimp only
  split
  · rfl
  · exact if_pos (.inr ho)

/-! ## What a SPAWN does (10 R421, R423) -/

theorem State.spawn_starts (hp : sPRED w = false) (hf : (s.ctx d (sTarget w)).state = cFREE) :
    s.spawn d c w = (s.startThread d (sTarget w) (s.ctx d c).tag (s.ctx d c).part (sPC w)).spawnEnd d c w := by
  simp [State.spawn, hp, hf]

theorem State.spawn_holds (hp : sPRED w = false) (hf : (s.ctx d (sTarget w)).state ≠ cFREE) : s.spawn d c w = s.hold d c := by
  simp [State.spawn, hp, hf]

/-- The context is in HOLD at the instruction. -/
theorem State.hold_state (h : mrising s.ctxs = true) : ((s.hold d c).ctx d c).state = cHOLD := by
  unfold State.hold
  dsimp only
  split
  · next hh => exact hh
  · rw [State.ctx_ctxTo_same h]

theorem State.spawnEnd_ready (h : mrising (s.done d (s.ctx d c).part (wbits w 8 12) (s.ctx d c).tag).ctxs = true) :
    ((s.spawnEnd d c w).ctx d c).state = cREADY := State.accept_ready h ..

end

/-- A SPAWN that completes is taken, and leaves its context READY. -/
theorem exec_spawn_ends {P : Prop} {s t : State} {d c : Nat} {w : InstrWord} (hs : s.canon = true) (ht : s.syncTakes 0x63 d c w)
    (hk : firstFail (s.spawnChecks d c w) = none) (hkeep : Keeps P s t) (h : s.spawn d c w = t.spawnEnd d c w) :
    exec (.spawn d c) s = .next (syncLeaves d c (t.spawnEnd d c w)) :=
  syncRow_leaves ht hk h (State.spawnEnd_ready (hkeep.done.ctxs hs)) (by decide) (by decide)

section
variable {s u : State} {d c : Nat} {w : InstrWord} (hu : u = s.readCheck (.ctx d) (sPADDR w) 16) (hp : sPRED w = true)
include hu hp

/-- A SPAWN with a predicate, its word read. -/
theorem State.spawn_poison (hx : u.poisoned (.ctx d) (sPADDR w) 16 = true) : s.spawn d c w =
    (u.ctxTo d c { s.ctx d c with state := cSTOPPED, fopc := 0x63 }).consumed d (s.ctx d c).tag (s.ctx d c).part (ctxIsland c)
      (gaddr (.ctx d) (sPADDR w)) := by
  subst hu
  simp [State.spawn, hp, hx]

variable (hx : u.poisoned (.ctx d) (sPADDR w) 16 = false)
include hx

theorem State.spawn_empty (hf : decide (bits (u.peekN (.ctx d) (sPADDR w) 16) (sPLO w) (sPWID w + 1) ≠ 0) = sNEG w) :
    s.spawn d c w = u.spawnEnd d c w := by
  subst hu
  simp only [State.spawn, hp, hx, hf, if_true, and_self, and_false, if_false, Bool.false_eq_true]

theorem State.spawn_starts_pred (hf : decide (bits (u.peekN (.ctx d) (sPADDR w) 16) (sPLO w) (sPWID w + 1) ≠ 0) ≠ sNEG w)
    (hfree : (u.ctx d (sTarget w)).state = cFREE) :
    s.spawn d c w = (u.startThread d (sTarget w) (s.ctx d c).tag (s.ctx d c).part (sPC w)).spawnEnd d c w := by
  subst hu
  simp only [State.spawn, hp, hx, hf, hfree, if_true, ne_eq, not_true, and_false, if_false, Bool.false_eq_true]

end

/-- Settles O19: the cases of a SPAWN are its five equations, each of a SPAWN that passes its checks; a fence goes on by
`State.fenceSatisfied_done`. -/
theorem spawnStartsAThreadAndHeldContextsAreReleased : Obligations.SpawnStartsAThreadAndHeldContextsAreReleased := by
  refine ⟨fun s d c w hs ht hc => ?_, fun s d c w q hc => ⟨fun hf ho hw => ?_, fun _ ho => ?_⟩⟩
  · intro x start
    have hk := Keeps.refl (P := True) s
    have hctx : mrising s.ctxs = true := State.canon_ctxs hs
    refine ⟨fun hp hf => ⟨?_, ?_⟩, fun hp hf => ?_, ?_, ?_, ?_⟩
    · exact exec_spawn_ends hs ht hc hk.startThread (State.spawn_starts hp hf)
    · exact (State.ctx_of_work (State.ctxFull_work ..) ..).trans (State.ctx_same hctx ..)
    · exact syncRow_holds ht hc (State.spawn_holds hp hf) (State.hold_state hctx) (.inl rfl)
    · intro u f hp hx hf
      exact exec_spawn_ends hs ht hc hk.readCheck (State.spawn_empty rfl hp hx hf)
    · intro u f hp hx hf hfree
      exact exec_spawn_ends hs ht hc hk.readCheck.startThread (State.spawn_starts_pred rfl hp hx hf hfree)
    · intro u hp hx
      refine syncRow_holds ht hc (State.spawn_poison rfl hp hx) (st := cSTOPPED) ?_ (.inr rfl)
      rw [State.consumed, State.report_get_ctx, State.ctx_ctxTo_same (hk.readCheck.ctxs hs)]
  · rw [exec_fenceSatisfied hc, State.fenceSatisfied_done hf ho hw]
  · rw [exec_fenceSatisfied hc, State.fenceSatisfied_waits ho]

end Sys2Proof.Machine
end

section
/-!
PROOFS. Token counters: a post that a counter holds (10 R412, R413).
-/
namespace Sys2Proof.Machine

/-! ## The word of a counter (10 R412) -/

/-- COUNT and OVF of a counter's word. -/
theorem bits_count {n o : Nat} (hn : n < 2 ^ 56) (ho : o < 2) :
    bits ((n + o * 2 ^ 63) % 256 ^ 8) 0 56 = n ∧ bits ((n + o * 2 ^ 63) % 256 ^ 8) 63 1 = o := by
  unfold bits
  norm_num at hn ⊢
  omega

section
variable {s : State} {d p i add tag : Nat} {clr : Bool}

theorem State.postCtr_none : s.postCtr d p 0xFFF add clr tag = s := by
  rw [State.postCtr, State.postFor, if_pos rfl]

/-- A post that the counter holds (10 R413). -/
theorem State.postCtr_fits (hm : ∀ o, s.mark (.ctx d) o = .clean) (hi : i < 0xFFF)
    (h : (if clr then add else bits (s.peekN (.ctx d) (ctrOff p i) 8) 0 56 + add) < 2 ^ 56) :
    s.postCtr d p i add clr tag = s.poke (.ctx d) (ctrOff p i) (toBytes 8
      ((if clr then add else bits (s.peekN (.ctx d) (ctrOff p i) 8) 0 56 + add) +
        (if clr then 0 else bits (s.peekN (.ctx d) (ctrOff p i) 8) 63 1) * 2 ^ 63)) := by
  rw [State.postCtr, State.postFor, if_neg (by omega)]
  dsimp only
  rw [if_pos h, State.write_ctr hm]

/-- A post changes the bytes of its counter and no other. -/
theorem State.peek_postCtr (hs : s.canon = true) (hp : p < 8) (hi : i < 0xFFF) (hm : ∀ o, s.mark (.ctx d) o = .clean) {r : Region} {o : Nat}
    (ho : ¬ (r.num = (Region.ctx d).num ∧ ctrOff p i ≤ o % 2 ^ 64 ∧ o % 2 ^ 64 < ctrOff p i + 8)) :
    (s.postCtr d p i add clr tag).peek r o = s.peek r o := by
  have hout (n : Nat) : (s.poke (.ctx d) (ctrOff p i) (toBytes 8 n)).peek r o = s.peek r o := by
    refine State.peek_poke_outside (State.canon_mem_rising hs) ?_ ?_ <;> rw [toBytes_length]
    · exact ctrOff_fits hp hi
    · exact ho
  by_cases h : (if clr then add else bits (s.peekN (.ctx d) (ctrOff p i) 8) 0 56 + add) < 2 ^ 56
  · rw [State.postCtr_fits hm hi h, hout]
  · rw [State.postCtr_overflows hm hi (by omega), State.report_get_peek, hout]

end

/-- Settles O20: the counter's word is written whole (`State.postCtr_fits`), and its fields are read back (`bits_count`). -/
theorem postsAddToTheirCounter : Obligations.PostsAddToTheirCounter := by
  intro s d p i add tag clr hs hp
  refine ⟨State.postCtr_none, fun hi hm _ => ?_⟩
  intro w n t
  refine ⟨fun r o ho => State.peek_postCtr hs hp hi hm ho, fun hn => ?_⟩
  have ht : t = s.poke (.ctx d) (ctrOff p i) (toBytes 8 (n + (if clr then 0 else bits w 63 1) * 2 ^ 63)) := State.postCtr_fits hm hi hn
  have hread : t.peekN (.ctx d) (ctrOff p i) 8 = (n + (if clr then 0 else bits w 63 1) * 2 ^ 63) % 256 ^ 8 := by
    rw [ht]
    exact State.peekN_poke (State.canon_mem_rising hs) _ _ _ _ (ctrOff_fits hp hi)
  have hovf : (if clr then 0 else bits w 63 1) < 2 := by
    unfold bits
    split <;> omega
  obtain ⟨hcount, hbit⟩ := bits_count hn hovf
  refine ⟨?_, ?_, ?_⟩
  · rw [State.ctrCount, hread, hcount]
  · rw [hread, hbit]
  · rw [ht]
    rfl

end Sys2Proof.Machine
end

section
/-!
SUPPORT. What reads and writes of codewords, records of errors and replies leave of the state.
-/
namespace Sys2Proof.Machine

/-! ## What reads and writes of codewords, records and replies leave -/

/-- t is s but for memory, registers, records, reports and what waits for the host. -/
def Beside (s t : State) : Prop :=
  t = { s with
    freeCtr := t.freeCtr, regs := t.regs, mem := t.mem, marks := t.marks, fns := t.fns, reports := t.reports, errLog := t.errLog,
    errIndex := t.errIndex, ceSeen := t.ceSeen, time := t.time, commitWait := t.commitWait, bondReports := t.bondReports,
    inocLeft := t.inocLeft }

theorem Beside.refl (s : State) : Beside s s := rfl

theorem Beside.trans {s t u : State} (h : Beside s t) (h' : Beside t u) : Beside s u :=
  Eq.trans h' (congrArg (fun t : State => { t with
    freeCtr := u.freeCtr, regs := u.regs, mem := u.mem, marks := u.marks, fns := u.fns, reports := u.reports, errLog := u.errLog,
    errIndex := u.errIndex, ceSeen := u.ceSeen, time := u.time, commitWait := u.commitWait, bondReports := u.bondReports,
    inocLeft := u.inocLeft }) h)

theorem Beside.ite {s t u : State} {p : Prop} [Decidable p] (ht : Beside s t) (hu : Beside s u) : Beside s (if p then t else u) := by
  split
  · exact ht
  · exact hu

theorem Beside.fstIte {α : Type} {s : State} {x y : α × State} {p : Prop} [Decidable p] (hx : Beside s x.2) (hy : Beside s y.2) :
    Beside s (if p then x else y).2 := by
  split
  · exact hx
  · exact hy

theorem Beside.foldl {β : Type} {f : State → β → State} (hf : ∀ t b, Beside t (f t b)) (l : List β) {s t : State} (h : Beside s t) :
    Beside s (l.foldl f t) := by
  induction l generalizing t with
  | nil => exact h
  | cons b l ih => exact ih (h.trans (hf t b))

section
variable {s t : State} (h : Beside s t)
include h

theorem Beside.rackqs : t.rackqs = s.rackqs := Eq.trans (congrArg State.rackqs h) rfl
theorem Beside.rackSeq : t.rackSeq = s.rackSeq := Eq.trans (congrArg State.rackSeq h) rfl
theorem Beside.ctxs : t.ctxs = s.ctxs := Eq.trans (congrArg State.ctxs h) rfl
theorem Beside.ports : t.ports = s.ports := Eq.trans (congrArg State.ports h) rfl
theorem Beside.variant : t.variant = s.variant := Eq.trans (congrArg State.variant h) rfl

theorem Beside.rackq (d q : Nat) : t.rackq d q = s.rackq d q := by rw [State.rackq, State.rackq, h.rackqs]
theorem Beside.port (d i : Nat) : t.port d i = s.port d i := by rw [State.port, State.port, h.ports]
theorem Beside.ctx (d c : Nat) : t.ctx d c = s.ctx d c := by rw [State.ctx, State.ctx, h.ctxs]

theorem Beside.setReg (d o : Nat) (x : RegWord) : Beside s (t.setReg d o x) := h.trans rfl
theorem Beside.wf (d o : Nat) (f : Fld) (x : Nat) : Beside s (t.wf d o f x) := h.trans rfl
theorem Beside.wfs (d o : Nat) (fs : List (Fld × Nat)) : Beside s (t.wfs d o fs) := h.trans rfl
theorem Beside.poke (r : Region) (o : Nat) (bs : List Byte) : Beside s (t.poke r o bs) := h.trans rfl
theorem Beside.setMark (r : Region) (o : Nat) (m : Mark) : Beside s (t.setMark r o m) := h.trans rfl
theorem Beside.putFn (f : Nat) (x : Fn) : Beside s (t.putFn f x) := h.trans rfl
theorem Beside.tick : Beside s t.tick := h.trans rfl
theorem Beside.report (r : Report) : Beside s (t.report r) := h.trans rfl
theorem Beside.bondReport (r : Report) : Beside s (t.bondReport r) := h.trans rfl

theorem Beside.withTime (n k : Nat) : Beside s { t with freeCtr := n, time := k } := h.trans rfl
theorem Beside.withErrs (l : List ErrRec) (n : Nat) : Beside s { t with errLog := l, errIndex := n } := h.trans rfl
theorem Beside.withCommits (l : List Commit) : Beside s { t with commitWait := l } := h.trans rfl

theorem Beside.haltRing (f cause : Nat) : Beside s (t.haltRing f cause) := h.ite (h.wfs ..)

end

theorem Beside.flushOuts {s : State} (f : Nat) (os : List Out) {t : State} (h : Beside s t) : Beside s (flushOuts f t os) := by
  induction os generalizing t with
  | nil => exact h.putFn ..
  | cons o os ih =>
    unfold Sys2Proof.Machine.flushOuts
    extract_lets
    split
    · exact h.putFn ..
    · split
      · exact (h.putFn ..).haltRing ..
      · exact ih ((h.poke ..).putFn ..)

section
variable {s t : State} (h : Beside s t)
include h

theorem Beside.flush (f : Nat) : Beside s (t.flush f) := by
  unfold State.flush
  exact .ite (((h.flushOuts ..).putFn ..).flushOuts ..) (h.flushOuts ..)

theorem Beside.raise (f code part result detail : Nat) : Beside s (t.raise f code part result detail) := by
  unfold State.raise
  extract_lets _ _ _ u
  have hu : Beside s u := by
    dsimp only [u]
    exact .ite (h.putFn ..) ((h.putFn ..).wf ..)
  exact hu.flush f

/-- A record of the error log is made (15 R654, R655). -/
theorem Beside.logErr (e : ErrRec) : Beside s (t.logErr e) := by
  unfold State.logErr
  extract_lets e now src t1 r t2 t3
  have h1 : Beside s t1 := h.withTime ..
  have h2 : Beside s t2 := h1.withErrs ..
  have h3 : Beside s t3 := .ite (h2.withCommits _) h2
  split
  · exact h1.withErrs _ t1.errIndex
  · exact .ite (.ite ((h3.raise ..).raise ..) (h3.raise ..)) h3

/-! ## Codewords (15 R634) -/

theorem Beside.inocClear (d : Nat) : Beside s (t.inocClear d) := by
  unfold State.inocClear
  extract_lets n u left u1
  have hu : Beside s u := h.wf ..
  have hu1 : Beside s u1 := hu.trans rfl
  exact .ite hu (.ite ((hu1.wf ..).wf ..) hu1)

theorem Beside.corrected (r : Region) (o : Nat) (ino : Bool) : Beside s (t.corrected r o ino) := by
  unfold State.corrected
  split
  · exact h
  · next k f _ =>
    have hc (n : Nat) : ∀ c, Beside s { t.wf r.die oErrCecnt f c with ceSeen := mset (fun _ => 0) (t.wf r.die oErrCecnt f c).ceSeen (r.die * 4 + k) n } :=
      fun c => (h.wf ..).trans rfl
    exact .ite ((hc ..).logErr _) (.ite ((hc ..).logErr _) (hc ..))

theorem Beside.uncorrectable (r : Region) (o : Nat) (ino : Bool) (n : Nat) : Beside s (t.uncorrectable r o ino n) :=
  (h.setMark ..).logErr _

theorem Beside.aliased (r : Region) (o : Nat) : Beside s (t.aliased r o) := h.poke ..

theorem Beside.decodeMark (r : Region) (o : Nat) (m : Mark) (ino : Bool) (n : Nat) : Beside s (t.decodeMark r o m ino n) := by
  cases m with
  | clean => exact h
  | poison => exact h
  | one => exact (h.setMark ..).corrected ..
  | bad => exact h.uncorrectable ..
  | three =>
    exact .ite (h.tick.uncorrectable ..) (.ite ((h.tick.aliased ..).setMark ..)
      (.ite (((h.tick.aliased ..).setMark ..).corrected ..) (h.tick.setMark ..)))

theorem Beside.decodeCw (r : Region) (o : Nat) : Beside s (t.decodeCw r o) := by
  unfold State.decodeCw
  exact .ite ((h.inocClear _).decodeMark ..) (h.decodeMark ..)

end

theorem Beside.decodeSacks {s : State} (r : Region) (n : Nat) {t : State} (h : Beside s t) (o : Nat) : Beside s (t.decodeSacks r o n) := by
  induction n generalizing t o with
  | zero => exact h
  | succ n ih => exact ih ((h.decodeCw ..).decodeCw ..) _

section
variable {s t : State} (h : Beside s t)
include h

theorem Beside.readCheck (r : Region) (o n : Nat) : Beside s (t.readCheck r o n) := h.decodeSacks ..

theorem Beside.writeCw (r : Region) (o : Nat) (bs : List Byte) : Beside s (t.writeCw r o bs) := by
  unfold State.writeCw
  exact .ite ((h.poke ..).setMark ..) (.ite ((h.decodeCw ..).logErr _) (.ite (h.decodeCw ..) ((h.decodeCw ..).poke ..)))

end

theorem Beside.writeCws {s : State} (r : Region) (n : Nat) {t : State} (h : Beside s t) (o : Nat) (bs : List Byte) :
    Beside s (writeCws r n t o bs) := by
  induction n generalizing t o bs with
  | zero => exact h
  | succ n ih =>
    cases bs with
    | nil => exact h
    | cons b bs => exact ih (h.writeCw ..) _ _

section
variable {s t : State} (h : Beside s t)
include h

theorem Beside.write (r : Region) (o : Nat) (bs : List Byte) : Beside s (t.write r o bs) := .ite (h.poke ..) (h.writeCws ..)

theorem Beside.unrest (d i : Nat) : Beside s (t.unrest d i) := .ite (h.wf ..) h

theorem Beside.consumed (d tag part island addr : Nat) : Beside s (t.consumed d tag part island addr) := h.report _

theorem Beside.postFor (d p i add : Nat) (clr : Bool) (tag : Option Nat) : Beside s (t.postFor d p i add clr tag) :=
  .ite h (.ite (h.write ..) ((h.write ..).report _))

theorem Beside.postCtr (d p i add : Nat) (clr : Bool) (tag : Nat) : Beside s (t.postCtr d p i add clr tag) := h.postFor ..

theorem Beside.reply (f : Nat) (o : Out) : Beside s (t.reply f o) := .ite ((h.putFn ..).flush f) h

/-! ## Descriptors and ledgers read (08 R331, 15 R639) -/

theorem Beside.loadDesc (d p i : Nat) : Beside s (t.loadDesc d p i).2.2 := h.readCheck ..

theorem Beside.ledPoison (d l n : Nat) : Beside s (t.ledPoison d l n).2 := by
  unfold State.ledPoison
  extract_lets u runs v
  have hu : Beside s u := h.readCheck ..
  split
  · exact hu
  · exact .foldl (fun t b => (Beside.refl t).readCheck ..) _ hu

end

theorem Beside.loadDescs {s : State} (d p : Nat) (is : List Nat) {t : State} (h : Beside s t) : Beside s (t.loadDescs d p is).2.2 := by
  induction is generalizing t with
  | nil => exact h
  | cons i is ih => exact ih (h.loadDesc ..)

end Sys2Proof.Machine
end

section
/-!
PROOFS. Racking: instructions offered to their queues (09 R351, R352).
-/
namespace Sys2Proof.Machine

section
variable {s : State} {d c opc : Nat} {w : InstrWord} {p : InstrWord → Bool}

/-- A word of the row's opcode that a racking thread presents is offered to its queue. -/
theorem rackRow_presents (h : s.presents d c w) (he : ctxEng c = 2) (ho : wbits w 0 8 = opc) (hp : p w = true) :
    rackRow opc p d c s = .next (s.rackIssueThread d c w) := by
  rw [rackRow, issue_presents h (decide_eq_true he) (decide_eq_true ho), if_pos hp]

/-- What becomes of the word that was offered (09 R351, R352). -/
theorem State.rackIssueThread_accepts (h : (s.rackOffer d c w).1 = oOK) :
    s.rackIssueThread d c w = (s.rackOffer d c w).2.accept d c 1 true := if_pos h

theorem State.rackIssueThread_holds (h : (s.rackOffer d c w).1 = oFULL) :
    s.rackIssueThread d c w = (s.rackOffer d c w).2.hold d c :=
  (if_neg (by rw [h]; decide)).trans (if_pos h)

theorem State.rackIssueThread_rejects (hok : (s.rackOffer d c w).1 ≠ oOK) (hf : (s.rackOffer d c w).1 ≠ oFULL)
    (hp : (s.rackOffer d c w).1 ≠ oPOISON) :
    s.rackIssueThread d c w = (s.rackOffer d c w).2.reject d c (s.rackOffer d c w).1 (queueOf w) :=
  (if_neg hok).trans ((if_neg hf).trans (if_neg hp))

theorem State.rackIssueThread_poison (h : (s.rackOffer d c w).1 = oPOISON) :
    s.rackIssueThread d c w = (s.rackOffer d c w).2.ctxTo d c
      { (s.rackOffer d c w).2.ctx d c with state := cSTOPPED, fcode := 0, fopc := wbits w 0 8 } :=
  (if_neg (by rw [h]; decide)).trans ((if_neg (by rw [h]; decide)).trans (if_pos h))

end

/-- Settles O23: each row offers the word (`rackRow_presents`), and the four answers are the equations of `State.rackIssueThread`. -/
theorem rackingInstructionsAreOffered : Obligations.RackingInstructionsAreOffered := by
  intro s d c w h he r row
  have hrow {o : Host.Outcome State Fault Refusal} (ho : o = .next (s.rackIssueThread d c w)) : row o := by
    subst ho
    exact ⟨fun h => congrArg _ (State.rackIssueThread_accepts h), fun h => congrArg _ (State.rackIssueThread_holds h),
      fun hok hf hp => congrArg _ (State.rackIssueThread_rejects hok hf hp), fun h => congrArg _ (State.rackIssueThread_poison h)⟩
  exact ⟨fun ho => hrow (rackRow_presents h he ho rfl), fun ho => hrow (rackRow_presents h he ho rfl),
    fun ho => hrow (rackRow_presents h he ho rfl), fun ho hf => hrow (rackRow_presents h he ho (decide_eq_true hf)),
    fun ho hf => hrow (rackRow_presents h he ho (decide_eq_true hf)), fun ho hf => hrow (rackRow_presents h he ho (decide_eq_true hf)),
    fun ho hf => hrow (rackRow_presents h he ho (decide_eq_true hf)), fun ho => hrow (rackRow_presents h he ho rfl),
    fun ho => hrow (rackRow_presents h he ho rfl)⟩

end Sys2Proof.Machine
end

section
/-!
PROOFS. Racking: queues take and issue in order (09 R350–R364).
-/
namespace Sys2Proof.Machine

/-! ## A word offered to its rack queue (09 R351, R352) -/

section
variable {s t : State} (h : Beside s t)
include h

theorem Beside.overlapMark (d c part tag : Nat) (ov : List Desc) : Beside s (t.overlapMark d c part tag ov) := by
  unfold State.overlapMark
  split
  · exact h
  · exact .ite (h.wf ..) (h.wfs ..)

theorem Beside.acceptR (d c : Nat) (i : RInstr) : Beside s (t.acceptR d c i).2 := by
  unfold State.acceptR
  extract_lets k o st u
  have hu : Beside s u := by
    refine .ite ?_ h
    split
    · exact h
    · exact h.wfs ..
  exact hu.overlapMark ..

end

/-- What the rack queues take. -/
def offered (o : Nat) : Prop := (0x50 ≤ o ∧ o ≤ 0x55) ∨ o = 0x60

theorem offered_iff (o : Nat) : offered o ↔ ¬ (! ((decide (0x50 ≤ o) && decide (o ≤ 0x55)) || decide (o = 0x60))) = true := by
  simp only [offered, Bool.not_eq_true', Bool.not_eq_false, Bool.or_eq_true, Bool.and_eq_true, decide_eq_true_eq]

/-- What becomes of an offered word, by what its checks answer (09 R352). -/
def State.offerR (u : State) (d c part qu : Nat) : Made → Nat × State
  | .rej k => (k, u)
  | .ok i prot =>
    if prot ∨ u.rf d (oRkQcfg qu) rkQcfgEn = 0 ∨ u.rf d (oRkQcfg qu) rkQcfgPart ≠ part then (9, u)
    else if u.rf d (oRkQcfg qu) rkQcfgQdepth < (u.rackq d qu).ins.length then (oFULL, u)
    else
      let a := u.acceptR d c i
      let v := a.2.unrest d 22
      (oOK, { v.putRackq d qu { v.rackq d qu with ins := (v.rackq d qu).ins ++ [v.startR d a.1] } with rackSeq := v.rackSeq + 1 })

section
variable {u : State} {d c part qu : Nat} {i : RInstr} {prot : Bool}

theorem State.offerR_prot (h : prot = true ∨ u.rf d (oRkQcfg qu) rkQcfgEn = 0 ∨ u.rf d (oRkQcfg qu) rkQcfgPart ≠ part) :
    u.offerR d c part qu (.ok i prot) = (9, u) := if_pos h

variable (hx : prot = false) (hen : u.rf d (oRkQcfg qu) rkQcfgEn ≠ 0) (hpart : u.rf d (oRkQcfg qu) rkQcfgPart = part)
include hx hen hpart

theorem State.offerR_full (h : u.rf d (oRkQcfg qu) rkQcfgQdepth < (u.rackq d qu).ins.length) :
    u.offerR d c part qu (.ok i prot) = (oFULL, u) :=
  (if_neg (by simp [hx, hen, hpart])).trans (if_pos h)

theorem State.offerR_accepts (h : (u.rackq d qu).ins.length ≤ u.rf d (oRkQcfg qu) rkQcfgQdepth) :
    u.offerR d c part qu (.ok i prot) = (
      let a := u.acceptR d c i
      let v := a.2.unrest d 22
      (oOK, { v.putRackq d qu { v.rackq d qu with ins := (v.rackq d qu).ins ++ [v.startR d a.1] } with rackSeq := v.rackSeq + 1 })) :=
  (if_neg (by simp [hx, hen, hpart])).trans (if_neg (Nat.not_lt.mpr h))

end

theorem State.offerR_beside {u : State} {d c part qu : Nat} {r : Made} (h : (u.offerR d c part qu r).1 ≠ oOK) :
    (u.offerR d c part qu r).2 = u := by
  revert h
  unfold State.offerR
  split
  · exact fun _ => rfl
  · split
    · exact fun _ => rfl
    · split
      · exact fun _ => rfl
      · exact fun h => absurd rfl h

section
variable {s : State} {d c : Nat} {w : InstrWord} (ho : offered (wbits w 0 8)) {l : List Desc × Bool × State}
  (hl : s.loadDescs d (s.ctx d c).part (descIdx w) = l) {m : Option Nat × State}
  (hm : (if wbits w 0 8 = 0x53 ∧ rkFORM w = 3 then l.2.2.ledPoison d (smLEDGER w) 0 else (none, l.2.2)) = m)
include ho hl

theorem State.rackOffer_poison (hp : l.2.1 = true) : s.rackOffer d c w =
    (oPOISON, l.2.2.consumed d (s.ctx d c).tag (s.ctx d c).part 22 (gaddr (.ctx d) (descOff (s.ctx d c).part ((descIdx w).headD 0)))) := by
  subst hl
  exact (if_neg ((offered_iff _).mp ho)).trans (if_pos hp)

include hm

theorem State.rackOffer_ledger {a : Nat} (hp : l.2.1 = false) (ha : m.1 = some a) :
    s.rackOffer d c w = (oPOISON, m.2.consumed d (s.ctx d c).tag (s.ctx d c).part 22 a) := by
  subst hl hm
  refine (if_neg ((offered_iff _).mp ho)).trans ((if_neg (Bool.not_eq_true _ ▸ hp)).trans ((if_pos (by rw [ha]; rfl)).trans ?_))
  rw [ha]
  rfl

/-- What becomes of a word whose descriptors are clean is what its checks answer. -/
theorem State.rackOffer_checked (hp : l.2.1 = false) (ha : m.1 = none) : s.rackOffer d c w = (
    let x := s.ctx d c
    m.2.offerR d c x.part (queueOf w) (m.2.makeR d x.tag x.part
      { word := w, opc := wbits w 0 8, c := c, ket := isKet c, tag := x.tag, part := x.part, seq := l.2.2.rackSeq, descs := l.1 })) := by
  subst hl hm
  exact (if_neg ((offered_iff _).mp ho)).trans ((if_neg (Bool.not_eq_true _ ▸ hp)).trans ((if_neg (by rw [ha]; decide)).trans rfl))

end

/-- Where a word is not accepted, the queues stay. -/
theorem State.rackOffer_beside (s : State) (d c : Nat) (w : InstrWord) (h : (s.rackOffer d c w).1 ≠ oOK) :
    Beside s (s.rackOffer d c w).2 := by
  have hs := Beside.refl s
  by_cases ho : offered (wbits w 0 8)
  · obtain ⟨l, hl⟩ : ∃ l, s.loadDescs d (s.ctx d c).part (descIdx w) = l := ⟨_, rfl⟩
    obtain ⟨m, hm⟩ : ∃ m, (if wbits w 0 8 = 0x53 ∧ rkFORM w = 3 then l.2.2.ledPoison d (smLEDGER w) 0 else (none, l.2.2)) = m := ⟨_, rfl⟩
    have hl2 : Beside s l.2.2 := hl ▸ hs.loadDescs ..
    have hm2 : Beside s m.2 := by
      rw [← hm]
      split
      · exact hl2.ledPoison ..
      · exact hl2
    cases hp : l.2.1 with
    | true =>
      rw [State.rackOffer_poison ho hl hp]
      exact hl2.consumed ..
    | false =>
      cases ha : m.1 with
      | some a =>
        rw [State.rackOffer_ledger ho hl hm hp ha]
        exact hm2.consumed ..
      | none =>
        rw [State.rackOffer_checked ho hl hm hp ha] at h ⊢
        rw [State.offerR_beside h]
        exact hm2
  · rw [State.rackOffer, if_pos (by rwa [offered_iff, not_not] at ho)]
    exact hs

/-- What an instruction of a queue issues next is issued, behind the gate of a consuming stream (09 R364). -/
def State.rackGo (u : State) (d qu : Nat) (i : RInstr) : NextR → State × Bool
  | .wait => (u, false)
  | .stop c => (u.rackStop d qu i.seq c 0, true)
  | .fin => (u.putRackq d qu ((u.rackq d qu).setIns { i with full := true }), false)
  | .req q i' => if (i.opc = 0x50 ∨ i.opc = 0x51) ∧ rkMODE i.word = 1 ∧ i.gates ≤ q.tile then (u, false) else u.issueReq d qu q i'

/-! ## The turn of a queue (09 R353, R364) -/

section
variable {s : State} {d qu : Nat}

theorem exec_rackRequestIssue (hd : s.hasDie d = true) (hq : qu < 257) :
    exec (.rackRequestIssue d qu) s = .next (s.rackIssue d qu) :=
  if_pos (by rw [hd, decide_eq_true hq]; rfl)

theorem State.rackIssue_notTurn (h : s.rackTurn d qu = false) : s.rackIssue d qu = s := if_pos (by rw [h]; rfl)

/-- In its turn a queue tries, and was served last when it was eligible. -/
theorem State.rackIssue_turn {t : State × Bool} (h : s.rackTurn d qu = true) (ht : s.rackTry d qu = t) :
    s.rackIssue d qu = if t.2 then { t.1 with rkLast := mset n0 t.1.rkLast d (qu + 1) } else t.1 := by
  subst ht
  exact if_neg (by rw [h]; decide)

theorem State.rackTry_waits (h : (s.rackq d qu).trkWait = 1 ∨ bit s.lostDies d = true) : s.rackTry d qu = (s, false) := if_pos h

theorem State.rackIssue_waits (h : (s.rackq d qu).trkWait = 1 ∨ bit s.lostDies d = true) : s.rackIssue d qu = s := by
  cases ht : s.rackTurn d qu with
  | false => exact State.rackIssue_notTurn ht
  | true => exact State.rackIssue_turn ht (State.rackTry_waits h)

variable (hw : (s.rackq d qu).trkWait ≠ 1) (hl : bit s.lostDies d = false)
include hw hl

section
variable {q : Req} {i : RInstr} (hn : s.tunNext d qu = some (q, i))
include hn

theorem State.rackTry_tunAborting (ha : s.rkAborting d q.tag = true) : s.rackTry d qu = (s, false) := by
  simp [State.rackTry, hw, hl, hn, ha]

theorem State.rackTry_tun (ha : s.rkAborting d q.tag = false) : s.rackTry d qu =
    if (s.rackq d qu).outs.length < ((s.issueReq d qu q i).1.rackq d qu).outs.length then ((s.issueReq d qu q i).1.tunIssued d qu q, true)
    else s.issueReq d qu q i := by
  simp [State.rackTry, hw, hl, hn, ha]

end

variable (hn : s.tunNext d qu = none)
include hn

theorem State.rackTry_none (hf : (s.rackq d qu).ins.find? (fun i => ! i.full) = none) : s.rackTry d qu = (s, false) := by
  simp only [State.rackTry, hw, hl, hn, hf, or_self, if_false, Bool.false_eq_true]

variable {i : RInstr} (hf : (s.rackq d qu).ins.find? (fun i => ! i.full) = some i)
include hf

theorem State.rackTry_aborting (ha : s.rkAborting d i.tag = true) (hq : qu ≠ 256) : s.rackTry d qu = (s, false) := by
  simp only [State.rackTry, hw, hl, hn, hf, ha, hq, or_self, if_false, Bool.false_eq_true, ne_eq, not_false_eq_true, and_self, if_true]

variable (ha : s.rkAborting d i.tag = false ∨ qu = 256) {m : Option Nat × State}
  (hm : (if i.opc = 0x53 ∧ rkFORM i.word = 3 then
    s.ledPoison d (smLEDGER i.word) (4096 + 8 * (s.ledS d (smLEDGER i.word) * s.ledQ d (smLEDGER i.word))) else (none, s)) = m)
include ha hm

/-- The queue's instruction: its ledger's poison, else what it issues next. -/
theorem State.rackTry_next : s.rackTry d qu =
    if m.1.isSome then (m.2.rackPoison d qu i.seq (m.1.getD 0), true) else m.2.rackGo d qu i (m.2.nextReq d qu i) := by
  subst hm
  have ha' : ¬ (s.rkAborting d i.tag = true ∧ qu ≠ 256) := fun h => ha.elim (fun e => by simp [e] at h) h.2
  rw [State.rackTry]
  dsimp only
  rw [if_neg (by simp [hw, hl]), hn]
  dsimp only
  rw [hf]
  exact if_neg ha'

end

theorem queueOf_lt (w : InstrWord) : queueOf w < 257 := by
  unfold queueOf pQUEUE rkQUEUE wbits bits
  split <;> omega

/-- The word that is accepted is the last of its queue, and no other queue changes. -/
theorem State.putRackq_accepts {s v : State} {d qu : Nat} (hs : mrising s.rackqs = true) (hv : Beside s v) (hq : qu < 257) (i : RInstr) :
    let t : State := { v.putRackq d qu { v.rackq d qu with ins := (v.rackq d qu).ins ++ [i] } with rackSeq := v.rackSeq + 1 }
    t.rackSeq = s.rackSeq + 1 ∧ (t.rackq d qu).ins = (s.rackq d qu).ins ++ [i] ∧
      ∀ e q, q < 257 → (e, q) ≠ (d, qu) → t.rackq e q = s.rackq e q := by
  intro t
  have hr : mrising v.rackqs = true := hv.rackqs ▸ hs
  refine ⟨congrArg (· + 1) hv.rackSeq, ?_, fun e q hq' hne => ?_⟩
  · refine (congrArg RackQ.ins (State.rackq_same hr ..)).trans ?_
    rw [hv.rackq]
  · refine (State.rackq_ne hr _ fun h => hne ?_).trans (hv.rackq ..)
    rw [Prod.mk.injEq]
    omega

/-- Settles O24: an offer is answered by `State.rackOffer_poison`, `State.rackOffer_ledger` and `State.rackOffer_checked`; a queue in its turn
goes on by `State.rackTry_tun` and `State.rackTry_next`. -/
theorem rackQueuesTakeAndIssueInOrder : Obligations.RackQueuesTakeAndIssueInOrder := by
  refine ⟨fun s d c w hs hd => ?_, fun s d qu hd hq => ?_⟩
  · intro x qu o l m u cfg i0
    refine ⟨fun ho => ⟨fun hp => State.rackOffer_poison ho rfl hp, fun a hp ha => State.rackOffer_ledger ho rfl rfl hp ha, fun hp ha => ?_⟩,
      fun h => ⟨(State.rackOffer_beside s d c w h).rackqs, (State.rackOffer_beside s d c w h).rackSeq⟩⟩
    have hl : Beside s l.2.2 := (Beside.refl s).loadDescs ..
    have hu : Beside s u := .fstIte (hl.ledPoison ..) hl
    have he := State.rackOffer_checked ho (s := s) (d := d) (c := c) rfl rfl hp ha
    rw [hl.rackSeq] at he
    have hmade {r : Made} (hr : u.makeR d x.tag x.part i0 = r) : s.rackOffer d c w = u.offerR d c x.part qu r := hr ▸ he
    refine ⟨fun k hk => hmade hk, fun i prot hi => ⟨fun hx => ?_, fun hx hen hpart hdepth => ?_, fun hx hen hpart hdepth => ?_⟩⟩
    · rw [hmade hi, State.offerR_prot hx]
    · rw [hmade hi, State.offerR_full hx hen hpart hdepth]
    · intro a v j
      rw [hmade hi, State.offerR_accepts hx hen hpart hdepth]
      exact ⟨rfl, State.putRackq_accepts (State.canon_rackqs hs) ((hu.acceptR ..).unrest ..) (queueOf_lt w) j⟩
  · intro x served tried
    rw [exec_rackRequestIssue hd hq]
    refine ⟨?_, fun ht hw hl => ⟨fun q i hn => ⟨fun ha => ?_, fun ha => ?_⟩, fun hn => ⟨fun hf => ?_, fun i hf => ?_⟩⟩⟩
    · rintro (h | h)
      · rw [State.rackIssue_notTurn h]
      · rw [State.rackIssue_waits h]
    · rw [State.rackIssue_turn ht (State.rackTry_tunAborting hw hl hn ha)]
      rfl
    · intro t
      rw [State.rackIssue_turn ht (State.rackTry_tun hw hl hn ha)]
      split <;> rfl
    · rw [State.rackIssue_turn ht (State.rackTry_none hw hl hn hf)]
      rfl
    · intro l m u
      refine ⟨fun ha hq' => ?_, fun ha => ?_⟩
      · rw [State.rackIssue_turn ht (State.rackTry_aborting hw hl hn hf ha hq')]
        rfl
      · have he := State.rackTry_next hw hl hn hf ha rfl
        refine ⟨fun a ha => ?_, fun ha => ?_⟩
        · rw [State.rackIssue_turn ht (he.trans (if_pos (show m.1.isSome = true by rw [ha]; rfl))),
            show m.1.getD 0 = a by rw [ha]; rfl]
          rfl
        · have hgo {r : NextR} (hr : u.nextReq d qu i = r) : s.rackTry d qu = u.rackGo d qu i r :=
            hr ▸ he.trans (if_neg (show ¬ m.1.isSome = true by rw [ha]; decide))
          refine ⟨fun q i' hr => ⟨fun hg => ?_, fun ho hm hg => ?_⟩, fun hr => ?_, fun hr => ?_, fun k hr => ?_⟩
          · rw [State.rackIssue_turn ht ((hgo hr).trans (if_neg hg))]
          · rw [State.rackIssue_turn ht ((hgo hr).trans (if_pos ⟨ho, hm, hg⟩))]
            rfl
          all_goals
            rw [State.rackIssue_turn ht (hgo hr)]
            rfl

end Sys2Proof.Machine
end

section
/-!
PROOFS. Racking: requests, instructions and host reads complete (09 R354, R387).
-/
namespace Sys2Proof.Machine

section
variable {s : State} {d qu n : Nat} {q r : Req} {i : RInstr}

theorem exec_rackRequestComplete (hd : s.hasDie d = true) (hq : qu < 257) :
    exec (.rackRequestComplete d qu n) s = .next (s.rackComplete d qu n) :=
  if_pos (by rw [hd, decide_eq_true hq]; rfl)

theorem exec_rackInstructionComplete (hd : s.hasDie d = true) (hq : qu < 257) :
    exec (.rackInstructionComplete d qu n) s = .next (s.rackInstrDone d qu n) :=
  if_pos (by rw [hd, decide_eq_true hq]; rfl)

theorem exec_hostCompletion (hd : s.hasDie d = true) (hq : qu < 257) (ok : Bool) :
    exec (.hostCompletion d qu ok) s = .next (s.hostReadEnd d qu ok) :=
  if_pos (by rw [hd, decide_eq_true hq]; rfl)

theorem exec_hostCompletionTimeout (hd : s.hasDie d = true) (hq : qu < 257) (us : Nat) :
    exec (.hostCompletionTimeout d qu us) s = .next (if us < s.cplTimeout then s else s.hostReadEnd d qu false) :=
  if_pos (by rw [hd, decide_eq_true hq]; rfl)

/-! ## The completion of a request (09 R354, R371) -/

theorem State.rackComplete_none (h : (s.rackq d qu).outs[n]? = none) : s.rackComplete d qu n = s := by
  simp only [State.rackComplete, h]

theorem State.rackComplete_straight (h : (s.rackq d qu).outs[n]? = some q) (ht : q.pos = 0 ∨ q.turned = true) :
    s.rackComplete d qu n = s.completeReq d qu q := by
  simp only [State.rackComplete, h]
  exact if_pos ht

/-- A turning request first passes through the tile with its block. -/
theorem State.rackComplete_turns (h : (s.rackq d qu).outs[n]? = some q) (hp : q.pos ≠ 0) (ht : q.turned = false)
    (hr : ((s.pushHeld d qu q.seq).rackq d qu).outs.find? (fun r => r.id = q.id) = some r) :
    s.rackComplete d qu n = (s.pushHeld d qu q.seq).completeReq d qu r := by
  simp only [State.rackComplete, h, hr]
  exact if_neg (by simp [hp, ht])

theorem State.rackComplete_turned (h : (s.rackq d qu).outs[n]? = some q) (hp : q.pos ≠ 0) (ht : q.turned = false)
    (hr : ((s.pushHeld d qu q.seq).rackq d qu).outs.find? (fun r => r.id = q.id) = none) :
    s.rackComplete d qu n = s.pushHeld d qu q.seq := by
  simp only [State.rackComplete, h, hr]
  exact if_neg (by simp [hp, ht])

/-- What keeps a request of a queue back. -/
theorem State.completeReq_alive (h : s.unitDead d qu q = false) : s.completeReq d qu q =
    if ! q.ready ∨ (q.pos ≠ 0 ∧ ! q.turned) ∨ q.dst.any (fun y => y.kind = 2 && decide (y.sent < 2)) ∨ (q.what = 2 ∧ ! q.summed) ∨
      olderMeets (s.rackq d qu).outs q then s
    else (s.takeReq d qu q).2.2.reqEffect d qu q (s.takeReq d qu q).1 (s.takeReq d qu q).2.1 :=
  if_neg (by rw [h]; decide)

/-- What lets it complete, as the negation of that. -/
theorem Req.may_iff (q : Req) (outs : List Req) :
    (q.ready = true ∧ (q.pos ≠ 0 → q.turned = true) ∧ (∀ y, y ∈ q.dst → y.kind = 2 → 2 ≤ y.sent) ∧ (q.what = 2 → q.summed = true) ∧
      olderMeets outs q = false) ↔
    ¬ (! q.ready ∨ (q.pos ≠ 0 ∧ ! q.turned) ∨ q.dst.any (fun y => y.kind = 2 && decide (y.sent < 2)) ∨ (q.what = 2 ∧ ! q.summed) ∨
      olderMeets outs q) := by
  simp only [not_or, not_and, Bool.not_eq_true', Bool.not_eq_false, List.any_eq_true, Bool.and_eq_true, decide_eq_true_eq, not_exists,
    Nat.not_lt, Bool.not_eq_true]

theorem State.completeReq_dead (h : s.unitDead d qu q = true) :
    s.completeReq d qu q = if q.ready then (s.dropReq d qu q.id q.seq).pushHeld d qu q.seq else s := if_pos h

/-! ## The completion of an instruction (09 R354, 10 R413) -/

theorem RInstr.ends_iff (i : RInstr) (outs : List Req) :
    (i.full = true ∧ i.stopped = false ∧ (∀ q, q ∈ outs → q.seq ≠ i.seq) ∧ i.tiles ≤ i.posted) ↔
    ¬ ((! i.full) = true ∨ i.stopped = true ∨ outs.any (fun q => q.seq = i.seq) = true ∨ i.posted < i.tiles) := by
  simp only [not_or, Bool.not_eq_true', Bool.not_eq_false, List.any_eq_true, decide_eq_true_eq, not_exists, not_and, Nat.not_lt,
    Bool.not_eq_true, ne_eq]

theorem State.rackInstrDone_some (h : (s.rackq d qu).ins[n]? = some i) : s.rackInstrDone d qu n =
    if (! i.full) = true ∨ i.stopped = true ∨ (s.rackq d qu).outs.any (fun q => q.seq = i.seq) = true ∨ i.posted < i.tiles ∨
      (s.rkAborting d i.tag = true ∧ qu ≠ 256) then s
    else
      let t := s.putRackq d qu { s.rackq d qu with ins := (s.rackq d qu).ins.filter (fun j => j.seq ≠ i.seq) }
      if qu = 256 then t.copyEnd i
      else (t.done d i.part (if i.opc = 0x60 then 0xFFF else wbits i.word 8 12) i.tag).ctxRetire d i.c := by
  simp only [State.rackInstrDone, h]

/-! ## Host reads (09 R387, 14 R587) -/

/-- A request without a remote destination sends nothing. -/
theorem State.pushOne_local (h : ∀ y, y ∈ q.dst → y.kind ≠ 2) : s.pushOne d qu q = s :=
  if_pos (.inl (by simpa using fun y hy hk => absurd hk (h y hy)))

theorem State.pushBody_data (h : q.what = 0) : s.pushBody d qu q = s := by
  unfold State.pushBody
  split
  · exact if_pos (.inl (by omega))
  · rfl

theorem State.pushRemote_local (h : ∀ y, y ∈ q.dst → y.kind ≠ 2) :
    s.pushRemote d qu q = if q.pos = 0 then s else s.pushHeld d qu q.seq := by
  rw [State.pushRemote, State.pushOne_local h]

/-- The one host read of a queue ends: the piece holds the bytes bs, with poison z on each. -/
theorem State.hostReadEnd_one {p : Piece} (ho : (s.rackq d qu).outs = [q]) (hs : q.src = [p]) (hw : p.wait = 1) (hk : q.what = 0)
    (hd : ∀ y, y ∈ q.dst → y.kind ≠ 2) (ok : Bool) : s.hostReadEnd d qu ok = (
      let good := ok && s.hostOk q.part
      let t := s.putRackq d qu ((s.rackq d qu).setOut { q with
        src := [{ p with wait := 3, data := if good then s.peeks .host p.addr p.n else List.replicate p.n 0, pz := List.replicate p.n (! good) }] })
      let u := if good then t else t.logErr { cls := 0x0D, die := d, island := 22, tagv := qu ≠ 256, tag := q.tag, part := q.part, addr := p.addr }
      if q.pos = 0 then u else u.pushHeld d qu q.seq) := by
  have hfind : (s.rackq d qu).outs.find? (fun q => q.src.any (fun p => p.wait = 1)) = some q := by simp [ho, hs, hw]
  have hpiece : q.src.find? (fun p => p.wait = 1) = some p := by simp [hs, hw]
  have hfill (f : Piece → Piece) : fillFirst (fun p => p.wait = 1) f q.src = [f p] := by
    rw [hs, fillFirst, if_pos (decide_eq_true hw)]
  simp only [State.hostReadEnd, hfind, hpiece, hfill, Option.getD_some]
  rw [State.pushBody_data (by exact hk), State.pushRemote_local (by exact hd)]

end

/-- Settles O25: a request completes by `State.completeReq_alive` and `State.completeReq_dead`, an instruction by `State.rackInstrDone_some`;
a host read of one piece ends by `State.hostReadEnd_one`. -/
theorem rackingRequestsAndHostReadsComplete : Obligations.RackingRequestsAndHostReadsComplete := by
  refine ⟨fun s d qu n hd hq => ?_, fun s d qu q p hs ho hsrc hw hk hdst => ?_⟩
  · intro x
    refine ⟨fun q hn => ⟨fun h => ?_, fun hp ht => ?_⟩, fun hn => ?_, fun q => ?_, fun i hi => ?_, fun ok => exec_hostCompletion hd hq ok,
      fun us hus => ?_, fun us hus => ?_⟩
    · rw [exec_rackRequestComplete hd hq, State.rackComplete_straight hn h]
    · intro u
      rw [exec_rackRequestComplete hd hq]
      exact ⟨fun r hr => congrArg _ (State.rackComplete_turns hn hp ht hr), fun hr => congrArg _ (State.rackComplete_turned hn hp ht hr)⟩
    · rw [exec_rackRequestComplete hd hq, State.rackComplete_none hn]
    · intro may t
      have hmay := Req.may_iff q x.outs
      refine ⟨fun h hm => ?_, fun h hm => ?_, fun h hr => ?_, fun h hr => ?_⟩
      · exact (State.completeReq_alive h).trans (if_neg (hmay.mp hm))
      · exact (State.completeReq_alive h).trans (if_pos (not_not.mp fun hc => hm (hmay.mpr hc)))
      · rw [State.completeReq_dead h, if_pos hr]
      · rw [State.completeReq_dead h, if_neg (by simp [hr])]
    · intro ends
      have hends := RInstr.ends_iff i x.outs
      rw [exec_rackInstructionComplete hd hq, State.rackInstrDone_some hi]
      refine ⟨fun he hq' ha => ?_, fun he hq' => ?_, fun h => ?_⟩
      · obtain ⟨h1, h2, h3, h4⟩ : _ ∧ _ ∧ _ ∧ _ := by simpa only [not_or] using hends.mp he
        rw [if_neg (by simp only [not_or]; exact ⟨h1, h2, h3, h4, by simp [ha]⟩)]
        exact congrArg _ (if_neg hq')
      · obtain ⟨h1, h2, h3, h4⟩ : _ ∧ _ ∧ _ ∧ _ := by simpa only [not_or] using hends.mp he
        rw [if_neg (by simp only [not_or]; exact ⟨h1, h2, h3, h4, by simp [hq']⟩)]
        exact congrArg _ (if_pos hq')
      · refine congrArg _ (if_pos ?_)
        rcases h with h | ⟨hq', ha⟩
        · have := not_not.mp fun hc => h (hends.mpr hc)
          rcases this with h | h | h | h
          · exact .inl h
          · exact .inr (.inl h)
          · exact .inr (.inr (.inl h))
          · exact .inr (.inr (.inr (.inl h)))
        · exact .inr (.inr (.inr (.inr ⟨ha, hq'⟩)))
    · rw [exec_hostCompletionTimeout hd hq, if_neg (Nat.not_lt.mpr hus)]
    · rw [exec_hostCompletionTimeout hd hq, if_pos hus]
  · intro on
    have h := State.hostReadEnd_one ho hsrc hw hk hdst
    refine ⟨fun hok => ?_, h false⟩
    have ht := h true
    simp only [hok, Bool.and_self, if_true, Bool.not_true] at ht
    exact ht

end Sys2Proof.Machine
end

section
/-!
PROOFS. Racking: streams, the regulator and aborts (09 R361–R368, R390, 07 R290).
-/
namespace Sys2Proof.Machine

/-! ## Streams (09 R361, R364) -/

section
variable {s : State} {d qu : Nat} {i : RInstr}

theorem exec_streamTileReady (hd : s.hasDie d = true) (hq : qu < 256) : exec (.streamTileReady d qu) s = .next (s.tileReady d qu) :=
  if_pos (by rw [hd, decide_eq_true hq]; rfl)

theorem exec_streamGateOpen (hd : s.hasDie d = true) (hq : qu < 256) : exec (.streamGateOpen d qu) s = .next (s.gateOpen d qu) :=
  if_pos (by rw [hd, decide_eq_true hq]; rfl)

theorem exec_trackerEntryWaitEnd (hd : s.hasDie d = true) (hq : qu < 257) :
    exec (.trackerEntryWaitEnd d qu) s = .next (s.trkGrant d qu) :=
  if_pos (by rw [hd, decide_eq_true hq]; rfl)

/-- The oldest instruction whose next tile is done posts it. -/
theorem State.tileReady_eq {ripe : RInstr → Bool} (h : ripe = fun i => decide (i.posted < i.tiles) && ! i.stopped && ! s.rkAborting d i.tag &&
      (decide (rkMODE i.word ≠ 1) || decide (i.posted < i.gates)) && s.tileDone d qu i i.posted) :
    s.tileReady d qu = match (s.rackq d qu).ins.find? ripe with
    | none => s
    | some i => (s.putRackq d qu ((s.rackq d qu).setIns { i with posted := i.posted + 1 })).postCtr d i.part (wbits i.word 56 12) 1 false i.tag := by
  subst h
  rfl

/-- The queue's stream whose gates are not all open, and what its consumer's counter says. -/
theorem State.gateOpen_some (h : (s.rackq d qu).ins.find?
      (fun i => (i.opc = 0x50 || i.opc = 0x51) && rkMODE i.word = 1 && ! i.stopped && decide (i.gates < i.tiles)) = some i) :
    s.gateOpen d qu = (
      let x := s.rackq d qu
      let k := wbits i.word 68 12
      let u := s.readCheck (.ctx d) (ctrOff i.part k) 8
      if u.poisoned (.ctx d) (ctrOff i.part k) 8 then
        (u.putRackq d qu (x.setIns { i with full := true, stopped := true })).consumed d i.tag i.part 22
          (gaddr (.ctx d) (ctrOff i.part k / 64 * 64))
      else if i.gates + 1 ≤ rkDEPTH i.word + (u.ctrCount d i.part k - i.c0) then u.putRackq d qu (x.setIns { i with gates := i.gates + 1 })
      else u) := by
  simp only [State.gateOpen, h]

end

/-! ## Every queue of a die -/

/-- t is s with the queues of die d below n changed by f, and no other queue. -/
structure QueuesBelow (d n : Nat) (f : Nat → RackQ → RackQ) (s t : State) : Prop where
  below : ∀ q, q < n → t.rackq d q = f q (s.rackq d q)
  other : ∀ e q, q < 257 → e ≠ d ∨ n ≤ q → t.rackq e q = s.rackq e q
  frame : t = { s with rackqs := t.rackqs }

/-- Queue n is replaced, where the queues below it follow. -/
theorem QueuesBelow.step {d n : Nat} {f : Nat → RackQ → RackQ} {s u t : State} (hn : n < 257) (hu : u.rackq d n = f n (s.rackq d n))
    (ho : ∀ e q, q < 257 → (e, q) ≠ (d, n) → u.rackq e q = s.rackq e q) (hf : u = { s with rackqs := u.rackqs })
    (h : QueuesBelow d n f u t) : QueuesBelow d (n + 1) f s t where
  below q hq := by
    rcases Nat.lt_succ_iff_lt_or_eq.mp hq with hq | rfl
    · rw [h.below q hq, ho d q (by omega) (by simp; omega)]
    · rw [h.other d q hn (.inr (le_refl _)), hu]
  other e q hq he := by
    rw [h.other e q hq (by omega), ho e q hq (by simp only [ne_eq, Prod.mk.injEq]; omega)]
  frame := h.frame.trans (congrArg (fun u : State => { u with rackqs := t.rackqs }) hf)

section
variable {s : State} {d q : Nat} (hr : mrising s.rackqs = true) (hq : q < 257) (x : RackQ)
include hr hq

theorem State.rackq_putRackq_other {e k : Nat} (hk : k < 257) (hne : (e, k) ≠ (d, q)) : (s.putRackq d q x).rackq e k = s.rackq e k :=
  State.rackq_ne hr _ fun h => hne (by rw [Prod.mk.injEq]; omega)

end

/-! ## The regulator (09 R366) -/

/-- A queue after a refill: its rate and burst are those of its registers. -/
def State.refilled (s : State) (d qu : Nat) (x : RackQ) : RackQ :=
  let r := s.rf d (oRkQcfg qu) rkQcfgRate
  if r = 0 then x else { x with budget := min ((s.rackCap d qu : Nat) : Int) (x.budget + ((r * 64 : Nat) : Int)) }

section
variable {s : State} {d : Nat}

theorem State.refillQ_eq (qu : Nat) : s.refillQ d qu =
    if s.rf d (oRkQcfg qu) rkQcfgRate = 0 then s else s.putRackq d qu (s.refilled d qu (s.rackq d qu)) := by
  unfold State.refillQ State.refilled
  dsimp only
  split
  · rfl
  · congr 2
    split <;> omega

theorem refillQs_below {n : Nat} (hn : n ≤ 257) (hr : mrising s.rackqs = true) :
    QueuesBelow d n (s.refilled d) s (refillQs d n s) := by
  induction n generalizing s with
  | zero => exact ⟨fun q hq => absurd hq (Nat.not_lt_zero _), fun _ _ _ _ => rfl, rfl⟩
  | succ n ih =>
    have hn' : n < 257 := hn
    rw [refillQs, State.refillQ_eq]
    by_cases hz : s.rf d (oRkQcfg n) rkQcfgRate = 0
    · rw [if_pos hz]
      refine QueuesBelow.step hn' ?_ (fun _ _ _ _ => rfl) rfl (ih (by omega) hr)
      unfold State.refilled
      exact (if_pos hz).symm
    · rw [if_neg hz]
      refine QueuesBelow.step hn' (State.rackq_same hr ..) (fun e q hq hne => State.rackq_putRackq_other hr hn' _ hq hne) rfl ?_
      exact ih (s := s.putRackq d n _) (by omega) (mrising_mset _ _ hr)

theorem exec_regulatorRefill (hd : s.hasDie d = true) : exec (.regulatorRefill d) s = .next (refillQs d 256 s) := if_pos hd

end

/-! ## An abort in the queues (09 R390) -/

/-- A queue after an abort of the tag: what has not started is discarded, what has started issues no more. -/
def RackQ.aborted (tag : Nat) (x : RackQ) : RackQ :=
  { x with
    ins := (x.ins.filter (fun i => decide (i.tag ≠ tag) || x.outs.any (fun q => q.seq = i.seq))).map
      (fun i => if i.tag = tag then { i with full := true } else i),
    trkWait := if x.trkTag = tag then 0 else x.trkWait, twr := x.twr.filter (fun q => q.tag ≠ tag) }

/-- An instruction of the tag that has started stays, and issues no more. -/
theorem RackQ.aborted_keeps {x : RackQ} {tag : Nat} {i : RInstr} (hi : i ∈ x.ins) (ht : i.tag = tag)
    (hs : x.outs.any (fun q => q.seq = i.seq) = true) : { i with full := true } ∈ (x.aborted tag).ins := by
  refine List.mem_map.mpr ⟨i, List.mem_filter.mpr ⟨hi, ?_⟩, if_pos ht⟩
  rw [hs, Bool.or_true]

theorem rackAbortQs_below {s : State} {d tag n : Nat} (hn : n ≤ 257) (hr : mrising s.rackqs = true) :
    QueuesBelow d n (fun _ => RackQ.aborted tag) s (rackAbortQs d tag n s) := by
  induction n generalizing s with
  | zero => exact ⟨fun q hq => absurd hq (Nat.not_lt_zero _), fun _ _ _ _ => rfl, rfl⟩
  | succ n ih =>
    have hn' : n < 257 := hn
    rw [rackAbortQs]
    refine QueuesBelow.step hn' (State.rackq_same hr ..) (fun e q hq hne => State.rackq_putRackq_other hr hn' _ hq hne) rfl ?_
    exact ih (s := s.putRackq d n _) (by omega) (mrising_mset _ _ hr)

/-! ## An abort in the ledgers (07 R290) -/

/-- A map in canonical form that lists a value it has keeps its entries. -/
theorem mset_mget {α : Type} [DecidableEq α] {d : Nat → α} {m : SMap α} (hm : mwf d m = true) (k : Nat) : mset d m k (mget d m k) = m := by
  simp only [mwf, Bool.and_eq_true] at hm
  obtain ⟨hr, hd⟩ := hm
  induction m with
  | nil => exact if_pos rfl
  | cons e m ih =>
    obtain ⟨j, y⟩ := e
    simp only [mrising, Bool.and_eq_true] at hr
    simp only [List.all_cons, Bool.and_eq_true, decide_eq_true_eq] at hd
    by_cases hjk : j = k
    · subst hjk
      simp [mset, mget, mfind, hd.1]
    · by_cases hkj : k < j
      · simp [mset, mget, mfind, hjk, hkj]
      · have := ih hr.2 hd.2
        simp only [mget] at this
        simp [mset, mget, mfind, hjk, hkj, this]

section
variable {s : State} {d l tag : Nat}

/-- The ledger is one that an abort of the tag ends. -/
def State.ledHit (s : State) (d l tag : Nat) : Prop := bits (s.led d l) 48 8 = tag ∧ s.ledState d l ≠ 0 ∧ s.ledState d l ≠ 7

theorem State.ledAbort_hit (h : s.ledHit d l tag) : s.ledAbort d l tag = (s.ledSet d l [(40, 3, 5), (lHELD, 24, 0)]).putSpec d l [] :=
  if_pos h

theorem State.ledAbort_miss (h : ¬ s.ledHit d l tag) : s.ledAbort d l tag = s := if_neg h

end

/-! ## A ledger's record in clean codewords -/

theorem State.setMark_clean {s : State} {r : Region} {o : Nat} (hw : mwf markDefault s.marks = true) (h : s.mark r o = .clean) :
    s.setMark r o .clean = s := by
  rw [State.setMark, ← h, State.mark, mset_mget hw]

/-- Whole clean codewords take their bytes as they are. -/
theorem writeCws_whole_clean {s : State} {r : Region} {n k : Nat} {o : Nat} {bs : List Byte} (hw : mwf markDefault s.marks = true)
    (hm : ∀ o, s.mark r o = .clean) (hn : k ≤ n) (ho : o % 32 = 0) (hb : bs.length = 32 * k) : writeCws r n s o bs = s.poke r o bs := by
  induction k generalizing s n o bs with
  | zero =>
    obtain rfl := List.length_eq_zero_iff.mp hb
    cases n <;> rfl
  | succ k ih =>
    obtain ⟨n, rfl⟩ := Nat.exists_eq_add_of_le' hn
    have hhead : (bs.take 32).length = 32 := by rw [List.length_take]; omega
    have htail : (bs.drop 32).length = 32 * k := by rw [List.length_drop]; omega
    have hcw : s.writeCw r o (bs.take 32) = s.poke r o (bs.take 32) := by
      rw [State.writeCw_whole hhead, State.setMark_clean (by exact hw) (by exact hm o)]
    have hstep : writeCws r (n + (k + 1)) s o bs = writeCws r (n + k) (s.writeCw r o (bs.take 32)) (o + 32) (bs.drop 32) := by
      obtain ⟨b, bs, rfl⟩ := List.exists_cons_of_length_pos (show 0 < bs.length by omega)
      rw [← Nat.add_assoc, writeCws, ho]
    have hstore : s.poke r o bs = (s.poke r o (bs.take 32)).poke r (o + 32) (bs.drop 32) := by
      have happ := pokeMem_append r s.mem o (bs.take 32) (bs.drop 32)
      rw [List.take_append_drop, hhead] at happ
      simp only [State.poke, happ]
    rw [hstep, hcw, hstore]
    exact ih (s := s.poke r o (bs.take 32)) hw hm (by omega) (by omega) htail

theorem State.ledSet_clean {s : State} {d l : Nat} (hw : mwf markDefault s.marks = true) (hm : ∀ o, s.mark (.ctx d) o = .clean)
    (fs : List (Nat × Nat × Nat)) : s.ledSet d l fs =
      s.poke (.ctx d) (ledOff l) (toBytes 64 (fs.foldl (fun r f => putBits r f.1 f.2.1 f.2.2) (s.led d l))) := by
  rw [State.ledSet, State.write, if_neg (by nofun)]
  exact writeCws_whole_clean hw hm (k := 2) (by rw [toBytes_length]; decide) (by unfold ledOff; omega) (toBytes_length ..)

theorem State.peekN_of_peek {s t : State} {r : Region} {o n : Nat} (h : ∀ i, i < n → t.peek r (o + i) = s.peek r (o + i)) :
    t.peekN r o n = s.peekN r o n := by
  have hb : t.peeks r o n = s.peeks r o n := by
    induction n generalizing o with
    | zero => rfl
    | succ n ih =>
      have h0 : t.peek r o = s.peek r o := h 0 (Nat.zero_lt_succ _)
      rw [State.peeks, State.peeks, h0, ih fun i hi => ?_]
      rw [Nat.add_assoc, Nat.add_comm 1]
      exact h (i + 1) (Nat.succ_lt_succ hi)
  rw [State.peekN, State.peekN, hb]

/-! ## The ledgers below n after an abort -/

/-- The byte at o of region r lies in the record of ledger l of die d. -/
def inLedger (d l : Nat) (r : Region) (o : Nat) : Prop :=
  r.num = (Region.ctx d).num ∧ ledOff l ≤ o % 2 ^ 64 ∧ o % 2 ^ 64 < ledOff l + 64

/-- A ledger's record reads as before where its bytes do. -/
theorem State.led_of_peek {s t : State} {d l : Nat} (h : ∀ o, inLedger d l (.ctx d) o → t.peek (.ctx d) o = s.peek (.ctx d) o)
    (hl : l < 256) : t.led d l = s.led d l := by
  refine State.peekN_of_peek fun i hi => h _ ⟨rfl, ?_⟩
  have := ledOff_fits hl
  rw [Nat.mod_eq_of_lt (by omega)]
  omega

theorem inLedger_other {d l k o : Nat} {r : Region} (hk : k ≠ l) (h : inLedger d l r o) : ¬ inLedger d k r o := by
  unfold inLedger ledOff at *
  omega

section
variable {s : State} {d l tag : Nat}

theorem State.peek_ledAbort_outside (hm : mrising s.mem = true) (hl : l < 256) {r : Region} {o : Nat}
    (ho : ¬ (bits (s.led d l) 48 8 = tag ∧ inLedger d l r o)) : (s.ledAbort d l tag).peek r o = s.peek r o := by
  by_cases h : s.ledHit d l tag
  · rw [State.ledAbort_hit h]
    exact State.peek_ledSet_outside _ hm hl fun hin => ho ⟨h.1, hin⟩
  · rw [State.ledAbort_miss h]

/-- In clean codewords it is bytes and speculative rows that an abort changes. -/
theorem State.ledAbort_clean (hr : mrising s.mem = true) (hw : mwf markDefault s.marks = true) (hm : ∀ o, s.mark (.ctx d) o = .clean) :
    ∃ m x, s.ledAbort d l tag = { s with mem := m, specRows := x } ∧ mrising m = true := by
  by_cases h : s.ledHit d l tag
  · rw [State.ledAbort_hit h, State.ledSet_clean hw hm]
    generalize toBytes 64 _ = bs
    exact ⟨_, _, rfl, mrising_pokeMem hr⟩
  · rw [State.ledAbort_miss h]
    exact ⟨_, _, rfl, hr⟩

/-- A ledger that an abort ends is ABORTED and holds no tracker entry. -/
theorem State.led_ledAbort (hm : mrising s.mem = true) (hl : l < 256) (h : s.ledHit d l tag) :
    (s.ledAbort d l tag).ledState d l = 5 ∧ (s.ledAbort d l tag).ledF24 d l lHELD = 0 := by
  have hled : (s.ledAbort d l tag).led d l = putBits (putBits (s.led d l) 40 3 5) lHELD 24 0 % 2 ^ (8 * 64) := by
    rw [State.ledAbort_hit h, State.led, State.peekN_congr (State.putSpec_mem _), ← State.led, State.led_ledSet _ hm hl,
      List.foldl_cons, List.foldl_cons, List.foldl_nil]
  rw [State.ledState, State.ledF24, hled, bits_mod (by decide), bits_mod (by decide), bits_putBits_below _ (by decide), bits_putBits_same,
    bits_putBits_same]
  decide

end

/-- What an abort of the tag leaves of the ledgers below n, where their codewords are clean. -/
structure LedgersAborted (d tag n : Nat) (s t : State) : Prop where
  frame : t = { s with specRows := t.specRows, mem := t.mem }
  outside : ∀ r o, ¬ (∃ l, l < n ∧ bits (s.led d l) 48 8 = tag ∧ inLedger d l r o) → t.peek r o = s.peek r o
  ended : ∀ l, l < n → s.ledHit d l tag → t.ledState d l = 5 ∧ t.ledF24 d l lHELD = 0

theorem ledAborts_clean {s : State} {d tag n : Nat} (hn : n ≤ 256) (hr : mrising s.mem = true) (hw : mwf markDefault s.marks = true)
    (hm : ∀ o, s.mark (.ctx d) o = .clean) : LedgersAborted d tag n s (ledAborts d tag n s) := by
  induction n generalizing s with
  | zero => exact ⟨rfl, fun _ _ _ => rfl, fun l hl => absurd hl (Nat.not_lt_zero _)⟩
  | succ n ih =>
    rw [ledAborts]
    obtain ⟨u, hu⟩ : ∃ u, u = s.ledAbort d n tag := ⟨_, rfl⟩
    have hf : u = { s with specRows := u.specRows, mem := u.mem } ∧ mrising u.mem = true := by
      obtain ⟨m, x, h, hmem⟩ := State.ledAbort_clean (tag := tag) (l := n) hr hw hm
      rw [hu, h]
      exact ⟨rfl, hmem⟩
    have hmarks : u.marks = s.marks := Eq.trans (congrArg State.marks hf.1) rfl
    have hout {r : Region} {o : Nat} (ho : ¬ (bits (s.led d n) 48 8 = tag ∧ inLedger d n r o)) : u.peek r o = s.peek r o :=
      hu ▸ State.peek_ledAbort_outside hr hn ho
    have hled {l : Nat} (hl : l < n) : u.led d l = s.led d l :=
      State.led_of_peek (fun o ho => hout fun h => inLedger_other (by omega) ho h.2) (by omega)
    rw [← hu]
    have hih := ih (s := u) (by omega) hf.2 (hmarks ▸ hw) (fun o => by rw [State.mark, hmarks]; exact hm o)
    obtain ⟨t, ht⟩ : ∃ t, t = ledAborts d tag n u := ⟨_, rfl⟩
    rw [← ht] at hih ⊢
    have hframe := congrArg (fun u : State => { u with specRows := t.specRows, mem := t.mem }) hf.1
    refine ⟨hih.frame.trans hframe, fun r o ho => ?_, fun l hl hit => ?_⟩
    · rw [hih.outside r o fun ⟨l, hl, ht, hin⟩ => ho ⟨l, by omega, hled hl ▸ ht, hin⟩]
      exact hout fun h => ho ⟨n, by omega, h⟩
    · rcases Nat.lt_succ_iff_lt_or_eq.mp hl with hl | rfl
      · refine hih.ended l hl ?_
        rw [State.ledHit, State.ledState, hled hl]
        exact hit
      · have hsame : t.led d l = u.led d l :=
          State.led_of_peek (fun o ho => hih.outside _ o fun ⟨k, hk, _, hin⟩ => inLedger_other (by omega) ho hin) hn
        rw [State.ledState, State.ledF24, hsame, hu]
        exact State.led_ledAbort hr hn hit

/-- Without a ledger of the tag an abort changes no ledger. -/
theorem ledAborts_none {s : State} {d tag n : Nat} (h : ∀ l, l < n → ¬ s.ledHit d l tag) : ledAborts d tag n s = s := by
  induction n with
  | zero => rfl
  | succ n ih => rw [ledAborts, State.ledAbort_miss (h n (Nat.lt_succ_self _)), ih fun l hl => h l (by omega)]

/-! ## The abort notice and the drain (09 R390) -/

section
variable {s : State} {d tag : Nat}

theorem exec_rackingAbortNotice (hd : s.hasDie d = true) (ht : tag < 256) :
    exec (.rackingAbortNotice d tag) s = .next (s.rackAbort d tag) :=
  if_pos (by rw [hd, decide_eq_true ht]; rfl)

theorem exec_rackingDrainReport (hd : s.hasDie d = true) (ht : tag < 256) :
    exec (.rackingDrainReport d tag) s = .next (s.rackDrain d tag) :=
  if_pos (by rw [hd, decide_eq_true ht]; rfl)

theorem State.rackDrain_reports (ha : s.rkAborting d tag = true) (hu : s.tagTracked d tag = false) :
    s.rackDrain d tag = { s with drainRk := mset (fun _ => false) s.drainRk (d * 256 + tag) true } :=
  if_pos ⟨ha, by rw [hu]; rfl⟩

theorem State.rackDrain_waits (h : s.rkAborting d tag = false ∨ s.tagTracked d tag = true) : s.rackDrain d tag = s :=
  if_neg fun hc => h.elim (fun ha => by simp [ha] at hc) fun hu => by simp [hu] at hc

theorem State.ledAbort_frame {l : Nat} : ∃ m k x, s.ledAbort d l tag = { s with mem := m, marks := k, specRows := x } := by
  by_cases h : s.ledHit d l tag
  · obtain ⟨k, hk⟩ := State.ledSet_pokes (s := s) (d := d) (l := l) [(40, 3, 5), (lHELD, 24, 0)]
    rw [State.ledAbort_hit h, hk]
    generalize toBytes 64 _ = bs
    exact ⟨_, _, _, rfl⟩
  · rw [State.ledAbort_miss h]
    exact ⟨_, _, _, rfl⟩

theorem ledAborts_frame {n : Nat} : ∃ m k x, ledAborts d tag n s = { s with mem := m, marks := k, specRows := x } := by
  induction n generalizing s with
  | zero => exact ⟨_, _, _, rfl⟩
  | succ n ih =>
    obtain ⟨m, k, x, h⟩ := State.ledAbort_frame (s := s) (d := d) (l := n) (tag := tag)
    obtain ⟨m', k', x', h'⟩ := ih (s := s.ledAbort d n tag)
    exact ⟨m', k', x', h'.trans (congrArg (fun s : State => { s with mem := m', marks := k', specRows := x' }) h)⟩

end

/-- What a state is after an abort notice of the tag (09 R390, 07 R290). -/
structure RackAborted (s : State) (d tag : Nat) (t : State) : Prop where
  tags : t.abortRk = mset (fun _ => false) s.abortRk (d * 256 + tag) true
  below : ∀ q, q < 256 → t.rackq d q = (s.rackq d q).aborted tag
  other : ∀ e q, q < 257 → e ≠ d ∨ 256 ≤ q → t.rackq e q = s.rackq e q
  none : (∀ l, l < 256 → ¬ s.ledHit d l tag) → t = { s with abortRk := t.abortRk, rackqs := t.rackqs }
  clean : (∀ o, s.mark (.ctx d) o = .clean) →
    t = { s with abortRk := t.abortRk, rackqs := t.rackqs, specRows := t.specRows, mem := t.mem } ∧
    (∀ r o, ¬ (∃ l, l < 256 ∧ bits (s.led d l) 48 8 = tag ∧ inLedger d l r o) → t.peek r o = s.peek r o) ∧
    (∀ l, l < 256 → s.ledHit d l tag → t.ledState d l = 5 ∧ t.ledF24 d l lHELD = 0)

theorem State.rackAbort_aborts {s : State} {d tag : Nat} (hs : s.canon = true) : RackAborted s d tag (s.rackAbort d tag) := by
  have hc := State.canon_iff.mp hs
  obtain ⟨v, hv⟩ : ∃ v : State, v = { s with abortRk := mset (fun _ => false) s.abortRk (d * 256 + tag) true } := ⟨_, rfl⟩
  obtain ⟨u, hu⟩ : ∃ u, u = rackAbortQs d tag 256 v := ⟨_, rfl⟩
  have hvq : v.rackqs = s.rackqs := by rw [hv]
  have hq := rackAbortQs_below (s := v) (d := d) (tag := tag) (n := 256) (by omega) (hvq ▸ hc.rackqs)
  rw [← hu] at hq
  have huf : u = { s with abortRk := v.abortRk, rackqs := u.rackqs } := by
    refine hq.frame.trans ?_
    rw [hv]
  have hmem : u.mem = s.mem := Eq.trans (congrArg State.mem huf) rfl
  have hmarks : u.marks = s.marks := Eq.trans (congrArg State.marks huf) rfl
  have htags : u.abortRk = v.abortRk := Eq.trans (congrArg State.abortRk huf) rfl
  have hled (l : Nat) : u.led d l = s.led d l := State.peekN_congr hmem ..
  have hhit (l : Nat) : u.ledHit d l tag ↔ s.ledHit d l tag := by rw [State.ledHit, State.ledHit, State.ledState, State.ledState, hled]
  obtain ⟨t, ht⟩ : ∃ t, t = ledAborts d tag 256 u := ⟨_, rfl⟩
  obtain ⟨m, k, x, hf⟩ := ledAborts_frame (s := u) (d := d) (tag := tag) (n := 256)
  rw [← ht] at hf
  have htq : t.rackqs = u.rackqs := by rw [hf]
  have htt : t.abortRk = v.abortRk := by rw [hf, htags]
  have hrack (e q : Nat) : t.rackq e q = u.rackq e q := by rw [State.rackq, State.rackq, htq]
  have hold (e q : Nat) : v.rackq e q = s.rackq e q := by rw [State.rackq, State.rackq, hvq]
  have heq : s.rackAbort d tag = t := by rw [ht, hu, hv, State.rackAbort]
  rw [heq]
  refine ⟨htt.trans (by rw [hv]), fun q hlt => ?_, fun e q hlt he => ?_, fun hn => ?_, fun hm => ?_⟩
  · rw [hrack, hq.below q hlt, hold]
  · rw [hrack, hq.other e q hlt he, hold]
  · have htu : t = u := ht.trans (ledAborts_none fun l hl => mt (hhit l).mp (hn l hl))
    rw [htu, htags]
    exact huf
  · have h := ledAborts_clean (s := u) (d := d) (tag := tag) (n := 256) (le_refl _) (hmem ▸ mwf_mrising hc.mem) (hmarks ▸ hc.marks)
      fun o => by rw [State.mark, hmarks]; exact hm o
    rw [← ht] at h
    refine ⟨?_, fun r o ho => ?_, fun l hl hit => h.ended l hl ((hhit l).mpr hit)⟩
    · rw [htt, htq]
      exact h.frame.trans (congrArg (fun u : State => { u with specRows := t.specRows, mem := t.mem }) huf)
    · rw [h.outside r o fun ⟨l, hl, htag, hin⟩ => ho ⟨l, hl, hled l ▸ htag, hin⟩, State.peek, hmem, ← State.peek]

/-- Settles O26: streams and the tracker by their equations, the regulator by `refillQs_below`; an abort by `rackAbortQs_below` in the queues
and by `ledAborts_clean` and `ledAborts_none` in the ledgers. -/
theorem streamsRegulatorsAndAborts : Obligations.StreamsRegulatorsAndAborts := by
  refine ⟨fun s d qu hd hq => ?_, fun s d hs hd => ?_, fun s d tag hs hd ht => ?_⟩
  · intro x ripe
    refine ⟨fun i hi => ?_, fun hi => ?_, fun i hi => ?_, fun hw hu => ?_, fun h => ?_⟩
    · rw [exec_streamTileReady hd hq, State.tileReady_eq (ripe := ripe) rfl, hi]
    · rw [exec_streamTileReady hd hq, State.tileReady_eq (ripe := ripe) rfl, hi]
    · intro k u n
      rw [exec_streamGateOpen hd hq, State.gateOpen_some hi]
      refine ⟨fun hp => ⟨fun hn => ?_, fun hn => ?_⟩, fun hp => congrArg _ (if_pos hp)⟩
      · exact congrArg _ ((if_neg (by rw [hp]; decide)).trans (if_pos hn))
      · exact congrArg _ ((if_neg (by rw [hp]; decide)).trans (if_neg (Nat.not_le.mpr hn)))
    · rw [exec_trackerEntryWaitEnd hd (by omega)]
      exact congrArg _ (if_pos ⟨hw, hu⟩)
    · rw [exec_trackerEntryWaitEnd hd (by omega)]
      exact congrArg _ (if_neg fun hc => h.elim (fun h => h hc.1) fun h => absurd hc.2 (Nat.not_lt.mpr h))
  · rw [exec_regulatorRefill hd]
    have h := refillQs_below (d := d) (n := 256) (by omega) (State.canon_rackqs hs)
    exact goesOn_next ⟨h.below, h.other d 256 (by omega) (.inr (le_refl _)), fun e he q hq => h.other e q hq (.inl he), h.frame⟩
  · refine ⟨?_, fun ha hu => ?_, fun h => ?_⟩
    · rw [exec_rackingAbortNotice hd ht]
      have h := State.rackAbort_aborts (d := d) (tag := tag) hs
      have htags := State.canon_abortRk hs
      refine goesOn_next ⟨?_, fun e g hg hne => ?_, fun qu hq => ⟨h.below qu hq, fun i hi htag hst => ?_⟩,
        h.other d 256 (by omega) (.inr (le_refl _)), fun e qu he hq => h.other e qu hq (.inl he), fun hn => h.none ?_, fun hm => ?_⟩
      · rw [State.rkAborting, h.tags, mget_mset_same _ _ htags]
      · rw [State.rkAborting, h.tags, mget_mset_ne _ htags fun hk => hne (by rw [Prod.mk.injEq]; omega), ← State.rkAborting]
      · rw [h.below qu hq]
        exact RackQ.aborted_keeps hi htag hst
      · rintro l hl ⟨h1, h2, h3⟩
        exact (hn l hl).elim (fun h => h h1) fun h => h.elim h2 h3
      · obtain ⟨hframe, hout, hend⟩ := h.clean hm
        exact ⟨hframe, fun r o ho => hout r o fun ⟨l, hl, htag, hr, hlo, hhi⟩ => ho ⟨hr, l, hl, htag, hlo, hhi⟩,
          fun l hl h1 h2 h3 => hend l hl ⟨h1, h2, h3⟩⟩
    · rw [exec_rackingDrainReport hd ht, State.rackDrain_reports ha hu]
      exact goesOn_next ⟨mget_mset_same _ _ (State.canon_drainRk hs), rfl⟩
    · rw [exec_rackingDrainReport hd ht, State.rackDrain_waits h]

end Sys2Proof.Machine
end

section
/-!
PROOFS. QLink: flits that leave a port (13 R544–R565).
-/
namespace Sys2Proof.Machine

/-! ## Registers beside the one that is written -/

section
variable {s : State} (h : mrising s.regs = true)
include h

theorem State.rf_wf_elsewhere {d o e u : Nat} (f g : Fld) (x : Nat) (hk : regKey e u ≠ regKey d o) :
    (s.wf d o f x).rf e u g = s.rf e u g := by
  rw [State.rf, State.wf, State.reg_ne h _ hk, ← State.rf]

theorem State.rf_wfs_elsewhere {d o e u : Nat} (fs : List (Fld × Nat)) (g : Fld) (hk : regKey e u ≠ regKey d o) :
    (s.wfs d o fs).rf e u g = s.rf e u g := by
  rw [State.rf, State.wfs, State.reg_ne h _ hk, ← State.rf]

end

/-- The armed point of a die is what INOC_CTL holds. -/
theorem State.inoc_congr {s t : State} {d : Nat} (h : ∀ f, t.rf d oInocCtl f = s.rf d oInocCtl f) : t.inoc d = s.inoc d := by
  simp only [State.inoc, h]

/-! ## What a port puts on the line (13 R548, R555, R556) -/

section
variable {s : State} {d i : Nat}

theorem exec_flitSend (h : s.hasPort d i = true) : exec (.flitSend d i) s = .next (s.flitSend d i) := if_pos h

theorem State.flitSend_silent (h : s.txst d i = lDOWN ∨ s.txst d i = lRETRAIN) : s.flitSend d i = s := if_pos h

theorem State.flitSend_train (h : s.txst d i = lTRAIN) :
    s.flitSend d i = if (s.port d i).aligned then s.putLine d i 15 0 0 (s.identPl d i) else s :=
  (if_neg (by rw [h]; decide)).trans (if_pos h)

section
variable (h : s.txst d i = lACTIVE ∨ s.txst d i = lRETRY)
include h

theorem State.flitSend_serves : s.flitSend d i = match (s.port d i).ctl with
    | pl :: rest => (s.putPort d i { s.port d i with ctl := rest }).putLine d i 15 0 0 pl
    | [] =>
      match (s.port d i).resend.bind (fun q => (s.port d i).replay.findIdx? (fun e => e.1 = q)) with
      | some k =>
        let e := (s.port d i).replay.getD k (0, 0, 0, [])
        let nx := ((s.port d i).replay[k + 1]?).map (fun e => e.1)
        (s.putPort d i { s.port d i with resend := nx }).putLine d i (e.2.1 % 16) e.1 (e.2.1 / 16) e.2.2.2
      | none =>
        match s.nextCh d i with
        | some ch => s.newFlit d i ch
        | none => s.putLine d i 15 0 0 [0] := by
  have hst : ¬ (s.txst d i = lDOWN ∨ s.txst d i = lRETRAIN) := by rcases h with h | h <;> rw [h] <;> decide
  have htr : ¬ s.txst d i = lTRAIN := by rcases h with h | h <;> rw [h] <;> decide
  exact (if_neg hst).trans (if_neg htr)

/-- A control flit that waits goes first. -/
theorem State.flitSend_ctl {pl : List Byte} {rest : List (List Byte)} (hc : (s.port d i).ctl = pl :: rest) :
    s.flitSend d i = (s.putPort d i { s.port d i with ctl := rest }).putLine d i 15 0 0 pl := by
  rw [State.flitSend_serves h, hc]

variable (hc : (s.port d i).ctl = [])
include hc

/-- Then the next flit of a replay. -/
theorem State.flitSend_replay {q k : Nat} {e : Nat × Nat × Nat × List Byte} (hr : (s.port d i).resend = some q)
    (hk : (s.port d i).replay.findIdx? (fun e => e.1 = q) = some k) (he : (s.port d i).replay[k]? = some e) :
    s.flitSend d i = (s.putPort d i { s.port d i with resend := ((s.port d i).replay[k + 1]?).map (fun e => e.1) }).putLine d i
      (e.2.1 % 16) e.1 (e.2.1 / 16) e.2.2.2 := by
  have hbind : (s.port d i).resend.bind (fun q => (s.port d i).replay.findIdx? (fun e => e.1 = q)) = some k := by rw [hr]; exact hk
  have hget : (s.port d i).replay.getD k (0, 0, 0, []) = e := by rw [List.getD_eq_getElem?_getD, he]; rfl
  rw [State.flitSend_serves h, hc]
  dsimp only
  rw [hbind]
  dsimp only
  rw [hget]

variable (hr : (s.port d i).resend = none)
include hr

theorem State.flitSend_new {ch : Nat} (hn : s.nextCh d i = some ch) : s.flitSend d i = s.newFlit d i ch := by
  rw [State.flitSend_serves h, hc]
  dsimp only
  rw [hr]
  dsimp only [Option.bind_none]
  rw [hn]

theorem State.flitSend_idle (hn : s.nextCh d i = none) : s.flitSend d i = s.putLine d i 15 0 0 [0] := by
  rw [State.flitSend_serves h, hc]
  dsimp only
  rw [hr]
  dsimp only [Option.bind_none]
  rw [hn]

end
end

/-! ## The channel that sends next (10 R429, R430, 13 R553) -/

/-- A carried channel is one of those that are ready. -/
theorem bestCarry_mem {f : Nat → Nat} {l : List Nat} {v : Nat} (h : bestCarry f l = some v) : v ∈ l := by
  refine List.foldlRecOn (motive := fun b => ∀ x, b = some x → x ∈ l) l _ (fun x hx => by cases hx) (fun b hb a ha x hx => ?_) v h
  split at hx
  · exact hb x hx
  · split at hx
    · cases hx
      exact ha
    · split at hx
      · cases hx
        exact ha
      · exact hb x hx

/-- The channel that sends is ready to. -/
theorem State.nextCh_ready {s : State} {d i ch : Nat} (h : s.nextCh d i = some ch) : s.chReady d i ch = true := by
  unfold State.nextCh at h
  dsimp only at h
  split at h
  · next h14 => cases h; exact h14
  · split at h
    · next hown => cases h; exact hown.2.2.1
    · split at h
      · next v hv =>
        cases h
        exact (List.mem_filter.mp (bestCarry_mem hv)).2
      · split at h
        · next h0 => cases h; exact h0
        · split at h
          · next h1 => cases h; exact h1
          · cases h

/-- With DUPID only channel 0 is ready, for a module that is not duplicated. -/
theorem State.chReady_dupid {s : State} {d i ch : Nat} (hd : s.pst d i qlPstatDupid ≠ 0) (h : s.chReady d i ch = true) :
    ch = 0 ∧ s.headMod d i 0 ≠ some (s.pst d i qlPstatFarmod) := by
  simp only [State.chReady, Bool.and_eq_true, Bool.or_eq_true, decide_eq_true_eq] at h
  obtain ⟨⟨_, hdup⟩, _⟩ := h
  obtain ⟨hch, hm⟩ := hdup.resolve_left hd
  subst hch
  exact ⟨rfl, hm⟩

/-! ## Codewords and lanes (13 R544, R545) -/

theorem Port.frame_short {x : Port} {w : Nat} {bs : List Byte} (h : (x.cwBytes ++ bs).length < 640) :
    x.frame w bs = { x with cwBytes := x.cwBytes ++ bs } := if_pos h

theorem Port.frame_full {x : Port} {w : Nat} {bs : List Byte} (h : 640 ≤ (x.cwBytes ++ bs).length) :
    x.frame w bs = { x with
      cwBytes := (x.cwBytes ++ bs).drop 640, cwi := (x.cwi + 1) % 1024,
      laneOut := ((lanesOf x.goodTx w).getD []).zipIdx.map (fun t =>
        (t.1, laneSyms ((lanesOf x.goodTx w).getD []).length t.2 (codeword x.cwi w ((x.cwBytes ++ bs).take 640)))) } :=
  if_neg (Nat.not_lt.mpr h)

/-- A flit on the line changes the books of the codewords alone. -/
theorem Port.frame_keeps (x : Port) (w : Nat) (bs : List Byte) :
    (x.frame w bs).seq = x.seq ∧ (x.frame w bs).tx = x.tx ∧ (x.frame w bs).replay = x.replay := by
  by_cases h : (x.cwBytes ++ bs).length < 640
  · rw [Port.frame_short h]
    exact ⟨rfl, rfl, rfl⟩
  · rw [Port.frame_full (Nat.not_lt.mp h)]
    exact ⟨rfl, rfl, rfl⟩

theorem lanesOf_length {good w : Nat} {ls : List Nat} (h : lanesOf good w = some ls) : ls.length = laneCount w := by
  obtain ⟨k, _, rfl⟩ := Option.map_eq_some_iff.mp h
  rw [List.length_map, List.length_range]

theorem mulRoot_length (r c : Nat) (l : List Nat) : (mulRoot r c l).length = l.length + 1 := by
  induction l generalizing c with
  | nil => rfl
  | cons p ps ih => rw [mulRoot, List.length_cons, ih, List.length_cons]

theorem genPoly_length (n r : Nat) (g : List Nat) : (genPoly n r g).length = g.length + n := by
  induction n generalizing r g with
  | zero => rfl
  | succ n ih => rw [genPoly, ih, mulRoot_length]; omega

theorem rsParity_length (ms r : List Nat) (h : r.length = 30) : (rsParity ms r).length = 30 := by
  induction ms generalizing r with
  | nil => exact h
  | cons m ms ih =>
    refine ih _ ?_
    rw [List.length_zipWith, rsGen, genPoly_length]
    simp [h]

theorem codeword_length (cwi w : Nat) (bs : List Byte) : (codeword cwi w bs).length = 544 := by
  unfold codeword
  dsimp only
  rw [List.length_append, rsParity_length _ _ (List.length_replicate), List.length_map, List.length_range]

/-- Symbol n j + k of a codeword is the j-th of the k-th lane. -/
theorem laneSyms_get {n k j : Nat} {cw : List Nat} (hk : k < n) (hj : n * j + k < 544) (hc : cw.length = 544) :
    (laneSyms n k cw)[j]? = cw[n * j + k]? := by
  have hlt : j < (543 - k) / n + 1 := by
    refine Nat.lt_succ_of_le ((Nat.le_div_iff_mul_le (by omega)).mpr ?_)
    rw [Nat.mul_comm]
    omega
  rw [laneSyms, List.getElem?_map, List.getElem?_range hlt, Option.map_some, List.getD_eq_getElem?_getD,
    List.getElem?_eq_getElem (by omega), Option.getD_some]

/-! ## A new flit (13 R546, R555, R565) -/

section
variable {s : State} {d i : Nat}

/-- Without an inoculation of point 0x40 a flit is put on the line as it is. -/
theorem State.putLine_plain (h : (s.inoc d).point ≠ 0x40) (vc seq pool : Nat) (pl : List Byte) :
    ∃ line, s.putLine d i vc seq pool pl =
      s.putPort d i (({ s.port d i with line := line, sent := (s.port d i).sent + 1 }).frame (s.pst d i qlPstatTxw) line) := by
  have hit : ((s.inoc d).point = 0x40 && (s.inoc d).inst = i && decide (vc ≠ 15)) = false := by simp [h]
  refine ⟨mkFlit vc seq pool (s.port d i).piggy.1 (s.port d i).piggy.2 pl, ?_⟩
  unfold State.putLine
  dsimp only
  rw [hit]
  rfl

/-- The credit that a new flit takes: a dedicated one while the channel has any, else a shared one. -/
def State.takeCredit (s : State) (d i ch : Nat) : State :=
  if 0 < s.rf d (oQlVcstat i ch) qlVcstatDcred then
    s.wf d (oQlVcstat i ch) qlVcstatDcred (s.rf d (oQlVcstat i ch) qlVcstatDcred - 1)
  else s.setPst d i [(qlPstatScred, s.pst d i qlPstatScred - 1)]

theorem regKey_vcstat {i ch o : Nat} (_hi : i < 3) (hc : ch < 15) (ho : o = oInocCtl ∨ o = oQlPstat i) :
    regKey d o ≠ regKey d (oQlVcstat i ch) := by
  unfold regKey oQlVcstat oInocCtl oQlPstat at *
  omega

theorem regKey_pstat {i : Nat} (_hi : i < 3) : regKey d oInocCtl ≠ regKey d (oQlPstat i) := by
  unfold regKey oInocCtl oQlPstat
  omega

/-- A credit taken changes registers alone, and no inoculation. -/
theorem State.takeCredit_frame (s : State) (d i ch : Nat) : s.takeCredit d i ch = { s with regs := (s.takeCredit d i ch).regs } := by
  unfold State.takeCredit
  split <;> rfl

section
variable (h : mrising s.regs = true) {ch : Nat} (hi : i < 3) (hc : ch < 15)
include h hi hc

theorem State.takeCredit_inoc : (s.takeCredit d i ch).inoc d = s.inoc d := by
  refine State.inoc_congr fun f => ?_
  unfold State.takeCredit
  split
  · exact State.rf_wf_elsewhere h _ _ _ (regKey_vcstat hi hc (.inl rfl))
  · exact State.rf_wfs_elsewhere h _ _ (regKey_pstat hi)

theorem State.takeCredit_own (hd : 0 < s.rf d (oQlVcstat i ch) qlVcstatDcred) :
    (s.takeCredit d i ch).rf d (oQlVcstat i ch) qlVcstatDcred = s.rf d (oQlVcstat i ch) qlVcstatDcred - 1 ∧
    (s.takeCredit d i ch).pst d i qlPstatScred = s.pst d i qlPstatScred := by
  have hlt : s.rf d (oQlVcstat i ch) qlVcstatDcred < 2 ^ 10 := getF_lt ..
  rw [State.takeCredit, if_pos hd]
  refine ⟨(State.rf_wf_same h _ _ _ _ (by decide)).trans (Nat.mod_eq_of_lt ?_), ?_⟩
  · show _ < 2 ^ 10
    omega
  · exact State.rf_wf_elsewhere h _ _ _ (regKey_vcstat hi hc (.inr rfl))

theorem State.takeCredit_shared (hd : s.rf d (oQlVcstat i ch) qlVcstatDcred = 0) :
    (s.takeCredit d i ch).pst d i qlPstatScred = s.pst d i qlPstatScred - 1 ∧
    (s.takeCredit d i ch).rf d (oQlVcstat i ch) qlVcstatDcred = 0 := by
  have hlt : s.pst d i qlPstatScred < 2 ^ 10 := getF_lt ..
  rw [State.takeCredit, if_neg (by omega)]
  refine ⟨(State.rf_wf_same h _ _ qlPstatScred _ (by decide)).trans (Nat.mod_eq_of_lt ?_), ?_⟩
  · show _ < 2 ^ 10
    omega
  · exact (State.rf_wfs_elsewhere h _ _ (regKey_vcstat hi hc (.inr rfl)).symm).trans hd

end

/-- The port's books when a new flit of the channel is made. -/
def State.booked (s : State) (d i ch : Nat) : Port :=
  let x := s.port d i
  let b := mget nilB x.tx ch
  { x with
    tx := mset nilB x.tx ch (b.drop 248), txTags := mset nilT x.txTags ch (dropTags 248 (mget nilT x.txTags ch)),
    seq := (x.seq + 1) % 2048,
    replay := x.replay ++ [(x.seq, ch + 16 * (if 0 < s.rf d (oQlVcstat i ch) qlVcstatDcred then 0 else 1), (b.take 248).length, b.take 248)] }

theorem State.newFlit_eq (ch : Nat) : s.newFlit d i ch =
    ((s.putPort d i (s.booked d i ch)).takeCredit d i ch).putLine d i ch (s.port d i).seq
      (if 0 < s.rf d (oQlVcstat i ch) qlVcstatDcred then 0 else 1) ((mget nilB (s.port d i).tx ch).take 248) := by
  by_cases h : 0 < s.rf d (oQlVcstat i ch) qlVcstatDcred
  · have h' : 0 < (s.putPort d i (s.booked d i ch)).rf d (oQlVcstat i ch) qlVcstatDcred := h
    rw [State.takeCredit, if_pos h', State.newFlit, State.booked]
    simp only [if_pos h, if_true]
    rfl
  · have h' : ¬ 0 < (s.putPort d i (s.booked d i ch)).rf d (oQlVcstat i ch) qlVcstatDcred := h
    rw [State.takeCredit, if_neg h', State.newFlit, State.booked]
    simp only [if_neg h, Nat.one_ne_zero, if_false]
    rfl

/-- The port after a new flit holds its books, and registers and ports alone have changed. -/
theorem State.newFlit_port (hs : s.canon = true) (hp : s.hasPort d i = true) {ch : Nat} (hc : ch < 15) (hin : (s.inoc d).point ≠ 0x40) :
    ∃ w line k, s.newFlit d i ch = (((s.putPort d i (s.booked d i ch)).takeCredit d i ch).putPort d i
      (({ s.booked d i ch with line := line, sent := k }).frame w line)) := by
  obtain ⟨u, hu⟩ : ∃ u, u = s.putPort d i (s.booked d i ch) := ⟨_, rfl⟩
  have hports : mrising s.ports = true := State.canon_ports hs
  have hregs : mrising s.regs = true := State.canon_regs_rising hs
  have hi : i < 3 := by
    simp only [State.hasPort, Bool.and_eq_true, decide_eq_true_eq] at hp
    exact hp.2
  have hur : mrising u.regs = true := by rw [hu]; exact hregs
  have hpt : (u.takeCredit d i ch).inoc d = u.inoc d := State.takeCredit_inoc hur hi hc
  have hpoint : ((u.takeCredit d i ch).inoc d).point ≠ 0x40 := by
    rw [hpt, hu]
    exact hin
  have hport : (u.takeCredit d i ch).port d i = s.booked d i ch := by
    rw [State.takeCredit_frame]
    show u.port d i = _
    rw [hu, State.port_same hports]
  rw [State.newFlit_eq, ← hu]
  obtain ⟨line, hl⟩ := State.putLine_plain (i := i) hpoint ch (s.port d i).seq
    (if 0 < s.rf d (oQlVcstat i ch) qlVcstatDcred then 0 else 1) ((mget nilB (s.port d i).tx ch).take 248)
  rw [hport] at hl
  exact ⟨_, line, _, hl⟩

theorem State.newFlit_frame (hs : s.canon = true) (hp : s.hasPort d i = true) {ch : Nat} (hc : ch < 15) (hin : (s.inoc d).point ≠ 0x40) :
    ∃ ps rs, s.newFlit d i ch = { s with ports := ps, regs := rs } := by
  obtain ⟨w, line, k, ht⟩ := State.newFlit_port hs hp hc hin
  obtain ⟨rs, hr⟩ : ∃ rs, (s.putPort d i (s.booked d i ch)).takeCredit d i ch = { s.putPort d i (s.booked d i ch) with regs := rs } :=
    ⟨_, State.takeCredit_frame ..⟩
  rw [hr] at ht
  exact ⟨_, rs, ht⟩

end

/-- Settles O28: what goes first is what `State.flitSend_ctl` to `State.flitSend_idle` say; a new flit leaves the port its books
(`State.newFlit_port`) less the credit that `State.takeCredit` takes; the codewords are those of `Port.frame`. -/
theorem flitsLeaveInOrderWithSeqAndCredit : Obligations.FlitsLeaveInOrderWithSeqAndCredit := by
  refine ⟨fun s d i hp => ?_, fun s d i ch hs hp hc hin => ?_, fun x w bs hw => ?_⟩
  · intro x st
    rw [exec_flitSend hp]
    refine ⟨fun h => ⟨fun pl rest hctl => ?_, fun q k e hctl hr hk he => ?_, fun ch hctl hr hn => ?_, fun hctl hr hn => ?_⟩,
      fun h ha => ?_, fun h ha => ?_, fun ch hd hn => ?_, fun h => ?_⟩
    · rw [State.flitSend_ctl h hctl]
    · rw [State.flitSend_replay h hctl hr hk he]
    · rw [State.flitSend_new h hctl hr hn]
    · rw [State.flitSend_idle h hctl hr hn]
    · rw [State.flitSend_train h, if_pos ha]
    · rw [State.flitSend_train h, if_neg (by rw [ha]; decide)]
    · exact State.chReady_dupid hd (State.nextCh_ready hn)
    · rw [State.flitSend_silent h]
  · intro x b dc t htx
    have hi : i < 3 := by
      simp only [State.hasPort, Bool.and_eq_true, decide_eq_true_eq] at hp
      exact hp.2
    obtain ⟨w, line, k, ht⟩ := State.newFlit_port hs hp hc hin
    obtain ⟨u, hu⟩ : ∃ u, u = s.putPort d i (s.booked d i ch) := ⟨_, rfl⟩
    have hf : u.takeCredit d i ch = { u with regs := (u.takeCredit d i ch).regs } := State.takeCredit_frame ..
    have hregs : mrising s.regs = true := State.canon_regs_rising hs
    have hur : mrising u.regs = true := by rw [hu]; exact hregs
    have hports : mrising (u.takeCredit d i ch).ports = true := by
      rw [hf, hu]
      exact mrising_mset _ _ (State.canon_ports hs)
    have hdc : u.rf d (oQlVcstat i ch) qlVcstatDcred = dc := by rw [hu]; rfl
    have hsc : u.pst d i qlPstatScred = s.pst d i qlPstatScred := by rw [hu]; rfl
    rw [← hu] at ht
    have hport : t.port d i = ({ s.booked d i ch with line := line, sent := k }).frame w line := by
      rw [show t = _ from ht, State.port_same hports]
    obtain ⟨hseq, htx', hrep⟩ := Port.frame_keeps { s.booked d i ch with line := line, sent := k } w line
    have hcred (o : Nat) (f : Fld) : t.rf d o f = (u.takeCredit d i ch).rf d o f := by rw [show t = _ from ht]; rfl
    rw [hport, hseq, htx', hrep]
    refine ⟨rfl, mget_mset_same _ _ htx, rfl, fun hd => ?_, fun hd => ?_, ?_⟩
    · have h := State.takeCredit_own hur hi hc (d := d) (hdc ▸ hd)
      rw [hdc, hsc] at h
      exact ⟨(hcred ..).trans h.1, (hcred ..).trans h.2⟩
    · have h := State.takeCredit_shared hur hi hc (d := d) (hdc.trans hd)
      rw [hsc] at h
      exact ⟨(hcred ..).trans h.1, (hcred ..).trans h.2⟩
    · obtain ⟨ps, rs, h⟩ := State.newFlit_frame hs hp hc hin
      rw [show t = _ from h]
  · intro b y
    refine ⟨fun h => Port.frame_short h, fun h => ?_, fun ls h hl => ⟨lanesOf_length hl, ?_⟩, codeword_length .., fun k j hk hj cw hcw =>
      laneSyms_get hk hj hcw⟩
    · show x.frame w bs = { x with cwBytes := b.drop 640, cwi := (x.cwi + 1) % 1024, laneOut := (x.frame w bs).laneOut }
      rw [Port.frame_full h]
    · show (x.frame w bs).laneOut = _
      rw [Port.frame_full h, hl, Option.getD_some, lanesOf_length hl]

end Sys2Proof.Machine
end

section
/-!
PROOFS. QLink: flits that arrive, and retries (13 R547–R556).
-/
namespace Sys2Proof.Machine

/-! ## Fields of a port's registers -/

section
variable {s : State} (h : mrising s.regs = true) {d i : Nat}

theorem State.ecnt_regs_rising (h : mrising s.regs = true) (f : Fld) (n : Nat) : mrising (s.ecnt d i f n).regs = true := mrising_mset _ _ h

theorem State.setPst_regs_rising (h : mrising s.regs = true) (fs : List (Fld × Nat)) : mrising (s.setPst d i fs).regs = true :=
  mrising_mset _ _ h

theorem State.pst_setPst_same (h : mrising s.regs = true) {f : Fld} (x : Nat) (hf : f.lo + f.w ≤ 256) :
    (s.setPst d i [(f, x)]).pst d i f = x % 2 ^ f.w := State.rf_wf_same h _ _ _ _ hf

theorem State.pst_setPst_other (h : mrising s.regs = true) {f g : Fld} (x : Nat) (hg : g.lo + g.w ≤ 256)
    (hfg : g.lo + g.w ≤ f.lo ∨ f.lo + f.w ≤ g.lo) : (s.setPst d i [(f, x)]).pst d i g = s.pst d i g :=
  State.rf_wf_other h _ _ _ hg hfg

/-- An error counted changes no state of the port. -/
theorem State.pst_ecnt (h : mrising s.regs = true) (f g : Fld) (n : Nat) : (s.ecnt d i f n).pst d i g = s.pst d i g :=
  State.rf_wf_elsewhere h _ _ _ (by unfold regKey oQlPstat oQlEcnt; omega)

theorem State.txst_eq : s.txst d i = s.pst d i qlPstatTxst := rfl
theorem State.rxst_eq : s.rxst d i = s.pst d i qlPstatRxst := rfl

end

/-! ## The receiver's side of RETRY (13 R556) -/

section
variable {s : State} {d i : Nat}

/-- The receiver enters RETRY: its state and the count of retries. -/
def State.enterRetry (s : State) (d i : Nat) : State := (s.setPst d i [(qlPstatRxst, lRETRY)]).ecnt d i qlEcntRetry 1

theorem State.enterRetry_rxst (h : mrising s.regs = true) : (s.enterRetry d i).rxst d i = lRETRY := by
  rw [State.enterRetry, State.rxst_eq, State.pst_ecnt (State.setPst_regs_rising h _), State.pst_setPst_same h _ (by decide)]
  rfl

theorem State.rxRetry_active (h : s.rxst d i = lACTIVE) : s.rxRetry d i =
    ((s.enterRetry d i).putPort d i { s.port d i with naks := 1 }).pushCtl d i (nakPl (s.port d i).rxSeq) :=
  if_neg (not_not.mpr h)

theorem State.rxRetry_stays (h : s.rxst d i ≠ lACTIVE) : s.rxRetry d i = s := if_pos h

theorem State.pushCtl_port (h : mrising s.ports = true) (pl : List Byte) :
    (s.pushCtl d i pl).port d i = { s.port d i with ctl := (s.port d i).ctl ++ [pl] } := State.port_same h ..

/-- It sends one NAK with the SEQ that it expects. -/
theorem State.rxRetry_naks (hr : mrising s.regs = true) (hp : mrising s.ports = true) (h : s.rxst d i = lACTIVE) :
    (s.rxRetry d i).rxst d i = lRETRY ∧ ((s.rxRetry d i).port d i).naks = 1 ∧
      ((s.rxRetry d i).port d i).ctl = (s.port d i).ctl ++ [nakPl (s.port d i).rxSeq] := by
  obtain ⟨u, hu⟩ : ∃ u, u = s.enterRetry d i := ⟨_, rfl⟩
  have hup : mrising u.ports = true := by rw [hu]; exact hp
  rw [State.rxRetry_active h, ← hu, State.pushCtl_port (mrising_mset _ _ hup), State.port_same hup]
  refine ⟨?_, rfl, rfl⟩
  show u.rxst d i = _
  rw [hu]
  exact State.enterRetry_rxst hr

/-! ## A flit received (13 R547, R555) -/

theorem exec_flitReceive (h : s.hasPort d i = true) (fl : List Byte) (de pe : Nat) :
    exec (.flitReceive d i fl de pe) s = .next (s.flitReceive d i fl (de + pe)) := if_pos h

theorem State.lineCheck_fst (fl : List Byte) (e : Nat) : (s.lineCheck d i fl e).1 =
    ((s.port d i).flitBad (e + (if (s.inoc d).point = 0x41 ∧ (s.inoc d).inst = i ∧ (s.port d i).startsCw = true then (s.inoc d).nsym else 0)) ||
      ! flOk fl) := by
  simp only [State.lineCheck, Bool.and_eq_true, decide_eq_true_eq, and_assoc]

/-- The first flit of a pair of codewords is bad when the codeword that starts in it is. -/
theorem Port.flitBad_first {x : Port} (h : x.rxPos = 0) (n : Nat) : x.flitBad n = decide (15 < n) := if_pos h

theorem State.lineCheck_damaged {fl : List Byte} (h : flOk fl = false) (e : Nat) : (s.lineCheck d i fl e).1 = true := by
  rw [State.lineCheck_fst, h, Bool.not_false, Bool.or_true]

section
variable {fl : List Byte} {e : Nat}

theorem State.flitReceive_dead (h : s.rxLive d i = false) : s.flitReceive d i fl e = s := if_pos (by rw [h]; rfl)

variable (h : s.rxLive d i = true)
include h

theorem State.flitReceive_bad (hb : (s.lineCheck d i fl e).1 = true) : s.flitReceive d i fl e = (s.lineCheck d i fl e).2.rxRetry d i :=
  (if_neg (by rw [h]; decide)).trans (if_pos hb)

variable (hb : (s.lineCheck d i fl e).1 = false)
include hb

/-- A flit that is not spoiled: a control flit, the one expected, one had before, or one that is ahead. -/
theorem State.flitReceive_good : s.flitReceive d i fl e = (
    let t := (s.lineCheck d i fl e).2
    if flVc fl = 15 then t
    else if flSeq fl = (t.port d i).rxSeq then t.acceptFlit d i fl
    else if ((t.port d i).rxSeq + 2047 - flSeq fl) % 2048 < 1024 then t
    else t.rxRetry d i) :=
  (if_neg (by rw [h]; decide)).trans (if_neg (by rw [hb]; decide))

end

/-! ## Control flits (13 R548, R550, R556) -/

section
variable {kind : Nat} {lf : LineFlit} {train : Bool} {body : State → State}

/-- A good control flit of the row's kind: its piggyback acts, then its body. -/
theorem State.ctlFlit_live (h : s.rxLive d i = true) (hv : flVc lf.bytes = 15) (hk : ((flPayload lf.bytes).headD 0).toNat = kind)
    (hb : (s.lineCheck d i lf.bytes lf.errs).1 = false) :
    s.ctlFlit d i kind lf train body = body ((s.lineCheck d i lf.bytes lf.errs).2.applyPiggy d i lf.bytes) :=
  (if_neg (by simp [h])).trans ((if_neg fun hc => hc.2.elim (fun h => h hv) fun h => h hk).trans ((if_neg (by rw [hb]; decide)).trans (if_pos h)))

/-- One that trains has no piggyback yet. -/
theorem State.ctlFlit_trains (h : s.rxLive d i = false) (ht : s.rxst d i = lTRAIN) (hv : flVc lf.bytes = 15)
    (hk : ((flPayload lf.bytes).headD 0).toNat = kind) (hb : (s.lineCheck d i lf.bytes lf.errs).1 = false) :
    s.ctlFlit d i kind lf true body = body (s.lineCheck d i lf.bytes lf.errs).2 :=
  (if_neg (by simp [ht])).trans ((if_neg fun hc => hc.2.elim (fun h => h hv) fun h => h hk).trans ((if_neg (by rw [hb]; decide)).trans (if_neg (by rw [h]; decide))))

/-- A damaged one starts a retry, whatever its kind. -/
theorem State.ctlFlit_damaged (h : s.rxLive d i = true) (hf : flOk lf.bytes = false) :
    s.ctlFlit d i kind lf train body = (s.lineCheck d i lf.bytes lf.errs).2.rxRetry d i :=
  (if_neg (by simp [h])).trans ((if_neg (by simp [hf])).trans (if_pos (State.lineCheck_damaged hf _)))

end

section
variable (h : s.hasPort d i = true) (lf : LineFlit)
include h

theorem exec_idle : exec (.idle d i lf) s = .next (s.ctlFlit d i 0 lf false id) := if_pos h
theorem exec_lanestat : exec (.lanestat d i lf) s = .next (s.ctlFlit d i 3 lf false id) := if_pos h
theorem exec_nak : exec (.nak d i lf) s =
    .next (s.ctlFlit d i 1 lf false (fun s => s.nakRx d i (bits (ofBytes ((flPayload lf.bytes).drop 1 |>.take 2)) 0 11))) := if_pos h
theorem exec_ident : exec (.ident d i lf) s = .next (s.ctlFlit d i 2 lf true (fun s => s.identRx d i (flPayload lf.bytes))) := if_pos h

end

/-- A NAK for a flit that is held makes the sender resend from it. -/
theorem State.nakRx_resends {q : Nat} (hp : mrising s.ports = true) (hst : s.txst d i = lACTIVE ∨ s.txst d i = lRETRY)
    (hq : ∃ e, e ∈ (s.port d i).replay ∧ e.1 = q) :
    ((s.nakRx d i q).port d i).resend = some q ∧ ((s.nakRx d i q).port d i).retryAt = some q := by
  have hheld : (s.port d i).replay.any (fun e => e.1 = q) = true := by
    simpa only [List.any_eq_true, decide_eq_true_eq] using hq
  have hn : ¬ (s.txst d i ≠ lACTIVE ∧ s.txst d i ≠ lRETRY ∨ (! (s.port d i).replay.any (fun e => e.1 = q)) = true ∧ q ≠ (s.port d i).seq) := by
    rw [hheld]
    rintro (⟨h1, h2⟩ | ⟨h, _⟩)
    · exact hst.elim h1 h2
    · cases h
  unfold State.nakRx
  extract_lets x held u
  rw [if_neg hn]
  have hu : mrising u.ports = true := by
    dsimp only [u]
    split <;> exact hp
  rw [State.port_same hu]
  exact ⟨if_pos hheld, rfl⟩

/-! ## Timers of a retry (13 R556) -/

theorem exec_nakResend (h : s.hasPort d i = true) (us : Nat) : exec (.nakResend d i us) s = .next (s.nakAgain d i us) := if_pos h
theorem exec_retryLimit (h : s.hasPort d i = true) (us : Nat) : exec (.retryLimit d i us) s = .next (s.retryLimit d i us) := if_pos h

theorem State.nakAgain_sends {us : Nat} (h : s.rxst d i = lRETRY) (hus : 1 ≤ us) (hn : (s.port d i).naks < 3) : s.nakAgain d i us =
    (s.putPort d i { s.port d i with naks := (s.port d i).naks + 1 }).pushCtl d i (nakPl (s.port d i).rxSeq) :=
  if_pos ⟨h, hus, hn⟩

/-- A NAK more waits to be sent, counted; nothing but the port changes. -/
theorem State.naks_again (hp : mrising s.ports = true) (n : Nat) (pl : List Byte) :
    let t := (s.putPort d i { s.port d i with naks := n }).pushCtl d i pl
    (t.port d i).naks = n ∧ (t.port d i).ctl = (s.port d i).ctl ++ [pl] ∧ t = { s with ports := t.ports } := by
  intro t
  have ht : t.port d i = { s.port d i with naks := n, ctl := (s.port d i).ctl ++ [pl] } := by
    rw [State.pushCtl_port (mrising_mset _ _ hp), State.port_same hp]
  rw [ht]
  exact ⟨rfl, rfl, rfl⟩

/-- A receive direction enters RETRAIN: its state, and the count of retrains. -/
theorem State.toRetrain_rx (h : mrising s.regs = true) :
    (s.toRetrain d i false).rxst d i = lRETRAIN ∧ (s.toRetrain d i false).txst d i = s.txst d i ∧
      ∃ rs, s.toRetrain d i false = { s with regs := rs } := by
  have he : s.toRetrain d i false = (s.setPst d i [(qlPstatRxst, lRETRAIN)]).ecnt d i qlEcntRetrain 1 := rfl
  rw [he, State.rxst_eq, State.txst_eq, State.pst_ecnt (State.setPst_regs_rising h _), State.pst_ecnt (State.setPst_regs_rising h _),
    State.pst_setPst_same h _ (by decide), State.pst_setPst_other h _ (by decide) (by decide)]
  exact ⟨rfl, rfl, _, rfl⟩

/-- The receive direction's retry has come to its limit. -/
def State.rxLimit (s : State) (d i us : Nat) : State :=
  if s.rxst d i = lRETRY ∧ (4 ≤ us ∨ 3 ≤ (s.port d i).naks) then
    (s.putPort d i { s.port d i with naks := 0 }).toRetrain d i false else s

theorem State.retryLimit_eq (us : Nat) : s.retryLimit d i us = (
    let u := s.rxLimit d i us
    if u.txst d i = lRETRY ∧ (4 ≤ us ∨ 3 ≤ (u.port d i).naksTx) then
      (u.putPort d i { u.port d i with naksTx := 0 }).toRetrain d i true else u) := rfl

end

/-- Settles O29: a flit by `State.flitReceive_good` and `State.flitReceive_bad`, a control flit by `State.ctlFlit_live`,
`State.ctlFlit_trains` and `State.ctlFlit_damaged`, the timers by `State.retryLimit_eq`. -/
theorem flitsAreAcceptedOnceAndRetried : Obligations.FlitsAreAcceptedOnceAndRetried := by
  refine ⟨fun s d i de pe fl hs hp => ?_, fun s d i de pe fl hp => ?_, fun s d i us hs hp => ?_⟩
  · have hr := State.canon_regs_rising hs
    have hports := State.canon_ports hs
    rw [exec_flitReceive hp]
    refine ⟨fun h => ?_, fun h => congrArg _ (State.flitReceive_dead h), fun h => State.rxRetry_naks hr hports h,
      fun h => State.rxRetry_stays (by rw [h]; decide)⟩
    intro r t x n
    refine ⟨State.lineCheck_fst .., fun h0 => ?_, fun hb hv => ?_, fun hb hv hq => ?_, fun hb hv hq hm => ?_, fun hb hv hq hm => ?_, fun hb => ?_⟩
    · exact (State.lineCheck_fst ..).trans (congrArg (· || ! flOk fl) (Port.flitBad_first h0 _))
    · rw [State.flitReceive_good h hb]
      exact congrArg _ (if_pos hv)
    · rw [State.flitReceive_good h hb]
      exact congrArg _ ((if_neg hv).trans (if_pos hq))
    · rw [State.flitReceive_good h hb]
      exact congrArg _ ((if_neg hv).trans ((if_neg hq).trans (if_pos hm)))
    · rw [State.flitReceive_good h hb]
      exact congrArg _ ((if_neg hv).trans ((if_neg hq).trans (if_neg (Nat.not_lt.mpr hm))))
    · rw [State.flitReceive_bad h hb]
  · intro kind r t
    refine ⟨fun hf hv hb h => ⟨fun hk => ?_, fun hk => ?_, fun hk => ?_, fun hk => ?_⟩, fun hf hv hb h ht hk => ?_, fun hf h => ⟨?_, ?_, ?_, ?_⟩,
      fun q hs hst hq => State.nakRx_resends (State.canon_ports hs) hst hq⟩
    · rw [exec_idle hp, State.ctlFlit_live (lf := ⟨fl, de, pe⟩) h hv hk hb]
      rfl
    · rw [exec_lanestat hp, State.ctlFlit_live (lf := ⟨fl, de, pe⟩) h hv hk hb]
      rfl
    · rw [exec_nak hp, State.ctlFlit_live (lf := ⟨fl, de, pe⟩) h hv hk hb]
      rfl
    · rw [exec_ident hp, State.ctlFlit_live (lf := ⟨fl, de, pe⟩) h hv hk hb]
      rfl
    · rw [exec_ident hp, State.ctlFlit_trains (lf := ⟨fl, de, pe⟩) h ht hv hk hb]
      rfl
    · rw [exec_idle hp, State.ctlFlit_damaged (lf := ⟨fl, de, pe⟩) h hf]
      rfl
    · rw [exec_lanestat hp, State.ctlFlit_damaged (lf := ⟨fl, de, pe⟩) h hf]
      rfl
    · rw [exec_nak hp, State.ctlFlit_damaged (lf := ⟨fl, de, pe⟩) h hf]
      rfl
    · rw [exec_ident hp, State.ctlFlit_damaged (lf := ⟨fl, de, pe⟩) h hf]
      rfl
  · intro x
    have hr := State.canon_regs_rising hs
    have hports := State.canon_ports hs
    rw [exec_nakResend hp, exec_retryLimit hp, State.retryLimit_eq]
    refine ⟨fun h hus hn => ?_, fun h => ?_, fun h htx hl => ?_, fun h hrx hl => ?_, fun h hrx hl => ?_⟩
    · rw [State.nakAgain_sends h hus hn]
      exact goesOn_next (State.naks_again hports _ _)
    · refine congrArg _ (if_neg fun hc => ?_)
      obtain ⟨hst, hus, hn⟩ := hc
      rcases h with h | h | h
      · exact h hst
      · omega
      · exact absurd hn (Nat.not_lt.mpr h)
    · obtain ⟨hrx, htx', rs, hf⟩ := State.toRetrain_rx (s := s.putPort d i { x with naks := 0 }) (d := d) (i := i) hr
      have hl' : s.rxLimit d i us = (s.putPort d i { x with naks := 0 }).toRetrain d i false := if_pos ⟨h, hl⟩
      have hstay : ¬ ((s.putPort d i { x with naks := 0 }).toRetrain d i false).txst d i = lRETRY := by
        rw [htx']
        exact htx
      rw [hl']
      dsimp only
      rw [if_neg fun hc => hstay hc.1]
      refine goesOn_next ⟨hrx, htx', ?_, ?_⟩
      · rw [hf]
        exact congrArg Port.naks (State.port_same hports ..)
      · rw [hf]
        rfl
    · have hl' : s.rxLimit d i us = s := if_neg fun hc => hrx hc.1
      rw [hl']
      exact congrArg _ (if_pos ⟨h, hl⟩)
    · intro u
      have hl' : s.rxLimit d i us = u := if_pos ⟨hrx, .inl hl⟩
      obtain ⟨_, htx', _⟩ := State.toRetrain_rx (s := s.putPort d i { x with naks := 0 }) (d := d) (i := i) hr
      rw [hl']
      exact congrArg _ (if_pos ⟨htx'.trans h, .inl hl⟩)

end Sys2Proof.Machine
end

section
/-!
PROOFS. QLink: training, retraining and the loss of a port (13 R549–R554).
-/
namespace Sys2Proof.Machine

/-! ## A direction's state -/

section
variable {s : State} {d i : Nat} (tx : Bool)

/-- State of a direction, and its fields of QL_PSTAT. -/
def State.dirst (s : State) (d i : Nat) (tx : Bool) : Nat := if tx then s.txst d i else s.rxst d i
def dirField (tx : Bool) : Fld := if tx then qlPstatTxst else qlPstatRxst

theorem State.dirst_eq : s.dirst d i tx = s.pst d i (dirField tx) := by cases tx <;> rfl

theorem dirField_fits : (dirField tx).lo + (dirField tx).w ≤ 256 := by cases tx <;> decide

theorem State.dirst_setPst (h : mrising s.regs = true) {st : Nat} (hst : st < 8) : (s.setPst d i [(dirField tx, st)]).dirst d i tx = st := by
  rw [State.dirst_eq, State.pst_setPst_same h _ (dirField_fits tx)]
  have hw : (dirField tx).w = 3 := by cases tx <;> rfl
  rw [hw]
  exact Nat.mod_eq_of_lt hst

end

/-! ## C14 messages that leave on another port (13 R573) -/

section
variable {s : State} (h : mrising s.regs = true) {d i e p : Nat}
include h

/-- The count of an inoculation writes INOC_STAT and INOC_CTL of its die alone. -/
theorem State.rf_inocClear {o : Nat} (g : Fld) (hs : regKey e o ≠ regKey d oInocStat) (hc : regKey e o ≠ regKey d oInocCtl) :
    (s.inocClear d).rf e o g = s.rf e o g := by
  unfold State.inocClear
  extract_lets n u left v
  have hur : mrising u.regs = true := mrising_mset _ _ h
  have hu : u.rf e o g = s.rf e o g := State.rf_wf_elsewhere h _ _ _ hs
  have hv : v.rf e o g = s.rf e o g := hu
  have hvr : mrising v.regs = true := hur
  split
  · exact hu
  · split
    · rw [State.rf_wf_elsewhere (mrising_mset _ _ hvr) _ _ _ hs, State.rf_wf_elsewhere hvr _ _ _ hc, hv]
    · exact hv

theorem State.pst_inocClear (g : Fld) : (s.inocClear e).pst d i g = s.pst d i g :=
  State.rf_inocClear h g (by unfold regKey oQlPstat oInocStat; omega) (by unfold regKey oQlPstat oInocCtl; omega)

theorem State.inocClear_regs_rising : mrising (s.inocClear e).regs = true := by
  unfold State.inocClear
  extract_lets n u left v
  have hur : mrising u.regs = true := mrising_mset _ _ h
  have hvr : mrising v.regs = true := hur
  split
  · exact hur
  · split
    · exact mrising_mset _ _ (mrising_mset _ _ hvr)
    · exact hvr

/-- A message queued on C14 changes no state of a port. -/
theorem State.pst_enqueue14 (m : Msg) (g : Fld) :
    (s.enqueueMsg e p 14 m).pst d i g = s.pst d i g ∧ mrising (s.enqueueMsg e p 14 m).regs = true := by
  have hu (q : Prop) [Decidable q] : (if q then s.inocClear e else s).pst d i g = s.pst d i g ∧
      mrising (if q then s.inocClear e else s).regs = true := by
    split
    · exact ⟨State.pst_inocClear h g, State.inocClear_regs_rising h⟩
    · exact ⟨rfl, h⟩
  unfold State.enqueueMsg
  dsimp only
  split
  · exact ⟨rfl, h⟩
  · split
    · exact ⟨rfl, h⟩
    · split
      · refine ⟨(State.rf_wf_elsewhere (hu _).2 _ _ _ ?_).trans (hu _).1, mrising_mset _ _ (hu _).2⟩
        rw [show groupOf 14 = 0 from rfl]
        unfold regKey oQlPstat oQlCgrp
        omega
      · exact hu _

theorem State.pst_resend14 (g : Fld) : (s.resend14 e p).pst d i g = s.pst d i g ∧ mrising (s.resend14 e p).regs = true := by
  unfold State.resend14
  refine List.foldlRecOn (motive := fun t : State => t.pst d i g = s.pst d i g ∧ mrising t.regs = true) _ _ ⟨rfl, h⟩ fun t ht m _ => ?_
  split
  · exact ht
  · split
    · exact ht
    · obtain ⟨hp, hr⟩ := State.pst_enqueue14 (d := d) (i := i) ht.2 m.2 g
      exact ⟨hp.trans ht.1, hr⟩

/-- A sending direction that enters RETRAIN leaves the receiving one. -/
theorem State.toRetrain_tx_rxst : (s.toRetrain d i true).rxst d i = s.rxst d i := by
  have hr1 := State.setPst_regs_rising (d := d) (i := i) h [(qlPstatTxst, lRETRAIN)]
  have hr2 := State.ecnt_regs_rising (d := d) (i := i) hr1 qlEcntRetrain 1
  have he : s.toRetrain d i true = ((s.setPst d i [(qlPstatTxst, lRETRAIN)]).ecnt d i qlEcntRetrain 1).resend14 d i := rfl
  rw [he, State.rxst_eq, (State.pst_resend14 hr2 _).1, State.pst_ecnt hr1, State.pst_setPst_other h _ (by decide) (by decide)]
  rfl

omit h in
/-- With no C14 message kept, it writes its state and the count of retrains alone. -/
theorem State.toRetrain_c14 (hc : (s.port d i).c14 = []) (tx : Bool) :
    s.toRetrain d i tx = (s.setPst d i [(dirField tx, lRETRAIN)]).ecnt d i qlEcntRetrain 1 := by
  cases tx with
  | false => rfl
  | true =>
    have hc' : (((s.setPst d i [(qlPstatTxst, lRETRAIN)]).ecnt d i qlEcntRetrain 1).port d i).c14 = [] := hc
    show ((s.setPst d i [(qlPstatTxst, lRETRAIN)]).ecnt d i qlEcntRetrain 1).resend14 d i = _
    rw [State.resend14, hc']
    rfl

theorem State.toRetrain_dirst (hc : (s.port d i).c14 = []) (tx : Bool) : (s.toRetrain d i tx).dirst d i tx = lRETRAIN := by
  rw [State.toRetrain_c14 hc, State.dirst_eq, State.pst_ecnt (State.setPst_regs_rising h _), ← State.dirst_eq,
    State.dirst_setPst _ h (by decide)]

theorem State.rf_toRetrain (hc : (s.port d i).c14 = []) (tx : Bool) (f : Fld) :
    (s.toRetrain d i tx).rf d (oQlPctl i) f = s.rf d (oQlPctl i) f := by
  rw [State.toRetrain_c14 hc]
  exact (State.rf_wf_elsewhere (State.setPst_regs_rising h _) _ _ _ (by unfold regKey oQlPctl oQlEcnt; omega)).trans
    (State.rf_wfs_elsewhere h _ _ (by unfold regKey oQlPctl oQlPstat; omega))

end

/-! ## Entering RETRAIN (13 R551, R578) -/

section
variable {s : State} {d i : Nat}

theorem LaneFault.retrains_of {c : LaneFault} (h : c = .lostLock ∨ ∃ n, c = .corrected n ∧ 800 < n) : c.retrains = true := by
  rcases h with rfl | ⟨n, rfl, hn⟩
  · rfl
  · exact decide_eq_true hn

theorem exec_laneErrorRetrain {tx : Bool} {l : Nat} {c : LaneFault} (hp : s.hasPort d i = true) (hl : l < 8) (hst : s.dirst d i tx = lACTIVE)
    (hm : l ∈ s.activeLanes d i tx) (hc : c = .lostLock ∨ ∃ n, c = .corrected n ∧ 800 < n) :
    exec (.laneErrorRetrain d i tx l c) s = .next (s.toRetrain d i tx) := by
  have hif : (if tx then s.txst d i else s.rxst d i) = lACTIVE ∧ (s.activeLanes d i tx).contains l ∧ c.retrains = true :=
    ⟨hst, List.contains_iff_mem.mpr hm, LaneFault.retrains_of hc⟩
  exact (if_neg (by simp [hp]; omega)).trans (congrArg _ (if_pos hif))

theorem exec_qlRetrainWrite (hp : s.hasPort d i = true) : exec (.qlRetrainWrite d i) s = .next (s.writeRetrain d i) := if_pos hp

/-- RETRAIN written to a port in service whose directions are not yet in RETRAIN. -/
theorem State.writeRetrain_both (h : mrising s.regs = true) (ht : inService (s.txst d i) = true) (hr : inService (s.rxst d i) = true)
    (htx : s.txst d i ≠ lRETRAIN) (hrx : s.rxst d i ≠ lRETRAIN) :
    s.writeRetrain d i = ((s.wf d (oQlPctl i) qlPctlRetrain 1).toRetrain d i true).toRetrain d i false := by
  obtain ⟨u, hu⟩ : ∃ u, u = s.wf d (oQlPctl i) qlPctlRetrain 1 := ⟨_, rfl⟩
  have hkey : regKey d (oQlPstat i) ≠ regKey d (oQlPctl i) := by unfold regKey oQlPstat oQlPctl; omega
  have hut : u.txst d i = s.txst d i := by rw [hu]; exact State.rf_wf_elsewhere h _ _ _ hkey
  have hur : u.rxst d i = s.rxst d i := by rw [hu]; exact State.rf_wf_elsewhere h _ _ _ hkey
  have hrise : mrising u.regs = true := by rw [hu]; exact mrising_mset _ _ h
  unfold State.writeRetrain
  rw [if_neg (by simp [ht, hr]), ← hu]
  dsimp only
  have htx' : (if u.txst d i = lRETRAIN then u else u.toRetrain d i true) = u.toRetrain d i true := if_neg (hut ▸ htx)
  rw [htx']
  exact if_neg (by rw [State.toRetrain_tx_rxst hrise, hur]; exact hrx)

/-- A port that is ACTIVE and keeps no C14 message: both directions are in RETRAIN, and registers alone have changed. -/
theorem State.writeRetrain_active (h : mrising s.regs = true) (hrx : s.rxst d i = lACTIVE) (htx : s.txst d i = lACTIVE)
    (hc : (s.port d i).c14 = []) :
    (s.writeRetrain d i).rxst d i = lRETRAIN ∧ (s.writeRetrain d i).txst d i = lRETRAIN ∧
      (s.writeRetrain d i).rf d (oQlPctl i) qlPctlRetrain = 1 ∧ s.writeRetrain d i = { s with regs := (s.writeRetrain d i).regs } := by
  obtain ⟨u, hu⟩ : ∃ u, u = s.wf d (oQlPctl i) qlPctlRetrain 1 := ⟨_, rfl⟩
  obtain ⟨v, hv⟩ : ∃ v, v = u.toRetrain d i true := ⟨_, rfl⟩
  have hur : mrising u.regs = true := by rw [hu]; exact mrising_mset _ _ h
  have huc : (u.port d i).c14 = [] := by rw [hu]; exact hc
  have hvf : v = { u with regs := v.regs } := by rw [hv, State.toRetrain_c14 huc]; rfl
  have hvr : mrising v.regs = true := by rw [hv, State.toRetrain_c14 huc]; exact mrising_mset _ _ (mrising_mset _ _ hur)
  have hvc : (v.port d i).c14 = [] := by rw [hvf]; exact huc
  have hvt : v.txst d i = lRETRAIN := by rw [hv]; exact State.toRetrain_dirst hur huc true
  obtain ⟨hrx', htx', rs, hf⟩ := State.toRetrain_rx (s := v) (d := d) (i := i) hvr
  have heq : s.writeRetrain d i = v.toRetrain d i false := by
    rw [hv, hu]
    exact State.writeRetrain_both h (by rw [htx]; rfl) (by rw [hrx]; rfl) (by rw [htx]; decide) (by rw [hrx]; decide)
  rw [heq]
  refine ⟨hrx', htx'.trans hvt, ?_, ?_⟩
  · rw [State.rf_toRetrain hvr hvc, hv, State.rf_toRetrain hur huc, hu, State.rf_wf_same h _ _ _ _ (by decide)]
    rfl
  · rw [hf]
    refine (congrArg (fun v : State => { v with regs := rs }) hvf).trans ?_
    rw [hu]
    rfl

/-! ## The result of a retrain (13 R551) -/

theorem exec_retrainResult (hp : s.hasPort d i = true) (tx ok : Bool) (g us : Nat) :
    exec (.retrainResult d i tx ok g us) s = .next (s.retrainResult d i tx ok g us) := if_pos hp

/-- Failed retrains of a direction, and a port with n of them. -/
def Port.fails (x : Port) (tx : Bool) : Nat := if tx then x.failsTx else x.failsRx
def Port.withFails (x : Port) (tx : Bool) (n : Nat) : Port := if tx then { x with failsTx := n } else { x with failsRx := n }

theorem Port.fails_withFails (x : Port) (tx : Bool) (n : Nat) : (x.withFails tx n).fails tx = n := by cases tx <;> rfl

/-- The direction gives up and trains. -/
def State.retrainLost (s : State) (d i : Nat) (tx : Bool) : State :=
  (s.putPort d i ((s.port d i).withFails tx 0)).setPst d i [(dirField tx, lTRAIN)]

theorem State.retrainLost_trains (h : mrising s.regs = true) (hp : mrising s.ports = true) (tx : Bool) :
    (s.retrainLost d i tx).dirst d i tx = lTRAIN ∧ ((s.retrainLost d i tx).port d i).fails tx = 0 := by
  refine ⟨State.dirst_setPst (s := s.putPort d i _) tx h (by decide), ?_⟩
  have hport : (s.retrainLost d i tx).port d i = (s.port d i).withFails tx 0 := State.port_same hp ..
  rw [hport, Port.fails_withFails]

section
variable {tx ok : Bool} {g us : Nat} (hst : s.dirst d i tx = lRETRAIN)
include hst

theorem State.retrainResult_eq : s.retrainResult d i tx ok g us =
    if ok = true ∧ us ≤ 500 then
      match widthFrom ((if tx then (s.port d i).goodTx else (s.port d i).goodRx) &&& g) (s.pst d i (if tx then qlPstatTxw else qlPstatRxw)) with
      | none => s.retrainLost d i tx
      | some w =>
        if laneCount w < minLanes (s.rf d (oQlPctl i) qlPctlMinw) then s.retrainLost d i tx else
        let x := s.port d i
        let good := (if tx then x.goodTx else x.goodRx) &&& g
        let y := (if tx then { x with failsTx := 0, goodTx := good } else { x with failsRx := 0, goodRx := good }).relock tx
        let u := ((s.putPort d i y).setPst d i [(dirField tx, lACTIVE), ((if tx then qlPstatTxw else qlPstatRxw), w)]).retrainDone d i
        if w = s.pst d i (if tx then qlPstatTxw else qlPstatRxw) then u else u.linkWidth d i (! tx)
    else if 1 ≤ (s.port d i).fails tx then s.retrainLost d i tx
    else s.putPort d i ((s.port d i).withFails tx ((s.port d i).fails tx + 1)) :=
  if_neg (not_not.mpr hst)

/-- The links relock at a width that MINW allows. -/
theorem State.retrainResult_locks (hus : us ≤ 500) {w : Nat}
    (hw : widthFrom ((if tx then (s.port d i).goodTx else (s.port d i).goodRx) &&& g) (s.pst d i (if tx then qlPstatTxw else qlPstatRxw)) = some w)
    (hm : ¬ laneCount w < minLanes (s.rf d (oQlPctl i) qlPctlMinw)) :
    s.retrainResult d i tx true g us = (
      let x := s.port d i
      let good := (if tx then x.goodTx else x.goodRx) &&& g
      let y := (if tx then { x with failsTx := 0, goodTx := good } else { x with failsRx := 0, goodRx := good }).relock tx
      let u := ((s.putPort d i y).setPst d i [(dirField tx, lACTIVE), ((if tx then qlPstatTxw else qlPstatRxw), w)]).retrainDone d i
      if w = s.pst d i (if tx then qlPstatTxw else qlPstatRxw) then u else u.linkWidth d i (! tx)) := by
  rw [State.retrainResult_eq hst, if_pos ⟨rfl, hus⟩, hw]
  exact if_neg hm

theorem State.retrainResult_narrow (hus : us ≤ 500)
    (hw : ∀ w, widthFrom ((if tx then (s.port d i).goodTx else (s.port d i).goodRx) &&& g) (s.pst d i (if tx then qlPstatTxw else qlPstatRxw)) = some w →
      laneCount w < minLanes (s.rf d (oQlPctl i) qlPctlMinw)) : s.retrainResult d i tx true g us = s.retrainLost d i tx := by
  rw [State.retrainResult_eq hst, if_pos ⟨rfl, hus⟩]
  cases h : widthFrom ((if tx then (s.port d i).goodTx else (s.port d i).goodRx) &&& g) (s.pst d i (if tx then qlPstatTxw else qlPstatRxw)) with
  | none => rfl
  | some w => exact if_pos (hw w h)

variable (hok : ok = false ∨ 500 < us)
include hok

theorem State.retrainResult_first (hf : (s.port d i).fails tx = 0) :
    s.retrainResult d i tx ok g us = s.putPort d i ((s.port d i).withFails tx 1) := by
  have hn : ¬ (ok = true ∧ us ≤ 500) := fun h => hok.elim (fun e => by simp [e] at h) fun e => by omega
  rw [State.retrainResult_eq hst, if_neg hn, hf]
  rfl

theorem State.retrainResult_second (hf : 1 ≤ (s.port d i).fails tx) : s.retrainResult d i tx ok g us = s.retrainLost d i tx := by
  have hn : ¬ (ok = true ∧ us ≤ 500) := fun h => hok.elim (fun e => by simp [e] at h) fun e => by omega
  rw [State.retrainResult_eq hst, if_neg hn, if_pos hf]

end

/-! ## Training (13 R549, R550) -/

/-- Both directions enter a state: their state's fields, RETRAIN 0, and the port's framing afresh. -/
theorem State.bothTo_states (h : mrising s.regs = true) (hp : mrising s.ports = true) {st : Nat} (hst : st < 8) :
    (s.bothTo d i st).txst d i = st ∧ (s.bothTo d i st).rxst d i = st ∧
    (s.bothTo d i st).rf d (oQlPctl i) qlPctlTrain = s.rf d (oQlPctl i) qlPctlTrain ∧
    ((s.bothTo d i st).port d i).cable = (s.port d i).cable ∧
    s.bothTo d i st = { s with ports := (s.bothTo d i st).ports, regs := (s.bothTo d i st).regs } := by
  obtain ⟨u, hu⟩ : ∃ u, u = s.setPst d i [(qlPstatTxst, st), (qlPstatRxst, st)] := ⟨_, rfl⟩
  obtain ⟨v, hv⟩ : ∃ v, v = u.wf d (oQlPctl i) qlPctlRetrain 0 := ⟨_, rfl⟩
  have hkey : regKey d (oQlPstat i) ≠ regKey d (oQlPctl i) := by unfold regKey oQlPstat oQlPctl; omega
  have hr : mrising u.regs = true := by rw [hu]; exact mrising_mset _ _ h
  have hvp : mrising v.ports = true := by rw [hv, hu]; exact hp
  have hpst (g : Fld) : v.pst d i g = getF (setF (setF (s.reg d (oQlPstat i)) qlPstatTxst st) qlPstatRxst st) g := by
    rw [hv, State.pst, State.rf_wf_elsewhere hr _ _ _ hkey, hu]
    exact State.rf_wfs h _ _ _ _
  have htrain : v.rf d (oQlPctl i) qlPctlTrain = s.rf d (oQlPctl i) qlPctlTrain := by
    rw [hv, State.rf_wf_other hr _ _ _ (by decide) (by decide), hu]
    exact State.rf_wfs_elsewhere h _ _ hkey.symm
  have heq : s.bothTo d i st = v.putPort d i (({ v.port d i with ident := false, aligned := false }.reframe true).reframe false) := by
    rw [hv, hu]
    rfl
  have hcable : (v.port d i).cable = (s.port d i).cable := by rw [hv, hu]; rfl
  have hlt : st % 2 ^ 3 = st := Nat.mod_eq_of_lt hst
  refine ⟨?_, ?_, ?_, ?_, ?_⟩
  · rw [heq, State.txst_eq]
    refine (hpst _).trans ?_
    rw [getF_setF_other _ _ (by decide) (by decide), getF_setF_same _ _ _ (by decide)]
    exact hlt
  · rw [heq, State.rxst_eq]
    refine (hpst _).trans ?_
    rw [getF_setF_same _ _ _ (by decide)]
    exact hlt
  · rw [heq]
    exact htrain
  · rw [heq, State.port_same hvp]
    exact hcable
  · rw [heq, hv, hu]
    rfl

theorem State.startTrain_starts (hd : s.txst d i = lDOWN) (ht : s.rf d (oQlPctl i) qlPctlTrain = 1) :
    s.startTrain d i = s.bothTo d i lTRAIN := if_pos ⟨hd, ht⟩

section
variable (hp : s.hasPort d i = true)
include hp

theorem exec_downRetrainTimer (us : Nat) :
    exec (.downRetrainTimer d i us) s = .next (if 100000 ≤ us then s.startTrain d i else s) := if_neg (by rw [hp]; decide)

theorem exec_qlinkCableMate : exec (.qlinkCableMate d i) s =
    .next (if (s.port d i).cable then s else (s.putPort d i { s.port d i with cable := true }).startTrain d i) :=
  if_neg (by rw [hp]; decide)

theorem exec_qlinkCableUnmate : exec (.qlinkCableUnmate d i) s =
    .next ((s.putPort d i { s.port d i with cable := false }).bothTo d i lDOWN) := if_neg (by rw [hp]; decide)

theorem exec_qlTrainWrite (v : Bool) : exec (.qlTrainWrite d i v) s = .next (s.writeTrain d i v) := if_pos hp

theorem exec_trainTimeout (us : Nat) :
    exec (.trainTimeout d i us) s = .next (if s.txst d i = lTRAIN ∧ 100000 ≤ us then s.bothTo d i lDOWN else s) :=
  if_neg (by rw [hp]; decide)

theorem exec_trainComplete (gt gr : Nat) : exec (.trainComplete d i gt gr) s = .next (s.trainDone d i gt gr) := if_pos hp
theorem exec_portDown : exec (.portDown d i) s = .next (s.portDown d i) := if_pos hp
theorem exec_hbLoss (us : Nat) : exec (.hbLoss d i us) s = .next (s.hbLoss d i us) := if_pos hp

end

/-- Lanes are aligned at the widest good widths that MINW allows. -/
theorem State.align_aligns {gt gr wt wr : Nat} (ht : widthFrom gt 0 = some wt) (hr : widthFrom gr 0 = some wr)
    (ha : (s.port d i).aligned = false) (hmt : minLanes (s.rf d (oQlPctl i) qlPctlMinw) ≤ laneCount wt)
    (hmr : minLanes (s.rf d (oQlPctl i) qlPctlMinw) ≤ laneCount wr) : s.align d i gt gr = (
      let t := (fullCredits d i 15 (s.putPort d i { (s.port d i).books with aligned := true, goodTx := gt % 256, goodRx := gr % 256 })).setPst d i
        [(qlPstatTxw, wt), (qlPstatRxw, wr), (qlPstatScred, 672)]
      let t := if wt = s.pst d i qlPstatTxw then t else t.linkWidth d i false
      if wr = s.pst d i qlPstatRxw then t else t.linkWidth d i true) := by
  unfold State.align
  rw [ht, hr]
  exact if_neg (by simp only [ha, Bool.false_eq_true, false_or]; omega)

theorem State.align_waits {gt gr : Nat} (h : (s.port d i).aligned = true ∨ widthFrom gt 0 = none ∨ widthFrom gr 0 = none ∨
    (∃ w, (widthFrom gt 0 = some w ∨ widthFrom gr 0 = some w) ∧ laneCount w < minLanes (s.rf d (oQlPctl i) qlPctlMinw))) :
    s.align d i gt gr = s := by
  unfold State.align
  dsimp only
  split
  · next wt wr ht hr =>
    refine if_pos ?_
    rw [ht, hr] at h
    rcases h with h | h | h | ⟨w, h | h, hw⟩
    · exact .inl h
    · cases h
    · cases h
    · cases h
      exact .inr (.inl hw)
    · cases h
      exact .inr (.inr hw)
  · rfl

theorem State.trainDone_trains {gt gr : Nat} (ht : s.txst d i = lTRAIN) (hr : s.rxst d i = lTRAIN) (hv : (s.port d i).svc = false) :
    s.trainDone d i gt gr = (
      let u := s.align d i gt gr
      let x := u.port d i
      if (! x.ident) = true ∨ (! x.aligned) = true then u else
      let t := (u.putPort d i { x with svc := true }).setPst d i [(qlPstatTxst, lACTIVE), (qlPstatRxst, lACTIVE)]
      dupids t t.allPorts) :=
  if_neg (by simp [ht, hr, hv])

/-! ## A port that leaves service (13 R554) -/

theorem State.portDown_stays (h : (s.port d i).svc = false ∨ (inService (s.txst d i) = true ∧ inService (s.rxst d i) = true)) :
    s.portDown d i = s := if_pos (h.imp_left fun h => by rw [h]; rfl)

theorem State.portDown_leaves (hv : (s.port d i).svc = true) (ht : inService (s.txst d i) = false) : s.portDown d i = (
    let far := s.pst d i qlPstatFarmod
    let js := s.jobsOnPort d i
    let j := js.headD (0, 0)
    let u := (s.bothTo d i (s.txst d i)).resend14 d i
    let v := u.putPort d i { (u.port d i).books with
      tx := [], txTags := [], stopped := [], svc := false, c14 := [], put14 := 0, ack14 := 0, hbWait := [], hbMiss := 0 }
    let w := loseAcks (3 * d + i) (loseQueues (3 * d + i) v v.rackqs)
    let e := w.logErr { cls := 0x17, die := d, island := 23 + i, sub := i, named := far, tagv := ! js.isEmpty, tag := j.2,
                        part := w.jobPart j.1 j.2 }
    e.endJobs js 0x17 7 far (23 + i) i (e.recIdx 0x17 0)) := by
  have hst : (if (! inService (s.txst d i)) = true then s.txst d i else s.rxst d i) = s.txst d i := if_pos (by rw [ht]; rfl)
  unfold State.portDown
  dsimp only
  rw [if_neg (by simp [hv, ht]), hst]

theorem State.hbLoss_loses {us : Nat} (hm : s.rf d oHbCtl hbCtlHbmiss ≠ 0) (hper : s.rf d oHbCtl hbCtlHbper ≠ 0)
    (hw : s.rf d oHbCtl hbCtlHbmiss ≤ (s.port d i).hbWait.length) (hus : 1500 ≤ us) : s.hbLoss d i us = (
      let far := s.pst d i qlPstatFarmod
      let js := s.jobsOnPort d i
      let j := js.headD (0, 0)
      let v := s.putPort d i { s.port d i with hbWait := [], hbMiss := 0 }
      let e := v.logErr { cls := 0x0F, die := d, island := 23 + i, sub := i, named := far, tagv := ! js.isEmpty, tag := j.2,
                          part := s.jobPart j.1 j.2 }
      e.endJobs js 0x0F 7 far (23 + i) i (e.recIdx 0x0F 0)) :=
  if_neg (by simp only [hm, hper, false_or]; omega)

end

/-- Settles O30: the directions retrain by `State.toRetrain_rx`, `State.writeRetrain_both` and the cases of `State.retrainResult_eq`; a port
trains by `State.bothTo_states` and `State.align_aligns`, and leaves service by `State.portDown_leaves` and `State.hbLoss_loses`. -/
theorem portsTrainRetrainAndLeaveService : Obligations.PortsTrainRetrainAndLeaveService := by
  refine ⟨fun s d i l g us tx c hs hp => ?_, fun s d i us hs hp => ?_, fun s d i us hp => ?_⟩
  · intro st fst fw x good fails low
    have hr := State.canon_regs_rising hs
    have hports := State.canon_ports hs
    refine ⟨fun hl h hm hc => exec_laneErrorRetrain hp hl h hm hc, fun hl h hm hc htx => ?_, fun ht hrx hnt hnr => ?_, fun hrx htx hc => ?_,
      fun w h hus hw hlow => ?_, fun h hus hlow => ?_, fun ok hok h hf => ?_, fun ok hok h hf => ?_⟩
    · subst htx
      obtain ⟨h1, h2, rs, hf⟩ := State.toRetrain_rx (s := s) (d := d) (i := i) hr
      rw [exec_laneErrorRetrain hp hl h hm hc]
      refine goesOn_next ⟨h1, h2, ?_⟩
      rw [hf]
    · rw [exec_qlRetrainWrite hp, State.writeRetrain_both hr ht hrx hnt hnr]
    · rw [exec_qlRetrainWrite hp]
      exact goesOn_next (State.writeRetrain_active hr hrx htx hc)
    · rw [exec_retrainResult hp]
      exact congrArg _ (State.retrainResult_locks h hus hw hlow)
    · rw [exec_retrainResult hp, State.retrainResult_narrow h hus hlow]
      exact goesOn_next (State.retrainLost_trains hr hports tx).1
    · rw [exec_retrainResult hp, State.retrainResult_first h hok hf]
      refine goesOn_next ⟨h, ?_, rfl⟩
      show ((s.putPort d i _).port d i).fails tx = 1
      rw [State.port_same hports, Port.fails_withFails]
    · rw [exec_retrainResult hp, State.retrainResult_second h hok hf]
      exact goesOn_next (State.retrainLost_trains hr hports tx)
  · intro both
    have hr := State.canon_regs_rising hs
    have hports := State.canon_ports hs
    refine ⟨fun hd ht => ⟨fun hus => ?_, fun hc => ?_⟩, fun hd => ?_, ?_, ?_, fun ht hus => ?_, ?_, fun gt gr h => State.align_waits h, ?_, ?_⟩
    · obtain ⟨h1, h2, _, _, hf⟩ := State.bothTo_states (d := d) (i := i) hr hports (st := lTRAIN) (by decide)
      rw [exec_downRetrainTimer hp, if_pos hus, State.startTrain_starts hd ht]
      exact goesOn_next ⟨⟨h1, h2⟩, hf⟩
    · obtain ⟨u, hu⟩ : ∃ u, u = s.putPort d i { s.port d i with cable := true } := ⟨_, rfl⟩
      have hur : mrising u.regs = true := by rw [hu]; exact hr
      have hup : mrising u.ports = true := by rw [hu]; exact mrising_mset _ _ hports
      have hcable : (u.port d i).cable = true := by rw [hu, State.port_same hports]
      obtain ⟨h1, h2, _, h4, hf⟩ := State.bothTo_states (d := d) (i := i) hur hup (st := lTRAIN) (by decide)
      rw [exec_qlinkCableMate hp, if_neg (by rw [hc]; decide), ← hu, State.startTrain_starts (by rw [hu]; exact hd) (by rw [hu]; exact ht)]
      refine goesOn_next ⟨⟨h1, h2⟩, h4.trans hcable, hf.trans ?_⟩
      rw [hu]
      rfl
    · obtain ⟨u, hu⟩ : ∃ u, u = s.wf d (oQlPctl i) qlPctlTrain 1 := ⟨_, rfl⟩
      have hur : mrising u.regs = true := by rw [hu]; exact mrising_mset _ _ hr
      have hup : mrising u.ports = true := by rw [hu]; exact hports
      have hut : u.rf d (oQlPctl i) qlPctlTrain = 1 := by
        rw [hu, State.rf_wf_same hr _ _ _ _ (by decide)]
        rfl
      have hud : u.txst d i = lDOWN := by
        rw [hu]
        exact (State.rf_wf_elsewhere hr _ _ _ (by unfold regKey oQlPstat oQlPctl; omega)).trans hd
      obtain ⟨h1, h2, h3, _, hf⟩ := State.bothTo_states (d := d) (i := i) hur hup (st := lTRAIN) (by decide)
      have heq : s.writeTrain d i true = u.bothTo d i lTRAIN := by
        rw [← State.startTrain_starts hud hut, hu]
        rfl
      rw [exec_qlTrainWrite hp, heq]
      refine goesOn_next ⟨⟨h1, h2⟩, h3.trans hut, hf.trans ?_⟩
      rw [hu]
      rfl
    · obtain ⟨u, hu⟩ : ∃ u, u = s.wf d (oQlPctl i) qlPctlTrain 0 := ⟨_, rfl⟩
      have hur : mrising u.regs = true := by rw [hu]; exact mrising_mset _ _ hr
      have hup : mrising u.ports = true := by rw [hu]; exact hports
      have hut : u.rf d (oQlPctl i) qlPctlTrain = 0 := by
        rw [hu, State.rf_wf_same hr _ _ _ _ (by decide)]
        rfl
      obtain ⟨h1, h2, h3, _, hf⟩ := State.bothTo_states (d := d) (i := i) hur hup (st := lDOWN) (by decide)
      have heq : s.writeTrain d i false = u.bothTo d i lDOWN := by
        rw [hu]
        rfl
      rw [exec_qlTrainWrite hp, heq]
      refine goesOn_next ⟨⟨h1, h2⟩, h3.trans hut, hf.trans ?_⟩
      rw [hu]
      rfl
    · obtain ⟨u, hu⟩ : ∃ u, u = s.putPort d i { s.port d i with cable := false } := ⟨_, rfl⟩
      have hur : mrising u.regs = true := by rw [hu]; exact hr
      have hup : mrising u.ports = true := by rw [hu]; exact mrising_mset _ _ hports
      have hcable : (u.port d i).cable = false := by rw [hu, State.port_same hports]
      obtain ⟨h1, h2, _, h4, hf⟩ := State.bothTo_states (d := d) (i := i) hur hup (st := lDOWN) (by decide)
      rw [exec_qlinkCableUnmate hp, ← hu]
      refine goesOn_next ⟨⟨h1, h2⟩, h4.trans hcable, hf.trans ?_⟩
      rw [hu]
      rfl
    · obtain ⟨h1, h2, _, _, hf⟩ := State.bothTo_states (d := d) (i := i) hr hports (st := lDOWN) (by decide)
      rw [exec_trainTimeout hp, if_pos ⟨ht, hus⟩]
      exact goesOn_next ⟨⟨h1, h2⟩, hf⟩
    · intro gt gr wt wr ht hr' x m ha hmt hmr
      exact State.align_aligns ht hr' ha hmt hmr
    · intro gt gr ht hrx hv u x
      rw [exec_trainComplete hp, State.trainDone_trains ht hrx hv]
      refine ⟨fun hi ha => congrArg _ (if_neg ?_), fun h => congrArg _ (if_pos ?_)⟩
      · rintro (h | h)
        · rw [hi] at h
          cases h
        · rw [ha] at h
          cases h
      · exact h.imp (fun h => by rw [h]; rfl) fun h => by rw [h]; rfl
    · intro gt gr h
      rw [exec_trainComplete hp]
      exact congrArg _ (if_pos h)
  · intro far js j
    refine ⟨fun hv ht => ?_, fun h => ?_, fun hm hper hw hus => ?_⟩
    · rw [exec_portDown hp, State.portDown_leaves hv ht]
    · rw [exec_portDown hp, State.portDown_stays h]
    · rw [exec_hbLoss hp, State.hbLoss_loses hm hper hw hus]

end Sys2Proof.Machine
end

section
/-!
PROOFS. Messages delivered: a clause that names registers past the offsets of a die.
-/
namespace Sys2Proof.Machine

/-- A module right after reset but for a message that waits at port 0 of die 0, and die 1 to withhold its answer (15 R661, point 0x52). -/
def withheldDie : State :=
  (State.reset.putPort 0 0 { rx := [(0, { msg := some {} })] }).wfs 1 oInocCtl [(inocCtlPoint, 0x52), (inocCtlArm, 1)]

theorem withheldDie_meets : withheldDie.canon = true ∧ withheldDie.hasPort 0 0 = true ∧ (withheldDie.rxch 0 0 0).msg = some {} ∧
    1 < withheldDie.nDies ∧ (withheldDie.inoc 1).point = 0x52 ∧ withheldDie.rf 1 oInocStat inocStatFired < 65535 := by
  decide +kernel

/-- Registers are keyed by die · 2^23 + offset: past the offsets of a die come those of the next. -/
theorem State.rf_next_die (s : State) (d o : Nat) (f : Fld) : s.rf d (2 ^ 23 + o) f = s.rf (d + 1) o f := by
  rw [State.rf, State.rf, State.reg, State.reg, show regKey d (2 ^ 23 + o) = regKey (d + 1) o by unfold regKey; omega]

/-- Refutes O32: its clause on the exchange of heartbeats says that no register changes but INOC_CTL and INOC_STAT, of every offset, also of
one past a die's 2^23 offsets, which names a register of the next die. In `withheldDie` die 1 is to withhold its answer, so that its
INOC_STAT.FIRED counts; the same field is the one at offset 2^23 + INOC_STAT of die 0, of which the clause says that it stays. -/
theorem not_deliveredMessagesAct : ¬ Obligations.DeliveredMessagesAct := by
  rintro ⟨_, _, h⟩
  obtain ⟨hs, hp, hm, hd, hpt, hf⟩ := withheldDie_meets
  obtain ⟨_, _, _, _, _, _, _, hx⟩ := h withheldDie 0 0 0 0 {} hp (by decide) hm
  obtain ⟨t, _, hdies, hrest, _⟩ := hx hs
  have hcount := ((hdies 1 hd).2.1 hpt hf).1
  have hstays := hrest 0 (2 ^ 23 + oInocStat) inocStatFired (by decide) (by decide)
  rw [State.rf_next_die, State.rf_next_die, Nat.zero_add, hcount] at hstays
  exact absurd hstays (Nat.succ_ne_self _)

end Sys2Proof.Machine
end

section
/-!
PROOFS. Replies are written in order (14 R591–R599).
-/
namespace Sys2Proof.Machine

theorem outBytes_length (o : Out) (j plog head : Nat) : (outBytes o j plog head).length = 32 := by
  simp only [outBytes, List.length_append, toBytes_length, List.length_cons, List.length_nil]

/-- The end of a short command that is not mute queues its reply (14 R591, R599). -/
theorem State.endCmd_replies {s : State} {f : Nat} {p : Pkt} (hc : (s.fn f).cur = some p) (hm : p.mute = false) (e d r : Nat) :
    s.endCmd f e d r = (s.putFn f { s.fn f with cur := none, stage := 0 }).reply f
      { seq := p.seq, opc := p.opc, part := p.part, status := e, detail := d, result := r, irq := p.irq } := by
  simp [State.endCmd, hc, hm]

/-- Where function f's next reply goes (14 R597). -/
def State.replyAt (s : State) (f : Nat) : Nat :=
  s.rf 0 (oHiRingcfg f) hiRingcfgPbase + 32 * ((s.fn f).replies % 2 ^ s.rf 0 (oHiRingcfg f) hiRingcfgPlog)

/-- The bytes of function f's next reply (14 R597). -/
def State.replyBytes (s : State) (f : Nat) (o : Out) : List Byte :=
  outBytes o (s.fn f).replies (s.rf 0 (oHiRingcfg f) hiRingcfgPlog) (s.rf 0 (oHiRingst f) hiRingstCmdhead)

/-- A host function that has had a reply more. -/
def State.repliedFn (s : State) (f : Nat) (o : Out) : Fn :=
  { s.fn f with
    replies := ((s.fn f).replies + 1) % 2 ^ 32
    msix := (s.fn f).msix + (if (o.irq || o.event) && decide (s.rf 0 (oHiRingcfg f) hiRingcfgIrqen = 1) then 1 else 0) }

/-- A queue of replies of which the first may be written: it is, and the others follow. -/
theorem flushOuts_writes {s : State} {f : Nat} (he : s.ringEn f = true) (hs : s.serving = true) (hl : s.linkOk f = true)
    (hr : ((s.fn f).replies + 2 ^ 32 - (s.fn f).cplhead) % 2 ^ 32 < 2 ^ s.rf 0 (oHiRingcfg f) hiRingcfgPlog) (o : Out) (os : List Out) :
    flushOuts f s (o :: os) = flushOuts f ((s.poke .host (s.replyAt f) (s.replyBytes f o)).putFn f (s.repliedFn f o)) os := by
  rw [flushOuts, if_neg (by rw [he, hs]; simpa using hr), if_neg (by rw [hl]; decide)]
  have hg : ∀ a bs, (s.poke .host a bs).rf 0 (oHiRingcfg f) hiRingcfgIrqen = s.rf 0 (oHiRingcfg f) hiRingcfgIrqen := fun _ _ => rfl
  simp only [State.replyAt, State.replyBytes, State.repliedFn, hg]

/-- A function with nothing lost flushes what waits and no more. -/
theorem State.flush_all {s : State} {f : Nat} (h : ((flushOuts f s (s.fn f).outq).fn f).evLost = 0) :
    s.flush f = flushOuts f s (s.fn f).outq := by
  unfold State.flush
  exact if_neg fun h' => absurd h'.1 (by rw [h]; decide)

/-- A reply that finds room, with nothing before it, is written to its place (14 R591, R597). -/
theorem State.reply_writes {s : State} {f : Nat} (hf : mrising s.fns = true) (he : s.ringEn f = true) (hs : s.serving = true)
    (hl : s.linkOk f = true) (hq : (s.fn f).outq = []) (hv : (s.fn f).evLost = 0)
    (hr : ((s.fn f).replies + 2 ^ 32 - (s.fn f).cplhead) % 2 ^ 32 < 2 ^ s.rf 0 (oHiRingcfg f) hiRingcfgPlog) (o : Out) :
    ∃ z, (mrising z = true ∧ mget fnDefault z f = { s.repliedFn f o with outq := [] }) ∧
      s.reply f o = { s.poke .host (s.replyAt f) (s.replyBytes f o) with fns := z } := by
  obtain ⟨s₁, h₁⟩ : ∃ s₁, s₁ = s.putFn f { s.fn f with outq := enq (s.fn f).outq o } := ⟨_, rfl⟩
  have hr₁ : mrising s₁.fns = true := h₁ ▸ mrising_mset _ _ hf
  have hx : s₁.fn f = { s.fn f with outq := [o] } := by rw [h₁, State.fn_same hf, hq]; rfl
  have hflush : flushOuts f s₁ (s₁.fn f).outq =
      flushOuts f ((s₁.poke .host (s₁.replyAt f) (s₁.replyBytes f o)).putFn f (s₁.repliedFn f o)) [] := by
    rw [hx]
    refine flushOuts_writes ?_ ?_ ?_ ?_ o []
    · rw [h₁]; exact he
    · rw [h₁]; exact hs
    · rw [h₁]; exact hl
    · rw [hx, h₁]; exact hr
  have hat : s₁.replyAt f = s.replyAt f := by
    rw [State.replyAt, hx, h₁]; rfl
  have hby : s₁.replyBytes f o = s.replyBytes f o := by
    rw [State.replyBytes, hx, h₁]; rfl
  have hfn : s₁.repliedFn f o = { s.repliedFn f o with outq := [o] } := by
    rw [State.repliedFn, hx, h₁]; rfl
  have hv' : (s.repliedFn f o).evLost = 0 := hv
  rw [hat, hby, hfn] at hflush
  generalize s.replyAt f = a, s.replyBytes f o = bs, s.repliedFn f o = y at hflush hv' ⊢
  obtain ⟨s₂, h₂⟩ : ∃ s₂, s₂ = (s₁.poke .host a bs).putFn f { y with outq := [o] } := ⟨_, rfl⟩
  have hr₂ : mrising s₂.fns = true := h₂ ▸ mrising_mset _ _ hr₁
  have hx₂ : s₂.fn f = { y with outq := [o] } := by rw [h₂]; exact State.fn_same hr₁ f _
  rw [← h₂, flushOuts, hx₂] at hflush
  refine ⟨mset fnDefault s₂.fns f { y with outq := [] }, ⟨mrising_mset _ _ hr₂, mget_mset_same _ _ hr₂⟩, ?_⟩
  have hrep : s.reply f o = s₁.flush f := by rw [State.reply, if_pos he, h₁]
  rw [hrep, State.flush_all, hflush, State.putFn, h₂, h₁]
  · rfl
  · rw [hflush]; exact (congrArg Fn.evLost (State.fn_same hr₂ f _)).trans hv'

/-- Settles O43: a command's end queues one reply (`State.endCmd_replies`), and a reply with nothing before it is written to its place
(`State.reply_writes`): memory changes as by that one store. -/
theorem repliesAreWrittenInOrder : Obligations.RepliesAreWrittenInOrder := by
  intro s f o hs _
  refine ⟨fun p e d r hc hm => State.endCmd_replies hc hm e d r, fun he hv hl hq hl0 => ?_⟩
  intro x g a hroom ha
  have hmem := State.canon_mem_rising hs
  obtain ⟨z, ⟨_, hfz⟩, ht⟩ := State.reply_writes (State.canon_fns hs) he hv hl hq hl0 hroom o
  have hlen : (s.replyBytes f o).length = 32 := outBytes_length ..
  have hat : s.replyAt f = a := rfl
  have hby : s.replyBytes f o = outBytes o x.replies (g hiRingcfgPlog) (s.rf 0 (oHiRingst f) hiRingstCmdhead) := rfl
  have hz : mget fnDefault z f = { s.repliedFn f o with outq := [] } := hfz
  have hreplies : (s.repliedFn f o).replies = (x.replies + 1) % 2 ^ 32 := rfl
  have hmsix : (s.repliedFn f o).msix = x.msix + (if (o.irq || o.event) && decide (g hiRingcfgIrqen = 1) then 1 else 0) := rfl
  rw [← hby, ← hreplies, ← hmsix, ht, hat]
  rw [hby] at hlen ⊢
  clear_value a
  generalize outBytes o _ _ _ = bs at hlen ⊢
  generalize s.repliedFn f o = y at hz ⊢
  intro t
  refine ⟨fun k hk => ?_, fun r b hb => ?_, ?_⟩
  · exact State.peek_poke_inside hmem (hk.trans_eq hlen.symm) (by omega)
  · refine mget_pokeMem_outside hmem fun i hi => ?_
    rw [hlen] at hi
    unfold Region.loc at hb ⊢
    omega
  · have hfn : t.fn f = { y with outq := [] } := hz
    exact ⟨by rw [hfn], by rw [hfn], by rw [hfn], rfl⟩

end Sys2Proof.Machine
end

section
/-!
PROOFS. Short commands answer (14 R605, R606, R615).
-/
namespace Sys2Proof.Machine

section
variable {s : State} {f : Nat} {p : Pkt}

theorem exec_nop (h : s.hostRuns f 1 p) : exec (.nop f) s = .next (s.endCmd f 0 0 0) := by
  show execNop f s = _
  unfold execNop
  exact hostRow_runs h

theorem exec_identify (h : s.hostRuns f 2 p) : exec (.identify f) s = .next (s.endCmd f 0 0 (s.identity f p.part)) := by
  show execIdentify f s = _
  unfold execIdentify
  exact hostRow_runs h

theorem exec_status (h : s.hostRuns f 3 p) : exec (.status f) s = .next (s.endCmd f 0 0 (s.statusWord f p.part)) := by
  show execStatus f s = _
  unfold execStatus
  exact hostRow_runs h

theorem exec_setModnum (h : s.hostRuns f 4 p) : exec (.setModnum f) s = .next
    (if p.n 16 2 = 0xFFFF then s.endCmd f 0x20 0 0 else if ! (s.jobsOf (fun _ => true)).isEmpty then s.endCmd f 0x34 0 0
      else ({ s with modNum := p.n 16 2 }.resendIdent).endCmd f 0 0 0) := by
  show execSetModnum f s = _
  unfold execSetModnum
  exact hostRow_runs h

theorem exec_winSet (h : s.hostRuns f 0x10 p) : exec (.winSet f) s = .next
    (if 63 < p.n 16 1 ∨ 2 ^ 26 ≤ p.n 32 4 then s.endCmd f 0x20 0 0 else if p.n 24 8 % 4096 ≠ 0 then s.endCmd f 0x19 0 0
      else s.winWrite f p (p.n 24 8 + p.n 32 4 * 2 ^ 64 + 2 ^ 90 + p.n 36 1 % 4 * 2 ^ 91) (if p.n 32 4 = 0 then 1 else 0)) := by
  show execWinSet f s = _
  unfold execWinSet
  exact hostRow_runs h

theorem exec_winClear (h : s.hostRuns f 0x11 p) : exec (.winClear f) s = .next
    (if 63 < p.n 16 1 then s.endCmd f 0x20 0 0 else s.winWrite f p 0 0) := by
  show execWinClear f s = _
  unfold execWinClear
  exact hostRow_runs h

theorem exec_ctrPost (h : s.hostRuns f 0x34 p) : exec (.ctrPost f) s = .next
    (if ! s.ctrOk p then s.endCmd f 0x20 0 0 else if p.n 20 2 = 0 ∧ ! bit (p.n 19 1) 0 then s.endCmd f 1 0 0
      else (s.postFor (p.n 18 1) p.part (p.n 16 2) (p.n 20 2) (bit (p.n 19 1) 0) (s.partTag (p.n 18 1) p.part)).endCmd f 0 0 0) := by
  show execCtrPost f s = _
  unfold execCtrPost
  exact hostRow_runs h

/-- What CTR_READ answers when its counter and die are in range. -/
def State.ctrAnswer (s : State) (f : Nat) (p : Pkt) : State :=
  let u := s.readCheck (.ctx (p.n 18 1)) (ctrOff p.part (p.n 16 2)) 8
  u.endCmd f 0 0 (u.peekN (.ctx (p.n 18 1)) (ctrOff p.part (p.n 16 2)) 8)

theorem exec_ctrRead (h : s.hostRuns f 0x35 p) : exec (.ctrRead f) s = .next
    (if ! s.ctrOk p then s.endCmd f 0x20 0 0 else s.ctrAnswer f p) := by
  show execCtrRead f s = _
  unfold execCtrRead
  exact hostRow_runs h

theorem State.ctrOk_iff : s.ctrOk p = true ↔ p.n 16 2 < 0xFFF ∧ s.hasDie (p.n 18 1) = true := by
  simp [State.ctrOk]

/-- A window in use keeps its entry, and the command waits. -/
theorem State.winWrite_waits (h : s.winBusy p.part (p.n 16 1) = true) (e k : Nat) : s.winWrite f p e k = s :=
  if_pos h

theorem State.winWrite_writes (h : s.winBusy p.part (p.n 16 1) = false) (e k : Nat) :
    s.winWrite f p e k = (s.write (.ctx 0) (winOff p.part (p.n 16 1)) (toBytes 16 e)).endCmd f k 0 0 :=
  if_neg (by rw [h]; exact Bool.false_ne_true)

end

/-- Settles O44: each command's row answers for the packet that its ring may begin (`hostRow_runs`), by the cases of its operands. -/
theorem shortCommandsAnswer : Obligations.ShortCommandsAnswer := by
  intro s f p
  refine ⟨exec_nop, exec_identify, exec_status, fun h hn => ⟨fun hj => ?_, fun hj => ?_⟩, fun h hn => ?_,
    fun h hw hz ha hb => ?_, fun h hw hb => ?_, fun h hw hz ha hb => ?_, fun h hw hb => ?_, fun h hw => ?_, fun h hw hz ha => ?_,
    fun h hw => ?_, fun h hc hd hn hb => ?_, fun h hc hd hn => ?_, fun h hc hd => ?_, fun _ hc => ⟨fun h => ?_, fun h => ?_⟩⟩
  · rw [exec_setModnum h, if_neg hn, hj]; rfl
  · rw [exec_setModnum h, if_neg hn, if_pos (by simpa using hj)]
  · rw [exec_setModnum h, if_pos hn]
  · rw [exec_winSet h, if_neg (by omega), if_neg (not_not_intro ha), State.winWrite_writes hb]
  · rw [exec_winClear h, if_neg (by omega), State.winWrite_writes hb]
  · rw [exec_winSet h, if_neg (by omega), if_neg (not_not_intro ha), State.winWrite_waits hb]
  · rw [exec_winClear h, if_neg (by omega), State.winWrite_waits hb]
  · rw [exec_winSet h, if_pos hw]
  · rw [exec_winSet h, if_neg (by omega), if_pos ha]
  · rw [exec_winClear h, if_pos hw]
  · rw [exec_ctrPost h, State.ctrOk_iff.mpr ⟨hc, hd⟩, Bool.not_true, if_neg Bool.false_ne_true, if_pos ⟨hn, by rw [hb]; rfl⟩]
  · rw [exec_ctrPost h, State.ctrOk_iff.mpr ⟨hc, hd⟩, Bool.not_true, if_neg Bool.false_ne_true, if_neg (by simpa [imp_iff_not_or] using hn)]
  · rw [exec_ctrRead h, State.ctrOk_iff.mpr ⟨hc, hd⟩]; rfl
  · rw [exec_ctrPost h, if_pos (by simpa [← Bool.not_eq_true, State.ctrOk_iff] using hc)]
  · rw [exec_ctrRead h, if_pos (by simpa [← Bool.not_eq_true, State.ctrOk_iff] using hc)]

end Sys2Proof.Machine
end

section
/-!
PROOFS. Rings start, stop and restart; the patrol scrub decodes (14 R588, R589, R592; 15 R636).
-/
namespace Sys2Proof.Machine

/-! ## The fields of a ring's configuration -/

/-- A ring's sizes and bases are legal (14 R588). -/
def ringGood (v : RegWord) : Prop :=
  (6 ≤ getF v hiRingcfgClog ∧ getF v hiRingcfgClog ≤ 16) ∧ (6 ≤ getF v hiRingcfgPlog ∧ getF v hiRingcfgPlog ≤ 16) ∧
    getF v hiRingcfgCbase % 4096 = 0 ∧ getF v hiRingcfgPbase % 4096 = 0

/-- A ring out of service whose EN is written: it goes in service when its setup is legal. -/
theorem ringCfg_enables {v : RegWord} (h : getF v hiRingcfgEn = 0) (g : Nat) (hg : (g = 1 ∧ ringGood v) ∨ (g = 0 ∧ ¬ ringGood v)) :
    ringCfg v (setF v hiRingcfgEn 1) = setFs (setF v hiRingcfgEn 1) [(hiRingcfgRestart, 0), (hiRingcfgEn, g)] := by
  have hc : getF (setF v hiRingcfgEn 1) hiRingcfgClog = getF v hiRingcfgClog := getF_setF_other v 1 (by decide) (by decide)
  have hp : getF (setF v hiRingcfgEn 1) hiRingcfgPlog = getF v hiRingcfgPlog := getF_setF_other v 1 (by decide) (by decide)
  have hcb : getF (setF v hiRingcfgEn 1) hiRingcfgCbase = getF v hiRingcfgCbase := getF_setF_other v 1 (by decide) (by decide)
  have hpb : getF (setF v hiRingcfgEn 1) hiRingcfgPbase = getF v hiRingcfgPbase := getF_setF_other v 1 (by decide) (by decide)
  have he : getF (setF v hiRingcfgEn 1) hiRingcfgEn = 1 := getF_setF_same v _ 1 (by decide)
  rw [ringCfg, if_neg (by rw [h]; decide), hc, hp, hcb, hpb, he]
  unfold ringGood at hg
  dsimp only
  rcases hg with ⟨rfl, hg⟩ | ⟨rfl, hg⟩
  · rw [if_pos (by simpa [and_assoc] using hg)]
  · rw [if_neg (by simpa [and_assoc] using hg)]

/-- A configuration whose RESTART and EN are written has the EN that is written. -/
theorem getF_en_of_enables (v : RegWord) (g : Nat) :
    getF (setFs (setF v hiRingcfgEn 1) [(hiRingcfgRestart, 0), (hiRingcfgEn, g)]) hiRingcfgEn = g % 2 :=
  getF_setF_same _ _ g (by decide)

/-- A ring in service keeps what is written to EN. -/
theorem getF_en_ringCfg_running {old : RegWord} (h : getF old hiRingcfgEn = 1) (new : RegWord) :
    getF (ringCfg old new) hiRingcfgEn = getF new hiRingcfgEn := by
  rw [ringCfg, if_pos h]
  simp only [setFs]
  rw [getF_setF_other _ _ (by decide) (by decide), getF_setF_other _ _ (by decide) (by decide), getF_setF_other _ _ (by decide) (by decide),
    getF_setF_other _ _ (by decide) (by decide), getF_setF_other _ _ (by decide) (by decide)]

/-- A ring out of service stays so while EN is not written. -/
theorem getF_en_ringCfg_stopped {old : RegWord} (h : getF old hiRingcfgEn = 0) : getF (ringCfg old old) hiRingcfgEn = 0 := by
  rw [ringCfg, if_neg (by rw [h]; decide), h]
  dsimp only
  rw [ite_self]
  exact getF_setF_same _ _ 0 (by decide)

theorem getF_en_ringCfg_same (old : RegWord) : getF (ringCfg old old) hiRingcfgEn = getF old hiRingcfgEn := by
  by_cases h : getF old hiRingcfgEn = 1
  · exact getF_en_ringCfg_running h old
  · have h0 : getF old hiRingcfgEn = 0 := by have := getF_lt old hiRingcfgEn; change _ < 2 at this; omega
    rw [getF_en_ringCfg_stopped h0, h0]

/-! ## Rings in and out of service -/

section
variable {s : State} {f : Nat}

theorem exec_ringEnable_closed (hf : f < 9) (h : s.fnOpen f = false) (b : Bool) : exec (.ringEnable f b) s = .next s := by
  show execRingEnable f b s = _
  simp [execRingEnable, hf, h]

theorem exec_ringRestart_closed (hf : f < 9) (h : s.fnOpen f = false) : exec (.ringRestart f) s = .next s := by
  show execRingRestart f s = _
  simp [execRingRestart, hf, h]

theorem exec_ringEnable_open (hf : f < 9) (h : s.fnOpen f = true) (b : Bool) : exec (.ringEnable f b) s =
    .next (s.ringWrite f (s.reg 0 (oHiRingcfg f)) (setF (s.reg 0 (oHiRingcfg f)) hiRingcfgEn (if b then 1 else 0)) false) := by
  show execRingEnable f b s = _
  simp [execRingEnable, hf, h]

theorem exec_ringRestart_open (hf : f < 9) (h : s.fnOpen f = true) : exec (.ringRestart f) s =
    .next (s.ringWrite f (s.reg 0 (oHiRingcfg f)) (s.reg 0 (oHiRingcfg f)) true) := by
  show execRingRestart f s = _
  simp [execRingRestart, hf, h]

/-- RESTART neither starts nor stops the ring. -/
theorem State.ringWrite_restarts (s : State) (f : Nat) (v : RegWord) :
    s.ringWrite f v v true = (s.setReg 0 (oHiRingcfg f) (ringCfg v v)).ringRestart f := by
  rw [State.ringWrite, getF_en_ringCfg_same, if_pos rfl, if_neg (fun h => absurd (h.1.symm.trans h.2) (by decide)),
    if_neg (fun h => absurd (h.1.symm.trans h.2) (by decide))]

/-- A ring out of service whose EN is written. -/
theorem State.ringWrite_enables (s : State) (f : Nat) {v : RegWord} (h : getF v hiRingcfgEn = 0) :
    (ringGood v → s.ringWrite f v (setF v hiRingcfgEn 1) false =
      (s.setReg 0 (oHiRingcfg f) (setFs (setF v hiRingcfgEn 1) [(hiRingcfgRestart, 0), (hiRingcfgEn, 1)])).ringOn f) ∧
    (¬ ringGood v → s.ringWrite f v (setF v hiRingcfgEn 1) false =
      s.setReg 0 (oHiRingcfg f) (setFs (setF v hiRingcfgEn 1) [(hiRingcfgRestart, 0), (hiRingcfgEn, 0)])) := by
  refine ⟨fun hg => ?_, fun hg => ?_⟩
  · rw [State.ringWrite, ringCfg_enables h 1 (.inl ⟨rfl, hg⟩), getF_en_of_enables, if_pos ⟨h, rfl⟩]; rfl
  · rw [State.ringWrite, ringCfg_enables h 0 (.inr ⟨rfl, hg⟩), getF_en_of_enables, if_neg (fun h' => absurd h'.2 (by decide)),
      if_neg (fun h' => absurd (h.symm.trans h'.1) (by decide))]; rfl

/-- A ring in service whose EN is cleared. -/
theorem State.ringWrite_stops (s : State) (f : Nat) {v : RegWord} (h : getF v hiRingcfgEn = 1) :
    s.ringWrite f v (setF v hiRingcfgEn 0) false = (s.setReg 0 (oHiRingcfg f) (ringCfg v (setF v hiRingcfgEn 0))).ringOff f := by
  rw [State.ringWrite, getF_en_ringCfg_running h, getF_setF_same _ _ _ (by decide), if_neg (fun h' => absurd (h.symm.trans h'.1) (by decide)),
    if_pos ⟨h, rfl⟩]; rfl

end

/-! ## The patrol scrub (15 R636) -/

theorem exec_patrolScrub {s : State} {d cw o : Nat} {r : Region} (hd : s.hasDie d = true) (hp : scrubPlace d cw = some (r, o)) :
    exec (.patrolScrub d cw) s = .next (s.decodeCw r o) := by
  show execPatrolScrub d cw s = _
  rw [execPatrolScrub, hp, hd]; rfl

/-- A codeword that no injection corrupts is decoded by its mark (15 R634). -/
theorem State.decodeCw_calm {s : State} {r : Region} {o : Nat} (h : s.inocReads r o = false) :
    s.decodeCw r o = s.decodeMark r o (s.mark r o) false 1 := by
  rw [State.decodeCw, State.markRead, h]; rfl

/-- Settles O41: what a write of EN or RESTART stores (`State.ringWrite_enables`, `State.ringWrite_stops`, `State.ringWrite_restarts`) and
what the decoder does with each mark. -/
theorem ringsStartStopAndScrubsDecode : Obligations.RingsStartStopAndScrubsDecode := by
  intro s f d cw hs hf old ok good off
  have hr := State.canon_regs_rising hs
  have hfn := State.canon_fns hs
  refine ⟨fun ho he => ⟨fun hg => ?_, fun hg => ?_⟩, fun ho he => ?_, fun ho => ?_,
    fun ho => ⟨exec_ringRestart_closed hf ho, exec_ringEnable_closed hf ho⟩, fun r o hd hp => exec_patrolScrub hd hp, fun r o hd hp hi => ?_⟩
  · exact (exec_ringEnable_open hf ho true).trans (congrArg _ ((s.ringWrite_enables f he).1 hg))
  · exact (exec_ringEnable_open hf ho true).trans (congrArg _ ((s.ringWrite_enables f he).2 hg))
  · refine ⟨_, (exec_ringEnable_open hf ho false).trans (congrArg _ (s.ringWrite_stops f he)), ?_, ?_, fun g hg => ?_, rfl⟩
    · exact (congrArg (getF · hiRingcfgEn) (State.reg_same hr ..)).trans ((getF_en_ringCfg_running he _).trans (getF_setF_same _ _ 0 (by decide)))
    · exact congrArg Fn.outq (State.fn_same hfn f _)
    · exact State.fn_ne hfn _ hg
  · rw [exec_ringRestart_open hf ho, s.ringWrite_restarts]
    generalize ringCfg _ _ = w
    have hr' : mrising (s.setReg 0 (oHiRingcfg f) w).regs = true := mrising_mset _ _ hr
    refine goesOn_next ⟨?_, ?_, ?_, State.fn_same hfn f _, rfl⟩
    · exact (State.rf_wfs hr' 0 _ _ _).trans ((getF_setF_other _ _ (by decide) (by decide)).trans
        ((getF_setF_other _ _ (by decide) (by decide)).trans (getF_setF_same _ _ _ (by decide))))
    · exact (State.rf_wfs hr' 0 _ _ _).trans ((getF_setF_other _ _ (by decide) (by decide)).trans (getF_setF_same _ _ 0 (by decide)))
    · exact (State.rf_wfs hr' 0 _ _ _).trans (getF_setF_same _ _ 0 (by decide))
  · rw [exec_patrolScrub hd hp, State.decodeCw_calm hi]
    refine ⟨fun hm => ?_, fun hm => ?_, fun hm => ?_⟩
    · rcases hm with hm | hm <;> rw [hm] <;> rfl
    · rw [hm]; rfl
    · rw [hm]; rfl

end Sys2Proof.Machine
end

section
/-!
PROOFS. Jobs start and abort (14 R609–R614).
-/
namespace Sys2Proof.Machine

section
variable {s : State} {f : Nat} {p : Pkt}

/-- A JOB_START that no check fails finds a free tag (14 R611). -/
theorem State.freeTags_of_jobFail {q : Nat} {b : List Byte} (h : s.jobFail f q b = none) : s.freeTags q ≠ [] := by
  intro he
  revert h
  unfold State.jobFail
  dsimp only
  rw [if_pos he]
  repeat' split
  all_goals exact Option.some_ne_none _

/-- The tag firmware gives a job that starts: a free one of the partition (log entry 50). -/
def State.jobTag (s : State) (q : Nat) : Nat := (s.freeTags q).getD (s.free 8 % (s.freeTags q).length) 0

theorem State.jobTag_mem {q : Nat} (h : s.freeTags q ≠ []) : s.jobTag q ∈ s.freeTags q := by
  have hl : s.free 8 % (s.freeTags q).length < (s.freeTags q).length := Nat.mod_lt _ (List.length_pos_iff.mpr h)
  rw [State.jobTag, List.getD_eq_getElem _ _ hl]
  exact List.getElem_mem hl

theorem exec_jobStart_fails {e : Nat × Nat} (h : s.hostRuns f 0x30 p) (hj : s.jobFail f p.part p.block = some e) :
    exec (.jobStart f) s = .next (s.endCmd f e.1 e.2 0) := by
  show execJobStart f s = _
  rw [execJobStart, hostRow_runs h]
  dsimp only
  rw [hj]

end

/-- Settles O46: JOB_START by its check (`State.jobFail`), whose last is that a tag is free, and JOB_ABORT by whether the tag is the job's. -/
theorem jobsStartAndAbort : Obligations.JobsStartAndAbort := by
  intro s f p
  refine ⟨fun h hj => ⟨State.jobTag_mem (State.freeTags_of_jobFail hj), ?_⟩, fun e h hj => exec_jobStart_fails h hj, fun h hj => ?_, fun h hj => ?_⟩
  · show execJobStart f s = _
    rw [execJobStart, hostRow_runs h]
    dsimp only
    rw [hj]
  · show execJobAbort f s = _
    rw [execJobAbort, hostRow_runs h]
    exact congrArg _ (if_pos hj)
  · show execJobAbort f s = _
    rw [execJobAbort, hostRow_runs h]
    exact congrArg _ (if_neg (by rw [hj]; exact Bool.false_ne_true))

end Sys2Proof.Machine
end

section
/-!
PROOFS. The management interfaces answer (18 R743–R747).
-/
namespace Sys2Proof.Machine

/-! ## SMBus block reads (18 R743, R744) -/

section
variable {s : State}

theorem State.smbRead_managed (h : s.managed = true) (code : Nat) (bs : List Byte) :
    s.smbRead code bs = { s with smb := bs, smbPec := smbPecOf code bs } :=
  if_pos h

theorem State.smbRead_unmanaged (h : s.managed = false) (code : Nat) (bs : List Byte) : s.smbRead code bs = s :=
  if_neg (by rw [h]; exact Bool.false_ne_true)

/-- Bytes of code 0x02 (18 R744). -/
def State.smbState (s : State) : List Byte :=
  toBytes 1 s.moduleCode ++ toBytes 2 s.modNum ++ toBytes 1 s.healthMask ++
    toBytes 1 (bits (s.reg 0 oPwrStat).toNat 8 8) ++ toBytes 1 (s.rf 0 oPwrStat pwrStatDorm) ++ toBytes 1 (s.rf 0 oPwrStat pwrStatSleep) ++ [0]

theorem execSmbusStateRead_eq (s : State) :
    execSmbusStateRead s = .next (if s.managed then { s.smbRead 2 s.smbState with smbAlert := false } else s) := rfl

theorem State.smbState_length (s : State) : s.smbState.length = 8 := by
  simp only [State.smbState, List.length_append, toBytes_length, List.length_cons, List.length_nil]

theorem State.smbState_take (s : State) :
    s.smbState.take 4 = toBytes 1 s.moduleCode ++ toBytes 2 s.modNum ++ toBytes 1 s.healthMask := by
  have hl : (toBytes 1 s.moduleCode ++ toBytes 2 s.modNum ++ toBytes 1 s.healthMask).length = 4 := by
    simp only [List.length_append, toBytes_length]
  rw [State.smbState, List.append_assoc, List.append_assoc, List.append_assoc, List.take_append_of_le_length hl.ge,
    List.take_of_length_le hl.le]

/-! ## The test access port (18 R746) -/

/-- An instruction is loaded on its die alone. -/
theorem tapRow_loads {d : Nat} (hs : s.canon = true) (hd : s.hasDie d = true) (hm : s.managed = true) (code v : Nat) :
    goesOn (tapRow d s code v) (fun t => t.tap d = (code, v) ∧ (∀ e, e ≠ d → t.tap e = s.tap e) ∧ t = { s with taps := t.taps }) := by
  have ht := State.canon_taps hs
  refine ⟨{ s with taps := mset tapDefault s.taps d (code, v) }, ?_, mget_mset_same d _ ht, fun e he => mget_mset_ne _ ht he, rfl⟩
  rw [tapRow, if_pos hd, State.tapSet, if_pos hm]

theorem State.tapCode_stays {d : Nat} (h : (s.tap d).1 = 1 ∨ (s.tap d).1 = 2) : s.tapCode d = (s.tap d).1 := if_pos h

theorem State.tapCode_drives {d : Nat} (h : (s.tap d).1 = 0 ∨ 3 ≤ (s.tap d).1 ∧ (s.tap d).1 ≤ 6) :
    s.tapCode d = if s.phase = 2 then (s.tap d).1 else 0xFF := by
  have hle : (s.tap d).1 ≤ 6 := by omega
  rw [State.tapCode, if_neg (by omega)]
  simp only [hle, true_and]

theorem State.tapCode_reserved {d : Nat} (h : 6 < (s.tap d).1) : s.tapCode d = 0xFF := by
  rw [State.tapCode, if_neg (by omega), if_neg (by omega)]

theorem State.tapData_idcode {d : Nat} (h : s.tapCode d = 2) : s.tapData d = idcode d := by rw [State.tapData, h]; rfl

theorem State.tapData_boundary {d : Nat} (h : s.tapCode d ∈ [0, 1, 5, 6]) : s.tapData d = (s.tap d).2 := by
  simp only [List.mem_cons, List.not_mem_nil, or_false] at h
  rcases h with h | h | h | h <;> rw [State.tapData, h] <;> rfl

end

/-- Settles O52: each block read by `State.smbRead_managed`, each test-port instruction by `tapRow_loads`, FLASH_EXT and a PCIe atomic by
their cases. -/
theorem managementInterfacesAnswer : Obligations.ManagementInterfacesAnswer := by
  intro s d v f hs hd hf reads
  refine ⟨fun hm => ⟨?_, ?_, ?_, ?_, ?_⟩, fun hm => ⟨?_, ?_, ?_, ?_, ?_⟩, fun hm => ?_,
    ⟨State.tapCode_stays, State.tapCode_drives, State.tapCode_reserved, State.tapData_idcode, State.tapData_boundary⟩,
    fun hp => ⟨?_, fun hw => ?_, fun hw => ?_⟩, fun b hp => ?_, fun hp => ?_⟩
  · exact congrArg _ (State.smbRead_managed hm ..)
  · refine ⟨{ s with smb := s.smbState, smbPec := smbPecOf 2 s.smbState, smbAlert := false }, ?_, s.smbState_length, s.smbState_take, rfl⟩
    show execSmbusStateRead s = _
    rw [execSmbusStateRead_eq, if_pos hm, State.smbRead_managed hm]
  · exact congrArg _ (State.smbRead_managed hm ..)
  · exact congrArg _ (State.smbRead_managed hm ..)
  · exact congrArg _ (State.smbRead_managed hm ..)
  · exact congrArg _ (State.smbRead_unmanaged hm ..)
  · show execSmbusStateRead s = _
    rw [execSmbusStateRead_eq, if_neg (by rw [hm]; exact Bool.false_ne_true)]
  · exact congrArg _ (State.smbRead_unmanaged hm ..)
  · exact congrArg _ (State.smbRead_unmanaged hm ..)
  · exact congrArg _ (State.smbRead_unmanaged hm ..)
  · have h := tapRow_loads hs hd hm
    exact ⟨h 0 _, h 1 v, h 2 _, h 3 _, h 4 _, h 5 _, h 6 _, h 0xFF _⟩
  · exact congrArg _ (if_neg (not_not_intro hp))
  · exact congrArg _ ((if_neg (not_not_intro hp)).trans (if_pos hw))
  · exact congrArg _ ((if_neg (not_not_intro hp)).trans (if_neg (fun h => Bool.false_ne_true (hw.symm.trans h))))
  · exact congrArg _ (if_pos hp)
  · show execPcieAtomicRequest f s = _
    rw [execPcieAtomicRequest, if_pos hf, if_pos hp]

end Sys2Proof.Machine
end

section
/-!
SUPPORT. Maps whose entries are kept, dropped or changed one by one, and the reset of registers.
-/
namespace Sys2Proof.Machine

section
variable {α β : Type} {m : SMap α}

/-- What an entry becomes decides what its key finds. -/
theorem mfind_filterMap {g : Nat × α → Option (Nat × β)} (hg : ∀ e e', g e = some e' → e'.1 = e.1) (h : mrising m = true) (k : Nat) :
    mfind (m.filterMap g) k = (mfind m k).bind (fun x => (g (k, x)).map (fun e => e.2)) := by
  ext y
  constructor
  · intro hy
    obtain ⟨⟨j, x⟩, hmem, he⟩ := List.mem_filterMap.mp (mem_of_mfind hy)
    obtain rfl : k = j := hg _ _ he
    rw [mfind_of_mem h hmem, Option.bind_some, he]; rfl
  · intro hy
    obtain ⟨x, hx, hy⟩ := Option.bind_eq_some_iff.mp hy
    obtain ⟨⟨j, z⟩, he, rfl⟩ := Option.map_eq_some_iff.mp hy
    obtain rfl : j = k := hg _ _ he
    exact mfind_of_mem (mrising_filterMap hg h) (List.mem_filterMap.mpr ⟨_, mem_of_mfind hx, he⟩)

theorem mfind_filter (p : Nat × α → Bool) (h : mrising m = true) (k : Nat) : mfind (m.filter p) k = (mfind m k).filter (fun x => p (k, x)) := by
  rw [← List.filterMap_eq_filter, mfind_filterMap (fun e e' he => congrArg _ (Option.guard_eq_some_iff.mp he).1.symm) h]
  cases mfind m k with
  | none => rfl
  | some x => by_cases hp : p (k, x) = true <;> simp [Option.guard, Option.filter, hp]

theorem mfind_map {f : Nat × α → Nat × β} (hf : ∀ e, (f e).1 = e.1) (h : mrising m = true) (k : Nat) :
    mfind (m.map f) k = (mfind m k).map (fun x => (f (k, x)).2) := by
  rw [← List.filterMap_eq_map, mfind_filterMap (fun e e' he => Option.some.inj he ▸ hf e) h]
  cases mfind m k with
  | none => rfl
  | some x => rfl

/-- A key whose entries are kept reads as before. -/
theorem mget_filter_kept {d : Nat → α} {p : Nat × α → Bool} (h : mrising m = true) {k : Nat} (hp : ∀ x, p (k, x) = true) :
    mget d (m.filter p) k = mget d m k := by
  rw [mget, mfind_filter p h, mget]
  cases mfind m k with
  | none => rfl
  | some x => rw [Option.filter, if_pos (hp x)]

/-- A key whose entries are dropped reads as unlisted. -/
theorem mget_filter_dropped {d : Nat → α} {p : Nat × α → Bool} (h : mrising m = true) {k : Nat} (hp : ∀ x, p (k, x) = false) :
    mget d (m.filter p) k = d k := by
  rw [mget, mfind_filter p h]
  cases mfind m k with
  | none => rfl
  | some x => rw [Option.filter, if_neg (by rw [hp]; exact Bool.false_ne_true)]; rfl

end

/-! ## The reset of registers -/

section
variable {kind : Nat} {scope : Nat → RegInfo → Nat → Nat → Bool} {m : SMap RegWord} {k : Nat}

theorem resetRegs_cons_outside (hk : ∀ r i j, regOf (k % 2 ^ 23) = some (r, i, j) → scope (k / 2 ^ 23) r i j = false) (v : RegWord) :
    resetRegs kind scope ((k, v) :: m) = (k, v) :: resetRegs kind scope m := by
  rw [resetRegs]
  split
  · rfl
  · next r i j hr => rw [if_neg (by rw [hk r i j hr]; exact Bool.false_ne_true)]

/-- A reset leaves the registers outside its scope. -/
theorem mget_resetRegs_outside (h : mrising m = true)
    (hk : ∀ r i j, regOf (k % 2 ^ 23) = some (r, i, j) → scope (k / 2 ^ 23) r i j = false) :
    mget regDefault (resetRegs kind scope m) k = mget regDefault m k := by
  induction m with
  | nil => rfl
  | cons e m ih =>
    obtain ⟨j, v⟩ := e
    simp only [mrising, Bool.and_eq_true] at h
    obtain ⟨hlow, hm⟩ := h
    rcases Nat.lt_trichotomy j k with hjk | rfl | hjk
    · have hold : mget regDefault ((j, v) :: m) k = mget regDefault m k := by
        rw [mget, mfind, if_neg hjk.ne, if_neg hjk.not_gt]; rfl
      rw [hold]
      rcases resetRegs_cons kind scope j v m with he | ⟨x, -, he⟩
      · rw [he]; exact ih hm
      · rw [he, mget, mfind, if_neg hjk.ne, if_neg hjk.not_gt]; exact ih hm
    · rw [resetRegs_cons_outside hk, mget, mget, mfind, mfind, if_pos rfl, if_pos rfl]
    · have hl : mlow k ((j, v) :: m) = true := decide_eq_true hjk
      rw [mget, mfind_of_low (mlow_resetRegs (by simp only [mrising, hlow, hm, Bool.and_self]) hl), mget, mfind_of_low hl]

end
end Sys2Proof.Machine
end

section
/-!
PROOFS. Islands, dies and the module rest and wake (17 R716–R720).
-/
namespace Sys2Proof.Machine

/-! ## A set bit cleared -/

/-- A set bit is cleared by the subtraction of its power of two; every other bit stays. -/
theorem testBit_sub_two_pow {n d : Nat} (h : n.testBit d = true) (e : Nat) :
    (n - 2 ^ d).testBit e = if e = d then false else n.testBit e := by
  have hge : 2 ^ d ≤ n := Nat.ge_two_pow_of_testBit h
  have hd : (n - 2 ^ d).testBit d = false := by
    have := Nat.testBit_two_pow_add_eq (n - 2 ^ d) d
    rw [Nat.add_sub_cancel' hge, h] at this
    simpa using this.symm
  have hadd := testBit_add_two_pow hd e
  rw [Nat.sub_add_cancel hge] at hadd
  by_cases he : e = d
  · rw [if_pos he, he, hd]
  · rw [if_neg he] at hadd ⊢
    exact hadd.symm

/-- A clear bit set keeps a number in its width. -/
theorem add_two_pow_lt {n d w : Nat} (hn : n < 2 ^ w) (hd : d < w) (h : n.testBit d = false) : n + 2 ^ d < 2 ^ w := by
  refine Nat.lt_pow_two_of_testBit _ fun e he => ?_
  rw [testBit_add_two_pow h, if_neg (by omega)]
  exact Nat.testBit_lt_two_pow (hn.trans_le (Nat.pow_le_pow_right (by decide) he))

/-! ## Islands that rest and wake (17 R716, R717) -/

section
variable {s : State} {d i : Nat}

theorem State.rested_lt (s : State) (d : Nat) : s.rf d oIslRest islRestRested < 2 ^ 31 := getF_lt ..

theorem State.restEnter_rests (hp : s.phase = 0) (hm : bit (s.rf d oIslRest islRestRested) i = false)
    (he : bit (s.rf d oIslRest islRestResten) i = true) (hi : s.islandIdle d i = true) :
    s.restEnter d i = s.wf d oIslRest islRestRested (s.rf d oIslRest islRestRested + 2 ^ i) := by
  unfold State.restEnter
  exact if_neg (by simp [hp, hm, he, hi])

theorem State.unrest_wakes (h : bit (s.rf d oIslRest islRestRested) i = true) :
    s.unrest d i = s.wf d oIslRest islRestRested (s.rf d oIslRest islRestRested - 2 ^ i) := if_pos h

theorem State.unrest_awake (h : bit (s.rf d oIslRest islRestRested) i = false) : s.unrest d i = s :=
  if_neg (by rw [h]; exact Bool.false_ne_true)

/-! ## Dormant dies (17 R718) -/

theorem exec_dieDormantEnter (hd : s.hasDie d = true) : exec (.dieDormantEnter d) s =
    .next (if s.phase = 0 ∧ bit (s.rf 0 oPwrCtl pwrCtlDormreq) d ∧ ! s.tagOn d then s.sleepDie d else s) := if_pos hd

theorem exec_dieWake (hd : s.hasDie d = true) : exec (.dieWake d) s =
    .next (if s.serving ∧ ! bit (s.rf 0 oPwrCtl pwrCtlDormreq) d then s.wakeDie d false else s) := if_pos hd

/-- Which dies read as dormant once DORM is written. -/
theorem State.dormant_wf (h : mrising s.regs = true) (x : Nat) {e : Nat} (he : e < 8) :
    (s.wf 0 oPwrStat pwrStatDorm x).dormant e = x.testBit e := by
  rw [State.dormant, State.rf_wf_same h _ _ _ _ (by decide), bit, Nat.testBit_mod_two_pow]
  simp only [show e < pwrStatDorm.w from he, decide_true, Bool.true_and]

theorem State.freshIslands_regs (s : State) (d : Nat) :
    (s.freshIslands d).regs = resetRegs kPOR (fun e r _ _ => e = d && r.isl.poweredOff) s.regs := rfl

theorem State.freshIslands_mem (s : State) (d : Nat) :
    (s.freshIslands d).mem = s.mem.filter (fun c => ! wakeZero d (c.1 / 2 ^ 64)) := rfl

/-- PWR_STAT is of an island that dormancy leaves on. -/
theorem pwrStat_on : (regOf (regKey 0 oPwrStat % 2 ^ 23)).all (fun r => ! r.1.isl.poweredOff) = true := by decide

theorem State.freshIslands_pwrStat (h : mrising s.regs = true) (d : Nat) (f : Fld) :
    (s.freshIslands d).rf 0 oPwrStat f = s.rf 0 oPwrStat f := by
  refine congrArg (getF · f) (mget_resetRegs_outside h fun r i j hr => ?_)
  have hon := pwrStat_on
  rw [hr, Option.all_some] at hon
  simp [(Bool.not_eq_true' _).mp hon]

/-- The memories that a wake zero-writes read zero. -/
theorem State.peek_freshIslands (h : mrising s.mem = true) {d : Nat} {r : Region} (hr : wakeZero d r.num = true) (o : Nat) :
    (s.freshIslands d).peek r o = 0 := by
  rw [State.peek, State.freshIslands_mem]
  refine mget_filter_dropped h fun x => ?_
  have hn : r.loc o / 2 ^ 64 = r.num := by unfold Region.loc; omega
  rw [hn, hr]; rfl

/-! ## Module sleep (17 R719) -/

theorem Keeps.nDies {P : Prop} {t u : State} (h : Keeps P t u) : u.nDies = t.nDies := by
  rw [State.nDies, State.nDies, h.variant]

/-- Module sleep before its dies go dormant: long commands cancelled, jobs ended. -/
def State.sleepFirst (s : State) : State :=
  ((s.cancelAll (fun _ => true) false).wf 0 oPwrStat pwrStatSleep 1).stopJobs (fun _ => true) 1

theorem State.sleep_serving (h : s.serving = true) : s.sleep =
    (List.range s.nDies).foldl (fun t e => ((t.freshIslands e).sleepDie e).deepRest e) s.sleepFirst := by
  have hn : s.sleepFirst.nDies = s.nDies := (Keeps.refl (P := True) s).cancelAll.wf.stopJobs.nDies
  rw [← hn]
  unfold State.sleep
  exact if_neg (by rw [h]; decide)

theorem State.sleep_idle (h : s.serving = false) : s.sleep = s := by
  unfold State.sleep
  exact if_pos (by rw [h]; decide)

/-- The end of module sleep before its dies wake: their racking engines and cellar controllers no longer rest. -/
def State.wakeFirst (s : State) : State :=
  (List.range s.nDies).foldl (fun t e => (t.unrest e 22).unrest e 27) (s.wf 0 oPwrStat pwrStatSleep 0)

theorem State.wakeAll_asleep (hp : s.phase = 0) (h : s.rf 0 oPwrStat pwrStatSleep = 1) :
    s.wakeAll = (List.range 9).foldl (fun t f => t.lateReplies f)
      ((List.range s.nDies).foldl (fun t e => if bit (t.rf 0 oPwrCtl pwrCtlDormreq) e then t else t.wakeDie e false) s.wakeFirst) := by
  have hn : s.wakeFirst.nDies = s.nDies := ((Keeps.refl (P := True) s).wf.foldl fun _ _ ht => ht.unrest.unrest).nDies
  rw [← hn]
  unfold State.wakeAll
  exact if_neg (by omega)

end

/-- Settles O51: rests and wakes set and clear a bit of ISL_REST.RESTED or PWR_STAT.DORM, a wake restores the islands
(`State.freshIslands_pwrStat`, `State.peek_freshIslands`), and module sleep goes by its own equations. -/
theorem islandsDiesAndTheModuleRest : Obligations.IslandsDiesAndTheModuleRest := by
  intro s d i hs hd hp hi m
  have hr := State.canon_regs_rising hs
  have hd8 : d < 8 := (of_decide_eq_true hd : d < s.nDies).trans_le s.nDies_le
  refine ⟨fun hm he hidle => ?_, fun hm => ?_, fun hm => ?_, fun hq ht hdorm => ?_, fun ht => ?_, fun hv hq hdorm => ?_,
    fun hv => ⟨rfl, State.sleep_serving hv⟩, fun hv => congrArg Host.Outcome.next (State.sleep_idle hv),
    fun hv => congrArg Host.Outcome.next (State.wakeAll_asleep hp hv)⟩
  · refine ⟨_, (if_pos hd).trans (congrArg _ (State.restEnter_rests hp hm he hidle)), ?_, ?_, rfl⟩
    · exact (State.rf_wf_same hr _ _ _ _ (by decide)).trans (Nat.mod_eq_of_lt (add_two_pow_lt (s.rested_lt d) hi hm))
    · exact State.rf_wf_other hr _ _ _ (by decide) (by decide)
  · refine ⟨_, (if_pos hd).trans (congrArg _ (State.unrest_wakes hm)), ?_, rfl⟩
    exact (State.rf_wf_same hr _ _ _ _ (by decide)).trans (Nat.mod_eq_of_lt ((Nat.sub_le ..).trans_lt (s.rested_lt d)))
  · exact (if_pos hd).trans (congrArg _ (State.unrest_awake hm))
  · have hsleep : s.sleepDie d = s.wf 0 oPwrStat pwrStatDorm (s.rf 0 oPwrStat pwrStatDorm + 2 ^ d) :=
      if_neg (by rw [hdorm]; exact Bool.false_ne_true)
    refine ⟨_, (exec_dieDormantEnter hd).trans (congrArg _ ((if_pos ⟨hp, hq, by rw [ht]; rfl⟩).trans hsleep)), ?_, fun e he hne => ?_, rfl⟩
    · rw [State.dormant_wf hr _ hd8, testBit_add_two_pow hdorm, if_pos rfl]
    · rw [State.dormant_wf hr _ he, testBit_add_two_pow hdorm, if_neg hne]; rfl
  · exact (exec_dieDormantEnter hd).trans (congrArg _ (if_neg fun h => by simp [ht] at h))
  · have hwake : s.wakeDie d false = (s.freshIslands d).wf 0 oPwrStat pwrStatDorm ((s.freshIslands d).rf 0 oPwrStat pwrStatDorm - 2 ^ d) := by
      rw [State.wakeDie, hdorm]; rfl
    refine ⟨_, (exec_dieWake hd).trans (congrArg _ ((if_pos ⟨hv, by rw [hq]; rfl⟩).trans hwake)), rfl, ?_, fun r o hz => ?_⟩
    · have hr' : mrising (s.freshIslands d).regs = true := mwf_mrising (mwf_resetRegs (m := s.regs) (State.canon_regs hs))
      rw [State.freshIslands_pwrStat hr, State.dormant_wf hr' _ hd8, testBit_sub_two_pow hdorm, if_pos rfl]
    · exact State.peek_freshIslands (State.canon_mem_rising hs) hz o

end Sys2Proof.Machine
end

section
/-!
PROOFS. Registers whose write starts an action: a word staged for one is dropped too (19 R759).
-/
namespace Sys2Proof.Machine

/-- A module right after reset, but for a word that firmware's core 0 has staged for die 0's register at offset o. -/
def stagedFor (o : Nat) : State := { State.reset with stages := [{ q := .firmware 0, d := 0, off := o }] }

/-- How many staged words a command leaves. -/
def stagesLeft : Host.Outcome State Fault Refusal → Nat
  | .next t => t.stages.length
  | _ => 0

/-- Refutes O39: its clause on HYD_SNAP says that nothing but the hydrometer sets and the registers changes. A write of a register also drops
what its requester has staged for that register (19 R759), and a state may hold a word staged for HYD_SNAP: only a command never stages one,
since HYD_SNAP has one word. -/
theorem not_snapshotAndScaleRegistersAct : ¬ Obligations.SnapshotAndScaleRegistersAct := by
  intro h
  obtain ⟨t, ht, -, -, -, -, -, -, -, -, -, hframe⟩ := (h (stagedFor (oHydSnap 0)) (.firmware 0) 0 0 0 (by decide) (by decide) (by decide) (by decide)
    (by decide) (by decide)).1 (by decide) (by decide)
  have hnone : stagesLeft (exec (.hydSnap (.firmware 0) 0 0 0) (stagedFor (oHydSnap 0))) = 0 := by decide +kernel
  have hone : stagesLeft (.next t) = 1 := by rw [hframe]; rfl
  rw [ht, hone] at hnone
  exact absurd hnone (by decide)

/-- Refutes O40: its clause on DISARM says that nothing but the registers and the counts of injections changes. As of HYD_SNAP, the write also
drops a word staged for INOC_CTL. -/
theorem not_inoculationsArmFireAndDisarm : ¬ Obligations.InoculationsArmFireAndDisarm := by
  intro h
  obtain ⟨t, ht, -, -, -, hframe⟩ := (h (stagedFor oInocCtl) (.firmware 0) 0 (by decide) (by decide) (by decide)).2.1 (by decide) (by decide) (by decide)
  have hnone : stagesLeft (exec (.inocDisarm (.firmware 0) 0) (stagedFor oInocCtl)) = 0 := by decide +kernel
  have hone : stagesLeft (.next t) = 1 := by rw [hframe]; rfl
  rw [ht, hone] at hnone
  exact absurd hnone (by decide)

end Sys2Proof.Machine
end

section
/-!
PROOFS. Slot tables run and swap (10 R427–R431, R449; 19 R769).
-/
namespace Sys2Proof.Machine

/-! ## A slot starts (10 R427 to R431) -/

section
variable {s : State} {d n : Nat}

/-- s with the next entry of table n in turn. -/
def State.slotTurn (s : State) (d n : Nat) : State :=
  s.wf d (oSlotCtl n) slotCtlEpos ((s.rf d (oSlotCtl n) slotCtlEpos + 1) % 4096)

/-- The slot that starts goes to the traffic of carry count v, which falls by one. -/
def State.slotByCarry (u : State) (d n v : Nat) : State :=
  let z := u.setCarry d n v (u.carry d n v - 1)
  let k := z.rf d (oSlotStat n) slotStatCarried
  (z.wf d (oSlotStat n) slotStatCarried (if k < 2 ^ 32 - 1 then k + 1 else k)).setHolder d n (if v = 0 then 17 else v + 1) none

/-- The traffic that waits and has a carry count. -/
def State.slotCarried (u : State) (d n : Nat) : List Nat :=
  (List.range 14).filter (fun v => (u.slotTraffic d n).any (fun x => carryOf x.1 = v && decide (x.1 ≠ 1)))

/-- Who takes the slot that starts: the owner of its entry when its job and its traffic are there, else the ready traffic with the highest carry
count. -/
def State.slotGiven (u : State) (d n ent : Nat) (own : Option Nat) : State :=
  match own with
  | some k => u.setHolder d n k (some (bits ent 8 8))
  | none =>
    match bestCarry (u.carry d n) (u.slotCarried d n) with
    | none => u.setHolder d n 0 none
    | some v => u.slotByCarry d n v

theorem State.slotGiven_none {u : State} (h : bestCarry (u.carry d n) (u.slotCarried d n) = none) (ent : Nat) :
    u.slotGiven d n ent none = u.setHolder d n 0 none := by
  rw [State.slotGiven, h]

theorem State.slotGiven_carry {u : State} {v : Nat} (h : bestCarry (u.carry d n) (u.slotCarried d n) = some v) (ent : Nat) :
    u.slotGiven d n ent none = u.slotByCarry d n v := by
  rw [State.slotGiven, h]

/-- The owner of an entry that may have the slot: its job is active and its traffic waits. -/
def State.slotOwns (u : State) (d n ent : Nat) : Option Nat :=
  match entOwner ent with
  | none => none
  | some k => if u.jobEn d (bits ent 8 8) ∧ (u.slotTraffic d n).contains (k, bits ent 8 8) then some k else none

/-- The entry whose turn it is. -/
def State.slotEntNow (u : State) (d n e : Nat) : Nat := u.slotEnt d n (u.slotAct d n) e

theorem State.slotStart_uncut (h : ¬ (s.rf d (oSlotCtl n) slotCtlEpos = 4095 ∧ s.slotSwapping d n = true)) (sent : Nat) :
    s.slotStart d n ⟨sent, false⟩ =
      let ent := (s.slotTurn d n).slotEntNow d n ((s.rf d (oSlotCtl n) slotCtlEpos + 1) % 4096)
      (s.slotTurn d n).slotGiven d n ent ((s.slotTurn d n).slotOwns d n ent) := by
  unfold State.slotStart
  exact (if_neg h).trans rfl

/-- A carry count that rises is none of SLOT_CTL's fields. -/
theorem State.slotLess_ctl (h : mrising s.regs = true) (f : Fld) : (s.slotLess d n).rf d (oSlotCtl n) f = s.rf d (oSlotCtl n) f := by
  have hk : regKey d (oSlotCtl n) ≠ regKey d (oSlotStat n) := by unfold regKey oSlotCtl oSlotStat; omega
  unfold State.slotLess State.setCarry
  dsimp only
  split
  · rfl
  · split
    · exact State.rf_wf_elsewhere h _ _ _ hk
    · exact State.rf_wf_elsewhere h _ _ _ hk

/-- A holder that has a carry count to spare gets one more. -/
theorem State.slotLess_rises {g : Nat} (hg : (s.slotHolder d n).2 = some g) (hc : s.carry d n (carryOf (s.slotHolder d n).1) < 15) :
    s.slotLess d n = s.setCarry d n (carryOf (s.slotHolder d n).1) (s.carry d n (carryOf (s.slotHolder d n).1) + 1) := by
  unfold State.slotLess
  exact (if_neg (by rw [hg]; exact Bool.false_ne_true)).trans (if_neg (by omega))

/-- A slot cut short starts the next as one that was not, once its holder's carry count has risen. -/
theorem State.slotStart_cut (h : mrising s.regs = true) (hw : ¬ (s.rf d (oSlotCtl n) slotCtlEpos = 4095 ∧ s.slotSwapping d n = true)) (sent : Nat) :
    s.slotStart d n ⟨sent, true⟩ = (if 2 * sent < s.slotCap d n then s.slotLess d n else s).slotStart d n ⟨sent, false⟩ := by
  have hctl : ∀ f, (if 2 * sent < s.slotCap d n then s.slotLess d n else s).rf d (oSlotCtl n) f = s.rf d (oSlotCtl n) f := fun f => by
    split
    · exact State.slotLess_ctl h f
    · rfl
  have hw' := hw
  rw [State.slotSwapping, ← hctl slotCtlEpos, ← hctl slotCtlSwap] at hw'
  rw [State.slotStart_uncut hw', hctl]
  unfold State.slotStart
  refine (if_neg hw).trans ?_
  simp only [true_and]
  rw [← hctl slotCtlEpos]
  rfl

theorem State.slotOwns_eq_some {u : State} {ent k : Nat} : u.slotOwns d n ent = some k ↔
    entOwner ent = some k ∧ u.jobEn d (bits ent 8 8) = true ∧ (k, bits ent 8 8) ∈ u.slotTraffic d n := by
  unfold State.slotOwns
  cases h : entOwner ent with
  | none => simp
  | some j =>
    simp only [List.contains_iff_mem, Option.some.injEq, Option.ite_none_right_eq_some]
    constructor
    · rintro ⟨⟨ha, hb⟩, rfl⟩
      exact ⟨rfl, ha, hb⟩
    · rintro ⟨rfl, ha, hb⟩
      exact ⟨⟨ha, hb⟩, rfl⟩

theorem State.slotOwns_eq_none {u : State} {ent : Nat}
    (h : ∀ k, ¬ (entOwner ent = some k ∧ u.jobEn d (bits ent 8 8) = true ∧ (k, bits ent 8 8) ∈ u.slotTraffic d n)) :
    u.slotOwns d n ent = none :=
  Option.eq_none_iff_forall_ne_some.mpr fun k hk => h k (State.slotOwns_eq_some.mp hk)

end

/-! ## The epoch boundary (10 R449, 19 R769) -/

section
variable {s : State} {d : Nat}

/-- Table t changes halves when it is asked to. -/
def State.swapTable (d : Nat) (s : State) (t : Nat) : State :=
  if s.slotSwapping d t then s.wfs d (oSlotCtl t) [(slotCtlAct, 1 - s.slotAct d t), (slotCtlSwap, 0)] else s

theorem State.swapTable_regs (h : mrising s.regs = true) (t : Nat) : mrising (s.swapTable d t).regs = true := by
  unfold State.swapTable
  split
  · exact mrising_mset _ _ h
  · exact h

theorem State.swapTable_elsewhere (h : mrising s.regs = true) {t e u : Nat} (hk : regKey e u ≠ regKey d (oSlotCtl t)) :
    (s.swapTable d t).reg e u = s.reg e u := by
  unfold State.swapTable
  split
  · exact State.reg_ne h _ hk
  · rfl

theorem State.swapTable_swapped (h : mrising s.regs = true) (t : Nat) :
    (s.swapTable d t).slotSwapping d t = false ∧
    (s.swapTable d t).slotAct d t = if s.slotSwapping d t = true then 1 - s.slotAct d t else s.slotAct d t := by
  unfold State.swapTable
  by_cases hs : s.slotSwapping d t = true
  · rw [if_pos hs, if_pos hs]
    simp only [State.slotSwapping, State.slotAct, State.rf_wfs h, setFs]
    rw [getF_setF_same _ _ _ (by decide), getF_setF_other _ _ (by decide) (by decide), getF_setF_same _ _ _ (by decide)]
    exact ⟨rfl, Nat.mod_eq_of_lt (by change _ < 2; omega)⟩
  · rw [if_neg hs, if_neg hs]
    exact ⟨Bool.eq_false_iff.mpr hs, rfl⟩

theorem regKey_slotCtl {t k : Nat} (h : k ≠ t) : regKey d (oSlotCtl k) ≠ regKey d (oSlotCtl t) := by
  unfold regKey oSlotCtl
  omega

theorem State.slotSwapping_congr {t : State} {k : Nat} (h : t.reg d (oSlotCtl k) = s.reg d (oSlotCtl k)) :
    t.slotSwapping d k = s.slotSwapping d k ∧ t.slotAct d k = s.slotAct d k := by
  constructor
  · rw [State.slotSwapping, State.slotSwapping, State.rf, State.rf, h]
  · rw [State.slotAct, State.slotAct, State.rf, State.rf, h]

/-- The tables of a list change halves together, each once, and no other register changes. -/
theorem State.swapTables_swapped {l : List Nat} (hl : l.Nodup) (h : mrising s.regs = true) :
    mrising (l.foldl (State.swapTable d) s).regs = true ∧
    (∀ k, k ∈ l → (l.foldl (State.swapTable d) s).slotSwapping d k = false ∧
      (l.foldl (State.swapTable d) s).slotAct d k = if s.slotSwapping d k = true then 1 - s.slotAct d k else s.slotAct d k) ∧
    (∀ e u, (∀ t, t ∈ l → regKey e u ≠ regKey d (oSlotCtl t)) → (l.foldl (State.swapTable d) s).reg e u = s.reg e u) := by
  induction l generalizing s with
  | nil => exact ⟨h, fun k hk => absurd hk List.not_mem_nil, fun _ _ _ => rfl⟩
  | cons t l ih =>
    obtain ⟨ht, hl⟩ := List.nodup_cons.mp hl
    obtain ⟨hr, hin, hout⟩ := ih hl (State.swapTable_regs h t)
    refine ⟨hr, fun k hk => ?_, fun e u hu => ?_⟩
    · rcases List.mem_cons.mp hk with rfl | hk
      · have hsame := hout d (oSlotCtl k) fun t' ht' => regKey_slotCtl fun hkt => ht (hkt ▸ ht')
        obtain ⟨h1, h2⟩ := State.slotSwapping_congr hsame
        obtain ⟨h3, h4⟩ := State.swapTable_swapped (d := d) h k
        exact ⟨h1.trans h3, h2.trans h4⟩
      · obtain ⟨h1, h2⟩ := hin k hk
        have hkt : k ≠ t := fun hkt => ht (hkt ▸ hk)
        obtain ⟨h3, h4⟩ := State.slotSwapping_congr (State.swapTable_elsewhere (d := d) h (regKey_slotCtl (d := d) hkt))
        rw [h3, h4] at h2
        exact ⟨h1, h2⟩
    · exact (hout e u fun t' ht' => hu t' (List.mem_cons_of_mem _ ht')).trans
        (State.swapTable_elsewhere h (hu t List.mem_cons_self))

theorem State.swapTables_frame (l : List Nat) (s : State) :
    l.foldl (State.swapTable d) s = { s with regs := (l.foldl (State.swapTable d) s).regs } := by
  induction l generalizing s with
  | nil => rfl
  | cons t l ih =>
    have hstep : s.swapTable d t = { s with regs := (s.swapTable d t).regs } := by
      unfold State.swapTable
      split <;> rfl
    refine (ih (s.swapTable d t)).trans ?_
    rw [List.foldl_cons]
    exact congrArg (fun z : State => { z with regs := (l.foldl (State.swapTable d) (s.swapTable d t)).regs }) hstep

/-! ## Held writes apply -/

/-- One held write: a word of the half that is inactive, or a swap held. -/
def State.heldStep (d : Nat) (s : State) (w : Nat × Nat × Nat × Nat) : State :=
  if w.1 ≠ d then s else if w.2.2.1 = heldSwap then s.swapAgain d w.2.1
    else s.setReg d (oSlotEnt w.2.1 (1 - s.slotAct d w.2.1) w.2.2.1) (BitVec.ofNat 256 w.2.2.2)

theorem slotHeldApply_eq (d : Nat) (s : State) (ws : List (Nat × Nat × Nat × Nat)) : slotHeldApply d s ws = ws.foldl (State.heldStep d) s := by
  induction ws generalizing s with
  | nil => rfl
  | cons w ws ih =>
    obtain ⟨e, t, i, v⟩ := w
    exact ih _

theorem State.heldApply_frame (ws : List (Nat × Nat × Nat × Nat)) (s : State) :
    ws.foldl (State.heldStep d) s = { s with regs := (ws.foldl (State.heldStep d) s).regs, slotHeld := (ws.foldl (State.heldStep d) s).slotHeld } := by
  induction ws generalizing s with
  | nil => rfl
  | cons w ws ih =>
    have hstep : s.heldStep d w = { s with regs := (s.heldStep d w).regs, slotHeld := (s.heldStep d w).slotHeld } := by
      unfold State.heldStep
      split
      · rfl
      · split <;> rfl
    refine (ih (s.heldStep d w)).trans ?_
    rw [List.foldl_cons]
    exact congrArg (fun z : State => { z with regs := (ws.foldl (State.heldStep d) (s.heldStep d w)).regs,
                                              slotHeld := (ws.foldl (State.heldStep d) (s.heldStep d w)).slotHeld }) hstep

/-- The words that a list holds for table k of die d, as `State.heldWords` lists them. -/
def heldFor (d k : Nat) (ws : List (Nat × Nat × Nat × Nat)) : List (Nat × RegWord) :=
  (ws.filter (fun w => decide (w.1 = d) && decide (w.2.1 = k))).map (fun w => (w.2.2.1, BitVec.ofNat 256 w.2.2.2))

/-- The word that the last of several held writes gives, or what was there. -/
def lastWord (ws : List (Nat × RegWord)) (i : Nat) (old : RegWord) : RegWord :=
  ((ws.reverse.find? (fun w => w.1 = i)).map (fun w => w.2)).getD old

theorem lastWord_nil (d k i : Nat) (old : RegWord) : lastWord (heldFor d k []) i old = old := rfl

theorem lastWord_cons (w : Nat × RegWord) (ws : List (Nat × RegWord)) (i : Nat) (old : RegWord) :
    lastWord (w :: ws) i old = lastWord ws i (if w.1 = i then w.2 else old) := by
  unfold lastWord
  rw [List.reverse_cons, List.find?_append]
  cases ws.reverse.find? (fun w => w.1 = i) with
  | some x => rfl
  | none =>
    by_cases hw : w.1 = i <;> simp [hw]

theorem regKey_slotEnt {k i t j a b : Nat} (hi : i < 2048) (hj : j < 2048) (ha : a ≤ 1) (hb : b ≤ 1) :
    regKey d (oSlotEnt k a i) = regKey d (oSlotEnt t b j) ↔ k = t ∧ a = b ∧ i = j := by
  unfold regKey oSlotEnt
  constructor
  · intro h
    omega
  · rintro ⟨rfl, rfl, rfl⟩
    rfl

theorem regKey_slotEnt_ctl {k t a i : Nat} (hk : k < 5) : regKey d (oSlotCtl k) ≠ regKey d (oSlotEnt t a i) := by
  unfold regKey oSlotCtl oSlotEnt
  omega

/-- One held write of a word. -/
theorem State.heldStep_word {w : Nat × Nat × Nat × Nat} (hw : w.2.2.1 < 2048) (h : mrising s.regs = true) :
    mrising (s.heldStep d w).regs = true ∧ (s.heldStep d w).slotHeld = s.slotHeld ∧
    (∀ k, k < 5 → (s.heldStep d w).reg d (oSlotCtl k) = s.reg d (oSlotCtl k)) ∧
    (∀ k i ws, i < 2048 → lastWord (heldFor d k ws) i ((s.heldStep d w).reg d (oSlotEnt k (1 - s.slotAct d k) i)) =
      lastWord (heldFor d k (w :: ws)) i (s.reg d (oSlotEnt k (1 - s.slotAct d k) i))) := by
  obtain ⟨e, t, j, v⟩ := w
  by_cases he : e = d
  · subst he
    have hstep : s.heldStep e (e, t, j, v) = s.setReg e (oSlotEnt t (1 - s.slotAct e t) j) (BitVec.ofNat 256 v) := by
      have hj : j ≠ heldSwap := hw.ne
      rw [State.heldStep, if_neg (not_not_intro rfl), if_neg hj]
    rw [hstep]
    refine ⟨mrising_mset _ _ h, rfl, fun k hk => State.reg_ne h _ (regKey_slotEnt_ctl hk), fun k i ws hi => ?_⟩
    by_cases hkt : k = t
    · subst hkt
      have hfor : heldFor e k ((e, k, j, v) :: ws) = (j, BitVec.ofNat 256 v) :: heldFor e k ws := by simp [heldFor]
      rw [hfor, lastWord_cons]
      congr 1
      by_cases hij : j = i
      · subst hij
        rw [if_pos rfl, State.reg_same h]
      · rw [if_neg hij]
        refine State.reg_ne h _ fun hk => hij ?_
        exact ((regKey_slotEnt hi hw (Nat.sub_le ..) (Nat.sub_le ..)).mp hk).2.2.symm
    · have hfor : heldFor e k ((e, t, j, v) :: ws) = heldFor e k ws := by simp [heldFor, Ne.symm hkt]
      rw [hfor, State.reg_ne h]
      exact fun hk => hkt ((regKey_slotEnt hi hw (Nat.sub_le ..) (Nat.sub_le ..)).mp hk).1
  · have hstep : s.heldStep d (e, t, j, v) = s := if_pos he
    have hfor : ∀ k ws, heldFor d k ((e, t, j, v) :: ws) = heldFor d k ws := fun k ws => by simp [heldFor, he]
    rw [hstep]
    exact ⟨h, rfl, fun _ _ => rfl, fun k i ws _ => by rw [hfor]⟩

/-- Held writes of words: each word of a half that is inactive gets the last write of it; the tables' own registers stay. -/
theorem State.heldApply_words (ws : List (Nat × Nat × Nat × Nat)) (hws : ∀ w, w ∈ ws → w.2.1 < 5 ∧ w.2.2.1 < 2048) (h : mrising s.regs = true) :
    (∀ k, k < 5 → (ws.foldl (State.heldStep d) s).reg d (oSlotCtl k) = s.reg d (oSlotCtl k)) ∧
    (∀ k i, k < 5 → i < 2048 → (ws.foldl (State.heldStep d) s).reg d (oSlotEnt k (1 - s.slotAct d k) i) =
      lastWord (heldFor d k ws) i (s.reg d (oSlotEnt k (1 - s.slotAct d k) i))) ∧
    (ws.foldl (State.heldStep d) s).slotHeld = s.slotHeld := by
  induction ws generalizing s with
  | nil => exact ⟨fun _ _ => rfl, fun k i _ _ => (lastWord_nil d k i _).symm, rfl⟩
  | cons w ws ih =>
    obtain ⟨hr, hheld, hctl, hword⟩ := State.heldStep_word (d := d) (hws w List.mem_cons_self).2 h
    obtain ⟨hctl', hword', hheld'⟩ := ih (fun w' hw' => hws w' (List.mem_cons_of_mem _ hw')) hr
    refine ⟨fun k hk => (hctl' k hk).trans (hctl k hk), fun k i hk hi => ?_, hheld'.trans hheld⟩
    have hact := (State.slotSwapping_congr (hctl k hk)).2
    have hlast := hword' k i hk hi
    rw [hact] at hlast
    rw [List.foldl_cons, ← hword k i ws hi, hlast]

/-! ## The epoch boundary -/

theorem State.epoch_waits (h : (∃ k, k < 5 ∧ s.rf d (oSlotCtl k) slotCtlEpos ≠ 4095) ∨ (∀ k, k < 5 → s.slotSwapping d k = false)) :
    s.epoch d = s := by
  unfold State.epoch
  refine if_pos ?_
  rcases h with ⟨k, hk, hne⟩ | hno
  · refine .inl ?_
    rw [Bool.not_eq_true', List.all_eq_false]
    exact ⟨k, List.mem_range.mpr hk, by simpa using hne⟩
  · refine .inr ?_
    rw [Bool.not_eq_true', List.any_eq_false]
    exact fun k hk => by rw [hno k (List.mem_range.mp hk)]; exact Bool.false_ne_true

/-- What the epoch boundary leaves: tables swapped, held writes applied. -/
def State.epochSwapped (s : State) (d : Nat) : State :=
  s.slotHeld.foldl (State.heldStep d)
    { (List.range 5).foldl (State.swapTable d) s with slotHeld := s.slotHeld.filter (fun w => decide (w.1 ≠ d)) }

theorem State.epoch_swaps (he : ∀ k, k < 5 → s.rf d (oSlotCtl k) slotCtlEpos = 4095) (hs : ∃ k, k < 5 ∧ s.slotSwapping d k = true) :
    s.epoch d = s.epochSwapped d := by
  have hheld : ((List.range 5).foldl (State.swapTable d) s).slotHeld = s.slotHeld :=
    (congrArg State.slotHeld (State.swapTables_frame (d := d) (List.range 5) s)).trans rfl
  unfold State.epoch
  refine (if_neg ?_).trans ?_
  · rintro (h | h)
    · rw [Bool.not_eq_true', List.all_eq_false] at h
      obtain ⟨k, hk, hne⟩ := h
      exact hne (decide_eq_true (he k (List.mem_range.mp hk)))
    · rw [Bool.not_eq_true', List.any_eq_false] at h
      obtain ⟨k, hk, hsw⟩ := hs
      exact h k (List.mem_range.mpr hk) hsw
  · rw [State.epochSwapped, ← slotHeldApply_eq, ← hheld]
    rfl

theorem State.epochSwapped_frame (s : State) (d : Nat) :
    s.epochSwapped d = { s with regs := (s.epochSwapped d).regs, slotHeld := (s.epochSwapped d).slotHeld } :=
  (State.heldApply_frame _ _).trans (congrArg (fun z : State => { z with regs := (s.epochSwapped d).regs, slotHeld := (s.epochSwapped d).slotHeld })
    (State.swapTables_frame (d := d) (List.range 5) s))

/-- The epoch boundary: the tables change halves together, and the words held for them are in the halves then inactive. -/
theorem State.epochSwapped_swapped (h : mrising s.regs = true) (hw : ∀ w, w ∈ s.slotHeld → w.2.1 < 5 ∧ w.2.2.1 < 2048) :
    (∀ k, k < 5 → (s.epochSwapped d).slotSwapping d k = false ∧
      (s.epochSwapped d).slotAct d k = (if s.slotSwapping d k = true then 1 - s.slotAct d k else s.slotAct d k) ∧
      (∀ i, i < 2048 → (s.epochSwapped d).reg d (oSlotEnt k (1 - (s.epochSwapped d).slotAct d k) i) =
        lastWord (s.heldWords d k) i (s.reg d (oSlotEnt k (1 - (s.epochSwapped d).slotAct d k) i)))) ∧
    (s.epochSwapped d).slotHeld = s.slotHeld.filter (fun w => decide (w.1 ≠ d)) := by
  obtain ⟨hr, hin, hout⟩ := State.swapTables_swapped (d := d) (List.nodup_range (n := 5)) h
  obtain ⟨x, hx⟩ : ∃ x, x = ({ (List.range 5).foldl (State.swapTable d) s with slotHeld := s.slotHeld.filter (fun w => decide (w.1 ≠ d)) } : State) :=
    ⟨_, rfl⟩
  have hreg : ∀ e u, x.reg e u = ((List.range 5).foldl (State.swapTable d) s).reg e u := fun e u => by rw [hx]; rfl
  obtain ⟨hctl, hword, hheld⟩ := State.heldApply_words (s := x) (d := d) s.slotHeld hw (by rw [hx]; exact hr)
  have hz : s.epochSwapped d = s.slotHeld.foldl (State.heldStep d) x := by rw [State.epochSwapped, hx]
  rw [← hz] at hctl hword hheld
  refine ⟨fun k hk => ?_, hheld.trans (by rw [hx])⟩
  obtain ⟨hsw, hact⟩ := hin k (List.mem_range.mpr hk)
  obtain ⟨hsw', hact'⟩ := State.slotSwapping_congr (hctl k hk)
  obtain ⟨hsw'', hact''⟩ := State.slotSwapping_congr (hreg d (oSlotCtl k))
  refine ⟨hsw'.trans (hsw''.trans hsw), hact'.trans (hact''.trans hact), fun i hi => ?_⟩
  rw [hact', hword k i hk hi, hreg]
  refine congrArg (lastWord (s.heldWords d k) i) (hout _ _ fun t ht => ?_)
  exact (regKey_slotEnt_ctl (List.mem_range.mp ht)).symm

end

/-- Settles O36: a slot goes by `State.slotOwns` and, without an owner, by `bestCarry` (`State.slotStart_uncut`); one cut short raises its
holder's carry count first (`State.slotStart_cut`); the epoch boundary by `State.epochSwapped_swapped`. -/
theorem slotTablesRunAndSwap : Obligations.SlotTablesRunAndSwap := by
  intro s d n sent hc hd hn e u ent w tag has carried holder starts
  have hr := State.canon_regs_rising hc
  have hexec : ∀ z use, State.nDies z = s.nDies → exec (.slotStart d n use) z = .next (z.slotNext d n use) := fun z use hz =>
    if_pos (by rw [State.hasDie, hz, decide_eq_true hn]; simpa [State.hasDie] using hd)
  have hturn : (e ≠ 4095 ∨ s.slotSwapping d n = false) → ¬ (s.rf d (oSlotCtl n) slotCtlEpos = 4095 ∧ s.slotSwapping d n = true) := by
    rintro (h | h) ⟨h1, h2⟩
    · exact h h1
    · exact Bool.false_ne_true (h.symm.trans h2)
  have hstart : ∀ x, u.slotOwns d n ent = x → (e ≠ 4095 ∨ s.slotSwapping d n = false) → starts (u.slotGiven d n ent x) := fun x hx hw => by
    refine (hexec s _ rfl).trans (congrArg Host.Outcome.next ?_)
    rw [State.slotNext, State.slotStart_uncut (hturn hw), ← hx]
    rfl
  have hcut : (e ≠ 4095 ∨ s.slotSwapping d n = false) → s.slotNext d n ⟨sent, true⟩ =
      (if 2 * sent < s.slotCap d n then s.slotLess d n else s).slotNext d n ⟨sent, false⟩ := fun hw => by
    rw [State.slotNext, State.slotStart_cut hr (hturn hw), ← State.slotNext]
  refine ⟨fun he hw cut => ?_, fun hw => ⟨fun k hk => ?_, fun hno hb => ?_, fun v hno hb => ?_, fun hlt => ?_, fun hle => ?_⟩, ⟨fun hh => ?_, fun g hh hc => ?_⟩,
    fun he hs => ?_, fun h => ?_, ?_⟩
  · refine (hexec s _ rfl).trans (congrArg Host.Outcome.next ?_)
    rw [State.slotNext, State.slotStart, if_pos ⟨he, hw⟩]
  · exact hstart (some k) (State.slotOwns_eq_some.mpr hk) hw
  · have hs := hstart none (State.slotOwns_eq_none hno) hw
    rw [State.slotGiven_none hb] at hs
    exact hs
  · have hs := hstart none (State.slotOwns_eq_none hno) hw
    rw [State.slotGiven_carry hb] at hs
    exact hs
  · rw [hexec s _ rfl, hcut hw, if_pos hlt, hexec _ _ (Keeps.refl (P := True) s).slotLess.nDies]
  · rw [hexec s _ rfl, hcut hw, if_neg (by omega), hexec _ _ rfl]
  · exact if_pos (by rw [hh]; rfl)
  · exact State.slotLess_rises hh hc
  · refine ⟨_, (if_pos hd).trans (congrArg Host.Outcome.next (State.epoch_swaps he hs)), fun hw => State.epochSwapped_swapped hr hw, ?_⟩
    exact s.epochSwapped_frame d
  · exact (if_pos hd).trans (congrArg Host.Outcome.next (State.epoch_waits h))
  · exact if_pos (by rw [hd, decide_eq_true hn]; rfl)

end Sys2Proof.Machine
end

section
/-!
PROOFS. The mailboxes serve their sessions (16 R678–R693).
-/
namespace Sys2Proof.Machine

section
variable {s : State} {f sess : Nat}

theorem mailRow_answers {body : State → State} (hv : s.serving = true) (hf : f < 9) (he : s.exposed f = true) :
    mailRow f s body = .next (body s) := by
  unfold mailRow
  exact (if_neg (by omega)).trans (if_pos (by rw [hv, he]; rfl))

theorem mailRow_hidden {body : State → State} (hf : f < 9) (he : s.exposed f = false) : mailRow f s body = .next s := by
  unfold mailRow
  exact (if_neg (by omega)).trans (if_neg (by rw [he, Bool.and_false]; exact Bool.false_ne_true))

/-- The session is the function's. -/
def State.mine (s : State) (f sess : Nat) : Bool := (s.session sess).any (fun x => x.fn = f)

/-- The session is the function's and established. -/
def State.sessUp (s : State) (f sess : Nat) : Bool := (s.session sess).any (fun x => x.up && x.fn = f)

theorem State.mine_iff : s.mine f sess = true ↔ ∃ x, s.session sess = some x ∧ x.fn = f := by
  rw [State.mine, Option.any_eq_true]
  simp only [decide_eq_true_eq]

theorem State.sessUp_iff : s.sessUp f sess = true ↔ ∃ x, s.session sess = some x ∧ x.up = true ∧ x.fn = f := by
  rw [State.sessUp, Option.any_eq_true]
  simp only [Bool.and_eq_true, decide_eq_true_eq]

theorem State.mine_of_sessUp (h : s.sessUp f sess = true) : s.mine f sess = true := by
  obtain ⟨x, hx, -, hf⟩ := State.sessUp_iff.mp h
  exact State.mine_iff.mpr ⟨x, hx, hf⟩

/-! ## Requests of SPDM -/

/-- s with the request counted in its session (16 R680). -/
def State.counted (s : State) (sess : Nat) : State := s.onSession sess (fun x => { x with seqReq := x.seqReq + 1 })

/-- What an SPDM request that is genuine and known does. -/
def State.spdmActs (s : State) (f sess code : Nat) (msg : List Byte) : State :=
  let t := s.counted sess
  if (s.mine f sess ∧ ! s.sessUp f sess ∧ code ≠ 0xE5) ∨ (! s.mine f sess ∧ [0xE5, 0xE8, 0xE9, 0xEC].contains code) then t.mail f sess (toBytes 2 0x15)
  else if code = 0xE5 then (t.onSession sess (fun x => { x with up := true })).mail f sess (toBytes 2 0)
  else if code = 0xE9 then (t.onSession sess (fun x => x.keyUpdate (blk msg 0 1))).mail f sess (toBytes 2 0)
  else if code = 0xEC then
    { t.mail f sess (toBytes 2 0) with sessions := (t.mail f sess (toBytes 2 0)).sessions.filter (fun x => decide (x.id ≠ sess)) }
  else if code = 0xFE ∧ s.mine f sess then t.vendorReq f sess (vendorPkt msg)
  else if code = 0x81 ∨ code = 0x82 ∨ code = 0x83 then t.sealFor f sess (t.certReply code msg)
  else t.mail f sess (toBytes 2 code ++ msg)

/-- The request's code is one of SPDM's, and its session none or the function's. -/
def State.spdmKnown (s : State) (f sess code : Nat) : Prop := code ∈ spdmCodes ∧ (sess = 0 ∨ s.mine f sess = true)

theorem exec_spdmRequest (hv : s.serving = true) (hf : f < 9) (he : s.exposed f = true) (sess code : Nat) (msg : List Byte) :
    exec (.spdmRequest f sess code msg) s = .next
      (if ! spdmCodes.contains code ∨ (sess ≠ 0 ∧ ! s.mine f sess) ∨ (s.reqKey sess).any (fun k => ! Config.spdmOk k msg)
        then s.mail f 0 (toBytes 2 0x15) else s.spdmActs f sess code msg) := by
  show execSpdmRequest f sess code msg s = _
  unfold execSpdmRequest
  exact mailRow_answers hv hf he

theorem any_not_iff_not_all {α : Type} (o : Option α) (p : α → Bool) : o.any (fun x => ! p x) = true ↔ ¬ o.all p = true := by
  cases o <;> simp

section
variable (hv : s.serving = true) (hf : f < 9) (he : s.exposed f = true) {code : Nat} (msg : List Byte)
include hv hf he

/-- A known request acts, when it is genuine. -/
theorem exec_spdmRequest_known (hk : s.spdmKnown f sess code) : exec (.spdmRequest f sess code msg) s =
    .next (if (s.reqKey sess).all (fun k => Config.spdmOk k msg) = true then s.spdmActs f sess code msg else s.mail f 0 (toBytes 2 0x15)) := by
  obtain ⟨hc, hs⟩ := hk
  rw [exec_spdmRequest hv hf he]
  have hc' : (! spdmCodes.contains code) = false := by simpa using hc
  have hs' : ¬ (sess ≠ 0 ∧ (! s.mine f sess) = true) := by
    rintro ⟨h0, hm⟩
    rcases hs with h | h
    · exact h0 h
    · simp [h] at hm
  simp only [hc', hs', Bool.false_eq_true, false_or, any_not_iff_not_all]
  exact congrArg _ (ite_not ..)

theorem exec_spdmRequest_unknown (hk : ¬ s.spdmKnown f sess code) : exec (.spdmRequest f sess code msg) s =
    .next (s.mail f 0 (toBytes 2 0x15)) := by
  rw [exec_spdmRequest hv hf he]
  refine congrArg _ (if_pos ?_)
  by_cases hc : code ∈ spdmCodes
  · refine .inr (.inl ⟨fun h => hk ⟨hc, .inl h⟩, ?_⟩)
    by_contra hm
    exact hk ⟨hc, .inr (by simpa using hm)⟩
  · exact .inl (by simpa using hc)

end

section
variable {code : Nat} {msg : List Byte}

theorem State.spdmActs_refused
    (h : (s.mine f sess = true ∧ ¬ s.sessUp f sess = true ∧ code ≠ 0xE5) ∨ (¬ s.mine f sess = true ∧ code ∈ [0xE5, 0xE8, 0xE9, 0xEC])) :
    s.spdmActs f sess code msg = (s.counted sess).mail f sess (toBytes 2 0x15) := by
  unfold State.spdmActs
  refine if_pos ?_
  simpa using h

theorem State.spdmActs_finish (h : s.mine f sess = true) :
    s.spdmActs f sess 0xE5 msg = ((s.counted sess).onSession sess (fun x => { x with up := true })).mail f sess (toBytes 2 0) := by
  unfold State.spdmActs
  exact (if_neg (by simp [h])).trans (if_pos rfl)

/-- A request of no session of the function's own or of one that is established, of another code than those refused. -/
theorem State.spdmActs_open (h : ¬ s.mine f sess = true ∧ code ∉ [0xE5, 0xE8, 0xE9, 0xEC] ∨ s.sessUp f sess = true) (h5 : code ≠ 0xE5) :
    s.spdmActs f sess code msg =
      if code = 0xE9 then ((s.counted sess).onSession sess (fun x => x.keyUpdate (blk msg 0 1))).mail f sess (toBytes 2 0)
      else if code = 0xEC then
        { (s.counted sess).mail f sess (toBytes 2 0) with
          sessions := ((s.counted sess).mail f sess (toBytes 2 0)).sessions.filter (fun x => decide (x.id ≠ sess)) }
      else if code = 0xFE ∧ s.mine f sess then (s.counted sess).vendorReq f sess (vendorPkt msg)
      else if code = 0x81 ∨ code = 0x82 ∨ code = 0x83 then (s.counted sess).sealFor f sess ((s.counted sess).certReply code msg)
      else (s.counted sess).mail f sess (toBytes 2 code ++ msg) := by
  have hno : ¬ ((s.mine f sess ∧ ! s.sessUp f sess ∧ code ≠ 0xE5) ∨ (! s.mine f sess ∧ [0xE5, 0xE8, 0xE9, 0xEC].contains code)) := by
    rcases h with ⟨hm, hc⟩ | hu
    · simpa [hm] using hc
    · simp [State.mine_of_sessUp hu, hu]
  unfold State.spdmActs
  exact (if_neg hno).trans (if_neg h5)

/-- Certificates and challenges are answered outside a session of the function's own and in one that is established. -/
theorem State.spdmActs_certs (h : ¬ s.mine f sess = true ∨ s.sessUp f sess = true) (hc : code = 0x81 ∨ code = 0x82 ∨ code = 0x83) :
    s.spdmActs f sess code msg = (s.counted sess).sealFor f sess (s.certReply code msg) := by
  have hcode : code ∉ [0xE5, 0xE8, 0xE9, 0xEC] := by rcases hc with rfl | rfl | rfl <;> decide
  rw [State.spdmActs_open (h.imp_left (⟨·, hcode⟩)) (by omega), if_neg (by omega), if_neg (by omega), if_neg (by omega), if_pos hc]
  rfl

/-- A request of another code is answered with it. -/
theorem State.spdmActs_echoes (h : ¬ s.mine f sess = true ∨ s.sessUp f sess = true) (hc : code ∉ [0xE5, 0xE9, 0xEC, 0x81, 0x82, 0x83])
    (hfe : code ≠ 0xFE ∨ ¬ s.mine f sess = true) (h8 : code ≠ 0xE8 ∨ s.mine f sess = true) :
    s.spdmActs f sess code msg = (s.counted sess).mail f sess (toBytes 2 code ++ msg) := by
  simp only [List.mem_cons, List.not_mem_nil, or_false, not_or] at hc
  obtain ⟨h5, h9, hec, h81, h82, h83⟩ := hc
  have hcond : (¬ s.mine f sess = true ∧ code ∉ [0xE5, 0xE8, 0xE9, 0xEC]) ∨ s.sessUp f sess = true := by
    refine h.imp_left fun hm => ⟨hm, ?_⟩
    simp only [List.mem_cons, List.not_mem_nil, or_false, not_or]
    exact ⟨h5, h8.resolve_right hm, h9, hec⟩
  rw [State.spdmActs_open hcond h5, if_neg h9, if_neg hec, if_neg (by tauto), if_neg (by tauto)]

end

/-! ## Interfaces, keys -/

section
variable (hv : s.serving = true) (hf : f < 9) (he : s.exposed f = true)
include hv hf he

theorem exec_lockInterface : exec (.lockInterface f sess) s = .next
    (if f = 0 ∨ ! s.ownerOk (f - 1) sess then s.mail f sess (toBytes 2 0x14)
     else if s.debugOn ∨ s.partState (f - 1) ≠ 1 then s.mail f sess (toBytes 2 0x15)
     else (s.wfs 0 (oPartStat (f - 1)) [(partStatState, 2), (partStatTdi, 1)]).mail f sess (toBytes 2 0)) := by
  show execLockInterface f sess s = _
  unfold execLockInterface
  exact mailRow_answers hv hf he

theorem exec_startInterface : exec (.startInterface f sess) s = .next
    (if f = 0 ∨ ! s.ownerOk (f - 1) sess then s.mail f sess (toBytes 2 0x14)
     else if s.rf 0 (oPartStat (f - 1)) partStatTdi ≠ 1 then s.mail f sess (toBytes 2 0x15)
     else (s.wf 0 (oPartStat (f - 1)) partStatTdi 2).mail f sess (toBytes 2 0)) := by
  show execStartInterface f sess s = _
  unfold execStartInterface
  exact mailRow_answers hv hf he

theorem exec_stopInterface : exec (.stopInterface f sess) s = .next
    (if f = 0 ∨ ! s.ownerOk (f - 1) sess then s.mail f sess (toBytes 2 0x14)
     else if s.partState (f - 1) < 2 then s.mail f sess (toBytes 2 0x15)
     else (s.wfs 0 (oPartStat (f - 1)) [(partStatState, 1), (partStatTdi, 0)]).mail f sess (toBytes 2 0)) := by
  show execStopInterface f sess s = _
  unfold execStopInterface
  exact mailRow_answers hv hf he

/-- The function that a key slot is held for. -/
def State.slotHeldBy (s : State) (slot : Nat) : Nat := match s.slotPart slot with
  | some p => p + 1
  | none => 0

theorem exec_keyProg (slot key : Nat) : exec (.keyProg f sess slot key) s = .next
    (if 127 < slot then s.mail f sess (toBytes 2 0x20)
     else if s.debugOn then s.mail f sess (toBytes 2 0x15)
     else if ! s.sessUp f sess ∨ s.slotHeldBy slot ≠ f then s.mail f sess (toBytes 2 0x21)
     else ({ s with keys := mset keyDefault s.keys slot (some (BitVec.ofNat 256 key)) }).mail f sess (toBytes 2 0)) := by
  show execKeyProg f sess slot key s = _
  unfold execKeyProg
  exact mailRow_answers hv hf he

theorem exec_ideKm (key : Nat) : exec (.ideKm f sess key) s = .next
    (if s.debugOn then s.mail f sess (toBytes 2 0x15)
     else if f = 0 then
       (if ! s.sessUp 0 sess then s.mail f sess (toBytes 2 0x14)
        else (s.putPart 8 { s.partRec 8 with ide := some (BitVec.ofNat 256 key) }).mail f sess (toBytes 2 0))
     else if ! s.ownerOk (f - 1) sess then s.mail f sess (toBytes 2 0x14)
     else ((s.putPart (f - 1) { s.partRec (f - 1) with ide := some (BitVec.ofNat 256 key) }).wf 0 (oPartStat (f - 1)) partStatIdeok 1).mail f
       sess (toBytes 2 0)) := by
  show execIdeKm f sess key s = _
  unfold execIdeKm
  exact mailRow_answers hv hf he

/-- A session opens; the first authenticated requester of a partition without an owner becomes its owner (16 R679, R683). -/
def State.sessionOpens (s : State) (f : Nat) (auth : Bool) (key : Nat) : State :=
  { s with sessions := enq s.sessions { id := s.nextSess, fn := f, auth := if auth then some (BitVec.ofNat 384 key) else none },
           nextSess := s.nextSess + 1 }

def State.ownerBound (s : State) (f : Nat) (auth : Bool) (key : Nat) : State :=
  if auth ∧ f ≠ 0 ∧ ! s.owned (f - 1) then
    (s.putPart (f - 1) { s.partRec (f - 1) with owner := if auth then some (BitVec.ofNat 384 key) else none }).wf 0 (oPartStat (f - 1)) partStatOwned 1
  else s

theorem exec_keyExchange (auth : Bool) (key : Nat) : exec (.keyExchange f auth key) s = .next
    (if 4 ≤ s.sessionsOf f then s.mail f 0 (toBytes 2 0x32)
     else ((s.sessionOpens f auth key).ownerBound f auth key).mail f 0
       (toBytes 2 0 ++ toBytes 4 (((s.sessionOpens f auth key).ownerBound f auth key).nextSess - 1))) := by
  show execKeyExchange f auth key s = _
  unfold execKeyExchange
  exact mailRow_answers hv hf he

end
end

/-- Settles O55: each request by its row's equation, the cases of SPDM by `State.spdmActs`. -/
theorem mailboxesServeTheirSessions : Obligations.MailboxesServeTheirSessions := by
  intro s f sess code slot key auth msg hv hf
  refine ⟨fun he => ?_, fun he => ⟨?_, ?_, ?_, ?_, ?_, ?_, ?_, ?_, ?_, ?_⟩⟩
  · have h : ∀ body : State → State, mailRow f s body = .next s := fun _ => mailRow_hidden hf he
    show execGetMeasurements f s = _ ∧ execKeyExchange f auth key s = _ ∧ execSpdmRequest f sess code msg s = _ ∧ execLockInterface f sess s = _ ∧
      execStartInterface f sess s = _ ∧ execStopInterface f sess s = _ ∧ execKeyProg f sess slot key s = _ ∧ execIdeKm f sess key s = _
    unfold execGetMeasurements execKeyExchange execSpdmRequest execLockInterface execStartInterface execStopInterface execKeyProg execIdeKm
    exact ⟨h _, h _, h _, h _, h _, h _, h _, h _⟩
  · intro b
    show execGetMeasurements f s = _
    unfold execGetMeasurements
    exact mailRow_answers hv hf he
  · intro h4
    rw [exec_keyExchange hv hf he, if_pos h4]
  · intro h4 k u w
    have hu : s.sessionOpens f auth key = u := rfl
    rw [exec_keyExchange hv hf he, if_neg (by omega), hu]
    refine ⟨fun ha h0 ho => ?_, fun h => ?_⟩
    · have hw : u.ownerBound f auth key = w := if_pos ⟨ha, h0, by rw [ho]; rfl⟩
      rw [hw]
      rfl
    · have hw : u.ownerBound f auth key = u := if_neg (by rintro ⟨ha, h0, ho⟩; rcases h with h | h | h <;> simp_all)
      rw [hw]
      rfl
  · intro mine up ok genuine t runs
    have hmine : mine ↔ s.mine f sess = true := State.mine_iff.symm
    have hup : up ↔ s.sessUp f sess = true := State.sessUp_iff.symm
    have hok : ok ↔ s.spdmKnown f sess code := and_congr_right fun _ => or_congr_right hmine
    have hrun : ∀ u, ok → s.spdmActs f sess code msg = u → runs u := fun u hk hu => by
      rw [← hu]
      exact exec_spdmRequest_known hv hf he msg (hok.mp hk)
    refine ⟨fun hk => ?_, fun hk h => hrun _ hk (State.spdmActs_refused ?_), fun hk hm hc => hrun _ hk ?_, fun hk hu hc => hrun _ hk ?_,
      fun hk hu hc => hrun _ hk ?_, fun hk hu hc => hrun _ hk ?_, fun hk hu => ⟨fun hc => hrun _ hk ?_, fun hc => hrun _ hk ?_, fun hc => hrun _ hk ?_,
      fun hc hfe h8 => hrun _ hk ?_⟩⟩
    · refine (exec_spdmRequest_unknown hv hf he msg (hok.not.mp hk)).trans (congrArg _ (ite_self _).symm)
    · rw [hmine, hup] at h
      exact h
    · rw [hc]
      exact State.spdmActs_finish (hmine.mp hm)
    · rw [State.spdmActs_open (.inr (hup.mp hu)) (by omega), if_pos hc]
      rfl
    · rw [State.spdmActs_open (.inr (hup.mp hu)) (by omega), if_neg (by omega), if_pos hc]
      rfl
    · have hm := State.mine_of_sessUp (hup.mp hu)
      rw [State.spdmActs_open (.inr (hup.mp hu)) (by omega), if_neg (by omega), if_neg (by omega), if_pos ⟨hc, hm⟩]
      rfl
    · rw [hmine, hup] at hu
      rw [hc]
      exact State.spdmActs_certs hu (by decide)
    · rw [hmine, hup] at hu
      rw [hc]
      exact State.spdmActs_certs hu (by decide)
    · rw [hmine, hup] at hu
      rw [hc]
      exact State.spdmActs_certs hu (by decide)
    · rw [hmine] at hfe h8
      rw [hmine, hup] at hu
      exact State.spdmActs_echoes hu hc hfe h8
  · intro h
    have hif : f = 0 ∨ (! s.ownerOk (f - 1) sess) = true := h.imp_right (by simp)
    rw [exec_lockInterface hv hf he, exec_startInterface hv hf he, exec_stopInterface hv hf he, if_pos hif, if_pos hif, if_pos hif]
    exact ⟨rfl, rfl, rfl⟩
  · intro h0 ho o st tdi
    have hif : ¬ (f = 0 ∨ (! s.ownerOk (f - 1) sess) = true) := by simp [h0, ho]
    rw [exec_lockInterface hv hf he, exec_startInterface hv hf he, exec_stopInterface hv hf he, if_neg hif, if_neg hif, if_neg hif]
    refine ⟨fun hd h1 => congrArg _ (if_neg ?_), fun h => congrArg _ (if_pos h), fun h => congrArg _ (if_neg (not_not_intro h)),
      fun h => congrArg _ (if_pos h), fun h => congrArg _ (if_neg (Nat.not_lt.mpr h)), fun h => congrArg _ (if_pos h)⟩
    rintro (h | h)
    · exact Bool.false_ne_true (hd.symm.trans h)
    · exact h h1
  · intro mine holder
    have hmine : mine ↔ s.sessUp f sess = true := State.sessUp_iff.symm
    have hholder : s.slotHeldBy slot = holder := rfl
    rw [exec_keyProg hv hf he, hholder]
    refine ⟨fun h => congrArg _ (if_pos h), fun hl hd => congrArg _ ((if_neg (by omega)).trans (if_pos hd)), fun hl hd => ⟨fun hm hh => ?_, fun h => ?_⟩⟩
    · rw [if_neg (by omega), hd, if_neg Bool.false_ne_true, if_neg (by simp [hmine.mp hm, hh])]
    · rw [if_neg (by omega), hd, if_neg Bool.false_ne_true, if_pos (by rw [hmine] at h; simpa using h)]
  · intro hd
    rw [exec_ideKm hv hf he, if_pos hd]
  · intro hd h0
    rw [exec_ideKm hv hf he, hd, if_neg Bool.false_ne_true, if_neg h0]
    exact ⟨fun h => by rw [h]; rfl, fun h => by rw [h]; rfl⟩
  · intro hd h0
    subst h0
    rw [exec_ideKm hv hf he, hd, if_neg Bool.false_ne_true, if_pos rfl, ← State.sessUp_iff]
    exact ⟨fun h => by rw [h]; rfl, fun h => by rw [Bool.not_eq_true] at h; rw [h]; rfl⟩

end Sys2Proof.Machine
end

section
/-!
PROOFS. Long commands run, report and end (14 R599–R624).
-/
namespace Sys2Proof.Machine

/-! ## Long commands are accepted (14 R599, R607, R608) -/

section
variable {s : State} {f : Nat} {p : Pkt}

theorem exec_logRead (h : s.hostRuns f 6 p) : exec (.logRead f) s = .next
    (if p.n 16 8 % 64 ≠ 0 ∨ p.n 32 8 % 8 ≠ 0 then s.endCmd f 0x19 0 0
     else if p.n 24 4 = 0 then s.emptyLong f p (p.n 32 8) else s.runLong f p (p.n 32 8) (p.n 24 4) 0) := by
  show execLogRead f s = _
  unfold execLogRead
  exact hostRow_runs h

/-- A COPY that is accepted enters the command queue of its destination's die. -/
def State.copyStarts (s : State) (f : Nat) (p : Pkt) : State :=
  let u := s.runLong f p (p.n 40 8) (p.n 32 5) 0
  let d := u.copyDie (p.n 24 8)
  let i : RInstr := { opc := 0x100, part := p.part, seq := u.rackSeq, len := p.n 32 5, src := p.n 16 8, dst := p.n 24 8, fn := f, hseq := p.seq }
  { (u.unrest d 22).putRackq d 256 { u.rackq d 256 with ins := enq (u.rackq d 256).ins i } with rackSeq := u.rackSeq + 1 }

/-- What a COPY answers, by the bytes that it reads and writes. -/
def State.copyAnswer (s : State) (f : Nat) (p : Pkt) : Except Nat (List (Nat × Nat)) → Except Nat (List (Nat × Nat)) → State
  | .error e, _ => (s.copyOutside p.part (p.n 16 8) (p.n 32 5)).endCmd f e 0 0
  | .ok _, .error e => (s.copyOutside p.part (p.n 24 8) (p.n 32 5)).endCmd f e 0 0
  | .ok xs, .ok ys =>
    if p.n 40 8 % 8 ≠ 0 then s.endCmd f 0x19 0 0
    else if runsMeet xs ys then s.endCmd f 0x22 0 0
    else if p.n 32 5 = 0 then s.emptyLong f p (p.n 40 8)
    else s.copyStarts f p

theorem exec_copy (h : s.hostRuns f 0x20 p) : exec (.copy f) s =
    .next (s.copyAnswer f p (s.copyRuns p.part (p.n 16 8) (p.n 32 5) false) (s.copyRuns p.part (p.n 24 8) (p.n 32 5) true)) := by
  show execCopy f s = _
  unfold execCopy
  rw [hostRow_runs h]
  dsimp only
  cases s.copyRuns p.part (p.n 16 8) (p.n 32 5) false <;> cases s.copyRuns p.part (p.n 24 8) (p.n 32 5) true <;> rfl

theorem stateRow_runs {opc : Nat} (h : s.hostRuns f opc p) : stateRow opc f s = .next
    (if ! s.jobIs (p.n 16 1) p.part then s.endCmd f 0x33 0 0
     else if p.n 24 8 % 64 ≠ 0 ∨ p.n 32 8 % 8 ≠ 0 then s.endCmd f 0x19 0 0
     else s.runLong f p (p.n 32 8) (64 * (1 + (maskDies (s.job (p.n 16 1)).mask).length)) 0) := by
  unfold stateRow
  exact hostRow_runs h

theorem stateRow_starts {opc : Nat} (h : s.hostRuns f opc p) (hj : s.jobIs (p.n 16 1) p.part = true) (ha : p.n 24 8 % 64 = 0)
    (hw : p.n 32 8 % 8 = 0) :
    stateRow opc f s = .next (s.runLong f p (p.n 32 8) (64 * (1 + (maskDies (s.job (p.n 16 1)).mask).length)) 0) := by
  rw [stateRow_runs h, hj, if_neg (by decide), if_neg (by omega)]

theorem stateRow_stranger {opc : Nat} (h : s.hostRuns f opc p) (hj : s.jobIs (p.n 16 1) p.part = false) :
    stateRow opc f s = .next (s.endCmd f 0x33 0 0) := by
  rw [stateRow_runs h, hj, if_pos (by decide)]

/-- What a RECIPE_LOAD answers, by what is wrong with its block. -/
def State.recipeAnswer (s : State) (f : Nat) (p : Pkt) : Option Nat → State
  | some e => s.endCmd f e 0 0
  | none =>
    if p.n 32 8 % 8 ≠ 0 then s.endCmd f 0x19 0 0
    else if rlApply p ∧ ! (s.jobsOf (fun _ => true)).isEmpty then s.endCmd f 0x34 0 0
    else s.runLong f p (p.n 32 8) (recipeFirst p.block 5) (if rlApply p then 0 else recipeFirst p.block 5)

theorem exec_recipeLoad (h : s.hostRuns f 0x40 p) : exec (.recipeLoad f) s = .next (s.recipeAnswer f p (recipeFail p.block)) := by
  show execRecipeLoad f s = _
  unfold execRecipeLoad
  rw [hostRow_runs h]
  cases recipeFail p.block <;> rfl

theorem exec_protRead (h : s.hostRuns f 0x106 p) : exec (.protRead f) s =
    .next (if p.n 32 8 % 8 ≠ 0 then s.endCmd f 0x19 0 0 else s.runLong f p (p.n 32 8) 1 0) := by
  show execProtRead f s = _
  unfold execProtRead
  exact hostRow_runs h

/-- The transfer of a COPY that is cancelled issues no more. -/
def State.copyStops (s : State) : Option (Nat × RInstr) → State
  | none => s
  | some (d, i) => s.putRackq d 256 ((s.rackq d 256).setIns { i with full := true, stopped := true })

/-- What CANCEL does to the running command it names, if there is one. -/
def State.cancelAnswer (s : State) (f : Nat) : Option Long → State
  | none => s.endCmd f 0 0 0
  | some l =>
    if l.pkt.opc = 0x33 ∨ l.pkt.opc = 0x40 then s.endCmd f 0 0 2
    else ((s.copyStops (s.copyAt f l.pkt.seq)).putLong f { l with state := 0x82, status := 2 }).endCmd f 0 0 1

theorem exec_cancel (h : s.hostRuns f 0x21 p) : exec (.cancel f) s =
    .next (s.cancelAnswer f ((s.fn f).longs.find? (fun l => l.pkt.seq = p.n 16 4 && decide (l.state < 0x80)))) := by
  show execCancel f s = _
  unfold execCancel
  rw [hostRow_runs h]
  dsimp only
  cases (s.fn f).longs.find? (fun l => l.pkt.seq = p.n 16 4 && decide (l.state < 0x80)) with
  | none => rfl
  | some l =>
    unfold State.cancelAnswer
    dsimp only
    cases s.copyAt f l.pkt.seq <;> rfl

end

/-! ## Long commands report and end -/

section
variable {s : State} {f : Nat} {l : Long} {ls : List Long} (hf : f < 9) (hv : s.serving = true) (hl : (s.fn f).longs = l :: ls)
include hf hv hl

theorem exec_statusWordUpdate : exec (.statusWordUpdate f) s = .next (updateLongs f s (l :: ls)) := by
  show execStatusWordUpdate f s = _
  rw [execStatusWordUpdate, if_pos hf, if_pos hv, hl]

theorem exec_longCommandEnd : exec (.longCommandEnd f) s = .next (((l :: ls).findSome? (s.longEnd f)).getD s) := by
  show execLongCommandEnd f s = _
  rw [execLongCommandEnd, if_neg (by omega), hv, hl]
  rfl

/-- The first long command ends when it can. -/
theorem exec_longCommandEnd_first {t : State} (h : s.longEnd f l = some t) : exec (.longCommandEnd f) s = .next t := by
  rw [exec_longCommandEnd hf hv hl, List.findSome?_cons, h]
  rfl

end

section
variable {s : State} {f : Nat} {l : Long}

/-- How a command that runs, other than a COPY, ends, by its opcode. -/
def State.longEndAs (s : State) (f : Nat) (l : Long) : Nat → Option State
  | 0x6 => some (s.logReadEnd f l)
  | 0x32 => some (s.stateSaveEnd f l)
  | 0x33 => some (s.stateLoadEnd f l)
  | 0x40 => if l.stage = 1 ∨ (l.stage = 0 ∧ s.othersBusy f) then none else some (s.recipeEnd f l)
  | _ => some (s.protReadEnd f l)

theorem State.longEnd_running (hc : l.pkt.opc ≠ 0x20) (hs : l.state < 0x80) : s.longEnd f l = s.longEndAs f l l.pkt.opc := by
  unfold State.longEnd
  exact (if_neg hc).trans ((if_neg (by omega)).trans rfl)

variable (hs : l.state < 0x80)
include hs

theorem State.longEnd_logRead (h : l.pkt.opc = 6) : s.longEnd f l = some (s.logReadEnd f l) := by
  rw [State.longEnd_running (by omega) hs, h]
  rfl

theorem State.longEnd_stateSave (h : l.pkt.opc = 0x32) : s.longEnd f l = some (s.stateSaveEnd f l) := by
  rw [State.longEnd_running (by omega) hs, h]
  rfl

theorem State.longEnd_stateLoad (h : l.pkt.opc = 0x33) : s.longEnd f l = some (s.stateLoadEnd f l) := by
  rw [State.longEnd_running (by omega) hs, h]
  rfl

theorem State.longEnd_recipe (h : l.pkt.opc = 0x40) :
    s.longEnd f l = if l.stage = 1 ∨ (l.stage = 0 ∧ s.othersBusy f) then none else some (s.recipeEnd f l) := by
  rw [State.longEnd_running (by omega) hs, h]
  rfl

theorem State.longEnd_protRead (h : l.pkt.opc = 0x106) : s.longEnd f l = some (s.protReadEnd f l) := by
  rw [State.longEnd_running (by omega) hs, h]
  rfl

omit hs

/-- A command that has stopped ends once no transfer of it is left. -/
theorem State.longEnd_stopped (hs : 0x80 ≤ l.state) (hc : s.copyAt f l.pkt.seq = none) : s.longEnd f l = some (s.endLong f l) := by
  unfold State.longEnd
  by_cases h : l.pkt.opc = 0x20
  · rw [if_pos h, State.copyFinish, if_neg (by omega), hc]
  · rw [if_neg h, if_pos hs]

theorem State.longEnd_copy {d : Nat} {i : RInstr} (h : l.pkt.opc = 0x20) (hs : 0x80 ≤ l.state) (hc : s.copyAt f l.pkt.seq = some (d, i))
    (ho : s.copyOuts d i = []) : s.longEnd f l = some ((s.copyGone f l.pkt.seq).endLong f (s.copyView f l)) := by
  rw [State.longEnd, if_pos h, State.copyFinish, if_neg (by omega), hc]
  exact if_pos ho

theorem State.longOut_up (hk : s.linkOk f = true) (buf valid : Nat) (bs : List Byte) :
    s.longOut f l buf bs valid = (s.poke .host buf bs).endLong f (l.finish 0 0 valid) := if_pos hk

theorem State.longOut_down (hk : s.linkOk f = false) (buf valid : Nat) (bs : List Byte) :
    s.longOut f l buf bs valid = s.endLong f (l.finish 0x23 0x18 0) := if_neg (by rw [hk]; exact Bool.false_ne_true)

theorem State.stateSaveEnd_job (hj : s.jobIs (l.pkt.n 16 1) l.pkt.part = true) : s.stateSaveEnd f l =
    s.longOut f l (l.pkt.n 24 8) (toBytes 64 (stateHead (s.job (l.pkt.n 16 1))) ++
      (maskDies (s.job (l.pkt.n 16 1)).mask).flatMap (fun d => toBytes 64 (s.stateBlock d (l.pkt.n 16 1) (s.job (l.pkt.n 16 1)).part))) l.total :=
  if_neg (by rw [hj]; decide)

theorem State.stateLoadEnd_stranger (hj : s.jobIs (l.pkt.n 16 1) l.pkt.part = false) : s.stateLoadEnd f l = s.endLong f (l.finish 0x33 0 0) :=
  if_pos (by rw [hj]; rfl)

/-- A RECIPE_LOAD that need not wait and may apply: its recipe, then the store it asks for or its end. -/
def State.recipeApplies (s : State) (f : Nat) (l : Long) : State :=
  let u := if rlApply l.pkt then s.applyLoaded l.pkt.block else s
  if rlPersist l.pkt then
    { u.putLong f { l with state := 2, buf := [1], valid := l.total } with
      commitWait := enq u.commitWait { kind := 1, data := l.pkt.block, fn := f, seq := l.pkt.seq } }
  else u.endLong f (l.finish 0 0 l.total)

theorem State.recipeEnd_applies (h : l.stage = 0) (ho : s.othersBusy f = false) (hj : rlApply l.pkt = false ∨ s.jobsOf (fun _ => true) = []) :
    s.recipeEnd f l = s.recipeApplies f l := by
  have hno : ¬ (rlApply l.pkt = true ∧ (! (s.jobsOf (fun _ => true)).isEmpty) = true) := by
    rintro ⟨ha, hb⟩
    rcases hj with hj | hj
    · exact Bool.false_ne_true (hj.symm.trans ha)
    · rw [hj] at hb
      exact Bool.false_ne_true hb
  unfold State.recipeEnd
  rw [h]
  exact (if_neg (by rw [ho]; exact Bool.false_ne_true)).trans (if_neg hno)

theorem State.recipeEnd_deferred (h : l.stage = 2) : s.recipeEnd f l = s.endLong f (l.finish 4 0 l.total) := by
  rw [State.recipeEnd, h]
  rfl

theorem State.recipeEnd_stored (h : l.stage = 3) : s.recipeEnd f l = s.endLong f (l.finish 0 0 l.total) := by
  rw [State.recipeEnd, h]
  rfl

theorem State.copyView_none (h : s.copyAt f l.pkt.seq = none) : s.copyView f l = l := by rw [State.copyView, h]

end

/-- Settles O45: each row by its equation (`exec_copy`, `exec_cancel`, …), and the end of a running command by its opcode
(`State.longEnd_running`). -/
theorem longCommandsRunReportAndEnd : Obligations.LongCommandsRunReportAndEnd := by
  refine ⟨fun s f p => ⟨fun h ha hw => ?_, fun xs ys h hx hy hw => ?_, fun e h hx => ?_, fun xs e h hx hy => ?_, ?_, fun hj => ?_,
    fun h hr hw hj => ?_, fun e h hr => ?_, fun h hw => ?_, ?_⟩, fun s f l ls hf hv hl => ⟨exec_statusWordUpdate hf hv hl, fun hls hs hc => ?_, fun hs => ?_,
    fun hs hc => ?_, fun d i ho hs hc hno => ?_⟩⟩
  · rw [exec_logRead h, if_neg (by omega)]
    exact ⟨fun hn => congrArg _ (if_neg hn), fun hn => congrArg _ (if_pos hn)⟩
  · rw [exec_copy h, hx, hy]
    refine ⟨fun hm => congrArg _ ?_, fun hm hn => congrArg _ ?_, fun hm hn => congrArg _ ?_⟩
    · exact (if_neg (not_not_intro hw)).trans (if_pos hm)
    · exact (if_neg (not_not_intro hw)).trans ((if_neg (by rw [hm]; exact Bool.false_ne_true)).trans (if_pos hn))
    · exact (if_neg (not_not_intro hw)).trans ((if_neg (by rw [hm]; exact Bool.false_ne_true)).trans (if_neg hn))
  · rw [exec_copy h, hx]
    rfl
  · rw [exec_copy h, hx, hy]
    rfl
  · intro n hj ha hw
    exact ⟨fun h => stateRow_starts h hj ha hw, fun h => stateRow_starts h hj ha hw⟩
  · exact ⟨fun h => stateRow_stranger h hj, fun h => stateRow_stranger h hj⟩
  · rw [exec_recipeLoad h, hr]
    refine congrArg _ ((if_neg (not_not_intro hw)).trans (if_neg ?_))
    rintro ⟨ha, hb⟩
    rcases hj with hj | hj
    · exact Bool.false_ne_true (hj.symm.trans ha)
    · rw [hj] at hb
      exact Bool.false_ne_true hb
  · rw [exec_recipeLoad h, hr]
    rfl
  · rw [exec_protRead h, if_neg (not_not_intro hw)]
  · intro l h
    rw [exec_cancel h]
    refine ⟨fun hl => ?_, fun k hl ho => ?_, fun k hl h3 h4 hc => ?_, fun k d i hl h3 h4 hc => ?_⟩
    · rw [show List.find? _ _ = none from hl]
      rfl
    · rw [show List.find? _ _ = some k from hl]
      exact congrArg _ (if_pos ho)
    · rw [show List.find? _ _ = some k from hl, State.cancelAnswer, if_neg (not_or.mpr ⟨h3, h4⟩), hc]
      rfl
    · rw [show List.find? _ _ = some k from hl, State.cancelAnswer, if_neg (not_or.mpr ⟨h3, h4⟩), hc]
      rfl
  · rw [exec_statusWordUpdate hf hv hl, hls, updateLongs, if_neg (by omega)]
    have hview : s.copyView f { l with state := 2 } = { l with state := 2 } := State.copyView_none hc
    rw [hview]
    rfl
  · have hend : ∀ t, s.longEnd f l = some t → exec (.longCommandEnd f) s = .next t := fun t ht => exec_longCommandEnd_first hf hv hl ht
    refine ⟨fun ho hk => hend _ ?_, fun ho hj hk => hend _ ?_, fun ho hk => hend _ ?_, fun ho => hend _ (State.longEnd_stateLoad hs ho),
      fun ho hj => hend _ ?_, fun ho h0 hls hb => ?_, fun ho h0 hb ha hj hp => hend _ ?_, fun ho h0 hb ha hp => hend _ ?_, fun ho h2 => hend _ ?_,
      fun ho h3 => hend _ ?_, fun ho => hend _ (State.longEnd_protRead hs ho)⟩
    · rw [State.longEnd_logRead hs ho, State.logReadEnd, State.longOut_up hk]
    · rw [State.longEnd_stateSave hs ho, State.stateSaveEnd_job hj, State.longOut_up hk]
    · rcases ho with ho | ⟨ho, hj⟩
      · rw [State.longEnd_logRead hs ho, State.logReadEnd, State.longOut_down hk]
      · rw [State.longEnd_stateSave hs ho, State.stateSaveEnd_job hj, State.longOut_down hk]
    · rw [State.longEnd_stateLoad hs ho, State.stateLoadEnd_stranger hj]
    · have hwait : s.longEnd f l = none := (State.longEnd_recipe hs ho).trans (if_pos (.inr ⟨h0, hb⟩))
      rw [exec_longCommandEnd hf hv hl, hls, List.findSome?_cons, hwait]
      rfl
    · rw [State.longEnd_recipe hs ho, if_neg (by simp [h0, hb]), State.recipeEnd_applies h0 hb (.inr hj), State.recipeApplies, ha, hp]
      rfl
    · rw [State.longEnd_recipe hs ho, if_neg (by simp [h0, hb]), State.recipeEnd_applies h0 hb (.inl ha), State.recipeApplies, ha, hp]
      rfl
    · rw [State.longEnd_recipe hs ho, if_neg (by simp [h2]), State.recipeEnd_deferred h2]
    · rw [State.longEnd_recipe hs ho, if_neg (by simp [h3]), State.recipeEnd_stored h3]
  · exact exec_longCommandEnd_first hf hv hl (State.longEnd_stopped hs hc)
  · exact exec_longCommandEnd_first hf hv hl (State.longEnd_copy ho hs hc hno)

end Sys2Proof.Machine
end

section
/-!
SUPPORT. The fields of a register, written together and reset.
-/
namespace Sys2Proof.Machine

/-! ## Fields of a word written one after the other -/

/-- Fields that share no bit, within a register word. -/
def fieldsApart (f g : Fld) : Bool := decide (f.lo + f.w ≤ g.lo) || decide (g.lo + g.w ≤ f.lo)

def fieldsOk (fs : List Fld) : Bool := fs.all (fun f => decide (f.lo + f.w ≤ 256)) && decide (fs.Pairwise (fun f g => fieldsApart f g = true))

/-- Field f gets the value g when c holds for it. -/
def putField (c : Fld → Bool) (g : Fld → Nat) (w : RegWord) (f : Fld) : RegWord := if c f then setF w f (g f) else w

/-- Of the fields fs those for which c holds get the value g. -/
def putFields (c : Fld → Bool) (g : Fld → Nat) (fs : List Fld) (w : RegWord) : RegWord := fs.foldl (putField c g) w

section
variable {c : Fld → Bool} {g : Fld → Nat} {fs : List Fld}

theorem getF_putField_other {f k : Fld} (hf : f.lo + f.w ≤ 256) (h : fieldsApart f k = true) (w : RegWord) : getF (putField c g w k) f = getF w f := by
  simp only [fieldsApart, Bool.or_eq_true, decide_eq_true_eq] at h
  unfold putField
  split
  · exact getF_setF_other _ _ hf h
  · rfl

theorem getF_putField_same {f : Fld} (hf : f.lo + f.w ≤ 256) (w : RegWord) :
    getF (putField c g w f) f = if c f then g f % 2 ^ f.w else getF w f := by
  unfold putField
  split
  · exact getF_setF_same _ _ _ hf
  · rfl

/-- A field apart from those written keeps its value. -/
theorem getF_putFields_other {f : Fld} (hf : f.lo + f.w ≤ 256) (h : ∀ k, k ∈ fs → fieldsApart f k = true) (w : RegWord) :
    getF (putFields c g fs w) f = getF w f := by
  induction fs generalizing w with
  | nil => rfl
  | cons k fs ih =>
    exact (ih (fun k' hk' => h k' (List.mem_cons_of_mem _ hk')) _).trans (getF_putField_other hf (h k List.mem_cons_self) w)

theorem fieldsApart_comm (f k : Fld) : fieldsApart f k = fieldsApart k f := Bool.or_comm ..

/-- What a field holds after the fields of its register are written. -/
theorem getF_putFields (hfs : fieldsOk fs = true) {f : Fld} (hf : f ∈ fs) (w : RegWord) :
    getF (putFields c g fs w) f = if c f then g f % 2 ^ f.w else getF w f := by
  induction fs generalizing w with
  | nil => exact absurd hf List.not_mem_nil
  | cons k fs ih =>
    simp only [fieldsOk, List.all_cons, Bool.and_eq_true, decide_eq_true_eq, List.pairwise_cons] at hfs ih
    obtain ⟨⟨hk, hall⟩, hhead, htail⟩ := hfs
    rcases List.mem_cons.mp hf with rfl | hf
    · exact (getF_putFields_other hk hhead _).trans (getF_putField_same hk w)
    · have hfk : f.lo + f.w ≤ 256 := of_decide_eq_true (List.all_eq_true.mp hall f hf)
      have hother : getF (putField c g w k) f = getF w f := getF_putField_other hfk ((fieldsApart_comm f k).trans (hhead f hf)) w
      refine (ih ⟨hall, htail⟩ hf _).trans ?_
      rw [hother]

end

/-! ## The register map -/

/-- The fields of every register are within its word and share no bit. -/
theorem regMap_fieldsOk : regMap.all (fun r => fieldsOk r.flds) = true := by decide +kernel

theorem mem_regMap_of_regOf {o i j : Nat} {r : RegInfo} (h : regOf o = some (r, i, j)) : r ∈ regMap ∧ r.inst o = some (i, j) := by
  obtain ⟨r', hr', he⟩ := List.exists_of_findSome?_eq_some h
  obtain ⟨p, hp, he⟩ := Option.map_eq_some_iff.mp he
  obtain ⟨rfl, rfl⟩ := Prod.mk.inj he
  exact ⟨hr', hp⟩

theorem fieldsOk_of_regOf {o i j : Nat} {r : RegInfo} (h : regOf o = some (r, i, j)) : fieldsOk r.flds = true :=
  List.all_eq_true.mp regMap_fieldsOk r (mem_regMap_of_regOf h).1

theorem resetFields_eq (fs : List Fld) (kind : Nat) (v : RegWord) :
    resetFields fs kind v = putFields (fun f => decide (bits f.kinds 0 6 / kind % 2 = 1)) (fun f => f.rst) fs v := by
  have hput : putField (fun f => decide (bits f.kinds 0 6 / kind % 2 = 1)) (fun f => f.rst) =
      fun v f => if bits f.kinds 0 6 / kind % 2 = 1 then setF v f f.rst else v := by
    funext v f
    simp only [putField, decide_eq_true_eq]
  rw [putFields, hput, resetFields]

theorem getF_resetWord {fs : List Fld} (hfs : fieldsOk fs = true) {f : Fld} (hf : f ∈ fs) : getF (resetWord fs) f = f.rst % 2 ^ f.w := by
  induction fs with
  | nil => exact absurd hf List.not_mem_nil
  | cons k fs ih =>
    simp only [fieldsOk, List.all_cons, Bool.and_eq_true, decide_eq_true_eq, List.pairwise_cons] at hfs ih
    obtain ⟨⟨hk, hall⟩, hhead, htail⟩ := hfs
    rw [resetWord]
    rcases List.mem_cons.mp hf with rfl | hf
    · exact getF_setF_same _ _ _ hk
    · have hfk : f.lo + f.w ≤ 256 := of_decide_eq_true (List.all_eq_true.mp hall f hf)
      have hapart := hhead f hf
      simp only [fieldsApart, Bool.or_eq_true, decide_eq_true_eq] at hapart
      exact (getF_setF_other _ _ hfk hapart.symm).trans (ih ⟨hall, htail⟩ hf)

/-! ## A reset restores its fields -/

section
variable {kind : Nat} {scope : Nat → RegInfo → Nat → Nat → Bool} {m : SMap RegWord} {k i j : Nat} {r : RegInfo}
  (hr : regOf (k % 2 ^ 23) = some (r, i, j)) (hn : r.name ≠ "QL_VCSTAT")
include hr hn

theorem regDefault_eq : regDefault k = resetWord r.flds := by
  rw [regDefault, hr]
  exact if_neg hn

/-- A register of the scope that is listed gets its fields reset. -/
theorem mget_resetRegs_listed (h : mrising m = true) (hs : scope (k / 2 ^ 23) r i j = true) (hf : r.flds ≠ []) :
    mget regDefault (resetRegs kind scope m) k = regDefault k ∨ ∃ v, mget regDefault (resetRegs kind scope m) k = resetFields r.flds kind v := by
  induction m with
  | nil => exact .inl rfl
  | cons e m ih =>
    obtain ⟨a, v⟩ := e
    simp only [mrising, Bool.and_eq_true] at h
    obtain ⟨hlow, hm⟩ := h
    rcases Nat.lt_trichotomy a k with hak | rfl | hak
    · rcases resetRegs_cons kind scope a v m with he | ⟨x, -, he⟩
      · rw [he]; exact ih hm
      · rw [he, mget, mfind, if_neg hak.ne, if_neg hak.not_gt]; exact ih hm
    · have hrest : mget regDefault (resetRegs kind scope m) a = regDefault a := by
        rw [mget, mfind_of_low (mlow_resetRegs hm hlow)]; rfl
      refine .inr ⟨v, ?_⟩
      rw [resetRegs, hr]
      dsimp only
      have hname : ¬ (r.name = "QL_VCSTAT" ∧ bits qlVcstatDcred.kinds 0 6 / kind % 2 = 1) := fun h => hn h.1
      rw [if_pos hs, if_neg hf, if_neg hname]
      by_cases hv : resetFields r.flds kind v = regDefault a
      · rw [if_pos hv, hrest, hv]
      · rw [if_neg hv, mget, mfind, if_pos rfl]; rfl
    · have hl : mlow k ((a, v) :: m) = true := decide_eq_true hak
      rw [mget, mfind_of_low (mlow_resetRegs (by simp only [mrising, hlow, hm, Bool.and_self]) hl)]
      exact .inl rfl

/-- A field that the reset's kind restores reads its reset value. -/
theorem getF_resetRegs (h : mrising m = true) (hs : scope (k / 2 ^ 23) r i j = true) {f : Fld} (hf : f ∈ r.flds)
    (hk : bits f.kinds 0 6 / kind % 2 = 1) : getF (mget regDefault (resetRegs kind scope m) k) f = f.rst % 2 ^ f.w := by
  have hok := fieldsOk_of_regOf hr
  rcases mget_resetRegs_listed (kind := kind) hr hn h hs (List.ne_nil_of_mem hf) with he | ⟨v, he⟩
  · rw [he, regDefault_eq hr hn, getF_resetWord hok hf]
  · rw [he, resetFields_eq, getF_putFields hok hf, if_pos (decide_eq_true hk)]

end
end Sys2Proof.Machine
end

section
/-!
PROOFS. Module resets hold and start the module (17 R720–R726; 18 R738, R740).
-/
namespace Sys2Proof.Machine

/-! ## Changes of registers alone -/

/-- t is s but for registers. -/
def RegsOnly (s t : State) : Prop := t = { s with regs := t.regs }

theorem RegsOnly.refl (s : State) : RegsOnly s s := rfl

theorem RegsOnly.setReg {s t : State} (h : RegsOnly s t) (d o : Nat) (v : RegWord) : RegsOnly s (t.setReg d o v) := by
  unfold RegsOnly
  rw [State.setReg, h]

theorem RegsOnly.wfs {s t : State} (h : RegsOnly s t) (d o : Nat) (fs : List (Fld × Nat)) : RegsOnly s (t.wfs d o fs) := h.setReg ..

theorem RegsOnly.wf {s t : State} (h : RegsOnly s t) (d o : Nat) (f : Fld) (x : Nat) : RegsOnly s (t.wf d o f x) := h.setReg ..

theorem RegsOnly.foldl {α : Type} {s t : State} (h : RegsOnly s t) {l : List α} {g : State → α → State}
    (hg : ∀ u x, RegsOnly s u → RegsOnly s (g u x)) : RegsOnly s (l.foldl g t) := by
  induction l generalizing t with
  | nil => exact h
  | cons x l ih => exact ih (hg t x h)

/-! ## The module held in reset (17 R722, R726) -/

/-- What a reset that holds the module leaves, but for the registers that it then sets. -/
def State.heldBase (s : State) (kind : Nat) : State :=
  let t := s.zeroWhere (fun n _ => decide (n ≠ 0))
  let t := t.clearUnits false
  let t := { t with regs := resetRegs kind (fun _ _ _ _ => true) s.regs, caps := [], stages := [], marks := [], keyCtr := s.keyCtr + 1, fwKey := s.keyCtr + 1 }
  { t with
    recipes := match s.commitRun with
      | none => s.recipes
      | some c => if c.kind = 1 then (c.data, Config.freeValue s.freeCtr % 2 ^ 32) :: s.recipes else s.recipes,
    fns := [], errLog := [], errIndex := 0, ceSeen := [], commitWait := [], commitRun := none, deferred := [], pcieUp := false,
    aliasKey := 0, certs := [], modNum := 0xFFFF, ports := modPorts s.ports, seen := [], abortSerial := 0, dieHbAge := [], lostDies := 0, failed := false,
    cplValue := 0, bmrs := [], recipeNow := [], levels := [], calm := [], dieLevel := [], phase := 2, answered := 0, rackSeq := 0,
    nextRid := 1, nextSess := 1, flashExt := false, flashWait := false }

theorem State.modHeld_eq (s : State) (kind : Nat) : s.modHeld kind = s.keepMeasured (s.heldBase kind).plimReset := rfl

/-- t is an empty module that has kept of s what no reset takes, its registers apart. -/
structure Emptied (s t : State) : Prop where
  jobs : t.jobs = []
  grants : t.grants = []
  sessions : t.sessions = []
  keys : t.keys = []
  fns : t.fns = []
  errLog : t.errLog = []
  ctxs : t.ctxs = []
  vats : t.vats = []
  marks : t.marks = []
  backs : t.backs = []
  pcieUp : t.pcieUp = false
  modNum : t.modNum = 0xFFFF
  commitWait : t.commitWait = []
  aliasKey : t.aliasKey = 0
  certs : t.certs = []
  peek : ∀ r o, r.num ≠ 0 → t.peek r o = 0
  pending : t.pending = s.pending
  flashLog : t.flashLog = s.flashLog
  recipe : t.recipe = s.recipe
  fuseSvn : t.fuseSvn = s.fuseSvn

/-- The registers of s are listed in order, and no partition has a state. -/
def NoParts (t : State) : Prop := mrising t.regs = true ∧ ∀ p, p < 8 → t.rf 0 (oPartStat p) partStatState = 0

theorem NoParts.setReg {t : State} (h : NoParts t) {d o : Nat} (ho : ∀ p, p < 8 → regKey 0 (oPartStat p) ≠ regKey d o) (v : RegWord) :
    NoParts (t.setReg d o v) :=
  ⟨mrising_mset _ _ h.1, fun p hp => (congrArg (getF · partStatState) (State.reg_ne h.1 v (ho p hp))).trans (h.2 p hp)⟩

theorem NoParts.foldl {α : Type} {t : State} (h : NoParts t) {l : List α} {g : State → α → State} (hg : ∀ u x, NoParts u → NoParts (g u x)) :
    NoParts (l.foldl g t) := by
  induction l generalizing t with
  | nil => exact h
  | cons x l ih => exact ih (hg t x h)

/-- The offsets of a die's registers that are none of PART_STAT. -/
theorem regKey_partStat {o : Nat} (ho : o < 2 ^ 23) (hne : o < 0x160100 ∨ 0x160120 ≤ o) (d p : Nat) (hp : p < 8) :
    regKey 0 (oPartStat p) ≠ regKey d o := by
  unfold regKey oPartStat
  omega

theorem partStat_mapped : (List.range 8).all (fun p => (regOf (oPartStat p)).any (fun r => r.1.name != "QL_VCSTAT" && r.1.flds.contains partStatState)) = true := by
  decide +kernel

theorem NoParts.reset {s t : State} {kind : Nat} (h : mrising s.regs = true) (hk : kind = kPOR ∨ kind = kMOD)
    (ht : t.regs = resetRegs kind (fun _ _ _ _ => true) s.regs) (hr : mrising t.regs = true) : NoParts t := by
  refine ⟨hr, fun p hp => ?_⟩
  have hmap := List.all_eq_true.mp partStat_mapped p (List.mem_range.mpr hp)
  obtain ⟨⟨r, i, j⟩, hreg, hok⟩ := (Option.any_eq_true _ _).mp hmap
  simp only [Bool.and_eq_true, bne_iff_ne, ne_eq, List.contains_iff_mem] at hok
  have hkey : regKey 0 (oPartStat p) % 2 ^ 23 = oPartStat p := by unfold regKey oPartStat; omega
  rw [← hkey] at hreg
  rw [State.rf, State.reg, ht, getF_resetRegs hreg hok.1 h rfl hok.2 (by rcases hk with rfl | rfl <;> decide)]
  rfl

/-- A reset that holds the module: sensors' registers and PLIM apart, what `State.heldBase` says. -/
theorem State.modHeld_regsOnly (s : State) (kind : Nat) : RegsOnly (s.heldBase kind) (s.modHeld kind) := by
  rw [State.modHeld_eq]
  exact RegsOnly.foldl (((RegsOnly.refl _).wf ..).wfs .. |>.wfs ..) fun u x hu => hu.wfs ..

theorem State.modHeld_noParts {s : State} (hs : s.canon = true) {kind : Nat} (hk : kind = kPOR ∨ kind = kMOD) : NoParts (s.modHeld kind) := by
  have hbase : NoParts (s.heldBase kind) :=
    .reset (State.canon_regs_rising hs) hk rfl (mwf_mrising (mwf_resetRegs (State.canon_regs hs)))
  rw [State.modHeld_eq]
  refine NoParts.foldl (((hbase.setReg (fun p hp => regKey_partStat ?_ ?_ _ p hp) _).setReg (fun p hp => regKey_partStat ?_ ?_ _ p hp) _).setReg
    (fun p hp => regKey_partStat ?_ ?_ _ p hp) _) fun u x hu => hu.setReg (fun p hp => regKey_partStat ?_ ?_ _ p hp) _
  all_goals decide

theorem State.heldBase_emptied {s : State} (hs : s.canon = true) (kind : Nat) : Emptied s (s.heldBase kind) where
  jobs := rfl
  grants := rfl
  sessions := rfl
  keys := rfl
  fns := rfl
  errLog := rfl
  ctxs := rfl
  vats := rfl
  marks := rfl
  backs := rfl
  pcieUp := rfl
  modNum := rfl
  commitWait := rfl
  aliasKey := rfl
  certs := rfl
  peek r o hr := by
    have hn : r.loc o / 2 ^ 64 = r.num := by unfold Region.loc; omega
    have hmem : (s.heldBase kind).mem = s.mem.filter (fun c => ! decide (c.1 / 2 ^ 64 ≠ 0)) := rfl
    rw [State.peek, hmem]
    exact mget_filter_dropped (State.canon_mem_rising hs) fun x => by rw [hn, decide_eq_true hr]; rfl
  pending := rfl
  flashLog := rfl
  recipe := rfl
  fuseSvn := rfl

/-- An emptied module stays so while its registers change, its time, and what says how it is powered. -/
theorem Emptied.regs {s t u : State} (h : Emptied s t) (hu : RegsOnly t u) : Emptied s u := by
  obtain ⟨x, hx⟩ : ∃ x, u = { t with regs := x } := ⟨_, hu⟩
  subst hx
  exact { h with }

/-- What an emptied module without partitions is, as O47 says it. -/
theorem Emptied.all {s t : State} (h : Emptied s t) (hp : NoParts t) :
    t.jobs = [] ∧ t.grants = [] ∧ t.sessions = [] ∧ t.keys = [] ∧ t.fns = [] ∧ t.errLog = [] ∧ t.ctxs = [] ∧
    t.vats = [] ∧ t.marks = [] ∧ t.backs = [] ∧ t.pcieUp = false ∧ t.modNum = 0xFFFF ∧ t.commitWait = [] ∧
    t.aliasKey = 0 ∧ t.certs = [] ∧ (∀ r o, r.num ≠ 0 → t.peek r o = 0) ∧ (∀ p, p < 8 → t.rf 0 (oPartStat p) partStatState = 0) ∧
    t.pending = s.pending ∧ t.flashLog = s.flashLog ∧ t.recipe = s.recipe ∧ t.fuseSvn = s.fuseSvn :=
  ⟨h.jobs, h.grants, h.sessions, h.keys, h.fns, h.errLog, h.ctxs, h.vats, h.marks, h.backs, h.pcieUp, h.modNum, h.commitWait, h.aliasKey,
    h.certs, h.peek, hp.2, h.pending, h.flashLog, h.recipe, h.fuseSvn⟩

theorem State.modHeld_emptied {s : State} (hs : s.canon = true) (kind : Nat) : Emptied s (s.modHeld kind) :=
  (State.heldBase_emptied hs kind).regs (s.modHeld_regsOnly kind)

/-! ## The boot ROMs (16 R675 to R679) -/

/-- The ROMs' measurements, up to the key derived from them. -/
def State.bootMeasured (s : State) : State :=
  let fsvn := s.tick.fuseSvn
  let img := s.tick.image
  let b := [1, 2, 3].any (fun k => decide (bootCopy s.tick.flashGen fsvn k = some 1))
  let t := s.tick.wfs 0 oBondStat [(bondStatFsvn, fsvn), (bondStatImgsel, if b then 2 ^ s.tick.nDies - 1 else 0)]
  let t := t.bmrExtend 0 (romMeasure fsvn (s.tick.rf 0 oBondStat bondStatLife))
  let t := (imageMeasures t.nDies (img 1)).foldl (fun s dg => s.bmrExtend 1 dg) t
  let t := (imageMeasures 1 (img 2)).foldl (fun s dg => s.bmrExtend 2 dg) t
  (imageMeasures 1 (img 3)).foldl (fun s dg => s.bmrExtend 3 dg) t

/-- The unlock token is measured in the debug life cycle. -/
def State.tokenMeasured (s t : State) : State :=
  if s.tick.rf 0 oBondStat bondStatLife = 1 then t.bmrExtend 5 (digBytes (Config.tokenDigest s.freeCtr)) else t

theorem State.boot_fields (s : State) :
    s.boot.bmrs = (s.tokenMeasured s.bootMeasured.dice).bmrs ∧ s.boot.aliasKey = (s.tokenMeasured s.bootMeasured.dice).aliasKey ∧
    s.boot.certs = (s.tokenMeasured s.bootMeasured.dice).certs ∧ s.boot.phase = 1 := by
  obtain ⟨u, hu⟩ : ∃ u, u = s.tokenMeasured s.bootMeasured.dice := ⟨_, rfl⟩
  rw [← hu]
  unfold State.boot
  dsimp only
  split
  · rw [hu]; exact ⟨rfl, rfl, rfl, rfl⟩
  · rw [hu]; exact ⟨rfl, rfl, rfl, rfl⟩

/-- The token's measurement leaves those that the ROMs derive their key from. -/
theorem State.tokenMeasured_low {s t : State} (h : mrising t.bmrs = true) {k : Nat} (hk : k < 4) :
    mget (fun _ => 0) (s.tokenMeasured t).bmrs k = mget (fun _ => 0) t.bmrs k := by
  unfold State.tokenMeasured
  split
  · exact mget_mset_ne _ h (by omega)
  · rfl

theorem State.tokenMeasured_keys (s t : State) : (s.tokenMeasured t).aliasKey = t.aliasKey ∧ (s.tokenMeasured t).certs = t.certs := by
  unfold State.tokenMeasured
  split <;> exact ⟨rfl, rfl⟩

/-- The key `aliasKey` is of the measurements, and its certificates are of the key (16 R679). -/
theorem State.boot_aliasKey {s : State} (hs : s.canon = true) :
    s.boot.aliasKey = aliasOf ((List.range 4).map (mget (fun _ => 0) s.boot.bmrs)) ∧ s.boot.certs = certsOf s.boot.aliasKey ∧ s.boot.phase = 1 := by
  obtain ⟨hb, ha, hc, hp⟩ := s.boot_fields
  obtain ⟨hka, hkc⟩ := s.tokenMeasured_keys s.bootMeasured.dice
  have hkeeps : Keeps False s s.bootMeasured :=
    .foldl (.foldl (.foldl (Keeps.refl s).tick.wfs.bmrExtend fun _ _ h => h.bmrExtend) fun _ _ h => h.bmrExtend) fun _ _ h => h.bmrExtend
  have hr : mrising s.bootMeasured.dice.bmrs = true := (hkeeps.canon (State.canon_iff.mp hs)).bmrs
  have hlow : (List.range 4).map (mget (fun _ => 0) (s.tokenMeasured s.bootMeasured.dice).bmrs) =
      (List.range 4).map (mget (fun _ => 0) s.bootMeasured.dice.bmrs) :=
    List.map_congr_left fun k hk => State.tokenMeasured_low hr (List.mem_range.mp hk)
  rw [hb, ha, hc, hka, hkc, hlow]
  exact ⟨rfl, rfl, hp⟩

/-! ## Resets, the cut-off and a trip -/

theorem State.modHeld_phase (s : State) (kind : Nat) : (s.modHeld kind).phase = 2 ∧ (s.modHeld kind).commitRun = none := by
  have h := s.modHeld_regsOnly kind
  exact ⟨(congrArg State.phase h).trans rfl, (congrArg State.commitRun h).trans rfl⟩

theorem State.powerOff_emptied {s : State} (hs : s.canon = true) : Emptied s s.powerOff ∧ NoParts s.powerOff := by
  have he := State.modHeld_emptied hs kPOR
  have hp := State.modHeld_noParts hs (kind := kPOR) (.inl rfl)
  exact ⟨{ he with }, hp.1, hp.2⟩

/-- The registers that a power-on reset sets. -/
def State.porRegs (s : State) : State :=
  ((s.modHeld kPOR).wfs 0 oHuStat [(huStatEnergy, 9000), (huStatPgood, 1)]).wf 0 oBondStat bondStatLife (if Config.debugToken s.freeCtr then 1 else 0)

theorem State.por_eq {s : State} (h : s.trip = false) : s.por = { s.porRegs.tick with time := 0, taps := [], porSeq := true } := by
  unfold State.por
  exact if_neg (by rw [h]; exact Bool.false_ne_true)

theorem State.modReset_holds {s : State} (h : s.phase < 2) :
    s.modReset true = { (s.modHeld kMOD).wf 0 oBondStat bondStatLife (s.rf 0 oBondStat bondStatLife) with flashWait := false } := by
  have h3 : ¬ s.phase = 3 := by omega
  have h2 : ¬ s.phase = 2 := by omega
  unfold State.modReset
  refine (if_neg h3).trans ?_
  simp only [if_neg h2]
  rfl

theorem State.modReset_releases {s : State} (h : s.phase = 2) : s.modReset false = if s.flashExt then { s with flashWait := true } else s.boot := by
  unfold State.modReset
  refine (if_neg (by omega)).trans ?_
  simp only [if_pos h]
  rfl

/-- Settles O47: a reset that holds the module, the cut-off and a trip leave it emptied (`State.modHeld_emptied`) and its partitions without
state (`State.modHeld_noParts`); the boot ROMs derive `aliasKey` (`State.boot_aliasKey`). -/
theorem moduleResetsHoldAndStartTheModule : Obligations.ModuleResetsHoldAndStartTheModule := by
  intro s held tj tst ma us hs empty
  have hall : ∀ t, Emptied s t → NoParts t → empty t := fun t h hp => h.all hp
  refine ⟨fun ht => ?_, fun ht => congrArg Host.Outcome.next (if_pos ht), fun hp => ?_, fun hp hf => ?_, fun hp hf => ?_, State.boot_aliasKey hs, fun hp => congrArg Host.Outcome.next (if_pos hp),
    fun hp => ?_, fun hp => congrArg Host.Outcome.next (if_pos hp), ?_, fun hp hu hb => ?_, fun hb => ?_⟩
  · have he : Emptied s s.porRegs := (State.modHeld_emptied hs kPOR).regs (((RegsOnly.refl _).wfs ..).wf ..)
    have hn := State.modHeld_noParts hs (kind := kPOR) (.inl rfl)
    have hhu : NoParts ((s.modHeld kPOR).wfs 0 oHuStat [(huStatEnergy, 9000), (huStatPgood, 1)]) :=
      hn.setReg (fun p hp => regKey_partStat (by decide) (by decide) 0 p hp) _
    have hp : NoParts s.porRegs := hhu.setReg (fun p hp => regKey_partStat (by decide) (by decide) 0 p hp) _
    obtain ⟨h2, hc⟩ := s.modHeld_phase kPOR
    refine ⟨_, congrArg Host.Outcome.next (State.por_eq ht), hall _ { he with } ⟨hp.1, hp.2⟩, h2, hc, rfl, rfl, rfl, ?_⟩
    exact (State.rf_wf_elsewhere hhu.1 _ _ _ (by decide)).trans ((State.rf_wfs hn.1 ..).trans (getF_setF_same _ _ 1 (by decide)))
  · have he := (State.modHeld_emptied hs kMOD).regs (((RegsOnly.refl _).wf 0 oBondStat bondStatLife (s.rf 0 oBondStat bondStatLife)))
    have hn := State.modHeld_noParts hs (kind := kMOD) (.inr rfl)
    have hp' : NoParts ((s.modHeld kMOD).wf 0 oBondStat bondStatLife (s.rf 0 oBondStat bondStatLife)) :=
      hn.setReg (fun p hp => regKey_partStat (by decide) (by decide) 0 p hp) _
    refine ⟨_, congrArg Host.Outcome.next (State.modReset_holds hp), hall _ { he with } ⟨hp'.1, hp'.2⟩, (s.modHeld_phase kMOD).1, ?_, rfl⟩
    exact (State.rf_wf_same hn.1 _ _ _ _ (by decide)).trans (Nat.mod_eq_of_lt (getF_lt ..))
  · exact congrArg Host.Outcome.next ((State.modReset_releases hp).trans (if_neg (by rw [hf]; exact Bool.false_ne_true)))
  · exact congrArg Host.Outcome.next ((State.modReset_releases hp).trans (if_pos hf))
  · intro bad u w
    exact congrArg Host.Outcome.next (if_neg (not_not_intro hp))
  · obtain ⟨he, hp⟩ := State.powerOff_emptied hs
    have hp' : NoParts ({ s.powerOff with trip := false, smbAlert := false, taps := [] } : State) := ⟨hp.1, hp.2⟩
    refine ⟨_, rfl, hall _ ?_ (hp'.setReg (fun p hp => regKey_partStat (by decide) (by decide) 0 p hp) _), rfl, rfl, rfl, ?_⟩
    · exact Emptied.regs (t := { s.powerOff with trip := false, smbAlert := false, taps := [] }) { he with } ((RegsOnly.refl _).wf ..)
    · exact (State.rf_wf_same hp'.1 _ _ _ _ (by decide)).trans rfl
  · obtain ⟨he, hn⟩ := State.powerOff_emptied hs
    refine ⟨_, congrArg Host.Outcome.next (if_neg (by omega)), hall _ { he with } ⟨hn.1, hn.2⟩, rfl, rfl, rfl⟩
  · exact congrArg Host.Outcome.next (if_pos (by omega))

end Sys2Proof.Machine
end

section
/-!
PROOFS. The tun's instructions: a clause on the chunks of an aborted tag that a doubly listed channel breaks (11 R495).
-/
namespace Sys2Proof.Machine

/-- A module right after reset but for port 0 of die 0, whose receive channel 0 is listed twice: first with a chunk of tag 0 for die 0 that
waits, then with another message. -/
def twiceListedChannel : State :=
  State.reset.putPort 0 0 { rx := [(0, { msg := some { typ := mCHUNK } }), (0, { msg := some {} })] }

theorem twiceListedChannel_meets : twiceListedChannel.canon = true ∧ twiceListedChannel.hasDie 0 = true ∧
    (twiceListedChannel.rxch 0 0 0).msg = some { typ := mCHUNK } := by
  decide +kernel

theorem twiceListedChannel_tunAbort : ((twiceListedChannel.tunAbort 0 0).rxch 0 0 0).msg = some {} := by
  decide +kernel

/-- The row of TUN_ABORT_NOTICE. -/
theorem tunAbortNotice_runs {s : State} {d tag : Nat} (hd : s.hasDie d = true) (ht : tag < 256) :
    exec (.tunAbortNotice d tag) s = .next (s.tunAbort d tag) := by
  show execTunAbortNotice d tag s = _
  unfold execTunAbortNotice
  rw [if_pos (by simp [hd, ht])]

/-- Refutes O34: its clause on an abort notice says that a chunk of the tag leaves its receive channel empty. The canonical form does not
order the channels inside a port, so that `twiceListedChannel`, where channel 0 is listed twice, is canonical: the notice takes the entry of
the chunk away, and the second entry's message is then the channel's. -/
theorem not_tunInstructionsComplete : ¬ Obligations.TunInstructionsComplete := by
  intro h
  obtain ⟨hs, hd, hm⟩ := twiceListedChannel_meets
  obtain ⟨_, _, _, _, habort, _⟩ := h twiceListedChannel 0 0 0 0 0 0 hd hd (by decide) (by decide) (by decide)
  rw [tunAbortNotice_runs hd (by decide)] at habort
  obtain ⟨t, ht, _, _, _, _, _, hchunks, _⟩ := habort hs
  cases ht
  have hempty := hchunks 0 0 0 (by decide) (by decide)
  rw [hm, twiceListedChannel_tunAbort] at hempty
  exact absurd hempty (by decide)

end Sys2Proof.Machine
end

section
/-!
PROOFS. Warm, partition, function and island resets (17 R723–R725; 00 R19).
-/
namespace Sys2Proof.Machine

/-! ## Requests that a reset absorbs (00 R19) -/

/-- A function whose waiting RESET of kind lo or lesser a reset absorbs, the function f's own excepted. -/
def Fn.absorbed (x : Fn) (lo f g : Nat) : Fn :=
  match x.cur with
  | none => x
  | some p => if g ≠ f ∧ p.opc = 5 ∧ x.stage = 0 ∧ lo ≤ p.n 16 1 then { x with cur := none } else x

theorem Fn.absorbed_waiting {x : Fn} {lo f g : Nat} {q : Pkt} (hc : x.cur = some q) (hg : g ≠ f) (ho : q.opc = 5) (hs : x.stage = 0)
    (hlo : lo ≤ q.n 16 1) : x.absorbed lo f g = { x with cur := none } := by
  rw [Fn.absorbed, hc]
  exact if_pos ⟨hg, ho, hs, hlo⟩

theorem Fn.absorbed_other {x : Fn} {lo f g : Nat}
    (h : x.cur = none ∨ (∃ q, x.cur = some q ∧ (q.opc ≠ 5 ∨ x.stage ≠ 0 ∨ q.n 16 1 < lo)) ∨ g = f) : x.absorbed lo f g = x := by
  unfold Fn.absorbed
  split
  · rfl
  · next p hp =>
    refine if_neg fun ⟨hg, ho, hs, hlo⟩ => ?_
    rcases h with hn | ⟨q, hq, hcase⟩ | rfl
    · cases hn.symm.trans hp
    · cases hq.symm.trans hp
      omega
    · exact hg rfl

/-- The step of `State.absorb` at function g. -/
def State.absorbAt (lo f : Nat) (s : State) (g : Nat) : State :=
  match (s.fn g).cur with
  | none => s
  | some p => if g ≠ f ∧ p.opc = 5 ∧ (s.fn g).stage = 0 ∧ lo ≤ p.n 16 1 then s.putFn g { s.fn g with cur := none } else s

section
variable {s : State} {lo f : Nat}

theorem State.absorb_eq : s.absorb lo f = (List.range 9).foldl (State.absorbAt lo f) s := rfl

theorem State.absorbAt_cases (g : Nat) : s.absorbAt lo f g = s.putFn g ((s.fn g).absorbed lo f g) ∨
    s.absorbAt lo f g = s ∧ (s.fn g).absorbed lo f g = s.fn g := by
  unfold State.absorbAt Fn.absorbed
  split
  · exact .inr ⟨rfl, rfl⟩
  · split
    · exact .inl rfl
    · exact .inr ⟨rfl, rfl⟩

theorem State.absorbAt_rising (h : mrising s.fns = true) (g : Nat) : mrising (s.absorbAt lo f g).fns = true := by
  rcases State.absorbAt_cases (s := s) (lo := lo) (f := f) g with he | ⟨he, -⟩
  · rw [he]; exact mrising_mset _ _ h
  · rw [he]; exact h

theorem State.absorbAt_same (h : mrising s.fns = true) (g : Nat) : (s.absorbAt lo f g).fn g = (s.fn g).absorbed lo f g := by
  rcases State.absorbAt_cases (s := s) (lo := lo) (f := f) g with he | ⟨he, ha⟩
  · rw [he, State.fn_same h]
  · rw [he, ha]

theorem State.absorbAt_ne (h : mrising s.fns = true) {g k : Nat} (hk : k ≠ g) : (s.absorbAt lo f g).fn k = s.fn k := by
  rcases State.absorbAt_cases (s := s) (lo := lo) (f := f) g with he | ⟨he, -⟩
  · rw [he, State.fn_ne h _ hk]
  · rw [he]

theorem State.absorb_fn_outside (h : mrising s.fns = true) {l : List Nat} {k : Nat} (hk : k ∉ l) :
    (l.foldl (State.absorbAt lo f) s).fn k = s.fn k := by
  induction l generalizing s with
  | nil => rfl
  | cons g l ih =>
    rw [List.mem_cons, not_or] at hk
    exact (ih (State.absorbAt_rising h g) hk.2).trans (State.absorbAt_ne h hk.1)

theorem State.absorb_fn_inside (h : mrising s.fns = true) {l : List Nat} (hl : l.Nodup) {k : Nat} (hk : k ∈ l) :
    (l.foldl (State.absorbAt lo f) s).fn k = (s.fn k).absorbed lo f k := by
  induction l generalizing s with
  | nil => cases hk
  | cons g l ih =>
    obtain ⟨hg, hl⟩ := List.nodup_cons.mp hl
    rcases List.mem_cons.mp hk with rfl | hk
    · exact (State.absorb_fn_outside (State.absorbAt_rising h k) hg).trans (State.absorbAt_same h k)
    · refine (ih (State.absorbAt_rising h g) hl hk).trans ?_
      have hne : k ≠ g := fun he => hg (he ▸ hk)
      rw [State.absorbAt_ne h hne]

theorem State.absorb_fn (h : mrising s.fns = true) {g : Nat} (hg : g < 9) : (s.absorb lo f).fn g = (s.fn g).absorbed lo f g :=
  State.absorb_fn_inside h List.nodup_range (List.mem_range.mpr hg)

theorem State.absorb_frame : s.absorb lo f = { s with fns := (s.absorb lo f).fns } := by
  rw [State.absorb_eq]
  generalize List.range 9 = l
  induction l generalizing s with
  | nil => rfl
  | cons g l ih =>
    rcases State.absorbAt_cases (s := s) (lo := lo) (f := f) g with he | ⟨he, -⟩
    · rw [List.foldl_cons, he]; exact ih.trans rfl
    · rw [List.foldl_cons, he]; exact ih

end

/-! ## The warm reset (17 R723, R726) -/

/-- The module with its commands cancelled and its jobs ended, as a warm reset finds it. -/
def State.halted (s : State) : State := ((s.cancelAll (fun _ => true) true).stopJobs (fun _ => true) 0xB).dropWaiting

/-- What a warm reset leaves before its registers start anew. -/
def State.wrmBase (s : State) : State :=
  let t := s.zeroWhere (fun n o => s.wrmZero n o)
  let t := { t.clearUnits true with ports := t.ports.map (fun (e : Nat × Port) => (e.1, { e.2 with stopped := [] })) }
  { t.restore kWRM (fun _ _ _ _ => true) with keyCtr := t.keyCtr + 1, fwKey := t.keyCtr + 1 }

/-- What a warm reset leaves before the recipe is applied. -/
def State.wrmCleared (s : State) : State :=
  (List.range s.wrmBase.plimReset.nDies).foldl (fun s d => (List.range 5).foldl (fun s t => s.wf d (oSlotCtl t) slotCtlSwap 1) s) s.wrmBase.plimReset

theorem State.wrm_eq (s : State) : s.wrm = s.halted.wrmCleared.applyStored.levelSet := rfl

/-- The end of every command and job gives the module no number and takes no cellar key. -/
theorem State.halted_ids (s : State) : s.halted.modNum = s.modNum ∧ s.halted.keyCtr = s.keyCtr :=
  ((Keeps.refl (P := True) s).cancelAll.stopJobs.dropWaiting).ids trivial

theorem State.wrmCleared_regsOnly (s : State) : RegsOnly s.wrmBase s.wrmCleared :=
  RegsOnly.foldl ((RegsOnly.refl _).wf ..) fun _ _ hu => hu.foldl fun _ _ hu => hu.wf ..

/-- The module as a warm reset empties it: what remains of s but registers, functions and books. -/
structure Warmed (s t : State) : Prop where
  jobs : t.jobs = []
  ctxs : t.ctxs = []
  vats : t.vats = []
  grants : t.grants = []
  keys : t.keys = []
  sessions : t.sessions = []
  tslots : t.tslots = []
  rackqs : t.rackqs = []
  peek : ∀ r o, 16 ≤ r.num → t.peek r o = 0
  modNum : t.modNum = s.modNum
  keyCtr : t.keyCtr = s.keyCtr + 1
  fwKey : t.fwKey = t.keyCtr
  backs : t.backs = []

/-- A key that a filter keeps in no entry reads as unlisted. -/
theorem mget_filter_none {α : Type} {d : Nat → α} {m : SMap α} {p : Nat × α → Bool} {k : Nat} (hp : ∀ x, p (k, x) = false) :
    mget d (m.filter p) k = d k := by
  rw [mget]
  cases hf : mfind (m.filter p) k with
  | none => rfl
  | some x => exact absurd ((List.mem_filter.mp (mem_of_mfind hf)).2) (by rw [hp]; exact Bool.false_ne_true)

theorem State.wrmBase_warmed (s : State) : Warmed s s.wrmBase where
  jobs := rfl
  ctxs := rfl
  vats := rfl
  grants := rfl
  keys := rfl
  sessions := rfl
  tslots := rfl
  rackqs := rfl
  peek r o hr := by
    have hn : r.loc o / 2 ^ 64 = r.num := by unfold Region.loc; omega
    have hmem : s.wrmBase.mem = s.mem.filter (fun c => ! s.wrmZero (c.1 / 2 ^ 64) (c.1 % 2 ^ 64)) := rfl
    rw [State.peek, hmem]
    refine mget_filter_none fun x => ?_
    rw [hn, State.wrmZero, decide_eq_true (show r.num ≠ 0 by omega), decide_eq_true hr]
    rfl
  modNum := rfl
  keyCtr := rfl
  fwKey := rfl
  backs := rfl

theorem Warmed.regs {s t u : State} (h : Warmed s t) (hu : RegsOnly t u) : Warmed s u := by
  obtain ⟨x, hx⟩ : ∃ x, u = { t with regs := x } := ⟨_, hu⟩
  subst hx
  exact { h with }

/-- The module's number and the cellar keys' are those before the halt. -/
theorem Warmed.before {s t u : State} (h : Warmed t u) (hi : t.modNum = s.modNum ∧ t.keyCtr = s.keyCtr) : Warmed s u :=
  { h with modNum := h.modNum.trans hi.1, keyCtr := h.keyCtr.trans (congrArg (· + 1) hi.2) }

theorem State.wrmCleared_warmed (s : State) : Warmed s s.wrmCleared := s.wrmBase_warmed.regs s.wrmCleared_regsOnly

theorem State.wrm_warmed (s : State) : ∃ u : State, s.wrm = u.applyStored.levelSet ∧ Warmed s u :=
  ⟨_, s.wrm_eq, s.halted.wrmCleared_warmed.before s.halted_ids⟩

/-! ## The reset of a vat's island (17 R725, 02 R101) -/

theorem Beside.vats {s t : State} (h : Beside s t) : t.vats = s.vats := Eq.trans (congrArg State.vats h) rfl

theorem State.rouse_vats (s : State) (d c st : Nat) : (s.rouse d c st).vats = s.vats := by
  unfold State.rouse
  split
  · unfold State.unrest
    dsimp only
    split <;> rfl
  · rfl

theorem State.ctxTo_vats (s : State) (d c : Nat) (x : Ctx) : (s.ctxTo d c x).vats = s.vats := by
  unfold State.ctxTo State.ctxFull
  dsimp only
  split
  · exact ((Beside.refl _).write ..).vats.trans (State.rouse_vats ..)
  · exact ((Beside.refl _).write ..).vats.trans (State.rouse_vats ..)

theorem freeAll_vats (s : State) (l : List (Nat × Nat)) : (freeAll s l).vats = s.vats := by
  induction l generalizing s with
  | nil => rfl
  | cons p l ih => exact (ih _).trans (State.ctxTo_vats ..)

/-- A context that is FREE, or that is listed, is FREE once every listed one is freed. -/
theorem freeAll_free {s : State} (h : mrising s.ctxs = true) {l : List (Nat × Nat)} {e u : Nat}
    (hl : (e, u) ∈ l ∨ (s.ctx e u).state = cFREE) : ((freeAll s l).ctx e u).state = cFREE := by
  induction l generalizing s with
  | nil => exact hl.resolve_left List.not_mem_nil
  | cons p l ih =>
    obtain ⟨d, c⟩ := p
    refine ih (State.ctxTo_ctxs_rising h ..) ?_
    by_cases hk : e * 25600 + u = d * 25600 + c
    · refine .inr ?_
      have hctx : (s.ctxTo d c {}).ctx e u = (s.ctxTo d c {}).ctx d c := congrArg (mget ctxDefault _) hk
      rw [hctx, State.ctx_ctxTo_same h]
      rfl
    · rw [State.ctx_ctxTo_ne h _ _ _ hk]
      exact hl.imp_left fun hm => (List.mem_cons.mp hm).resolve_left fun he => hk (by cases he; rfl)

/-- Every context of a range is FREE once the range is freed. -/
theorem State.freeCtxs_free {s : State} (h : mrising s.ctxs = true) {d lo n c : Nat} (hlo : lo ≤ c) (hn : c < lo + n) (hc : c < 25600) :
    ((s.freeCtxs d lo n).ctx d c).state = cFREE := by
  refine freeAll_free h ?_
  cases hf : mfind s.ctxs (d * 25600 + c) with
  | none =>
    refine .inr ?_
    rw [State.ctx, mget, hf]
    rfl
  | some x =>
    refine .inl (List.mem_map.mpr ⟨_, List.mem_filter.mpr ⟨mem_of_mfind hf, ?_⟩, ?_⟩)
    · have hd : (d * 25600 + c) / 25600 = d := by omega
      have hm : (d * 25600 + c) % 25600 = c := by omega
      simp [hd, hm, hlo, hn]
    · rw [show (d * 25600 + c) % 25600 = c by omega]

theorem State.islLinks_ctxs (s : State) (d v : Nat) : (s.islLinks d v).ctxs = s.ctxs := by
  unfold State.islLinks
  dsimp only
  split_ifs <;> rfl

/-- Vat v emptied, and the links around it. -/
def State.vatEmptied (s : State) (d v : Nat) : State :=
  let x := (s.islLinks d v).vat d v
  (s.islLinks d v).putVat d v
    { tallyEnt := x.tallyEnt, undef0 := x.undef0, undef1 := x.undef1, wrote0 := x.wrote0, wrote1 := x.wrote1, seq := x.seq }

theorem State.vatEmptied_canon {s : State} (hs : s.canon = true) (d v : Nat) : (s.vatEmptied d v).canon = true :=
  State.canon_iff.mpr ((Keeps.refl (P := True) s).islLinks.putVat.canon (State.canon_iff.mp hs))

theorem State.vatEmptied_vat {s : State} (hs : s.canon = true) (d v : Nat) :
    ((s.vatEmptied d v).vat d v).mashQ = [] ∧ ((s.vatEmptied d v).vat d v).passes = [] ∧ ((s.vatEmptied d v).vat d v).bank0 = bRELEASED := by
  have hl : (s.islLinks d v).canon = true := State.canon_iff.mpr ((Keeps.refl (P := True) s).islLinks.canon (State.canon_iff.mp hs))
  unfold State.vatEmptied
  rw [State.vat_same (State.canon_vats hl)]
  exact ⟨rfl, rfl, rfl⟩

/-- The reset of a vat's island empties it, frees its contexts, and resets its registers. -/
theorem State.islVat_eq (s : State) (d v : Nat) : s.islVat d v = ((s.vatEmptied d v).freeCtxs d (1024 * v) 1024).restore kISL
    (fun e r i _ => decide (e = d) && decide (r.isl = Isl.vat) && decide (i = v)) := rfl

theorem State.restore_ctx (s : State) (kind : Nat) (scope : Nat → RegInfo → Nat → Nat → Bool) (e u : Nat) :
    (s.restore kind scope).ctx e u = s.ctx e u := rfl

theorem State.restore_vat (s : State) (kind : Nat) (scope : Nat → RegInfo → Nat → Nat → Bool) (e u : Nat) :
    (s.restore kind scope).vat e u = s.vat e u := rfl

/-- Vat v's island as its reset leaves it. -/
theorem State.islVat_fresh {s : State} (hs : s.canon = true) {d v : Nat} (hv : v < 16) :
    ((s.islVat d v).vat d v).mashQ = [] ∧ ((s.islVat d v).vat d v).passes = [] ∧ ((s.islVat d v).vat d v).bank0 = bRELEASED ∧
    ∀ c, c < 1024 → ((s.islVat d v).ctx d (1024 * v + c)).state = cFREE := by
  have hvat : (s.islVat d v).vat d v = (s.vatEmptied d v).vat d v := by
    rw [State.islVat_eq, State.restore_vat]
    exact congrArg (mget vatDefault · (d * 16 + v)) (freeAll_vats ..)
  obtain ⟨hq, hp, hb⟩ := State.vatEmptied_vat hs d v
  refine ⟨hvat ▸ hq, hvat ▸ hp, hvat ▸ hb, fun c hc => ?_⟩
  rw [State.islVat_eq, State.restore_ctx]
  exact State.freeCtxs_free (State.canon_ctxs (State.vatEmptied_canon hs d v)) (Nat.le_add_right ..) (by omega) (by omega)

/-! ## The rows -/

section
variable {s : State} {f : Nat} {k : Pkt}

theorem exec_reset (h : s.hostRuns f 5 k) : exec (.reset f) s = .next
    (if k.n 16 1 = 2 then (s.absorb 2 f).wrm.endCmd f 0 0 0
    else if k.n 16 1 = 3 then
      (if 7 < k.n 17 1 then s.endCmd f 0x20 0 0 else if s.outranked 3 f then s.putFn f { s.fn f with cur := none }
        else ((s.absorb 4 f).prt (k.n 17 1)).endCmd f 0 0 0)
    else if ! s.hasDie (k.n 18 1) ∨ ! islOk (k.n 19 1) then s.endCmd f 0x20 0 0
    else if s.dieInJob (k.n 18 1) then s.endCmd f 0x34 0 0
    else if s.outranked 4 f then s.putFn f { s.fn f with cur := none }
    else (s.isl (k.n 18 1) (k.n 19 1)).endCmd f 0 0 0) := by
  show execReset f s = _
  unfold execReset
  exact hostRow_runs h

/-- A RESET of an island. -/
theorem exec_reset_island (h : s.hostRuns f 5 k) (hk : k.n 16 1 = 4) (hd : s.hasDie (k.n 18 1) = true) (hi : islOk (k.n 19 1) = true) :
    exec (.reset f) s = .next (if s.dieInJob (k.n 18 1) then s.endCmd f 0x34 0 0
      else if s.outranked 4 f then s.putFn f { s.fn f with cur := none } else (s.isl (k.n 18 1) (k.n 19 1)).endCmd f 0 0 0) := by
  rw [exec_reset h, if_neg (by omega), if_neg (by omega), if_neg (by simp [hd, hi])]

theorem exec_warmReset (h : s.awake = true) : exec .warmReset s = .next (s.absorb 2 9).wrm := by
  show execWarmReset s = _
  rw [execWarmReset, if_pos h]

theorem exec_pcieHotReset (h : s.awake = true) : exec .pcieHotReset s = .next (s.absorb 2 9).wrm := by
  show execPcieHotReset s = _
  rw [execPcieHotReset, if_pos h]

theorem exec_flrPf (h : s.awake = true) : exec .flrPf s = .next ((s.absorb 2 9).wrm.flrRing 0) := by
  show execFlrPf s = _
  rw [execFlrPf, if_pos h]

theorem exec_partitionReset (h : s.awake = true) {p : Nat} (hp : p < 8) :
    exec (.partitionReset p) s = .next (if s.outranked 3 9 then s else (s.absorb 4 9).prt p) := by
  show execPartitionReset p s = _
  rw [execPartitionReset, if_pos hp, h]
  cases s.outranked 3 9 <;> rfl

theorem exec_flrVf (h : s.awake = true) {p : Nat} (hp : p < 8) : exec (.flrVf p) s = .next (if s.exposed (p + 1) then
    (if s.outranked 3 (p + 1) then s else (s.absorb 4 9).prt p).flrRing (p + 1) else s) := by
  show execFlrVf p s = _
  rw [execFlrVf, if_pos hp, h]
  cases s.exposed (p + 1) <;> rfl

theorem exec_islandReset (h : s.awake = true) {d i : Nat} (hd : s.hasDie d = true) (hi : islOk i = true) :
    exec (.islandReset d i) s = .next (if s.outranked 4 9 then s else s.isl d i) := by
  show execIslandReset d i s = _
  rw [execIslandReset, hd, h, hi]
  cases s.outranked 4 9 <;> rfl

end

/-- Settles O48: each reset is its row; what the warm reset and the reset of a vat leave is read off their parts. -/
theorem warmPartitionAndIslandResetsAct : Obligations.WarmPartitionAndIslandResetsAct := by
  intro s p d i f k hphase hp hd hi
  have hawake : s.awake = true := decide_eq_true hphase
  have hprt := exec_partitionReset hawake hp
  have hflr := exec_flrVf hawake hp
  have hisl := exec_islandReset hawake hd hi
  refine ⟨exec_warmReset hawake, exec_pcieHotReset hawake, exec_flrPf hawake, fun ho => ?_, fun ho => ?_, fun he ho => ?_, fun he ho => ?_,
    fun he => ?_, fun ho => ?_, fun ho => ?_, fun h => ?_, fun lo g hs hg => ?_, ?_, fun hs hv => ?_, fun hs => ?_⟩
  · rw [hprt, ho]; rfl
  · rw [hprt, ho]; rfl
  · rw [hflr, he, ho]; rfl
  · rw [hflr, he, ho]; rfl
  · rw [hflr, he]; rfl
  · rw [hisl, ho]; rfl
  · rw [hisl, ho]; rfl
  · have hrow := exec_reset h
    refine ⟨fun hk => ?_, fun hk hq ho => ?_, fun hk hq ho => ?_, fun hk hq => ?_, fun hk hkd hki hj => ?_, fun hk hkd hki hj ho => ?_,
      fun hk hkd hki hj ho => ?_⟩
    · rw [hrow, if_pos hk]
    · rw [hrow, if_neg (by omega), if_pos hk, if_neg (by omega), if_neg (by simp [ho]), hq]
    · rw [hrow, if_neg (by omega), if_pos hk, if_neg (by omega), if_pos ho]
    · rw [hrow, if_neg (by omega), if_pos hk, if_pos hq]
    · rw [exec_reset_island h hk (hkd ▸ hd) (hki ▸ hi), hkd, if_pos hj]
    · rw [exec_reset_island h hk (hkd ▸ hd) (hki ▸ hi), hkd, hki, if_neg (by simp [hj]), if_neg (by simp [ho])]
    · rw [exec_reset_island h hk (hkd ▸ hd) (hki ▸ hi), hkd, if_neg (by simp [hj]), if_pos ho]
  · have hfn := State.absorb_fn (lo := lo) (f := f) (State.canon_fns hs) hg
    exact ⟨fun q hc hgf hop hst hlo => hfn.trans (Fn.absorbed_waiting hc hgf hop hst hlo), fun h => hfn.trans (Fn.absorbed_other h),
      State.absorb_frame⟩
  · obtain ⟨u, hu, hw⟩ := s.wrm_warmed
    exact ⟨u, hu, hw.jobs, hw.ctxs, hw.vats, hw.grants, hw.keys, hw.sessions, hw.tslots, hw.rackqs, hw.peek, hw.modNum, hw.keyCtr,
      hw.fwKey, hw.backs⟩
  · have hwake : (s.unrest d i).canon = true := State.canon_iff.mpr ((Keeps.refl (P := True) s).unrest.canon (State.canon_iff.mp hs))
    rw [State.isl, if_pos hv]
    exact State.islVat_fresh hwake hv
  · exact ⟨State.fn_same (State.canon_fns hs) f {}, fun g hg => State.fn_ne (State.canon_fns hs) {} hg⟩

end Sys2Proof.Machine
end

section
/-!
PROOFS. Register access follows its fields (19 R757–R773).
-/
namespace Sys2Proof.Machine

/-! ## Words of a register value -/

theorem testBit_bits (n lo w i : Nat) : (bits n lo w).testBit i = (decide (i < w) && n.testBit (lo + i)) := by
  rw [bits, Nat.testBit_mod_two_pow, Nat.testBit_div_two_pow, Nat.add_comm i lo]

theorem wordBits_two_pow {k : Nat} (hk : k < 4) : wordBits (2 ^ k) = BitVec.ofNat 256 (2 ^ 64 - 1) <<< (64 * k) := by
  interval_cases k <;> decide +kernel

/-- The mask of one word has every bit of that word. -/
theorem getLsbD_wordBits {k i : Nat} (hk : k < 4) (hi : i < 64) : (wordBits (2 ^ k)).getLsbD (64 * k + i) = true := by
  rw [wordBits_two_pow hk, BitVec.getLsbD_shiftLeft, BitVec.getLsbD_ofNat, Nat.add_sub_cancel_left, Nat.testBit_two_pow_sub_one]
  simp only [hi, decide_true, Bool.and_true, Nat.not_lt.mpr (Nat.le_add_right (64 * k) i), decide_false, Bool.not_false]
  simp only [show 64 * k + i < 256 by omega, show i < 256 by omega, decide_true, Bool.and_self]

section
variable {k lo w : Nat} (hk : k < 4) (hw : lo + w ≤ 64) (o v : RegWord)
include hk hw

/-- Within the words written, a merge has the bits that are written. -/
theorem bits_mergeWords : bits (mergeWords o v (2 ^ k)).toNat (64 * k + lo) w = bits v.toNat (64 * k + lo) w := by
  refine Nat.eq_of_testBit_eq fun i => ?_
  rw [testBit_bits, testBit_bits]
  by_cases hi : i < w
  · have hm := getLsbD_wordBits hk (show lo + i < 64 by omega)
    rw [← Nat.add_assoc] at hm
    have hlt : 64 * k + lo + i < 256 := by omega
    rw [BitVec.testBit_toNat, BitVec.testBit_toNat, mergeWords, BitVec.getLsbD_or, BitVec.getLsbD_and, BitVec.getLsbD_and,
      BitVec.getLsbD_not, hm]
    simp only [Bool.and_true, Bool.not_true, Bool.and_false, Bool.or_false]
  · simp only [hi, decide_false, Bool.false_and]

theorem bits_masked : bits (v &&& wordBits (2 ^ k)).toNat (64 * k + lo) w = bits v.toNat (64 * k + lo) w := by
  refine Nat.eq_of_testBit_eq fun i => ?_
  rw [testBit_bits, testBit_bits]
  by_cases hi : i < w
  · have hm := getLsbD_wordBits hk (show lo + i < 64 by omega)
    rw [← Nat.add_assoc] at hm
    rw [BitVec.testBit_toNat, BitVec.testBit_toNat, BitVec.getLsbD_and, hm, Bool.and_true]
  · simp only [hi, decide_false, Bool.false_and]

end

/-- A word put in its place reads back. -/
theorem bits_ofNat_word {k : Nat} (hk : k < 4) (v : Nat) : bits (BitVec.ofNat 256 (v % 2 ^ 64 * 2 ^ (64 * k))).toNat (64 * k) 64 = v % 2 ^ 64 := by
  have hlt : v % 2 ^ 64 * 2 ^ (64 * k) < 2 ^ 256 := by
    calc v % 2 ^ 64 * 2 ^ (64 * k) < 2 ^ 64 * 2 ^ (64 * k) := Nat.mul_lt_mul_of_pos_right (Nat.mod_lt _ (by decide)) (Nat.two_pow_pos _)
      _ = 2 ^ (64 + 64 * k) := (Nat.pow_add ..).symm
      _ ≤ 2 ^ 256 := Nat.pow_le_pow_right (by decide) (by omega)
  rw [BitVec.toNat_ofNat, Nat.mod_eq_of_lt hlt, bits, Nat.mul_div_cancel _ (Nat.two_pow_pos _), Nat.mod_mod]

/-! ## What a write gives a field (19 R760) -/

theorem fieldWrite_lt {f : Fld} {o n : Nat} (ho : o < 2 ^ f.w) (hn : n < 2 ^ f.w) : fieldWrite f o n < 2 ^ f.w := by
  unfold fieldWrite
  split
  · unfold rwValue
    split
    · exact (Nat.and_le_left).trans_lt hn
    · split
      · exact ho
      · exact hn
  · exact (Nat.sub_le ..).trans_lt ho
  · exact Nat.or_lt_two_pow ho hn
  · exact ho

/-- The value that a write of words m of v gives a field open to it. -/
def fieldGets (old v : RegWord) (m : Nat) (f : Fld) : Nat :=
  fieldWrite f (getF old f) (if f.acc = .rw then getF (mergeWords old v m) f else writtenF v m f)

theorem fieldGets_lt (old v : RegWord) (m : Nat) (f : Fld) : fieldGets old v m f < 2 ^ f.w := by
  refine fieldWrite_lt (getF_lt ..) ?_
  split
  · exact getF_lt ..
  · exact getF_lt ..

theorem applyFields_eq (q : Requester) (r : RegInfo) (old v : RegWord) (m : Nat) :
    applyFields q r old v m = putFields (fieldOpen q r) (fieldGets old v m) r.flds old := rfl

theorem getF_applyFields {q : Requester} {r : RegInfo} (hr : fieldsOk r.flds = true) {f : Fld} (hf : f ∈ r.flds) (old v : RegWord) (m : Nat) :
    getF (applyFields q r old v m) f = if fieldOpen q r f = true then fieldGets old v m f else getF old f := by
  rw [applyFields_eq, getF_putFields hr hf, Nat.mod_eq_of_lt (fieldGets_lt ..)]

/-- A field of a register of one word gets its bits of the word written. -/
theorem fieldGets_oneWord {f : Fld} (hf : f.lo + f.w ≤ 64) (old : RegWord) (v : Nat) :
    fieldGets old (BitVec.ofNat 256 (v % 2 ^ 64)) 1 f = fieldWrite f (getF old f) (bits (v % 2 ^ 64) f.lo f.w) := by
  have hv : (BitVec.ofNat 256 (v % 2 ^ 64)).toNat = v % 2 ^ 64 := by
    rw [BitVec.toNat_ofNat]
    exact Nat.mod_eq_of_lt ((Nat.mod_lt v (by decide : 0 < 2 ^ 64)).trans (by decide))
  have hm := bits_mergeWords (k := 0) (by decide) hf old (BitVec.ofNat 256 (v % 2 ^ 64))
  have hw := bits_masked (k := 0) (by decide) hf (BitVec.ofNat 256 (v % 2 ^ 64))
  rw [Nat.mul_zero, Nat.zero_add, hv, Nat.pow_zero] at hm hw
  simp only [fieldGets, writtenF, getF, hm, hw, ite_self]

/-! ## The places of the registers (19 R768) -/

/-- The offset at which the last copy of a register lies. -/
def RegInfo.last (r : RegInfo) : Nat := r.off + (r.n1 - 1) * r.s1 + (r.n2 - 1) * r.s2

theorem RegInfo.at_le_last {r : RegInfo} {i j : Nat} (hi : i < r.n1) (hj : j < r.n2) : r.at i j ≤ r.last := by
  unfold RegInfo.at RegInfo.last
  have := Nat.mul_le_mul_right r.s1 (show i ≤ r.n1 - 1 by omega)
  have := Nat.mul_le_mul_right r.s2 (show j ≤ r.n2 - 1 by omega)
  omega

theorem RegInfo.off_le_at (r : RegInfo) (i j : Nat) : r.off ≤ r.at i j := by
  unfold RegInfo.at
  omega

theorem regMap_within : regMap.all (fun r => decide (r.last < 2 ^ 23)) = true := by decide +kernel

theorem regMap_rest : regMap.all (fun r => decide (r.off = 0x170000) || decide (0x170000 < r.off) || decide (r.last < 0x170000)) = true := by
  decide +kernel

theorem regMap_rest_kept : regMap.all (fun r => decide (r.off ≠ 0x170000) || r.flds.all (fun f => decide (f.acc ≠ .rc))) = true := by
  decide +kernel

theorem regMap_poweredOff : regMap.all (fun r => ! r.isl.poweredOff || decide (r.last < oPwrStat)) = true := by decide +kernel

theorem regMap_oneWord : regMap.all (fun r => decide (8 < r.bytes) || r.flds.all (fun f => decide (f.lo + f.w ≤ 64))) = true := by
  decide +kernel

/-- What an access in its form reaches. -/
structure Reached (r : RegInfo) (i j k : Nat) : Prop where
  mem : r ∈ regMap
  fst : i < r.n1
  snd : j < r.n2
  word : r.bytes ≤ 32 → k < 4

theorem RegInfo.inst_spec {r : RegInfo} {o i j : Nat} (h : r.inst o = some (i, j)) : i < r.n1 ∧ j < r.n2 ∧ o - r.at i j < r.bytes := by
  unfold RegInfo.inst at h
  dsimp only at h
  rw [Option.ite_none_left_eq_some, Option.ite_none_right_eq_some] at h
  obtain ⟨-, ⟨hi, hj, hb, he⟩, h⟩ := h
  obtain ⟨rfl, rfl⟩ := Prod.mk.inj (Option.some.inj h)
  exact ⟨hi, hj, by omega⟩

theorem reached_of_regAt {d o w i j k : Nat} {r : RegInfo} (h : regAt d o w = some (r, i, j, k)) : Reached r i j k := by
  unfold regAt at h
  split at h
  · cases h
  · next r' i' j' hr =>
    obtain ⟨hmem, hinst⟩ := mem_regMap_of_regOf hr
    obtain ⟨hi, hj, hb⟩ := RegInfo.inst_spec hinst
    dsimp only at h
    split_ifs at h <;> cases h <;> exact ⟨hmem, hi, hj, fun _ => by omega⟩

section
variable {r : RegInfo} {i j k : Nat} (h : Reached r i j k)
include h

theorem Reached.fieldsOk : fieldsOk r.flds = true := List.all_eq_true.mp regMap_fieldsOk r h.mem

theorem Reached.at_le : r.at i j ≤ r.last := RegInfo.at_le_last h.fst h.snd

theorem Reached.at_lt : r.at i j < 2 ^ 23 := h.at_le.trans_lt (of_decide_eq_true (List.all_eq_true.mp regMap_within r h.mem))

theorem Reached.at_ne_rest (hr : r.off ≠ 0x170000) : r.at i j ≠ oIslRest := by
  have hm := List.all_eq_true.mp regMap_rest r h.mem
  simp only [Bool.or_eq_true, decide_eq_true_eq] at hm
  have := h.at_le
  have := r.off_le_at i j
  unfold oIslRest
  omega

theorem Reached.not_rc (hr : r.off = 0x170000) {f : Fld} (hf : f ∈ r.flds) : f.acc ≠ .rc := by
  have hm := List.all_eq_true.mp regMap_rest_kept r h.mem
  simp only [hr, ne_eq, not_true_eq_false, decide_false, Bool.false_or] at hm
  exact of_decide_eq_true (List.all_eq_true.mp hm f hf)

theorem Reached.at_lt_pwrStat (hr : r.isl.poweredOff = true) : r.at i j < oPwrStat := by
  have hm := List.all_eq_true.mp regMap_poweredOff r h.mem
  simp only [hr, Bool.not_true, Bool.false_or, decide_eq_true_eq] at hm
  exact h.at_le.trans_lt hm

theorem Reached.oneWord (hb : r.bytes ≤ 8) {f : Fld} (hf : f ∈ r.flds) : f.lo + f.w ≤ 64 := by
  have hm := List.all_eq_true.mp regMap_oneWord r h.mem
  simp only [Nat.not_lt.mpr hb, decide_false, Bool.false_or] at hm
  exact of_decide_eq_true (List.all_eq_true.mp hm f hf)

end

/-! ## An island that an access wakes (19 R765) -/

theorem RegsOnly.unrest {s t : State} (h : RegsOnly s t) (d i : Nat) : RegsOnly s (t.unrest d i) := by
  unfold State.unrest
  dsimp only
  split
  · exact h.wf ..
  · exact h

theorem regKey_inj {d o e u : Nat} (ho : o < 2 ^ 23) (hu : u < 2 ^ 23) (h : regKey e u = regKey d o) : (e, u) = (d, o) := by
  unfold regKey at h
  exact Prod.ext (by omega) (by omega)

/-- Of the registers the count of a tracker reads the partitions of tags alone. -/
theorem State.trkInuse_regs {s : State} {x : SMap RegWord} {d : Nat}
    (h : ∀ tag, tag < 256 → State.jobPart { s with regs := x } d tag = s.jobPart d tag) :
    State.trkInuse { s with regs := x } d = s.trkInuse d := by
  have hheld : ∀ p, State.heldOf { s with regs := x } d p = s.heldOf d p := fun p => by
    refine congrArg (sumBy · _) (funext fun i => ?_)
    have hp := h (s.peek (.ctx d) (ledOff i + 6)).toNat (BitVec.isLt _)
    exact congrArg (fun a => if s.peekN (.ctx d) (ledOff i + 47) 3 = 0 then 0 else if a = p then s.peekN (.ctx d) (ledOff i + 47) 3 else 0) hp
  exact congrArg (sumBy · _) (funext fun p => congrArg (_ + ·) (hheld p))

section
variable {s : State} {d i : Nat} (h : mrising s.regs = true)
include h

/-- The registers of another place than one that is written. -/
theorem State.setReg_elsewhere {o e u : Nat} (v : RegWord) (ho : o < 2 ^ 23) (hu : u < 2 ^ 23) (hne : (e, u) ≠ (d, o)) :
    (s.setReg d o v).reg e u = s.reg e u := State.reg_ne h v fun hk => hne (regKey_inj ho hu hk)

theorem State.unrest_regs_rising : mrising (s.unrest d i).regs = true := by
  unfold State.unrest
  dsimp only
  split
  · exact mrising_mset _ _ h
  · exact h

/-- A wake changes no other register than the die's ISL_REST. -/
theorem State.unrest_reg {e u : Nat} (hu : u < 2 ^ 23) (hne : (e, u) ≠ (d, oIslRest)) : (s.unrest d i).reg e u = s.reg e u := by
  unfold State.unrest
  dsimp only
  split
  · exact State.setReg_elsewhere h _ (by decide) hu hne
  · rfl

/-- A woken island does not rest. -/
theorem State.unrest_rested : bit ((s.unrest d i).rf d oIslRest islRestRested) i = false := by
  by_cases hb : bit (s.rf d oIslRest islRestRested) i = true
  · rw [State.unrest_wakes hb, State.rf_wf_same h _ _ _ _ (by decide), bit, Nat.testBit_mod_two_pow,
      testBit_sub_two_pow hb, if_pos rfl, Bool.and_false]
  · have hb : bit (s.rf d oIslRest islRestRested) i = false := Bool.eq_false_iff.mpr hb
    rw [State.unrest_awake hb, hb]

/-- The entries in use of a tracker do not depend on what rests. -/
theorem State.unrest_trkInuse : (s.unrest d i).trkInuse d = s.trkInuse d := by
  have hjob : ∀ tag, tag < 256 → (s.unrest d i).jobPart d tag = s.jobPart d tag := fun tag ht =>
    congrArg (getF · thrJobPart) (State.unrest_reg h (by unfold oThrJob; omega)
      (by simp only [ne_eq, Prod.mk.injEq, not_and]; unfold oThrJob oIslRest; omega))
  obtain ⟨x, hx⟩ : ∃ x, s.unrest d i = { s with regs := x } := ⟨_, (RegsOnly.refl s).unrest d i⟩
  rw [hx] at hjob ⊢
  exact State.trkInuse_regs hjob

end

/-! ## A dormant die that an access wakes (17 R718) -/

theorem State.wakeDie_dormant {s : State} (hs : s.canon = true) {d : Nat} (hd : d < 8) : (s.wakeDie d true).dormant d = false := by
  by_cases hdorm : s.dormant d = true
  · have hr : mrising (s.freshIslands d).regs = true := mwf_mrising (mwf_resetRegs (m := s.regs) (State.canon_regs hs))
    rw [State.wakeDie, hdorm]
    show (State.wf (State.wf (State.wf (s.freshIslands d) 0 oPwrStat pwrStatDorm _) 0 oPwrCtl pwrCtlDormreq _) 0 oPwrStat
      pwrStatWakes _).dormant d = false
    rw [State.dormant, State.rf_wf_other (mrising_mset _ _ (mrising_mset _ _ hr)) _ _ _ (by decide) (by decide),
      State.rf_wf_elsewhere (mrising_mset _ _ hr) _ _ _ (by decide), ← State.dormant, State.dormant_wf hr _ hd,
      State.freshIslands_pwrStat (State.canon_regs_rising hs), testBit_sub_two_pow hdorm, if_pos rfl]
  · have hdorm : s.dormant d = false := Bool.eq_false_iff.mpr hdorm
    rw [State.wakeDie, hdorm]
    exact hdorm

/-! ## A write that is allowed -/

section
variable {s : State} {q : Requester} {d o : Nat}

theorem State.staged_place : (s.staged q d o).q = q ∧ (s.staged q d o).d = d ∧ (s.staged q d o).off = o := by
  unfold State.staged
  split
  · next h hf =>
    split
    · next ho =>
      have hh := List.find?_some hf
      simp only [sameHold, Bool.and_eq_true, decide_eq_true_eq] at hh
      exact ⟨hh.1, hh.2, ho⟩
    · exact ⟨rfl, rfl, rfl⟩
  · exact ⟨rfl, rfl, rfl⟩

/-- A word staged is listed, with its bits and its mask. -/
theorem State.stage_lists {k : Nat} (hk : k < 4) (v : Nat) : ∃ h, h ∈ (s.stage q d o k v).stages ∧ h.q = q ∧ h.d = d ∧ h.off = o ∧
    bits h.v.toNat (64 * k) 64 = v % 2 ^ 64 ∧ bit h.mask k = true := by
  obtain ⟨hq, hd, ho⟩ := s.staged_place (q := q) (d := d) (o := o)
  refine ⟨_, List.mem_cons_self, hq, hd, ho, ?_, ?_⟩
  · exact (bits_mergeWords (lo := 0) hk (le_refl _) ..).trans (bits_ofNat_word hk v)
  · exact (Nat.testBit_or ..).trans (by rw [Nat.testBit_two_pow_self, Bool.or_true])

/-- The registers whose write starts nothing. -/
def RegInfo.quiet (r : RegInfo) : Prop :=
  r.off ∉ [0x7F0000, 0x140000, 0x140200, 0x20000, 0x20100, 0x40300, 0x150020, 0x170000, 0x170100]

theorem State.regApply_quiet {r : RegInfo} (hr : r.quiet) (i j : Nat) (v : RegWord) (m : Nat) :
    s.regApply q d r i j v m = s.setReg d (r.at i j) (applyFields q r (s.reg d (r.at i j)) v m) := by
  unfold RegInfo.quiet at hr
  simp only [List.mem_cons, List.not_mem_nil, or_false, not_or] at hr
  unfold State.regApply
  dsimp only
  split
  · omega
  · omega
  · omega
  · split
    · omega
    · omega
    · omega
    · omega
    · omega
    · omega
    · rfl

end

/-- The state in which an access finds its register: the island awake. -/
def State.woken (s : State) (d : Nat) (r : RegInfo) (i : Nat) : State :=
  (if r.isl.poweredOff then s.wakeDie d true else s).unrest d (r.island i)

theorem State.wakeDie_awake {s : State} {d : Nat} (h : s.dormant d = false) (b : Bool) : s.wakeDie d b = s :=
  if_pos (by rw [h]; rfl)

section
variable {s : State} {q : Requester} {d i j k v : Nat} {r : RegInfo}

theorem State.woken_awake (h : s.dormant d = false ∨ r.isl.poweredOff = false) : s.woken d r i = s.unrest d (r.island i) := by
  unfold State.woken
  split
  · next hp =>
    have hd : s.dormant d = false := h.resolve_right (by rw [hp]; decide)
    rw [State.wakeDie_awake hd]
  · rfl

theorem State.regDo_wide (h : 32 < r.bytes) : s.regDo q d r i j k v = if isFw q then s.slotWord d r i k v else s := if_pos h

theorem State.regDo_stages (h : r.bytes ≤ 32) (hk : 0 < k) : s.regDo q d r i j k v = (s.woken d r i).stage q d (r.at i j) k v :=
  (if_neg (Nat.not_lt.mpr h)).trans (if_pos hk)

theorem State.regDo_quiet (h : r.bytes ≤ 32) (hr : r.quiet) : s.regDo q d r i j 0 v =
    State.setReg { s.woken d r i with
      stages := (s.woken d r i).stages.filter (fun h => ! (sameHold q d h && decide (h.off = r.at i j))) } d (r.at i j)
      (applyFields q r ((s.woken d r i).reg d (r.at i j)) ((s.woken d r i).commitWords q d r (r.at i j) v).1
        ((s.woken d r i).commitWords q d r (r.at i j) v).2) := by
  refine ((if_neg (Nat.not_lt.mpr h)).trans (if_neg (Nat.lt_irrefl 0))).trans ?_
  exact State.regApply_quiet hr ..

/-- A write of word 0 to a register that starts nothing, its island awake or resting. -/
theorem State.regDo_quiet_awake (hs : mrising s.regs = true) (hat : Reached r i j 0) (h : r.bytes ≤ 32) (hr : r.quiet)
    (hw : s.dormant d = false ∨ r.isl.poweredOff = false) : s.regDo q d r i j 0 v =
    State.setReg { s.unrest d (r.island i) with
      stages := s.stages.filter (fun h => ! (sameHold q d h && decide (h.off = r.at i j))) } d (r.at i j)
      (applyFields q r (s.reg d (r.at i j)) (s.commitWords q d r (r.at i j) v).1 (s.commitWords q d r (r.at i j) v).2) := by
  have hne : r.at i j ≠ oIslRest := hat.at_ne_rest fun ho => hr (by simp [ho])
  have hreg : (s.unrest d (r.island i)).reg d (r.at i j) = s.reg d (r.at i j) :=
    State.unrest_reg hs hat.at_lt fun he => hne (congrArg Prod.snd he)
  rw [State.regDo_quiet h hr, State.woken_awake hw, hreg]
  obtain ⟨x, hx⟩ : ∃ x, s.unrest d (r.island i) = { s with regs := x } := ⟨_, (RegsOnly.refl s).unrest d _⟩
  rw [hx]
  rfl

/-- A write to a powered-off island of a dormant die wakes the die. -/
theorem State.regDo_wakes (hs : s.canon = true) (hd : d < 8) (hat : Reached r i j k) (h : r.bytes ≤ 32) (hr : r.quiet)
    (hp : r.isl.poweredOff = true) : (s.regDo q d r i j k v).dormant d = false := by
  have hwake : (s.wakeDie d true).canon = true := State.canon_iff.mpr ((Keeps.refl (P := True) s).wakeDie.canon (State.canon_iff.mp hs))
  have hr₁ := State.canon_regs_rising hwake
  have hstat : ∀ o, o < oPwrStat → (0, oPwrStat) ≠ (d, o) := fun o ho he => ho.ne (congrArg Prod.snd he).symm
  have hw : s.woken d r i = (s.wakeDie d true).unrest d (r.island i) := by rw [State.woken, hp]; rfl
  have hdorm : (s.woken d r i).dormant d = false := by
    have hreg : (s.woken d r i).reg 0 oPwrStat = (s.wakeDie d true).reg 0 oPwrStat := by
      rw [hw]
      exact State.unrest_reg hr₁ (by decide) (hstat _ (by decide))
    rw [State.dormant, State.rf, hreg]
    exact State.wakeDie_dormant hs hd
  rcases Nat.eq_zero_or_pos k with rfl | hk
  · have hrise : mrising (s.woken d r i).regs = true := by
      rw [hw]
      exact State.unrest_regs_rising hr₁
    rw [State.regDo_quiet h hr, State.dormant, State.rf]
    refine Eq.trans (congrArg (fun x => bit (getF x pwrStatDorm) d) ?_) hdorm
    exact State.setReg_elsewhere (s := { s.woken d r i with
      stages := (s.woken d r i).stages.filter (fun h => ! (sameHold q d h && decide (h.off = r.at i j))) }) hrise _ hat.at_lt (by decide) (hstat _ (hat.at_lt_pwrStat hp))
  · rw [State.regDo_stages h hk]
    exact hdorm

end

/-! ## The rows of a write and of a read -/

/-- What an access that is not allowed leaves. -/
def State.refused (s : State) (q : Requester) : State := if isBar q then { s with aer := s.aer + 1 } else s

section
variable {s : State} {q : Requester} {d o w v i j k : Nat} {r : RegInfo}

theorem exec_registerWrite_absent (hq : s.hasReq q = true) (hd : s.hasDie d = false) (hb : isBar q = true) (h8 : d < 8) :
    exec (.registerWrite q d o w v) s = .next s := by
  show regWriteRow q d o w v s = _
  rw [regWriteRow, if_neg (by rw [hq]; decide), if_pos (by rw [hd]; rfl), if_pos ⟨hb, h8⟩]

theorem exec_registerWrite (hq : s.hasReq q = true) (hd : s.hasDie d = true) :
    exec (.registerWrite q d o w v) s = .next (if s.reachable q then s.regWrite q d o w v else s) := by
  show regWriteRow q d o w v s = _
  rw [regWriteRow, hq, hd]
  rfl

theorem State.regWrite_nowhere (h : regAt d (barOff q d o) w = none) : s.regWrite q d o w v = s.refused q := by
  unfold State.regWrite
  dsimp only
  rw [h]
  rfl

section
variable (h : regAt d (barOff q d o) w = some (r, i, j, k))
include h

theorem State.regWrite_outside (hw : s.regWindow q (s.qPart q) d r i true = false) : s.regWrite q d o w v = s.refused q := by
  unfold State.regWrite
  dsimp only
  rw [h]
  exact if_pos (by rw [hw]; rfl)

theorem State.regWrite_closed (hw : s.regWindow q (s.qPart q) d r i true = true) (hc : s.regClosed q d r i j k v = true) (hb : isBar q = true) :
    s.regWrite q d o w v = s.refused q := by
  unfold State.regWrite
  dsimp only
  rw [h]
  refine (if_neg (by rw [hw]; decide)).trans ((if_pos hc).trans ?_)
  cases q with
  | firmware n => cases hb
  | bond => cases hb
  | kettle e n => cases hb
  | pf => rfl
  | vf p => rfl

theorem State.regWrite_allowed (hw : s.regWindow q (s.qPart q) d r i true = true) (hc : s.regClosed q d r i j k v = false) :
    s.regWrite q d o w v = s.regDo q d r i j k v := by
  unfold State.regWrite
  dsimp only
  rw [h]
  exact (if_neg (by rw [hw]; decide)).trans (if_neg (by rw [hc]; exact Bool.false_ne_true))

end

theorem exec_registerClearingRead_absent (hq : s.hasReq q = true) (hr : s.reachable q = true) (hd : s.hasDie d = false) (hb : isBar q = true)
    (h8 : d < 8) : exec (.registerClearingRead q d ⟨o, w⟩) s = .next { s with rdata := 0 } := by
  show execRegisterClearingRead q d ⟨o, w⟩ s = _
  rw [execRegisterClearingRead, if_neg (by rw [hq]; decide), if_pos (by rw [hd]; rfl), if_pos ⟨hb, h8⟩, if_pos hr]

theorem exec_registerClearingRead (hq : s.hasReq q = true) (hr : s.reachable q = true) (hd : s.hasDie d = true) :
    exec (.registerClearingRead q d ⟨o, w⟩) s = .next (s.clearingRead q d o w) := by
  show execRegisterClearingRead q d ⟨o, w⟩ s = _
  rw [execRegisterClearingRead, hq, hd, hr]
  rfl

theorem State.clearingRead_nowhere (h : regAt d (barOff q d o) w = none) : s.clearingRead q d o w = s.refused q := by
  unfold State.clearingRead
  dsimp only
  rw [h]
  rfl

section
variable (h : regAt d (barOff q d o) w = some (r, i, j, k))
include h

theorem State.clearingRead_outside (hw : s.regWindow q (s.qPart q) d r i false = false) : s.clearingRead q d o w = s.refused q := by
  unfold State.clearingRead
  dsimp only
  rw [h]
  exact if_neg (by rw [hw]; exact Bool.false_ne_true)

theorem State.clearingRead_inside (hw : s.regWindow q (s.qPart q) d r i false = true) :
    s.clearingRead q d o w = { (s.regRead q d r i j k).2 with rdata := (s.regRead q d r i j k).1 } := by
  unfold State.clearingRead
  dsimp only
  rw [h]
  exact if_pos hw

end

end

/-! ## What a read answers and clears (19 R757, R758) -/

section
variable {s : State} {q : Requester} {d i j k : Nat} {r : RegInfo}

/-- Nothing is read of a powered-off island of a dormant die but its reset value. -/
def State.readsOff (s : State) (d : Nat) (r : RegInfo) : Bool := s.dormant d && r.isl.poweredOff

/-- The state in which a read finds its register. -/
def State.readFrom (s : State) (d : Nat) (r : RegInfo) (i : Nat) : State := if s.readsOff d r then s else s.unrest d (r.island i)

/-- The word that a read finds. -/
def State.readLive (s : State) (d : Nat) (r : RegInfo) (i j : Nat) : RegWord :=
  if s.readsOff d r then resetWord r.flds else (s.readFrom d r i).regLive d r i j

def isKettle : Requester → Bool
  | .kettle _ _ => true
  | _ => false

/-- The capture that a read of word 0 of a wide register keeps. -/
def State.captured (s : State) (q : Requester) (d : Nat) (r : RegInfo) (i j : Nat) (v : RegWord) : State :=
  if r.bytes ≤ 8 then s else { s with caps := { q := q, d := d, off := r.at i j, v := v } :: s.caps.filter (fun h => ! sameHold q d h) }

/-- The fields that a read by q clears. -/
def readClears (q : Requester) (r : RegInfo) (f : Fld) : Bool := f.acc = .rc && (decide (r.off ≠ 0x120000) || isKettle q)

/-- What a field that is cleared goes on from. -/
def State.clearsTo (s : State) (d : Nat) (f : Fld) : Nat := if f = rkTrkPeak then s.trkInuse d else 0

theorem State.regRead_wide (h : 32 < r.bytes) : s.regRead q d r i j k = ((s.reg d (r.at i j + 4 * k)).toNat, s) := if_pos h

theorem State.readFrom_regsOnly : RegsOnly s (s.readFrom d r i) := by
  unfold State.readFrom
  split
  · exact .refl s
  · exact (RegsOnly.refl s).unrest ..

theorem State.readFrom_caps : (s.readFrom d r i).caps = s.caps := (congrArg State.caps State.readFrom_regsOnly).trans rfl

/-- What a read of a word above the first finds: the word captured, or the live one. -/
def State.heldWord (s : State) (q : Requester) (d : Nat) (r : RegInfo) (i j : Nat) : RegWord :=
  match s.caps.find? (sameHold q d) with
  | some h => if h.off = r.at i j then h.v else s.readLive d r i j
  | none => s.readLive d r i j

theorem State.regRead_held (h : r.bytes ≤ 32) (hk : 0 < k) :
    s.regRead q d r i j k = (bits (s.heldWord q d r i j).toNat (64 * k) 64, s.readFrom d r i) := by
  refine (if_neg (Nat.not_lt.mpr h)).trans ((if_pos hk).trans ?_)
  show (match (s.readFrom d r i).caps.find? (sameHold q d) with
    | some h => (bits (if h.off = r.at i j then h.v else s.readLive d r i j).toNat (64 * k) 64, s.readFrom d r i)
    | none => (bits (s.readLive d r i j).toNat (64 * k) 64, s.readFrom d r i)) = _
  rw [State.readFrom_caps, State.heldWord]
  cases s.caps.find? (sameHold q d) <;> rfl

theorem State.regRead_first (h : r.bytes ≤ 32) : s.regRead q d r i j 0 = (bits (s.readLive d r i j).toNat 0 64,
    let t := (s.readFrom d r i).captured q d r i j (s.readLive d r i j)
    if r.flds.filter (readClears q r) = [] ∨ s.readsOff d r then t
    else t.wfs d (r.at i j) ((r.flds.filter (readClears q r)).map (fun f => (f, t.clearsTo d f)))) :=
  (if_neg (Nat.not_lt.mpr h)).trans ((if_neg (Nat.lt_irrefl 0)).trans rfl)

theorem setFs_filter_map (c : Fld → Bool) (g : Fld → Nat) (fs : List Fld) (w : RegWord) :
    setFs w ((fs.filter c).map (fun f => (f, g f))) = putFields c g fs w := by
  induction fs generalizing w with
  | nil => rfl
  | cons f fs ih =>
    rw [putFields, List.foldl_cons, putField, ← putFields]
    by_cases hc : c f = true
    · rw [List.filter_cons_of_pos hc, if_pos hc, List.map_cons, setFs, ih]
    · rw [List.filter_cons_of_neg hc, if_neg hc, ih]

/-- The state in which a read of word 0 has kept its capture. -/
def State.readCaptured (s : State) (q : Requester) (d : Nat) (r : RegInfo) (i j : Nat) : State :=
  (s.readFrom d r i).captured q d r i j (s.readLive d r i j)

/-- A read of word 0 clears nothing of a powered-off island nor where no field is read to clear; else it clears those fields. -/
theorem State.regRead_clears (h : r.bytes ≤ 32) :
    ((s.regRead q d r i j 0).2 = s.readCaptured q d r i j ∧ (s.readsOff d r = true ∨ ∀ f, f ∈ r.flds → readClears q r f = false)) ∨
    (s.readsOff d r = false ∧ (∃ f, f ∈ r.flds ∧ readClears q r f = true) ∧
      (s.regRead q d r i j 0).2 = (s.readCaptured q d r i j).setReg d (r.at i j)
      (putFields (readClears q r) ((s.readCaptured q d r i j).clearsTo d) r.flds ((s.readCaptured q d r i j).reg d (r.at i j)))) := by
  rw [State.regRead_first h]
  dsimp only
  by_cases hc : r.flds.filter (readClears q r) = [] ∨ s.readsOff d r = true
  · rw [if_pos hc]
    refine .inl ⟨rfl, hc.symm.imp_right fun he f hf => ?_⟩
    exact Bool.eq_false_iff.mpr (List.filter_eq_nil_iff.mp he f hf)
  · rw [if_neg hc, State.wfs, setFs_filter_map]
    rw [not_or] at hc
    obtain ⟨f, hf⟩ := List.exists_mem_of_ne_nil _ hc.1
    exact .inr ⟨Bool.eq_false_iff.mpr hc.2, ⟨f, List.mem_filter.mp hf⟩, rfl⟩

theorem State.readCaptured_frame : s.readCaptured q d r i j = { s with
    regs := (s.readFrom d r i).regs,
    caps := if r.bytes ≤ 8 then s.caps
      else { q := q, d := d, off := r.at i j, v := s.readLive d r i j } :: s.caps.filter (fun h => ! sameHold q d h) } := by
  obtain ⟨x, hx⟩ : ∃ x, s.readFrom d r i = { s with regs := x } := ⟨_, State.readFrom_regsOnly⟩
  unfold State.readCaptured State.captured
  rw [hx]
  split <;> rfl

theorem State.readCaptured_reg (e u : Nat) : (s.readCaptured q d r i j).reg e u = (s.readFrom d r i).reg e u := by
  rw [State.readCaptured_frame]; rfl

section
variable (hs : mrising s.regs = true)
include hs

theorem State.readFrom_reg {e u : Nat} (hu : u < 2 ^ 23) (hne : (e, u) ≠ (d, oIslRest)) : (s.readFrom d r i).reg e u = s.reg e u := by
  unfold State.readFrom
  split
  · rfl
  · exact State.unrest_reg hs hu hne

theorem State.readCaptured_rising : mrising (s.readCaptured q d r i j).regs = true := by
  rw [State.readCaptured_frame]
  unfold State.readFrom
  split
  · exact hs
  · exact State.unrest_regs_rising hs

theorem State.readCaptured_rested (h : s.readsOff d r = false) :
    bit ((s.readCaptured q d r i j).rf d oIslRest islRestRested) (r.island i) = false := by
  rw [State.rf, State.readCaptured_reg, State.readFrom, if_neg (by rw [h]; exact Bool.false_ne_true)]
  exact State.unrest_rested hs

theorem State.readCaptured_clearsTo (f : Fld) : (s.readCaptured q d r i j).clearsTo d f = s.clearsTo d f := by
  have htrk : (s.readFrom d r i).trkInuse d = s.trkInuse d := by
    unfold State.readFrom
    split
    · rfl
    · exact State.unrest_trkInuse hs
  have hcap : (s.readCaptured q d r i j).trkInuse d = (s.readFrom d r i).trkInuse d := by
    unfold State.readCaptured State.captured
    split <;> rfl
  rw [State.clearsTo, hcap, htrk, State.clearsTo]

variable (hat : Reached r i j 0) (hb : r.bytes ≤ 32)
include hat hb

/-- What a read of word 0 leaves in the fields of its register. -/
theorem State.regRead_rf {f : Fld} (hf : f ∈ r.flds) (hr : r.off ≠ 0x170000) : (s.regRead q d r i j 0).2.rf d (r.at i j) f =
    if readClears q r f = true ∧ s.readsOff d r = false then s.clearsTo d f % 2 ^ f.w else s.rf d (r.at i j) f := by
  have hreg : (s.readCaptured q d r i j).reg d (r.at i j) = s.reg d (r.at i j) := by
    rw [State.readCaptured_reg]
    exact State.readFrom_reg hs hat.at_lt fun he => hat.at_ne_rest hr (congrArg Prod.snd he)
  rcases State.regRead_clears (s := s) (q := q) (d := d) (i := i) (j := j) hb with ⟨he, hno⟩ | ⟨hoff, -, he⟩
  · have hc : ¬ (readClears q r f = true ∧ s.readsOff d r = false) := fun ⟨hc, ho⟩ => by
      rcases hno with h | h
      · cases h.symm.trans ho
      · cases (h f hf).symm.trans hc
    rw [if_neg hc, he, State.rf, hreg, State.rf]
  · rw [he, State.rf, State.reg_same (State.readCaptured_rising hs), getF_putFields hat.fieldsOk hf, hreg, hoff,
      State.readCaptured_clearsTo hs]
    simp only [and_true]
    rfl

/-- No other register changes but the die's ISL_REST. -/
theorem State.regRead_reg {e u : Nat} (hu : u < 2 ^ 23) (hne : (e, u) ≠ (d, r.at i j)) :
    (s.regRead q d r i j 0).2.reg e u = (s.readFrom d r i).reg e u := by
  rcases State.regRead_clears (s := s) (q := q) (d := d) (i := i) (j := j) hb with ⟨he, -⟩ | ⟨-, -, he⟩
  · rw [he, State.readCaptured_reg]
  · rw [he, State.setReg_elsewhere (State.readCaptured_rising hs) _ hat.at_lt hu hne, State.readCaptured_reg]

theorem State.regRead_rested (h : s.readsOff d r = false) :
    bit ((s.regRead q d r i j 0).2.rf d oIslRest islRestRested) (r.island i) = false := by
  rcases State.regRead_clears (s := s) (q := q) (d := d) (i := i) (j := j) hb with ⟨he, -⟩ | ⟨-, ⟨f, hf, hc⟩, he⟩
  · rw [he]
    exact State.readCaptured_rested hs h
  · have hr : r.off ≠ 0x170000 := fun ho => by
      have hacc := hat.not_rc ho hf
      simp only [readClears, Bool.and_eq_true, decide_eq_true_eq] at hc
      exact hacc hc.1
    have hne : (d, oIslRest) ≠ (d, r.at i j) := fun he => hat.at_ne_rest hr (congrArg Prod.snd he).symm
    rw [he, State.rf, State.setReg_elsewhere (State.readCaptured_rising hs) _ hat.at_lt (by decide) hne]
    exact State.readCaptured_rested hs h

omit hs hat in
theorem State.regRead_frame : ∃ x, (s.regRead q d r i j 0).2 = { s with
    regs := x,
    caps := if r.bytes ≤ 8 then s.caps
      else { q := q, d := d, off := r.at i j, v := s.readLive d r i j } :: s.caps.filter (fun h => ! sameHold q d h) } := by
  rcases State.regRead_clears (s := s) (q := q) (d := d) (i := i) (j := j) hb with ⟨he, -⟩ | ⟨-, -, he⟩
  · exact ⟨_, he.trans State.readCaptured_frame⟩
  · rw [he, State.readCaptured_frame]
    exact ⟨_, rfl⟩

end

end

/-! ## What a write of word 0 to a quiet register gives -/

section
variable {s : State} {q : Requester} {d i j v : Nat} {r : RegInfo} (hs : mrising s.regs = true) (hat : Reached r i j 0) (hb : r.bytes ≤ 32)
  (hr : r.quiet) (hw : s.dormant d = false ∨ r.isl.poweredOff = false)
include hs hat hb hr hw

theorem State.regDo_rf {f : Fld} (hf : f ∈ r.flds) : (s.regDo q d r i j 0 v).rf d (r.at i j) f = if fieldOpen q r f = true then
    fieldGets (s.reg d (r.at i j)) (s.commitWords q d r (r.at i j) v).1 (s.commitWords q d r (r.at i j) v).2 f
    else s.rf d (r.at i j) f := by
  rw [State.regDo_quiet_awake hs hat hb hr hw, State.rf]
  refine Eq.trans (congrArg (getF · f) (State.reg_same (s := { s.unrest d (r.island i) with stages := _ }) (State.unrest_regs_rising hs) ..)) ?_
  exact getF_applyFields hat.fieldsOk hf ..

theorem State.regDo_reg {e u : Nat} (hu : u < 2 ^ 23) (hne : (e, u) ≠ (d, r.at i j)) :
    (s.regDo q d r i j 0 v).reg e u = (s.unrest d (r.island i)).reg e u := by
  rw [State.regDo_quiet_awake hs hat hb hr hw]
  exact State.setReg_elsewhere (s := { s.unrest d (r.island i) with stages := _ }) (State.unrest_regs_rising hs) _ hat.at_lt hu hne

theorem State.regDo_rested : bit ((s.regDo q d r i j 0 v).rf d oIslRest islRestRested) (r.island i) = false := by
  have hne : r.at i j ≠ oIslRest := hat.at_ne_rest fun ho => hr (by simp [ho])
  rw [State.rf, State.regDo_reg (u := oIslRest) hs hat hb hr hw (by decide) fun he => hne (congrArg Prod.snd he).symm]
  exact State.unrest_rested hs

theorem State.regDo_frame : ∃ x, s.regDo q d r i j 0 v = { s with
    regs := x, stages := s.stages.filter (fun h => ! (sameHold q d h && decide (h.off = r.at i j))) } := by
  obtain ⟨x, hx⟩ : ∃ x, s.unrest d (r.island i) = { s with regs := x } := ⟨_, (RegsOnly.refl s).unrest d _⟩
  rw [State.regDo_quiet_awake hs hat hb hr hw, hx]
  exact ⟨_, rfl⟩

end

/-- Settles O38: a write runs `State.regWrite`, whose equations say what is refused, staged and stored (`State.regDo_rf`, `State.regDo_reg`);
a read runs `State.regRead`, whose equations say what is answered and cleared. -/
theorem registerAccessFollowsItsFields : Obligations.RegisterAccessFollowsItsFields := by
  refine ⟨?_, ?_⟩
  · intro s q d o w v hs hq refused
    have hrise := State.canon_regs_rising hs
    refine ⟨fun hd hbar h8 => exec_registerWrite_absent hq hd hbar h8, fun hd hr => ?_, fun hd hr => ?_⟩
    · rw [exec_registerWrite hq hd, hr]; rfl
    have hrow : exec (.registerWrite q d o w v) s = .next (s.regWrite q d o w v) := by rw [exec_registerWrite hq hd, hr]; rfl
    rw [hrow]
    refine ⟨fun h => congrArg _ (State.regWrite_nowhere h), fun r i j k h =>
      ⟨fun hwin => congrArg _ (State.regWrite_outside h hwin), fun hwin => ?_⟩⟩
    have hat := reached_of_regAt h
    have hallowed := fun hc => State.regWrite_allowed h hwin hc (v := v)
    intro c old woke awake quiet
    refine ⟨fun hbar hc => congrArg _ (State.regWrite_closed h hwin hc hbar), fun hbytes hc => ?_, fun haw hk hbytes => ?_,
      fun haw hquiet hbytes hc => ?_, fun haw hquiet hk hbytes hc => ?_⟩
    · rw [hallowed hc, State.regDo_wide hbytes]
    · have hc : s.regClosed q d r i j k v = false := (if_neg (Nat.not_lt.mpr hbytes)).trans (if_pos hk)
      rw [hallowed hc, State.regDo_stages hbytes hk, State.woken_awake haw]
      exact goesOn_next ⟨State.stage_lists (hat.word hbytes) v, rfl⟩
    · simp only [awake, not_or, Bool.not_eq_false] at haw
      rw [hallowed hc]
      exact goesOn_next (State.regDo_wakes hs ((of_decide_eq_true hd : d < s.nDies).trans_le s.nDies_le) hat hbytes hquiet haw.2)
    · subst hk
      rw [hallowed hc]
      have hrf : ∀ f, f ∈ r.flds → (s.regDo q d r i j 0 v).rf d (r.at i j) f =
          if fieldOpen q r f = true then fieldGets (s.reg d (r.at i j)) c.1 c.2 f else old f := fun f hf => State.regDo_rf hrise hat hbytes hquiet haw hf
      obtain ⟨x, hx⟩ := State.regDo_frame (q := q) (v := v) hrise hat hbytes hquiet haw
      refine goesOn_next ⟨fun f hf => hrf f hf, fun h8 f hf => ?_, fun e u hu hne hrest => ?_,
        State.regDo_rested hrise hat hbytes hquiet haw, ?_, ?_⟩
      · have hc : c = (BitVec.ofNat 256 (v % 2 ^ 64), 1) := if_pos h8
        rw [hrf f hf, hc, fieldGets_oneWord (hat.oneWord h8 hf)]
        rfl
      · exact (State.regDo_reg hrise hat hbytes hquiet haw hu hne).trans (State.unrest_reg hrise hu hrest)
      · rw [hx]
      · rw [hx]
  · intro s q d o w hs hq hr refused c ket
    have hrise := State.canon_regs_rising hs
    refine ⟨fun hd hbar h8 => exec_registerClearingRead_absent hq hr hd hbar h8, fun hd h => ?_, fun r i j k hd h => ?_⟩
    · exact (exec_registerClearingRead hq hr hd).trans (congrArg _ (State.clearingRead_nowhere h))
    have hrow : exec c s = .next (s.clearingRead q d o w) := exec_registerClearingRead hq hr hd
    have hat := reached_of_regAt h
    rw [hrow]
    refine ⟨fun hwin => congrArg _ (State.clearingRead_outside h hwin), fun hwin => ?_⟩
    rw [State.clearingRead_inside h hwin]
    intro off woke live
    refine ⟨fun hbytes => ?_, fun hk hbytes => ?_, fun hk hbytes => ?_⟩
    · rw [State.regRead_wide hbytes]
    · rw [State.regRead_held hbytes hk]
      rfl
    · subst hk
      obtain ⟨x, hx⟩ := State.regRead_frame (s := s) (q := q) (d := d) (r := r) (i := i) (j := j) hbytes
      refine goesOn_next ⟨?_, fun f hf hrest => ?_, fun e u hu hne hrest => ?_, fun hoff => ?_, ?_, ?_⟩
      · rw [State.regRead_first hbytes]
        rfl
      · refine (State.regRead_rf hrise hat hbytes hf hrest).trans ?_
        have hcond : (readClears q r f = true ∧ s.readsOff d r = false) ↔
            f.acc = .rc ∧ (r.off ≠ 0x120000 ∨ ket = true) ∧ off = false := by
          have hket : isKettle q = ket := rfl
          have hoff : s.readsOff d r = off := rfl
          simp only [readClears, Bool.and_eq_true, Bool.or_eq_true, decide_eq_true_eq, hket, hoff, and_assoc]
        refine (if_congr hcond rfl rfl).trans (if_congr Iff.rfl ?_ rfl)
        unfold State.clearsTo
        split
        · rfl
        · exact Nat.zero_mod _
      · exact (State.regRead_reg hrise hat hbytes hu hne).trans (State.readFrom_reg hrise hu hrest)
      · exact State.regRead_rested hrise hat hbytes hoff
      · rw [hx]; rfl
      · rw [hx]

end Sys2Proof.Machine
end
